-- ==== Sys2Proof/Word.lean ====
section
/-! DEFINITION. The byte of the highway and of the packets. -/

namespace Sys2Proof

/-- One byte: a timeslot of the highway, a byte of a packet or of a lamp cell (00, 11.8). -/
abbrev Byte := BitVec 8

end Sys2Proof
end

