-- ==== Sys2Proof/Config.lean ====
section
/-! DEFINITION. The sizes and bounds the spec fixes. The part leaves no value to an implementation and no result undefined, so there is no
free value here. -/

namespace Sys2Proof.Config

/-- Samples of a segment and of a page buffer (00, R18). -/
abbrev segmentSamples : Nat := 2048
/-- Samples of a meter window (R46). -/
abbrev windowSamples : Nat := 64
/-- Segments of one store device (R68). -/
abbrev deviceSegments : Nat := 262144
/-- Session contexts (R17). -/
abbrev sessions : Nat := 48
/-- Entries of the body table (R99). -/
abbrev bodies : Nat := 65536
/-- Entries of the message table (R122). -/
abbrev records : Nat := 32768
/-- Entries of the mailbox directory (R118). -/
abbrev mailboxes : Nat := 4096
/-- Entries of the lamp address table (R168). -/
abbrev lampAddresses : Nat := 16384
/-- Distribution lists (R153). -/
abbrev lists : Nat := 64
/-- Member entries of the member area (R153). -/
abbrev memberEntries : Nat := 8192
/-- Members of one list at most (R153). -/
abbrev listMembers : Nat := 512
/-- Places of the delivery job queue (R158). -/
abbrev jobs : Nat := 4
/-- Places of the inbox (R200). -/
abbrev inboxPlaces : Nat := 8
/-- Places of the outbox (R203). -/
abbrev outboxPlaces : Nat := 16
/-- Timeslots of a frame (section 1). -/
abbrev timeslots : Nat := 128
/-- Frames of one second on the highway (R14). -/
abbrev secondFrames : Nat := 8000
/-- LOSC periods of one second (R188). -/
abbrev secondPeriods : Nat := 8000000
/-- LOSC periods without a frame after which a session is lost (R43). -/
abbrev lossPeriods : Nat := 16000000
/-- Requests in the program queue at which programs overtake reads (R77). -/
abbrev programPressure : Nat := 32
/-- Greatest magnitude of the companding law (R11). -/
abbrev fullScale : Nat := 3952
/-- Greatest level of the meter, sixteen times full scale (R49). -/
abbrev levelMax : Nat := 63232
/-- Greatest duration reported, in tenths of a second (R67). -/
abbrev durationMax : Nat := 6000
/-- Greatest extension number and caller extension (R118, R122). -/
abbrev extensionMax : Nat := 9999999

end Sys2Proof.Config
end

