-- ==== Sys2Proof/Syntax.lean ====
section
/-! DEFINITION. The commands of the part: one constructor for each row of spec/opcode_table.json. -/

namespace Sys2Proof

/-- Which of the four store selects have a device that answers the probe of the store check (R89). -/
structure Selects where
  scs0 : Bool
  scs1 : Bool
  scs2 : Bool
  scs3 : Bool
deriving DecidableEq, Repr

/-- One command. The events come first, then the orders of 11.8. An order carries the tag and the parameter bytes of its packet, as
they stand after the order code and the tag (R197). -/
inductive Instr where
  /-- POWER_ON (R88): RESET_N asserted and released, with the devices that answer and whether PFW_N is low at the release. -/
  | powerOn (selects : Selects) (pfwLow : Bool)
  /-- FREEZE (R97): PFW_N falls. -/
  | freeze
  /-- SYNC_PULSE (R1): a pulse on HSYNC, its width in HCLK periods, and whether it falls at the expected position. -/
  | syncPulse (width : Nat) (expected : Bool)
  /-- FRAME (R2): a frame boundary and the frame it begins, with the 128 bytes of HRX. -/
  | frame (hrx : List Byte)
  /-- HCLK_LOSS (R3). -/
  | hclkLoss
  /-- SECONDS_PULSE (R14). -/
  | secondsPulse
  /-- LOCAL_SECOND (R188). -/
  | localSecond
  /-- WINDOW_END (R47) of a record session. -/
  | windowEnd (session : Nat)
  /-- LOSS_TIMER_EXPIRY (R43) of a session. -/
  | lossTimerExpiry (session : Nat)
  /-- RETRY_DUE (R180) of a lamp address, by its address number. -/
  | retryDue (address : Nat)
  /-- OPEN RECORD ($10; R19, R20, R21). -/
  | openRecord (tag : Byte) (params : List Byte)
  /-- OPEN PLAY ($11; R22). -/
  | openPlay (tag : Byte) (params : List Byte)
  /-- STOP ($12; R36). -/
  | stop (tag : Byte) (params : List Byte)
  /-- CANCEL ($13; R37). -/
  | cancel (tag : Byte) (params : List Byte)
  /-- PAUSE ($14; R38). -/
  | pause (tag : Byte) (params : List Byte)
  /-- RESUME ($15; R38). -/
  | resume (tag : Byte) (params : List Byte)
  /-- SEEK ($16; R39). -/
  | seek (tag : Byte) (params : List Byte)
  /-- CLOSE ($17; R40). -/
  | close (tag : Byte) (params : List Byte)
  /-- SESSION STATUS ($18; R41). -/
  | sessionStatus (tag : Byte) (params : List Byte)
  /-- READ_COMPLETE (R81): the read in flight ends, and whether the check given with the data holds. -/
  | readComplete (good : Bool)
  /-- PROGRAM_COMPLETE (R83, R84): the program in flight ends, and whether the device reports success. -/
  | programComplete (good : Bool)
  /-- ERASE_COMPLETE (R85): the erase in flight ends, and whether the device reports success. -/
  | eraseComplete (good : Bool)
  /-- STORE_OP_TIMEOUT (R79). -/
  | storeOpTimeout
  /-- CATALOGUE_WRITE_COMPLETE (R80). -/
  | catalogueWriteComplete
  /-- ENTER_SERVICE (R87). -/
  | enterService
  /-- RESTART_RESET (R208), with the devices that answer the probe. -/
  | restartReset (selects : Selects)
  /-- DELIVERY_RECIPIENT (R160). -/
  | deliveryRecipient
  /-- SWEEP_EXAMINATION (R194). -/
  | sweepExamination
  /-- LIST ($20; R137). -/
  | list (tag : Byte) (params : List Byte)
  /-- MARK ($21; R131). -/
  | mark (tag : Byte) (params : List Byte)
  /-- DELETE ($22; R134). -/
  | delete (tag : Byte) (params : List Byte)
  /-- PURGE ($23; R135). -/
  | purge (tag : Byte) (params : List Byte)
  /-- LOAD CLASS ($28; R116). -/
  | loadClass (tag : Byte) (params : List Byte)
  /-- READ CLASS ($29; R117). -/
  | readClass (tag : Byte) (params : List Byte)
  /-- LOAD MAILBOX ($2A; R119). -/
  | loadMailbox (tag : Byte) (params : List Byte)
  /-- READ MAILBOX ($2B; R121). -/
  | readMailbox (tag : Byte) (params : List Byte)
  /-- SELECT GREETING ($30; R147). -/
  | selectGreeting (tag : Byte) (params : List Byte)
  /-- ERASE GREETING ($31; R149). -/
  | eraseGreeting (tag : Byte) (params : List Byte)
  /-- LIST CLEAR ($38; R155). -/
  | listClear (tag : Byte) (params : List Byte)
  /-- LIST ADD ($39; R154). -/
  | listAdd (tag : Byte) (params : List Byte)
  /-- READ LIST ($3A; R156). -/
  | readList (tag : Byte) (params : List Byte)
  /-- DELIVER ($3B; R159). -/
  | deliver (tag : Byte) (params : List Byte)
  /-- CANCEL DELIVERY ($3C; R163). -/
  | cancelDelivery (tag : Byte) (params : List Byte)
  /-- CLEAR FAULT ($40; R182). -/
  | clearFault (tag : Byte) (params : List Byte)
  /-- LAMP STATUS ($41; R183). -/
  | lampStatus (tag : Byte) (params : List Byte)
  /-- SET CLOCK ($48; R190). -/
  | setClock (tag : Byte) (params : List Byte)
  /-- READ CLOCK ($49; R191). -/
  | readClock (tag : Byte) (params : List Byte)
  /-- SWEEP ($4A; R193). -/
  | sweep (tag : Byte) (params : List Byte)
  /-- STATUS ($50; R207). -/
  | status (tag : Byte) (params : List Byte)
  /-- SET OPTIONS ($51; R206). -/
  | setOptions (tag : Byte) (params : List Byte)
  /-- READ OPTIONS ($52; R206). -/
  | readOptions (tag : Byte) (params : List Byte)
  /-- CLEAR FLAGS ($53; R205). -/
  | clearFlags (tag : Byte) (params : List Byte)
  /-- FORMAT ($54; R96). -/
  | format (tag : Byte) (params : List Byte)
  /-- RESTART ($55; R208). -/
  | restart (tag : Byte) (params : List Byte)
  /-- UNKNOWN_ORDER (R202): an order whose code is none of 11.8. -/
  | unknownOrder (code : Byte) (tag : Byte) (params : List Byte)
deriving DecidableEq, Repr

end Sys2Proof
end

