-- ==== Sys2Proof/Machine/Table.lean ====
section
/-! DEFINITION. Sparse tables: the one form in which the model holds addressed storage (page buffers, flash, catalogue tables, on-chip tables). -/

namespace Sys2Proof

/-- A sparse table: entries by rising key. -/
abbrev Tab (α : Type) := List (Nat × α)

namespace Tab

variable {α : Type}

/-- The entry listed at a key. -/
def find? : Tab α → Nat → Option α
  | [], _ => none
  | (k, v) :: t, n => if n = k then some v else find? t n

/-- List an entry, in its place by key, in place of any entry the key had. -/
def insert (n : Nat) (v : α) : Tab α → Tab α
  | [] => [(n, v)]
  | (k, w) :: t => if n < k then (n, v) :: (k, w) :: t else if n = k then (n, v) :: t else (k, w) :: insert n v t

/-- Take a key's entry out. -/
def erase (n : Nat) (t : Tab α) : Tab α := t.filter (fun e => e.1 ≠ n)

/-- List or take out: a free entry is an unlisted one. -/
def put (n : Nat) (v : Option α) (t : Tab α) : Tab α :=
  match v with
  | none => erase n t
  | some v => insert n v t

/-- What a key reads as, where an unlisted key reads as `d`. -/
def get (d : α) (t : Tab α) (n : Nat) : α := (find? t n).getD d

/-- Write a key, where an unlisted key reads as `d`: writing `d` takes the entry out. -/
def set [DecidableEq α] (d : α) (n : Nat) (v : α) (t : Tab α) : Tab α :=
  if v = d then erase n t else insert n v t

/-- The lowest key, from `n` up, that a table with rising keys does not list. -/
def lowestFreeFrom (n : Nat) : Tab α → Nat
  | [] => n
  | (k, _) :: t => if k = n then lowestFreeFrom (n + 1) t else n

/-- The lowest key not listed. -/
def lowestFree (t : Tab α) : Nat := lowestFreeFrom 0 t

/-- A key lies above a bound, where one is given. -/
def above : Option Nat → Nat → Bool
  | none, _ => true
  | some l, n => decide (l < n)

/-- Keys strictly rise, all above `lo` where it is given. -/
def risingFrom : Option Nat → Tab α → Bool
  | _, [] => true
  | lo, (k, _) :: t => above lo k && risingFrom (some k) t

/-- The canonical form where an unlisted key reads as `d`: keys strictly rise and no entry equals `d`. -/
def wf [DecidableEq α] (d : α) (t : Tab α) : Bool := risingFrom none t && t.all (fun e => decide (e.2 ≠ d))

end Tab

end Sys2Proof
end

