-- ==== Sys2Proof/Machine/State.lean ====
section
/-! DEFINITION. Everything the spec gives the part, as plain data, block by block, and the state after reset. -/

namespace Sys2Proof.Machine

/-- Why a step stops the machine. The spec gives every condition of the part an effect (an answer, an event, a service state), so nothing
raises a fault and there is none. -/
inductive Fault : Type
deriving DecidableEq, Repr

/-- Why a command has no meaning. -/
inductive Refusal where
  /-- The command's meaning is not written yet. Raised by an arm of exec only; safe. No arm raises it. -/
  | notModelled (mnemonic : String)
deriving DecidableEq, Repr

/-! ## Codes of 11.8 -/

/-- Sync states (R2, R3). -/
inductive SyncState where | locked | flywheel | search | confirm
deriving DecidableEq, Repr

/-- A pulse that is a sync (R1). -/
inductive SyncKind where | single | double
deriving DecidableEq, Repr

/-- Session kinds (section 2.1). -/
inductive SessKind where | recordMessage | recordGreeting | play
deriving DecidableEq, Repr

/-- Session states (section 2.1). -/
inductive SessState where | free | cue | waitOnset | taking | draining | fetching | playing | stalled | paused | ended
deriving DecidableEq, Repr

/-- Outcomes, and the causes that end a take (R42). -/
inductive Cause where
  | silence | maxLength | stopped | cancelled | noSpeech | tooShort | quota | storeFull | storeBusy | slotLost | frozen | finished
deriving DecidableEq, Repr

/-- Greeting kinds (R141). -/
inductive GreetingKind where | standard | busy | absent | name
deriving DecidableEq, Repr

/-- A session's target (section 2.1, R41). A greeting slot's mailbox is the session's mailbox. -/
inductive Target where
  | none
  | record (r : Nat)
  | slot (kind : GreetingKind)
deriving DecidableEq, Repr

/-- Roles of a page buffer (R18). -/
inductive BufRole where | idle | filling | queued | reading | stale | prefetched | playing
deriving DecidableEq, Repr

/-- Record states (R122). -/
inductive RecState where | recording | new | heard | saved
deriving DecidableEq, Repr

/-- Segment states (R68). -/
inductive SegState where | erased | allocated | data | dirty | retired
deriving DecidableEq, Repr

/-- Lamp patterns (R166). -/
inductive Pattern where | off | steady | slow | fast
deriving DecidableEq, Repr

/-- Lamp fault states (section 9.5). -/
inductive FaultState where | clear | suspect | latched | retryWait
deriving DecidableEq, Repr

/-- Lamp fault kinds (section 9.5). -/
inductive FaultKind where | openCircuit | short | noAnswer
deriving DecidableEq, Repr

/-- Lamp fault modes (section 9.5, R206). -/
inductive FaultMode where | latch | retry | report | ignore
deriving DecidableEq, Repr

/-- Service states (section 4.6). -/
inductive Service where | starting | service | frozen
deriving DecidableEq, Repr

/-- Causes of a start (R87). -/
inductive StartCause where | powerOn | restart | format
deriving DecidableEq, Repr

/-- Causes of a retention sweep (R193). -/
inductive SweepCause where | automatic | order
deriving DecidableEq, Repr

/-- Sources of the clock's seconds (R188). -/
inductive ClockSource where | highway | losc
deriving DecidableEq, Repr

/-- The level meter's verdict on a window (R53). -/
inductive Voice where | silent | speech
deriving DecidableEq, Repr

/-! ## Section 1: the highway interface -/

/-- The HWI less its slot map (section 1). -/
structure Hwi where
  sync : SyncState
  /-- Consecutive missing syncs in FLYWHEEL (R2). -/
  misses : Nat
  /-- Expected syncs present in CONFIRM (R3). -/
  confirms : Nat
  /-- The number of the frame in progress, absent while unaligned (R4). -/
  frameNo : Option Nat
  slips : Nat
  /-- A sync has been taken that begins a frame whose FRAME has not come yet (R1, R2). -/
  frameBegun : Bool
  /-- The seconds divider (R14). -/
  divider : Nat
  pulseValid : Bool
  /-- The divider has returned to 0 and its pulse has not been taken yet (R14: a restart may still come first). -/
  pulseDue : Bool
  /-- The frame last driven on HTX, by timeslot (R5, R7, R10). -/
  htx : List Byte
deriving DecidableEq, Repr

/-! ## Sections 2 and 3: sessions and meters -/

/-- Samples by position, an unlisted position reading 0. -/
abbrev Samples := Tab Int

/-- A page buffer (R18). -/
structure Buffer where
  role : BufRole
  /-- The take segment (record) or chain position (play) it holds or is named for. -/
  holds : Nat
  samples : Samples
deriving DecidableEq, Repr

/-- A level meter (section 3.1). -/
structure Meter where
  sum : Nat
  mean : Nat
  level : Nat
  floor : Nat
  /-- E_on and E_off, absent until the first window closes (R46). -/
  eOn : Option Nat
  eOff : Option Nat
  voice : Voice
  onset : Option Nat
  lastSpeech : Option Nat
  silenceRun : Nat
deriving DecidableEq, Repr

/-- The class snapshot of a record session with its counts (section 2.1, R56). -/
structure Snapshot where
  mask : Nat
  tOn : Nat
  tOff : Nat
  margin : Nat
  preRoll : Nat
  hangover : Nat
  endSilenceWindows : Nat
  noSpeechWindows : Nat
  maxSamples : Nat
  minSamples : Nat
deriving DecidableEq, Repr

/-- The trim of a take (R61, R62). -/
structure Trim where
  startSample : Nat
  endSample : Nat
  first : Nat
  last : Nat
  offset : Nat
  count : Nat
deriving DecidableEq, Repr

/-- A session context (section 2.1). -/
structure Session where
  kind : Option SessKind
  state : SessState
  inSlot : Option Nat
  outSlot : Option Nat
  mailbox : Nat
  target : Target
  body : Option Nat
  cursor : Nat
  windows : Nat
  meter : Option Meter
  snap : Option Snapshot
  cueLength : Nat
  releaseOnReport : Bool
  closing : Bool
  endCause : Option Cause
  outcome : Option Cause
  underruns : Nat
  readFaults : Nat
  lossTimer : Nat
  pausedFrom : Option SessState
  trim : Option Trim
  /-- The take has been discarded (R27): the duration reported is 0 (R41). -/
  discarded : Bool
  /-- One more than the take segment of the latest program of the take that has completed, linked or gone DIRTY under the trim (R66). -/
  programmed : Nat
  buf0 : Buffer
  buf1 : Buffer
deriving DecidableEq, Repr

/-! ## Section 4: the segment store -/

/-- A segment map entry (R68). -/
structure SegEntry where
  state : SegState
  body : Option Nat
  next : Option Nat
  eraseFailures : Nat
deriving DecidableEq, Repr

/-- A run of segments of consecutive rising numbers. -/
structure Run where
  start : Nat
  count : Nat
deriving DecidableEq, Repr

/-- A program request (section 4.3). -/
structure ProgReq where
  session : Nat
  buf : Nat
  body : Nat
  takeSegment : Nat
deriving DecidableEq, Repr

/-- A read request (section 4.3). -/
structure ReadReq where
  session : Nat
  buf : Nat
  segment : Nat
deriving DecidableEq, Repr

/-- The store link (sections 4.4 and 4.5). -/
inductive Link where
  | idle
  /-- A program has taken its segment, and the ALLOCATED state is being recorded (R83). -/
  | allocating (req : ProgReq) (segment : Nat) (wanted : Bool)
  | programming (req : ProgReq) (segment : Nat) (wanted : Bool)
  /-- A read, in its first or second attempt (R81). -/
  | reading (req : ReadReq) (attempt : Nat)
  | erasing (segment : Nat)
  /-- The operation has ended and its result is being recorded (R79). -/
  | recording
deriving DecidableEq, Repr

/-- What START_DONE will say of the check or FORMAT under way (R87). -/
structure StartReport where
  cause : StartCause
  cleared : Bool
  keptCut : Nat
  recordsReleased : Nat
  bodiesReleased : Nat
deriving DecidableEq, Repr

/-- The SSC (section 4). -/
structure Ssc where
  service : Service
  devices : Nat
  freeList : List Nat
  /-- The erase queue, head first, consecutive numbers joined into runs. -/
  eraseQueue : List Run
  readQueue : List ReadReq
  progQueue : List ProgReq
  link : Link
  /-- LOSC periods since the operation in flight was issued (R79). -/
  opTimer : Nat
  poolLow : Bool
  start : Option StartReport
  /-- What the store devices hold. -/
  flash : Tab Samples
deriving DecidableEq, Repr

/-! ## Section 5: bodies -/

/-- The catalogue's part of a body entry (R99). -/
structure Body where
  sealed : Bool
  first : Option Nat
  last : Option Nat
  count : Nat
  offset : Option Nat
  samples : Option Nat
  share : Nat
deriving DecidableEq, Repr

/-- The on-chip part of a body entry (R99). -/
structure BodyHold where
  begun : Nat
  pins : Nat
  readers : Nat
deriving DecidableEq, Repr

/-! ## Section 6: classes, mailboxes, messages -/

/-- A class (R115). -/
structure MailClass where
  maxMessages : Nat
  quota : Nat
  maxMessage : Nat
  minMessage : Nat
  maxGreeting : Nat
  noSpeech : Nat
  endSilence : Nat
  preRoll : Nat
  hangover : Nat
  mask : Nat
  tOn : Nat
  tOff : Nat
  margin : Nat
  heardRetention : Nat
  savedRetention : Nat
deriving DecidableEq, Repr

/-- The loaded fields of a mailbox (R118). Lamp addresses stand by their address numbers (section 9). -/
structure BoxFields where
  extension : Nat
  cls : Nat
  enabled : Bool
  accepts : Bool
  lampsOn : Bool
  active : GreetingKind
  lamps : List Nat
deriving DecidableEq, Repr

/-- A loaded mailbox (R118, R123). -/
structure Mailbox where
  fields : BoxFields
  head : Option Nat
  tail : Option Nat
deriving DecidableEq, Repr

/-- The derived fields of a mailbox (R118, R125). -/
structure Counters where
  new : Nat
  urgent : Nat
  heard : Nat
  saved : Nat
  recording : Nat
  total : Nat
  charged : Nat
deriving DecidableEq, Repr

/-- A message record (R122). -/
structure Record where
  mailbox : Nat
  body : Nat
  state : RecState
  urgent : Bool
  cut : Bool
  /-- Day number and second of day. -/
  arrival : Option (Nat × Nat)
  caller : Option Nat
  sender : Option Nat
  heardDay : Option Nat
  resume : Option Nat
  prev : Option Nat
  next : Option Nat
deriving DecidableEq, Repr

/-! ## Section 7: greetings -/

/-- A greeting slot (R141). -/
structure Slot where
  held : Option Nat
  staged : Option Nat
deriving DecidableEq, Repr

/-! ## Section 8: lists and jobs -/

/-- A distribution list (R153, R157). -/
structure DistList where
  first : Option Nat
  last : Option Nat
  count : Nat
deriving DecidableEq, Repr

/-- A member entry in use (R153, R157). -/
structure Member where
  mailbox : Nat
  next : Option Nat
deriving DecidableEq, Repr

/-- A job's target (R158). -/
inductive JobTarget where
  | list (l : Nat)
  | mailbox (m : Nat)
deriving DecidableEq, Repr

/-- The skip counts of a job (R158). -/
structure Skips where
  disabled : Nat
  notAccepting : Nat
  full : Nat
  quota : Nat
  tableFull : Nat
  sourceBox : Nat
deriving DecidableEq, Repr

/-- A delivery job (R158). The job at the head of the queue is RUNNING and the others are QUEUED. -/
structure Job where
  number : Nat
  sourceBox : Nat
  sourceRecord : Nat
  body : Nat
  extent : Nat
  caller : Option Nat
  target : JobTarget
  recipients : Nat
  urgent : Bool
  skipSource : Bool
  nextPos : Nat
  current : Option Nat
  cancel : Bool
  delivered : Nat
  skips : Skips
deriving DecidableEq, Repr

/-- The DLE's volatile state (R158). -/
structure Dle where
  queue : List Job
  nextNumber : Nat
deriving DecidableEq, Repr

/-! ## Section 9: lamps -/

/-- A lamp address table entry (R168). -/
structure LampEntry where
  refs : Nat
  steady : Nat
  slow : Nat
  fast : Nat
  lastSent : Option Pattern
  fault : FaultState
  kind : Option FaultKind
  confirm : Nat
  retryDue : Option Nat
  reported : Option FaultKind
  queued : Bool
deriving DecidableEq, Repr

/-- An awaiting entry (R174): its cell position, its superframe, and the address and pattern sent, absent for an idle cell. -/
structure Awaiting where
  position : Nat
  superframe : Nat
  sent : Option (Nat × Pattern)
deriving DecidableEq, Repr

/-- The LMP (section 9). -/
structure Lmp where
  /-- Mailbox patterns, an unlisted mailbox being OFF (R167). -/
  patterns : Tab Pattern
  /-- The lamp address table, an unlisted address being as reset (R168). -/
  table : Tab LampEntry
  changeQueue : List Nat
  awaiting : List Awaiting
  sweepPointer : Nat
  /-- The second count (R180). -/
  seconds : Nat
  /-- Superframes begun since the last restart indication (R174). -/
  superframe : Nat
  /-- The bytes not yet handed of the outbound cell in progress (R174). -/
  outCell : List Byte
  /-- The bytes received of the inbound cell in progress (R175). -/
  inCell : Option (List Byte)
deriving DecidableEq, Repr

/-! ## Section 10: the calendar -/

/-- The retention sweep (R193). -/
structure Sweep where
  running : Bool
  cause : SweepCause
  pointer : Nat
  deleted : Nat
  stamped : Nat
  startDay : Nat
deriving DecidableEq, Repr

/-- The CAL (section 10). -/
structure Cal where
  year : Nat
  month : Nat
  day : Nat
  hour : Nat
  minute : Nat
  second : Nat
  valid : Bool
  source : ClockSource
  /-- The local sub-second count (R188). -/
  subCount : Nat
  sweep : Sweep
deriving DecidableEq, Repr

/-- One snapshot of the calendar, for stamps (R192). -/
structure Now where
  day : Nat
  second : Nat
  valid : Bool
deriving DecidableEq, Repr

/-! ## Section 11: the management channel -/

/-- The part settings (R206). -/
structure Settings where
  noticesOn : Bool
  /-- The enables of the ten notice kinds, as 11.8 places their bits. -/
  kindsOn : BitVec 16
  modeOpen : FaultMode
  modeShort : FaultMode
  modeNoAnswer : FaultMode
  retryInterval : Nat
  confirmCount : Nat
  sweepHour : Nat
  poolReserve : Nat
  cueLevel : Nat
  cueLength : Nat
deriving DecidableEq, Repr

/-- Progress of a RESTART (R208). -/
inductive Restart where
  | none
  /-- Ordered: so many packets, the answer the last of them, have still to leave the outbox. -/
  | answering (packets : Nat)
  /-- The answer has left. -/
  | due
deriving DecidableEq, Repr

/-- The MGC (section 11), its settings apart. -/
structure Mgc where
  /-- The receiver: absent in HUNT, otherwise the bytes kept since the lead byte (R198). -/
  rx : Option (List Byte)
  /-- Bodies of the good packets waiting (R200). -/
  inbox : List (List Byte)
  /-- Whole packets (R203). -/
  outbox : List (List Byte)
  /-- Bytes of the head packet already handed (R203). -/
  handed : Nat
  /-- An order is being handled, and a place is reserved for its answer (R202). -/
  handling : Bool
  /-- The flags, as 11.8 places their bits (R204). -/
  flags : BitVec 16
  lengthErrors : Nat
  checkErrors : Nat
  overruns : Nat
  gateOpen : Bool
  errorNoted : Bool
  restart : Restart
deriving DecidableEq, Repr

/-! ## The catalogue memory -/

/-- The catalogue tables (00, Persistence). -/
structure Catalogue where
  /-- The signature: the number of store devices at formatting, absent before any (R89). -/
  signature : Option Nat
  /-- The segment map, an unlisted segment being DIRTY with no erase failure (R68, R91). -/
  segments : Tab SegEntry
  bodies : Tab Body
  /-- Classes, an unlisted one holding the defaults (R115). -/
  classes : Tab MailClass
  mailboxes : Tab Mailbox
  records : Tab Record
  /-- Greeting slots by 4 × mailbox + kind, an unlisted one being empty (R141). -/
  slots : Tab Slot
  /-- Distribution lists, an unlisted one being empty (R153). -/
  lists : Tab DistList
  members : Tab Member
  settings : Settings
deriving DecidableEq, Repr

/-- One catalogue write. Where no rule says how many writes a change is, the model's choice is one for each entry, for an entry of the mailbox directory one
for its loaded fields, its head and its tail each, and for the two below one for the whole change: DESIGN CHOICE (log 47; safe). -/
inductive CatWrite where
  | signature (v : Option Nat)
  /-- The tables of R91, all at once: the signature, absent until then, is written by a later write. That the rest of the format is one write is a DESIGN
  CHOICE (log 47; safe). -/
  | blank
  /-- The map cut to so many segments (R89), in one write: DESIGN CHOICE (log 47; safe). -/
  | cutMap (segments : Nat)
  | segment (i : Nat) (e : SegEntry)
  | body (b : Nat) (e : Option Body)
  | cls (k : Nat) (c : MailClass)
  | boxFields (m : Nat) (f : BoxFields)
  | boxHead (m : Nat) (r : Option Nat)
  | boxTail (m : Nat) (r : Option Nat)
  | record (r : Nat) (e : Option Record)
  | recordPrev (r : Nat) (p : Option Nat)
  | recordNext (r : Nat) (n : Option Nat)
  | slot (k : Nat) (e : Slot)
  | list (l : Nat) (e : DistList)
  | member (e : Nat) (v : Option Member)
  | settings (v : Settings)
deriving DecidableEq, Repr

/-- What the completion of a sequence of writes brings. -/
inductive Then where
  | nothing
  /-- A program's segment is recorded ALLOCATED: the program is issued (R83). -/
  | allocated
  /-- A store operation's result is recorded: the link is idle (R79). -/
  | recorded
  /-- A cut chain is in the catalogue: the segments removed are handed to the SSC (R103). -/
  | cut (segments : List Nat)
  /-- A delivered copy's writes are complete (R160). -/
  | copied
  /-- An order's answer is placed (R100). -/
  | answer (packet : List Byte)
deriving DecidableEq, Repr

/-- A sequence of catalogue writes, each asked for when the one before it has completed (R80). -/
structure CatSeq where
  writes : List CatWrite
  after : Then
deriving DecidableEq, Repr

/-! ## The state -/

/-- Every block but the HWI's highway side and the CAL. -/
structure Engine where
  /-- The slot map (section 1.3). -/
  slotsIn : Tab Nat
  slotsOut : Tab Nat
  /-- The session table, an unlisted context being FREE with idle, empty buffers. -/
  sessions : Tab Session
  ssc : Ssc
  /-- Buffers begun, pins and readers, an unlisted body having none (R99). -/
  holds : Tab BodyHold
  /-- Derived fields of the mailboxes, unlisted ones being 0 (R118). -/
  counters : Tab Counters
  dle : Dle
  lmp : Lmp
  mgc : Mgc
  /-- The catalogue tables as the blocks see them: `cat` with every write asked for since. -/
  tab : Catalogue
  /-- The catalogue memory. -/
  cat : Catalogue
  /-- The sequences of writes in progress; the first write of the first is in flight (R80). -/
  catQueue : List CatSeq
  /-- The writes the step in progress has asked for so far; empty between steps. -/
  asked : List CatWrite
deriving DecidableEq, Repr

/-- The part, and the commands that wait for it. -/
structure State where
  hwi : Hwi
  cal : Cal
  eng : Engine
  /-- Commands waiting, first in, first out. -/
  pending : List Instr
deriving DecidableEq, Repr

/-! ## Reset -/

/-- A buffer as after reset: idle; its samples are DESIGN CHOICE 0 (log 10; unsafe). -/
def Buffer.empty : Buffer := { role := .idle, holds := 0, samples := [] }

/-- A FREE context (R17) over given buffers. -/
def Session.freeWith (b0 b1 : Buffer) : Session :=
  { kind := none, state := .free, inSlot := none, outSlot := none, mailbox := 0, target := .none, body := none, cursor := 0, windows := 0,
    meter := none, snap := none, cueLength := 0, releaseOnReport := false, closing := false, endCause := none, outcome := none,
    underruns := 0, readFaults := 0, lossTimer := 0, pausedFrom := none, trim := none, discarded := false, programmed := 0, buf0 := b0, buf1 := b1 }

/-- A context after reset (R17). -/
def Session.reset : Session := Session.freeWith Buffer.empty Buffer.empty

/-- A segment the map does not list (R91). -/
def SegEntry.blank : SegEntry := { state := .dirty, body := none, next := none, eraseFailures := 0 }

def BodyHold.zero : BodyHold := { begun := 0, pins := 0, readers := 0 }

def Counters.zero : Counters := { new := 0, urgent := 0, heard := 0, saved := 0, recording := 0, total := 0, charged := 0 }

def Slot.empty : Slot := { held := none, staged := none }

def DistList.empty : DistList := { first := none, last := none, count := 0 }

/-- The defaults of a class (R115). -/
def MailClass.default : MailClass :=
  { maxMessages := 40, quota := 2400, maxMessage := 180, minMessage := 10, maxGreeting := 60, noSpeech := 5, endSilence := 30,
    preRoll := 12, hangover := 25, mask := 40, tOn := 200, tOff := 120, margin := 40, heardRetention := 14, savedRetention := 60 }

/-- The settings' blank-catalogue defaults (R206). -/
def Settings.default : Settings :=
  { noticesOn := false, kindsOn := 0x03FF, modeOpen := .report, modeShort := .latch, modeNoAnswer := .retry, retryInterval := 10,
    confirmCount := 2, sweepHour := 3, poolReserve := 1024, cueLevel := 1, cueLength := 25 }

/-- A lamp address table entry after reset (R168). -/
def LampEntry.reset : LampEntry :=
  { refs := 0, steady := 0, slow := 0, fast := 0, lastSent := none, fault := .clear, kind := none, confirm := 0, retryDue := none,
    reported := none, queued := false }

/-- The LMP after power-on and RESTART (R167, R168, R171, R173, R180, R185). -/
def Lmp.reset : Lmp :=
  { patterns := [], table := [], changeQueue := [], awaiting := [], sweepPointer := 16383, seconds := 0, superframe := 0, outCell := [],
    inCell := none }

/-- A catalogue with the blank-catalogue tables (R91) and no signature. -/
def Catalogue.blank : Catalogue :=
  { signature := none, segments := [], bodies := [], classes := [], mailboxes := [], records := [], slots := [], lists := [], members := [],
    settings := Settings.default }

/-- The HWI after power-on and RESTART (R16). -/
def Hwi.reset : Hwi :=
  { sync := .search, misses := 0, confirms := 0, frameNo := none, slips := 0, frameBegun := false, divider := 0, pulseValid := false,
    pulseDue := false, htx := List.replicate 3 0xFF ++ List.replicate 125 0x00 }

/-- The sweep after power-on and RESTART (R193); cause, pointer and start day are DESIGN CHOICE (log 22; unsafe). -/
def Sweep.reset : Sweep := { running := false, cause := .automatic, pointer := 0, deleted := 0, stamped := 0, startDay := 0 }

/-- The CAL after power-on (R187, R193). -/
def Cal.reset : Cal :=
  { year := 0, month := 1, day := 1, hour := 0, minute := 0, second := 0, valid := false, source := .losc, subCount := 0,
    sweep := Sweep.reset }

/-- The MGC after power-on and RESTART (R199, R201, R203, R204, R208, R209). -/
def Mgc.reset : Mgc :=
  { rx := none, inbox := [], outbox := [], handed := 0, handling := false, flags := 0, lengthErrors := 0, checkErrors := 0, overruns := 0,
    gateOpen := true, errorNoted := false, restart := .none }

/-- The SSC after power-on and RESTART, before the store check (R88), over what the store devices hold. -/
def Ssc.reset (flash : Tab Samples) : Ssc :=
  { service := .starting, devices := 0, freeList := [], eraseQueue := [], readQueue := [], progQueue := [], link := .idle, opTimer := 0,
    poolLow := false, start := none, flash := flash }

/-- Every volatile block reset over a catalogue memory and the store devices, before the store check (R17, R88, R112, R158, R185). -/
def Engine.reset (cat : Catalogue) (flash : Tab Samples) : Engine :=
  { slotsIn := [], slotsOut := [], sessions := [], ssc := Ssc.reset flash, holds := [], counters := [], dle := { queue := [], nextNumber := 1 },
    lmp := Lmp.reset, mgc := Mgc.reset, tab := cat, cat := cat, catQueue := [], asked := [] }

/-- The part with RESET_N asserted for the first time: every volatile block reset, the catalogue memory never formatted, no device probed yet
(log 1). POWER_ON, as the first command, runs the store check. -/
def State.reset : State :=
  { hwi := Hwi.reset, cal := Cal.reset, eng := Engine.reset Catalogue.blank [], pending := [] }

end Sys2Proof.Machine
end

