-- ==== Sys2Proof/Machine/Bytes.lean ====
section
/-! DEFINITION. Byte order, optional fields and the codes of 11.8, and the framing of packets (R197). -/

namespace Sys2Proof.Machine

/-! ## Numbers as bytes (11.8: most significant byte first) -/

/-- A number in one byte. -/
def be1 (n : Nat) : List Byte := [BitVec.ofNat 8 n]

/-- A number in two bytes. -/
def be2 (n : Nat) : List Byte := [BitVec.ofNat 8 (n / 256), BitVec.ofNat 8 n]

/-- A number in three bytes. -/
def be3 (n : Nat) : List Byte := [BitVec.ofNat 8 (n / 65536), BitVec.ofNat 8 (n / 256), BitVec.ofNat 8 n]

/-- An optional number: every byte $FF when absent (11.8). -/
def opt1 : Option Nat → List Byte
  | none => [0xFF]
  | some n => be1 n

def opt2 : Option Nat → List Byte
  | none => [0xFF, 0xFF]
  | some n => be2 n

def opt3 : Option Nat → List Byte
  | none => [0xFF, 0xFF, 0xFF]
  | some n => be3 n

/-- A yes/no byte (11.8). -/
def yes1 (b : Bool) : List Byte := [if b then 1 else 0]

/-- A bit mask of notice kinds, in two bytes (11.8). -/
def mask2 (m : BitVec 16) : List Byte := be2 m.toNat

/-- A lamp address as shelf, card and circuit (11.8, section 9). -/
def lamp3 (a : Nat) : List Byte := be1 (a / 1024) ++ be1 (a / 32 % 32) ++ be1 (a % 32)

/-! ## Codes (11.8) -/

def SessState.code : SessState → Nat
  | .free => 0 | .cue => 1 | .waitOnset => 2 | .taking => 3 | .draining => 4 | .fetching => 5 | .playing => 6 | .stalled => 7
  | .paused => 8 | .ended => 9

def SessKind.code : SessKind → Nat
  | .recordMessage => 0 | .recordGreeting => 1 | .play => 2

def Cause.code : Cause → Nat
  | .silence => 0 | .maxLength => 1 | .stopped => 2 | .cancelled => 3 | .noSpeech => 4 | .tooShort => 5 | .quota => 6 | .storeFull => 7
  | .storeBusy => 8 | .slotLost => 9 | .frozen => 10 | .finished => 11

def GreetingKind.code : GreetingKind → Nat
  | .standard => 0 | .busy => 1 | .absent => 2 | .name => 3

/-- The greeting kind of a code (11.8). -/
def GreetingKind.ofCode : Nat → Option GreetingKind
  | 0 => some .standard
  | 1 => some .busy
  | 2 => some .absent
  | 3 => some .name
  | _ => none

/-- A target's kind code and number (R41). -/
def Target.kindCode : Target → Nat
  | .none => 0 | .record _ => 1 | .slot _ => 2

def Target.number : Target → Option Nat
  | .none => Option.none
  | .record r => Option.some r
  | .slot g => Option.some g.code

def RecState.code : RecState → Nat
  | .recording => 0 | .new => 1 | .heard => 2 | .saved => 3

def Pattern.code : Pattern → Nat
  | .off => 0 | .steady => 1 | .slow => 2 | .fast => 3

def FaultState.code : FaultState → Nat
  | .clear => 0 | .suspect => 1 | .latched => 2 | .retryWait => 3

def FaultKind.code : FaultKind → Nat
  | .openCircuit => 1 | .short => 2 | .noAnswer => 3

def FaultMode.code : FaultMode → Nat
  | .latch => 0 | .retry => 1 | .report => 2 | .ignore => 3

/-- The lamp fault mode of a code (11.8). -/
def FaultMode.ofCode : Nat → Option FaultMode
  | 0 => some .latch
  | 1 => some .retry
  | 2 => some .report
  | 3 => some .ignore
  | _ => none

/-- FROZEN has no code: no answer leaves a frozen part (R97). -/
def Service.code : Service → Nat
  | .starting => 0 | .service => 1 | .frozen => 1

def SyncState.code : SyncState → Nat
  | .locked => 0 | .flywheel => 1 | .search => 2 | .confirm => 3

def ClockSource.code : ClockSource → Nat
  | .highway => 0 | .losc => 1

def SweepCause.code : SweepCause → Nat
  | .automatic => 0 | .order => 1

def StartCause.code : StartCause → Nat
  | .powerOn => 0 | .restart => 1 | .format => 2

/-- The operation of a STORE_FAULT (R86). -/
inductive StoreOp where | read | program | erase
deriving DecidableEq, Repr

def StoreOp.code : StoreOp → Nat
  | .read => 0 | .program => 1 | .erase => 2

/-- The cause of a STORE_FAULT (R86). -/
inductive StoreCause where | check | device | time
deriving DecidableEq, Repr

def StoreCause.code : StoreCause → Nat
  | .check => 0 | .device => 1 | .time => 2

/-- Result codes of answers (11.3). -/
inductive Result where | done | busy | notReady | badField | badLength | noSuch | full | storeFull | wrongState | unknown
deriving DecidableEq, Repr

def Result.code : Result → Nat
  | .done => 0 | .busy => 1 | .notReady => 2 | .badField => 3 | .badLength => 4 | .noSuch => 5 | .full => 6 | .storeFull => 7
  | .wrongState => 8 | .unknown => 9

/-- Notice kinds (11.8). -/
inductive NoticeKind where
  | sessionEnd | deliveryDone | sweepDone | lampFault | lampCleared | storeFault | poolLow | highway | mgmtErrors | startDone
deriving DecidableEq, Repr

def NoticeKind.code : NoticeKind → Nat
  | .sessionEnd => 1 | .deliveryDone => 2 | .sweepDone => 3 | .lampFault => 4 | .lampCleared => 5 | .storeFault => 6 | .poolLow => 7
  | .highway => 8 | .mgmtErrors => 9 | .startDone => 10

/-- The bit of a notice kind in a mask: bit k − 1 for the kind with code k (11.8). -/
def NoticeKind.bit (k : NoticeKind) : BitVec 16 := BitVec.twoPow 16 (k.code - 1)

/-- The bits of a mask that name a kind. -/
def kindBits : BitVec 16 := 0x03FF

/-! ## Packets -/

/-- The 8-bit sum of bytes. -/
def byteSum (bs : List Byte) : Byte := bs.foldl (· + ·) 0

/-- A packet over a body: lead byte, length, body, check (R197). -/
def packet (body : List Byte) : List Byte :=
  let n : Byte := BitVec.ofNat 8 body.length
  [0xC3, n] ++ body ++ [0 - (n + byteSum body)]

/-- The packet of an answer (R197). -/
def answerPacket (tag : Byte) (r : Result) (data : List Byte) : List Byte :=
  packet ([0x01, tag] ++ be1 r.code ++ data)

/-- The packet of a notice (R197). -/
def noticePacket (k : NoticeKind) (data : List Byte) : List Byte :=
  packet ([0x02] ++ be1 k.code ++ data)

/-- The body of the packet that carries an order: code, tag, parameters (R197). An event has none. -/
def orderBody : Instr → Option (List Byte)
  | .powerOn _ _ => none
  | .freeze => none
  | .syncPulse _ _ => none
  | .frame _ => none
  | .hclkLoss => none
  | .secondsPulse => none
  | .localSecond => none
  | .windowEnd _ => none
  | .lossTimerExpiry _ => none
  | .retryDue _ => none
  | .readComplete _ => none
  | .programComplete _ => none
  | .eraseComplete _ => none
  | .storeOpTimeout => none
  | .catalogueWriteComplete => none
  | .enterService => none
  | .restartReset _ => none
  | .deliveryRecipient => none
  | .sweepExamination => none
  | .openRecord tag ps => some (0x10 :: tag :: ps)
  | .openPlay tag ps => some (0x11 :: tag :: ps)
  | .stop tag ps => some (0x12 :: tag :: ps)
  | .cancel tag ps => some (0x13 :: tag :: ps)
  | .pause tag ps => some (0x14 :: tag :: ps)
  | .resume tag ps => some (0x15 :: tag :: ps)
  | .seek tag ps => some (0x16 :: tag :: ps)
  | .close tag ps => some (0x17 :: tag :: ps)
  | .sessionStatus tag ps => some (0x18 :: tag :: ps)
  | .list tag ps => some (0x20 :: tag :: ps)
  | .mark tag ps => some (0x21 :: tag :: ps)
  | .delete tag ps => some (0x22 :: tag :: ps)
  | .purge tag ps => some (0x23 :: tag :: ps)
  | .loadClass tag ps => some (0x28 :: tag :: ps)
  | .readClass tag ps => some (0x29 :: tag :: ps)
  | .loadMailbox tag ps => some (0x2A :: tag :: ps)
  | .readMailbox tag ps => some (0x2B :: tag :: ps)
  | .selectGreeting tag ps => some (0x30 :: tag :: ps)
  | .eraseGreeting tag ps => some (0x31 :: tag :: ps)
  | .listClear tag ps => some (0x38 :: tag :: ps)
  | .listAdd tag ps => some (0x39 :: tag :: ps)
  | .readList tag ps => some (0x3A :: tag :: ps)
  | .deliver tag ps => some (0x3B :: tag :: ps)
  | .cancelDelivery tag ps => some (0x3C :: tag :: ps)
  | .clearFault tag ps => some (0x40 :: tag :: ps)
  | .lampStatus tag ps => some (0x41 :: tag :: ps)
  | .setClock tag ps => some (0x48 :: tag :: ps)
  | .readClock tag ps => some (0x49 :: tag :: ps)
  | .sweep tag ps => some (0x4A :: tag :: ps)
  | .status tag ps => some (0x50 :: tag :: ps)
  | .setOptions tag ps => some (0x51 :: tag :: ps)
  | .readOptions tag ps => some (0x52 :: tag :: ps)
  | .clearFlags tag ps => some (0x53 :: tag :: ps)
  | .format tag ps => some (0x54 :: tag :: ps)
  | .restart tag ps => some (0x55 :: tag :: ps)
  | .unknownOrder code tag ps => some (code :: tag :: ps)

/-- The duration of a body of so many samples, in tenths (R67). -/
def tenths (count : Nat) : Nat := min Config.durationMax ((count + 799) / 800)

end Sys2Proof.Machine
end

