-- ==== Sys2Proof/Machine/Ops.lean ====
section
/-! DEFINITION. Named accessors of the state and the catalogue writes (R80): every block reads and changes its state through these. -/

namespace Sys2Proof.Machine

/-! ## Reading and writing the tables -/

/-- Do something to the blocks other than the HWI's highway side and the CAL. -/
def State.onEng (f : Engine → Engine) (s : State) : State := { s with eng := f s.eng }

def Engine.session (e : Engine) (k : Nat) : Session := Tab.get Session.reset e.sessions k

def Engine.setSession (k : Nat) (x : Session) (e : Engine) : Engine :=
  { e with sessions := Tab.set Session.reset k x e.sessions }

/-- Change one session context. -/
def Engine.modSession (k : Nat) (f : Session → Session) (e : Engine) : Engine := e.setSession k (f (e.session k))

def Session.buf (x : Session) (b : Nat) : Buffer := if b = 0 then x.buf0 else x.buf1

def Session.setBuf (b : Nat) (v : Buffer) (x : Session) : Session :=
  if b = 0 then { x with buf0 := v } else { x with buf1 := v }

/-- Change one page buffer of a session context. -/
def Engine.modBuf (k b : Nat) (f : Buffer → Buffer) (e : Engine) : Engine :=
  e.modSession k (fun x => x.setBuf b (f (x.buf b)))

/-- Make a page buffer idle, its samples as they are (R18). -/
def Buffer.idled (b : Buffer) : Buffer := { b with role := .idle, holds := 0 }

def Engine.segment (e : Engine) (i : Nat) : SegEntry := Tab.get SegEntry.blank e.tab.segments i

def Engine.body (e : Engine) (b : Nat) : Option Body := Tab.find? e.tab.bodies b

def Engine.hold (e : Engine) (b : Nat) : BodyHold := Tab.get BodyHold.zero e.holds b

/-- Change the on-chip counts of a body. -/
def Engine.modHold (b : Nat) (f : BodyHold → BodyHold) (e : Engine) : Engine :=
  { e with holds := Tab.set BodyHold.zero b (f (e.hold b)) e.holds }

def Engine.cls (e : Engine) (k : Nat) : MailClass := Tab.get MailClass.default e.tab.classes k

def Engine.mailbox (e : Engine) (m : Nat) : Option Mailbox := Tab.find? e.tab.mailboxes m

def Engine.record (e : Engine) (r : Nat) : Option Record := Tab.find? e.tab.records r

def Engine.counter (e : Engine) (m : Nat) : Counters := Tab.get Counters.zero e.counters m

/-- Change the derived fields of a mailbox. -/
def Engine.modCounter (m : Nat) (f : Counters → Counters) (e : Engine) : Engine :=
  { e with counters := Tab.set Counters.zero m (f (e.counter m)) e.counters }

/-- The class of a loaded mailbox. -/
def Engine.boxClass (e : Engine) (m : Nat) : MailClass := e.cls ((e.mailbox m).map (·.fields.cls) |>.getD 0)

/-- The key of a greeting slot. -/
def slotKey (m : Nat) (g : GreetingKind) : Nat := 4 * m + g.code

def Engine.slot (e : Engine) (m : Nat) (g : GreetingKind) : Slot := Tab.get Slot.empty e.tab.slots (slotKey m g)

def Engine.list (e : Engine) (l : Nat) : DistList := Tab.get DistList.empty e.tab.lists l

def Engine.lamp (e : Engine) (a : Nat) : LampEntry := Tab.get LampEntry.reset e.lmp.table a

/-- Segments in the store, by the signature of the catalogue (R68, R89). -/
def Engine.segmentTotal (e : Engine) : Nat := e.tab.signature.getD 0 * Config.deviceSegments

/-! ## Catalogue writes -/

/-- What a write leaves in the catalogue. -/
def CatWrite.apply (c : Catalogue) : CatWrite → Catalogue
  | .signature v => { c with signature := v }
  | .blank => { Catalogue.blank with signature := c.signature }
  | .cutMap n => { c with segments := c.segments.filter (fun e => e.1 < n) }
  | .segment i e => { c with segments := Tab.set SegEntry.blank i e c.segments }
  | .body b e => { c with bodies := Tab.put b e c.bodies }
  | .cls k v => { c with classes := Tab.set MailClass.default k v c.classes }
  | .boxFields m f =>
    let old := Tab.find? c.mailboxes m
    { c with mailboxes := Tab.insert m { fields := f, head := old.bind (·.head), tail := old.bind (·.tail) } c.mailboxes }
  | .boxHead m r =>
    match Tab.find? c.mailboxes m with
    | none => c
    | some b => { c with mailboxes := Tab.insert m { b with head := r } c.mailboxes }
  | .boxTail m r =>
    match Tab.find? c.mailboxes m with
    | none => c
    | some b => { c with mailboxes := Tab.insert m { b with tail := r } c.mailboxes }
  | .record r e => { c with records := Tab.put r e c.records }
  | .recordPrev r p =>
    match Tab.find? c.records r with
    | none => c
    | some x => { c with records := Tab.insert r { x with prev := p } c.records }
  | .recordNext r n =>
    match Tab.find? c.records r with
    | none => c
    | some x => { c with records := Tab.insert r { x with next := n } c.records }
  | .slot k v => { c with slots := Tab.set Slot.empty k v c.slots }
  | .list l v => { c with lists := Tab.set DistList.empty l v c.lists }
  | .member i v => { c with members := Tab.put i v c.members }
  | .settings v => { c with settings := v }

/-- The place in the catalogue that a write changes. -/
inductive CatPlace where
  | whole | segment (i : Nat) | body (b : Nat) | cls (k : Nat) | mailbox (m : Nat) | record (r : Nat) | slot (k : Nat) | list (l : Nat)
  | member (e : Nat) | settings
deriving DecidableEq, Repr

def CatWrite.place : CatWrite → CatPlace
  | .signature _ => .whole
  | .blank => .whole
  | .cutMap _ => .whole
  | .segment i _ => .segment i
  | .body b _ => .body b
  | .cls k _ => .cls k
  | .boxFields m _ => .mailbox m
  | .boxHead m _ => .mailbox m
  | .boxTail m _ => .mailbox m
  | .record r _ => .record r
  | .recordPrev r _ => .record r
  | .recordNext r _ => .record r
  | .slot k _ => .slot k
  | .list l _ => .list l
  | .member i _ => .member i
  | .settings _ => .settings

/-- Two sequences write a common place. -/
def CatSeq.meets (x y : CatSeq) : Bool := x.writes.any (fun w => y.writes.any (fun v => w.place = v.place))

/-- A block asks for the next write of its sequence when the one before has completed: it joins behind the writes other blocks have asked
for meanwhile (R80), but keeps ahead of a later sequence over the same place (log 5). -/
def requeue (x : CatSeq) : List CatSeq → List CatSeq
  | [] => [x]
  | y :: q => if x.meets y then x :: y :: q else y :: requeue x q

/-- Ask for a catalogue write: the blocks see the change at once. -/
def Engine.put (w : CatWrite) (e : Engine) : Engine := { e with tab := w.apply e.tab, asked := e.asked ++ [w] }

/-- A sequence that belongs to the store operation in flight (R97). -/
def CatSeq.ofStore (x : CatSeq) : Bool := x.after = .allocated || x.after = .recorded

/-- No further catalogue write may begin but those of the store operation in flight: in FROZEN (R97), and once the answer of a RESTART has
left (R88). -/
def Engine.halted (e : Engine) : Bool := e.ssc.service = .frozen || e.mgc.restart = .due

/-- The writes asked for so far become one sequence, to be followed by `t`. A halted part begins no sequence but a store operation's. -/
def Engine.flush (t : Then) (e : Engine) : Engine :=
  if e.asked = [] then e
  else if e.halted && !(t = .allocated || t = .recorded) then { e with asked := [] }
  else { e with asked := [], catQueue := e.catQueue ++ [{ writes := e.asked, after := t }] }

/-- What is left of the queue of sequences when the part halts: the write in flight, and the sequences of the store operation in flight (R97). -/
def haltQueue : List CatSeq → List CatSeq
  | [] => []
  | x :: q => (if x.ofStore then x else { writes := x.writes.take 1, after := .nothing }) :: q.filter CatSeq.ofStore

end Sys2Proof.Machine
end

