-- ==== Sys2Proof/Machine/Flags.lean ====
section
/-! DEFINITION. Flags and notices (R204), the error counters and the report gate (R201), and the placing of answers (R202). -/

namespace Sys2Proof.Machine

def Engine.modMgc (f : Mgc → Mgc) (e : Engine) : Engine := { e with mgc := f e.mgc }

/-- Places of the outbox taken or reserved (R202, R204). -/
def Mgc.taken (g : Mgc) : Nat := g.outbox.length + (if g.handling then 1 else 0)

/-- A notice offered now is placed: the enables allow it and a place is free that no answer has reserved (R204). In FROZEN the outbox stands
(R203, R209), and behind the answer of a RESTART that has left nothing is placed (R208). -/
def Engine.placesNotice (k : NoticeKind) (e : Engine) : Bool :=
  e.tab.settings.noticesOn && (e.tab.settings.kindsOn &&& k.bit ≠ 0) && e.mgc.taken < Config.outboxPlaces && !e.halted

/-- A block raises an event: its flag is set whatever the enables say, and its notice is offered (R204). -/
def Engine.raise (k : NoticeKind) (data : List Byte) (e : Engine) : Engine :=
  let placed := e.placesNotice k
  e.modMgc (fun g =>
    { g with flags := g.flags ||| k.bit, outbox := if placed then g.outbox ++ [noticePacket k data] else g.outbox })

/-- The three error counters as MGMT_ERRORS and STATUS carry them. -/
def Mgc.errorBytes (g : Mgc) : List Byte := be1 g.lengthErrors ++ be1 g.checkErrors ++ be1 g.overruns

/-- After a counter has risen: an open gate reports and closes, a closed one notes the error (R201). -/
def Engine.errorGate (e : Engine) : Engine :=
  if e.mgc.gateOpen then (e.raise .mgmtErrors e.mgc.errorBytes).modMgc (fun g => { g with gateOpen := false, errorNoted := false })
  else e.modMgc (fun g => { g with errorNoted := true })

def Engine.lengthError (e : Engine) : Engine :=
  (e.modMgc (fun g => { g with lengthErrors := min 255 (g.lengthErrors + 1) })).errorGate

def Engine.checkError (e : Engine) : Engine :=
  (e.modMgc (fun g => { g with checkErrors := min 255 (g.checkErrors + 1) })).errorGate

def Engine.overrun (e : Engine) : Engine :=
  (e.modMgc (fun g => { g with overruns := min 255 (g.overruns + 1) })).errorGate

/-- The report gate at a second counted (R201). -/
def Engine.gateSecond (e : Engine) : Engine :=
  if e.mgc.gateOpen then e
  else if e.mgc.errorNoted then (e.raise .mgmtErrors e.mgc.errorBytes).modMgc (fun g => { g with errorNoted := false })
  else e.modMgc (fun g => { g with gateOpen := true })

/-- An answer takes the place reserved for it (R202). -/
def Engine.placeAnswer (packet : List Byte) (e : Engine) : Engine :=
  e.modMgc (fun g => { g with outbox := g.outbox ++ [packet], handling := false })

end Sys2Proof.Machine
end

