-- ==== Sys2Proof/Machine/Lamp.lean ====
section
/-! DEFINITION. The lamp unit (section 9): patterns, the lamp address table, the change queue, the sweep, cells and faults. -/

namespace Sys2Proof.Machine

/-! ## The lamp address table -/

def Lmp.entry (l : Lmp) (a : Nat) : LampEntry := Tab.get LampEntry.reset l.table a

def Lmp.modEntry (a : Nat) (f : LampEntry → LampEntry) (l : Lmp) : Lmp :=
  { l with table := Tab.set LampEntry.reset a (f (l.entry a)) l.table }

def Engine.modLmp (f : Lmp → Lmp) (e : Engine) : Engine := { e with lmp := f e.lmp }

/-- The address pattern, computed afresh from the counts (R169). -/
def LampEntry.pattern (x : LampEntry) : Pattern :=
  if 0 < x.fast then .fast else if 0 < x.slow then .slow else if 0 < x.steady then .steady else .off

/-- The fault state keeps the address in service (section 9.5). -/
def LampEntry.inService (x : LampEntry) : Bool := x.fault = .clear || x.fault = .suspect

/-- Move the count of a pattern, OFF having none (R167). -/
def LampEntry.modCount (p : Pattern) (f : Nat → Nat) (x : LampEntry) : LampEntry :=
  match p with
  | .off => x
  | .steady => { x with steady := f x.steady }
  | .slow => { x with slow := f x.slow }
  | .fast => { x with fast := f x.fast }

/-- Append an address to the change queue unless it stands there (R171, R180, R182). -/
def Lmp.enqueue (a : Nat) (l : Lmp) : Lmp :=
  if (l.entry a).queued then l
  else { (l.modEntry a (fun x => { x with queued := true })) with changeQueue := l.changeQueue ++ [a] }

/-- Examine an address (R171). -/
def Lmp.examine (a : Nat) (l : Lmp) : Lmp :=
  let x := l.entry a
  if x.inService && x.lastSent ≠ some x.pattern then l.enqueue a else l

/-- Move a mailbox from one pattern to another at an address, and examine it (R167). -/
def Lmp.move (old new : Pattern) (a : Nat) (l : Lmp) : Lmp :=
  (l.modEntry a (fun x => (x.modCount old (· - 1)).modCount new (· + 1))).examine a

/-! ## Mailbox patterns -/

/-- The box full indication (R127). -/
def Engine.boxFull (e : Engine) (m : Nat) : Bool :=
  let c := e.boxClass m
  c.maxMessages ≤ (e.counter m).total || c.quota ≤ (e.counter m).charged

/-- The pattern of a mailbox from its lamp inputs (R166). -/
def lampPattern (enabled lampsOn : Bool) (new urgent : Nat) (full : Bool) : Pattern :=
  if !lampsOn || !enabled then .off
  else if 0 < new && full then .fast
  else if 0 < urgent then .slow
  else if 0 < new then .steady
  else .off

/-- The MDT hands a mailbox's lamp inputs (R127), and the LMP moves the mailbox to its new pattern at each address of its lamp list, in order
(R167). In FROZEN no input reaches the lamp unit (R185). -/
def Engine.handInputs (m : Nat) (e : Engine) : Engine :=
  match e.mailbox m with
  | none => e
  | some b =>
    if e.ssc.service = .frozen then e
    else
      let old := Tab.get Pattern.off e.lmp.patterns m
      let new := lampPattern b.fields.enabled b.fields.lampsOn (e.counter m).new (e.counter m).urgent (e.boxFull m)
      if old = new then e
      else
        e.modLmp (fun l =>
          let l1 := b.fields.lamps.foldl (fun l a => l.move old new a) l
          { l1 with patterns := Tab.set Pattern.off m new l1.patterns })

/-- An address whose last reference has gone is in no fault (R170). -/
def LampEntry.unreferenced (x : LampEntry) : LampEntry :=
  if x.refs = 0 then { x with fault := .clear, kind := none, confirm := 0, retryDue := none, reported := none } else x

/-- A change of a mailbox's lamp list (R170): counts move first, leaving addresses before joining ones, and each is then examined. -/
def Lmp.listChange (m : Nat) (old new : List Nat) (l : Lmp) : Lmp :=
  let p := Tab.get Pattern.off l.patterns m
  let leaving := old.filter (fun a => !new.contains a)
  let joining := new.filter (fun a => !old.contains a)
  let l1 := leaving.foldl (fun l a => l.modEntry a (fun x => ({ x with refs := x.refs - 1 }.modCount p (· - 1)).unreferenced)) l
  let l2 := joining.foldl (fun l a => l.modEntry a (fun x => { x with refs := x.refs + 1 }.modCount p (· + 1))) l1
  (leaving ++ joining).foldl (fun l a => l.examine a) l2

/-! ## Choosing a cell -/

/-- Take the head of the change queue, dropping addresses out of service (R172). -/
def Lmp.takeQueued : List Nat → Lmp → Option Nat × Lmp
  | [], l => (none, { l with changeQueue := [] })
  | a :: q, l =>
    let l1 := { (l.modEntry a (fun x => { x with queued := false })) with changeQueue := q }
    if (l.entry a).inService then (some a, l1) else Lmp.takeQueued q l1

/-- An address may be taken by the refresh sweep (R173). -/
def LampEntry.eligible (x : LampEntry) : Bool := decide (0 < x.refs) && x.inService && !x.queued

/-- The next address of the refresh sweep (R173). -/
def Lmp.sweepNext (l : Lmp) : Option Nat :=
  let keys := (l.table.filter (fun x => x.2.eligible)).map (·.1)
  (keys.find? (fun a => l.sweepPointer < a)).or keys.head?

/-- What a cell position sends: an address, or nothing (R172, R173). -/
def Lmp.choose (l : Lmp) : Option Nat × Lmp :=
  match Lmp.takeQueued l.changeQueue l with
  | (some a, l1) => (some a, l1)
  | (none, l1) =>
    match l1.sweepNext with
    | some a => (some a, { l1 with sweepPointer := a })
    | none => (none, l1)

/-- A lamp command (R210). -/
def lampCommand (a : Nat) (p : Pattern) : List Byte := [0x5A] ++ be2 a ++ be1 p.code

/-- A cell position is reached (R174). -/
def Lmp.cellPosition (position : Nat) (l : Lmp) : Lmp :=
  let l0 := if position = 0 then { l with superframe := l.superframe + 1 } else l
  match l0.choose with
  | (some a, l1) =>
    let p := (l1.entry a).pattern
    let l2 := l1.modEntry a (fun x => { x with lastSent := some p })
    { l2 with outCell := lampCommand a p,
              awaiting := l2.awaiting ++ [{ position := position, superframe := l2.superframe, sent := some (a, p) }] }
  | (none, l1) =>
    { l1 with outCell := List.replicate 4 0xFF,
              awaiting := l1.awaiting ++ [{ position := position, superframe := l1.superframe, sent := none }] }

/-- The outbound lamp byte of an aligned frame (R174): $FF when no cell is in progress (R7). -/
def Lmp.outByte (frameNo : Nat) (l : Lmp) : Byte × Lmp :=
  let l1 := if frameNo % 4 = 0 then l.cellPosition (frameNo / 4) else l
  match l1.outCell with
  | [] => (0xFF, l1)
  | b :: bs => (b, { l1 with outCell := bs })

/-! ## Judging an answer -/

/-- What an inbound cell says of the address awaited (R175, R210): absent is OK. -/
def judgeCell (a : Nat) (cell : List Byte) : Option FaultKind :=
  if cell = [0xFF, 0xFF, 0xFF, 0xFF] then some .noAnswer
  else if (cell.getD 1 0).toNat * 256 + (cell.getD 2 0).toNat ≠ a then some .noAnswer
  else match (cell.getD 3 0).toNat with
    | 0 => none
    | 1 => some .openCircuit
    | 2 => some .short
    | _ => some .noAnswer

/-- The mode the settings give for a fault kind (R178). -/
def Settings.mode (s : Settings) : FaultKind → FaultMode
  | .openCircuit => s.modeOpen
  | .short => s.modeShort
  | .noAnswer => s.modeNoAnswer

/-- An answer judged OK (R177). -/
def Engine.lampOk (a : Nat) (e : Engine) : Engine :=
  let reported := (e.lamp a).reported
  let e1 := e.modLmp (Lmp.modEntry a (fun x => { x with confirm := 0, kind := none, fault := .clear, reported := none }))
  match reported with
  | none => e1
  | some k => e1.raise .lampCleared (lamp3 a ++ be1 k.code)

/-- LAMP_FAULT, with the confirm count at the confirmation (R184). -/
def Engine.raiseLampFault (a : Nat) (k : FaultKind) (mode : FaultMode) (confirm : Nat) (e : Engine) : Engine :=
  e.raise .lampFault (lamp3 a ++ be1 k.code ++ be1 mode.code ++ be1 confirm ++ be2 (e.lamp a).refs)

/-- A fault of kind k is confirmed (R179). -/
def Engine.lampConfirmed (a : Nat) (k : FaultKind) (e : Engine) : Engine :=
  let x := e.lamp a
  match e.tab.settings.mode k with
  | .latch =>
    (e.modLmp (Lmp.modEntry a (fun x => { x with fault := .latched, reported := some k }))).raiseLampFault a k .latch x.confirm
  | .retry =>
    let e1 := e.modLmp (Lmp.modEntry a (fun x =>
      { x with fault := .retryWait, retryDue := some (e.lmp.seconds + e.tab.settings.retryInterval), reported := some k }))
    if x.reported = some k then e1 else e1.raiseLampFault a k .retry x.confirm
  | .report =>
    let e1 := e.modLmp (Lmp.modEntry a (fun x => { x with fault := .clear, confirm := 0, kind := none, reported := some k }))
    if x.reported = some k then e1 else e1.raiseLampFault a k .report x.confirm
  | .ignore => e.modLmp (Lmp.modEntry a (fun x => { x with fault := .clear, confirm := 0, kind := none }))

/-- An answer judged OPEN, SHORT or NO_ANSWER (R178). -/
def Engine.lampBad (a : Nat) (k : FaultKind) (e : Engine) : Engine :=
  let x := e.lamp a
  let count := if x.fault = .clear || x.kind ≠ some k then 1 else min 4 (x.confirm + 1)
  let e1 := e.modLmp (Lmp.modEntry a (fun x => { x with fault := .suspect, kind := some k, confirm := count }))
  if e.tab.settings.confirmCount ≤ count then e1.lampConfirmed a k else e1

/-- An inbound cell of a position is complete (R175). -/
def Engine.judge (position : Nat) (cell : List Byte) (e : Engine) : Engine :=
  let l := e.lmp
  let mine : Awaiting → Bool := fun w => w.position = position && w.superframe + 1 = l.superframe
  let e1 := e.modLmp (fun l => { l with awaiting := l.awaiting.filter (fun w => !mine w) })
  match l.awaiting.find? mine with
  | none => e1
  | some w =>
    match w.sent with
    | none => e1
    | some (a, _) =>
      let x := e1.lamp a
      if x.refs = 0 || !x.inService then e1
      else match judgeCell a cell with
        | none => e1.lampOk a
        | some k => e1.lampBad a k

/-- The inbound lamp byte of an aligned frame (R175). -/
def Engine.lampByte (frameNo : Nat) (b : Byte) (e : Engine) : Engine :=
  let cell := if frameNo % 4 = 0 then some [b] else e.lmp.inCell.map (· ++ [b])
  if frameNo % 4 = 3 then
    let e1 := e.modLmp (fun l => { l with inCell := none })
    match cell with
    | none => e1
    | some bs => if bs.length = 4 then e1.judge (frameNo / 4) bs else e1
  else e.modLmp (fun l => { l with inCell := cell })

/-- A superframe restart indication (R176). The addresses of the dropped entries are examined, and so queued, oldest entry first: DESIGN CHOICE (log 37;
safe). -/
def Lmp.restart (l : Lmp) : Lmp :=
  let dropped := l.awaiting.filterMap (fun w => w.sent.map (·.1))
  let l1 := { l with awaiting := [], outCell := [], inCell := none, superframe := 0 }
  dropped.foldl (fun l a => (l.modEntry a (fun x => { x with lastSent := none })).examine a) l1

/-- The retry of an address falls due (R180). -/
def Lmp.retry (a : Nat) (l : Lmp) : Lmp :=
  (l.modEntry a (fun x => { x with fault := .suspect, retryDue := none })).enqueue a

/-- Addresses in a fault state (R168). -/
def Lmp.countFault (f : FaultState) (l : Lmp) : Nat := (l.table.filter (fun x => x.2.fault = f)).length

end Sys2Proof.Machine
end

