-- ==== Sys2Proof/Machine/Store.lean ====
section
/-! DEFINITION. Segments, the free list, the erase queue and the pool (section 4), and bodies with their counts (section 5). -/

namespace Sys2Proof.Machine

def Engine.modSsc (f : Ssc → Ssc) (e : Engine) : Engine := { e with ssc := f e.ssc }

/-! ## The erase queue as runs -/

/-- Join a segment at the tail (R72). -/
def Run.push (i : Nat) : List Run → List Run
  | [] => [{ start := i, count := 1 }]
  | [r] => if r.start + r.count = i then [{ r with count := r.count + 1 }] else [r, { start := i, count := 1 }]
  | r :: r2 :: q => r :: Run.push i (r2 :: q)

/-- The segment at the head. -/
def Run.head? : List Run → Option Nat
  | [] => none
  | r :: _ => some r.start

/-- The queue without its head. -/
def Run.pop : List Run → List Run
  | [] => []
  | r :: q => if r.count ≤ 1 then q else { start := r.start + 1, count := r.count - 1 } :: q

/-- How many segments stand in the queue. -/
def Run.total (q : List Run) : Nat := q.foldl (fun n r => n + r.count) 0

/-! ## The pool -/

/-- The available count (R73): the ERASED segments are the free list, the DIRTY ones the erase queue (R69). -/
def Engine.available (e : Engine) : Nat := e.ssc.freeList.length + Run.total e.ssc.eraseQueue

/-- POOL_LOW with a direction (R74). -/
def Engine.raisePoolLow (direction : Nat) (e : Engine) : Engine :=
  e.raise .poolLow (be1 direction ++ be3 e.available ++ be2 e.tab.settings.poolReserve)

/-- Examine the pool-low indication (R74). -/
def Engine.examinePool (e : Engine) : Engine :=
  if e.ssc.service = .starting then e
  else if !e.ssc.poolLow && e.available < e.tab.settings.poolReserve then
    (e.modSsc (fun c => { c with poolLow := true })).raisePoolLow 0
  else if e.ssc.poolLow && e.tab.settings.poolReserve + 256 ≤ e.available then
    (e.modSsc (fun c => { c with poolLow := false })).raisePoolLow 1
  else e

/-- A segment becomes DIRTY in the map (R68). -/
def Engine.putDirty (i : Nat) (e : Engine) : Engine :=
  e.put (.segment i { state := .dirty, body := none, next := none, eraseFailures := (e.segment i).eraseFailures })

/-- A segment becomes DIRTY and joins the erase queue tail (R69, R72). -/
def Engine.joinDirty (i : Nat) (e : Engine) : Engine :=
  ((e.putDirty i).modSsc (fun c => { c with eraseQueue := Run.push i c.eraseQueue })).examinePool

/-- A DATA segment that its body lets go becomes DIRTY (R70). -/
def Engine.makeDirty (i : Nat) (e : Engine) : Engine := if (e.segment i).state = .data then e.joinDirty i else e

/-- Several DATA segments become DIRTY, first first (R72). The pool is examined at each (R73, R74), so that a POOL_LOW carries the count at the crossing:
DESIGN CHOICE (log 46; unsafe). -/
def Engine.makeAllDirty (is : List Nat) (e : Engine) : Engine := is.foldl (fun e i => e.makeDirty i) e

/-- STORE_FAULT (R86). -/
def Engine.raiseStoreFault (op : StoreOp) (segment : Nat) (cause : StoreCause) (session : Option Nat) (e : Engine) : Engine :=
  e.raise .storeFault (be1 op.code ++ be3 segment ++ be1 cause.code ++ be1 (if op = .read then 0 else 1) ++ opt1 session)

/-! ## Chains -/

/-- At most n segments of a chain, by way of each next (00, Terms). -/
def Engine.chainFrom (e : Engine) : Nat → Option Nat → List Nat
  | 0, _ => []
  | _ + 1, none => []
  | n + 1, some i => i :: e.chainFrom n (e.segment i).next

/-- A body's chain (R110). -/
def Engine.chain (e : Engine) (b : Nat) : List Nat :=
  match e.body b with
  | none => []
  | some x => e.chainFrom x.count x.first

/-- The extent of a body (R101): buffers begun while OPEN, segment count once SEALED. -/
def Engine.extent (e : Engine) (b : Nat) : Nat :=
  match e.body b with
  | none => 0
  | some x => if x.sealed then x.count else (e.hold b).begun

/-- The sample count of a body, 0 while it has none. -/
def Engine.sampleCount (e : Engine) (b : Nat) : Nat := ((e.body b).bind (·.samples)).getD 0

/-- The duration of a body as answers report it (R67, R138). -/
def Engine.bodyTenths (e : Engine) (b : Nat) : Nat := tenths (e.sampleCount b)

/-! ## Bodies -/

/-- A new OPEN body with share count 1 (R100). -/
def Body.fresh : Body := { sealed := false, first := none, last := none, count := 0, offset := none, samples := none, share := 1 }

/-- The body the next creation takes (R100). -/
def Engine.freeBody (e : Engine) : Nat := Tab.lowestFree e.tab.bodies

def Engine.bodyTableFull (e : Engine) : Bool := Config.bodies ≤ e.freeBody

/-- Create a body in entry b (R100). -/
def Engine.createBody (b : Nat) (e : Engine) : Engine :=
  (e.put (.body b (some Body.fresh))).modHold b (fun _ => BodyHold.zero)

/-- Link a programmed segment into a body, in the order of R102 (R83). -/
def Engine.linkSegment (b i : Nat) (e : Engine) : Engine :=
  match e.body b with
  | none => e
  | some x =>
    let e1 := e.put (.segment i { state := .data, body := some b, next := none, eraseFailures := (e.segment i).eraseFailures })
    let e2 := match x.last with
      | none => e1
      | some l => e1.put (.segment l { e1.segment l with next := some i })
    e2.put (.body b (some { x with first := x.first.or (some i), last := some i, count := x.count + 1 }))

/-- Cut a chain to its positions first..last (R103). The writes of the last kept segment's next and of the body form a sequence; when it has completed,
the segments removed, those from the head and then those from the tail, are handed to the SSC and go DIRTY. The next is written before the body, so that
a seal asked for in the same step is made after both: R103 leaves the order of the two open (log 5; DESIGN CHOICE, safe). -/
def Engine.cutChain (b first last : Nat) (e : Engine) : Engine :=
  match e.body b with
  | none => e
  | some x =>
    let chain := e.chain b
    let head := chain.take first
    let kept := (chain.drop first).take (last + 1 - first)
    let tail := chain.drop (max first (last + 1))
    if head = [] && tail = [] then e
    else
      let e1 := match kept.getLast? with
        | some l => if tail = [] then e else e.put (.segment l { e.segment l with next := none })
        | none => e
      (e1.put (.body b (some { x with first := kept.head?, last := kept.getLast?, count := kept.length }))).flush (.cut (head ++ tail))

/-- Release a body: its chain goes DIRTY, first segment first, and its entry is freed (R108). -/
def Engine.release (b : Nat) (e : Engine) : Engine :=
  ((e.makeAllDirty (e.chain b)).put (.body b none)).modHold b (fun _ => BodyHold.zero)

/-- Release a body that nothing holds any longer (R108). In FROZEN the BDT releases none (R111). -/
def Engine.releaseIfUnheld (b : Nat) (e : Engine) : Engine :=
  match e.body b with
  | none => e
  | some x =>
    if x.share = 0 && (e.hold b).pins = 0 && (e.hold b).readers = 0 && !decide (e.ssc.service = .frozen) then e.release b else e

/-- Change the share count of a body in the catalogue (R105). -/
def Engine.modShare (b : Nat) (f : Nat → Nat) (e : Engine) : Engine :=
  match e.body b with
  | none => e
  | some x => e.put (.body b (some { x with share := f x.share }))

/-- A holder lets go of its share (R105, R108). -/
def Engine.dropShare (b : Nat) (e : Engine) : Engine := (e.modShare b (· - 1)).releaseIfUnheld b

/-- A delivery job lets go of its pin (R106, R108). -/
def Engine.dropPin (b : Nat) (e : Engine) : Engine := (e.modHold b (fun h => { h with pins := h.pins - 1 })).releaseIfUnheld b

/-- A play session lets go of its reader count (R107, R108). -/
def Engine.dropReader (b : Nat) (e : Engine) : Engine := (e.modHold b (fun h => { h with readers := h.readers - 1 })).releaseIfUnheld b

/-- Seal a body with a trim's offset and count (R104). Its buffers begun are dropped. -/
def Engine.sealBody (b offset samples : Nat) (e : Engine) : Engine :=
  match e.body b with
  | none => e
  | some x =>
    (e.put (.body b (some { x with sealed := true, offset := some offset, samples := some samples }))).modHold b (fun h => { h with begun := 0 })

end Sys2Proof.Machine
end

