-- ==== Sys2Proof/Machine/Mailbox.lean ====
section
/-! DEFINITION. The mailbox directory and message table (section 6) and the greeting slots (section 7): lists, counters, charge, admission,
marking, freeing, selection, and the replacing and emptying of greetings. -/

namespace Sys2Proof.Machine

/-! ## Lists of records -/

/-- At most n records of a list, by way of each next (R123). -/
def Engine.listFrom (e : Engine) : Nat → Option Nat → List Nat
  | 0, _ => []
  | _ + 1, none => []
  | n + 1, some r => r :: e.listFrom n ((e.record r).bind (·.next))

/-- A mailbox's records in list order (R123). -/
def Engine.boxList (e : Engine) (m : Nat) : List Nat :=
  e.listFrom e.tab.records.length ((e.mailbox m).bind (·.head))

/-- The entry the next record takes (R122). -/
def Engine.freeRecordNo (e : Engine) : Nat := Tab.lowestFree e.tab.records

def Engine.recordTableFull (e : Engine) : Bool := Config.records ≤ e.freeRecordNo

/-- Append a record to its mailbox's list, in the order of writes of R123. -/
def Engine.appendRecord (r : Nat) (x : Record) (e : Engine) : Engine :=
  let tail := (e.mailbox x.mailbox).bind (·.tail)
  let e1 := e.put (.record r (some { x with prev := tail, next := none }))
  let e2 := match tail with
    | some t => e1.put (.recordNext t (some r))
    | none => e1.put (.boxHead x.mailbox (some r))
  e2.put (.boxTail x.mailbox (some r))

/-- Unlink a record and write it free, in the order of writes of R123. -/
def Engine.unlinkRecord (r : Nat) (x : Record) (e : Engine) : Engine :=
  let e1 := match x.prev with
    | some p => e.put (.recordNext p x.next)
    | none => e.put (.boxHead x.mailbox x.next)
  let e2 := match x.next with
    | some n => e1.put (.recordPrev n x.prev)
    | none => e1.put (.boxTail x.mailbox x.prev)
  e2.put (.record r none)

/-! ## Counters and charge (R125, R126) -/

/-- Move the counter of a record state, and new-urgent with NEW when the record is urgent (R125). -/
def Counters.modState (st : RecState) (urgent : Bool) (f : Nat → Nat) (c : Counters) : Counters :=
  match st with
  | .recording => { c with recording := f c.recording }
  | .new => { c with new := f c.new, urgent := if urgent then f c.urgent else c.urgent }
  | .heard => { c with heard := f c.heard }
  | .saved => { c with saved := f c.saved }

/-- A record joins the counters: its state's counter and total. -/
def Counters.join (st : RecState) (urgent : Bool) (c : Counters) : Counters :=
  let c := c.modState st urgent (· + 1)
  { c with total := c.total + 1 }

/-- A record leaves the counters. -/
def Counters.leave (st : RecState) (urgent : Bool) (c : Counters) : Counters :=
  let c := c.modState st urgent (· - 1)
  { c with total := c.total - 1 }

/-- A record passes from one state to another in the counters. -/
def Counters.pass (was is : RecState) (urgent : Bool) (c : Counters) : Counters :=
  (c.modState was urgent (· - 1)).modState is urgent (· + 1)

/-- Move a mailbox's charge (R126). -/
def Engine.charge (m : Nat) (f : Nat → Nat) (e : Engine) : Engine := e.modCounter m (fun c => { c with charged := f c.charged })

/-- A stamp of the day, absent while the clock is invalid (R124). -/
def Now.stamp (now : Now) : Option Nat := if now.valid then some now.day else none

/-- A stamp of day and second (R124, R192). -/
def Now.arrival (now : Now) : Option (Nat × Nat) := if now.valid then some (now.day, now.second) else none

/-! ## Creating, changing and freeing records -/

/-- A record in RECORDING for an OPEN RECORD (R128). -/
def Record.recording (now : Now) (m b : Nat) (urgent : Bool) (caller : Option Nat) : Record :=
  { mailbox := m, body := b, state := .recording, urgent := urgent, cut := false, arrival := now.arrival, caller := caller, sender := none,
    heardDay := none, resume := none, prev := none, next := none }

/-- A delivered copy (R129). -/
def Record.copy (now : Now) (m b source : Nat) (urgent : Bool) (caller : Option Nat) : Record :=
  { mailbox := m, body := b, state := .new, urgent := urgent, cut := false, arrival := now.arrival, caller := caller, sender := some source,
    heardDay := none, resume := none, prev := none, next := none }

/-- Write a record and move its mailbox's counters when its state changes; then hand the lamp inputs (R125, R127, R131). Of a record that stands as it is no
write is asked for: DESIGN CHOICE (log 43; safe). -/
def Engine.changeRecord (r : Nat) (x y : Record) (e : Engine) : Engine :=
  if x = y then e
  else
    let e1 := e.put (.record r (some y))
    if x.state = y.state then e1
    else (e1.modCounter x.mailbox (Counters.pass x.state y.state x.urgent)).handInputs x.mailbox

/-- Every session whose target is a record loses it (R133, R45). -/
def Engine.clearTargets (r : Nat) (e : Engine) : Engine :=
  e.sessions.foldl (fun e kx => if kx.2.target = .record r then e.modSession kx.1 (fun x => { x with target := .none }) else e) e

/-- Free a record up to the body's share: unlink, counters, charge, targets (R133). -/
def Engine.detachRecord (r : Nat) (x : Record) (e : Engine) : Engine :=
  ((((e.unlinkRecord r x).modCounter x.mailbox (Counters.leave x.state x.urgent)).charge x.mailbox (· - e.extent x.body))).clearTargets r

/-- Free a record, its mailbox's lamp inputs not handed yet (R133, R135). -/
def Engine.freeRecordQuietly (r : Nat) (e : Engine) : Engine :=
  match e.record r with
  | none => e
  | some x => (e.detachRecord r x).dropShare x.body

/-- Free a record (R133). -/
def Engine.freeRecord (r : Nat) (e : Engine) : Engine :=
  match e.record r with
  | none => e
  | some x => (e.freeRecordQuietly r).handInputs x.mailbox

/-- A RECORDING record becomes NEW (R130). -/
def Engine.recordSealed (r : Nat) (cut : Bool) (e : Engine) : Engine :=
  match e.record r with
  | none => e
  | some x => e.changeRecord r x { x with state := .new, cut := cut }

/-- Play reaches end (R132). -/
def Record.playedToEnd (now : Now) (x : Record) : Record :=
  let x := { x with resume := none }
  if x.state = .new then { x with state := .heard, heardDay := now.stamp } else x

/-- A mark of HEARD, SAVED or NEW (R131). -/
inductive Mark where | heard | saved | new
deriving DecidableEq, Repr

/-- The record after a mark (R131). -/
def Record.marked (now : Now) (mk : Mark) (x : Record) : Record :=
  match mk, x.state with
  | .heard, .new => { x with state := .heard, heardDay := now.stamp }
  | .heard, _ => x
  | .saved, .new => { x with state := .saved, heardDay := now.stamp }
  | .saved, .heard => { x with state := .saved, heardDay := x.heardDay.or now.stamp }
  | .saved, .saved => { x with heardDay := x.heardDay.or now.stamp }
  | .saved, .recording => x
  | .new, .heard => { x with state := .new, heardDay := none }
  | .new, .saved => { x with state := .new, heardDay := none }
  | .new, _ => x

/-! ## Admission -/

/-- Total records or charge at its limit (R127, R128). -/
def Engine.atLimit (e : Engine) (m : Nat) : Bool := e.boxFull m

/-- Why a delivered copy is not made (R129). -/
inductive SkipReason where | disabled | notAccepting | full | quota | tableFull | sourceBox
deriving DecidableEq, Repr

/-- The first reason that applies to a recipient, for a body of extent n (R129). -/
def Engine.copyRefusal (m n : Nat) (e : Engine) : Option SkipReason :=
  match e.mailbox m with
  | none => some .disabled
  | some b =>
    let c := e.boxClass m
    if !b.fields.enabled then some .disabled
    else if !b.fields.accepts then some .notAccepting
    else if c.maxMessages ≤ (e.counter m).total then some .full
    else if c.quota < (e.counter m).charged + n then some .quota
    else if e.recordTableFull then some .tableFull
    else none

/-- Make a delivered copy in a recipient that has no reason against it (R129). -/
def Engine.makeCopy (now : Now) (m b n source : Nat) (urgent : Bool) (caller : Option Nat) (e : Engine) : Engine :=
  let r := e.freeRecordNo
  (((((e.appendRecord r (Record.copy now m b source urgent caller)).modShare b (· + 1)).modCounter m (Counters.join .new urgent)).charge m (· + n))).handInputs m

/-! ## Selection and listing -/

/-- NEXT_NEW selection (R136). -/
def Engine.nextNew (m : Nat) (e : Engine) : Option Nat :=
  let rs := e.boxList m
  let isNew : Nat → Bool := fun r => (e.record r).any (fun x => x.state = .new)
  (rs.find? (fun r => (e.record r).any (fun x => x.state = .new && x.urgent))).or (rs.find? isNew)

/-- The status byte of a LIST entry (11.8). -/
def Record.statusByte (x : Record) : List Byte := be1 (x.state.code + (if x.urgent then 16 else 0) + (if x.cut then 32 else 0))

/-- A BRIEF entry of LIST (R138). -/
def Engine.briefEntry (e : Engine) (r : Nat) : List Byte :=
  match e.record r with
  | none => []
  | some x => be2 r ++ x.statusByte ++ be2 (e.bodyTenths x.body)

/-- A FULL entry of LIST (R138). -/
def Engine.fullEntry (e : Engine) (r : Nat) : List Byte :=
  match e.record r with
  | none => []
  | some x =>
    e.briefEntry r ++ opt2 (x.arrival.map (·.1)) ++ opt3 (x.arrival.map (·.2)) ++ opt3 x.caller ++ opt2 x.sender ++ opt2 x.heardDay ++ opt3 x.resume

/-! ## Greeting slots -/

/-- A slot is filled (R141). -/
def Slot.filled (x : Slot) : Bool := x.held.isSome

/-- A slot is being recorded into (R141). -/
def Slot.busy (x : Slot) : Bool := x.staged.isSome

/-- Write a slot (section 7). -/
def Engine.putSlot (m : Nat) (g : GreetingKind) (x : Slot) (e : Engine) : Engine := e.put (.slot (slotKey m g) x)

/-- The staged body becomes the held body, and the old one loses its share (R144). -/
def Engine.replaceGreeting (m : Nat) (g : GreetingKind) (e : Engine) : Engine :=
  let x := e.slot m g
  let e1 := e.putSlot m g { held := x.staged, staged := none }
  match x.held with
  | none => e1
  | some b => e1.dropShare b

/-- A greeting take is discarded: its staging is abandoned (R145). -/
def Engine.abandonGreeting (m : Nat) (g : GreetingKind) (e : Engine) : Engine :=
  let x := e.slot m g
  let e1 := e.putSlot m g { x with staged := none }
  match x.staged with
  | none => e1
  | some b => e1.dropShare b

/-- Empty a slot (R149, R150). -/
def Engine.emptySlot (m : Nat) (g : GreetingKind) (e : Engine) : Engine :=
  let x := e.slot m g
  match x.held with
  | none => e
  | some b => (e.putSlot m g { x with held := none }).dropShare b

/-- The four slots in the order of R150. -/
def GreetingKind.all : List GreetingKind := [.standard, .busy, .absent, .name]

/-- Empty the four slots of a mailbox (R150). -/
def Engine.emptySlots (m : Nat) (e : Engine) : Engine := GreetingKind.all.foldl (fun e g => e.emptySlot m g) e

/-- Active greeting selection for a call reason of BUSY or NO_ANSWER (R148). -/
def Engine.chooseGreeting (m : Nat) (reasonBusy : Bool) (e : Engine) : Option GreetingKind :=
  let active := ((e.mailbox m).map (·.fields.active)).getD .standard
  if active = .absent && (e.slot m .absent).filled then some .absent
  else if reasonBusy && (e.slot m .busy).filled then some .busy
  else if (e.slot m .standard).filled then some .standard
  else if (e.slot m .name).filled then some .name
  else none

/-- Free every record of a mailbox, head first, handing no lamp inputs (R135, R140). -/
def Engine.freeBox (m : Nat) (e : Engine) : Engine := (e.boxList m).foldl (fun e r => e.freeRecordQuietly r) e

end Sys2Proof.Machine
end

