-- ==== Sys2Proof/Machine/Meter.lean ====
section
/-! DEFINITION. The companding law and the cue tone (R11 to R13), the level meter (R46 to R55), the class times (R56) and the arithmetic of the
trim (R57 to R62). -/

namespace Sys2Proof.Machine

/-! ## The companding law -/

/-- The linear value of a sample code (R11): bit 7 the sign, bits 6..4 the segment, bits 3..0 the step (11.8). -/
def expand (c : Byte) : Int :=
  let n := c.toNat
  let m : Int := ((16 + n % 16) * 2 ^ (n / 16 % 8) - 16 : Nat)
  if n / 128 = 1 then -m else m

/-- The largest segment s with 16 × 2^s − 16 ≤ m, of those up to `s` (R12). -/
def segmentOf (m : Nat) : Nat → Nat
  | 0 => 0
  | s + 1 => if 16 * 2 ^ (s + 1) ≤ m + 16 then s + 1 else segmentOf m s

/-- The code of a linear value (R12). -/
def encode (v : Int) : Byte :=
  let m := min Config.fullScale v.natAbs
  let s := segmentOf m 7
  let q := min 15 ((m + 16) / 2 ^ s - 16)
  BitVec.ofNat 8 ((if v < 0 then 128 else 0) + 16 * s + q)

/-- The cue tone's values a and b at each cue level (R13). -/
def cueValues : Nat → Int × Int
  | 0 => (1392, 2032)
  | 1 => (688, 1008)
  | 2 => (336, 496)
  | _ => (168, 240)

/-- The cue tone in the session's n-th frame (R13). -/
def cueTone (level n : Nat) : Int :=
  let ab := cueValues level
  match n % 8 with
  | 0 => 0
  | 1 => ab.1
  | 2 => ab.2
  | 3 => ab.1
  | 4 => 0
  | 5 => -ab.1
  | 6 => -ab.2
  | _ => -ab.1

/-! ## The meter -/

/-- A meter as an OPEN RECORD sets it up (R46). -/
def Meter.start : Meter :=
  { sum := 0, mean := 0, level := 0, floor := 0, eOn := none, eOff := none, voice := .silent, onset := none, lastSpeech := none,
    silenceRun := 0 }

/-- A sample's magnitude joins the window sum (R47). -/
def Meter.add (m : Meter) (v : Int) : Meter := { m with sum := m.sum + v.natAbs }

/-- The smoothed level after a window of mean M (R49). -/
def nextLevel (l mean : Nat) : Nat := l - l / 8 + 2 * mean

/-- The noise floor after a window (R50, R51): the level in the mask, then down at once and up by a 256th of the gap, rounded up. -/
def nextFloor (inMask : Bool) (f l : Nat) : Nat :=
  if inMask then l else if l < f then l else f + (l - f + 255) / 256

/-- E_on (R52). -/
def speechThreshold (snap : Snapshot) (f : Nat) : Nat := min Config.levelMax (max (16 * snap.tOn) (f + 16 * snap.margin))

/-- E_off (R52). -/
def silenceThreshold (snap : Snapshot) (f : Nat) : Nat :=
  min (speechThreshold snap f) (max (16 * snap.tOff) (f + 8 * snap.margin))

/-- The voice state after a window (R53). -/
def nextVoice (inMask : Bool) (v : Voice) (l eOn eOff : Nat) : Voice :=
  if inMask then .silent
  else match v with
    | .silent => if eOn ≤ l then .speech else .silent
    | .speech => if l < eOff then .silent else .speech

/-- Close window k (R47 to R55). -/
def Meter.close (snap : Snapshot) (k : Nat) (m : Meter) : Meter :=
  let mean := m.sum / 64
  let level := nextLevel m.level mean
  let inMask := decide (k < snap.mask)
  let floor := nextFloor inMask m.floor level
  let eOn := speechThreshold snap floor
  let eOff := silenceThreshold snap floor
  let voice := nextVoice inMask m.voice level eOn eOff
  let onset := if voice = .speech then m.onset.or (some k) else m.onset
  { sum := 0, mean := mean, level := level, floor := floor, eOn := some eOn, eOff := some eOff, voice := voice, onset := onset,
    lastSpeech := if voice = .speech then some k else m.lastSpeech,
    silenceRun := if voice = .speech then 0 else if onset.isSome then m.silenceRun + 1 else 0 }

/-! ## Class times (R56) -/

/-- The snapshot a record session takes of a class at its OPEN, with its counts of windows and samples (R20, R21, R56). -/
def MailClass.snapshot (c : MailClass) (greeting : Bool) : Snapshot :=
  { mask := c.mask, tOn := c.tOn, tOff := c.tOff, margin := c.margin, preRoll := c.preRoll, hangover := c.hangover,
    endSilenceWindows := (c.endSilence * 25 + 1) / 2, noSpeechWindows := c.noSpeech * 125,
    maxSamples := (if greeting then c.maxGreeting else c.maxMessage) * 8000, minSamples := c.minMessage * 800 }

/-! ## The trim -/

/-- The current window at an ending with the cursor at c: the window of the last sample received (R46). -/
def currentWindow (c : Nat) : Nat := (c + 63) / 64 - 1

/-- The start sample of a take with its onset found (R61). -/
def startSample (snap : Snapshot) (onset : Nat) : Nat := (onset - snap.preRoll) * 64

/-- The end sample by the STOP rule (R60, R61), which SILENCE shares (R58). -/
def stopEnd (snap : Snapshot) (lastSpeech cursor : Nat) : Nat :=
  min ((min (currentWindow cursor) (lastSpeech + snap.hangover) + 1) * 64) cursor

/-- The trim of a kept part that runs from a start to an end sample (R61, R62). -/
def trimOf (startS endS : Nat) : Trim :=
  { startSample := startS, endSample := endS, first := startS / 2048, last := (endS - 1) / 2048, offset := startS % 2048,
    count := endS - startS }

/-- The number of kept segments (R62). -/
def Trim.kept (t : Trim) : Nat := t.last - t.first + 1

/-- A take segment lies in the kept run (R62). -/
def Trim.keeps (t : Trim) (j : Nat) : Bool := t.first ≤ j && j ≤ t.last

end Sys2Proof.Machine
end

