-- ==== Sys2Proof/Machine/Session.lean ====
section
/-! DEFINITION. The session engine (section 2) with the window ends of section 3: buffers, takes, trims, playback, endings. -/

namespace Sys2Proof.Machine

/-! ## States -/

/-- CUE, WAIT_ONSET, TAKING: the session receives samples (section 2.3). -/
def SessState.recordLive (s : SessState) : Bool := s = .cue || s = .waitOnset || s = .taking

/-- FETCHING, PLAYING, STALLED, PAUSED (section 2.4). -/
def SessState.playLive (s : SessState) : Bool := s = .fetching || s = .playing || s = .stalled || s = .paused

def Session.isMessage (x : Session) : Bool := x.kind = some .recordMessage

/-- The buffer with a role, buffer 0 first. -/
def Session.bufWith (role : BufRole) (x : Session) : Option Nat :=
  if x.buf0.role = role then some 0 else if x.buf1.role = role then some 1 else none

/-- The body of a session, 0 where it has none. -/
def Session.bodyNo (x : Session) : Nat := x.body.getD 0

/-! ## Slot bindings (R8, R9) -/

/-- A timeslot can be bound in a table (R8). -/
def slotBindable (table : Tab Nat) (t : Nat) : Bool := decide (3 ≤ t) && decide (t ≤ 127) && (Tab.find? table t).isNone

/-- Release the bindings a session holds (R9). -/
def Engine.releaseSlots (k : Nat) (e : Engine) : Engine :=
  let x := e.session k
  let drop : Option Nat → Tab Nat → Tab Nat := fun s t => match s with | none => t | some n => Tab.erase n t
  { e with slotsIn := drop x.inSlot e.slotsIn, slotsOut := drop x.outSlot e.slotsOut }.modSession k
    (fun x => { x with inSlot := none, outSlot := none })

/-! ## Ending a session (R40, R42) -/

/-- A buffer keeps only the roles that await the store when its session becomes FREE (R18). -/
def Buffer.freed (b : Buffer) : Buffer := if b.role = .queued || b.role = .stale then b else b.idled

/-- A session becomes FREE (R17). -/
def Engine.freeSession (k : Nat) (e : Engine) : Engine :=
  (e.releaseSlots k).modSession k (fun x => Session.freeWith x.buf0.freed x.buf1.freed)

/-- The duration SESSION_END and SESSION STATUS report (R41, R42). -/
def Session.duration (x : Session) : Nat :=
  if x.kind = some .play then x.cursor / 800
  else if x.discarded then 0
  else match x.trim with
    | some t => tenths t.count
    | none => 0

/-- The content of SESSION_END (R42, 11.8). -/
def Session.endBytes (k : Nat) (x : Session) : List Byte :=
  be1 k ++ opt1 (x.kind.map SessKind.code) ++ be2 x.mailbox ++ be1 x.target.kindCode ++ opt2 x.target.number ++
    opt1 (x.outcome.map Cause.code) ++ be2 x.duration ++ be2 x.underruns ++ be2 x.readFaults

/-- A session enters ENDED (R42): a closing one becomes FREE unreported (R40), another reports, and becomes FREE when its notice is placed and
its release-on-report is yes. -/
def Engine.enterEnded (k : Nat) (outcome : Cause) (e : Engine) : Engine :=
  let e1 := e.modSession k (fun x => { x with state := .ended, outcome := some outcome, endCause := none })
  let x := e1.session k
  if x.closing then e1.freeSession k
  else
    let placed := e1.placesNotice .sessionEnd
    let e2 := e1.raise .sessionEnd (x.endBytes k)
    if placed && x.releaseOnReport then e2.freeSession k else e2

/-! ## Store requests of a session -/

/-- Withdraw the waiting program requests of a session that a test names; their buffers become idle (R76). -/
def Engine.withdrawPrograms (k : Nat) (test : ProgReq → Bool) (e : Engine) : Engine :=
  let out := e.ssc.progQueue.filter (fun r => r.session = k && test r)
  let e1 := e.modSsc (fun c => { c with progQueue := c.progQueue.filter (fun r => !(r.session = k && test r)) })
  out.foldl (fun e r => e.modBuf k r.buf Buffer.idled) e1

/-- How many waiting program requests of a session a test names. -/
def Engine.waitingPrograms (k : Nat) (test : ProgReq → Bool) (e : Engine) : Nat :=
  (e.ssc.progQueue.filter (fun r => r.session = k && test r)).length

/-- The program in flight, when it is wanted, of a session, and a test names it (R76). -/
def Engine.programInFlight (k : Nat) (test : ProgReq → Bool) (e : Engine) : Bool :=
  match e.ssc.link with
  | .allocating r _ w => w && r.session = k && test r
  | .programming r _ w => w && r.session = k && test r
  | _ => false

/-- The program in flight that a test names stops being wanted (R76). -/
def Engine.unwant (k : Nat) (test : ProgReq → Bool) (e : Engine) : Engine :=
  e.modSsc (fun c =>
    { c with link := match c.link with
      | .allocating r s w => .allocating r s (w && !(r.session = k && test r))
      | .programming r s w => .programming r s (w && !(r.session = k && test r))
      | l => l })

/-- Withdraw the waiting read requests of a session; their buffers become idle; one in flight becomes stale (R34, R39, R75). -/
def Engine.withdrawReads (k : Nat) (e : Engine) : Engine :=
  let out := e.ssc.readQueue.filter (fun r => r.session = k)
  let e1 := e.modSsc (fun c => { c with readQueue := c.readQueue.filter (fun r => r.session ≠ k) })
  let e2 := out.foldl (fun e r => e.modBuf k r.buf Buffer.idled) e1
  match e2.ssc.link with
  | .reading r _ => if r.session = k then e2.modBuf k r.buf (fun b => { b with role := .stale }) else e2
  | _ => e2

/-- Make idle the buffers of a session that hold a read segment (R34, R39). -/
def Session.dropPlayed (x : Session) : Session :=
  let drop : Buffer → Buffer := fun b => if b.role = .playing || b.role = .prefetched then b.idled else b
  { x with buf0 := drop x.buf0, buf1 := drop x.buf1 }

/-! ## Takes -/

/-- Refund n begun segments of a session's take (R65, R101, R126). -/
def Engine.refund (k n : Nat) (e : Engine) : Engine :=
  let x := e.session k
  let e1 := e.modHold x.bodyNo (fun h => { h with begun := h.begun - n })
  if x.isMessage then e1.charge x.mailbox (· - n) else e1

/-- Hand the lamp inputs of a message session's mailbox (R127). -/
def Engine.handTake (k : Nat) (e : Engine) : Engine :=
  if (e.session k).isMessage then e.handInputs (e.session k).mailbox else e

/-- The session's filling buffer becomes idle (R27, R63). -/
def Engine.idleFilling (k : Nat) (e : Engine) : Engine :=
  e.modSession k (fun x => match x.bufWith .filling with
    | none => x
    | some b => x.setBuf b (x.buf b).idled)

/-- The meter stops: the partial sum of a window in progress is dropped (R46, R47). -/
def Session.stopMeter (x : Session) : Session := { x with meter := x.meter.map (fun m => { m with sum := 0 }) }

/-- Discard a take (R27). Its trim, where it has one, is kept with its meter (R46). The DATA segments go DIRTY at the release that the target's letting go
brings (R108), so their writes follow those of the record or the slot, which R27 names after them: DESIGN CHOICE (log 5; safe). -/
def Engine.discard (k : Nat) (e : Engine) : Engine :=
  let e1 := ((e.withdrawPrograms k (fun _ => true)).unwant k (fun _ => true)).idleFilling k
  let x := e1.session k
  let e2 := e1.refund k (e1.hold x.bodyNo).begun
  let e3 := match x.target with
    | .none => e2
    | .record r => e2.freeRecord r
    | .slot g => e2.abandonGreeting x.mailbox g
  e3.modSession k (fun x => { x with target := .none, discarded := true })

/-- Hand the filling buffer for program (R23, R64). -/
def Engine.handBuffer (k : Nat) (e : Engine) : Engine :=
  let x := e.session k
  match x.bufWith .filling with
  | none => e
  | some b =>
    let req : ProgReq := { session := k, buf := b, body := x.bodyNo, takeSegment := (x.buf b).holds }
    (e.modBuf k b (fun v => { v with role := .queued })).modSsc (fun c => { c with progQueue := c.progQueue ++ [req] })

/-- Apply a trim to a take that has just ended: every begun segment outside the kept run leaves it and is refunded, and a filling buffer inside
the run is handed for program (R63 to R65). -/
def Engine.applyTrim (k : Nat) (t : Trim) (e : Engine) : Engine :=
  let x := e.session k
  let out : ProgReq → Bool := fun r => !t.keeps r.takeSegment
  let begun := (e.hold x.bodyNo).begun
  let dataLen := ((e.body x.bodyNo).map (·.count)).getD 0
  let goneData := dataLen - (min dataLen (t.last + 1) - min dataLen t.first)
  let goneWaiting := e.waitingPrograms k out
  let goneFlight := if e.programInFlight k out then 1 else 0
  let goneFilling := match x.bufWith .filling with
    | none => 0
    | some b => if t.keeps (x.buf b).holds then 0 else 1
  let gone := min begun (goneData + goneWaiting + goneFlight + goneFilling)
  let e1 := (((e.cutChain x.bodyNo t.first t.last).unwant k out).withdrawPrograms k out)
  let e2 := if goneFilling = 1 then e1.idleFilling k else e1.handBuffer k
  ((e2.refund k gone).handTake k).modSession k (fun x => { x with trim := some t })

/-- A session in DRAINING whose kept segments are all DATA seals its body and ends (R29, R104, R130, R144). A POOL_LOW that a greeting replaced brings comes
before SESSION_END: DESIGN CHOICE (log 46; unsafe). -/
def Engine.checkDrained (k : Nat) (e : Engine) : Engine :=
  let x := e.session k
  match x.trim with
  | none => e
  | some t =>
    if x.state = .draining && t.last < x.programmed then
      let e1 := e.sealBody x.bodyNo t.offset t.count
      let e2 := match x.target with
        | .none => e1
        | .record r => e1.recordSealed r false
        | .slot g => e1.replaceGreeting x.mailbox g
      e2.enterEnded k (x.endCause.getD .stopped)
    else e

/-- The end sample of a take that ends by a cause, its onset found (R58 to R61). -/
def takeEnd (sn : Snapshot) (cause : Cause) (onset lastSpeech cursor : Nat) : Nat :=
  if cause = .maxLength then startSample sn onset + sn.maxSamples else stopEnd sn lastSpeech cursor

/-- The outcome of a take discarded before its onset (R26). -/
def discardedOutcome (cause : Cause) : Cause := if cause = .stopped then .noSpeech else cause

/-- A take ends by a cause, its end sample capped under store exhaustion (R26, R28, R66). A POOL_LOW that a discard brings comes before SESSION_END: DESIGN
CHOICE (log 46; unsafe). -/
def Engine.endTake (k : Nat) (cause : Cause) (cap : Option Nat) (e : Engine) : Engine :=
  let x := e.session k
  let e0 := (e.modSession k (fun x => { x.stopMeter with endCause := some cause })).releaseSlots k
  match x.snap, x.meter.bind (·.onset) with
  | some sn, some onset =>
    let last := (x.meter.bind (·.lastSpeech)).getD onset
    let startS := startSample sn onset
    let endS := match cap with
      | none => takeEnd sn cause onset last x.cursor
      | some c => min (takeEnd sn cause onset last x.cursor) c
    let t := trimOf startS endS
    if endS ≤ startS || t.count < sn.minSamples then
      ((e0.modSession k (fun x => { x with trim := some t })).discard k).enterEnded k (if cap.isSome then .storeFull else .tooShort)
    else ((e0.applyTrim k t).modSession k (fun x => { x with state := .draining })).checkDrained k
  | _, _ => (e0.discard k).enterEnded k (discardedOutcome cause)

/-- A buffer begins filling (R24): the take ends STORE_BUSY without an idle buffer and QUOTA when the charge is refused. -/
def Engine.startBuffer (k : Nat) (e : Engine) : Engine :=
  let x := e.session k
  match x.bufWith .idle with
  | none => e.endTake k .storeBusy none
  | some b =>
    if x.isMessage && (e.boxClass x.mailbox).quota < (e.counter x.mailbox).charged + 1 then e.endTake k .quota none
    else
      let e1 := e.modBuf k b (fun v => { v with role := .filling, holds := x.cursor / Config.segmentSamples })
      let e2 := e1.modHold x.bodyNo (fun h => { h with begun := h.begun + 1 })
      if x.isMessage then (e2.charge x.mailbox (· + 1)).handInputs x.mailbox else e2

/-- A window is complete and not yet closed (R23). -/
def Session.windowDue (x : Session) : Bool := x.state.recordLive && decide (x.windows < x.cursor / Config.windowSamples)

/-- A full buffer at a window end that did not end the take is handed, and the next begins (R23, R24). -/
def Engine.fullBuffer (k : Nat) (e : Engine) : Engine :=
  if (e.session k).cursor % Config.segmentSamples = 0 then (e.handBuffer k).startBuffer k else e

/-- A window end (R23, R25, R26, R47, R57 to R59). -/
def Engine.closeWindow (k : Nat) (e : Engine) : Engine :=
  let x := e.session k
  if !x.windowDue then e
  else match x.meter, x.snap with
    | some m, some sn =>
      let m1 := m.close sn x.windows
      let w := x.windows + 1
      let e1 := e.modSession k (fun x => { x with meter := some m1, windows := w })
      let toState : SessState → Engine := fun st => (e1.modSession k (fun x => { x with state := st })).fullBuffer k
      match x.state with
      | .cue =>
        if w = x.cueLength then toState (if m1.onset.isSome then .taking else .waitOnset) else e1.fullBuffer k
      | .waitOnset =>
        if m1.onset.isSome then toState .taking
        else if sn.noSpeechWindows ≤ w then e1.endTake k .noSpeech none
        else e1.fullBuffer k
      | _ =>
        if m1.silenceRun = sn.endSilenceWindows then e1.endTake k .silence none
        else if sn.maxSamples ≤ w * 64 - startSample sn (m1.onset.getD 0) then e1.endTake k .maxLength none
        else e1.fullBuffer k
    | _, _ => e

/-- A program request, already out of the queue, fails for want of segments (R28, R66, R78). -/
def Engine.storeFull (r : ProgReq) (e : Engine) : Engine :=
  let k := r.session
  let n := e.waitingPrograms k (fun _ => true)
  let e1 := ((e.modBuf k r.buf Buffer.idled).withdrawPrograms k (fun _ => true)).refund k (n + 1)
  let x := e1.session k
  let cap := Config.segmentSamples * x.programmed
  if x.state.recordLive then e1.endTake k .storeFull (some cap)
  else if x.state = .draining then
    match x.trim, x.snap with
    | some t, some sn =>
      let endS := min t.endSample cap
      let t1 := trimOf t.startSample endS
      let e2 := e1.modSession k (fun x => { x with endCause := some .storeFull, trim := some t1 })
      if endS ≤ t.startSample || t1.count < sn.minSamples then (e2.discard k).enterEnded k .storeFull
      else (e2.handTake k).checkDrained k
    | _, _ => e1
  else e1

/-- A record session receives a sample (R23). -/
def Session.receive (v : Int) (x : Session) : Session :=
  if x.state.recordLive then
    let x1 := match x.bufWith .filling with
      | none => x
      | some b => x.setBuf b { (x.buf b) with samples := Tab.set 0 (x.cursor % Config.segmentSamples) v (x.buf b).samples }
    { x1 with meter := x.meter.map (fun m => m.add v), cursor := x.cursor + 1, lossTimer := 0 }
  else x

/-! ## Playback -/

/-- The chain position of the cursor's segment (R30). -/
def Session.currentPos (x : Session) (offset : Nat) : Nat := (x.cursor + offset) / Config.segmentSamples

/-- The start offset of a body. -/
def Engine.offsetOf (e : Engine) (b : Nat) : Nat := ((e.body b).bind (·.offset)).getD 0

/-- A buffer of the session holds or is reading a chain position (R30). -/
def Session.covers (x : Session) (pos : Nat) : Bool :=
  let has : Buffer → Bool := fun b => (b.role = .reading || b.role = .playing || b.role = .prefetched) && b.holds = pos
  has x.buf0 || has x.buf1

/-- Ask for one read of a wanted segment that is not covered, the current before the next, into an idle buffer (R30). -/
def Engine.fetchOne (k : Nat) (e : Engine) : Engine :=
  let x := e.session k
  let chain := e.chain x.bodyNo
  let cur := x.currentPos (e.offsetOf x.bodyNo)
  if !x.state.playLive then e
  else match x.bufWith .idle, [cur, cur + 1].find? (fun p => decide (p < chain.length) && !x.covers p) with
    | some b, some p =>
      let req : ReadReq := { session := k, buf := b, segment := chain.getD p 0 }
      (e.modBuf k b (fun v => { v with role := .reading, holds := p })).modSsc (fun c => { c with readQueue := c.readQueue ++ [req] })
    | _, _ => e

/-- Ask for what the session wants (R30). -/
def Engine.fetch (k : Nat) (e : Engine) : Engine := (e.fetchOne k).fetchOne k

/-- What the end of a play session, its body of so many samples, does to its target record (R34, R132). -/
def Engine.playTarget (now : Now) (outcome : Cause) (samples : Nat) (x : Session) (e : Engine) : Engine :=
  match x.target with
  | .record r =>
    match e.record r with
    | none => e
    | some y =>
      if outcome = .finished then e.changeRecord r y (y.playedToEnd now)
      else if 0 < x.cursor && x.cursor < samples then e.changeRecord r y { y with resume := some x.cursor }
      else e
  | _ => e

/-- A play session enters ENDED (R34): its reader count falls, its target record takes the effect, and SESSION_END is raised last (R42), behind a POOL_LOW
that the release of the body may bring (R108, R74), which no rule orders: DESIGN CHOICE (log 46; unsafe). -/
def Engine.endPlay (now : Now) (k : Nat) (outcome : Cause) (e : Engine) : Engine :=
  let e1 := ((e.withdrawReads k).modSession k Session.dropPlayed).releaseSlots k
  let x := e1.session k
  ((e1.dropReader x.bodyNo).playTarget now outcome (e1.sampleCount x.bodyNo) x).enterEnded k outcome

/-- The value a session gives its outbound timeslot (R10, R13, R31 to R33). -/
def Engine.outValue (k : Nat) (e : Engine) : Int :=
  let x := e.session k
  match x.state with
  | .cue => cueTone e.tab.settings.cueLevel x.cursor
  | .playing =>
    match x.bufWith .playing with
    | none => 0
    | some b => Tab.get 0 (x.buf b).samples ((x.cursor + e.offsetOf x.bodyNo) % Config.segmentSamples)
  | _ => 0

/-- A play session crosses into the next segment of its chain (R32, R33). -/
def Session.cross (x : Session) : Session :=
  match x.bufWith .playing with
  | none => x
  | some b =>
    let x1 := x.setBuf b (x.buf b).idled
    match x1.bufWith .prefetched with
    | some o => x1.setBuf o { (x1.buf o) with role := .playing }
    | none => { x1 with state := .stalled, underruns := min 65535 (x1.underruns + 1) }

/-- A value has been taken from a session for its outbound timeslot (R10, R32, R43). -/
def Engine.outTaken (now : Now) (k : Nat) (e : Engine) : Engine :=
  let e1 := e.modSession k (fun x => { x with lossTimer := 0 })
  let x := e1.session k
  if x.state = .playing then
    let e2 := e1.modSession k (fun x => { x with cursor := x.cursor + 1 })
    if x.cursor + 1 = e.sampleCount x.bodyNo then e2.endPlay now k .finished
    else if (x.cursor + 1 + e.offsetOf x.bodyNo) % Config.segmentSamples = 0 then (e2.modSession k Session.cross).fetch k
    else e2
  else e1

/-- A read has been handed to its session (R30, R31, R33). -/
def Engine.readHanded (k b : Nat) (e : Engine) : Engine :=
  let x := e.session k
  let cur := x.currentPos (e.offsetOf x.bodyNo)
  let isCur := decide ((x.buf b).holds = cur)
  let e1 := e.modBuf k b (fun v => { v with role := if isCur then .playing else .prefetched })
  let e2 := if isCur && (x.state = .fetching || x.state = .stalled) then e1.modSession k (fun x => { x with state := .playing }) else e1
  e2.fetch k

/-! ## Orders and events on sessions -/

/-- STOP (R36), also the ending of CLOSE (R40). -/
def Engine.stopSession (now : Now) (k : Nat) (e : Engine) : Engine :=
  let st := (e.session k).state
  if st.recordLive then e.endTake k .stopped none
  else if st.playLive then e.endPlay now k .stopped
  else e

/-- CANCEL (R37). A POOL_LOW that the discard or the release brings comes before SESSION_END: DESIGN CHOICE (log 46; unsafe). -/
def Engine.cancelSession (now : Now) (k : Nat) (e : Engine) : Engine :=
  let st := (e.session k).state
  if st.recordLive || st = .draining then (((e.modSession k Session.stopMeter).discard k).releaseSlots k).enterEnded k .cancelled
  else if st.playLive then e.endPlay now k .stopped
  else e

/-- CLOSE (R40). -/
def Engine.closeSession (now : Now) (k : Nat) (e : Engine) : Engine :=
  if (e.session k).state = .ended then e.freeSession k
  else (e.modSession k (fun x => { x with closing := true })).stopSession now k

/-- PAUSE of a session in FETCHING, PLAYING or STALLED (R38). -/
def Session.pausing (x : Session) : Session := { x with pausedFrom := some x.state, state := .paused }

/-- RESUME of a PAUSED session (R38). -/
def Session.resuming (x : Session) : Session :=
  let st : SessState :=
    if (x.bufWith .playing).isSome then .playing
    else if x.pausedFrom = some .fetching then .fetching
    else .stalled
  { x with state := st, pausedFrom := none }

/-- The cursor a SEEK asks for, and whether it was clamped (R39). -/
def seekCursor (cursor count : Nat) (delta : Int) : Nat × Bool :=
  let want : Int := cursor + 800 * delta
  if want < 0 then (0, true) else if (count : Int) < want then (count, true) else (want.toNat, false)

/-- SEEK to a cursor (R39). -/
def Engine.seekSession (now : Now) (k cursor : Nat) (e : Engine) : Engine :=
  let x := e.session k
  let e1 := e.modSession k (fun x => { x with cursor := cursor })
  if cursor = e.sampleCount x.bodyNo then e1.endPlay now k .finished
  else
    let st : SessState := if x.state = .paused then .paused else .fetching
    let from_ : Option SessState := if x.state = .paused then some .fetching else x.pausedFrom
    (((e1.withdrawReads k).modSession k Session.dropPlayed).modSession k (fun x => { x with state := st, pausedFrom := from_ })).fetch k

/-- The loss timer of a session reaches 2 s (R43). -/
def Engine.loseSession (now : Now) (k : Nat) (e : Engine) : Engine :=
  let st := (e.session k).state
  let e1 := e.modSession k (fun x => { x with lossTimer := Config.lossPeriods })
  if st.recordLive then e1.endTake k .slotLost none
  else if st.playLive then e1.endPlay now k .slotLost
  else e

/-- A session ends FROZEN (R44): a take is neither trimmed, sealed nor discarded, a playing's target takes no effect, and the queues are left
as they stand (R97). The meter stops (R46), and the partial sum of the window in progress stands: DESIGN CHOICE (log 35; safe). -/
def Engine.freezeSession (k : Nat) (e : Engine) : Engine :=
  let x := e.session k
  if x.state = .free || x.state = .ended then e
  else
    let e1 := e.releaseSlots k
    let e2 := if x.state.playLive then
        let e2 := (e1.modSession k Session.dropPlayed).dropReader x.bodyNo
        match e2.ssc.link with
        | .reading r _ => if r.session = k then e2.modBuf k r.buf (fun b => { b with role := .stale }) else e2
        | _ => e2
      else e1
    let e3 := e2.modSession k (fun x => { x with state := .ended, outcome := some .frozen, endCause := none })
    e3.raise .sessionEnd ((e3.session k).endBytes k)

/-- Every session ends FROZEN (R44). -/
def Engine.freezeSessions (e : Engine) : Engine := (e.sessions.map (·.1)).foldl (fun e k => e.freezeSession k) e

/-- Sessions that are open (R17). -/
def Engine.openSessions (e : Engine) : Nat := (e.sessions.filter (fun kx => kx.2.state ≠ .free)).length

end Sys2Proof.Machine
end

