-- ==== Sys2Proof/Machine/Delivery.lean ====
section
/-! DEFINITION. The delivery engine (section 8): distribution lists, the member area and delivery jobs. -/

namespace Sys2Proof.Machine

/-! ## Lists -/

/-- At most n members of a list, by way of each entry's next: entry and mailbox (R153, R157). -/
def Engine.membersFrom (e : Engine) : Nat → Option Nat → List (Nat × Nat)
  | 0, _ => []
  | _ + 1, none => []
  | n + 1, some i =>
    match Tab.find? e.tab.members i with
    | none => []
    | some v => (i, v.mailbox) :: e.membersFrom n v.next

/-- The member entries of a list with their mailboxes, in list order (R153). -/
def Engine.listEntries (e : Engine) (l : Nat) : List (Nat × Nat) := e.membersFrom (e.list l).count (e.list l).first

/-- The members of a list in the order they were added (R153). -/
def Engine.listMembers (e : Engine) (l : Nat) : List Nat := (e.listEntries l).map (·.2)

/-- Free member entries (R153). -/
def Engine.freeEntries (e : Engine) : Nat := Config.memberEntries - e.tab.members.length

/-- A list is in use while a job targets it (R153). -/
def Engine.listInUse (e : Engine) (l : Nat) : Bool := e.dle.queue.any (fun j => j.target = .list l)

/-- Append a member, in the order of writes of R157. The entry taken is the lowest free one: DESIGN CHOICE (log 15; safe). The list's first, last and count
stand in one catalogue entry and are written together, so that the first member of an empty list, which has no last member to be linked after, is added by
two writes: DESIGN CHOICE (log 42; safe). -/
def Engine.addMember (l m : Nat) (e : Engine) : Engine :=
  let d := e.list l
  let i := Tab.lowestFree e.tab.members
  let e1 := e.put (.member i (some { mailbox := m, next := none }))
  let e2 := match d.last with
    | none => e1
    | some t => match Tab.find? e1.tab.members t with
      | none => e1
      | some v => e1.put (.member t (some { v with next := some i }))
  e2.put (.list l { first := d.first.or (some i), last := some i, count := d.count + 1 })

/-- The counts of a LIST ADD (R154). -/
structure AddCounts where
  added : Nat
  present : Nat
  left : Nat
deriving DecidableEq, Repr

/-- Take the numbers of a LIST ADD in the order given (R154). -/
def Engine.addMembers (l : Nat) : List Nat → AddCounts → Engine → AddCounts × Engine
  | [], c, e => (c, e)
  | m :: ms, c, e =>
    if (e.listMembers l).contains m then e.addMembers l ms { c with present := c.present + 1 }
    else if (e.list l).count < Config.listMembers && 0 < e.freeEntries then
      (e.addMember l m).addMembers l ms { c with added := c.added + 1 }
    else ({ c with left := (m :: ms).length }, e)

/-- Empty a list: it is written as empty first, and then its entries are marked free (R157), the first member's first: DESIGN CHOICE (log 15; safe). -/
def Engine.clearList (l : Nat) (e : Engine) : Engine :=
  (e.listEntries l).foldl (fun e x => e.put (.member x.1 none)) (e.put (.list l DistList.empty))

/-! ## Jobs -/

def Engine.modDle (f : Dle → Dle) (e : Engine) : Engine := { e with dle := f e.dle }

/-- No skips yet (R158). -/
def Skips.zero : Skips := { disabled := 0, notAccepting := 0, full := 0, quota := 0, tableFull := 0, sourceBox := 0 }

/-- A skip raises the count of its reason (R161). -/
def Skips.add (r : SkipReason) (s : Skips) : Skips :=
  match r with
  | .disabled => { s with disabled := s.disabled + 1 }
  | .notAccepting => { s with notAccepting := s.notAccepting + 1 }
  | .full => { s with full := s.full + 1 }
  | .quota => { s with quota := s.quota + 1 }
  | .tableFull => { s with tableFull := s.tableFull + 1 }
  | .sourceBox => { s with sourceBox := s.sourceBox + 1 }

/-- The content of DELIVERY_DONE (R164, 11.8). -/
def Job.doneBytes (j : Job) : List Byte :=
  be2 j.number ++ be1 (if j.cancel then 1 else 0) ++ be2 j.sourceBox ++ be2 j.sourceRecord ++ be2 j.delivered ++ be2 j.skips.disabled ++
    be2 j.skips.notAccepting ++ be2 j.skips.full ++ be2 j.skips.quota ++ be2 j.skips.tableFull ++ be2 j.skips.sourceBox ++
    be2 (j.recipients - j.nextPos)

/-- A job ends (R164): it leaves the queue, its pin falls, DELIVERY_DONE is raised, behind a POOL_LOW that the release of the body may bring: DESIGN CHOICE
(log 46; unsafe). -/
def Engine.endJob (j : Job) (e : Engine) : Engine :=
  ((e.modDle (fun d => { d with queue := d.queue.filter (fun i => i.number ≠ j.number) })).dropPin j.body).raise .deliveryDone j.doneBytes

/-- The running job has nothing more to take (R163, R164). -/
def Job.finished (j : Job) : Bool := j.current.isNone && (j.cancel || decide (j.recipients ≤ j.nextPos))

/-- The next job that is due to end: a queued one that is cancelled, or the running one when it is finished (R163, R164). A job whose list has no members
ends when it runs, the jobs ahead having ended (R159), and not before: DESIGN CHOICE (log 36; safe). -/
def Dle.due (d : Dle) : Option Job :=
  match d.queue with
  | [] => none
  | j :: q => if j.finished then some j else q.find? (·.cancel)

/-- End every job that is due to end, at most n of them (R163, R164). Jobs do not end in a halted part (R165). -/
def Engine.endJobs : Nat → Engine → Engine
  | 0, e => e
  | n + 1, e =>
    if e.halted then e
    else match e.dle.due with
      | none => e
      | some j => (e.endJob j).endJobs n

/-- The recipient at a position of a job (R160). -/
def Engine.recipientAt (e : Engine) (j : Job) : Option Nat :=
  match j.target with
  | .mailbox m => some m
  | .list l => (e.listMembers l)[j.nextPos]?

/-- Change the running job. -/
def Engine.modRunning (f : Job → Job) (e : Engine) : Engine :=
  e.modDle (fun d => { d with queue := match d.queue with | [] => [] | j :: q => f j :: q })

/-- The running job takes its next recipient and judges it (R160, R161). The recipient of a copy stays current until the copy's catalogue
writes are complete; a skip's is judged at once. -/
def Engine.takeRecipient (now : Now) (e : Engine) : Engine :=
  match e.dle.queue with
  | [] => e
  | j :: _ =>
    if j.current.isSome || j.cancel || !decide (j.nextPos < j.recipients) then e
    else match e.recipientAt j with
      | none => e
      | some m =>
        let reason := if m = j.sourceBox && j.skipSource then some .sourceBox else e.copyRefusal m j.extent
        match reason with
        | some r => e.modRunning (fun j => { j with nextPos := j.nextPos + 1, skips := j.skips.add r })
        | none =>
          ((e.makeCopy now m j.body j.extent j.sourceBox j.urgent j.caller).modRunning
            (fun j => { j with nextPos := j.nextPos + 1, current := some m, delivered := j.delivered + 1 })).flush .copied

/-- A job is writing to a mailbox (R135, R160). -/
def Engine.jobWriting (m : Nat) (e : Engine) : Bool :=
  match e.dle.queue with
  | [] => false
  | j :: _ => j.current = some m

end Sys2Proof.Machine
end

