-- ==== Sys2Proof/Machine/Arbiter.lean ====
section
/-! DEFINITION. The store link: the arbiter's choice (R77, R78), the ends of operations (R79 to R85), the completion of catalogue writes (R80), and
what the part does at once after every step. -/

namespace Sys2Proof.Machine

/-! ## Starting operations -/

/-- Start an ERASE of the erase queue head (R72). -/
def Engine.startErase (e : Engine) : Engine :=
  match Run.head? e.ssc.eraseQueue with
  | none => e
  | some i => e.modSsc (fun c => { c with link := .erasing i, opTimer := 0 })

/-- Start a READ of the read queue head (R75). -/
def Engine.startRead (e : Engine) : Engine :=
  match e.ssc.readQueue with
  | [] => e
  | r :: q => e.modSsc (fun c => { c with readQueue := q, link := .reading r 1, opTimer := 0 })

/-- Start a PROGRAM of a request on the free list head, whose ALLOCATED state is recorded before the program is issued (R83). -/
def Engine.startProgram (r : ProgReq) (i : Nat) (e : Engine) : Engine :=
  let e1 := e.modSsc (fun c => { c with progQueue := c.progQueue.tail, freeList := c.freeList.tail, link := .allocating r i true, opTimer := 0 })
  let e2 := e1.put (.segment i { state := .allocated, body := none, next := none, eraseFailures := (e.segment i).eraseFailures })
  (e2.flush .allocated).examinePool

/-- A program is chosen: it starts, or fails STORE_FULL without occupying the link (R78). -/
def Engine.chooseProgram (e : Engine) : Engine :=
  match e.ssc.progQueue, e.ssc.freeList with
  | [], _ => e
  | r :: _, i :: _ => e.startProgram r i
  | r :: q, [] => ((e.modSsc (fun c => { c with progQueue := q })).storeFull r).flush .nothing

/-- The arbiter may choose: the link is idle in SERVICE (R77). -/
def Engine.linkFree (e : Engine) : Bool := e.ssc.service = .service && e.ssc.link = .idle && !e.halted

/-- The arbiter's choice (R77), made again after each STORE_FULL failure (R78), at most n times. -/
def Engine.arbitrate : Nat → Engine → Engine
  | 0, e => e
  | n + 1, e =>
    if !e.linkFree then e
    else if e.ssc.progQueue ≠ [] && e.ssc.freeList = [] && e.ssc.eraseQueue ≠ [] then e.startErase
    else if Config.programPressure ≤ e.ssc.progQueue.length then e.chooseProgram.arbitrate n
    else if e.ssc.readQueue ≠ [] then e.startRead
    else if e.ssc.progQueue ≠ [] then e.chooseProgram.arbitrate n
    else if e.ssc.eraseQueue ≠ [] then e.startErase
    else e

/-- What the part does at once when a command's own effect is done: the writes asked for become a sequence (R80), jobs that are due end
(R164), and the arbiter chooses (R77). It chooses once, when all the requests and DIRTY segments that the command or order brings have arrived, where R77
chooses at each arrival at an idle link: DESIGN CHOICE (log 40; unsafe). -/
def Engine.settle (e : Engine) : Engine :=
  let e1 := ((e.flush .nothing).endJobs (Config.jobs + 1)).flush .nothing
  e1.arbitrate (e1.ssc.progQueue.length + 1)

/-! ## Ends of operations -/

/-- An operation's result waits to be recorded (R79). -/
def Engine.recordResult (e : Engine) : Engine := (e.modSsc (fun c => { c with link := .recording })).flush .recorded

/-- The link becomes idle, nothing being recorded (R81). -/
def Engine.freeLink (e : Engine) : Engine := e.modSsc (fun c => { c with link := .idle })

/-- A read ends: good, or failed by a cause (R81, R82). -/
def Engine.readEnds (r : ReadReq) (attempt : Nat) (failure : Option StoreCause) (e : Engine) : Engine :=
  let k := r.session
  if ((e.session k).buf r.buf).role = .stale then ((e.modBuf k r.buf Buffer.idled).freeLink).fetch k
  else match failure with
    | none =>
      ((e.modBuf k r.buf (fun b => { b with samples := Tab.get [] e.ssc.flash r.segment })).freeLink).readHanded k r.buf
    | some cause =>
      if attempt = 1 then e.modSsc (fun c => { c with link := .reading r 2, opTimer := 0 })
      else
        let e1 := (e.modBuf k r.buf (fun b => { b with samples := [] })).modSession k
          (fun x => { x with readFaults := min 65535 (x.readFaults + 1) })
        ((e1.freeLink).raiseStoreFault .read r.segment cause (some k)).readHanded k r.buf

/-- A program that its take no longer wants has been accepted by the store: it counts for the cap of R66 where its take still drains, the segment before
the kept run. An unwanted program of any other session belongs to a take that has ended, and is none of the session's present take. -/
def Session.accepted (r : ProgReq) (x : Session) : Session :=
  match x.trim with
  | none => x
  | some t => if x.state = .draining && x.body = some r.body && r.takeSegment < t.first then { x with programmed := r.takeSegment + 1 } else x

/-- A program succeeds (R83): its segment is linked, or goes DIRTY when its request is no longer wanted. -/
def Engine.programDone (r : ProgReq) (i : Nat) (wanted : Bool) (e : Engine) : Engine :=
  let k := r.session
  let e0 := e.modSsc (fun c => { c with flash := Tab.set [] i ((e.session k).buf r.buf).samples c.flash })
  if wanted then
    let e1 := (e0.linkSegment r.body i).recordResult
    ((e1.modBuf k r.buf Buffer.idled).modSession k (fun x => { x with programmed := r.takeSegment + 1 })).checkDrained k
  else
    (((e0.joinDirty i).recordResult.modBuf k r.buf Buffer.idled).modSession k (Session.accepted r)).fetch k

/-- A program fails by a cause (R84): its segment is RETIRED, and its request returns to the head of the queue or is dropped. -/
def Engine.programFailed (r : ProgReq) (i : Nat) (wanted : Bool) (cause : StoreCause) (e : Engine) : Engine :=
  let k := r.session
  let e1 := e.put (.segment i { state := .retired, body := none, next := none, eraseFailures := (e.segment i).eraseFailures })
  let e2 := (e1.recordResult).raiseStoreFault .program i cause (some k)
  if wanted then e2.modSsc (fun c => { c with progQueue := r :: c.progQueue })
  else (e2.modBuf k r.buf Buffer.idled).fetch k

/-- An erase succeeds (R85). -/
def Engine.eraseDone (i : Nat) (e : Engine) : Engine :=
  ((e.put (.segment i { state := .erased, body := none, next := none, eraseFailures := 0 })).modSsc
    (fun c => { c with eraseQueue := Run.pop c.eraseQueue, freeList := c.freeList ++ [i], flash := Tab.erase i c.flash })).recordResult

/-- An erase fails by a cause (R85): a first failure requeues the segment, a second retires it. The STORE_FAULT comes before the POOL_LOW that the fall of
the available count may bring (R74): DESIGN CHOICE (log 41; safe). -/
def Engine.eraseFailed (i : Nat) (cause : StoreCause) (e : Engine) : Engine :=
  if (e.segment i).eraseFailures = 0 then
    ((e.put (.segment i { state := .dirty, body := none, next := none, eraseFailures := 1 })).modSsc
      (fun c => { c with eraseQueue := Run.push i (Run.pop c.eraseQueue) })).recordResult
  else
    (((e.put (.segment i { state := .retired, body := none, next := none, eraseFailures := (e.segment i).eraseFailures })).modSsc
      (fun c => { c with eraseQueue := Run.pop c.eraseQueue })).recordResult.raiseStoreFault .erase i cause none).examinePool

/-! ## Completed catalogue writes -/

/-- What the completion of a sequence brings. -/
def Engine.afterSeq (t : Then) (e : Engine) : Engine :=
  match t with
  | .nothing => e
  | .allocated =>
    match e.ssc.link with
    | .allocating r i w => e.modSsc (fun c => { c with link := .programming r i w, opTimer := 0 })
    | _ => e
  | .recorded => if e.ssc.link = .recording then e.freeLink else e
  | .cut is => e.makeAllDirty is
  | .copied => e.modRunning (fun j => { j with current := none })
  | .answer p => e.placeAnswer p

/-- The catalogue write in flight completes, and the next write asked for begins (R80). -/
def Engine.writeDone (e : Engine) : Engine :=
  match e.catQueue with
  | [] => e
  | x :: q =>
    match x.writes with
    | [] => { e with catQueue := q }.afterSeq x.after
    | w :: ws =>
      let e1 := { e with cat := w.apply e.cat }
      if ws = [] then { e1 with catQueue := q }.afterSeq x.after
      else { e1 with catQueue := requeue { x with writes := ws } q }

end Sys2Proof.Machine
end

