-- ==== Sys2Proof/Machine/Calendar.lean ====
section
/-! DEFINITION. The calendar (section 10): the fields, the second counted, the retention sweep. -/

namespace Sys2Proof.Machine

/-! ## The fields (R186) -/

/-- The length of a month of a year 2000 + y (R186). -/
def monthLength (y m : Nat) : Nat :=
  if m = 2 then (if y % 4 = 0 then 29 else 28) else if m = 4 || m = 6 || m = 9 || m = 11 then 30 else 31

/-- The days of a year before its month m (R186). -/
def daysBefore (y : Nat) : Nat → Nat
  | 0 => 0
  | 1 => 0
  | m + 2 => daysBefore y (m + 1) + monthLength y (m + 1)

/-- The day number of a date (R186). -/
def dayNumber (y m d : Nat) : Nat := 365 * y + (y + 3) / 4 + daysBefore y m + (d - 1)

def Cal.dayNumber (c : Cal) : Nat := Sys2Proof.Machine.dayNumber c.year c.month c.day

/-- The second of day (R186). -/
def Cal.secondOfDay (c : Cal) : Nat := c.hour * 3600 + c.minute * 60 + c.second

/-- The day of week, day 0 being a Saturday (R186). -/
def Cal.dayOfWeek (c : Cal) : Nat := c.dayNumber % 7

/-- The fields give a date and time (R186, R190). -/
def dateLegal (y mo d h mi se : Nat) : Bool :=
  y ≤ 99 && 1 ≤ mo && mo ≤ 12 && 1 ≤ d && d ≤ monthLength y mo && h ≤ 23 && mi ≤ 59 && se ≤ 59

/-- The fields stand at 2099-12-31 23:59:59 (R186). -/
def Cal.atEnd (c : Cal) : Bool :=
  c.year = 99 && c.month = 12 && c.day = 31 && c.hour = 23 && c.minute = 59 && c.second = 59

/-- The fields one second on (R186). -/
def Cal.carry (c : Cal) : Cal :=
  if c.second < 59 then { c with second := c.second + 1 }
  else if c.minute < 59 then { c with minute := c.minute + 1, second := 0 }
  else if c.hour < 23 then { c with hour := c.hour + 1, minute := 0, second := 0 }
  else if c.day < monthLength c.year c.month then { c with day := c.day + 1, hour := 0, minute := 0, second := 0 }
  else if c.month < 12 then { c with month := c.month + 1, day := 1, hour := 0, minute := 0, second := 0 }
  else { c with year := c.year + 1, month := 1, day := 1, hour := 0, minute := 0, second := 0 }

/-- A second counted, in the fields (R186). -/
def Cal.advance (c : Cal) : Cal := if c.atEnd then { c with valid := false } else c.carry

/-- A snapshot for stamps (R192). -/
def Cal.now (c : Cal) : Now := { day := c.dayNumber, second := c.secondOfDay, valid := c.valid }

def State.now (s : State) : Now := s.cal.now

/-! ## The sweep (R193 to R196) -/

/-- A sweep starts (R193). -/
def Cal.startSweep (cause : SweepCause) (c : Cal) : Cal :=
  { c with sweep := { running := true, cause := cause, pointer := 0, deleted := 0, stamped := 0, startDay := c.dayNumber } }

/-- The fields stand at the sweep hour (R193). -/
def Cal.atSweepHour (hour : Nat) (c : Cal) : Bool := c.hour = hour && c.minute = 0 && c.second = 0

/-- The content of SWEEP_DONE, with outcome COMPLETED 0 or CLOCK_INVALID 1 (R196, 11.8). -/
def Sweep.doneBytes (outcome : Nat) (w : Sweep) : List Byte :=
  be1 w.cause.code ++ be1 outcome ++ be2 w.startDay ++ be2 w.deleted ++ be2 w.stamped

/-- The sweep ends (R196). -/
def State.endSweep (outcome : Nat) (s : State) : State :=
  { s with cal := { s.cal with sweep := { s.cal.sweep with running := false } },
           eng := s.eng.raise .sweepDone (s.cal.sweep.doneBytes outcome) }

/-- A record in HEARD or SAVED has been kept longer than its class says (R194). -/
def Engine.expired (e : Engine) (x : Record) (heardDay today : Nat) : Bool :=
  let c := e.boxClass x.mailbox
  let keep := if x.state = .saved then c.savedRetention else c.heardRetention
  decide (0 < keep) && decide (heardDay + keep < today)

/-- What an examination does to the entry at the pointer (R194), and what it adds to the deleted and stamped counts. -/
def Engine.examineEntry (r today : Nat) (e : Engine) : Engine × Nat × Nat :=
  match e.record r with
  | none => (e, 0, 0)
  | some x =>
    if x.state = .heard || x.state = .saved then
      match x.heardDay with
      | none => (e.put (.record r (some { x with heardDay := some today })), 0, 1)
      | some d => if e.expired x d today then (e.freeRecord r, 1, 0) else (e, 0, 0)
    else (e, 0, 0)

/-- One examination of the running sweep (R194). A POOL_LOW that the last record freed brings comes before SWEEP_DONE: DESIGN CHOICE (log 46; unsafe). -/
def State.examination (s : State) : State :=
  if !s.cal.valid then s.endSweep 1
  else
    let w := s.cal.sweep
    let (e, del, stamp) := s.eng.examineEntry w.pointer s.cal.dayNumber
    let w1 := { w with pointer := w.pointer + 1, deleted := w.deleted + del, stamped := w.stamped + stamp }
    let s1 := { s with eng := e, cal := { s.cal with sweep := w1 } }
    if w1.pointer = Config.records then s1.endSweep 0 else s1

/-! ## Seconds (R188) -/

/-- A second is handed to the lamp unit, whose state stands in FROZEN (R180, R185). -/
def Engine.lampSecond (e : Engine) : Engine :=
  if e.ssc.service = .frozen then e else { e with lmp := { e.lmp with seconds := e.lmp.seconds + 1 } }

/-- The automatic sweep is due to start (R193). -/
def State.sweepDue (s : State) : Bool :=
  s.cal.valid && s.eng.ssc.service = .service && !s.cal.sweep.running && s.cal.atSweepHour s.eng.tab.settings.sweepHour

/-- A second is counted (R188): the fields, the lamp unit, the sweep, and the MGC's report gate (R201). -/
def State.secondCounted (s : State) : State :=
  let s1 : State := { s with cal := s.cal.advance, eng := s.eng.lampSecond }
  let s2 : State := if s1.sweepDue then { s1 with cal := s1.cal.startSweep .automatic } else s1
  { s2 with eng := s2.eng.gateSecond }

/-- A seconds pulse that the HWI has given is taken (R14, R188). -/
def State.takePulse (s : State) : State :=
  if s.hwi.pulseDue then ({ s with hwi := { s.hwi with pulseDue := false } } : State).secondCounted else s

end Sys2Proof.Machine
end

