-- ==== Sys2Proof/Machine/Operands.lean ====
section
/-! DEFINITION. Reading the parameters of an order (11.8): numbers most significant byte first, optional fields, yes/no bytes, signed numbers. -/

namespace Sys2Proof.Machine

/-- The byte at a place of the parameters. -/
def byteAt (ps : List Byte) (i : Nat) : Byte := ps.getD i 0

/-- One-, two- and three-byte numbers at a place. -/
def num1 (ps : List Byte) (i : Nat) : Nat := (byteAt ps i).toNat

def num2 (ps : List Byte) (i : Nat) : Nat := num1 ps i * 256 + num1 ps (i + 1)

def num3 (ps : List Byte) (i : Nat) : Nat := num2 ps i * 256 + num1 ps (i + 2)

/-- Optional numbers: absent when every byte is $FF. -/
def optNum1 (ps : List Byte) (i : Nat) : Option Nat := if num1 ps i = 0xFF then none else some (num1 ps i)

def optNum3 (ps : List Byte) (i : Nat) : Option Nat := if num3 ps i = 0xFFFFFF then none else some (num3 ps i)

/-- A yes/no byte: a value other than 0 and 1 has no meaning (R202). -/
def yesNo (ps : List Byte) (i : Nat) : Option Bool :=
  match num1 ps i with
  | 0 => some false
  | 1 => some true
  | _ => none

/-- A two-byte signed number in two's complement. -/
def signed2 (ps : List Byte) (i : Nat) : Int :=
  if num2 ps i < 32768 then (num2 ps i : Int) else (num2 ps i : Int) - 65536

/-- A two-byte mask. -/
def maskAt (ps : List Byte) (i : Nat) : BitVec 16 := BitVec.ofNat 16 (num2 ps i)

/-- A value clamped to a range (00, Rounding). -/
def clamp (lo hi x : Nat) : Nat := max lo (min hi x)

/-- The address number of a lamp address of three bytes, absent when a part is out of range (R119, R182). -/
def lampAt (ps : List Byte) (i : Nat) : Option Nat :=
  if num1 ps i ≤ 15 && num1 ps (i + 1) ≤ 31 && num1 ps (i + 2) ≤ 31 then
    some (num1 ps i * 1024 + num1 ps (i + 1) * 32 + num1 ps (i + 2))
  else none

end Sys2Proof.Machine
end

