-- ==== Sys2Proof/Machine/Reply.lean ====
section
/-! DEFINITION. What the owner of an order gives back to the order processor (R202). -/

namespace Sys2Proof.Machine

/-- The owner's reply to an order: the result, the answer's data, and the part after the order's own effect. -/
structure Reply where
  result : Result
  data : List Byte
  state : State
  /-- The answer waits for the catalogue writes of the order (R100). -/
  waits : Bool
deriving DecidableEq, Repr

/-- A refusal carries no data and changes nothing (R202). -/
def Reply.refuse (r : Result) (s : State) : Reply := { result := r, data := [], state := s, waits := false }

/-- An order carried out. -/
def Reply.done (data : List Byte) (s : State) : Reply := { result := .done, data := data, state := s, waits := false }

/-- The first refusal of a table of checks, in order (R202). -/
def firstRefusal : List (Bool × Result) → Option Result
  | [] => none
  | (c, r) :: cs => if c then some r else firstRefusal cs

/-- Answer the first refusal that applies, and otherwise carry the order out. -/
def Reply.checked (checks : List (Bool × Result)) (s : State) (act : Reply) : Reply :=
  match firstRefusal checks with
  | some r => Reply.refuse r s
  | none => act

/-- A mailbox number is out of range, and the mailbox is unloaded (R118): the two checks every order that names a mailbox makes. -/
def boxRange (m : Nat) : Bool × Result := (decide (Config.mailboxes ≤ m), .badField)

def boxLoaded (m : Nat) (s : State) : Bool × Result := ((s.eng.mailbox m).isNone, .noSuch)

/-- A record is free or names another mailbox (R131, R134, R137, R159). -/
def recordForeign (m r : Nat) (s : State) : Bool × Result :=
  ((s.eng.record r).all (fun x => x.mailbox ≠ m), .noSuch)

/-- A record is in RECORDING. -/
def recordRecording (r : Nat) (s : State) : Bool × Result :=
  ((s.eng.record r).any (fun x => x.state = .recording), .wrongState)

end Sys2Proof.Machine
end

