-- ==== Sys2Proof/Machine/DeliveryOrders.lean ====
section
/-! DEFINITION. The orders of distribution lists and deliveries (section 8). -/

namespace Sys2Proof.Machine

/-- A list number is out of range, and the list is in use (R154, R155). -/
def listRange (l : Nat) : Bool × Result := (decide (Config.lists ≤ l), .badField)

def listBusy (l : Nat) (s : State) : Bool × Result := (s.eng.listInUse l, .busy)

/-- LIST CLEAR (R155). Of a list already empty it asks for no catalogue write: DESIGN CHOICE (log 43; safe). -/
def orderListClear (ps : List Byte) (s : State) : Reply :=
  let l := num1 ps 0
  let removed := (s.eng.list l).count
  let s1 := if removed = 0 then s else s.onEng (fun e => e.clearList l)
  Reply.checked [listRange l, listBusy l s] s (Reply.done (be2 removed ++ be2 s1.eng.freeEntries) s1)

/-- The mailbox numbers of a LIST ADD (11.8). -/
def addNumbers (ps : List Byte) (n : Nat) : List Nat := (List.range n).map (fun i => num2 ps (2 + 2 * i))

/-- An accepted LIST ADD, DONE or FULL with the same data (R154). -/
def acceptListAdd (l : Nat) (ms : List Nat) (s : State) : Reply :=
  let (c, e1) := s.eng.addMembers l ms { added := 0, present := 0, left := 0 }
  { result := if c.left = 0 then .done else .full,
    data := be1 c.added ++ be1 c.present ++ be1 c.left ++ be2 (e1.list l).count ++ be2 e1.freeEntries,
    state := { s with eng := e1 }, waits := false }

/-- LIST ADD (R154). -/
def orderListAdd (ps : List Byte) (s : State) : Reply :=
  let l := num1 ps 0
  let n := num1 ps 1
  let ms := addNumbers ps n
  Reply.checked
    [(decide (Config.lists ≤ l) || n = 0 || decide (16 < n) || ms.any (fun m => decide (Config.mailboxes ≤ m)), .badField), listBusy l s] s
    (acceptListAdd l ms s)

/-- A place of READ LIST, $FFFF when unused (11.8). -/
def memberPlaces (given : List Nat) : List Byte := (List.range 16).flatMap (fun i => opt2 given[i]?)

/-- READ LIST (R156). -/
def orderReadList (ps : List Byte) (s : State) : Reply :=
  let e := s.eng
  let l := num1 ps 0
  let start := num2 ps 1
  let members := e.listMembers l
  let given := (members.drop start).take 16
  let next : Option Nat := if given ≠ [] && start + given.length < members.length then some (start + given.length) else none
  Reply.checked [(decide (Config.lists ≤ l) || decide (511 < start), .badField)] s
    (Reply.done (be2 (e.list l).count ++ yes1 (e.listInUse l) ++ be2 e.freeEntries ++ be1 given.length ++ opt2 next ++ memberPlaces given) s)

/-- The job number after a job number (R158). -/
def nextJobNumber (n : Nat) : Nat := if n = 65535 then 1 else n + 1

/-- The job of an accepted DELIVER (R158). -/
def Engine.newJob (e : Engine) (m r : Nat) (x : Record) (t : JobTarget) (urgent skip : Bool) : Job :=
  { number := e.dle.nextNumber, sourceBox := m, sourceRecord := r, body := x.body, extent := e.extent x.body, caller := x.caller, target := t,
    recipients := match t with | .mailbox _ => 1 | .list l => (e.list l).count,
    urgent := urgent, skipSource := skip, nextPos := 0, current := none, cancel := false, delivered := 0, skips := Skips.zero }

/-- A job joins the queue and pins its source body (R106, R159). -/
def Engine.acceptJob (j : Job) (e : Engine) : Engine :=
  (e.modDle (fun d => { queue := d.queue ++ [j], nextNumber := nextJobNumber d.nextNumber })).modHold j.body (fun h => { h with pins := h.pins + 1 })

/-- The target of a DELIVER, absent when out of range (R159). -/
def jobTarget (kind n : Nat) : Option JobTarget :=
  match kind with
  | 0 => if n < Config.lists then some (.list n) else none
  | 1 => if n < Config.mailboxes then some (.mailbox n) else none
  | _ => none

/-- DELIVER (R159). -/
def orderDeliver (ps : List Byte) (s : State) : Reply :=
  let e := s.eng
  let m := num2 ps 0
  let r := num2 ps 2
  let target := jobTarget (num1 ps 4) (num2 ps 5)
  let urgent := yesNo ps 7
  let skip := yesNo ps 8
  Reply.checked
    [(decide (Config.mailboxes ≤ m) || decide (Config.records ≤ r) || target.isNone || urgent.isNone || skip.isNone, .badField),
     boxLoaded m s, recordForeign m r s, recordRecording r s, (decide (Config.jobs ≤ e.dle.queue.length), .busy)] s
    (match e.record r, target with
    | some x, some t =>
      let j := e.newJob m r x t (urgent.getD false) (skip.getD false)
      Reply.done (be2 j.number ++ be2 j.recipients ++ be1 e.dle.queue.length) (s.onEng (fun e => e.acceptJob j))
    | _, _ => Reply.refuse .noSuch s)

/-- A job is asked to cancel (R163). It ends, when nothing is being written for it, in the same step. -/
def Engine.cancelJob (n : Nat) (e : Engine) : Engine :=
  e.modDle (fun d => { d with queue := d.queue.map (fun j => if j.number = n then { j with cancel := true } else j) })

/-- CANCEL DELIVERY (R163). -/
def orderCancelDelivery (ps : List Byte) (s : State) : Reply :=
  let n := num2 ps 0
  Reply.checked [(n = 0, .badField), (!s.eng.dle.queue.any (fun j => j.number = n), .noSuch)] s
    (Reply.done [] (s.onEng (fun e => e.cancelJob n)))

end Sys2Proof.Machine
end

