-- ==== Sys2Proof/Machine/MailboxOrders.lean ====
section
/-! DEFINITION. The orders of classes, mailboxes, messages and greetings (sections 6 and 7). -/

namespace Sys2Proof.Machine

/-! ## Classes (R116, R117) -/

/-- The fifteen class fields as an order gives them, from place i (11.8). -/
def MailClass.read (ps : List Byte) (i : Nat) : MailClass :=
  { maxMessages := num1 ps i, quota := num2 ps (i + 1), maxMessage := num2 ps (i + 3), minMessage := num1 ps (i + 5),
    maxGreeting := num2 ps (i + 6), noSpeech := num1 ps (i + 8), endSilence := num1 ps (i + 9), preRoll := num1 ps (i + 10),
    hangover := num1 ps (i + 11), mask := num1 ps (i + 12), tOn := num2 ps (i + 13), tOff := num2 ps (i + 15), margin := num1 ps (i + 17),
    heardRetention := num2 ps (i + 18), savedRetention := num2 ps (i + 20) }

/-- The fifteen class fields as an answer gives them (11.8). -/
def MailClass.bytes (c : MailClass) : List Byte :=
  be1 c.maxMessages ++ be2 c.quota ++ be2 c.maxMessage ++ be1 c.minMessage ++ be2 c.maxGreeting ++ be1 c.noSpeech ++ be1 c.endSilence ++
    be1 c.preRoll ++ be1 c.hangover ++ be1 c.mask ++ be2 c.tOn ++ be2 c.tOff ++ be1 c.margin ++ be2 c.heardRetention ++ be2 c.savedRetention

/-- Every field clamped to its range, T_off then to T_on (R115, R116). -/
def MailClass.clamped (c : MailClass) : MailClass :=
  let tOn := clamp 0 3952 c.tOn
  { maxMessages := clamp 1 255 c.maxMessages, quota := clamp 16 65535 c.quota, maxMessage := clamp 10 600 c.maxMessage,
    minMessage := clamp 0 50 c.minMessage, maxGreeting := clamp 5 300 c.maxGreeting, noSpeech := clamp 1 30 c.noSpeech,
    endSilence := clamp 5 100 c.endSilence, preRoll := clamp 0 63 c.preRoll, hangover := clamp 0 127 c.hangover, mask := clamp 0 255 c.mask,
    tOn := tOn, tOff := min (clamp 0 3952 c.tOff) tOn, margin := clamp 0 255 c.margin, heardRetention := clamp 0 365 c.heardRetention,
    savedRetention := clamp 0 3650 c.savedRetention }

/-- Hand the lamp inputs of mailboxes, in order (R116, R127). -/
def Engine.handAll (ms : List Nat) (e : Engine) : Engine := ms.foldl (fun e m => e.handInputs m) e

/-- The loaded mailboxes, ascending. -/
def Engine.loadedBoxes (e : Engine) : List Nat := e.tab.mailboxes.map (·.1)

/-- The loaded mailboxes of a class. LOAD CLASS hands their lamp inputs in rising number: DESIGN CHOICE (log 15; safe). -/
def Engine.classBoxes (k : Nat) (e : Engine) : List Nat := (e.tab.mailboxes.filter (fun mb => mb.2.fields.cls = k)).map (·.1)

/-- LOAD CLASS (R116). -/
def orderLoadClass (ps : List Byte) (s : State) : Reply :=
  let k := num1 ps 0
  let given := MailClass.read ps 1
  let kept := given.clamped
  Reply.checked [(decide (15 < k), .badField)] s
    (Reply.done (yes1 (kept ≠ given)) (s.onEng (fun e => (e.put (.cls k kept)).handAll (e.classBoxes k))))

/-- READ CLASS (R117). -/
def orderReadClass (ps : List Byte) (s : State) : Reply :=
  let k := num1 ps 0
  Reply.checked [(decide (15 < k), .badField)] s (Reply.done (s.eng.cls k).bytes s)

/-! ## Mailboxes (R119 to R121) -/

/-- The lamp addresses of a LOAD MAILBOX, absent when one is out of range (R119). -/
def lampsAt (ps : List Byte) (i : Nat) : Nat → Option (List Nat)
  | 0 => some []
  | n + 1 =>
    match lampAt ps i, lampsAt ps (i + 3) n with
    | some a, some as => some (a :: as)
    | _, _ => none

/-- The fields of a LOAD MAILBOX, absent when one is out of range or an address appears twice (R119). Every refusal is BAD_FIELD. -/
def readBoxFields (ps : List Byte) : Option BoxFields :=
  match yesNo ps 6, yesNo ps 7, yesNo ps 8, GreetingKind.ofCode (num1 ps 9), lampsAt ps 11 (num1 ps 10) with
  | some enabled, some accepts, some lampsOn, some active, some lamps =>
    if Config.extensionMax < num3 ps 2 || 15 < num1 ps 5 || active = .name || 4 < num1 ps 10 || !decide lamps.Nodup then none
    else some { extension := num3 ps 2, cls := num1 ps 5, enabled := enabled, accepts := accepts, lampsOn := lampsOn, active := active, lamps := lamps }
  | _, _, _, _, _ => none

/-- An accepted LOAD MAILBOX (R120). -/
def Engine.loadMailbox (m : Nat) (f : BoxFields) (e : Engine) : Engine :=
  let old := ((e.mailbox m).map (·.fields.lamps)).getD []
  ((e.put (.boxFields m f)).modLmp (Lmp.listChange m old f.lamps)).handInputs m

/-- LOAD MAILBOX (R119, R120). -/
def orderLoadMailbox (ps : List Byte) (s : State) : Reply :=
  let m := num2 ps 0
  Reply.checked [boxRange m] s
    (match readBoxFields ps with
    | none => Reply.refuse .badField s
    | some f => Reply.done [] (s.onEng (fun e => e.loadMailbox m f)))

/-- A lamp place of READ MAILBOX, $FFFFFF beyond the count (11.8). -/
def lampPlace (lamps : List Nat) (i : Nat) : List Byte :=
  match lamps[i]? with
  | some a => lamp3 a
  | none => [0xFF, 0xFF, 0xFF]

/-- The data of READ MAILBOX (R121, 11.8). -/
def boxBytes (b : Mailbox) (c : Counters) (full : Bool) : List Byte :=
  let f := b.fields
  be3 f.extension ++ be1 f.cls ++ yes1 f.enabled ++ yes1 f.accepts ++ yes1 f.lampsOn ++ be1 f.active.code ++ be1 f.lamps.length ++
    lampPlace f.lamps 0 ++ lampPlace f.lamps 1 ++ lampPlace f.lamps 2 ++ lampPlace f.lamps 3 ++ be1 c.new ++ be1 c.urgent ++ be1 c.heard ++
    be1 c.saved ++ be1 c.recording ++ be1 c.total ++ be2 c.charged ++ yes1 full ++ opt2 b.head ++ opt2 b.tail

/-- READ MAILBOX (R121). -/
def orderReadMailbox (ps : List Byte) (s : State) : Reply :=
  let m := num2 ps 0
  Reply.checked [boxRange m] s
    (match s.eng.mailbox m with
    | none => Reply.refuse .noSuch s
    | some b => Reply.done (boxBytes b (s.eng.counter m) (s.eng.boxFull m)) s)

/-! ## Messages (R131, R134, R135, R137) -/

/-- The records of a mailbox's list from a start, none being the head (R137). -/
def Engine.listTail (m : Nat) (start : Option Nat) (e : Engine) : List Nat :=
  match start with
  | none => e.boxList m
  | some r => e.listFrom e.tab.records.length (some r)

/-- LIST (R137, R138). -/
def orderList (ps : List Byte) (s : State) : Reply :=
  let e := s.eng
  let m := num2 ps 0
  let start : Option Nat := if num2 ps 2 = 0xFFFF then none else some (num2 ps 2)
  let format := num1 ps 4
  let rs := e.listTail m start
  let n := if format = 0 then 8 else 2
  let given := rs.take n
  let entries := given.flatMap (fun r => if format = 0 then e.briefEntry r else e.fullEntry r)
  Reply.checked
    [(decide (Config.mailboxes ≤ m) || start.any (fun r => decide (Config.records ≤ r)) || decide (1 < format), .badField), boxLoaded m s,
     (start.any (fun r => (recordForeign m r s).1), .noSuch)] s
    (Reply.done (be1 given.length ++ opt2 (rs.drop n).head? ++ entries) s)

/-- The mark of a code (11.8). -/
def Mark.ofCode : Nat → Option Mark
  | 0 => some .heard
  | 1 => some .saved
  | 2 => some .new
  | _ => none

/-- The state of a record, reported by MARK. -/
def Engine.stateCode (r : Nat) (e : Engine) : Nat := ((e.record r).map (·.state.code)).getD 0

/-- The checks of MARK and DELETE after the field checks (R131, R134). -/
def recordChecks (m r : Nat) (s : State) : List (Bool × Result) :=
  [boxLoaded m s, recordForeign m r s, recordRecording r s]

/-- A mark applied to a record (R131). -/
def Engine.markRecord (now : Now) (r : Nat) (mk : Mark) (e : Engine) : Engine :=
  match e.record r with
  | none => e
  | some x => e.changeRecord r x (x.marked now mk)

/-- MARK (R131). -/
def orderMark (ps : List Byte) (s : State) : Reply :=
  let m := num2 ps 0
  let r := num2 ps 2
  let mk := Mark.ofCode (num1 ps 4)
  let s1 := s.onEng (fun e => e.markRecord s.now r (mk.getD .heard))
  Reply.checked ([(decide (Config.mailboxes ≤ m) || decide (Config.records ≤ r) || mk.isNone, .badField)] ++ recordChecks m r s) s
    (Reply.done (be1 (s1.eng.stateCode r)) s1)

/-- DELETE (R134). -/
def orderDelete (ps : List Byte) (s : State) : Reply :=
  let m := num2 ps 0
  let r := num2 ps 2
  Reply.checked ([(decide (Config.mailboxes ≤ m) || decide (Config.records ≤ r), .badField)] ++ recordChecks m r s) s
    (Reply.done [] (s.onEng (fun e => e.freeRecord r)))

/-- What keeps a PURGE out (R135). -/
def Engine.purgeBusy (m : Nat) (e : Engine) : Bool :=
  (e.boxList m).any (fun r => (e.record r).any (fun x => x.state = .recording)) || GreetingKind.all.any (fun g => (e.slot m g).busy) || e.jobWriting m

/-- A mailbox purged (R135, R150). -/
def Engine.purgeBox (m : Nat) (e : Engine) : Engine := ((e.freeBox m).handInputs m).emptySlots m

/-- PURGE (R135). -/
def orderPurge (ps : List Byte) (s : State) : Reply :=
  let m := num2 ps 0
  Reply.checked [boxRange m, boxLoaded m s, (s.eng.purgeBusy m, .busy)] s (Reply.done [] (s.onEng (fun e => e.purgeBox m)))

/-! ## Greetings (R147, R149) -/

/-- The duration a slot reports (R147). -/
def Engine.slotTenths (e : Engine) (x : Slot) : Nat :=
  match x.held with
  | none => 0
  | some b => e.bodyTenths b

/-- A slot in the SELECT GREETING answer (11.8). -/
def Engine.slotBytes (e : Engine) (m : Nat) (g : GreetingKind) : List Byte :=
  let x := e.slot m g
  yes1 x.filled ++ be2 (e.slotTenths x) ++ yes1 x.busy

/-- Set the active greeting alone (R147). -/
def Engine.setActive (m : Nat) (g : GreetingKind) (e : Engine) : Engine :=
  match e.mailbox m with
  | none => e
  | some b => if b.fields.active = g then e else e.put (.boxFields m { b.fields with active := g })

/-- SELECT GREETING (R147). -/
def orderSelectGreeting (ps : List Byte) (s : State) : Reply :=
  let m := num2 ps 0
  let g := (GreetingKind.ofCode (num1 ps 2)).getD .standard
  Reply.checked [(decide (Config.mailboxes ≤ m) || decide (2 < num1 ps 2), .badField), boxLoaded m s] s
    (Reply.done (be1 g.code ++ GreetingKind.all.flatMap (fun h => s.eng.slotBytes m h)) (s.onEng (fun e => e.setActive m g)))

/-- ERASE GREETING (R149). The duration in the answer for a slot already empty is 0: DESIGN CHOICE (log 34; safe). -/
def orderEraseGreeting (ps : List Byte) (s : State) : Reply :=
  let m := num2 ps 0
  let g := (GreetingKind.ofCode (num1 ps 2)).getD .standard
  let x := s.eng.slot m g
  Reply.checked [(decide (Config.mailboxes ≤ m) || decide (3 < num1 ps 2), .badField), boxLoaded m s, (x.busy, .busy)] s
    (Reply.done (yes1 x.filled ++ be2 (s.eng.slotTenths x)) (s.onEng (fun e => e.emptySlot m g)))

end Sys2Proof.Machine
end

