-- ==== Sys2Proof/Machine/SessionOrders.lean ====
section
/-! DEFINITION. The session orders (sections 2.2 and 2.5). -/

namespace Sys2Proof.Machine

/-! ## OPEN RECORD (R19, R20, R21) -/

/-- The parameters of an OPEN RECORD (11.8). -/
structure OpenRecord where
  session : Nat
  kind : Nat
  mailbox : Nat
  greeting : Option GreetingKind
  urgent : Option Bool
  caller : Option Nat
  inbound : Nat
  outbound : Option Nat
  release : Option Bool
deriving DecidableEq, Repr

def OpenRecord.read (ps : List Byte) : OpenRecord :=
  { session := num1 ps 0, kind := num1 ps 1, mailbox := num2 ps 2, greeting := GreetingKind.ofCode (num1 ps 4), urgent := yesNo ps 5,
    caller := optNum3 ps 6, inbound := num1 ps 9, outbound := optNum1 ps 10, release := yesNo ps 11 }

/-- The fields that only one record kind examines are out of range (R19, R142). -/
def OpenRecord.kindFault (q : OpenRecord) : Bool :=
  if q.kind = 0 then q.urgent.isNone || q.caller.any (fun c => decide (Config.extensionMax < c))
  else q.greeting.isNone

/-- The greeting slot of an OPEN RECORD of kind GREETING. -/
def OpenRecord.slotKind (q : OpenRecord) : GreetingKind := q.greeting.getD .standard

/-- The checks of the two record kinds (R20, R21). -/
def OpenRecord.kindChecks (q : OpenRecord) (e : Engine) : List (Bool × Result) :=
  if q.kind = 0 then
    [(e.atLimit q.mailbox, .full), (e.recordTableFull, .storeFull), (e.bodyTableFull, .storeFull),
     (decide (e.available < e.tab.settings.poolReserve), .storeFull)]
  else [((e.slot q.mailbox q.slotKind).busy, .wrongState), (e.bodyTableFull, .storeFull)]

/-- Every check of an OPEN RECORD, in order (R19 to R21, R8). A release or urgent byte other than 0 and 1 is refused with the session, kind and caller
checks, before BUSY; R202 says with the other range checks, which R19 puts both before and after it: DESIGN CHOICE (log 19; safe). -/
def OpenRecord.checks (q : OpenRecord) (s : State) : List (Bool × Result) :=
  let e := s.eng
  [(decide (Config.sessions ≤ q.session) || decide (1 < q.kind) || q.release.isNone || q.kindFault, .badField),
   ((e.session q.session).state ≠ .free, .busy), boxRange q.mailbox, boxLoaded q.mailbox s,
   ((e.mailbox q.mailbox).any (fun b => !b.fields.enabled), .wrongState)] ++
  q.kindChecks e ++
  [(!slotBindable e.slotsIn q.inbound, .badField), (q.outbound.any (fun t => !slotBindable e.slotsOut t), .badField)]

/-- The body, and then the record or the staging, of an accepted OPEN RECORD (R20, R21, R128, R142). -/
def OpenRecord.target (q : OpenRecord) (now : Now) (b : Nat) (e : Engine) : Target × Engine :=
  let e1 := e.createBody b
  if q.kind = 0 then
    let r := e.freeRecordNo
    let urgent := q.urgent.getD false
    (.record r, ((e1.appendRecord r (Record.recording now q.mailbox b urgent q.caller)).modCounter q.mailbox (Counters.join .recording urgent)))
  else (.slot q.slotKind, e1.putSlot q.mailbox q.slotKind { e1.slot q.mailbox q.slotKind with staged := some b })

/-- The context of an accepted OPEN RECORD, over the buffers it had (R19 to R21, R43, R46). -/
def OpenRecord.context (q : OpenRecord) (t : Target) (b : Nat) (e : Engine) : Session :=
  let old := e.session q.session
  let cue := e.tab.settings.cueLength
  { Session.freeWith old.buf0 old.buf1 with
    kind := some (if q.kind = 0 then .recordMessage else .recordGreeting),
    state := if q.outbound.isSome && 0 < cue then .cue else .waitOnset,
    inSlot := some q.inbound, outSlot := q.outbound, mailbox := q.mailbox, target := t, body := some b, meter := some Meter.start,
    snap := some ((e.boxClass q.mailbox).snapshot (q.kind ≠ 0)), cueLength := cue, releaseOnReport := q.release.getD false }

/-- Bind a session's timeslots (R8). -/
def Engine.bindSlots (k : Nat) (inbound outbound : Option Nat) (e : Engine) : Engine :=
  let add : Option Nat → Tab Nat → Tab Nat := fun s t => match s with | none => t | some n => Tab.insert n k t
  { e with slotsIn := add inbound e.slotsIn, slotsOut := add outbound e.slotsOut }

/-- An accepted OPEN RECORD (R20, R21). -/
def OpenRecord.accept (q : OpenRecord) (s : State) : Reply :=
  let b := s.eng.freeBody
  let (t, e1) := q.target s.now b s.eng
  let e2 := ((e1.setSession q.session (q.context t b e1)).bindSlots q.session (some q.inbound) q.outbound).startBuffer q.session
  let recordNo : Option Nat := if q.kind = 0 then some s.eng.freeRecordNo else none
  { result := .done, data := opt2 recordNo ++ be3 b, state := { s with eng := e2 }, waits := true }

/-- OPEN RECORD (R19 to R21). -/
def orderOpenRecord (ps : List Byte) (s : State) : Reply :=
  let q := OpenRecord.read ps
  Reply.checked (q.checks s) s (q.accept s)

/-! ## OPEN PLAY (R19, R22) -/

/-- The target of an OPEN PLAY and its body, or the refusal (R22, R136, R146, R148). -/
def resolvePlay (kind m detail : Nat) (e : Engine) : Except Result (Target × Nat) :=
  match kind with
  | 0 =>
    if Config.records ≤ detail then .error .badField
    else match e.record detail with
      | none => .error .noSuch
      | some x =>
        if x.mailbox ≠ m then .error .noSuch
        else if x.state = .recording then .error .wrongState
        else .ok (.record detail, x.body)
  | 1 =>
    match GreetingKind.ofCode detail with
    | none => .error .badField
    | some g => match (e.slot m g).held with
      | none => .error .noSuch
      | some b => .ok (.slot g, b)
  | 2 =>
    if 1 < detail then .error .badField
    else match e.chooseGreeting m (detail = 0) with
      | none => .error .noSuch
      | some g => match (e.slot m g).held with
        | none => .error .noSuch
        | some b => .ok (.slot g, b)
  | _ =>
    match e.nextNew m with
    | none => .error .noSuch
    | some r => match e.record r with
      | none => .error .noSuch
      | some x => .ok (.record r, x.body)

/-- The cursor a play session starts at (R22). -/
def startCursor (resume : Bool) (t : Target) (e : Engine) : Nat :=
  match t with
  | .record r => if resume then ((e.record r).bind (·.resume)).getD 0 else 0
  | _ => 0

/-- An accepted OPEN PLAY (R22). -/
def acceptPlay (k m out : Nat) (t : Target) (b cursor : Nat) (release : Bool) (s : State) : Reply :=
  let e := s.eng
  let old := e.session k
  let x := { Session.freeWith old.buf0 old.buf1 with
    kind := some .play, state := .fetching, outSlot := some out, mailbox := m, target := t, body := some b, cursor := cursor,
    releaseOnReport := release }
  let e1 := (((e.modHold b (fun h => { h with readers := h.readers + 1 })).setSession k x).bindSlots k none (some out)).fetch k
  Reply.done (opt2 t.number ++ be3 (e.sampleCount b) ++ be2 (e.bodyTenths b) ++ be3 cursor) { s with eng := e1 }

/-- OPEN PLAY (R19, R22). A start or release code without meaning is refused with the session and kind checks, before BUSY, and the target's own number
after the mailbox has been found: DESIGN CHOICE (log 19; safe). -/
def orderOpenPlay (ps : List Byte) (s : State) : Reply :=
  let k := num1 ps 0
  let m := num2 ps 1
  let kind := num1 ps 3
  let start := num1 ps 6
  let out := num1 ps 7
  let release := yesNo ps 8
  let e := s.eng
  Reply.checked
    [(decide (Config.sessions ≤ k) || decide (3 < kind) || decide (1 < start) || release.isNone, .badField),
     ((e.session k).state ≠ .free, .busy), boxRange m, boxLoaded m s] s
    (match resolvePlay kind m (num2 ps 4) e with
    | .error r => Reply.refuse r s
    | .ok (t, b) =>
      Reply.checked [(!slotBindable e.slotsOut out, .badField)] s (acceptPlay k m out t b (startCursor (start = 1) t e) (release.getD false) s))

/-! ## Orders on open sessions (R35) -/

/-- The session number is out of range, and the session is FREE (R35). -/
def sessionChecks (k : Nat) (s : State) : List (Bool × Result) :=
  [(decide (Config.sessions ≤ k), .badField), ((s.eng.session k).state = .free, .noSuch)]

/-- STOP (R36). -/
def orderStop (ps : List Byte) (s : State) : Reply :=
  let k := num1 ps 0
  Reply.checked (sessionChecks k s) s (Reply.done [] (s.onEng (fun e => e.stopSession s.now k)))

/-- CANCEL (R37). -/
def orderCancel (ps : List Byte) (s : State) : Reply :=
  let k := num1 ps 0
  Reply.checked (sessionChecks k s) s (Reply.done [] (s.onEng (fun e => e.cancelSession s.now k)))

/-- PAUSE (R38). -/
def orderPause (ps : List Byte) (s : State) : Reply :=
  let k := num1 ps 0
  let st := (s.eng.session k).state
  Reply.checked (sessionChecks k s ++ [(!st.playLive, .wrongState)]) s
    (Reply.done [] (if st = .paused then s else s.onEng (fun e => e.modSession k Session.pausing)))

/-- RESUME (R38). -/
def orderResume (ps : List Byte) (s : State) : Reply :=
  let k := num1 ps 0
  let st := (s.eng.session k).state
  Reply.checked (sessionChecks k s ++ [(!st.playLive, .wrongState)]) s
    (Reply.done [] (if st = .paused then s.onEng (fun e => e.modSession k Session.resuming) else s))

/-- SEEK (R39). -/
def orderSeek (ps : List Byte) (s : State) : Reply :=
  let k := num1 ps 0
  let x := s.eng.session k
  let given := signed2 ps 1
  let delta := max (-6000) (min 6000 given)
  let (cursor, clamped) := seekCursor x.cursor (s.eng.sampleCount x.bodyNo) delta
  Reply.checked (sessionChecks k s ++ [(!x.state.playLive, .wrongState)]) s
    (Reply.done (be3 cursor ++ yes1 (delta ≠ given) ++ yes1 clamped) (s.onEng (fun e => e.seekSession s.now k cursor)))

/-- CLOSE (R40). -/
def orderClose (ps : List Byte) (s : State) : Reply :=
  let k := num1 ps 0
  Reply.checked (sessionChecks k s) s (Reply.done [] (s.onEng (fun e => e.closeSession s.now k)))

/-- The data of SESSION STATUS (R41, 11.8). -/
def Session.statusBytes (x : Session) : List Byte :=
  let ended := x.state = .ended
  be1 x.state.code ++ opt1 (x.kind.map SessKind.code) ++ be2 x.mailbox ++ be1 x.target.kindCode ++ opt2 x.target.number ++ opt3 x.body ++
    opt1 x.inSlot ++ opt1 x.outSlot ++ be3 x.cursor ++ be3 x.windows ++ yes1 x.releaseOnReport ++ yes1 x.closing ++ be2 x.underruns ++
    be2 x.readFaults ++ opt1 (if ended then x.outcome.map Cause.code else none) ++ opt2 (if ended then some x.duration else none)

/-- SESSION STATUS (R41): it frees an ENDED session under release-on-report. -/
def orderSessionStatus (ps : List Byte) (s : State) : Reply :=
  let k := num1 ps 0
  let x := s.eng.session k
  Reply.checked [(decide (Config.sessions ≤ k), .badField)] s
    (Reply.done x.statusBytes (if x.state = .ended && x.releaseOnReport then s.onEng (fun e => e.freeSession k) else s))

end Sys2Proof.Machine
end

