-- ==== Sys2Proof/Machine/SystemOrders.lean ====
section
/-! DEFINITION. The orders of lamps (9.6), the calendar (10.3, 10.5), the management channel (11.4 to 11.7) and FORMAT (4.7). -/

namespace Sys2Proof.Machine

/-! ## Lamps -/

/-- A fault is cleared (R182). -/
def Lmp.clearFault (a : Nat) (l : Lmp) : Lmp :=
  let x := l.entry a
  if 0 < x.refs && (x.fault = .latched || x.fault = .retryWait) then
    (l.modEntry a (fun x => { x with fault := .clear, kind := none, confirm := 0, retryDue := none })).enqueue a
  else l

/-- CLEAR FAULT (R182). -/
def orderClearFault (ps : List Byte) (s : State) : Reply :=
  match lampAt ps 0 with
  | none => Reply.refuse .badField s
  | some a => Reply.done (be1 (s.eng.lamp a).fault.code) (s.onEng (fun e => e.modLmp (Lmp.clearFault a)))

/-- The awaiting entries that name an address (R183). -/
def Lmp.awaitingOf (a : Nat) (l : Lmp) : Nat := (l.awaiting.filter (fun w => w.sent.any (fun p => p.1 = a))).length

/-- The data of LAMP STATUS (R183, 11.8). -/
def Lmp.statusBytes (a : Nat) (l : Lmp) : List Byte :=
  let x := l.entry a
  be2 x.refs ++ be2 x.steady ++ be2 x.slow ++ be2 x.fast ++ be1 x.pattern.code ++ opt1 (x.lastSent.map Pattern.code) ++ be1 x.fault.code ++
    opt1 (x.kind.map FaultKind.code) ++ be1 x.confirm ++ opt2 (x.retryDue.map (· - l.seconds)) ++ opt1 (x.reported.map FaultKind.code) ++
    yes1 x.queued ++ be2 l.changeQueue.length ++ be1 (l.awaitingOf a)

/-- LAMP STATUS (R183). -/
def orderLampStatus (ps : List Byte) (s : State) : Reply :=
  match lampAt ps 0 with
  | none => Reply.refuse .badField s
  | some a => Reply.done (s.eng.lmp.statusBytes a) s

/-! ## The calendar -/

/-- The clock set to a date and time, and the seconds divider restarted (R190, R14). A pulse that fell due with the set is not given. -/
def State.setClock (y mo d h mi se : Nat) (s : State) : State :=
  { s with cal := { s.cal with year := y, month := mo, day := d, hour := h, minute := mi, second := se, valid := true, subCount := 0 },
           hwi := { s.hwi with divider := 0, pulseDue := false } }

/-- SET CLOCK (R190). -/
def orderSetClock (ps : List Byte) (s : State) : Reply :=
  let y := num1 ps 0
  let mo := num1 ps 1
  let d := num1 ps 2
  let h := num1 ps 3
  let mi := num1 ps 4
  let se := num1 ps 5
  let s1 := s.setClock y mo d h mi se
  Reply.checked [(!dateLegal y mo d h mi se, .badField)] s (Reply.done (be2 s1.cal.dayNumber ++ be1 s1.cal.dayOfWeek) s1)

/-- The data of READ CLOCK (R191, 11.8). -/
def Cal.clockBytes (c : Cal) : List Byte :=
  be1 c.year ++ be1 c.month ++ be1 c.day ++ be1 c.hour ++ be1 c.minute ++ be1 c.second ++ be2 c.dayNumber ++ be3 c.secondOfDay ++
    be1 c.dayOfWeek ++ yes1 c.valid ++ be1 c.source.code ++ yes1 c.sweep.running ++
    opt1 (if c.sweep.running then some c.sweep.cause.code else none) ++ opt2 (if c.sweep.running then some c.sweep.pointer else none)

/-- READ CLOCK (R191). -/
def orderReadClock (_ : List Byte) (s : State) : Reply := Reply.done s.cal.clockBytes s

/-- SWEEP (R193). A running sweep is examined before the clock: DESIGN CHOICE (log 39; safe). -/
def orderSweep (_ : List Byte) (s : State) : Reply :=
  Reply.checked [(s.cal.sweep.running, .busy), (!s.cal.valid, .wrongState)] s (Reply.done [] { s with cal := s.cal.startSweep .order })

/-! ## STATUS (R207) -/

/-- Segments listed by the map in a state. -/
def Engine.listedSegments (st : SegState) (e : Engine) : Nat := (e.tab.segments.filter (fun x => x.2.state = st)).length

/-- Segments in a state (R68): those the map does not list are DIRTY. -/
def Engine.segmentsIn (st : SegState) (e : Engine) : Nat :=
  if st = .dirty then
    e.segmentTotal - e.listedSegments .erased - e.listedSegments .allocated - e.listedSegments .data - e.listedSegments .retired
  else e.listedSegments st

/-- The five segment counts in the order of 11.8. -/
def Engine.segmentBytes (e : Engine) : List Byte :=
  be3 (e.segmentsIn .erased) ++ be3 (e.segmentsIn .allocated) ++ be3 (e.segmentsIn .data) ++ be3 (e.segmentsIn .dirty) ++ be3 (e.segmentsIn .retired)

/-- Bodies in OPEN (R99). -/
def Engine.openBodies (e : Engine) : Nat := (e.tab.bodies.filter (fun x => !x.2.sealed)).length

/-- The data of STATUS (R207, 11.8). -/
def State.statusBytes (s : State) : List Byte :=
  let e := s.eng
  be1 e.ssc.service.code ++ be1 s.hwi.sync.code ++ be1 s.hwi.slips ++ be1 e.ssc.devices ++ e.segmentBytes ++ yes1 e.ssc.poolLow ++
    be1 e.ssc.progQueue.length ++ be1 e.ssc.readQueue.length ++ be2 e.tab.bodies.length ++ be2 e.openBodies ++ be2 e.tab.records.length ++
    be1 e.openSessions ++ be1 e.dle.queue.length ++ be2 (e.lmp.countFault .latched) ++ be2 (e.lmp.countFault .retryWait) ++
    be2 e.lmp.changeQueue.length ++ mask2 e.mgc.flags ++ e.mgc.errorBytes ++ yes1 s.cal.valid

/-- STATUS (R207). -/
def orderStatus (_ : List Byte) (s : State) : Reply := Reply.done s.statusBytes s

/-! ## Part settings (R206) -/

/-- Every number of the settings clamped to its range, and the mask to the ten kinds (R206; log 16). -/
def Settings.clamped (x : Settings) : Settings :=
  { x with kindsOn := x.kindsOn &&& kindBits, retryInterval := clamp 1 60 x.retryInterval, confirmCount := clamp 1 4 x.confirmCount,
           sweepHour := clamp 0 23 x.sweepHour, poolReserve := clamp 64 8192 x.poolReserve, cueLevel := clamp 0 3 x.cueLevel,
           cueLength := clamp 0 63 x.cueLength }

/-- A number of the settings was clamped. -/
def Settings.numbersDiffer (x y : Settings) : Bool := { x with kindsOn := y.kindsOn } ≠ y

/-- The settings as SET OPTIONS gives them, absent when a yes/no byte or a mode code has no meaning (R206, 11.8). -/
def Settings.read (ps : List Byte) : Option Settings :=
  match yesNo ps 0, FaultMode.ofCode (num1 ps 3), FaultMode.ofCode (num1 ps 4), FaultMode.ofCode (num1 ps 5) with
  | some on, some mo, some ms, some mn =>
    some { noticesOn := on, kindsOn := maskAt ps 1, modeOpen := mo, modeShort := ms, modeNoAnswer := mn, retryInterval := num1 ps 6,
           confirmCount := num1 ps 7, sweepHour := num1 ps 8, poolReserve := num2 ps 9, cueLevel := num1 ps 11, cueLength := num1 ps 12 }
  | _, _, _, _ => none

/-- The settings as READ OPTIONS gives them (11.8). -/
def Settings.bytes (x : Settings) : List Byte :=
  yes1 x.noticesOn ++ mask2 x.kindsOn ++ be1 x.modeOpen.code ++ be1 x.modeShort.code ++ be1 x.modeNoAnswer.code ++ be1 x.retryInterval ++
    be1 x.confirmCount ++ be1 x.sweepHour ++ be2 x.poolReserve ++ be1 x.cueLevel ++ be1 x.cueLength

/-- SET OPTIONS (R206): a changed pool reserve is examined at once (R74). -/
def orderSetOptions (ps : List Byte) (s : State) : Reply :=
  match Settings.read ps with
  | none => Reply.refuse .badField s
  | some given =>
    let kept := given.clamped
    let e1 := s.eng.put (.settings kept)
    let e2 := if kept.poolReserve = s.eng.tab.settings.poolReserve then e1 else e1.examinePool
    Reply.done (yes1 (kept.numbersDiffer given)) { s with eng := e2 }

/-- READ OPTIONS (R206). -/
def orderReadOptions (_ : List Byte) (s : State) : Reply := Reply.done s.eng.tab.settings.bytes s

/-- CLEAR FLAGS (R205). -/
def orderClearFlags (ps : List Byte) (s : State) : Reply :=
  let m := maskAt ps 0
  let clear (g : Mgc) : Mgc :=
    let g1 := { g with flags := g.flags &&& ~~~m }
    if m &&& NoticeKind.mgmtErrors.bit ≠ 0 then { g1 with lengthErrors := 0, checkErrors := 0, overruns := 0 } else g1
  Reply.done (mask2 s.eng.mgc.flags) (s.onEng (fun e => e.modMgc clear))

/-! ## FORMAT (R96) -/

/-- What keeps a FORMAT out (R96). -/
def State.formatBusy (s : State) : Bool :=
  0 < s.eng.openSessions || s.eng.dle.queue ≠ [] || s.cal.sweep.running

/-- The part enters STARTING to do a check or a FORMAT (R87). -/
def Engine.beginStart (cause : StartCause) (cleared : Bool) (e : Engine) : Engine :=
  e.modSsc (fun c =>
    { c with service := .starting,
             start := some { cause := cause, cleared := cleared, keptCut := 0, recordsReleased := 0, bodiesReleased := 0 } })

/-- The recorded content cleared (R96, R113, R140, R150). The records of every mailbox go before any slot, mailboxes in rising number: DESIGN CHOICE
(log 15; safe). -/
def Engine.formatContent (e : Engine) : Engine :=
  let boxes := e.loadedBoxes
  let e1 := boxes.foldl (fun e m => e.freeBox m) e
  let e2 := boxes.foldl (fun e m => e.emptySlots m) e1
  e2.handAll boxes

/-- FORMAT (R96). Its catalogue writes complete before the part returns to SERVICE. -/
def orderFormat (_ : List Byte) (s : State) : Reply :=
  Reply.checked [(s.formatBusy, .busy)] s (Reply.done [] (s.onEng (fun e => (e.beginStart .format true).formatContent)))

/-! ## RESTART (R208) -/

/-- RESTART: its answer joins the packets that have still to leave, and no further order is taken (R208). -/
def orderRestart (_ : List Byte) (s : State) : Reply :=
  Reply.done [] (s.onEng (fun e => e.modMgc (fun g => { g with restart := .answering (g.outbox.length + 1) })))

end Sys2Proof.Machine
end

