-- ==== Sys2Proof/Machine/Orders.lean ====
section
/-! DEFINITION. The order processor (R202): the table of orders, the checks made before an order reaches its owner, and the taking of orders. -/

namespace Sys2Proof.Machine

/-- The orders of 11.8. -/
inductive Order where
  | openRecord | openPlay | stop | cancel | pause | resume | seek | close | sessionStatus | list | mark | delete | purge | loadClass
  | readClass | loadMailbox | readMailbox | selectGreeting | eraseGreeting | listClear | listAdd | readList | deliver | cancelDelivery
  | clearFault | lampStatus | setClock | readClock | sweep | status | setOptions | readOptions | clearFlags | format | restart
deriving DecidableEq, Repr

/-- The order of a code (11.8). -/
def Order.ofCode (code : Byte) : Option Order :=
  match code.toNat with
  | 0x10 => some .openRecord
  | 0x11 => some .openPlay
  | 0x12 => some .stop
  | 0x13 => some .cancel
  | 0x14 => some .pause
  | 0x15 => some .resume
  | 0x16 => some .seek
  | 0x17 => some .close
  | 0x18 => some .sessionStatus
  | 0x20 => some .list
  | 0x21 => some .mark
  | 0x22 => some .delete
  | 0x23 => some .purge
  | 0x28 => some .loadClass
  | 0x29 => some .readClass
  | 0x2A => some .loadMailbox
  | 0x2B => some .readMailbox
  | 0x30 => some .selectGreeting
  | 0x31 => some .eraseGreeting
  | 0x38 => some .listClear
  | 0x39 => some .listAdd
  | 0x3A => some .readList
  | 0x3B => some .deliver
  | 0x3C => some .cancelDelivery
  | 0x40 => some .clearFault
  | 0x41 => some .lampStatus
  | 0x48 => some .setClock
  | 0x49 => some .readClock
  | 0x4A => some .sweep
  | 0x50 => some .status
  | 0x51 => some .setOptions
  | 0x52 => some .readOptions
  | 0x53 => some .clearFlags
  | 0x54 => some .format
  | 0x55 => some .restart
  | _ => none

/-- The body length N of an order (11.8). -/
def Order.bodyLength : Order → Nat
  | .openRecord => 14
  | .openPlay => 11
  | .stop => 3
  | .cancel => 3
  | .pause => 3
  | .resume => 3
  | .seek => 5
  | .close => 3
  | .sessionStatus => 3
  | .list => 7
  | .mark => 7
  | .delete => 6
  | .purge => 4
  | .loadClass => 25
  | .readClass => 3
  | .loadMailbox => 25
  | .readMailbox => 4
  | .selectGreeting => 5
  | .eraseGreeting => 5
  | .listClear => 3
  | .listAdd => 36
  | .readList => 5
  | .deliver => 11
  | .cancelDelivery => 4
  | .clearFault => 5
  | .lampStatus => 5
  | .setClock => 8
  | .readClock => 2
  | .sweep => 2
  | .status => 2
  | .setOptions => 15
  | .readOptions => 2
  | .clearFlags => 4
  | .format => 2
  | .restart => 2

/-- The order handed to its owner (R202). -/
def Order.run : Order → List Byte → State → Reply
  | .openRecord => orderOpenRecord
  | .openPlay => orderOpenPlay
  | .stop => orderStop
  | .cancel => orderCancel
  | .pause => orderPause
  | .resume => orderResume
  | .seek => orderSeek
  | .close => orderClose
  | .sessionStatus => orderSessionStatus
  | .list => orderList
  | .mark => orderMark
  | .delete => orderDelete
  | .purge => orderPurge
  | .loadClass => orderLoadClass
  | .readClass => orderReadClass
  | .loadMailbox => orderLoadMailbox
  | .readMailbox => orderReadMailbox
  | .selectGreeting => orderSelectGreeting
  | .eraseGreeting => orderEraseGreeting
  | .listClear => orderListClear
  | .listAdd => orderListAdd
  | .readList => orderReadList
  | .deliver => orderDeliver
  | .cancelDelivery => orderCancelDelivery
  | .clearFault => orderClearFault
  | .lampStatus => orderLampStatus
  | .setClock => orderSetClock
  | .readClock => orderReadClock
  | .sweep => orderSweep
  | .status => orderStatus
  | .setOptions => orderSetOptions
  | .readOptions => orderReadOptions
  | .clearFlags => orderClearFlags
  | .format => orderFormat
  | .restart => orderRestart

/-- An order is answered in STARTING (R87, R202). -/
def Order.inStarting (o : Order) : Bool := o = .status || o = .readClock

/-- The reply to an order with a code and parameters: the three checks of R202, and then its owner. -/
def State.judgeOrder (code : Byte) (ps : List Byte) (s : State) : Reply :=
  match Order.ofCode code with
  | none => Reply.refuse .unknown s
  | some o =>
    if ps.length + 2 ≠ o.bodyLength then Reply.refuse .badLength s
    else if s.eng.ssc.service = .starting && !o.inStarting then Reply.refuse .notReady s
    else o.run ps s

/-- The answer of an order: placed at once, or when the order's catalogue writes are complete (R100, R202). -/
def Reply.place (tag : Byte) (r : Reply) : State :=
  let p := answerPacket tag r.result r.data
  r.state.onEng (fun e => (if r.waits then e.flush (.answer p) else e.placeAnswer p).settle)

/-- The order processor may take an order (R202). None is taken in FROZEN (R209) or after a RESTART (R208). -/
def Engine.canTake (e : Engine) : Bool :=
  !e.mgc.handling && e.mgc.restart = .none && decide (e.mgc.outbox.length < Config.outboxPlaces) && !decide (e.ssc.service = .frozen)

/-- An order is taken from the inbox: its answer's place is reserved (R202). -/
def Mgc.takeHead (g : Mgc) : Mgc := { g with inbox := g.inbox.tail, handling := true }

/-- The head of the inbox is taken, when it may be, and handled (R202). -/
def State.takeOrder (s : State) : State :=
  match s.eng.mgc.inbox with
  | (code :: tag :: ps) :: _ =>
    if s.eng.canTake then ((s.onEng (fun e => e.modMgc Mgc.takeHead)).judgeOrder code ps).place tag else s
  | _ => s

/-- Up to n orders are taken, one after another (R202). -/
def State.takeOrders : Nat → State → State
  | 0, s => s
  | n + 1, s => s.takeOrder.takeOrders n

/-- A good packet is placed in the inbox, or is an overrun error (R200). -/
def Engine.goodPacket (body : List Byte) (e : Engine) : Engine :=
  if e.mgc.inbox.length < Config.inboxPlaces then e.modMgc (fun g => { g with inbox := g.inbox ++ [body] }) else e.overrun

/-- What follows every event: the part settles, and the order processor takes what it can (R202). In a FRAME this is after the whole frame's traffic:
DESIGN CHOICE (log 8; unsafe). -/
def State.finish (s : State) : State := (s.onEng Engine.settle).takeOrders Config.inboxPlaces

/-- The HWI carries traffic: LOCKED or FLYWHEEL (R5), the part not frozen (R15). -/
def State.carries (s : State) : Bool :=
  (s.hwi.sync = .locked || s.hwi.sync = .flywheel) && !decide (s.eng.ssc.service = .frozen)

/-- An order packet arrives whole and good (R198, R200; log 3). Where the HWI carries no traffic, none is received (R5, R15, R209). -/
def State.deliverOrder (code tag : Byte) (ps : List Byte) (s : State) : State :=
  if !s.carries then s
  else (s.onEng (fun e => e.goodPacket (code :: tag :: ps))).takeOrders Config.inboxPlaces

end Sys2Proof.Machine
end

