-- ==== Sys2Proof/Machine/Receiver.lean ====
section
/-! DEFINITION. The management bytes: the receiver (R198 to R200) and the outbox's bytes (R203, R208). -/

namespace Sys2Proof.Machine

/-- The receiver's kept bytes (R198); the lead byte of the packet in progress is not among them. -/
def Engine.setRx (rx : Option (List Byte)) (e : Engine) : Engine := e.modMgc (fun g => { g with rx := rx })

/-- A length byte of a packet (R197). -/
def lengthByte (b : Byte) : Bool := 2 ≤ b.toNat && b.toNat ≤ 48

/-- What the receiver does with one byte: what it keeps, and the bytes it takes again before any later one (R198). -/
def Engine.rxByte (b : Byte) (e : Engine) : Engine × List Byte :=
  match e.mgc.rx with
  | none => (if b = 0xC3 then e.setRx (some []) else e, [])
  | some [] => if lengthByte b then (e.setRx (some [b]), []) else ((e.setRx none).lengthError, [b])
  | some (n :: body) =>
    if body.length < n.toNat then (e.setRx (some (n :: (body ++ [b]))), [])
    else if byteSum (n :: body) + b = 0 then ((e.setRx none).goodPacket body, [])
    else ((e.setRx none).checkError, n :: (body ++ [b]))

/-- The receiver takes a stream of bytes, bytes to be taken again first (R198). The count bounds the bytes taken: a packet in progress holds at
most 51 bytes, and each error gives one of them up, so that no byte leads to more than 1,400. -/
def Engine.rxRun : Nat → List Byte → Engine → Engine
  | 0, _, e => e
  | _, [], e => e
  | n + 1, b :: bs, e =>
    let (e1, again) := e.rxByte b
    e1.rxRun n (again ++ bs)

/-- A byte of timeslot 0 or 1 reaches the receiver (R7). -/
def Engine.mgmtIn (b : Byte) (e : Engine) : Engine := e.rxRun 1400 [b]

/-- The answer of a RESTART has left: no order is taken, nothing is sent, and no write but those in flight is made (R88, R208; log 25). -/
def Engine.restartFallsDue (e : Engine) : Engine :=
  { e.modMgc (fun g => { g with restart := .due, inbox := [], outbox := [], handed := 0, handling := false }) with
    catQueue := haltQueue e.catQueue }

/-- A packet has left the outbox (R203); it may be the answer of a RESTART (R208). -/
def Engine.packetLeft (e : Engine) : Engine :=
  let e1 := e.modMgc (fun g => { g with outbox := g.outbox.tail, handed := 0 })
  match e.mgc.restart with
  | .answering n => if n ≤ 1 then e1.restartFallsDue else e1.modMgc (fun g => { g with restart := .answering (n - 1) })
  | _ => e1

/-- The byte the MGC gives for timeslot 0 or 1, $FF when it has none (R7, R203). -/
def Engine.mgmtOut (e : Engine) : Byte × Engine :=
  match e.mgc.outbox with
  | [] => (0xFF, e)
  | p :: _ =>
    (p.getD e.mgc.handed 0xFF,
     if p.length ≤ e.mgc.handed + 1 then e.packetLeft else e.modMgc (fun g => { g with handed := g.handed + 1 }))

end Sys2Proof.Machine
end

