-- ==== Sys2Proof/Machine/Highway.lean ====
section
/-! DEFINITION. The highway interface (section 1): sync, superframe alignment, the seconds divider, and the frame's traffic. -/

namespace Sys2Proof.Machine

/-! ## Sync (R1 to R6) -/

/-- A pulse by its width (R1). -/
def SyncKind.ofWidth : Nat → Option SyncKind
  | 1 => some .single
  | 2 => some .double
  | _ => none

def State.modHwi (f : Hwi → Hwi) (s : State) : State := { s with hwi := f s.hwi }

/-- A superframe restart indication (R4, R176). In FROZEN the lamp unit stands (R185). -/
def State.lampRestart (s : State) : State :=
  if s.eng.ssc.service = .frozen then s else s.onEng (fun e => e.modLmp Lmp.restart)

/-- A HIGHWAY event with the state entered (R6). -/
def State.raiseHighway (st : SyncState) (s : State) : State :=
  s.onEng (fun e => e.raise .highway (be1 st.code ++ be1 s.hwi.slips))

/-- Pulse valid goes off: the calendar goes over to LOSC in the middle of the second in progress (R189). -/
def State.loseHighwayClock (s : State) : State :=
  if s.hwi.pulseValid then
    { s with hwi := { s.hwi with pulseValid := false }, cal := { s.cal with source := .losc, subCount := 1000 * s.hwi.divider } }
  else s

/-- Pulse valid comes on at the return to LOCKED (R14, R189). -/
def State.gainHighwayClock (s : State) : State :=
  { s with hwi := { s.hwi with pulseValid := true, divider := 0 }, cal := { s.cal with source := .highway, subCount := 0 } }

/-- The superframe alignment takes a value; gaining or losing it gives a restart indication (R4). -/
def State.setFrameNo (n : Option Nat) (s : State) : State :=
  let s1 := s.modHwi (fun h => { h with frameNo := n })
  if n.isSome = s.hwi.frameNo.isSome then s1 else s1.lampRestart

/-- Entry to SEARCH from LOCKED, FLYWHEEL or CONFIRM (R2, R3, R4, R6, R14, R199). -/
def State.enterSearch (s : State) : State :=
  let s1 := s.loseHighwayClock.setFrameNo none
  let s2 := (s1.modHwi (fun h => { h with sync := .search, misses := 0, confirms := 0, frameBegun := false })).raiseHighway .search
  if s2.eng.ssc.service = .frozen then s2 else s2.onEng (fun e => e.setRx none)

/-- Entry to LOCKED from CONFIRM (R3, R6, R14). -/
def State.enterLocked (s : State) : State :=
  (s.gainHighwayClock.modHwi (fun h => { h with sync := .locked, misses := 0, confirms := 0 })).raiseHighway .locked

/-- The number of the next frame, by counting (R4). -/
def nextFrameNo (n : Option Nat) : Option Nat := n.map (fun n => (n + 1) % 16)

/-- A sync disagrees with the frame number expected (R4). -/
def slips (kind : SyncKind) (expected : Nat) : Bool :=
  match kind with
  | .double => expected ≠ 0
  | .single => expected = 0

/-- A sync taken in LOCKED or at the return to it numbers its frame, checked against the number expected (R4). -/
def State.numberFrame (kind : SyncKind) (s : State) : State :=
  match nextFrameNo s.hwi.frameNo with
  | none => if kind = .double then s.setFrameNo (some 0) else s
  | some n =>
    let s1 := s.setFrameNo (some (if kind = .double then 0 else n))
    if slips kind n then (s1.modHwi (fun h => { h with slips := min 255 (h.slips + 1) })).lampRestart else s1

/-- A sync taken in SEARCH or CONFIRM numbers its frame without counting a slip (R4). -/
def State.alignFrame (kind : SyncKind) (s : State) : State :=
  if kind = .double then s.setFrameNo (some 0) else s.setFrameNo (nextFrameNo s.hwi.frameNo)

/-- The divider advances at a frame boundary of LOCKED and FLYWHEEL (R14). -/
def State.divideFrame (s : State) : State :=
  s.modHwi (fun h => if h.divider + 1 = Config.secondFrames then { h with divider := 0, pulseDue := true } else { h with divider := h.divider + 1 })

/-- An expected position: the sync taken there, or none when it is missing (R2, R3, R4, R14). In SEARCH there is no expected position, and a sync is
the first one seen. A seconds pulse given at the boundary before is taken first (log 9). The third missing sync is still a boundary of FLYWHEEL: the
divider advances before it holds its count (R14), and a pulse it gives there is taken later (log 28). -/
def State.boundary (sync : Option SyncKind) (s : State) : State :=
  let s := s.takePulse
  match s.hwi.sync, sync with
  | .search, none => s
  | .search, some k => (s.modHwi (fun h => { h with sync := .confirm, confirms := 0 })).alignFrame k
  | .confirm, none => s.enterSearch
  | .confirm, some k =>
    let s1 := (s.modHwi (fun h => { h with confirms := h.confirms + 1 })).alignFrame k
    if s1.hwi.confirms = 4 then s1.enterLocked else s1
  | .locked, none => (s.modHwi (fun h => { h with sync := .flywheel, misses := 1, frameNo := nextFrameNo h.frameNo })).divideFrame
  | .locked, some k => (s.numberFrame k).divideFrame
  | .flywheel, none =>
    if s.hwi.misses + 1 = 3 then s.divideFrame.enterSearch
    else (s.modHwi (fun h => { h with misses := h.misses + 1, frameNo := nextFrameNo h.frameNo })).divideFrame
  | .flywheel, some k => ((s.modHwi (fun h => { h with sync := .locked, misses := 0 })).numberFrame k).divideFrame

/-- A pulse on HSYNC (R1): three or more periods wide, or away from the expected position where one is held, it is disregarded. -/
def State.syncPulse (width : Nat) (expected : Bool) (s : State) : State :=
  match SyncKind.ofWidth width with
  | none => s
  | some k => if s.hwi.sync = .search || expected then (s.boundary (some k)).modHwi (fun h => { h with frameBegun := true }) else s

/-! ## Traffic (R5, R7, R10) -/

/-- Idle fill (R5). -/
def idleFill : List Byte := List.replicate 3 0xFF ++ List.replicate 125 0x00

/-- The outbound code of a voice timeslot (R10, R12). -/
def Engine.voiceOut (e : Engine) (t : Nat) : Byte :=
  match Tab.find? e.slotsOut t with
  | none => 0x00
  | some k => encode (e.outValue k)

/-- The outbound and inbound lamp bytes of a frame (R7, R174, R175). -/
def Engine.lampFrame (frameNo : Option Nat) (b : Byte) (e : Engine) : Byte × Engine :=
  match frameNo with
  | none => (0xFF, e)
  | some n =>
    let (out, l) := e.lmp.outByte n
    (out, ({ e with lmp := l } : Engine).lampByte n b)

/-- The sessions give their outbound values and receive their inbound samples (R10, R23, R32). -/
def Engine.voiceFrame (now : Now) (hrx : List Byte) (e : Engine) : Engine :=
  let e1 := e.slotsOut.foldl (fun e tk => e.outTaken now tk.2) e
  e1.slotsIn.foldl (fun e tk => e.modSession tk.2 (Session.receive (expand (hrx.getD tk.1 0)))) e1

/-- The traffic of one frame, and the bytes driven on HTX: management, lamps, voice; in each timeslot outbound before inbound (R7, R10; log 8). -/
def Engine.traffic (now : Now) (frameNo : Option Nat) (hrx : List Byte) (e : Engine) : List Byte × Engine :=
  let (o0, e0) := e.mgmtOut
  let (o1, e1) := (e0.mgmtIn (hrx.getD 0 0xFF)).mgmtOut
  let (o2, e2) := (e1.mgmtIn (hrx.getD 1 0xFF)).lampFrame frameNo (hrx.getD 2 0xFF)
  ([o0, o1, o2] ++ (List.range 125).map (fun i => e2.voiceOut (i + 3)), e2.voiceFrame now hrx)

/-- The window ends that are still due close before the next frame (R23; log 9), in rising session number: DESIGN CHOICE (log 9; safe). -/
def Engine.closeWindows (e : Engine) : Engine := (e.sessions.map (·.1)).foldl (fun e k => e.closeWindow k) e

/-- The frame that a sync taken, or a missing one, has begun (R2). -/
def State.beginFrame (s : State) : State :=
  if s.hwi.frameBegun then s.modHwi (fun h => { h with frameBegun := false }) else s.boundary none

/-- A frame (R2, R5, R7, R10). -/
def State.frame (hrx : List Byte) (s : State) : State :=
  let s1 := (s.onEng Engine.closeWindows).beginFrame
  if s1.carries then
    let (htx, e1) := s1.eng.traffic s1.now s1.hwi.frameNo hrx
    { s1 with hwi := { s1.hwi with htx := htx }, eng := e1 }
  else s1.modHwi (fun h => { h with htx := idleFill })

/-- HCLK is lost (R3, R5). -/
def State.hclkLoss (s : State) : State :=
  let s1 := if s.hwi.sync = .search then s else s.takePulse.enterSearch
  s1.modHwi (fun h => { h with htx := List.replicate 128 0xFF })

end Sys2Proof.Machine
end

