-- ==== Sys2Proof/Machine/StartUp.lean ====
section
/-! DEFINITION. Start-up (section 4.6): the store check, power-on, RESTART, the entry to SERVICE; and the power-fail freeze (section 4.8). -/

namespace Sys2Proof.Machine

/-! ## The first step of the store check (R89, R91) -/

/-- The devices counted: those on SCS0 up to the first empty select (R89). -/
def countSelects (x : Selects) : Nat :=
  if !x.scs0 then 0 else if !x.scs1 then 1 else if !x.scs2 then 2 else if !x.scs3 then 3 else 4

/-- The bodies in use, ascending. -/
def Engine.bodiesInUse (e : Engine) : List Nat := e.tab.bodies.map (·.1)

/-- The chain of body b reached from a segment by way of each next: it stops at a segment that is not DATA or names another body (R112). A segment that a
power failure left linked by the former last's next, the body's last and count not yet written, is reached and kept, where R102 counts the chain without
it: DESIGN CHOICE (log 44; unsafe). -/
def Engine.reachedFrom (e : Engine) (b : Nat) : Nat → Option Nat → List Nat
  | 0, _ => []
  | _ + 1, none => []
  | n + 1, some i =>
    let g := e.segment i
    if g.state = .data && g.body = some b then i :: e.reachedFrom b n g.next else []

/-- A body's chain as the walk reaches it (R112). -/
def Engine.reached (e : Engine) (b : Nat) : List Nat :=
  match e.body b with
  | none => []
  | some x => e.reachedFrom b (e.listedSegments .data) x.first

/-- The free records of a cleared catalogue, and its empty lists (R96). -/
def Engine.dropRecords (e : Engine) : Engine :=
  let e1 := (e.tab.records.map (·.1)).foldl (fun e r => e.put (.record r none)) e
  e.loadedBoxes.foldl (fun e m => (e.put (.boxHead m none)).put (.boxTail m none)) e1

/-- The content cleared as FORMAT clears it, over a map being cut (R89, R96): the segments of the bodies' chains go DIRTY, and records, slots and
bodies go. The walk that follows lists those segments by their index with the other DIRTY ones (R92). The order of these writes is the model's: DESIGN
CHOICE (log 15; safe). -/
def Engine.dropContent (segments : List Nat) (e : Engine) : Engine :=
  let e1 := (segments.foldl (fun e i => e.putDirty i) e).dropRecords
  let e2 := (e1.tab.slots.map (·.1)).foldl (fun e k => e.put (.slot k Slot.empty)) e1
  (e2.tab.bodies.map (·.1)).foldl (fun e b => e.put (.body b none)) e2

/-- The map cut to so many segments, and the content cleared (R89). The chains are those that stood before the cut (log 13). -/
def Engine.cutStore (segments : Nat) (e : Engine) : Engine :=
  let held := (e.bodiesInUse.flatMap (fun b => e.reached b)).filter (fun i => i < segments)
  (e.put (.cutMap segments)).dropContent held

/-- Format, extend or cut the map for C devices (R89, R91). The format is one write and the signature, the cut one write before those that clear the content,
and an extension the signature's write alone, the added segments being DIRTY already (log 14): DESIGN CHOICE (log 47; safe). -/
def Engine.fitMap (c : Nat) (e : Engine) : Engine :=
  match e.tab.signature with
  | none => ((e.put .blank).put (.signature (some c)))
  | some n =>
    if n < c then e.put (.signature (some c))
    else if c < n then (e.cutStore (c * Config.deviceSegments)).put (.signature (some c))
    else e

/-- The content has been cleared: the catalogue was blank, or the map was cut (R89). -/
def Engine.fitClears (c : Nat) (e : Engine) : Bool := e.tab.signature.all (fun n => decide (c < n))

/-- A stored setting outside its range is clamped (R206), where a device is counted (log 45). -/
def Engine.clampSettings (e : Engine) : Engine :=
  if e.tab.settings.clamped = e.tab.settings then e else e.put (.settings e.tab.settings.clamped)

/-! ## The walk (R92, R112) -/

/-- An ALLOCATED segment is a program cut short: it becomes DIRTY (R92). -/
def Engine.dirtyAllocated (e : Engine) : Engine :=
  ((e.tab.segments.filter (fun x => x.2.state = .allocated)).map (·.1)).foldl (fun e i => e.putDirty i) e

/-- The runs of segments from lo up to a total that a rising list does not name. -/
def gapRuns (total : Nat) : Nat → List Nat → List Run
  | lo, [] => if lo < total then [{ start := lo, count := total - lo }] else []
  | lo, i :: is => (if lo < i then [{ start := lo, count := i - lo }] else []) ++ gapRuns total (i + 1) is

/-- The lists built from the map in ascending order (R71, R72, R92). -/
def Engine.buildLists (e : Engine) : Engine :=
  let notDirty := (e.tab.segments.filter (fun x => x.2.state ≠ .dirty)).map (·.1)
  let erased := (e.tab.segments.filter (fun x => x.2.state = .erased)).map (·.1)
  e.modSsc (fun c => { c with freeList := erased, eraseQueue := gapRuns e.segmentTotal 0 notDirty })

/-- An OPEN body's segment count and last segment are rewritten from the chain reached (R112). Where the chain is empty, so that its first segment is not
reached, the first is rewritten too, as absent: DESIGN CHOICE (log 33; safe). -/
def Engine.fitOpenBody (b : Nat) (e : Engine) : Engine :=
  match e.body b with
  | none => e
  | some x =>
    let chain := e.reached b
    let y := { x with first := chain.head?, last := chain.getLast?, count := chain.length }
    if x.sealed || y = x then e else e.put (.body b (some y))

/-- The walk (R92). The DATA segments that no chain reaches join the erase queue in rising index: DESIGN CHOICE (log 15; safe). -/
def Engine.walk (e : Engine) : Engine :=
  let e1 := e.dirtyAllocated.buildLists
  let e2 := e1.bodiesInUse.foldl (fun e b => e.fitOpenBody b) e1
  let chained := e2.bodiesInUse.flatMap (fun b => e2.reached b)
  let data := (e2.tab.segments.filter (fun x => x.2.state = .data)).map (·.1)
  e2.makeAllDirty (data.filter (fun i => !chained.contains i))

/-! ## Distribution lists (R157) -/

/-- The member entries the walk of a list keeps: it stops at a free entry, a mailbox already met, or the 512th member (R157). -/
def Engine.keptMembers (e : Engine) : Nat → Option Nat → List (Nat × Nat) → List (Nat × Nat)
  | 0, _, kept => kept
  | _ + 1, none, kept => kept
  | n + 1, some i, kept =>
    match Tab.find? e.tab.members i with
    | none => kept
    | some v => if kept.any (fun x => x.2 = v.mailbox) then kept else e.keptMembers n v.next (kept ++ [(i, v.mailbox)])

/-- A list's walk. -/
def Engine.walkList (e : Engine) (l : Nat) : List (Nat × Nat) := e.keptMembers Config.listMembers (e.list l).first []

/-- A list's count and last member rewritten from its walk (R157). Where the walk keeps none, the first member is rewritten too, as absent: DESIGN CHOICE
(log 33; safe). -/
def Engine.fitList (l : Nat) (e : Engine) : Engine :=
  let kept := (e.walkList l).map (·.1)
  let d : DistList := { first := kept.head?, last := kept.getLast?, count := kept.length }
  if d = e.list l then e else e.put (.list l d)

/-- Distribution list repair (R157). The lists are taken in rising number and then the entries no list reaches in rising number, which orders the writes:
DESIGN CHOICE (log 15; safe). -/
def Engine.repairLists (e : Engine) : Engine :=
  let ls := e.tab.lists.map (·.1)
  let kept := (ls.flatMap (fun l => e.walkList l)).map (·.1)
  let e1 := ls.foldl (fun e l => e.fitList l) e
  ((e.tab.members.map (·.1)).filter (fun i => !kept.contains i)).foldl (fun e i => e.put (.member i none)) e1

/-! ## Mailbox lists and counters (R93, R139) -/

/-- The records a walk of a mailbox's list keeps: in use and naming the mailbox (R139). It stops at a record already kept: DESIGN CHOICE (log 33;
safe). -/
def Engine.keptRecords (e : Engine) (m : Nat) : Nat → Option Nat → List Nat → List Nat
  | 0, _, kept => kept
  | _ + 1, none, kept => kept
  | n + 1, some r, kept =>
    match e.record r with
    | none => kept
    | some x => if x.mailbox ≠ m || kept.contains r then kept else e.keptRecords m n x.next (kept ++ [r])

/-- The records of a mailbox that a walk has not reached, in ascending number (R139). -/
def Engine.unreached (e : Engine) (m : Nat) (kept : List Nat) : List Nat :=
  (e.tab.records.filter (fun x => x.2.mailbox = m && !kept.contains x.1)).map (·.1)

/-- The previous of a record is rewritten (R139). -/
def Engine.fitPrev (r : Nat) (p : Option Nat) (e : Engine) : Engine :=
  if (e.record r).all (fun x => x.prev = p) then e else e.put (.recordPrev r p)

/-- The next of a record is rewritten (R139). -/
def Engine.fitNext (r : Nat) (n : Option Nat) (e : Engine) : Engine :=
  if (e.record r).all (fun x => x.next = n) then e else e.put (.recordNext r n)

/-- The previous of each record of a walk is rewritten, the first record's from the one before them (R139). -/
def Engine.fitPrevs (prev : Option Nat) : List Nat → Engine → Engine
  | [], e => e
  | r :: rs, e => (e.fitPrev r prev).fitPrevs (some r) rs

/-- A mailbox's list head is absent where the walk keeps no record, and its tail is the last kept (R139). That the head is rewritten: DESIGN CHOICE (log
33; safe). -/
def Engine.fitEnds (m : Nat) (kept : List Nat) (e : Engine) : Engine :=
  match e.mailbox m with
  | none => e
  | some b =>
    let e1 := if kept = [] && b.head.isSome then e.put (.boxHead m none) else e
    if b.tail = kept.getLast? then e1 else e1.put (.boxTail m kept.getLast?)

/-- A mailbox's list is cut to the records its walk keeps: their previouses, the last one's next absent, and the tail, in that order (R139). -/
def Engine.fitBox (m : Nat) (kept : List Nat) (e : Engine) : Engine :=
  let e1 := e.fitPrevs none kept
  (match kept.getLast? with
    | none => e1
    | some r => e1.fitNext r none).fitEnds m kept

/-- A record in use is appended to the list of the mailbox it names (R123, R139). -/
def Engine.appendAgain (r : Nat) (e : Engine) : Engine :=
  match e.record r with
  | none => e
  | some x => e.appendRecord r x

/-- Mailbox list repair (R139): the list is cut to the records kept, and those not reached are appended one by one, each in the order of writes of R123,
so that a repair cut short leaves a list whose repair comes to the same end (R90). -/
def Engine.repairBox (m : Nat) (e : Engine) : Engine :=
  let kept := e.keptRecords m e.tab.records.length ((e.mailbox m).bind (·.head)) []
  (e.unreached m kept).foldl (fun e r => e.appendAgain r) (e.fitBox m kept)

/-- An OPEN body's extent is its chain (R93, R112). -/
def Engine.openExtents (e : Engine) : Engine :=
  e.tab.bodies.foldl (fun e x => if x.2.sealed then e else e.modHold x.1 (fun h => { h with begun := x.2.count })) e

/-- Counters and charges from the message table (R93, R125, R126, R139). -/
def Engine.recount (e : Engine) : Engine :=
  e.tab.records.foldl (fun e x => (e.modCounter x.2.mailbox (Counters.join x.2.state x.2.urgent)).charge x.2.mailbox (· + e.extent x.2.body)) e

/-- Reference counts of the lamp addresses from the lamp lists (R93, R168). -/
def Engine.countLamps (e : Engine) : Engine :=
  e.modLmp (fun l => (e.tab.mailboxes.flatMap (fun x => x.2.fields.lamps)).foldl (fun l a => l.modEntry a (fun x => { x with refs := x.refs + 1 })) l)

/-! ## Reconciliation and release (R94, R95, R112) -/

/-- Change the report of the start under way. -/
def Engine.modReport (f : StartReport → StartReport) (e : Engine) : Engine := e.modSsc (fun c => { c with start := c.start.map f })

/-- The record in RECORDING that names a body. -/
def Engine.recordingOf (b : Nat) (e : Engine) : Option (Nat × Record) :=
  List.find? (fun x => decide (x.2.body = b) && decide (x.2.state = .recording)) e.tab.records

/-- A take cut short is long enough to keep (R94). -/
def Engine.longEnough (n m : Nat) (e : Engine) : Bool := decide (1 ≤ n) && decide ((e.boxClass m).minMessage * 800 ≤ n * Config.segmentSamples)

/-- A body held by a record in RECORDING (R94, R112): sealed and kept, or its record freed. The body is released by the last step. A body already
sealed gives its record without the cut flag, as R112 says, though R90 says that a check run again reaches the same end: DESIGN CHOICE (log 32; unsafe). -/
def Engine.reconcile (b : Nat) (e : Engine) : Engine :=
  match e.body b, e.recordingOf b with
  | some x, some (r, y) =>
    if x.sealed then e.recordSealed r false
    else if e.longEnough x.count y.mailbox then
      ((e.sealBody b 0 (x.count * Config.segmentSamples)).recordSealed r true).modReport (fun p => { p with keptCut := p.keptCut + 1 })
    else
      (((e.detachRecord r y).modShare b (· - 1)).handInputs y.mailbox).modReport (fun p => { p with recordsReleased := p.recordsReleased + 1 })
  | _, _ => e

/-- Every staged body is let go (R94, R151). -/
def Engine.clearStagings (e : Engine) : Engine :=
  e.tab.slots.foldl (fun e x => if x.2.staged.isSome then e.put (.slot x.1 { x.2 with staged := none }) else e) e

/-- The holders of a body (R105, R112): records and filled slots. -/
def Engine.holders (b : Nat) (e : Engine) : Nat :=
  (e.tab.records.filter (fun x => x.2.body = b)).length + (e.tab.slots.filter (fun x => x.2.held = some b)).length

/-- The share count of a body rewritten (R112). -/
def Engine.fitShare (b : Nat) (e : Engine) : Engine :=
  match e.body b with
  | none => e
  | some x => if x.share = e.holders b then e else e.put (.body b (some { x with share := e.holders b }))

/-- A body without a share is released, over the chain the walk reaches (R95, R112). -/
def Engine.releaseAtStart (b : Nat) (e : Engine) : Engine :=
  match e.body b with
  | none => e
  | some x =>
    if x.share ≠ 0 then e
    else (((e.makeAllDirty (e.reached b)).put (.body b none)).modHold b (fun _ => BodyHold.zero)).modReport
      (fun p => { p with bodiesReleased := p.bodiesReleased + 1 })

/-- The steps of the check after the first (R92 to R95). The lists of the loaded mailboxes are repaired in rising mailbox number, which orders their
catalogue writes. The message bodies are reconciled in rising body number before the stagings are cleared, those in rising mailbox and slot, and the bodies
without a share are released in rising body number, which orders the erase queue. The settings are clamped before the walk, and the distribution lists
repaired right after it. The spec orders none of these (R94, R95, R112, R139, R151, R157, R206): DESIGN CHOICE (log 15; safe). A write that would change
nothing is not asked for: DESIGN CHOICE (log 43; safe). -/
def Engine.checkSteps (e : Engine) : Engine :=
  let e1 := e.clampSettings.walk.repairLists
  let e2 := (e1.loadedBoxes.foldl (fun e m => e.repairBox m) e1).openExtents.recount
  let e3 := (e2.bodiesInUse.foldl (fun e b => e.reconcile b) e2).clearStagings
  let e4 := e3.bodiesInUse.foldl (fun e b => e.fitShare b) e3
  e4.bodiesInUse.foldl (fun e b => e.releaseAtStart b) e4

/-- The store check (R89 to R95). Its catalogue writes are asked for in order; the part stays in STARTING until they are complete. With no device
counted the check stops (R89), and the settings stay as the catalogue gives them, read and not clamped (R206): DESIGN CHOICE (log 45; unsafe). The lamp unit
has every reference count 0 until the check ends, when it gets its references and its inputs (R185; log 29); the counter changes of the reconciliation, which
R94 lets reach it as any do, reach it in that one handing: DESIGN CHOICE (log 38; safe). -/
def Engine.storeCheck (cause : StartCause) (selects : Selects) (e : Engine) : Engine :=
  let c := countSelects selects
  let e1 := e.modSsc (fun x => { x with devices := c })
  if c = 0 then e1
  else
    let e2 := (((e1.beginStart cause (e1.fitClears c)).fitMap c).checkSteps).flush .nothing
    { e2 with lmp := e.lmp }

/-! ## Resets (R16, R17, R88, R187, R208) -/

/-- The references and the lamp inputs that end a store check (R93, R139, R185). -/
def Engine.handAtStart (e : Engine) : Engine :=
  let e1 := e.countLamps.handAll e.loadedBoxes
  let used := (e1.lmp.table.filter (fun x => 0 < x.2.refs)).map (·.1)
  e1.modLmp (fun l => used.foldl (fun l a => l.examine a) l)

/-- POWER_ON (R88, R98): every block is reset, the write in flight is abandoned, and the check begins, or the part is FROZEN at once. -/
def State.powerOn (selects : Selects) (pfwLow : Bool) (s : State) : State :=
  let e := Engine.reset s.eng.cat s.eng.ssc.flash
  { hwi := Hwi.reset, cal := Cal.reset, pending := s.pending,
    eng := if pfwLow then e.modSsc (fun c => { c with service := .frozen }) else e.storeCheck .powerOn selects }

/-- The calendar through a RESTART (R187, R189, R193). -/
def Cal.restarted (c : Cal) (divider : Nat) : Cal :=
  let c1 := { c with sweep := Sweep.reset }
  if c.source = .highway then { c1 with source := .losc, subCount := 1000 * divider } else c1

/-- A RESTART may take effect: its answer has left and the operations in flight have ended (R88, R208). -/
def State.restartReady (s : State) : Bool := s.eng.mgc.restart = .due && s.eng.ssc.link = .idle && s.eng.catQueue = []

/-- RESTART_RESET (R208). -/
def State.restartReset (selects : Selects) (s : State) : State :=
  if !s.restartReady then s
  else
    let s := s.takePulse
    { hwi := Hwi.reset, cal := s.cal.restarted s.hwi.divider, pending := s.pending,
      eng := (Engine.reset s.eng.cat s.eng.ssc.flash).storeCheck .restart selects }

/-! ## Entry to SERVICE (R87) -/

/-- START_DONE (R87, 11.8). -/
def Engine.raiseStartDone (p : StartReport) (e : Engine) : Engine :=
  e.raise .startDone (be1 p.cause.code ++ be1 e.ssc.devices ++ e.segmentBytes ++ yes1 p.cleared ++ be2 p.keptCut ++ be2 p.recordsReleased ++
    be2 p.bodiesReleased)

/-- The entry to SERVICE at the end of a check or a FORMAT whose writes are complete (R87, R95, R96). START_DONE comes before a POOL_LOW of the examination,
in the order in which R87 names the two: DESIGN CHOICE (log 46; unsafe). -/
def Engine.enterService (e : Engine) : Engine :=
  match e.ssc.start with
  | none => e
  | some p =>
    if e.ssc.service ≠ .starting || e.catQueue ≠ [] then e
    else
      let e1 := if p.cause = .format then e else e.handAtStart
      ((e1.modSsc (fun c => { c with service := .service, start := none })).raiseStartDone p).examinePool

/-! ## The freeze (R15, R44, R97, R98) -/

/-- FREEZE (R97): the write in flight and the store operation in flight complete, and sessions end FROZEN. HTX carries idle fill from the next frame
(R15). -/
def State.freeze (s : State) : State :=
  if s.eng.ssc.service = .frozen then s
  else
    let e1 := s.eng.modSsc (fun c => { c with service := .frozen, start := none })
    let e2 := e1.modMgc (fun g => { g with restart := .none })
    let e3 := ({ e2 with catQueue := haltQueue e2.catQueue, lmp := { e2.lmp with outCell := [] } } : Engine).freezeSessions
    { s with eng := e3 }

end Sys2Proof.Machine
end

