-- ==== Sys2Proof/Machine/DeliveryCommands.lean ====
section
/-! DEFINITION. Meanings: the orders of lists and deliveries, and a delivery's next recipient. -/

namespace Sys2Proof.Machine

/-- The part is in SERVICE with its catalogue link open to new writes. -/
def Engine.serving (e : Engine) : Bool := e.ssc.service = .service && !e.halted

/-- DELIVERY_RECIPIENT (R160): where no running job may take a recipient, nothing happens (log 4). -/
def execDeliveryRecipient (s : State) : Host.Outcome State Fault Refusal :=
  .next (if s.eng.serving then s.onEng (fun e => e.takeRecipient s.now) else s).finish

/-- LIST CLEAR (R155): its packet arrives (log 3). -/
def execListClear (tag : Byte) (params : List Byte) (s : State) : Host.Outcome State Fault Refusal :=
  .next (s.deliverOrder 0x38 tag params)

/-- LIST ADD (R154): its packet arrives (log 3). -/
def execListAdd (tag : Byte) (params : List Byte) (s : State) : Host.Outcome State Fault Refusal :=
  .next (s.deliverOrder 0x39 tag params)

/-- READ LIST (R156): its packet arrives (log 3). -/
def execReadList (tag : Byte) (params : List Byte) (s : State) : Host.Outcome State Fault Refusal :=
  .next (s.deliverOrder 0x3A tag params)

/-- DELIVER (R159): its packet arrives (log 3). -/
def execDeliver (tag : Byte) (params : List Byte) (s : State) : Host.Outcome State Fault Refusal :=
  .next (s.deliverOrder 0x3B tag params)

/-- CANCEL DELIVERY (R163): its packet arrives (log 3). -/
def execCancelDelivery (tag : Byte) (params : List Byte) (s : State) : Host.Outcome State Fault Refusal :=
  .next (s.deliverOrder 0x3C tag params)

end Sys2Proof.Machine
end

