-- ==== Sys2Proof/Machine/HighwayCommands.lean ====
section
/-! DEFINITION. Meanings: the events of the highway and of the clock. -/

namespace Sys2Proof.Machine

/-- SYNC_PULSE (R1). -/
def execSyncPulse (width : Nat) (expected : Bool) (s : State) : Host.Outcome State Fault Refusal :=
  .next (s.syncPulse width expected).finish

/-- FRAME (R2, R5, R7, R10). -/
def execFrame (hrx : List Byte) (s : State) : Host.Outcome State Fault Refusal := .next (s.frame hrx).finish

/-- HCLK_LOSS (R3). -/
def execHclkLoss (s : State) : Host.Outcome State Fault Refusal := .next s.hclkLoss.finish

/-- SECONDS_PULSE (R14, R188): the pulse that the divider has given is taken; where it has given none, nothing happens (log 4). -/
def execSecondsPulse (s : State) : Host.Outcome State Fault Refusal := .next s.takePulse.finish

/-- LOCAL_SECOND (R188): on LOSC, the sub-second count returns to 0 and a second is counted; on the highway, nothing happens (log 4). -/
def execLocalSecond (s : State) : Host.Outcome State Fault Refusal :=
  .next (if s.cal.source = .losc then ({ s with cal := { s.cal with subCount := 0 } } : State).secondCounted else s).finish

end Sys2Proof.Machine
end

