-- ==== Sys2Proof/Machine/MailboxCommands.lean ====
section
/-! DEFINITION. Meanings: the orders of classes, mailboxes, messages and greetings. -/

namespace Sys2Proof.Machine

/-- LIST (R137): its packet arrives (log 3). -/
def execList (tag : Byte) (params : List Byte) (s : State) : Host.Outcome State Fault Refusal :=
  .next (s.deliverOrder 0x20 tag params)

/-- MARK (R131): its packet arrives (log 3). -/
def execMark (tag : Byte) (params : List Byte) (s : State) : Host.Outcome State Fault Refusal :=
  .next (s.deliverOrder 0x21 tag params)

/-- DELETE (R134): its packet arrives (log 3). -/
def execDelete (tag : Byte) (params : List Byte) (s : State) : Host.Outcome State Fault Refusal :=
  .next (s.deliverOrder 0x22 tag params)

/-- PURGE (R135): its packet arrives (log 3). -/
def execPurge (tag : Byte) (params : List Byte) (s : State) : Host.Outcome State Fault Refusal :=
  .next (s.deliverOrder 0x23 tag params)

/-- LOAD CLASS (R116): its packet arrives (log 3). -/
def execLoadClass (tag : Byte) (params : List Byte) (s : State) : Host.Outcome State Fault Refusal :=
  .next (s.deliverOrder 0x28 tag params)

/-- READ CLASS (R117): its packet arrives (log 3). -/
def execReadClass (tag : Byte) (params : List Byte) (s : State) : Host.Outcome State Fault Refusal :=
  .next (s.deliverOrder 0x29 tag params)

/-- LOAD MAILBOX (R119, R120): its packet arrives (log 3). -/
def execLoadMailbox (tag : Byte) (params : List Byte) (s : State) : Host.Outcome State Fault Refusal :=
  .next (s.deliverOrder 0x2A tag params)

/-- READ MAILBOX (R121): its packet arrives (log 3). -/
def execReadMailbox (tag : Byte) (params : List Byte) (s : State) : Host.Outcome State Fault Refusal :=
  .next (s.deliverOrder 0x2B tag params)

/-- SELECT GREETING (R147): its packet arrives (log 3). -/
def execSelectGreeting (tag : Byte) (params : List Byte) (s : State) : Host.Outcome State Fault Refusal :=
  .next (s.deliverOrder 0x30 tag params)

/-- ERASE GREETING (R149): its packet arrives (log 3). -/
def execEraseGreeting (tag : Byte) (params : List Byte) (s : State) : Host.Outcome State Fault Refusal :=
  .next (s.deliverOrder 0x31 tag params)

end Sys2Proof.Machine
end

