-- ==== Sys2Proof/Machine/SessionCommands.lean ====
section
/-! DEFINITION. Meanings: the events and orders of sessions. -/

namespace Sys2Proof.Machine

/-- WINDOW_END (R23, R47): a window that is complete closes; where none is, nothing happens (log 4). -/
def execWindowEnd (k : Nat) (s : State) : Host.Outcome State Fault Refusal := .next (s.onEng (fun e => e.closeWindow k)).finish

/-- LOSS_TIMER_EXPIRY (R43): a session that runs its loss timer ends SLOT_LOST, a window end still due being taken first (log 9). -/
def execLossTimerExpiry (k : Nat) (s : State) : Host.Outcome State Fault Refusal :=
  .next (s.onEng (fun e => (e.closeWindow k).loseSession s.now k)).finish

/-- OPEN RECORD (R19, R20, R21): its packet arrives (log 3). -/
def execOpenRecord (tag : Byte) (params : List Byte) (s : State) : Host.Outcome State Fault Refusal :=
  .next (s.deliverOrder 0x10 tag params)

/-- OPEN PLAY (R22): its packet arrives (log 3). -/
def execOpenPlay (tag : Byte) (params : List Byte) (s : State) : Host.Outcome State Fault Refusal :=
  .next (s.deliverOrder 0x11 tag params)

/-- STOP (R36): its packet arrives (log 3). -/
def execStop (tag : Byte) (params : List Byte) (s : State) : Host.Outcome State Fault Refusal :=
  .next (s.deliverOrder 0x12 tag params)

/-- CANCEL (R37): its packet arrives (log 3). -/
def execCancel (tag : Byte) (params : List Byte) (s : State) : Host.Outcome State Fault Refusal :=
  .next (s.deliverOrder 0x13 tag params)

/-- PAUSE (R38): its packet arrives (log 3). -/
def execPause (tag : Byte) (params : List Byte) (s : State) : Host.Outcome State Fault Refusal :=
  .next (s.deliverOrder 0x14 tag params)

/-- RESUME (R38): its packet arrives (log 3). -/
def execResume (tag : Byte) (params : List Byte) (s : State) : Host.Outcome State Fault Refusal :=
  .next (s.deliverOrder 0x15 tag params)

/-- SEEK (R39): its packet arrives (log 3). -/
def execSeek (tag : Byte) (params : List Byte) (s : State) : Host.Outcome State Fault Refusal :=
  .next (s.deliverOrder 0x16 tag params)

/-- CLOSE (R40): its packet arrives (log 3). -/
def execClose (tag : Byte) (params : List Byte) (s : State) : Host.Outcome State Fault Refusal :=
  .next (s.deliverOrder 0x17 tag params)

/-- SESSION STATUS (R41): its packet arrives (log 3). -/
def execSessionStatus (tag : Byte) (params : List Byte) (s : State) : Host.Outcome State Fault Refusal :=
  .next (s.deliverOrder 0x18 tag params)

end Sys2Proof.Machine
end

