-- ==== Sys2Proof/Machine/StoreCommands.lean ====
section
/-! DEFINITION. Meanings: the ends of operations on the store link and the catalogue link, the service state, and the resets. -/

namespace Sys2Proof.Machine

/-- POWER_ON (R88). -/
def execPowerOn (selects : Selects) (pfwLow : Bool) (s : State) : Host.Outcome State Fault Refusal := .next (s.powerOn selects pfwLow)

/-- FREEZE (R97). -/
def execFreeze (s : State) : Host.Outcome State Fault Refusal := .next s.freeze

/-- A read in flight ends, good or with its check failed (R81, R82). -/
def Engine.readComplete (good : Bool) (e : Engine) : Engine :=
  match e.ssc.link with
  | .reading r attempt => e.readEnds r attempt (if good then none else some .check)
  | _ => e

/-- READ_COMPLETE (R81): where no read is in flight, nothing happens (log 4). -/
def execReadComplete (good : Bool) (s : State) : Host.Outcome State Fault Refusal := .next (s.onEng (fun e => e.readComplete good)).finish

/-- A program in flight ends, by success or by the device's failure (R83, R84). -/
def Engine.programComplete (good : Bool) (e : Engine) : Engine :=
  match e.ssc.link with
  | .programming r i wanted => if good then e.programDone r i wanted else e.programFailed r i wanted .device
  | _ => e

/-- PROGRAM_COMPLETE (R83, R84): where no program is in flight, nothing happens (log 4). -/
def execProgramComplete (good : Bool) (s : State) : Host.Outcome State Fault Refusal :=
  .next (s.onEng (fun e => e.programComplete good)).finish

/-- An erase in flight ends, by success or by the device's failure (R85). -/
def Engine.eraseComplete (good : Bool) (e : Engine) : Engine :=
  match e.ssc.link with
  | .erasing i => if good then e.eraseDone i else e.eraseFailed i .device
  | _ => e

/-- ERASE_COMPLETE (R85): where no erase is in flight, nothing happens (log 4). -/
def execEraseComplete (good : Bool) (s : State) : Host.Outcome State Fault Refusal := .next (s.onEng (fun e => e.eraseComplete good)).finish

/-- The operation in flight fails by time (R79, R81, R84, R85). -/
def Engine.opTimeout (e : Engine) : Engine :=
  match e.ssc.link with
  | .reading r attempt => e.readEnds r attempt (some .time)
  | .programming r i wanted => e.programFailed r i wanted .time
  | .erasing i => e.eraseFailed i .time
  | _ => e

/-- STORE_OP_TIMEOUT (R79): where no operation is in flight, nothing happens (log 4). -/
def execStoreOpTimeout (s : State) : Host.Outcome State Fault Refusal := .next (s.onEng Engine.opTimeout).finish

/-- CATALOGUE_WRITE_COMPLETE (R80): where no write is in flight, nothing happens (log 4). -/
def execCatalogueWriteComplete (s : State) : Host.Outcome State Fault Refusal := .next (s.onEng Engine.writeDone).finish

/-- ENTER_SERVICE (R87): while the check or FORMAT still has writes to make, nothing happens (log 4). -/
def execEnterService (s : State) : Host.Outcome State Fault Refusal := .next (s.onEng Engine.enterService).finish

/-- RESTART_RESET (R208): while the RESTART is not ready to take effect, nothing happens (log 4). -/
def execRestartReset (selects : Selects) (s : State) : Host.Outcome State Fault Refusal := .next (s.restartReset selects)

/-- FORMAT (R96): its packet arrives (log 3). -/
def execFormat (tag : Byte) (params : List Byte) (s : State) : Host.Outcome State Fault Refusal :=
  .next (s.deliverOrder 0x54 tag params)

/-- RESTART (R208): its packet arrives (log 3). -/
def execRestart (tag : Byte) (params : List Byte) (s : State) : Host.Outcome State Fault Refusal :=
  .next (s.deliverOrder 0x55 tag params)

end Sys2Proof.Machine
end

