-- ==== Sys2Proof/Machine/SystemCommands.lean ====
section
/-! DEFINITION. Meanings: the orders of lamps, calendar and management channel, the retry of a lamp address, the sweep's examinations, and unknown orders. -/

namespace Sys2Proof.Machine

/-- The retry of a lamp address is due (R180). -/
def Engine.retryDue (a : Nat) (e : Engine) : Bool :=
  !decide (e.ssc.service = .frozen) && (e.lamp a).fault = .retryWait && (e.lamp a).retryDue.any (fun d => decide (d ≤ e.lmp.seconds))

/-- RETRY_DUE (R180): where the address's retry is not due, nothing happens (log 4). -/
def execRetryDue (a : Nat) (s : State) : Host.Outcome State Fault Refusal :=
  .next (if s.eng.retryDue a then s.onEng (fun e => e.modLmp (Lmp.retry a)) else s).finish

/-- SWEEP_EXAMINATION (R194): where no sweep is running in SERVICE, nothing happens (log 4). -/
def execSweepExamination (s : State) : Host.Outcome State Fault Refusal :=
  .next (if s.cal.sweep.running && s.eng.serving then s.examination else s).finish

/-- CLEAR FAULT (R182): its packet arrives (log 3). -/
def execClearFault (tag : Byte) (params : List Byte) (s : State) : Host.Outcome State Fault Refusal :=
  .next (s.deliverOrder 0x40 tag params)

/-- LAMP STATUS (R183): its packet arrives (log 3). -/
def execLampStatus (tag : Byte) (params : List Byte) (s : State) : Host.Outcome State Fault Refusal :=
  .next (s.deliverOrder 0x41 tag params)

/-- SET CLOCK (R190): its packet arrives (log 3). -/
def execSetClock (tag : Byte) (params : List Byte) (s : State) : Host.Outcome State Fault Refusal :=
  .next (s.deliverOrder 0x48 tag params)

/-- READ CLOCK (R191): its packet arrives (log 3). -/
def execReadClock (tag : Byte) (params : List Byte) (s : State) : Host.Outcome State Fault Refusal :=
  .next (s.deliverOrder 0x49 tag params)

/-- SWEEP (R193): its packet arrives (log 3). -/
def execSweep (tag : Byte) (params : List Byte) (s : State) : Host.Outcome State Fault Refusal :=
  .next (s.deliverOrder 0x4A tag params)

/-- STATUS (R207): its packet arrives (log 3). -/
def execStatus (tag : Byte) (params : List Byte) (s : State) : Host.Outcome State Fault Refusal :=
  .next (s.deliverOrder 0x50 tag params)

/-- SET OPTIONS (R206): its packet arrives (log 3). -/
def execSetOptions (tag : Byte) (params : List Byte) (s : State) : Host.Outcome State Fault Refusal :=
  .next (s.deliverOrder 0x51 tag params)

/-- READ OPTIONS (R206): its packet arrives (log 3). -/
def execReadOptions (tag : Byte) (params : List Byte) (s : State) : Host.Outcome State Fault Refusal :=
  .next (s.deliverOrder 0x52 tag params)

/-- CLEAR FLAGS (R205): its packet arrives (log 3). -/
def execClearFlags (tag : Byte) (params : List Byte) (s : State) : Host.Outcome State Fault Refusal :=
  .next (s.deliverOrder 0x53 tag params)

/-- UNKNOWN_ORDER (R202): an order whose code is none of 11.8 arrives (log 3). -/
def execUnknownOrder (code tag : Byte) (params : List Byte) (s : State) : Host.Outcome State Fault Refusal :=
  .next (s.deliverOrder code tag params)

end Sys2Proof.Machine
end

