-- ==== Sys2Proof/Machine/Dispatch.lean ====
section
/-! DEFINITION. The meaning of every command: one arm per constructor of Instr. -/

namespace Sys2Proof.Machine

def exec (i : Instr) (s : State) : Host.Outcome State Fault Refusal :=
  match i with
  | .powerOn selects pfwLow => Sys2Proof.Machine.execPowerOn selects pfwLow s
  | .freeze => Sys2Proof.Machine.execFreeze s
  | .syncPulse width expected => Sys2Proof.Machine.execSyncPulse width expected s
  | .frame hrx => Sys2Proof.Machine.execFrame hrx s
  | .hclkLoss => Sys2Proof.Machine.execHclkLoss s
  | .secondsPulse => Sys2Proof.Machine.execSecondsPulse s
  | .localSecond => Sys2Proof.Machine.execLocalSecond s
  | .windowEnd session => Sys2Proof.Machine.execWindowEnd session s
  | .lossTimerExpiry session => Sys2Proof.Machine.execLossTimerExpiry session s
  | .retryDue address => Sys2Proof.Machine.execRetryDue address s
  | .openRecord tag params => Sys2Proof.Machine.execOpenRecord tag params s
  | .openPlay tag params => Sys2Proof.Machine.execOpenPlay tag params s
  | .stop tag params => Sys2Proof.Machine.execStop tag params s
  | .cancel tag params => Sys2Proof.Machine.execCancel tag params s
  | .pause tag params => Sys2Proof.Machine.execPause tag params s
  | .resume tag params => Sys2Proof.Machine.execResume tag params s
  | .seek tag params => Sys2Proof.Machine.execSeek tag params s
  | .close tag params => Sys2Proof.Machine.execClose tag params s
  | .sessionStatus tag params => Sys2Proof.Machine.execSessionStatus tag params s
  | .readComplete good => Sys2Proof.Machine.execReadComplete good s
  | .programComplete good => Sys2Proof.Machine.execProgramComplete good s
  | .eraseComplete good => Sys2Proof.Machine.execEraseComplete good s
  | .storeOpTimeout => Sys2Proof.Machine.execStoreOpTimeout s
  | .catalogueWriteComplete => Sys2Proof.Machine.execCatalogueWriteComplete s
  | .enterService => Sys2Proof.Machine.execEnterService s
  | .restartReset selects => Sys2Proof.Machine.execRestartReset selects s
  | .deliveryRecipient => Sys2Proof.Machine.execDeliveryRecipient s
  | .sweepExamination => Sys2Proof.Machine.execSweepExamination s
  | .list tag params => Sys2Proof.Machine.execList tag params s
  | .mark tag params => Sys2Proof.Machine.execMark tag params s
  | .delete tag params => Sys2Proof.Machine.execDelete tag params s
  | .purge tag params => Sys2Proof.Machine.execPurge tag params s
  | .loadClass tag params => Sys2Proof.Machine.execLoadClass tag params s
  | .readClass tag params => Sys2Proof.Machine.execReadClass tag params s
  | .loadMailbox tag params => Sys2Proof.Machine.execLoadMailbox tag params s
  | .readMailbox tag params => Sys2Proof.Machine.execReadMailbox tag params s
  | .selectGreeting tag params => Sys2Proof.Machine.execSelectGreeting tag params s
  | .eraseGreeting tag params => Sys2Proof.Machine.execEraseGreeting tag params s
  | .listClear tag params => Sys2Proof.Machine.execListClear tag params s
  | .listAdd tag params => Sys2Proof.Machine.execListAdd tag params s
  | .readList tag params => Sys2Proof.Machine.execReadList tag params s
  | .deliver tag params => Sys2Proof.Machine.execDeliver tag params s
  | .cancelDelivery tag params => Sys2Proof.Machine.execCancelDelivery tag params s
  | .clearFault tag params => Sys2Proof.Machine.execClearFault tag params s
  | .lampStatus tag params => Sys2Proof.Machine.execLampStatus tag params s
  | .setClock tag params => Sys2Proof.Machine.execSetClock tag params s
  | .readClock tag params => Sys2Proof.Machine.execReadClock tag params s
  | .sweep tag params => Sys2Proof.Machine.execSweep tag params s
  | .status tag params => Sys2Proof.Machine.execStatus tag params s
  | .setOptions tag params => Sys2Proof.Machine.execSetOptions tag params s
  | .readOptions tag params => Sys2Proof.Machine.execReadOptions tag params s
  | .clearFlags tag params => Sys2Proof.Machine.execClearFlags tag params s
  | .format tag params => Sys2Proof.Machine.execFormat tag params s
  | .restart tag params => Sys2Proof.Machine.execRestart tag params s
  | .unknownOrder code tag params => Sys2Proof.Machine.execUnknownOrder code tag params s

end Sys2Proof.Machine
end

