-- ==== Sys2Proof/Machine/Step.lean ====
section
/-! DEFINITION. One step: the command at the front of the queue, or one period of the local oscillator. -/

namespace Sys2Proof.Machine

/-- A session's loss timer after one more LOSC period (R43). -/
def Session.losc (x : Session) : Session :=
  if x.state.recordLive || x.state.playLive then { x with lossTimer := min Config.lossPeriods (x.lossTimer + 1) } else x

/-- The local sub-second count after one more LOSC period: it is kept on the LOSC source only (R188). -/
def Cal.losc (c : Cal) : Cal :=
  if c.source = .losc then { c with subCount := min (Config.secondPeriods - 1) (c.subCount + 1) } else c

/-- The LOSC periods within which the operation in flight must end: twice its maximum time (R79); 0 where none is in flight. -/
def Link.bound : Link → Nat
  | .reading _ _ => 1920
  | .programming _ _ _ => 12800
  | .erasing _ => 64000
  | _ => 0

/-- The operation timer after one more LOSC period: it runs while an operation is in flight (R79). -/
def Ssc.losc (c : Ssc) : Ssc := if c.opTimer < c.link.bound then { c with opTimer := c.opTimer + 1 } else c

/-- One LOSC period with no command (log 2): the timers on the local oscillator count, each up to the bound at which its own command acts. -/
def State.losc (s : State) : State :=
  { s with cal := s.cal.losc,
           eng := { s.eng with sessions := s.eng.sessions.map (fun kx => (kx.1, kx.2.losc)), ssc := s.eng.ssc.losc } }

/-- One step: the command at the front of the queue, over the queue's rest; on an empty queue, one LOSC period (log 2). -/
def step (s : State) : Host.Outcome State Fault Refusal :=
  match s.pending with
  | [] => .next s.losc
  | c :: rest => exec c { s with pending := rest }

/-- The command a word spells, put at the front of the queue. No row of the table gives a command any bits, so no word spells one. -/
def State.withFetchWord (s : State) (nbits w : Nat) : State :=
  match decodeTableWord nbits w with
  | some c => { s with pending := c :: s.pending }
  | none => s

end Sys2Proof.Machine
end

