-- ==== Sys2Proof/Safety.lean ====
section
/-! DEFINITION. The predicates the statements are made of: a part at rest, a part that accepts an order, frames, and the invariants of the highway,
the clock, the pool and the tables. -/

namespace Sys2Proof.Machine

/-- Nothing is left for the part to do at once: no write asked for, no job due to end (R164), no choice for the arbiter (R77), because the link is
busy, or the part is not in SERVICE, or nothing waits. -/
def Engine.atRest (e : Engine) : Prop :=
  e.asked = [] ∧ e.dle.due = none ∧
    (e.linkFree = false ∨ (e.ssc.progQueue = [] ∧ e.ssc.readQueue = [] ∧ e.ssc.eraseQueue = []))

/-- At rest, with no order waiting. -/
def State.calm (s : State) : Prop := s.eng.atRest ∧ s.eng.mgc.inbox = []

/-- An order arrives, and the order processor takes it at once and hands it to its owner: the highway carries traffic (R5, R209), and the part is in
SERVICE, calm, handling no order, with a free place (R202). -/
def State.accepting (s : State) : Prop :=
  s.carries = true ∧ s.calm ∧ s.eng.ssc.service = .service ∧ s.eng.mgc.handling = false ∧ s.eng.mgc.restart = .none ∧
    s.eng.mgc.outbox.length < Config.outboxPlaces

/-- The part with an order's answer placed in its outbox, and nothing else changed. -/
def State.withAnswer (tag : Byte) (r : Result) (data : List Byte) (s : State) : State :=
  s.onEng (fun e => e.modMgc (fun g => { g with outbox := g.outbox ++ [answerPacket tag r data] }))

/-- The answer of an order stands in the outbox. -/
def State.answered (tag : Byte) (r : Result) (data : List Byte) (s : State) : Prop := answerPacket tag r data ∈ s.eng.mgc.outbox

/-- The flag of a notice kind is set (R204). -/
def State.flagged (k : NoticeKind) (s : State) : Prop := s.eng.mgc.flags &&& k.bit = k.bit

/-- A frame of LOCKED or FLYWHEEL with its sync taken, the part calm and not frozen, no window end due, and no packet in progress or beginning. -/
def State.calmFrame (s : State) (hrx : List Byte) : Prop :=
  s.calm ∧ s.hwi.frameBegun = true ∧ (s.hwi.sync = .locked ∨ s.hwi.sync = .flywheel) ∧ s.eng.ssc.service ≠ .frozen ∧
    (∀ kx ∈ s.eng.sessions, kx.2.windowDue = false) ∧ s.eng.mgc.rx = none ∧ hrx.getD 0 0xFF ≠ 0xC3 ∧ hrx.getD 1 0xFF ≠ 0xC3

/-- A quiet frame: a calm one, the superframe unaligned. -/
def State.quietFrame (s : State) (hrx : List Byte) : Prop := s.calmFrame hrx ∧ s.hwi.frameNo = none

/-! ## Frames -/

/-- The parts of the state that a frame names one by one. -/
inductive Part where
  | hwi | cal | slots | sessions | service | pool | storeQueues | link | flash | holds | counters | dle | lmp | channel | outbox | flags
  | signature | segments | bodies | classes | mailboxes | records | greetings | lists | members | settings | catalogue | writes
deriving DecidableEq, Repr

/-- A part stands in t as in s. -/
def State.samePart (s t : State) : Part → Prop
  | .hwi => t.hwi = s.hwi
  | .cal => t.cal = s.cal
  | .slots => t.eng.slotsIn = s.eng.slotsIn ∧ t.eng.slotsOut = s.eng.slotsOut
  | .sessions => t.eng.sessions = s.eng.sessions
  | .service => t.eng.ssc.service = s.eng.ssc.service ∧ t.eng.ssc.devices = s.eng.ssc.devices ∧ t.eng.ssc.start = s.eng.ssc.start
  | .pool => t.eng.ssc.freeList = s.eng.ssc.freeList ∧ t.eng.ssc.eraseQueue = s.eng.ssc.eraseQueue ∧ t.eng.ssc.poolLow = s.eng.ssc.poolLow
  | .storeQueues => t.eng.ssc.readQueue = s.eng.ssc.readQueue ∧ t.eng.ssc.progQueue = s.eng.ssc.progQueue
  | .link => t.eng.ssc.link = s.eng.ssc.link ∧ t.eng.ssc.opTimer = s.eng.ssc.opTimer
  | .flash => t.eng.ssc.flash = s.eng.ssc.flash
  | .holds => t.eng.holds = s.eng.holds
  | .counters => t.eng.counters = s.eng.counters
  | .dle => t.eng.dle = s.eng.dle
  | .lmp => t.eng.lmp = s.eng.lmp
  | .channel => t.eng.mgc.rx = s.eng.mgc.rx ∧ t.eng.mgc.inbox = s.eng.mgc.inbox ∧ t.eng.mgc.handling = s.eng.mgc.handling ∧
      t.eng.mgc.restart = s.eng.mgc.restart
  | .outbox => t.eng.mgc.outbox = s.eng.mgc.outbox ∧ t.eng.mgc.handed = s.eng.mgc.handed
  | .flags => t.eng.mgc.flags = s.eng.mgc.flags ∧ t.eng.mgc.lengthErrors = s.eng.mgc.lengthErrors ∧
      t.eng.mgc.checkErrors = s.eng.mgc.checkErrors ∧ t.eng.mgc.overruns = s.eng.mgc.overruns ∧ t.eng.mgc.gateOpen = s.eng.mgc.gateOpen ∧
      t.eng.mgc.errorNoted = s.eng.mgc.errorNoted
  | .signature => t.eng.tab.signature = s.eng.tab.signature
  | .segments => t.eng.tab.segments = s.eng.tab.segments
  | .bodies => t.eng.tab.bodies = s.eng.tab.bodies
  | .classes => t.eng.tab.classes = s.eng.tab.classes
  | .mailboxes => t.eng.tab.mailboxes = s.eng.tab.mailboxes
  | .records => t.eng.tab.records = s.eng.tab.records
  | .greetings => t.eng.tab.slots = s.eng.tab.slots
  | .lists => t.eng.tab.lists = s.eng.tab.lists
  | .members => t.eng.tab.members = s.eng.tab.members
  | .settings => t.eng.tab.settings = s.eng.tab.settings
  | .catalogue => t.eng.cat = s.eng.cat
  | .writes => t.eng.catQueue = s.eng.catQueue ∧ t.eng.asked = s.eng.asked

/-- From s to t nothing changes but the parts listed. -/
def State.keepsBut (changed : List Part) (s t : State) : Prop := t.pending = s.pending ∧ ∀ p, p ∉ changed → s.samePart t p

/-- From s to t the store link has been asked for reads behind those of a read queue (R75): where the link was free, it takes the first at once (R77). -/
def State.asks (s t : State) (waiting reads : List ReadReq) : Prop :=
  if s.eng.linkFree = true then
    match waiting ++ reads with
    | [] => t.eng.ssc.readQueue = [] ∧ t.eng.ssc.link = s.eng.ssc.link
    | r :: q => t.eng.ssc.readQueue = q ∧ t.eng.ssc.link = .reading r 1
  else t.eng.ssc.readQueue = waiting ++ reads ∧ t.eng.ssc.link = s.eng.ssc.link

/-- What a session fetches of a body's chain (R30): each idle buffer, the lower first, with the chain position it is to hold; of the current segment
and the next, those of the chain that no buffer covers. -/
def Session.fetches (chain : List Nat) (offset : Nat) (x : Session) : List (Nat × Nat) :=
  if x.state.playLive = true then
    ([0, 1].filter (fun b => decide ((x.buf b).role = .idle))).zip
      ([x.currentPos offset, x.currentPos offset + 1].filter (fun p => decide (p < chain.length) && !x.covers p))
  else []

/-- The session with the buffers it fetches into READING (R18, R30). -/
def Session.fetching (w : List (Nat × Nat)) (x : Session) : Session :=
  w.foldl (fun x bp => x.setBuf bp.1 { x.buf bp.1 with role := .reading, holds := bp.2 }) x

/-- In t a session stands as x with what it fetches there asked for, behind the reads of a read queue (R30, R75). -/
def State.fetchesAs (s t : State) (k : Nat) (x : Session) (waiting : List ReadReq) : Prop :=
  let chain := s.eng.chain x.bodyNo
  let w := x.fetches chain (s.eng.offsetOf x.bodyNo)
  t.eng.session k = x.fetching w ∧ s.asks t waiting (w.map (fun bp => { session := k, buf := bp.1, segment := chain.getD bp.2 0 }))

/-- A buffer of a playing that leaves its position (R39, R75): a read that waits is withdrawn, one in flight becomes stale, and what it holds is let go. -/
def Engine.bufferLeft (e : Engine) (k b : Nat) : Buffer :=
  let v := (e.session k).buf b
  let named : ReadReq → Bool := fun r => decide (r.session = k ∧ (r.buf = 0 ↔ b = 0))
  let v1 := if e.ssc.readQueue.any named = true then v.idled else v
  let v2 := match e.ssc.link with
    | .reading r _ => if named r = true then { v1 with role := .stale } else v1
    | _ => v1
  if v2.role = .playing ∨ v2.role = .prefetched then v2.idled else v2

/-- From s to t the lamp unit has changed by the lamp inputs of mailboxes, as they stand in t, and by nothing else (R127, R167). -/
def State.handsInputs (boxes : List Nat) (s t : State) : Prop := t.eng.lmp = (({ t.eng with lmp := s.eng.lmp } : Engine).handAll boxes).lmp

/-! ## The ends of sessions and of takes -/

/-- A SESSION_END raised in the step finds a place, behind an answer and one other notice of the step (R204). -/
def Engine.notesEnd (e : Engine) : Prop :=
  e.tab.settings.noticesOn = true ∧ e.tab.settings.kindsOn &&& NoticeKind.sessionEnd.bit ≠ 0 ∧ e.mgc.taken + 2 < Config.outboxPlaces ∧ e.halted = false

/-- A SESSION_END raised in the step finds no place (R204). -/
def Engine.mutesEnd (e : Engine) : Prop :=
  e.tab.settings.noticesOn = false ∨ e.tab.settings.kindsOn &&& NoticeKind.sessionEnd.bit = 0 ∨ Config.outboxPlaces ≤ e.mgc.taken ∨ e.halted = true

/-- From e to g a session has entered ENDED as z (R42): a closing one is FREE and unreported (R40); any other raises SESSION_END with its content, and is
FREE where the notice was placed and it releases on report. -/
def Engine.endsAs (e g : Engine) (k : Nat) (z : Session) : Prop :=
  let freed := Session.freeWith z.buf0.freed z.buf1.freed
  let bit := NoticeKind.sessionEnd.bit
  (z.closing = true → g.session k = freed ∧ g.mgc.flags &&& bit = e.mgc.flags &&& bit) ∧
    (z.closing = false → g.mgc.flags &&& bit = bit ∧ (e.notesEnd → noticePacket .sessionEnd (z.endBytes k) ∈ g.mgc.outbox) ∧
      (z.releaseOnReport = true → e.notesEnd → g.session k = freed) ∧ ((z.releaseOnReport = false ∨ e.mutesEnd) → g.session k = z))

/-- The bindings of a session are released (R9). -/
def Engine.unbinds (e g : Engine) (k : Nat) : Prop :=
  (∀ n, Tab.find? g.slotsIn n = if (e.session k).inSlot = some n then none else Tab.find? e.slotsIn n) ∧
    ∀ n, Tab.find? g.slotsOut n = if (e.session k).outSlot = some n then none else Tab.find? e.slotsOut n

/-- The program of a session in flight, where its take segment is named, is no longer wanted (R76). -/
def Engine.unwants (e g : Engine) (k : Nat) (out : Nat → Bool) : Prop :=
  ∀ r i w, (e.ssc.link = .allocating r i w → g.ssc.link = .allocating r i (w && !(decide (r.session = k) && out r.takeSegment))) ∧
    (e.ssc.link = .programming r i w → g.ssc.link = .programming r i (w && !(decide (r.session = k) && out r.takeSegment)))

/-- The programs that wait are those of a queue (R76): where the link is free, it takes the first at once (R77, R83). -/
def Engine.programs (e g : Engine) (q : List ProgReq) : Prop :=
  if e.linkFree = true then
    (q = [] → g.ssc.progQueue = []) ∧ ∀ r rs i is, q = r :: rs → e.ssc.freeList = i :: is →
      g.ssc.progQueue = rs ∧ g.ssc.link = .allocating r i true ∧ g.ssc.freeList = is
  else g.ssc.progQueue = q

/-- In z the buffers of a take stand as its end leaves them (R27, R63, R64): idle where their waiting request has been withdrawn, the filling one idle
where its take segment is named too and queued where it is not, and the others as they were. -/
def Engine.leavesBuffers (e : Engine) (k : Nat) (out : Nat → Bool) (z : Session) : Prop :=
  let x := e.session k
  ∀ b, b ≤ 1 →
    let v := x.buf b
    let waits := ∃ r ∈ e.ssc.progQueue, r.session = k ∧ out r.takeSegment = true ∧ (r.buf = 0 ↔ b = 0)
    let filling := x.bufWith .filling = some b
    ((waits ∧ ¬ filling) ∨ (filling ∧ out v.holds = true) → z.buf b = v.idled) ∧
      (¬ waits → filling → out v.holds = false → z.buf b = { v with role := .queued }) ∧ (¬ waits → v.role ≠ .filling → z.buf b = v)

/-- A body that nothing holds is released: its chain goes DIRTY to the erase queue's tail, first segment first, and its entry is free (R108). -/
def Engine.releases (e g : Engine) (b : Nat) : Prop :=
  let data := fun i => decide ((e.segment i).state = .data)
  g.body b = none ∧
    (∀ i, g.segment i = if i ∈ e.chain b ∧ data i = true then { e.segment i with state := .dirty, body := none, next := none } else e.segment i) ∧
    ((e.chain b).Nodup → g.ssc.eraseQueue = ((e.chain b).filter data).foldl (fun q i => Run.push i q) e.ssc.eraseQueue)

/-- The target of a session, a record or a greeting recording, holds a body. -/
def Engine.targets (e : Engine) (x : Session) (b : Nat) : Prop :=
  (∃ a y, x.target = .record a ∧ e.record a = some y ∧ y.body = b) ∨ ∃ h, x.target = .slot h ∧ (e.slot x.mailbox h).staged = some b

/-- From e to g the take of session k has been discarded and the session has ended by an outcome (R26, R27): its program requests are gone, its buffers
begun are 0 and refunded, its record is freed or its staging abandoned, and its body, no longer held, is released. -/
def Engine.dropsTake (e g : Engine) (k : Nat) (outcome : Cause) (trim : Option Trim) : Prop :=
  let x := e.session k
  let b := x.bodyNo
  (∃ z : Session, e.endsAs g k z ∧ e.leavesBuffers k (fun _ => true) z ∧
    z = { x with state := .ended, outcome := some outcome, endCause := none, inSlot := none, outSlot := none, target := .none, trim := trim,
                 discarded := true, meter := x.meter.map (fun m => { m with sum := 0 }), buf0 := z.buf0, buf1 := z.buf1 }) ∧
    e.unbinds g k ∧ e.unwants g k (fun _ => true) ∧ e.programs g (e.ssc.progQueue.filter (fun r => r.session ≠ k)) ∧ (g.hold b).begun = 0 ∧
    (∀ a, x.target = .record a → g.record a = none) ∧
    (∀ h, x.target = .slot h → g.slot x.mailbox h = { e.slot x.mailbox h with staged := none }) ∧
    (∀ w, e.body b = some w → w.sealed = false → e.targets x b →
      (w.share = 1 → (e.hold b).pins = 0 → (e.hold b).readers = 0 → e.ssc.service ≠ .frozen → e.releases g b) ∧
      (∀ a y, x.kind = some .recordMessage → x.target = .record a → e.record a = some y → y.mailbox = x.mailbox →
        (∀ n, g.counter n = if n = x.mailbox then
          { (e.counter n).leave y.state y.urgent with charged := (e.counter n).charged - (e.hold b).begun } else e.counter n) ∧
        g.lmp = (({ g with lmp := e.lmp } : Engine).handInputs x.mailbox).lmp))

/-- From e to g the take of session k, its onset found, has been cut to a trim (R62 to R65). The DATA segments outside the kept run leave the chain, by a
sequence of catalogue writes that ends with their handing to the SSC (R103); requests outside it are withdrawn or no longer wanted; a filling buffer goes
for program where it lies inside. Every begun segment outside the run is refunded. The session drains, or, its kept segments all DATA, seals its body and
ends at once (R29, R64). -/
def Engine.trimsTake (e g : Engine) (k : Nat) (tr : Trim) (cause : Cause) : Prop :=
  let x := e.session k
  let b := x.bodyNo
  let out := fun j => !tr.keeps j
  let chain := e.chain b
  let kept := (chain.drop tr.first).take (tr.last + 1 - tr.first)
  let tail := chain.drop (tr.last + 1)
  let removed := chain.take tr.first ++ tail
  let filled := match x.bufWith .filling with
    | some f => [({ session := k, buf := f, body := b, takeSegment := (x.buf f).holds } : ProgReq)]
    | none => []
  let gone := removed.length + e.waitingPrograms k (fun r => out r.takeSegment) +
    (if e.programInFlight k (fun r => out r.takeSegment) = true then 1 else 0) + (filled.filter (fun r => out r.takeSegment)).length
  let waiting := e.ssc.progQueue.filter (fun r => !(decide (r.session = k) && out r.takeSegment))
  let trimmed : Session := { x with trim := some tr, inSlot := none, outSlot := none, meter := x.meter.map (fun m => { m with sum := 0 }) }
  let refunded := fun n (c : Counters) =>
    if x.kind = some .recordMessage ∧ n = x.mailbox then { c with charged := c.charged - min (e.hold b).begun gone } else c
  ∀ w, e.body b = some w → w.count = chain.length →
    let cut : Body := if removed = [] then w else { w with first := kept.head?, last := kept.getLast?, count := kept.length }
    let ends := match kept.getLast? with
      | some l => if tail = [] then [] else [CatWrite.segment l { e.segment l with next := none }]
      | none => []
    e.unbinds g k ∧ e.unwants g k out ∧
      (removed ≠ [] → e.halted = false →
        ∃ q, g.catQueue = e.catQueue ++ { writes := ends ++ [.body b (some cut)], after := .cut removed } :: q) ∧
      (x.programmed ≤ tr.last →
        g.session k = { trimmed with state := .draining, endCause := some cause, buf0 := (g.session k).buf0, buf1 := (g.session k).buf1 } ∧
        e.leavesBuffers k out (g.session k) ∧ g.body b = some cut ∧
        ((∀ f ∈ filled, ∀ r ∈ e.ssc.progQueue, r.session = k → ¬ (r.buf = 0 ↔ f.buf = 0)) →
          e.programs g (waiting ++ filled.filter (fun r => tr.keeps r.takeSegment))) ∧
        (∀ a, g.hold a = if a = b then { e.hold a with begun := (e.hold a).begun - gone } else e.hold a) ∧
        (∀ n, g.counter n = refunded n (e.counter n)) ∧
        (x.kind = some .recordMessage → g.lmp = (({ g with lmp := e.lmp } : Engine).handInputs x.mailbox).lmp)) ∧
      (tr.last < x.programmed → (∀ f, x.bufWith .filling = some f → x.programmed ≤ (x.buf f).holds) →
        (∀ h, x.target = .slot h → (e.slot x.mailbox h).held ≠ some b) →
        (∃ z : Session, e.endsAs g k z ∧ e.leavesBuffers k out z ∧
          z = { trimmed with state := .ended, outcome := some cause, endCause := none, buf0 := z.buf0, buf1 := z.buf1 }) ∧
        e.programs g waiting ∧ g.body b = some { cut with sealed := true, offset := some tr.offset, samples := some tr.count } ∧
        (g.hold b).begun = 0 ∧
        (∀ a y, x.target = .record a → e.record a = some y →
          (∀ q, g.record q = if q = a then some { y with state := .new, cut := false } else e.record q) ∧
          ∀ n, g.counter n = if n = y.mailbox ∧ y.state ≠ .new then (refunded n (e.counter n)).pass y.state .new y.urgent else refunded n (e.counter n)) ∧
        (∀ h, x.target = .slot h → ∀ n j, g.slot n j = if n = x.mailbox ∧ j = h then
          { held := (e.slot x.mailbox h).staged, staged := none } else e.slot n j))

/-- From e to g the take of session k has ended by a cause (R26): without an onset it is discarded, and so it is, TOO_SHORT, where the kept part falls below
the class's least; otherwise it is trimmed. The end sample is that of the STOP rule, and under MAX_LENGTH the class's most after the start (R58 to R61). A
trim is said of a link that is busy or has a segment to take. -/
def Engine.endsTake (e g : Engine) (k : Nat) (cause : Cause) : Prop :=
  let x := e.session k
  ∀ m sn, x.meter = some m → x.snap = some sn →
    (m.onset = none → e.dropsTake g k (if cause = .stopped then .noSpeech else cause) x.trim) ∧
      ∀ o, m.onset = some o →
        let start := (o - sn.preRoll) * 64
        let stop := min ((min ((x.cursor + 63) / 64 - 1) ((m.lastSpeech.getD o) + sn.hangover) + 1) * 64) x.cursor
        let last := if cause = .maxLength then start + sn.maxSamples else stop
        ((last ≤ start ∨ last - start < sn.minSamples) → e.dropsTake g k .tooShort (some (trimOf start last))) ∧
          (start < last → sn.minSamples ≤ last - start → (e.linkFree = false ∨ e.ssc.freeList ≠ []) → e.trimsTake g k (trimOf start last) cause)

/-! ## A record freed -/

/-- From s to t record r, which holds x, has been freed (R133): it leaves its mailbox's list and the message table, the counters and the charge fall, the
lamp inputs are handed, no session keeps it as its target, and its body loses a share and, where nothing else holds it, is released with its DATA segments
DIRTY at the erase queue's tail, first segment first (R105, R108). -/
def State.freesRecord (s t : State) (r : Nat) (x : Record) : Prop :=
  (∀ q, t.eng.record q = if q = r then none else (s.eng.record q).map (fun y =>
    { y with prev := if x.next = some q then x.prev else y.prev, next := if x.prev = some q then x.next else y.next })) ∧
    (∀ n, t.eng.mailbox n = (s.eng.mailbox n).map (fun b => if n = x.mailbox then
      { b with head := if x.prev = none then x.next else b.head, tail := if x.next = none then x.prev else b.tail } else b)) ∧
    (∀ n, t.eng.counter n = if n = x.mailbox then
      { (s.eng.counter n).leave x.state x.urgent with charged := (s.eng.counter n).charged - s.eng.extent x.body } else s.eng.counter n) ∧
    s.handsInputs [x.mailbox] t ∧
    (Tab.risingFrom none s.eng.sessions = true → ∀ k, t.eng.session k =
      if (s.eng.session k).target = .record r then { s.eng.session k with target := .none } else s.eng.session k) ∧
    ∀ y, s.eng.body x.body = some y →
      let held := 1 < y.share ∨ 0 < (s.eng.hold x.body).pins ∨ 0 < (s.eng.hold x.body).readers
      let freed := (s.eng.chain x.body).filter (fun i => (s.eng.segment i).state = .data)
      (held → (∀ b, t.eng.body b = if b = x.body then some { y with share := y.share - 1 } else s.eng.body b) ∧
        s.samePart t .pool ∧ s.samePart t .segments ∧ s.samePart t .holds) ∧
      (¬ held → (s.eng.chain x.body).Nodup → (∀ b, t.eng.body b = if b = x.body then none else s.eng.body b) ∧
        t.eng.hold x.body = { begun := 0, pins := 0, readers := 0 } ∧
        (∀ i, t.eng.segment i = if i ∈ freed then { s.eng.segment i with state := .dirty, body := none, next := none } else s.eng.segment i) ∧
        t.eng.ssc.eraseQueue = freed.foldl (fun q i => Run.push i q) s.eng.ssc.eraseQueue ∧ t.eng.ssc.freeList = s.eng.ssc.freeList)

/-! ## The invariant of the inbox -/

/-- The inbox holds at most 8 orders, each with its code and tag (R197, R200), the receiver keeps no more of a packet than its length byte allows (R198),
and no order waits that the order processor could take (R202). -/
def Engine.takesOrders (e : Engine) : Prop :=
  e.mgc.inbox.length ≤ Config.inboxPlaces ∧ (∀ p ∈ e.mgc.inbox, 2 ≤ p.length) ∧
    (∀ n body, e.mgc.rx = some (n :: body) → 2 ≤ n.toNat ∧ n.toNat ≤ 48 ∧ body.length ≤ n.toNat) ∧ (e.mgc.inbox = [] ∨ e.canTake = false)

/-! ## The invariant of the highway and the clock -/

/-- The counts and numbers of the HWI lie in their ranges, and pulse valid is on exactly in LOCKED and FLYWHEEL (R2, R3, R4, R14). -/
def Hwi.sound (h : Hwi) : Prop :=
  h.slips ≤ 255 ∧ h.divider < Config.secondFrames ∧ (∀ n, h.frameNo = some n → n < 16) ∧
    (h.pulseValid = true ↔ h.sync = .locked ∨ h.sync = .flywheel) ∧
    (h.sync = .flywheel → 1 ≤ h.misses ∧ h.misses ≤ 2) ∧ (h.sync = .confirm → h.confirms ≤ 3) ∧
    (h.sync = .search → h.frameNo = none) ∧ h.htx.length = Config.timeslots

/-- The clock's fields are a date and time, its sub-second count and a running sweep's pointer lie in their ranges (R186, R188, R193). -/
def Cal.sound (c : Cal) : Prop :=
  dateLegal c.year c.month c.day c.hour c.minute c.second = true ∧ c.subCount < Config.secondPeriods ∧
    (c.sweep.running = true → c.sweep.pointer < Config.records)

/-- The invariant of the highway and the clock: both are sound, and the clock counts from the highway exactly while pulse valid is on (R188). -/
def State.clocked (s : State) : Prop :=
  s.hwi.sound ∧ s.cal.sound ∧ (s.cal.source = .highway ↔ s.hwi.pulseValid = true)

/-! ## The invariants of the pool and of the tables -/

/-- The store check has built the lists and the counts, and the part is not frozen: SERVICE, or a STARTING with a check or FORMAT under way (R69). -/
def Engine.walked (e : Engine) : Prop := e.ssc.service = .service ∨ e.ssc.start ≠ none

/-- The segments of an erase queue, head first. -/
def Run.segments (q : List Run) : List Nat := q.flatMap (fun r => (List.range r.count).map (fun i => r.start + i))

/-- The free list holds exactly the ERASED segments and the erase queue the DIRTY ones, each once (R69); a program's segment is ALLOCATED (R83), and the
segment being erased heads the erase queue (R72). -/
def Engine.pooled (e : Engine) : Prop :=
  Tab.risingFrom none e.cat.segments = true ∧
    (e.walked → Tab.risingFrom none e.tab.segments = true ∧
      e.ssc.freeList.Nodup ∧ (∀ i, i ∈ e.ssc.freeList ↔ (e.segment i).state = .erased) ∧
      (Run.segments e.ssc.eraseQueue).Nodup ∧ (∀ r ∈ e.ssc.eraseQueue, 0 < r.count) ∧
      (∀ i ∈ Run.segments e.ssc.eraseQueue, (e.segment i).state = .dirty) ∧
      (∀ i, i < e.segmentTotal → (e.segment i).state = .dirty → i ∈ Run.segments e.ssc.eraseQueue) ∧
      (∀ r i w, (e.ssc.link = .allocating r i w ∨ e.ssc.link = .programming r i w) → (e.segment i).state = .allocated) ∧
      (∀ i, e.ssc.link = .erasing i → Run.head? e.ssc.eraseQueue = some i))

/-- How many records of a mailbox a test names. -/
def Engine.tally (e : Engine) (m : Nat) (test : Record → Bool) : Nat :=
  (e.tab.records.filter (fun x => decide (x.2.mailbox = m) && test x.2)).length

/-- Every mailbox's counters are the numbers of its records in each state (R125). -/
def Engine.counted (e : Engine) : Prop :=
  Tab.risingFrom none e.cat.records = true ∧
    (e.walked → Tab.risingFrom none e.tab.records = true ∧ ∀ m,
      (e.counter m).new = e.tally m (fun x => decide (x.state = .new)) ∧
      (e.counter m).urgent = e.tally m (fun x => decide (x.state = .new) && x.urgent) ∧
      (e.counter m).heard = e.tally m (fun x => decide (x.state = .heard)) ∧
      (e.counter m).saved = e.tally m (fun x => decide (x.state = .saved)) ∧
      (e.counter m).recording = e.tally m (fun x => decide (x.state = .recording)) ∧
      (e.counter m).total = e.tally m (fun _ => true))

/-- A record names a mailbox. -/
def Engine.recordOf (e : Engine) (m r : Nat) : Prop := ∃ y, e.record r = some y ∧ y.mailbox = m

/-- A mailbox's list, by its two ends and by the previous and next of its records, is rs (R123). -/
def Engine.linkedAs (e : Engine) (b : Mailbox) (rs : List Nat) : Prop :=
  b.head = rs.head? ∧ b.tail = rs.getLast? ∧
    ∀ before r after, rs = before ++ r :: after → ∃ y, e.record r = some y ∧ y.prev = before.getLast? ∧ y.next = after.head?

/-- Every record names a loaded mailbox, and the records of a mailbox form its list, each once (R123). -/
def Engine.listed (e : Engine) : Prop :=
  e.walked → (∀ r y, e.record r = some y → e.mailbox y.mailbox ≠ none) ∧
    ∀ m b, e.mailbox m = some b → ∃ rs : List Nat, rs.Nodup ∧ (∀ r, r ∈ rs ↔ e.recordOf m r) ∧ e.linkedAs b rs

/-- The take segments of the wanted program requests of a session, the one in flight first (R76). -/
def Engine.wanted (e : Engine) (k : Nat) : List Nat :=
  let flight := match e.ssc.link with
    | .allocating r _ true => [r]
    | .programming r _ true => [r]
    | _ => []
  ((flight ++ e.ssc.progQueue).filter (fun r => decide (r.session = k))).map (·.takeSegment)

/-- A session with its wanted requests stands in take order (R23, R24, R28, R76): the requests rise, none behind what has been programmed; they, the
segments programmed and the one filling lie within the windows closed, in that order; and only a take, or a kept run that drains, waits for programs. -/
def Session.inTakeOrder (ws : List Nat) (x : Session) : Prop :=
  ws.Pairwise (· < ·) ∧ (∀ j ∈ ws, x.programmed ≤ j) ∧ (x.state = .free → x.inSlot = none ∧ x.outSlot = none) ∧
    (x.state.recordLive = true → x.meter ≠ none ∧ x.snap ≠ none ∧ x.windows ≤ x.cursor / 64 ∧ x.cursor / 64 ≤ x.windows + 1 ∧
      32 * x.programmed ≤ x.windows ∧ (∀ j ∈ ws, 32 * (j + 1) ≤ x.windows) ∧ ¬ (x.buf0.role = .filling ∧ x.buf1.role = .filling) ∧
      ∀ b, x.bufWith .filling = some b → 32 * (x.buf b).holds ≤ x.windows ∧ x.programmed ≤ (x.buf b).holds ∧ ∀ j ∈ ws, j < (x.buf b).holds) ∧
    (x.state.recordLive = false → x.bufWith .filling = none) ∧ (x.state.recordLive = false → x.state ≠ .draining → ws = []) ∧
    (x.state = .draining → ∀ t, x.trim = some t → ∀ j ∈ ws, t.keeps j = true)

/-- Outside FROZEN every session stands in take order, and the slot maps bind each timeslot to the session that holds it (R8). -/
def Engine.inTakeOrder (e : Engine) : Prop :=
  e.ssc.service ≠ .frozen →
    Tab.risingFrom none e.slotsIn = true ∧ Tab.risingFrom none e.slotsOut = true ∧ Tab.risingFrom none e.sessions = true ∧
      (∀ n k, Tab.find? e.slotsIn n = some k → (e.session k).inSlot = some n) ∧
      (∀ n k, Tab.find? e.slotsOut n = some k → (e.session k).outSlot = some n) ∧
      ∀ k, (e.session k).inTakeOrder (e.wanted k)

/-- Outside FROZEN every request names a buffer of its own, of the role that its request gives it (R18): queued where a program waits or runs, reading where
a read of a playing does, and stale where the read in flight is no longer wanted. -/
def Engine.namesBuffers (e : Engine) : Prop :=
  e.ssc.service ≠ .frozen →
    let flight : List ProgReq × List ReadReq := match e.ssc.link with
      | .allocating r _ _ => ([r], [])
      | .programming r _ _ => ([r], [])
      | .reading r _ => ([], [r])
      | _ => ([], [])
    let programs := flight.1 ++ e.ssc.progQueue
    let reads := flight.2 ++ e.ssc.readQueue
    (programs.map (fun r => (r.session, decide (r.buf = 0))) ++ reads.map (fun r => (r.session, decide (r.buf = 0)))).Nodup ∧
      (∀ r ∈ programs, ((e.session r.session).buf r.buf).role = .queued) ∧
      ∀ r ∈ reads, (((e.session r.session).buf r.buf).role = .reading ∧ (e.session r.session).state.playLive = true) ∨
        (((e.session r.session).buf r.buf).role = .stale ∧ r ∈ flight.2)

/-- The entries of a distribution list, by its two ends, its count and each next, are es (R153). -/
def Engine.memberChain (e : Engine) (l : Nat) (es : List Nat) : Prop :=
  es.length = (e.list l).count ∧ (e.list l).first = es.head? ∧ (e.list l).last = es.getLast? ∧
    ∀ before i after, es = before ++ i :: after → ∃ v, Tab.find? e.tab.members i = some v ∧ (after ≠ [] → v.next = after.head?)

/-- The member area is shared out among the lists: each entry that is not free stands in one list, once; a list holds at most 512 mailboxes, each once
(R153). -/
def Engine.membered (e : Engine) : Prop :=
  e.walked → Tab.risingFrom none e.tab.members = true ∧
    ∃ es : Nat → List Nat, (∀ l, e.memberChain l (es l) ∧ (es l).Nodup ∧ (es l).length ≤ Config.listMembers ∧ (e.listMembers l).Nodup) ∧
      (∀ l k i, i ∈ es l → i ∈ es k → l = k) ∧ ∀ i, Tab.find? e.tab.members i ≠ none → ∃ l, i ∈ es l

/-- A catalogue memory in which no two lists' walks meet (R157). -/
def Catalogue.listsApart (c : Catalogue) : Prop :=
  Tab.risingFrom none c.members = true ∧
    ∀ l k i, i ∈ ((Engine.reset c []).walkList l).map (·.1) → i ∈ ((Engine.reset c []).walkList k).map (·.1) → l = k

/-- The message records, greeting slots and greeting recordings that name a body (R105). -/
def Engine.sharers (e : Engine) (b : Nat) : Nat :=
  (e.tab.records.filter (fun x => decide (x.2.body = b))).length + (e.tab.slots.filter (fun x => decide (x.2.held = some b))).length +
    (e.tab.slots.filter (fun x => decide (x.2.staged = some b))).length

/-- Every share count is the number of holders, every holder names a body in use, and every job's body is in use with a pin for each job (R105, R106). -/
def Engine.shared (e : Engine) : Prop :=
  e.walked → Tab.risingFrom none e.tab.records = true ∧ Tab.risingFrom none e.tab.slots = true ∧ Tab.risingFrom none e.tab.bodies = true ∧
    (∀ b x, e.body b = some x → x.share = e.sharers b) ∧
    (∀ b, 0 < e.sharers b → e.body b ≠ none) ∧
    (∀ j ∈ e.dle.queue, e.body j.body ≠ none ∧ (e.dle.queue.filter (fun i => decide (i.body = j.body))).length ≤ (e.hold j.body).pins)

/-- A catalogue memory whose records name loaded mailboxes, and whose records and held greetings name bodies in use: what the check needs to find to
set lists and shares right (R112, R139). -/
def Catalogue.closed (c : Catalogue) : Prop :=
  Tab.risingFrom none c.records = true ∧ Tab.risingFrom none c.slots = true ∧ Tab.risingFrom none c.bodies = true ∧
    Tab.risingFrom none c.mailboxes = true ∧
    (∀ r y, Tab.find? c.records r = some y → Tab.find? c.mailboxes y.mailbox ≠ none ∧ Tab.find? c.bodies y.body ≠ none) ∧
    (∀ k x b, Tab.find? c.slots k = some x → x.held = some b → Tab.find? c.bodies b ≠ none)

/-- The commands that reset the part and run the store check (R88, R208). -/
def resets : Instr → Bool
  | .powerOn _ _ => true
  | .restartReset _ => true
  | _ => false

/-- Unless the next command resets the part over a catalogue that is not closed. -/
def State.safeNext (s : State) : Prop := ∀ c ∈ s.pending.head?, resets c = true → s.eng.cat.closed

end Sys2Proof.Machine
end

