-- ==== Sys2Proof/WellFormed.lean ====
section
/-! DEFINITION. Which terms of Instr are commands the outside world can send. -/

namespace Sys2Proof

/-- The order codes of 11.8. -/
def orderCodes : List Byte :=
  [0x10, 0x11, 0x12, 0x13, 0x14, 0x15, 0x16, 0x17, 0x18, 0x20, 0x21, 0x22, 0x23, 0x28, 0x29, 0x2A, 0x2B, 0x30, 0x31,
    0x38, 0x39, 0x3A, 0x3B, 0x3C, 0x40, 0x41, 0x48, 0x49, 0x4A, 0x50, 0x51, 0x52, 0x53, 0x54, 0x55]

/-- The parameters fit a packet, whose body holds a code, a tag and at most 46 bytes more (R197). -/
def paramsFit (params : List Byte) : Bool := params.length ≤ 46

/-- The well-formed commands: a probe stops at the first select without a device, so nothing constrains the selects; a pulse has a
width; a frame has 128 timeslots; a session and an address lie in their ranges; an order fits a packet. -/
def Instr.wellFormed : Instr → Bool
  | .powerOn _ _ => true
  | .freeze => true
  | .syncPulse width _ => 1 ≤ width
  | .frame hrx => hrx.length = Config.timeslots
  | .hclkLoss => true
  | .secondsPulse => true
  | .localSecond => true
  | .windowEnd k => k < Config.sessions
  | .lossTimerExpiry k => k < Config.sessions
  | .retryDue a => a < Config.lampAddresses
  | .readComplete _ => true
  | .programComplete _ => true
  | .eraseComplete _ => true
  | .storeOpTimeout => true
  | .catalogueWriteComplete => true
  | .enterService => true
  | .restartReset _ => true
  | .deliveryRecipient => true
  | .sweepExamination => true
  | .openRecord _ ps => paramsFit ps
  | .openPlay _ ps => paramsFit ps
  | .stop _ ps => paramsFit ps
  | .cancel _ ps => paramsFit ps
  | .pause _ ps => paramsFit ps
  | .resume _ ps => paramsFit ps
  | .seek _ ps => paramsFit ps
  | .close _ ps => paramsFit ps
  | .sessionStatus _ ps => paramsFit ps
  | .list _ ps => paramsFit ps
  | .mark _ ps => paramsFit ps
  | .delete _ ps => paramsFit ps
  | .purge _ ps => paramsFit ps
  | .loadClass _ ps => paramsFit ps
  | .readClass _ ps => paramsFit ps
  | .loadMailbox _ ps => paramsFit ps
  | .readMailbox _ ps => paramsFit ps
  | .selectGreeting _ ps => paramsFit ps
  | .eraseGreeting _ ps => paramsFit ps
  | .listClear _ ps => paramsFit ps
  | .listAdd _ ps => paramsFit ps
  | .readList _ ps => paramsFit ps
  | .deliver _ ps => paramsFit ps
  | .cancelDelivery _ ps => paramsFit ps
  | .clearFault _ ps => paramsFit ps
  | .lampStatus _ ps => paramsFit ps
  | .setClock _ ps => paramsFit ps
  | .readClock _ ps => paramsFit ps
  | .sweep _ ps => paramsFit ps
  | .status _ ps => paramsFit ps
  | .setOptions _ ps => paramsFit ps
  | .readOptions _ ps => paramsFit ps
  | .clearFlags _ ps => paramsFit ps
  | .format _ ps => paramsFit ps
  | .restart _ ps => paramsFit ps
  | .unknownOrder code _ ps => !orderCodes.contains code && paramsFit ps

end Sys2Proof
end

