-- ==== Sys2Proof/Certificates/Slice0/Obligations.lean ====
section
/-! DEFINITION. The statements for the provers. -/

open Sys2Proof Sys2Proof.Machine

/-! ## The machine -/

/-- The command at the front of the queue runs over the queue's rest. -/
def Obligations.StepRunsTheFrontCommand : Prop :=
  ∀ (c : Instr) (rest : List Instr) (s : State), step { s with pending := c :: rest } = exec c { s with pending := rest }

/-- Every command completes from every state, and leaves the waiting commands as they were. -/
def Obligations.EveryCommandAnswersNext : Prop :=
  ∀ (c : Instr) (s : State), ∃ t, exec c s = .next t ∧ t.pending = s.pending

/-- With no command waiting, a step is one LOSC period (the model's choice, log 2): the local sub-second count and the loss timers of the sessions
that run one rise by 1, to their bounds (R43, R188), and the highway, the catalogue and the channel stand. -/
def Obligations.IdleStepIsOneLoscPeriod : Prop :=
  ∀ s : State, s.pending = [] → ∃ t, step s = .next t ∧ t.hwi = s.hwi ∧
    t.cal = (if s.cal.source = .losc then { s.cal with subCount := min 7999999 (s.cal.subCount + 1) } else s.cal) ∧
    (∀ k, (t.eng.session k).lossTimer =
      (if (s.eng.session k).state.recordLive ∨ (s.eng.session k).state.playLive then min 16000000 ((s.eng.session k).lossTimer + 1)
      else (s.eng.session k).lossTimer)) ∧
    s.keepsBut [.cal, .sessions, .link] t

/-! ## The highway -/

/-- A sync taken drives the sync state machine (R2, R3). In LOCKED and FLYWHEEL the seconds divider advances by 1, and at 8,000 returns to 0 with a seconds
pulse due; in SEARCH and CONFIRM it stands, and the entry to LOCKED restarts it (R14). The frame number and the slip counter are SlipsAreCounted's. The clock
stands, but that at the entry to LOCKED it goes over to the highway, its local count dropped (R189); of the rest, only the lamp unit's cells and the HIGHWAY
event change (R4, R6). A pulse three or more periods wide, or away from the expected position where one is held, changes nothing (R1; that the command says
whether it falls there is the model's, log 27). A sync with a seconds pulse still to be taken is left out. -/
def Obligations.SyncPulseDrivesTheStateMachine : Prop :=
  ∀ (s : State) (width : Nat) (expected : Bool), s.calm →
    ((3 ≤ width ∨ (expected = false ∧ s.hwi.sync ≠ .search)) → exec (.syncPulse width expected) s = .next s) ∧
    (s.hwi.pulseDue = false → (width = 1 ∨ width = 2) → (s.hwi.sync = .search ∨ expected = true) →
      ∃ t, exec (.syncPulse width expected) s = .next t ∧
      let begun := { s.hwi with frameBegun := true, frameNo := t.hwi.frameNo, slips := t.hwi.slips }
      (s.hwi.sync = .search → t.hwi = { begun with sync := .confirm, confirms := 0 } ∧ t.cal = s.cal) ∧
      (s.hwi.sync = .confirm → s.hwi.confirms ≠ 3 → t.hwi = { begun with confirms := s.hwi.confirms + 1 } ∧ t.cal = s.cal) ∧
      (s.hwi.sync = .confirm → s.hwi.confirms = 3 →
        t.hwi = { begun with sync := .locked, misses := 0, confirms := 0, pulseValid := true, divider := 0 } ∧
        t.cal = { s.cal with source := .highway, subCount := 0 } ∧ t.flagged .highway) ∧
      (s.hwi.sync = .locked ∨ s.hwi.sync = .flywheel →
        t.hwi = { begun with
          sync := .locked, misses := if s.hwi.sync = .flywheel then 0 else s.hwi.misses,
          divider := if s.hwi.divider + 1 = 8000 then 0 else s.hwi.divider + 1, pulseDue := decide (s.hwi.divider + 1 = 8000) } ∧ t.cal = s.cal) ∧
      s.keepsBut [.hwi, .cal, .lmp, .outbox, .flags] t)

/-- The number that a sync gives its frame, the slip counter, and the restart indication to the lamp unit (R4), which stands in FROZEN (R185). Aligned, a
sync in LOCKED, or the one that returns FLYWHEEL to LOCKED, is checked against the number expected, and a slip gives the indication. Unaligned, a double sync
makes its frame number 0 without a slip and gives the indication, and a single one leaves it unaligned. In SEARCH and CONFIRM a double sync numbers its frame
0 and counts no slip. SEARCH is unaligned: entering it, by loss of HCLK or by a missing sync (a FRAME with no sync before it, log 27), gives the indication
where the alignment is lost. A seconds pulse still to be taken is left out. -/
def Obligations.SlipsAreCounted : Prop :=
  ∀ (s : State) (width : Nat), s.calm → s.hwi.pulseDue = false → (width = 1 ∨ width = 2) →
    let restarted := if s.eng.ssc.service = .frozen then s.eng.lmp else s.eng.lmp.restart
    let numbered := fun (t : State) (n : Option Nat) (slip : Bool) => t.hwi.frameNo = n ∧
      t.hwi.slips = if slip = true then min 255 (s.hwi.slips + 1) else s.hwi.slips
    (s.hwi.sync = .locked ∨ s.hwi.sync = .flywheel → ∃ t, exec (.syncPulse width true) s = .next t ∧
      (∀ n, s.hwi.frameNo = some n →
        (width = 1 → (n + 1) % 16 ≠ 0 → numbered t (some ((n + 1) % 16)) false ∧ t.eng.lmp = s.eng.lmp) ∧
        (width = 2 → (n + 1) % 16 = 0 → numbered t (some 0) false ∧ t.eng.lmp = s.eng.lmp) ∧
        (width = 2 → (n + 1) % 16 ≠ 0 → numbered t (some 0) true ∧ t.eng.lmp = restarted) ∧
        (width = 1 → (n + 1) % 16 = 0 → numbered t (some 0) true ∧ t.eng.lmp = restarted)) ∧
      (s.hwi.frameNo = none →
        (width = 1 → numbered t none false ∧ t.eng.lmp = s.eng.lmp) ∧ (width = 2 → numbered t (some 0) false ∧ t.eng.lmp = restarted)) ∧
      s.keepsBut [.hwi, .lmp] t) ∧
    (s.hwi.sync = .search ∨ s.hwi.sync = .confirm → ∃ t, exec (.syncPulse width true) s = .next t ∧
      (width = 1 → numbered t (s.hwi.frameNo.map (fun n => (n + 1) % 16)) false ∧ t.eng.lmp = s.eng.lmp) ∧
      (width = 2 → numbered t (some 0) false ∧ t.eng.lmp = if s.hwi.frameNo = none then restarted else s.eng.lmp) ∧
      s.keepsBut [.hwi, .cal, .lmp, .outbox, .flags] t) ∧
    (∀ (c : Instr) (hrx : List Byte),
      (c = .hclkLoss ∧ s.hwi.sync ≠ .search) ∨ (c = .frame hrx ∧ s.hwi.frameBegun = false ∧ (∀ kx ∈ s.eng.sessions, kx.2.windowDue = false) ∧
        (s.hwi.sync = .confirm ∨ (s.hwi.sync = .flywheel ∧ s.hwi.misses = 2))) →
      ∃ t, exec c s = .next t ∧ numbered t none false ∧ (t.eng.lmp = if s.hwi.frameNo = none then s.eng.lmp else restarted) ∧
        s.keepsBut [.hwi, .cal, .lmp, .channel, .outbox, .flags] t)

/-- A frame boundary with no sync (R2, R3; a FRAME with no sync before it, log 27): FLYWHEEL counts misses, and the third in a row, or the first in CONFIRM,
enters SEARCH. Every miss in LOCKED and FLYWHEEL, the third among them, is a boundary at which the seconds divider advances, a pulse falling due at 8,000;
from the third on it holds its count, and the clock goes on from it over LOSC (R14, R189); a frame begun at a miss takes the next number (R4). (What an order
that the frame brings does to the divider and the clock is left out; no order waits that could be taken, as OrdersWaitOrOverrun keeps it.) -/
def Obligations.MissingSyncsCostTheFramePosition : Prop :=
  ∀ (s : State) (hrx : List Byte), s.hwi.frameBegun = false → (s.eng.mgc.inbox = [] ∨ s.eng.canTake = false) →
    ∃ t, exec (.frame hrx) s = .next t ∧
      let advanced := t.hwi.divider = (if s.hwi.divider + 1 = 8000 then 0 else s.hwi.divider + 1) ∧ t.hwi.pulseDue = decide (s.hwi.divider + 1 = 8000)
      (s.hwi.sync = .locked → t.hwi.sync = .flywheel ∧ t.hwi.misses = 1) ∧
      (s.hwi.sync = .flywheel → s.hwi.misses ≠ 2 → t.hwi.sync = .flywheel ∧ t.hwi.misses = s.hwi.misses + 1) ∧
      (s.eng.mgc.inbox = [] → s.eng.mgc.rx = none → hrx.getD 0 0xFF ≠ 0xC3 → hrx.getD 1 0xFF ≠ 0xC3 →
        s.hwi.sync = .locked ∨ (s.hwi.sync = .flywheel ∧ s.hwi.misses ≠ 2) →
        advanced ∧ t.hwi.frameNo = s.hwi.frameNo.map (fun n => (n + 1) % 16) ∧ (s.hwi.pulseDue = false → t.cal = s.cal)) ∧
      (s.hwi.sync = .flywheel → s.hwi.misses = 2 →
        t.hwi.sync = .search ∧ t.hwi.frameNo = none ∧ t.hwi.pulseValid = false ∧ t.hwi.htx = idleFill ∧ advanced ∧
        (s.hwi.pulseDue = false → s.hwi.pulseValid = true → t.cal = { s.cal with source := .losc, subCount := 1000 * t.hwi.divider })) ∧
      (s.hwi.sync = .confirm → t.hwi.sync = .search ∧ t.hwi.frameNo = none ∧ t.hwi.pulseValid = false ∧ t.hwi.htx = idleFill ∧
        t.hwi.divider = s.hwi.divider) ∧
      (s.hwi.sync = .search → t.hwi.sync = .search ∧ t.hwi.htx = idleFill ∧ t.hwi.divider = s.hwi.divider)

/-- A frame of SEARCH or CONFIRM, or of a frozen part, carries idle fill and reaches no block (R5, R15). -/
def Obligations.FramesWithoutTrafficCarryIdleFill : Prop :=
  ∀ (s : State) (hrx : List Byte), s.calm → s.hwi.pulseDue = false → (∀ kx ∈ s.eng.sessions, kx.2.windowDue = false) →
    ((s.hwi.sync = .search ∧ s.hwi.frameBegun = false) ∨
      (s.hwi.frameBegun = true ∧ (s.hwi.sync = .confirm ∨ s.eng.ssc.service = .frozen))) →
    exec (.frame hrx) s = .next { s with hwi := { s.hwi with frameBegun := false, htx := List.replicate 3 0xFF ++ List.replicate 125 0x00 } }

/-- HCLK is lost (R3, R5): SEARCH is entered at once from the other states, pulse valid going off and the clock going over to LOSC in the middle of its
second (R14, R189), and HTX carries $FF; in SEARCH there is no further effect. A loss with a seconds pulse still to be taken is left out. -/
def Obligations.ClockLossEntersSearch : Prop :=
  ∀ s : State, s.calm → s.hwi.pulseDue = false →
    (s.hwi.sync = .search → exec .hclkLoss s = .next { s with hwi := { s.hwi with htx := List.replicate 128 0xFF } }) ∧
    (s.hwi.sync ≠ .search → ∃ t, exec .hclkLoss s = .next t ∧ t.hwi.sync = .search ∧ t.hwi.frameNo = none ∧ t.hwi.pulseValid = false ∧
      t.hwi.divider = s.hwi.divider ∧ t.hwi.htx = List.replicate 128 0xFF ∧ t.flagged .highway ∧
      (s.hwi.pulseValid = true → t.cal = { s.cal with source := .losc, subCount := 1000 * s.hwi.divider }) ∧
      (s.eng.ssc.service ≠ .frozen → t.eng.mgc.rx = none) ∧ s.keepsBut [.hwi, .cal, .lmp, .channel, .outbox, .flags] t)

/-- A record session in CUE, WAIT_ONSET or TAKING receives the sample of its inbound timeslot (R10, R23): into its filling buffer at cursor mod
2,048, to its meter, with its cursor raised and its loss timer restarted. Where it holds an outbound timeslot too, that timeslot carries, in CUE, the cue tone
at the count of the samples received before this frame, 0 in its first (R13, CueToneFollowsItsTable; that the value is taken before the sample is the
model's reading of R13's first n = 0, log 8), and 0 in WAIT_ONSET and TAKING (R10). Nothing else changes, of the session or of the part, and the other
timeslots of HTX carry what idle ones carry. (That a buffer holds the value a code expands to is the model's, log 26.) -/
def Obligations.RecordSessionsReceiveSamples : Prop :=
  ∀ (s : State) (hrx : List Byte) (ts k : Nat) (out : Option Nat), s.quietFrame hrx → s.eng.mgc.outbox = [] → s.eng.slotsIn = [(ts, k)] →
    s.eng.slotsOut = (out.map (fun n => (n, k))).toList → (s.eng.session k).state.recordLive = true →
    let x := s.eng.session k
    let v := expand (hrx.getD ts 0)
    let given : Int := if x.state = .cue then cueTone s.eng.tab.settings.cueLevel x.cursor else 0
    let moved : Session := { x with meter := x.meter.map (fun m => { m with sum := m.sum + v.natAbs }), cursor := x.cursor + 1, lossTimer := 0 }
    ∃ t, exec (.frame hrx) s = .next t ∧
      (x.bufWith .filling = none → t.eng.session k = moved) ∧
      (∀ b, x.bufWith .filling = some b → ∃ samples, t.eng.session k = moved.setBuf b { x.buf b with samples := samples } ∧
        Tab.get 0 samples (x.cursor % 2048) = v ∧ ∀ i, i ≠ x.cursor % 2048 → Tab.get 0 samples i = Tab.get 0 (x.buf b).samples i) ∧
      (∀ j, j ≠ k → t.eng.session j = s.eng.session j) ∧
      t.hwi = { s.hwi with
        frameBegun := false,
        htx := List.replicate 3 0xFF ++ (List.range 125).map (fun i => if out = some (i + 3) then encode given else 0x00) } ∧
      s.keepsBut [.hwi, .sessions] t

/-- Each outbound timeslot carries the encoding of its session's value, and a free one $00 (R10): the sample at the cursor in PLAYING (R32), the cue
tone in CUE (R13; of a record session, which holds an inbound timeslot too, RecordSessionsReceiveSamples speaks), and 0 otherwise; a value taken restarts the
loss timer (R43). A session in PLAYING moves its cursor on by one, any other holds it.
At the end of a segment a playing goes on in its prefetched buffer, or is STALLED with one more underrun, and fetches (R30, R32, R33; buffer 0 first, log
15); at the end of its body it ends FINISHED and reports, and its target record has been played to its end (R34, R132). -/
def Obligations.SessionsGiveTheirValues : Prop :=
  ∀ (s : State) (hrx : List Byte) (ts k : Nat), s.quietFrame hrx → s.eng.mgc.outbox = [] → s.eng.slotsIn = [] → s.eng.slotsOut = [(ts, k)] →
    let x := s.eng.session k
    let next := x.cursor + 1
    let atEnd := x.state = .playing ∧ next = s.eng.sampleCount x.bodyNo
    let crossing := x.state = .playing ∧ next ≠ s.eng.sampleCount x.bodyNo ∧ (next + s.eng.offsetOf x.bodyNo) % 2048 = 0
    ∃ (t : State) (v : Int), exec (.frame hrx) s = .next t ∧
      (∀ b, x.state = .playing → x.bufWith .playing = some b →
        v = Tab.get 0 (x.buf b).samples ((x.cursor + s.eng.offsetOf x.bodyNo) % 2048)) ∧
      (x.state = .cue → v = cueTone s.eng.tab.settings.cueLevel x.cursor) ∧
      (x.state ≠ .cue → x.state ≠ .playing → v = 0) ∧
      t.hwi.htx = List.replicate 3 0xFF ++ (List.range 125).map (fun i => if i + 3 = ts then encode v else 0x00) ∧
      t.hwi = { s.hwi with frameBegun := false, htx := t.hwi.htx } ∧
      (∀ j, j ≠ k → t.eng.session j = s.eng.session j) ∧
      (¬ atEnd → ¬ crossing → t.eng.session k = { x with lossTimer := 0, cursor := if x.state = .playing then next else x.cursor } ∧
        s.keepsBut [.hwi, .sessions] t) ∧
      (crossing → ∀ b, x.bufWith .playing = some b →
        let left := ({ x with lossTimer := 0, cursor := next } : Session).setBuf b (x.buf b).idled
        (∀ o, left.bufWith .prefetched = some o → s.fetchesAs t k (left.setBuf o { x.buf o with role := .playing }) s.eng.ssc.readQueue) ∧
        (left.bufWith .prefetched = none →
          s.fetchesAs t k { left with state := .stalled, underruns := min 65535 (x.underruns + 1) } s.eng.ssc.readQueue) ∧
        s.keepsBut [.hwi, .sessions, .storeQueues, .link] t) ∧
      (atEnd → x.closing = false →
        (x.releaseOnReport = true → s.eng.placesNotice .sessionEnd = true → (t.eng.session k).state = .free) ∧
        ((x.releaseOnReport = false ∨ s.eng.placesNotice .sessionEnd = false) →
          (t.eng.session k).state = .ended ∧ (t.eng.session k).outcome = some .finished ∧ (t.eng.session k).cursor = next) ∧
        (t.eng.session k).outSlot = none ∧ (x.outSlot = some ts → t.eng.slotsOut = []) ∧ t.flagged .sessionEnd ∧
        (∀ r y, x.target = .record r → s.eng.record r = some y → ∀ q, t.eng.record q = if q = r then
          some { y with resume := none, state := if y.state = .new then .heard else y.state,
                        heardDay := if y.state = .new then (if s.cal.valid then some s.cal.dayNumber else none) else y.heardDay } else s.eng.record q) ∧
        s.keepsBut [.hwi, .slots, .sessions, .pool, .storeQueues, .link, .holds, .counters, .lmp, .outbox, .flags, .segments, .bodies, .records,
          .writes] t)

/-- The outbox gives its head packet's next bytes to timeslots 0 and 1 (R7, R203), and the packet leaves with its last byte. Where that byte leaves on
timeslot 0, timeslot 1 carries the first byte of the next packet, or $FF where none waits; with no packet both carry $FF. Nothing else changes. (A packet of
R197 holds five bytes or more, so the next one never leaves within the same frame.) -/
def Obligations.PacketsLeaveByteByByte : Prop :=
  ∀ (s : State) (hrx : List Byte), s.quietFrame hrx → s.eng.slotsIn = [] → s.eng.slotsOut = [] → s.eng.mgc.restart = .none →
    let n := s.eng.mgc.handed
    let gives := fun (b0 b1 : Byte) (outbox : List (List Byte)) (handed : Nat) => exec (.frame hrx) s = .next
      { s with hwi := { s.hwi with frameBegun := false, htx := b0 :: b1 :: 0xFF :: List.replicate 125 0x00 },
               eng := s.eng.modMgc (fun g => { g with outbox := outbox, handed := handed }) }
    (s.eng.mgc.outbox = [] → gives 0xFF 0xFF [] n) ∧
    ∀ p q, s.eng.mgc.outbox = p :: q →
      (n + 2 < p.length → gives (p.getD n 0xFF) (p.getD (n + 1) 0xFF) (p :: q) (n + 2)) ∧
      (n + 2 = p.length → gives (p.getD n 0xFF) (p.getD (n + 1) 0xFF) q 0) ∧
      (n + 1 = p.length → q = [] → gives (p.getD n 0xFF) 0xFF [] 0) ∧
      (n + 1 = p.length → ∀ r rest, q = r :: rest → 2 ≤ r.length → gives (p.getD n 0xFF) (r.getD 0 0xFF) q 1)

/-! ## Samples and the meter -/

/-- A code expands to (16 + q) × 2^s − 16, negated when the sign is 1; magnitudes lie in 0 to 3,952, and $00 and $80 are 0 (R11). -/
def Obligations.CodesExpandByTheLaw : Prop :=
  (∀ sign s q : Nat, sign < 2 → s < 8 → q < 16 →
    expand (BitVec.ofNat 8 (128 * sign + 16 * s + q)) = (if sign = 1 then -1 else 1) * (((16 + q : Nat) : Int) * 2 ^ s - 16)) ∧
  (∀ c, (expand c).natAbs ≤ 3952) ∧ expand 0x00 = 0 ∧ expand 0x80 = 0 ∧ expand 0x05 = 5 ∧ expand 0x2D = 100 ∧ expand 0x56 = 688 ∧
  expand 0xC0 = -240 ∧ expand 0x7F = 3952 ∧ expand 0xFF = -3952

/-- A value is encoded with its sign, its magnitude saturated at 3,952, by the largest segment and the step of R12, which is truncation toward zero;
0 encodes to $00; and an expanded code encodes back to itself, but for $80, which encodes to $00. -/
def Obligations.ValuesEncodeTowardZero : Prop :=
  (∀ v : Int, ∃ s : Nat, s ≤ 7 ∧ 16 * 2 ^ s - 16 ≤ min 3952 v.natAbs ∧ (∀ r : Nat, r ≤ 7 → 16 * 2 ^ r - 16 ≤ min 3952 v.natAbs → r ≤ s) ∧
    encode v = BitVec.ofNat 8 (128 * (if v < 0 then 1 else 0) + 16 * s + min 15 ((min 3952 v.natAbs + 16) / 2 ^ s - 16))) ∧
  (∀ v : Int, (expand (encode v)).natAbs ≤ min 3952 v.natAbs ∧
    ∀ c, (expand c).natAbs ≤ min 3952 v.natAbs → (expand c).natAbs ≤ (expand (encode v)).natAbs) ∧
  encode 0 = 0x00 ∧ (∀ c, c ≠ 0x80 → encode (expand c) = c) ∧ encode (expand 0x80) = 0x00

/-- The cue tone is entry n mod 8 of 0, a, b, a, 0, −a, −b, −a, with the codes of R13's table at the four cue levels. -/
def Obligations.CueToneFollowsItsTable : Prop :=
  ∀ level n : Nat, level ≤ 3 → ∃ a b : Int,
    cueTone level n = [0, a, b, a, 0, -a, -b, -a].getD (n % 8) 0 ∧
    [encode a, encode b, encode (-a), encode (-b)] =
      ([[0x66, 0x70, 0xE6, 0xF0], [0x56, 0x60, 0xD6, 0xE0], [0x46, 0x50, 0xC6, 0xD0], [0x37, 0x40, 0xB7, 0xC0]] : List (List Byte)).getD level []

/-- The smoothed level is updated as L − floor(L / 8) + 2 × M (R49): it stays within 0 to 63,232, and with M held it climbs to 16 × M exactly and
comes to rest up to 7 above it. A window closes with every item of the meter in its range (section 3.1): the mean, the level of R49, the floor of R50 and
R51, never above the level, and thresholds in order, the voice state SILENT in the mask (R48 to R53). -/
def Obligations.LevelsFollowAndWindowsCloseInRange : Prop :=
  (∀ l mean : Nat, l ≤ 63232 → mean ≤ 3952 →
    nextLevel l mean = l - l / 8 + 2 * mean ∧ nextLevel l mean ≤ 63232 ∧
    (∀ d, l + d = 16 * mean → nextLevel l mean + (d - (d + 7) / 8) = 16 * mean) ∧
    (∀ d, l = 16 * mean + d → nextLevel l mean = 16 * mean + (d - d / 8))) ∧
  (∀ (sn : Snapshot) (k : Nat) (m : Meter), m.sum ≤ 64 * 3952 → m.level ≤ 63232 → m.floor ≤ 63232 →
    let n := m.close sn k
    n.sum = 0 ∧ n.mean = m.sum / 64 ∧ n.mean ≤ 3952 ∧ n.level = m.level - m.level / 8 + 2 * n.mean ∧ n.level ≤ 63232 ∧ n.floor ≤ n.level ∧
    (k < sn.mask → n.floor = n.level ∧ n.voice = .silent) ∧
    (sn.mask ≤ k → (n.level < m.floor → n.floor = n.level) ∧ (m.floor ≤ n.level → n.floor = m.floor + (n.level - m.floor + 255) / 256)) ∧
    (∃ on off : Nat, n.eOn = some on ∧ n.eOff = some off ∧ off ≤ on ∧ on ≤ 63232 ∧
      on = min 63232 (max (16 * sn.tOn) (n.floor + 16 * sn.margin)) ∧ off = min on (max (16 * sn.tOff) (n.floor + 8 * sn.margin)) ∧
      (sn.mask ≤ k → (n.voice = .speech ↔ (m.voice = .silent ∧ on ≤ n.level) ∨ (m.voice = .speech ∧ off ≤ n.level)))) ∧
    (n.voice = .speech → n.lastSpeech = some k ∧ n.silenceRun = 0 ∧ n.onset = m.onset.or (some k)) ∧
    (n.voice = .silent → n.lastSpeech = m.lastSpeech ∧ n.onset = m.onset ∧ n.silenceRun = if m.onset.isSome then m.silenceRun + 1 else 0))

/-! ## The management channel -/

/-- A packet that comes in byte by byte reaches the inbox as its body: the receiver undoes the framing (R197, R198, R200). So it does behind a stray lead
byte, which counts a length error, and behind a packet that was cut short, which counts a check error when its length is full: the bytes kept are taken
again, and the lead byte among them begins the packet anew (R198, R201). A FRAME of LOCKED or FLYWHEEL hands the receiver both its management bytes, timeslot
0 before timeslot 1, whatever they are and whatever leaves meanwhile (R7, R198): the receiver, the inbox, the error counters and the report gate stand
afterwards as the two bytes leave them, while the order processor is busy or no order stands in the inbox; of the rest only HTX, the lamp unit, the outbox and
the flags can change. Where the two bytes complete the packet of an order at a calm part, the FRAME does what the order's command does (R202; that the
command is the whole packet is the model's choice, log 3, and that the order is taken after the frame's traffic log 8). -/
def Obligations.PacketsArriveWhole : Prop :=
  (∀ (e : Engine) (body : List Byte), e.mgc.rx = none → 2 ≤ body.length → body.length ≤ 48 → e.mgc.inbox.length < 8 →
    (packet body).foldl (fun e b => e.mgmtIn b) e = e.modMgc (fun g => { g with inbox := g.inbox ++ [body] }) ∧
    (∃ e', (0xC3 :: packet body).foldl (fun e b => e.mgmtIn b) e = e' ∧ e'.mgc.rx = none ∧ e'.mgc.inbox = e.mgc.inbox ++ [body] ∧
      e'.mgc.lengthErrors = min 255 (e.mgc.lengthErrors + 1) ∧ e'.mgc.checkErrors = e.mgc.checkErrors ∧ e'.mgc.overruns = e.mgc.overruns) ∧
    (∀ (n : Byte) (cut : List Byte), 2 ≤ n.toNat → n.toNat ≤ 48 → 0xC3 ∉ cut → cut.length < n.toNat + 1 →
      n.toNat + 1 ≤ (cut ++ packet body).length → byteSum (n :: (cut ++ packet body).take (n.toNat + 1)) ≠ 0 →
      ∃ e', (0xC3 :: n :: (cut ++ packet body)).foldl (fun e b => e.mgmtIn b) e = e' ∧ e'.mgc.rx = none ∧ e'.mgc.inbox = e.mgc.inbox ++ [body] ∧
        e'.mgc.checkErrors = min 255 (e.mgc.checkErrors + 1) ∧ e'.mgc.lengthErrors = e.mgc.lengthErrors ∧ e'.mgc.overruns = e.mgc.overruns)) ∧
  ∀ (s : State) (hrx : List Byte), s.hwi.frameBegun = true → (s.hwi.sync = .locked ∨ s.hwi.sync = .flywheel) → s.eng.ssc.service ≠ .frozen →
    (∀ kx ∈ s.eng.sessions, kx.2.windowDue = false) → s.eng.slotsIn = [] → s.eng.slotsOut = [] → s.eng.atRest → s.eng.mgc.restart = .none →
    let e := (s.eng.mgmtIn (hrx.getD 0 0xFF)).mgmtIn (hrx.getD 1 0xFF)
    (s.eng.mgc.handling = true ∨ e.mgc.inbox = [] →
      ∃ t, exec (.frame hrx) s = .next t ∧ t.eng.mgc.rx = e.mgc.rx ∧ t.eng.mgc.inbox = e.mgc.inbox ∧ t.eng.mgc.lengthErrors = e.mgc.lengthErrors ∧
        t.eng.mgc.checkErrors = e.mgc.checkErrors ∧ t.eng.mgc.overruns = e.mgc.overruns ∧ t.eng.mgc.gateOpen = e.mgc.gateOpen ∧
        t.eng.mgc.errorNoted = e.mgc.errorNoted ∧ t.eng.mgc.handling = s.eng.mgc.handling ∧ t.eng.mgc.restart = .none ∧
        (s.hwi.frameNo = none → t.eng.mgc.flags = e.mgc.flags ∧ t.eng.lmp = s.eng.lmp) ∧
        s.keepsBut [.hwi, .lmp, .channel, .outbox, .flags] t) ∧
    (∀ c body, orderBody c = some body → s.eng.mgc.inbox = [] → s.eng.mgc.outbox = [] → s.hwi.frameNo = none →
      e = s.eng.modMgc (fun g => { g with rx := none, inbox := [body] }) →
      exec (.frame hrx) s = exec c
        { s with hwi := { s.hwi with frameBegun := false, htx := List.replicate 3 0xFF ++ List.replicate 125 0x00 },
                 eng := s.eng.modMgc (fun g => { g with rx := none }) })

/-- A packet whose check fails, or a length byte outside 2 to 48, counts one error of its kind (R198, R201), where no byte after the lead byte is
another lead byte (one that is, PacketsArriveWhole has): the inbox stands and the receiver hunts again. Where the report gate is open, the error is reported
and the gate closes; where it is closed, it stays closed and the error is noted. -/
def Obligations.BadPacketsAreCounted : Prop :=
  ∀ (e : Engine) (n chk : Byte) (body : List Byte), e.mgc.rx = none → n ≠ 0xC3 →
    let gate := fun e' : Engine =>
      (e.mgc.gateOpen = true → e'.mgc.flags = e.mgc.flags ||| 0x0100 ∧ e'.mgc.gateOpen = false ∧ e'.mgc.errorNoted = false) ∧
      (e.mgc.gateOpen = false → e'.mgc.flags = e.mgc.flags ∧ e'.mgc.gateOpen = false ∧ e'.mgc.errorNoted = true)
    ((n.toNat < 2 ∨ 48 < n.toNat) → ∃ e', [0xC3, n].foldl (fun e b => e.mgmtIn b) e = e' ∧ e'.mgc.rx = none ∧ e'.mgc.inbox = e.mgc.inbox ∧
      e'.mgc.lengthErrors = min 255 (e.mgc.lengthErrors + 1) ∧ e'.mgc.checkErrors = e.mgc.checkErrors ∧ e'.mgc.overruns = e.mgc.overruns ∧ gate e') ∧
    (2 ≤ n.toNat → n.toNat ≤ 48 → body.length = n.toNat → 0xC3 ∉ body → chk ≠ 0xC3 → byteSum (n :: body) + chk ≠ 0 →
      ∃ e', (0xC3 :: n :: (body ++ [chk])).foldl (fun e b => e.mgmtIn b) e = e' ∧ e'.mgc.rx = none ∧ e'.mgc.inbox = e.mgc.inbox ∧
      e'.mgc.checkErrors = min 255 (e.mgc.checkErrors + 1) ∧ e'.mgc.lengthErrors = e.mgc.lengthErrors ∧ e'.mgc.overruns = e.mgc.overruns ∧ gate e')

/-- An order that arrives where none can be taken waits at the tail of the inbox, or, with 8 there, is discarded as an overrun error (R200, R202);
where the highway carries no traffic, or in FROZEN, nothing reaches the part (R5, R15, R209). That a packet arrives as one command is the model's choice
(log 3). Every step keeps the inbox within its 8 places, and leaves no order there that could be taken; so it is at reset. -/
def Obligations.OrdersWaitOrOverrun : Prop :=
  (∀ (c : Instr) (body : List Byte) (s : State), orderBody c = some body →
    (s.carries = false → exec c s = .next s) ∧
    (s.carries = true → s.eng.canTake = false → s.eng.mgc.inbox.length < 8 →
      exec c s = .next (s.onEng (fun e => e.modMgc (fun g => { g with inbox := g.inbox ++ [body] })))) ∧
    (s.carries = true → s.eng.canTake = false → 8 ≤ s.eng.mgc.inbox.length →
      ∃ t, exec c s = .next t ∧ t.eng.mgc.overruns = min 255 (s.eng.mgc.overruns + 1) ∧ t.eng.mgc.inbox = s.eng.mgc.inbox ∧
        t.eng.mgc.gateOpen = false ∧ s.keepsBut [.outbox, .flags] t)) ∧
  State.reset.eng.takesOrders ∧ ∀ s t : State, s.eng.takesOrders → step s = .next t → t.eng.takesOrders

/-- The order processor's own checks, in their order (R202), where the highway carries traffic: a code that is none of 11.8, a body length not the
order's, and a part that is STARTING; each refusal is answered with no data and changes nothing else. -/
def Obligations.OrdersAreCheckedFirst : Prop :=
  ∀ (c : Instr) (code tag : Byte) (ps : List Byte) (s : State), orderBody c = some (code :: tag :: ps) → s.carries = true → s.calm →
    s.eng.mgc.handling = false → s.eng.mgc.restart = .none → s.eng.mgc.outbox.length < 16 →
    (code ∉ orderCodes → exec c s = .next (s.withAnswer tag .unknown [])) ∧
    (∀ o, Order.ofCode code = some o → ps.length + 2 ≠ o.bodyLength → exec c s = .next (s.withAnswer tag .badLength [])) ∧
    (∀ o, Order.ofCode code = some o → ps.length + 2 = o.bodyLength → s.eng.ssc.service = .starting → code ≠ 0x50 → code ≠ 0x49 →
      exec c s = .next (s.withAnswer tag .notReady []))

/-- CLEAR FLAGS answers with the flags as they stood, clears those its mask names, and, where the mask names MGMT_ERRORS, the three error counters; the
other flags and the report gate stand (R205). STATUS reports the flags and changes nothing. -/
def Obligations.ClearFlagsClearsTheNamedFlags : Prop :=
  ∀ (s : State) (tag : Byte) (ps : List Byte), s.accepting →
    (ps.length = 2 → ∃ t, exec (.clearFlags tag ps) s = .next t ∧ t.eng.mgc.outbox = s.eng.mgc.outbox ++ [answerPacket tag .done (mask2 s.eng.mgc.flags)] ∧
      (∀ k : NoticeKind, (t.eng.mgc.flags &&& k.bit = k.bit) ↔ (s.eng.mgc.flags &&& k.bit = k.bit ∧ maskAt ps 0 &&& k.bit = 0)) ∧
      (maskAt ps 0 &&& NoticeKind.mgmtErrors.bit ≠ 0 → t.eng.mgc.lengthErrors = 0 ∧ t.eng.mgc.checkErrors = 0 ∧ t.eng.mgc.overruns = 0) ∧
      (maskAt ps 0 &&& NoticeKind.mgmtErrors.bit = 0 → t.eng.mgc.lengthErrors = s.eng.mgc.lengthErrors ∧
        t.eng.mgc.checkErrors = s.eng.mgc.checkErrors ∧ t.eng.mgc.overruns = s.eng.mgc.overruns) ∧
      t.eng.mgc.gateOpen = s.eng.mgc.gateOpen ∧ t.eng.mgc.errorNoted = s.eng.mgc.errorNoted ∧ t.eng.mgc.handed = s.eng.mgc.handed ∧
      s.keepsBut [.outbox, .flags] t) ∧
    (ps = [] → exec (.status tag ps) s = .next (s.withAnswer tag .done s.statusBytes))

/-- SET OPTIONS keeps the settings it gives, every number clamped to its range and the mask to the ten kinds (log 16), as one catalogue write, and
examines the pool when it changes the reserve (R74, R206); a byte without meaning is refused BAD_FIELD. READ OPTIONS answers with the settings. -/
def Obligations.SetOptionsKeepsTheSettings : Prop :=
  ∀ (s : State) (tag : Byte) (ps : List Byte), s.accepting →
    (ps = [] → exec (.readOptions tag ps) s = .next (s.withAnswer tag .done s.eng.tab.settings.bytes)) ∧
    (ps.length = 13 → (2 ≤ num1 ps 0 ∨ 4 ≤ num1 ps 3 ∨ 4 ≤ num1 ps 4 ∨ 4 ≤ num1 ps 5) → exec (.setOptions tag ps) s = .next (s.withAnswer tag .badField [])) ∧
    (ps.length = 13 → num1 ps 0 ≤ 1 → num1 ps 3 ≤ 3 → num1 ps 4 ≤ 3 → num1 ps 5 ≤ 3 →
      ∃ (t : State) (x : Settings), exec (.setOptions tag ps) s = .next t ∧ t.eng.tab.settings = x ∧
        x.noticesOn = decide (num1 ps 0 = 1) ∧ x.kindsOn = maskAt ps 1 &&& 0x03FF ∧ x.modeOpen.code = num1 ps 3 ∧ x.modeShort.code = num1 ps 4 ∧
        x.modeNoAnswer.code = num1 ps 5 ∧ x.retryInterval = max 1 (min 60 (num1 ps 6)) ∧ x.confirmCount = max 1 (min 4 (num1 ps 7)) ∧
        x.sweepHour = min 23 (num1 ps 8) ∧ x.poolReserve = max 64 (min 8192 (num2 ps 9)) ∧ x.cueLevel = min 3 (num1 ps 11) ∧
        x.cueLength = min 63 (num1 ps 12) ∧
        t.eng.catQueue = s.eng.catQueue ++ [{ writes := [.settings x], after := .nothing }] ∧
        (x.poolReserve = s.eng.tab.settings.poolReserve → t.eng.mgc.flags = s.eng.mgc.flags ∧ t.eng.ssc.poolLow = s.eng.ssc.poolLow) ∧
        (x.poolReserve ≠ s.eng.tab.settings.poolReserve → s.eng.ssc.poolLow = false → (t.eng.ssc.poolLow = true ↔ s.eng.available < x.poolReserve)) ∧
        (x.poolReserve ≠ s.eng.tab.settings.poolReserve → s.eng.ssc.poolLow = true →
          (t.eng.ssc.poolLow = false ↔ x.poolReserve + 256 ≤ s.eng.available)) ∧
        t.answered tag .done (yes1 (decide (x.retryInterval ≠ num1 ps 6 ∨ x.confirmCount ≠ num1 ps 7 ∨ x.sweepHour ≠ num1 ps 8 ∨
          x.poolReserve ≠ num2 ps 9 ∨ x.cueLevel ≠ num1 ps 11 ∨ x.cueLength ≠ num1 ps 12))) ∧
        s.keepsBut [.pool, .outbox, .flags, .settings, .writes] t)

/-- RESTART is answered DONE and no further order is taken, its answer standing behind the packets that leave first (R208). Each of them leaves with its
last byte, on timeslot 1 of a FRAME or on timeslot 0 with the next packet's first byte behind it, and brings the answer nearer; with the answer's own last
byte the reset falls due, and the orders and notices that wait, and the
catalogue writes not in flight, are dropped (R88, R208; at once, log 25). RESTART_RESET, when the answer has left and the operations in flight have ended,
resets every volatile block, keeps the clock, and begins the store check (R88, R187); where the RESTART is not ready to take effect it changes nothing (log
4). -/
def Obligations.RestartFollowsItsAnswer : Prop :=
  ∀ (s : State) (tag : Byte) (sel : Selects),
    (s.accepting → exec (.restart tag []) s = .next ((s.withAnswer tag .done []).onEng
      (fun e => e.modMgc (fun g => { g with restart := .answering (s.eng.mgc.outbox.length + 1) })))) ∧
    (∀ hrx n p q, (s.onEng (fun e => e.modMgc (fun g => { g with inbox := [] }))).quietFrame hrx → s.eng.slotsIn = [] → s.eng.slotsOut = [] →
      s.eng.mgc.restart = .answering n → s.eng.mgc.outbox = p :: q →
      ∃ (t : State) (b1 : Byte), exec (.frame hrx) s = .next t ∧
        t.hwi = { s.hwi with frameBegun := false, htx := p.getD s.eng.mgc.handed 0xFF :: b1 :: 0xFF :: List.replicate 125 0x00 } ∧
        (s.eng.mgc.handed + 1 < p.length → b1 = p.getD (s.eng.mgc.handed + 1) 0xFF) ∧
        (s.eng.mgc.handed + 2 < p.length → t.eng.mgc.restart = .answering n ∧ t.eng.mgc.inbox = s.eng.mgc.inbox ∧ t.eng.mgc.outbox = p :: q ∧
          t.eng.mgc.handed = s.eng.mgc.handed + 2 ∧ t.eng.catQueue = s.eng.catQueue) ∧
        (2 ≤ n → (s.eng.mgc.handed + 2 = p.length ∨ (s.eng.mgc.handed + 1 = p.length ∧ ∀ r ∈ q.head?, 2 ≤ r.length)) →
          t.eng.mgc.restart = .answering (n - 1) ∧ t.eng.mgc.inbox = s.eng.mgc.inbox ∧ t.eng.mgc.outbox = q ∧ t.eng.catQueue = s.eng.catQueue ∧
          (s.eng.mgc.handed + 2 = p.length → t.eng.mgc.handed = 0) ∧
          (s.eng.mgc.handed + 1 = p.length → b1 = (q.headD []).getD 0 0xFF ∧ t.eng.mgc.handed = if q = [] then 0 else 1)) ∧
        (n ≤ 1 → (s.eng.mgc.handed + 2 = p.length ∨ s.eng.mgc.handed + 1 = p.length) →
          t.eng.mgc.restart = .due ∧ t.eng.mgc.inbox = [] ∧ t.eng.mgc.outbox = [] ∧ t.eng.mgc.handed = 0 ∧ t.eng.catQueue = haltQueue s.eng.catQueue ∧
          (s.eng.mgc.handed + 1 = p.length → b1 = 0xFF)) ∧
        s.keepsBut [.hwi, .channel, .outbox, .writes] t) ∧
    ((s.eng.mgc.restart ≠ .due ∨ s.eng.ssc.link ≠ .idle ∨ s.eng.catQueue ≠ []) → exec (.restartReset sel) s = .next s) ∧
    (s.eng.mgc.restart = .due → s.eng.ssc.link = .idle → s.eng.catQueue = [] → s.hwi.pulseDue = false →
      ∃ t, exec (.restartReset sel) s = .next t ∧ t.hwi = Hwi.reset ∧ t.eng.mgc = Mgc.reset ∧ t.eng.sessions = [] ∧ t.eng.lmp = Lmp.reset ∧
        t.eng.dle = { queue := [], nextNumber := 1 } ∧ t.eng.ssc.service = .starting ∧ t.eng.ssc.link = .idle ∧ t.eng.ssc.readQueue = [] ∧
        t.eng.ssc.progQueue = [] ∧ t.eng.ssc.poolLow = false ∧ t.eng.ssc.flash = s.eng.ssc.flash ∧ t.eng.cat = s.eng.cat ∧
        t.eng.ssc.devices = countSelects sel ∧ t.cal.source = .losc ∧ t.cal.sweep.running = false ∧ t.cal.valid = s.cal.valid ∧
        t.cal.dayNumber = s.cal.dayNumber ∧ t.cal.secondOfDay = s.cal.secondOfDay ∧
        t.cal.subCount = (if s.cal.source = .highway then 1000 * s.hwi.divider else s.cal.subCount) ∧ t.pending = s.pending)

/-! ## The calendar -/

/-- The highway and the clock are sound at reset: their counts lie in their ranges, and the clock's source agrees with pulse valid. -/
def Obligations.HighwayAndClockAreSoundAtReset : Prop := State.reset.clocked

/-- Every step keeps the highway and the clock sound: the counts in their ranges, the fields a date and time, pulse valid on exactly in LOCKED and
FLYWHEEL, and the source HIGHWAY exactly while it is on. -/
def Obligations.EveryStepKeepsTheHighwayAndTheClockSound : Prop := ∀ s t : State, s.clocked → step s = .next t → t.clocked

/-- A second moves a date and time on to the next (R186): the day number and second of day together rise by one, so that months, leap years and years
turn over; at the last second of 2099 the fields stay and the clock becomes invalid. Day 0 is 1 January 2000, a Saturday. -/
def Obligations.SecondsAdvanceTheDate : Prop :=
  (∀ c : Cal, dateLegal c.year c.month c.day c.hour c.minute c.second = true →
    c.secondOfDay < 86400 ∧ c.dayNumber ≤ 36524 ∧
    (c.atEnd = true → c.advance = { c with valid := false }) ∧
    (c.atEnd = false → let d := c.advance
      dateLegal d.year d.month d.day d.hour d.minute d.second = true ∧ 86400 * d.dayNumber + d.secondOfDay = 86400 * c.dayNumber + c.secondOfDay + 1 ∧
      d.valid = c.valid ∧ d.source = c.source ∧ d.subCount = c.subCount ∧ d.sweep = c.sweep)) ∧
  dayNumber 0 1 1 = 0 ∧ dayNumber 99 12 31 = 36524 ∧ dayNumber 0 2 29 + 1 = dayNumber 0 3 1 ∧ dayNumber 1 2 28 + 1 = dayNumber 1 3 1

/-- A second counted, from either source (R14, R188): the fields advance, the lamp unit's second count rises (but in FROZEN, R185), the automatic
sweep starts at the sweep hour (R193), and the report gate is examined (R201). A local second counts whatever the sub-second count holds, the model's
choice (log 2). A pulse the divider has not given counts nothing; on the highway a local second counts nothing (log 4). -/
def Obligations.SecondsAreCounted : Prop :=
  ∀ s : State, s.calm →
    (s.hwi.pulseDue = false → exec .secondsPulse s = .next s) ∧ (s.cal.source = .highway → exec .localSecond s = .next s) ∧
    ∀ c h, (c = Instr.secondsPulse ∧ s.hwi.pulseDue = true ∧ h = { s.hwi with pulseDue := false }) ∨
        (c = Instr.localSecond ∧ s.cal.source = .losc ∧ h = s.hwi) →
      let d := ({ s.cal with subCount := if c = .localSecond then 0 else s.cal.subCount } : Cal).advance
      ∃ t, exec c s = .next t ∧ t.hwi = h ∧
        t.eng.lmp = { s.eng.lmp with seconds := s.eng.lmp.seconds + (if s.eng.ssc.service = .frozen then 0 else 1) } ∧
        (d.valid = true → s.eng.ssc.service = .service → d.sweep.running = false →
          d.hour = s.eng.tab.settings.sweepHour → d.minute = 0 → d.second = 0 →
          t.cal = { d with sweep := { running := true, cause := .automatic, pointer := 0, deleted := 0, stamped := 0, startDay := d.dayNumber } }) ∧
        ((d.valid = false ∨ s.eng.ssc.service ≠ .service ∨ d.sweep.running = true ∨ d.hour ≠ s.eng.tab.settings.sweepHour ∨ d.minute ≠ 0 ∨
          d.second ≠ 0) → t.cal = d) ∧
        (s.eng.mgc.gateOpen = true → t.eng.mgc = s.eng.mgc) ∧
        (s.eng.mgc.gateOpen = false → s.eng.mgc.errorNoted = true → t.eng.mgc.gateOpen = false ∧ t.eng.mgc.errorNoted = false ∧ t.flagged .mgmtErrors) ∧
        (s.eng.mgc.gateOpen = false → s.eng.mgc.errorNoted = false → t.eng.mgc = { s.eng.mgc with gateOpen := true }) ∧
        s.keepsBut [.hwi, .cal, .lmp, .outbox, .flags] t

/-- SET CLOCK takes a legal date and time: the fields, valid yes, the sub-second count 0, the seconds divider restarted, no pulse given (R14, R190);
an illegal one is refused BAD_FIELD. READ CLOCK answers with the clock. SWEEP is BUSY while a sweep runs, WRONG_STATE while the clock is invalid, and
otherwise starts one from entry 0, its counts 0 (R193; that a running sweep is examined before the clock is the model's, log 39). -/
def Obligations.ClockOrdersSetReadAndSweep : Prop :=
  ∀ (s : State) (tag : Byte) (ps : List Byte), s.accepting →
    (ps = [] → exec (.readClock tag ps) s = .next (s.withAnswer tag .done s.cal.clockBytes)) ∧
    (ps.length = 6 → dateLegal (num1 ps 0) (num1 ps 1) (num1 ps 2) (num1 ps 3) (num1 ps 4) (num1 ps 5) = false →
      exec (.setClock tag ps) s = .next (s.withAnswer tag .badField [])) ∧
    (ps.length = 6 → dateLegal (num1 ps 0) (num1 ps 1) (num1 ps 2) (num1 ps 3) (num1 ps 4) (num1 ps 5) = true →
      ∃ t, exec (.setClock tag ps) s = .next t ∧
        t.cal = { s.cal with year := num1 ps 0, month := num1 ps 1, day := num1 ps 2, hour := num1 ps 3, minute := num1 ps 4, second := num1 ps 5, valid := true, subCount := 0 } ∧
        t.hwi = { s.hwi with divider := 0, pulseDue := false } ∧
        t.eng.mgc.outbox = s.eng.mgc.outbox ++ [answerPacket tag .done (be2 t.cal.dayNumber ++ be1 (t.cal.dayNumber % 7))] ∧
        s.keepsBut [.hwi, .cal, .outbox] t ∧ t.eng.mgc.handed = s.eng.mgc.handed) ∧
    (ps = [] → s.cal.sweep.running = true → exec (.sweep tag ps) s = .next (s.withAnswer tag .busy [])) ∧
    (ps = [] → s.cal.sweep.running = false → s.cal.valid = false → exec (.sweep tag ps) s = .next (s.withAnswer tag .wrongState [])) ∧
    (ps = [] → s.cal.sweep.running = false → s.cal.valid = true →
      let w : Sweep := { running := true, cause := .order, pointer := 0, deleted := 0, stamped := 0, startDay := s.cal.dayNumber }
      exec (.sweep tag ps) s = .next { s.withAnswer tag .done [] with cal := { s.cal with sweep := w } })

/-- One examination of a running sweep (R194): an entry free, RECORDING or NEW is passed over; a heard day is stamped where it is absent; a record older
than its class's retention is freed as DELETE frees one (R133), any other kept; the pointer rises by one, and past entry 32,767 the sweep ends COMPLETED.
An invalid clock ends it (R196). (One examination a command: the model's, log 23.) -/
def Obligations.ExaminationsFollowTheTable : Prop :=
  ∀ s : State, s.calm → s.eng.ssc.service = .service → s.eng.mgc.restart ≠ .due → s.cal.sweep.running = true →
    let p := s.cal.sweep.pointer
    let today := s.cal.dayNumber
    ∃ t, exec .sweepExamination s = .next t ∧
      (s.cal.valid = false → t.cal = { s.cal with sweep := { s.cal.sweep with running := false } } ∧ t.flagged .sweepDone ∧
        s.keepsBut [.cal, .outbox, .flags] t) ∧
      (s.cal.valid = true → (p + 1 = 32768 → t.flagged .sweepDone) ∧ t.cal = { s.cal with sweep := { s.cal.sweep with
        running := decide (p + 1 ≠ 32768), pointer := p + 1, deleted := t.cal.sweep.deleted, stamped := t.cal.sweep.stamped } }) ∧
      (s.cal.valid = true → (s.eng.record p = none ∨ (∃ x, s.eng.record p = some x ∧ (x.state = .recording ∨ x.state = .new))) →
        t.cal.sweep.deleted = s.cal.sweep.deleted ∧ t.cal.sweep.stamped = s.cal.sweep.stamped ∧ s.keepsBut [.cal, .outbox, .flags] t) ∧
      (s.cal.valid = true → ∀ x, s.eng.record p = some x → (x.state = .heard ∨ x.state = .saved) → x.heardDay = none →
        t.eng.record p = some { x with heardDay := some today } ∧ t.cal.sweep.stamped = s.cal.sweep.stamped + 1 ∧
        t.cal.sweep.deleted = s.cal.sweep.deleted ∧ s.keepsBut [.cal, .outbox, .flags, .records, .writes] t) ∧
      (s.cal.valid = true → ∀ x d, s.eng.record p = some x → (x.state = .heard ∨ x.state = .saved) → x.heardDay = some d →
        let keep := if x.state = .saved then (s.eng.boxClass x.mailbox).savedRetention else (s.eng.boxClass x.mailbox).heardRetention
        ((0 < keep ∧ d + keep < today) → s.freesRecord t p x ∧ t.cal.sweep.deleted = s.cal.sweep.deleted + 1 ∧
          t.cal.sweep.stamped = s.cal.sweep.stamped ∧ s.keepsBut [.cal, .sessions, .pool, .link, .holds, .counters, .lmp, .outbox, .flags, .segments, .bodies,
            .mailboxes, .records, .writes] t) ∧
        (¬ (0 < keep ∧ d + keep < today) → t.cal.sweep.deleted = s.cal.sweep.deleted ∧ t.cal.sweep.stamped = s.cal.sweep.stamped ∧
          s.keepsBut [.cal, .outbox, .flags] t))

/-! ## Classes, mailboxes, messages and greetings -/

/-- READ CLASS answers with the fifteen stored values of a class 0 to 15, refuses any other number BAD_FIELD, and changes nothing (R117). -/
def Obligations.ReadClassReportsTheStoredValues : Prop :=
  ∀ (s : State) (tag : Byte) (ps : List Byte), s.accepting → ps.length = 1 →
    let c := s.eng.cls (num1 ps 0)
    (num1 ps 0 ≤ 15 → exec (.readClass tag ps) s = .next (s.withAnswer tag .done
      (be1 c.maxMessages ++ be2 c.quota ++ be2 c.maxMessage ++ be1 c.minMessage ++ be2 c.maxGreeting ++ be1 c.noSpeech ++ be1 c.endSilence ++
        be1 c.preRoll ++ be1 c.hangover ++ be1 c.mask ++ be2 c.tOn ++ be2 c.tOff ++ be1 c.margin ++ be2 c.heardRetention ++ be2 c.savedRetention))) ∧
    (15 < num1 ps 0 → exec (.readClass tag ps) s = .next (s.withAnswer tag .badField []))

/-- LOAD CLASS stores the fifteen fields, each clamped to its range and T_off to T_on, as one catalogue write, says whether any was clamped, and hands
the lamp inputs of the class's mailboxes (R115, R116, R127; in rising number, the model's choice, log 15); a class number above 15 is refused BAD_FIELD.
Lamp inputs that give a mailbox a new pattern move it at each address of its lamp list, in order, and examine the address: one that is in service and was
last sent another pattern joins the change queue, unless it stands there (R166, R167, R169, R171); other inputs change nothing. A change of a lamp list
moves the counts of the leaving addresses and then of the joining ones, and examines each; an address left without a reference is in no fault (R170).
DELETE frees a record (R133, R134): it leaves its list and the message table, its mailbox's counters and charge fall, the lamp inputs are handed, its body
loses a share and, where nothing else holds it, is released with its DATA segments DIRTY at the erase queue tail, first segment first (R105, R108), and no
session keeps it as its target (State.freesRecord); refusals as MARK's. -/
def Obligations.LoadClassAndDeleteHandTheLampInputs : Prop :=
  (∀ (s : State) (tag : Byte) (ps : List Byte), s.accepting → ps.length = 23 →
    (15 < num1 ps 0 → exec (.loadClass tag ps) s = .next (s.withAnswer tag .badField [])) ∧
    (num1 ps 0 ≤ 15 → ∃ (t : State) (c : MailClass), exec (.loadClass tag ps) s = .next t ∧
      (∀ k, t.eng.cls k = if k = num1 ps 0 then c else s.eng.cls k) ∧
      c.maxMessages = max 1 (num1 ps 1) ∧ c.quota = max 16 (num2 ps 2) ∧ c.maxMessage = max 10 (min 600 (num2 ps 4)) ∧
      c.minMessage = min 50 (num1 ps 6) ∧ c.maxGreeting = max 5 (min 300 (num2 ps 7)) ∧ c.noSpeech = max 1 (min 30 (num1 ps 9)) ∧
      c.endSilence = max 5 (min 100 (num1 ps 10)) ∧ c.preRoll = min 63 (num1 ps 11) ∧ c.hangover = min 127 (num1 ps 12) ∧ c.mask = num1 ps 13 ∧
      c.tOn = min 3952 (num2 ps 14) ∧ c.tOff = min (min 3952 (num2 ps 16)) (min 3952 (num2 ps 14)) ∧ c.margin = num1 ps 18 ∧
      c.heardRetention = min 365 (num2 ps 19) ∧ c.savedRetention = min 3650 (num2 ps 21) ∧
      t.eng.catQueue = s.eng.catQueue ++ [{ writes := [.cls (num1 ps 0) c], after := .nothing }] ∧
      s.handsInputs ((s.eng.tab.mailboxes.filter (fun mb => mb.2.fields.cls = num1 ps 0)).map (·.1)) t ∧
      t.answered tag .done (yes1 (decide (c ≠ MailClass.read ps 1))) ∧ s.keepsBut [.classes, .lmp, .outbox, .writes] t)) ∧
  (∀ (e : Engine) (m : Nat), (e.mailbox m = none ∨ e.ssc.service = .frozen) → e.handInputs m = e) ∧
  (∀ (e : Engine) (m : Nat) (b : Mailbox), e.mailbox m = some b → e.ssc.service ≠ .frozen → b.fields.lamps.Nodup →
    let p := Tab.get Pattern.off e.lmp.patterns m
    let q := lampPattern b.fields.enabled b.fields.lampsOn (e.counter m).new (e.counter m).urgent
      (decide ((e.boxClass m).maxMessages ≤ (e.counter m).total ∨ (e.boxClass m).quota ≤ (e.counter m).charged))
    let moved := fun a => ((e.lamp a).modCount p (· - 1)).modCount q (· + 1)
    let joins := fun a => (moved a).inService && decide ((moved a).lastSent ≠ some (moved a).pattern) && !(moved a).queued
    let l := (e.handInputs m).lmp
    (p = q → e.handInputs m = e) ∧
    (p ≠ q → e.handInputs m = { e with lmp := { e.lmp with patterns := l.patterns, table := l.table, changeQueue := l.changeQueue } } ∧
      (∀ n, Tab.get Pattern.off l.patterns n = if n = m then q else Tab.get Pattern.off e.lmp.patterns n) ∧
      (∀ a, l.entry a = if a ∈ b.fields.lamps then { moved a with queued := (moved a).queued || joins a } else e.lamp a) ∧
      l.changeQueue = e.lmp.changeQueue ++ b.fields.lamps.filter joins)) ∧
  (∀ (l : Lmp) (m : Nat) (old new : List Nat), old.Nodup → new.Nodup →
    let p := Tab.get Pattern.off l.patterns m
    let leaving := old.filter (fun a => !new.contains a)
    let joining := new.filter (fun a => !old.contains a)
    let moved := fun a => if a ∈ leaving then
        (let y := { l.entry a with refs := (l.entry a).refs - 1 }.modCount p (· - 1)
        if y.refs = 0 then { y with fault := .clear, kind := none, confirm := 0, retryDue := none, reported := none } else y)
      else if a ∈ joining then { l.entry a with refs := (l.entry a).refs + 1 }.modCount p (· + 1) else l.entry a
    let joins := fun a => (moved a).inService && decide ((moved a).lastSent ≠ some (moved a).pattern) && !(moved a).queued
    let l2 := l.listChange m old new
    l2 = { l with table := l2.table, changeQueue := l.changeQueue ++ (leaving ++ joining).filter joins } ∧
    (∀ a, l2.entry a = if a ∈ leaving ++ joining then { moved a with queued := (moved a).queued || joins a } else l.entry a)) ∧
  (∀ (s : State) (tag : Byte) (ps : List Byte), s.accepting → ps.length = 4 →
    let m := num2 ps 0
    let r := num2 ps 2
    ((4096 ≤ m ∨ 32768 ≤ r) → exec (.delete tag ps) s = .next (s.withAnswer tag .badField [])) ∧
    (m < 4096 → r < 32768 →
      ((s.eng.mailbox m = none ∨ ∀ x, s.eng.record r = some x → x.mailbox ≠ m) → exec (.delete tag ps) s = .next (s.withAnswer tag .noSuch [])) ∧
      (s.eng.mailbox m ≠ none → ∀ x, s.eng.record r = some x → x.mailbox = m →
        (x.state = .recording → exec (.delete tag ps) s = .next (s.withAnswer tag .wrongState [])) ∧
        (x.state ≠ .recording → ∃ t, exec (.delete tag ps) s = .next t ∧
          s.freesRecord t r x ∧
          (∀ y, s.eng.body x.body = some y → 1 < y.share ∨ 0 < (s.eng.hold x.body).pins ∨ 0 < (s.eng.hold x.body).readers → s.samePart t .flags) ∧
          t.answered tag .done [] ∧
          s.keepsBut [.sessions, .pool, .link, .holds, .counters, .lmp, .outbox, .flags, .segments, .bodies, .mailboxes, .records, .writes] t))))

/-- The fields of a class travel whole: the bytes READ CLASS gives of a class in its ranges, read as LOAD CLASS reads them, are the class again, and
storing them clamps nothing. -/
def Obligations.ClassFieldsTravelWhole : Prop :=
  (∀ c : MailClass, c.clamped = c → MailClass.read c.bytes 0 = c) ∧ (∀ c : MailClass, c.clamped.clamped = c.clamped) ∧
  (∀ x : Settings, x.clamped = x → Settings.read x.bytes = some x) ∧ MailClass.default.clamped = MailClass.default ∧
  Settings.default.clamped = Settings.default

/-- LOAD MAILBOX stores the fields it gives as one catalogue write and keeps the mailbox's list (R118 to R120); the lamp unit takes the change of its lamp
list and then its lamp inputs (R127, R170). A number out of range, a code without meaning, or an address given twice is refused BAD_FIELD. READ MAILBOX
answers with the fields, the counters and the list's ends (R121). -/
def Obligations.LoadMailboxStoresItsFields : Prop :=
  ∀ (s : State) (tag : Byte) (ps : List Byte), s.accepting →
    let m := num2 ps 0
    let lamps := (List.range (num1 ps 10)).map (fun i => num1 ps (11 + 3 * i) * 1024 + num1 ps (12 + 3 * i) * 32 + num1 ps (13 + 3 * i))
    let legal := m < 4096 ∧ num3 ps 2 ≤ 9999999 ∧ num1 ps 5 ≤ 15 ∧ num1 ps 6 ≤ 1 ∧ num1 ps 7 ≤ 1 ∧ num1 ps 8 ≤ 1 ∧ num1 ps 9 ≤ 2 ∧ num1 ps 10 ≤ 4 ∧
      (∀ i, i < num1 ps 10 → num1 ps (11 + 3 * i) ≤ 15 ∧ num1 ps (12 + 3 * i) ≤ 31 ∧ num1 ps (13 + 3 * i) ≤ 31) ∧ lamps.Nodup
    (ps.length = 23 → ¬ legal → exec (.loadMailbox tag ps) s = .next (s.withAnswer tag .badField [])) ∧
    (ps.length = 23 → legal → ∃ (t : State) (f : BoxFields), exec (.loadMailbox tag ps) s = .next t ∧
      (∀ n, t.eng.mailbox n = if n = m then some { fields := f, head := (s.eng.mailbox m).bind (·.head), tail := (s.eng.mailbox m).bind (·.tail) } else s.eng.mailbox n) ∧
      f.extension = num3 ps 2 ∧ f.cls = num1 ps 5 ∧ f.enabled = decide (num1 ps 6 = 1) ∧ f.accepts = decide (num1 ps 7 = 1) ∧
      f.lampsOn = decide (num1 ps 8 = 1) ∧ f.active.code = num1 ps 9 ∧ f.lamps = lamps ∧
      t.eng.catQueue = s.eng.catQueue ++ [{ writes := [.boxFields m f], after := .nothing }] ∧
      t.eng.lmp = (({ t.eng with lmp := s.eng.lmp.listChange m (((s.eng.mailbox m).map (·.fields.lamps)).getD []) lamps } : Engine).handInputs m).lmp ∧
      t.answered tag .done [] ∧
      s.keepsBut [.mailboxes, .lmp, .outbox, .writes] t) ∧
    (ps.length = 2 → 4096 ≤ m → exec (.readMailbox tag ps) s = .next (s.withAnswer tag .badField [])) ∧
    (ps.length = 2 → m < 4096 → s.eng.mailbox m = none → exec (.readMailbox tag ps) s = .next (s.withAnswer tag .noSuch [])) ∧
    (ps.length = 2 → m < 4096 → ∀ b, s.eng.mailbox m = some b →
      exec (.readMailbox tag ps) s = .next (s.withAnswer tag .done (boxBytes b (s.eng.counter m) (s.eng.boxFull m))))

/-- LIST answers with up to 8 BRIEF or 2 FULL entries of a mailbox's list from its start, their number, and the record a next LIST continues at (R137,
R138), and changes nothing; it is refused BAD_FIELD, or NO_SUCH for an unloaded mailbox or a start that is no record of the mailbox. -/
def Obligations.ListGivesEntriesInOrder : Prop :=
  ∀ (s : State) (tag : Byte) (ps : List Byte), s.accepting → ps.length = 5 →
    let m := num2 ps 0
    let start := num2 ps 2
    let rs := if start = 0xFFFF then s.eng.boxList m else s.eng.listFrom s.eng.tab.records.length (some start)
    ((4096 ≤ m ∨ (32768 ≤ start ∧ start ≠ 0xFFFF) ∨ 1 < num1 ps 4) → exec (.list tag ps) s = .next (s.withAnswer tag .badField [])) ∧
    (m < 4096 → (start < 32768 ∨ start = 0xFFFF) → num1 ps 4 ≤ 1 →
      (s.eng.mailbox m = none ∨ (start ≠ 0xFFFF ∧ ∀ x, s.eng.record start = some x → x.mailbox ≠ m)) →
      exec (.list tag ps) s = .next (s.withAnswer tag .noSuch [])) ∧
    (m < 4096 → s.eng.mailbox m ≠ none → (start = 0xFFFF ∨ (start < 32768 ∧ ∃ x, s.eng.record start = some x ∧ x.mailbox = m)) →
      (num1 ps 4 = 0 → exec (.list tag ps) s = .next (s.withAnswer tag .done
        (be1 (rs.take 8).length ++ opt2 (rs.drop 8).head? ++ (rs.take 8).flatMap (fun r => s.eng.briefEntry r)))) ∧
      (num1 ps 4 = 1 → exec (.list tag ps) s = .next (s.withAnswer tag .done
        (be1 (rs.take 2).length ++ opt2 (rs.drop 2).head? ++ (rs.take 2).flatMap (fun r => s.eng.fullEntry r)))))

/-- MARK follows its table (R131): the record's new state and heard day, its counters moved with the state and its mailbox's lamp inputs then handed
(R127), its place and its body untouched, the state after it in the answer; refusals BAD_FIELD, NO_SUCH and WRONG_STATE in that order. The mark codes are 0
HEARD, 1 SAVED, 2 NEW (11.8). -/
def Obligations.MarkFollowsItsTable : Prop :=
  ∀ (s : State) (tag : Byte) (ps : List Byte), s.accepting → ps.length = 5 →
    let m := num2 ps 0
    let r := num2 ps 2
    let stamp : Option Nat := if s.cal.valid then some s.cal.dayNumber else none
    ((4096 ≤ m ∨ 32768 ≤ r ∨ 2 < num1 ps 4) → exec (.mark tag ps) s = .next (s.withAnswer tag .badField [])) ∧
    (m < 4096 → r < 32768 → num1 ps 4 ≤ 2 →
      ((s.eng.mailbox m = none ∨ ∀ x, s.eng.record r = some x → x.mailbox ≠ m) → exec (.mark tag ps) s = .next (s.withAnswer tag .noSuch [])) ∧
      (s.eng.mailbox m ≠ none → ∀ x, s.eng.record r = some x → x.mailbox = m →
        (x.state = .recording → exec (.mark tag ps) s = .next (s.withAnswer tag .wrongState [])) ∧
        (x.state ≠ .recording → ∃ (t : State) (y : Record), exec (.mark tag ps) s = .next t ∧ (∀ q, t.eng.record q = if q = r then some y else s.eng.record q) ∧
          y = { x with state := y.state, heardDay := y.heardDay } ∧
          (num1 ps 4 = 0 → x.state = .new → y.state = .heard ∧ y.heardDay = stamp) ∧
          (num1 ps 4 = 0 → x.state ≠ .new → y = x) ∧
          (num1 ps 4 = 1 → y.state = .saved ∧ (x.state = .new → y.heardDay = stamp) ∧
            (x.state ≠ .new → y.heardDay = if x.heardDay = none then stamp else x.heardDay)) ∧
          (num1 ps 4 = 2 → x.state = .new → y = x) ∧
          (num1 ps 4 = 2 → x.state ≠ .new → y.state = .new ∧ y.heardDay = none) ∧
          (∀ n, t.eng.counter n = if n = m ∧ y.state ≠ x.state then Counters.pass x.state y.state x.urgent (s.eng.counter m) else s.eng.counter n) ∧
          (y.state = x.state → t.eng.lmp = s.eng.lmp) ∧ (y.state ≠ x.state → s.handsInputs [m] t) ∧
          t.answered tag .done (be1 y.state.code) ∧ s.keepsBut [.records, .counters, .lmp, .outbox, .writes] t)))

/-- The pool, the counters, the mailbox lists and the share counts stay true. Every step keeps the free list and the erase queue exactly the ERASED and
the DIRTY segments, each once, and the segment in the store link's hands in its state (R69, R72, R83); and every mailbox's counters the numbers of its
records (R125). Every step but a reset over a catalogue memory that is not closed keeps every record in the list of its mailbox, once (R123), every share
count the number of its holders, and every job's body in use under its pins (R105, R106). All hold at reset. -/
def Obligations.EveryStepKeepsThePoolTheListsAndTheSharesTrue : Prop :=
  (State.reset.eng.pooled ∧ State.reset.eng.counted ∧ State.reset.eng.listed ∧ State.reset.eng.shared) ∧
  (∀ s t : State, s.eng.pooled → step s = .next t → t.eng.pooled) ∧
  (∀ s t : State, s.eng.counted → step s = .next t → t.eng.counted) ∧
  (∀ s t : State, s.eng.counted → s.eng.listed → s.safeNext → step s = .next t → t.eng.listed) ∧
  (∀ s t : State, s.eng.shared → s.safeNext → step s = .next t → t.eng.shared)

/-- Every step keeps the takes in order: a session's program requests rise in take order behind what has been programmed, its filling buffer lies behind
them all, within the windows closed (R23, R24, R28, R76); a filling buffer is a take's, and a request waits for a take or for its kept run alone (R27, R63);
and every timeslot is bound to the session that holds it (R8). Every step keeps each request at a buffer of its own, of the role that the request gives it
(R18). Both hold at reset, and in FROZEN nothing is said. -/
def Obligations.EveryStepKeepsTheTakesInOrder : Prop :=
  (State.reset.eng.inTakeOrder ∧ State.reset.eng.namesBuffers) ∧
  (∀ s t : State, s.eng.inTakeOrder → step s = .next t → t.eng.inTakeOrder) ∧
  ∀ s t : State, s.eng.namesBuffers → step s = .next t → t.eng.namesBuffers

/-- PURGE frees every record of a mailbox's list, hands its lamp inputs once (R127) and empties its four slots (R135, R150), unless a record or a slot of
it is being recorded or a job is writing to it, when it is BUSY. -/
def Obligations.PurgeEmptiesTheMailbox : Prop :=
  ∀ (s : State) (tag : Byte) (ps : List Byte), s.accepting → ps.length = 2 →
    let m := num2 ps 0
    let busy := (∃ r ∈ s.eng.boxList m, ∃ x, s.eng.record r = some x ∧ x.state = .recording) ∨ (∃ g, (s.eng.slot m g).staged ≠ none) ∨
      (∃ j q, s.eng.dle.queue = j :: q ∧ j.current = some m)
    (4096 ≤ m → exec (.purge tag ps) s = .next (s.withAnswer tag .badField [])) ∧
    (m < 4096 → s.eng.mailbox m = none → exec (.purge tag ps) s = .next (s.withAnswer tag .noSuch [])) ∧
    (m < 4096 → s.eng.mailbox m ≠ none → busy → exec (.purge tag ps) s = .next (s.withAnswer tag .busy [])) ∧
    (m < 4096 → s.eng.mailbox m ≠ none → ¬ busy → ∃ t, exec (.purge tag ps) s = .next t ∧ (∀ r ∈ s.eng.boxList m, t.eng.record r = none) ∧
      (∀ g, (t.eng.slot m g).held = none) ∧ s.handsInputs [m] t ∧ t.answered tag .done [] ∧
      s.keepsBut [.sessions, .pool, .link, .holds, .counters, .lmp, .outbox, .flags, .segments, .bodies, .mailboxes, .records, .greetings, .writes] t)

/-- SELECT GREETING sets the active greeting alone, and answers with it and the four slots as they stand (R147); ERASE GREETING empties a slot that is not
being recorded into, and answers with what it held (R149; the duration 0 where it held nothing is the model's choice, log 34). -/
def Obligations.GreetingOrdersSetAndEmptySlots : Prop :=
  ∀ (s : State) (tag : Byte) (ps : List Byte), s.accepting → ps.length = 3 →
    let m := num2 ps 0
    ((4096 ≤ m ∨ 2 < num1 ps 2) → exec (.selectGreeting tag ps) s = .next (s.withAnswer tag .badField [])) ∧
    ((4096 ≤ m ∨ 3 < num1 ps 2) → exec (.eraseGreeting tag ps) s = .next (s.withAnswer tag .badField [])) ∧
    (m < 4096 → s.eng.mailbox m = none → (num1 ps 2 ≤ 2 → exec (.selectGreeting tag ps) s = .next (s.withAnswer tag .noSuch [])) ∧
      (num1 ps 2 ≤ 3 → exec (.eraseGreeting tag ps) s = .next (s.withAnswer tag .noSuch []))) ∧
    (m < 4096 → ∀ b, s.eng.mailbox m = some b → ∀ g : GreetingKind, g.code = num1 ps 2 →
      (g ≠ .name → ∃ t, exec (.selectGreeting tag ps) s = .next t ∧
        (∀ n, t.eng.mailbox n = if n = m then some { b with fields := { b.fields with active := g } } else s.eng.mailbox n) ∧
        t.answered tag .done (be1 g.code ++ s.eng.slotBytes m .standard ++ s.eng.slotBytes m .busy ++ s.eng.slotBytes m .absent ++ s.eng.slotBytes m .name) ∧
        s.keepsBut [.mailboxes, .outbox, .writes] t) ∧
      ((s.eng.slot m g).staged ≠ none → exec (.eraseGreeting tag ps) s = .next (s.withAnswer tag .busy [])) ∧
      ((s.eng.slot m g).staged = none → ∃ t, exec (.eraseGreeting tag ps) s = .next t ∧ (t.eng.slot m g).held = none ∧
        (∀ n h, (n ≠ m ∨ h ≠ g) → t.eng.slot n h = s.eng.slot n h) ∧
        t.answered tag .done (yes1 (s.eng.slot m g).filled ++ be2 (s.eng.slotTenths (s.eng.slot m g))) ∧
        ((s.eng.slot m g).held = none → s.keepsBut [.outbox] t) ∧
        s.keepsBut [.pool, .link, .holds, .outbox, .flags, .segments, .bodies, .greetings, .writes] t))

/-- An OPEN PLAY chooses its target. NEXT_NEW chooses the first record of the mailbox's list that is NEW and urgent, and where there is none the first that
is NEW (R136). ACTIVE_GREETING plays the first row of R148's table that applies; a mailbox with none of them filled gives none. -/
def Obligations.OpenPlayChoosesItsTarget : Prop :=
  (∀ (e : Engine) (m : Nat),
    let isNew := fun r => ∃ x, e.record r = some x ∧ x.state = .new
    let isUrgent := fun r => ∃ x, e.record r = some x ∧ x.state = .new ∧ x.urgent = true
    (∀ r, e.nextNew m = some r →
      ∃ before after, e.boxList m = before ++ r :: after ∧
        ((isUrgent r ∧ ∀ q ∈ before, ¬ isUrgent q) ∨ (isNew r ∧ (∀ q ∈ e.boxList m, ¬ isUrgent q) ∧ ∀ q ∈ before, ¬ isNew q))) ∧
    (e.nextNew m = none ↔ ∀ q ∈ e.boxList m, ¬ isNew q)) ∧
  (∀ (e : Engine) (m : Nat) (b : Mailbox) (busyCall : Bool), e.mailbox m = some b →
    let filled := fun g => (e.slot m g).held ≠ none
    (b.fields.active = .absent ∧ filled .absent → e.chooseGreeting m busyCall = some .absent) ∧
    (¬ (b.fields.active = .absent ∧ filled .absent) →
      (busyCall = true ∧ filled .busy → e.chooseGreeting m busyCall = some .busy) ∧
      (¬ (busyCall = true ∧ filled .busy) →
        (filled .standard → e.chooseGreeting m busyCall = some .standard) ∧
        (¬ filled .standard → (filled .name → e.chooseGreeting m busyCall = some .name) ∧ (¬ filled .name → e.chooseGreeting m busyCall = none)))))

/-! ## Lists and deliveries -/

/-- LIST CLEAR empties a list that is not in use and frees its member entries (R155); of a list already empty it asks for no catalogue write, which is the
model's choice (log 43). READ LIST answers with up to 16 members from a position, their number, and where to continue, and changes nothing (R156). -/
def Obligations.ListClearEmptiesAndReadListReads : Prop :=
  ∀ (s : State) (tag : Byte) (ps : List Byte), s.accepting →
    let l := num1 ps 0
    let start := num2 ps 1
    let members := s.eng.listMembers l
    let given := (members.drop start).take 16
    (ps.length = 1 → 64 ≤ l → exec (.listClear tag ps) s = .next (s.withAnswer tag .badField [])) ∧
    (ps.length = 1 → l < 64 → s.eng.listInUse l = true → exec (.listClear tag ps) s = .next (s.withAnswer tag .busy [])) ∧
    (ps.length = 1 → l < 64 → s.eng.listInUse l = false → (s.eng.list l).count = 0 →
      exec (.listClear tag ps) s = .next (s.withAnswer tag .done (be2 0 ++ be2 s.eng.freeEntries))) ∧
    (ps.length = 1 → l < 64 → s.eng.listInUse l = false → (s.eng.list l).count ≠ 0 → ∃ t, exec (.listClear tag ps) s = .next t ∧
      (∀ k, t.eng.list k = if k = l then { first := none, last := none, count := 0 } else s.eng.list k) ∧
      (∀ i, Tab.find? t.eng.tab.members i = if i ∈ (s.eng.listEntries l).map (·.1) then none else Tab.find? s.eng.tab.members i) ∧
      t.answered tag .done (be2 (s.eng.list l).count ++ be2 t.eng.freeEntries) ∧ s.keepsBut [.lists, .members, .outbox, .writes] t) ∧
    (ps.length = 3 → (64 ≤ l ∨ 511 < start) → exec (.readList tag ps) s = .next (s.withAnswer tag .badField [])) ∧
    (ps.length = 3 → l < 64 → start ≤ 511 → exec (.readList tag ps) s = .next (s.withAnswer tag .done
      (be2 (s.eng.list l).count ++ yes1 (s.eng.listInUse l) ++ be2 s.eng.freeEntries ++ be1 given.length ++
        opt2 (if given ≠ [] ∧ start + given.length < members.length then some (start + given.length) else none) ++
        (List.range 16).flatMap (fun i => opt2 given[i]?))))

/-- LIST ADD takes the numbers it gives in order (R154): each is added, already present, or, from the first that finds no room, not processed; the three
counts sum to the numbers given, the list's count grows by those added, and the answer is DONE where none was left and FULL otherwise. In a member area
shared out among the lists (as EveryStepKeepsTheListsWhole says it stays) the members after are those before, followed by the numbers processed that were
not among them, each once, in the order given; the other lists' members stand. -/
def Obligations.ListAddCountsWhatItAdds : Prop :=
  ∀ (s : State) (tag : Byte) (ps : List Byte), s.accepting → ps.length = 34 →
    let l := num1 ps 0
    let n := num1 ps 1
    let ms := (List.range n).map (fun i => num2 ps (2 + 2 * i))
    let legal := l < 64 ∧ 1 ≤ n ∧ n ≤ 16 ∧ ∀ m ∈ ms, m < 4096
    let room := (s.eng.list l).count < 512 ∧ s.eng.tab.members.length < 8192
    (¬ legal → exec (.listAdd tag ps) s = .next (s.withAnswer tag .badField [])) ∧
    (legal → s.eng.listInUse l = true → exec (.listAdd tag ps) s = .next (s.withAnswer tag .busy [])) ∧
    (legal → s.eng.listInUse l = false → ∃ (t : State) (added present left : Nat), exec (.listAdd tag ps) s = .next t ∧ added + present + left = n ∧
      (t.eng.list l).count = (s.eng.list l).count + added ∧ (∀ k, k ≠ l → t.eng.list k = s.eng.list k) ∧
      t.answered tag (if left = 0 then .done else .full)
        (be1 added ++ be1 present ++ be1 left ++ be2 (t.eng.list l).count ++ be2 (8192 - t.eng.tab.members.length)) ∧
      ((∀ m ∈ ms, m ∈ s.eng.listMembers l) → present = n) ∧
      (num2 ps 2 ∉ s.eng.listMembers l → room → 1 ≤ added) ∧
      (num2 ps 2 ∉ s.eng.listMembers l → ¬ room → left = n ∧ t.eng.tab = s.eng.tab) ∧
      (s.eng.membered → let new := ((ms.take (n - left)).filter (fun m => decide (m ∉ s.eng.listMembers l))).eraseDups
        new.length = added ∧ t.eng.listMembers l = s.eng.listMembers l ++ new ∧ ∀ k, k ≠ l → t.eng.listMembers k = s.eng.listMembers k) ∧
      s.keepsBut [.lists, .members, .outbox, .writes] t)

/-- Every step keeps the member area shared out among the lists: each entry in use stands in one list, once, in the order of its nexts, and a list holds at
most 512 mailboxes, each once (R153); but for a reset, it is so where no two lists meet in the catalogue memory (R157). It holds at reset. -/
def Obligations.EveryStepKeepsTheListsWhole : Prop :=
  State.reset.eng.membered ∧
  ∀ s t : State, s.eng.membered → (∀ c ∈ s.pending.head?, resets c = true → s.eng.cat.listsApart) → step s = .next t → t.eng.membered

/-- DELIVER makes its checks in their order, and appends a job with the fields of R158 that pins its source's body (R106, R159); the answer carries the
job's number, its recipients and the jobs ahead. A job over an empty list with none ahead ends at once (R164), and one behind others waits its turn (the
model's choice, log 36). -/
def Obligations.DeliverQueuesAJob : Prop :=
  ∀ (s : State) (tag : Byte) (ps : List Byte), s.accepting → ps.length = 9 →
    let m := num2 ps 0
    let r := num2 ps 2
    let n := num2 ps 5
    let legal := m < 4096 ∧ r < 32768 ∧ ((num1 ps 4 = 0 ∧ n < 64) ∨ (num1 ps 4 = 1 ∧ n < 4096)) ∧ num1 ps 7 ≤ 1 ∧ num1 ps 8 ≤ 1
    (¬ legal → exec (.deliver tag ps) s = .next (s.withAnswer tag .badField [])) ∧
    (legal → (s.eng.mailbox m = none ∨ ∀ x, s.eng.record r = some x → x.mailbox ≠ m) → exec (.deliver tag ps) s = .next (s.withAnswer tag .noSuch [])) ∧
    (legal → s.eng.mailbox m ≠ none → ∀ x, s.eng.record r = some x → x.mailbox = m →
      (x.state = .recording → exec (.deliver tag ps) s = .next (s.withAnswer tag .wrongState [])) ∧
      (x.state ≠ .recording → 4 ≤ s.eng.dle.queue.length → exec (.deliver tag ps) s = .next (s.withAnswer tag .busy [])) ∧
      (x.state ≠ .recording → s.eng.dle.queue.length < 4 → ∃ (t : State) (j : Job), exec (.deliver tag ps) s = .next t ∧
        j.number = s.eng.dle.nextNumber ∧ j.sourceBox = m ∧ j.sourceRecord = r ∧ j.body = x.body ∧ j.extent = s.eng.extent x.body ∧ j.caller = x.caller ∧
        j.target = (if num1 ps 4 = 0 then .list n else .mailbox n) ∧ j.recipients = (if num1 ps 4 = 0 then (s.eng.list n).count else 1) ∧
        j.urgent = decide (num1 ps 7 = 1) ∧ j.skipSource = decide (num1 ps 8 = 1) ∧ j.nextPos = 0 ∧ j.current = none ∧ j.cancel = false ∧
        j.delivered = 0 ∧ j.skips = Skips.zero ∧
        t.eng.dle.nextNumber = (if s.eng.dle.nextNumber = 65535 then 1 else s.eng.dle.nextNumber + 1) ∧
        t.answered tag .done (be2 j.number ++ be2 j.recipients ++ be1 s.eng.dle.queue.length) ∧
        ((0 < j.recipients ∨ s.eng.dle.queue ≠ []) → t.eng.dle.queue = s.eng.dle.queue ++ [j] ∧
          (∀ b, t.eng.hold b = if b = x.body then { s.eng.hold b with pins := (s.eng.hold b).pins + 1 } else s.eng.hold b) ∧
          s.keepsBut [.dle, .holds, .outbox] t) ∧
        (j.recipients = 0 → s.eng.dle.queue = [] → t.eng.dle.queue = [] ∧ t.flagged .deliveryDone)))

/-- CANCEL DELIVERY (R163): a job queued, or running between recipients, ends CANCELLED at once; one writing to a recipient is asked to cancel and stays.
Number 0 is refused BAD_FIELD and a number no job holds NO_SUCH. -/
def Obligations.CancelDeliveryEndsTheJob : Prop :=
  ∀ (s : State) (tag : Byte) (ps : List Byte), s.accepting → ps.length = 2 →
    let n := num2 ps 0
    let others := s.eng.dle.queue.filter (fun j => j.number ≠ n)
    (n = 0 → exec (.cancelDelivery tag ps) s = .next (s.withAnswer tag .badField [])) ∧
    (n ≠ 0 → (∀ j ∈ s.eng.dle.queue, j.number ≠ n) → exec (.cancelDelivery tag ps) s = .next (s.withAnswer tag .noSuch [])) ∧
    (n ≠ 0 → (∃ j ∈ s.eng.dle.queue, j.number = n) → (∀ j ∈ s.eng.dle.queue, j.number = n → j.current = none) →
      ∃ t, exec (.cancelDelivery tag ps) s = .next t ∧ (∀ j ∈ t.eng.dle.queue, j.number ≠ n) ∧ t.flagged .deliveryDone ∧ t.answered tag .done [] ∧
        ((∀ j ∈ s.eng.dle.queue, j.nextPos < j.recipients) → t.eng.dle.queue = others) ∧
        s.keepsBut [.pool, .link, .holds, .dle, .outbox, .flags, .segments, .bodies, .writes] t) ∧
    (n ≠ 0 → ∀ j q, s.eng.dle.queue = j :: q → j.number = n → j.current ≠ none → (∀ i ∈ q, i.number ≠ n) →
      ∃ t, exec (.cancelDelivery tag ps) s = .next t ∧ t.eng.dle.queue = { j with cancel := true } :: q ∧ t.eng.dle.nextNumber = s.eng.dle.nextNumber ∧
        t.answered tag .done [] ∧ s.keepsBut [.dle, .outbox] t)

/-- A running job takes its next recipient and judges it (R160, R161): the first reason that applies skips it and counts, and where none does a copy is
made: a NEW record over the source's body in the lowest free entry, the body shared once more, the recipient's counters and charge moved and its lamp inputs
handed (R127), the recipient current until the copy's writes are complete. (One recipient a command, and the copy's writes one sequence: the model's, logs 23
and 5.) -/
def Obligations.RecipientsAreJudgedInTurn : Prop :=
  ∀ (s : State) (j : Job) (q : List Job) (m : Nat), s.calm → s.eng.ssc.service = .service → s.eng.mgc.restart ≠ .due → s.eng.dle.queue = j :: q →
    j.current = none → j.cancel = false → j.nextPos < j.recipients →
    (j.target = .mailbox m ∨ ∃ l, j.target = .list l ∧ (s.eng.listMembers l)[j.nextPos]? = some m) →
    let box := s.eng.mailbox m
    let c := s.eng.boxClass m
    let k := s.eng.counter m
    let own := m = j.sourceBox ∧ j.skipSource = true
    let off := ∀ b, box = some b → b.fields.enabled = false
    let shut := ∀ b, box = some b → b.fields.accepts = false
    let full := c.maxMessages ≤ k.total
    let overQuota := c.quota < k.charged + j.extent
    let table := 32768 ≤ s.eng.freeRecordNo
    ∃ t, exec .deliveryRecipient s = .next t ∧
      (∀ r, ((r = SkipReason.sourceBox ∧ own) ∨ (r = .disabled ∧ ¬ own ∧ off) ∨ (r = .notAccepting ∧ ¬ own ∧ ¬ off ∧ shut) ∨
          (r = .full ∧ ¬ own ∧ ¬ off ∧ ¬ shut ∧ full) ∨ (r = .quota ∧ ¬ own ∧ ¬ off ∧ ¬ shut ∧ ¬ full ∧ overQuota) ∨
          (r = .tableFull ∧ ¬ own ∧ ¬ off ∧ ¬ shut ∧ ¬ full ∧ ¬ overQuota ∧ table)) →
        (j.nextPos + 1 < j.recipients →
          t = { s with eng := { s.eng with dle := { s.eng.dle with queue := { j with nextPos := j.nextPos + 1, skips := j.skips.add r } :: q } } }) ∧
        (j.nextPos + 1 = j.recipients → t.flagged .deliveryDone ∧ ∀ i ∈ t.eng.dle.queue, i.number ≠ j.number)) ∧
      (¬ own → ¬ off → ¬ shut → ¬ full → ¬ overQuota → ¬ table →
        t.eng.dle.queue = { j with nextPos := j.nextPos + 1, current := some m, delivered := j.delivered + 1 } :: q ∧
        (∃ y, t.eng.record s.eng.freeRecordNo = some y ∧ y.mailbox = m ∧ y.body = j.body ∧ y.state = .new ∧ y.urgent = j.urgent ∧ y.cut = false ∧
          y.arrival = (if s.cal.valid then some (s.cal.dayNumber, s.cal.secondOfDay) else none) ∧ y.caller = j.caller ∧ y.sender = some j.sourceBox ∧
          y.heardDay = none ∧ y.resume = none) ∧
        (∀ x, s.eng.body j.body = some x → t.eng.body j.body = some { x with share := x.share + 1 }) ∧
        t.eng.counter m = { k with new := k.new + 1, urgent := k.urgent + (if j.urgent then 1 else 0), total := k.total + 1, charged := k.charged + j.extent } ∧
        (∃ ws, t.eng.catQueue = s.eng.catQueue ++ [{ writes := ws, after := .copied }]) ∧ s.handsInputs [m] t ∧
        s.keepsBut [.counters, .dle, .lmp, .bodies, .mailboxes, .records, .writes] t)

/-! ## Lamps -/

/-- CLEAR FAULT answers with the fault state and clears a fault LATCHED or in RETRY_WAIT, queueing the address (R182); LAMP STATUS answers with the entry
and changes nothing (R183); a retry that is due makes the address SUSPECT and queues it (R180), and one that is not due does nothing (log 4), nor does one in
FROZEN (log 11). -/
def Obligations.LampOrdersAndRetries : Prop :=
  ∀ (s : State) (tag : Byte) (ps : List Byte) (a : Nat),
    let x := s.eng.lamp a
    let l := s.eng.lmp
    let legal := num1 ps 0 ≤ 15 ∧ num1 ps 1 ≤ 31 ∧ num1 ps 2 ≤ 31
    let named := legal ∧ a = num1 ps 0 * 1024 + num1 ps 1 * 32 + num1 ps 2
    let queue := if x.queued then l.changeQueue else l.changeQueue ++ [a]
    (s.accepting → ps.length = 3 → ¬ legal → exec (.clearFault tag ps) s = .next (s.withAnswer tag .badField []) ∧
      exec (.lampStatus tag ps) s = .next (s.withAnswer tag .badField [])) ∧
    (s.accepting → ps.length = 3 → named → exec (.lampStatus tag ps) s = .next (s.withAnswer tag .done
      (be2 x.refs ++ be2 x.steady ++ be2 x.slow ++ be2 x.fast ++ be1 x.pattern.code ++ opt1 (x.lastSent.map Pattern.code) ++ be1 x.fault.code ++
        opt1 (x.kind.map FaultKind.code) ++ be1 x.confirm ++ opt2 (x.retryDue.map (· - l.seconds)) ++ opt1 (x.reported.map FaultKind.code) ++
        yes1 x.queued ++ be2 l.changeQueue.length ++ be1 (l.awaitingOf a)))) ∧
    (s.accepting → ps.length = 3 → named → (x.refs = 0 ∨ x.fault = .clear ∨ x.fault = .suspect) →
      exec (.clearFault tag ps) s = .next (s.withAnswer tag .done (be1 x.fault.code))) ∧
    (s.accepting → ps.length = 3 → named → 0 < x.refs → (x.fault = .latched ∨ x.fault = .retryWait) → ∃ t, exec (.clearFault tag ps) s = .next t ∧
      (∀ b, t.eng.lamp b = if b = a then { x with fault := .clear, kind := none, confirm := 0, retryDue := none, queued := true } else s.eng.lamp b) ∧
      t.eng.lmp = { l with table := t.eng.lmp.table, changeQueue := queue } ∧ t.answered tag .done (be1 x.fault.code) ∧ s.keepsBut [.lmp, .outbox] t) ∧
    (s.calm → (s.eng.ssc.service = .frozen ∨ x.fault ≠ .retryWait ∨ ∀ d, x.retryDue = some d → l.seconds < d) → exec (.retryDue a) s = .next s) ∧
    (s.calm → s.eng.ssc.service ≠ .frozen → x.fault = .retryWait → ∀ d, x.retryDue = some d → d ≤ l.seconds → ∃ t, exec (.retryDue a) s = .next t ∧
      (∀ b, t.eng.lamp b = if b = a then { x with fault := .suspect, retryDue := none, queued := true } else s.eng.lamp b) ∧
      t.eng.lmp = { l with table := t.eng.lmp.table, changeQueue := queue } ∧ s.keepsBut [.lmp] t)

/-- A mailbox's pattern is the first row of R166's table that applies. -/
def Obligations.LampPatternFollowsItsTable : Prop :=
  ∀ (enabled lampsOn full : Bool) (new urgent : Nat),
    let p := lampPattern enabled lampsOn new urgent full
    ((lampsOn = false ∨ enabled = false) → p = .off) ∧
    (lampsOn = true → enabled = true →
      (0 < new ∧ full = true → p = .fast) ∧
      (¬ (0 < new ∧ full = true) → (0 < urgent → p = .slow) ∧ (urgent = 0 → (0 < new → p = .steady) ∧ (new = 0 → p = .off))))

/-- A cell position sends the head of the change queue, addresses out of service being dropped on the way (R172), or else the next address of the refresh
sweep (R173), or else idle fill; it notes the pattern sent and an awaiting entry (R174), and its four bytes leave in the aligned frames that follow. An
inbound cell is judged against the awaiting entry of its position one superframe before (R175); a restart indication drops every entry and the cells in
progress, and examines the addresses dropped (R176; oldest entry first, log 37). An answer judged a fault counts toward its confirmation (R178), and a
confirmed fault acts by its kind's mode (R179): LATCH takes the address out of service, RETRY for the retry interval, REPORT and IGNORE leave it in
service; a notice is raised by LATCH always, by RETRY and REPORT where the kind was not yet reported, and by IGNORE never. An OK answer clears the address,
and is reported where a fault had been (R177). -/
def Obligations.LampFaultsFollowTheirMode : Prop :=
  (∀ (l : Lmp) (pos : Nat),
    let c := l.choose.1
    let l1 := l.choose.2
    let eligible := fun a => 0 < (l.entry a).refs ∧ (l.entry a).inService = true ∧ (l.entry a).queued = false
    let f := l.superframe + (if pos = 0 then 1 else 0)
    let l2 := l.cellPosition pos
    (∀ before a after, l.changeQueue = before ++ a :: after → (∀ b ∈ before, (l.entry b).inService = false) → (l.entry a).inService = true →
      c = some a ∧ l1 = { l with changeQueue := after, table := l1.table } ∧
      ∀ b, l1.entry b = if b ∈ before ++ [a] then { l.entry b with queued := false } else l.entry b) ∧
    ((∀ b ∈ l.changeQueue, (l.entry b).inService = false) → Tab.risingFrom none l.table = true →
      (∀ b, l1.entry b = if b ∈ l.changeQueue then { l.entry b with queued := false } else l.entry b) ∧
      (c = none → l1 = { l with changeQueue := [], table := l1.table } ∧ ∀ b, ¬ eligible b) ∧
      (∀ a, c = some a → l1 = { l with changeQueue := [], table := l1.table, sweepPointer := a } ∧ eligible a ∧
        ((l.sweepPointer < a ∧ ∀ b, eligible b → l.sweepPointer < b → a ≤ b) ∨ (a ≤ l.sweepPointer ∧ ∀ b, eligible b → b ≤ l.sweepPointer ∧ a ≤ b)))) ∧
    l2 = { l1 with superframe := f, table := l2.table, outCell := l2.outCell,
                   awaiting := l.awaiting ++ [{ position := pos, superframe := f, sent := c.map (fun a => (a, (l.entry a).pattern)) }] } ∧
    l2.outCell = (match c with
      | none => [0xFF, 0xFF, 0xFF, 0xFF]
      | some a => [0x5A, BitVec.ofNat 8 (a / 256), BitVec.ofNat 8 a, BitVec.ofNat 8 (l.entry a).pattern.code]) ∧
    (∀ b, l2.entry b = if c = some b then { l1.entry b with lastSent := some (l.entry b).pattern } else l1.entry b)) ∧
  (∀ (l : Lmp) (n : Nat),
    (n % 4 = 0 → ∃ b bs, (l.cellPosition (n / 4)).outCell = b :: bs ∧ l.outByte n = (b, { l.cellPosition (n / 4) with outCell := bs })) ∧
    (n % 4 ≠ 0 → l.outCell = [] → l.outByte n = (0xFF, l)) ∧
    (n % 4 ≠ 0 → ∀ b bs, l.outCell = b :: bs → l.outByte n = (b, { l with outCell := bs }))) ∧
  (∀ (e : Engine) (pos : Nat) (cell : List Byte), cell.length = 4 →
    let mine := fun w : Awaiting => w.position = pos ∧ w.superframe + 1 = e.lmp.superframe
    ((∀ w ∈ e.lmp.awaiting, ¬ mine w) → e.judge pos cell = e) ∧
    (∀ before w after, e.lmp.awaiting = before ++ w :: after → mine w → (∀ v ∈ before ++ after, ¬ mine v) →
      let e1 : Engine := { e with lmp := { e.lmp with awaiting := before ++ after } }
      (w.sent = none → e.judge pos cell = e1) ∧
      (∀ a p, w.sent = some (a, p) → ((e.lamp a).refs = 0 ∨ (e.lamp a).inService = false) → e.judge pos cell = e1) ∧
      (∀ a p, w.sent = some (a, p) → 0 < (e.lamp a).refs → (e.lamp a).inService = true →
        let answers := cell ≠ [0xFF, 0xFF, 0xFF, 0xFF] ∧ (cell.getD 1 0).toNat * 256 + (cell.getD 2 0).toNat = a
        (answers → cell.getD 3 0 = 0 → e.judge pos cell = e1.lampOk a) ∧
        (answers → cell.getD 3 0 = 1 → e.judge pos cell = e1.lampBad a .openCircuit) ∧
        (answers → cell.getD 3 0 = 2 → e.judge pos cell = e1.lampBad a .short) ∧
        (¬ answers ∨ 2 < (cell.getD 3 0).toNat → e.judge pos cell = e1.lampBad a .noAnswer)))) ∧
  (∀ (e : Engine) (n : Nat) (b : Byte),
    (n % 4 = 0 → e.lampByte n b = { e with lmp := { e.lmp with inCell := some [b] } }) ∧
    (n % 4 ≠ 0 → e.lmp.inCell = none → e.lampByte n b = e) ∧
    (∀ bs, e.lmp.inCell = some bs → ((n % 4 = 1 ∨ n % 4 = 2) → e.lampByte n b = { e with lmp := { e.lmp with inCell := some (bs ++ [b]) } }) ∧
      (n % 4 = 3 → bs.length = 3 → e.lampByte n b = ({ e with lmp := { e.lmp with inCell := none } } : Engine).judge (n / 4) (bs ++ [b])))) ∧
  (∀ l : Lmp,
    let dropped := l.awaiting.filterMap (fun w => w.sent.map (·.1))
    let joins := fun a => (l.entry a).inService && !(l.entry a).queued
    ∃ joined : List Nat, joined.Nodup ∧ joined.Sublist dropped ∧ (∀ a, a ∈ joined ↔ a ∈ dropped ∧ joins a = true) ∧
      l.restart = { l with awaiting := [], outCell := [], inCell := none, superframe := 0, table := l.restart.table,
                           changeQueue := l.changeQueue ++ joined } ∧
      ∀ a, l.restart.entry a = if a ∈ dropped then { l.entry a with lastSent := none, queued := (l.entry a).queued || joins a } else l.entry a) ∧
  (∀ (s : State) (hrx : List Byte) (n : Nat), s.calmFrame hrx → s.hwi.frameNo = some n → s.eng.mgc.outbox = [] → s.eng.slotsIn = [] →
    s.eng.slotsOut = [] → exec (.frame hrx) s = .next
      { s with hwi := { s.hwi with frameBegun := false, htx := [0xFF, 0xFF, (s.eng.lmp.outByte n).1] ++ List.replicate 125 0x00 },
               eng := ({ s.eng with lmp := (s.eng.lmp.outByte n).2 } : Engine).lampByte n (hrx.getD 2 0xFF) }) ∧
  (∀ (e : Engine) (a : Nat) (k : FaultKind),
    let x := e.lamp a
    let count := if x.fault = .clear ∨ x.kind ≠ some k then 1 else min 4 (x.confirm + 1)
    let y := (e.lampBad a k).lamp a
    let mode := match k with | .openCircuit => e.tab.settings.modeOpen | .short => e.tab.settings.modeShort | .noAnswer => e.tab.settings.modeNoAnswer
    let told := (e.lampBad a k).mgc.flags
    let confirmed := e.tab.settings.confirmCount ≤ count
    (∀ b, b ≠ a → (e.lampBad a k).lamp b = e.lamp b) ∧
    (¬ confirmed → y = { x with fault := .suspect, kind := some k, confirm := count } ∧ told = e.mgc.flags) ∧
    (confirmed → mode = .latch → y = { x with fault := .latched, kind := some k, confirm := count, reported := some k } ∧
      told = e.mgc.flags ||| NoticeKind.lampFault.bit) ∧
    (confirmed → mode = .retry → y = { x with fault := .retryWait, kind := some k, confirm := count, retryDue := some (e.lmp.seconds + e.tab.settings.retryInterval), reported := some k } ∧
      told = if x.reported = some k then e.mgc.flags else e.mgc.flags ||| NoticeKind.lampFault.bit) ∧
    (confirmed → mode = .report → y = { x with fault := .clear, kind := none, confirm := 0, reported := some k } ∧
      told = if x.reported = some k then e.mgc.flags else e.mgc.flags ||| NoticeKind.lampFault.bit) ∧
    (confirmed → mode = .ignore → y = { x with fault := .clear, kind := none, confirm := 0 } ∧ told = e.mgc.flags) ∧
    ((e.lampOk a).lamp a = { x with fault := .clear, kind := none, confirm := 0, reported := none } ∧
      (e.lampOk a).mgc.flags = if x.reported = none then e.mgc.flags else e.mgc.flags ||| NoticeKind.lampCleared.bit))

/-! ## Sessions -/

/-- OPEN RECORD makes its checks in their order (R19, R8): the session number, the kind, and the fields its kind has, BAD_FIELD; a session not FREE, BUSY;
the mailbox's number, BAD_FIELD, an unloaded mailbox, NO_SUCH, and a disabled one, WRONG_STATE; for a message the limits, FULL, and the message table, the
body table and the pool reserve, STORE_FULL (R20); for a greeting a slot being recorded into, WRONG_STATE, and the body table, STORE_FULL (R21); a timeslot
that cannot be bound, BAD_FIELD (that a release or urgent byte without meaning comes before BUSY is the model's choice, log 19). Admitted, it creates the body and the record or the staging, binds the timeslots, begins a buffer, and enters CUE or
WAIT_ONSET (R8, R20, R21, R24), or ends STORE_BUSY where no buffer is idle, the take discarded (R24, R26, R27; stated where no buffer of the context
is filling and no program of its own is wanted, as R18 says of a FREE one). Its answer is placed when its catalogue
writes are complete (R100; log 6). -/
def Obligations.OpenRecordStartsATake : Prop :=
  ∀ (s : State) (tag : Byte) (ps : List Byte) (b : Mailbox) (bf : Nat), s.accepting → ps.length = 12 →
    let k := num1 ps 0
    let m := num2 ps 2
    let c := s.eng.boxClass m
    let old := s.eng.session k
    let body := s.eng.freeBody
    let r := s.eng.freeRecordNo
    let urgent := decide (num1 ps 5 = 1)
    let free := fun (t : Tab Nat) (n : Nat) => 3 ≤ n ∧ n ≤ 127 ∧ Tab.find? t n = none
    let isMessage := num1 ps 1 = 0
    let fields := k < 48 ∧ num1 ps 1 ≤ 1 ∧ num1 ps 11 ≤ 1 ∧
      (isMessage → num1 ps 5 ≤ 1 ∧ (num3 ps 6 = 0xFFFFFF ∨ num3 ps 6 ≤ 9999999)) ∧ (num1 ps 1 = 1 → num1 ps 4 ≤ 3)
    let named := fields ∧ old.state = .free ∧ m < 4096 ∧ s.eng.mailbox m = some b
    let limits := (s.eng.counter m).total < c.maxMessages ∧ (s.eng.counter m).charged < c.quota
    let room := r < 32768 ∧ body < 65536 ∧ s.eng.tab.settings.poolReserve ≤ s.eng.available
    let bindable := free s.eng.slotsIn (num1 ps 9) ∧ (num1 ps 10 = 0xFF ∨ free s.eng.slotsOut (num1 ps 10))
    let enabled := named ∧ b.fields.enabled = true
    let message := enabled ∧ isMessage ∧ limits ∧ room
    let greeting := fun g : GreetingKind => enabled ∧ num1 ps 1 = 1 ∧ num1 ps 4 = g.code ∧ (s.eng.slot m g).staged = none ∧ body < 65536
    let refused := fun r : Result => exec (.openRecord tag ps) s = .next (s.withAnswer tag r [])
    let outbound : Option Nat := if num1 ps 10 = 0xFF then none else some (num1 ps 10)
    let opened := fun (x : Session) => x.state = (if outbound ≠ none ∧ 0 < s.eng.tab.settings.cueLength then .cue else .waitOnset) ∧ x.mailbox = m ∧
      x.body = some body ∧ x.inSlot = some (num1 ps 9) ∧ x.outSlot = outbound ∧ x.cursor = 0 ∧ x.windows = 0 ∧ x.meter = some Meter.start ∧
      x.cueLength = s.eng.tab.settings.cueLength ∧ x.releaseOnReport = decide (num1 ps 11 = 1) ∧ x.closing = false ∧ x.lossTimer = 0 ∧
      x.trim = none ∧ x.discarded = false ∧ x.buf bf = { old.buf bf with role := .filling, holds := 0 }
    let waiting := fun (data : List Byte) (t : State) => t.eng.mgc.handling = true ∧
      ∃ ws, t.eng.catQueue = s.eng.catQueue ++ [{ writes := ws, after := .answer (answerPacket tag .done data) }]
    let answer := fun (data : List Byte) (t : State) => t.eng.mgc = { s.eng.mgc with handling := true } ∧ waiting data t
    let busy := fun (t : State) => (num1 ps 11 = 0 → (t.eng.session k).state = .ended ∧ (t.eng.session k).outcome = some .storeBusy ∧
        (t.eng.session k).target = .none ∧ (t.eng.session k).inSlot = none ∧ (t.eng.session k).outSlot = none ∧
        (t.eng.session k).buf0 = old.buf0 ∧ (t.eng.session k).buf1 = old.buf1) ∧
      t.flagged .sessionEnd ∧ t.eng.body body = none ∧ (∀ n, t.eng.counter n = s.eng.counter n)
    let quit := old.bufWith .filling = none ∧ (∀ q ∈ s.eng.ssc.progQueue, q.session ≠ k) ∧ s.eng.programInFlight k (fun _ => true) = false
    let bound := fun t : State => (∀ n, Tab.find? t.eng.slotsIn n = if n = num1 ps 9 then some k else Tab.find? s.eng.slotsIn n) ∧
      (∀ n, Tab.find? t.eng.slotsOut n = if outbound = some n then some k else Tab.find? s.eng.slotsOut n)
    (¬ fields → refused .badField) ∧
    (fields → old.state ≠ .free → refused .busy) ∧
    (fields → old.state = .free → 4096 ≤ m → refused .badField) ∧
    (fields → old.state = .free → m < 4096 → s.eng.mailbox m = none → refused .noSuch) ∧
    (named → b.fields.enabled = false → refused .wrongState) ∧
    (enabled → isMessage → ¬ limits → refused .full) ∧
    (enabled → isMessage → limits → ¬ room → refused .storeFull) ∧
    (enabled → ∀ g : GreetingKind, num1 ps 1 = 1 → num1 ps 4 = g.code → ((s.eng.slot m g).staged ≠ none → refused .wrongState) ∧
      ((s.eng.slot m g).staged = none → 65536 ≤ body → refused .storeFull)) ∧
    ((message ∨ ∃ g, greeting g) → ¬ bindable → refused .badField) ∧
    (message → bindable → old.bufWith .idle = some bf → ∃ t, exec (.openRecord tag ps) s = .next t ∧ opened (t.eng.session k) ∧ (t.eng.session k).kind = some .recordMessage ∧
      (t.eng.session k).target = .record r ∧ (t.eng.session k).snap = some (c.snapshot false) ∧ bound t ∧
      t.eng.body body = some Body.fresh ∧ t.eng.hold body = { begun := 1, pins := 0, readers := 0 } ∧
      (∃ y, t.eng.record r = some y ∧ y.mailbox = m ∧ y.body = body ∧ y.state = .recording ∧ y.urgent = urgent ∧
        y.caller = (if num3 ps 6 = 0xFFFFFF then none else some (num3 ps 6)) ∧ y.sender = none ∧
        y.arrival = (if s.cal.valid then some (s.cal.dayNumber, s.cal.secondOfDay) else none)) ∧
      t.eng.counter m = { s.eng.counter m with recording := (s.eng.counter m).recording + 1, total := (s.eng.counter m).total + 1, charged := (s.eng.counter m).charged + 1 } ∧
      s.handsInputs [m] t ∧ answer (be2 r ++ be3 body) t ∧
      s.keepsBut [.slots, .sessions, .holds, .counters, .lmp, .channel, .bodies, .mailboxes, .records, .writes] t) ∧
    (∀ g, greeting g → bindable → old.bufWith .idle = some bf → ∃ t, exec (.openRecord tag ps) s = .next t ∧ opened (t.eng.session k) ∧
      (t.eng.session k).kind = some .recordGreeting ∧ (t.eng.session k).target = .slot g ∧ (t.eng.session k).snap = some (c.snapshot true) ∧ bound t ∧
      t.eng.body body = some Body.fresh ∧ t.eng.hold body = { begun := 1, pins := 0, readers := 0 } ∧
      t.eng.slot m g = { s.eng.slot m g with staged := some body } ∧ (∀ n h, (n ≠ m ∨ h ≠ g) → t.eng.slot n h = s.eng.slot n h) ∧
      answer ([0xFF, 0xFF] ++ be3 body) t ∧ s.keepsBut [.slots, .sessions, .holds, .channel, .bodies, .greetings, .writes] t) ∧
    (message → bindable → old.bufWith .idle = none → quit → ∃ t, exec (.openRecord tag ps) s = .next t ∧ busy t ∧ t.eng.record r = none ∧
      waiting (be2 r ++ be3 body) t ∧
      s.keepsBut [.slots, .sessions, .holds, .counters, .lmp, .channel, .outbox, .flags, .bodies, .mailboxes, .records, .writes] t) ∧
    (∀ g, greeting g → bindable → old.bufWith .idle = none → quit → ∃ t, exec (.openRecord tag ps) s = .next t ∧ busy t ∧ t.eng.slot m g = s.eng.slot m g ∧
      waiting ([0xFF, 0xFF] ++ be3 body) t ∧
      s.keepsBut [.slots, .sessions, .holds, .channel, .outbox, .flags, .bodies, .greetings, .writes] t)

/-- OPEN PLAY makes its checks in their order (R19, R22): the numbers and codes BAD_FIELD, a session not FREE BUSY, the mailbox's number BAD_FIELD, an
unloaded mailbox NO_SUCH, the refusals of its target kind, and a timeslot that cannot be bound BAD_FIELD (that an unknown start or release code comes
before BUSY, and the detail of the target after NO_SUCH, is the model's choice, log 19). It resolves its target: a record, a greeting slot, the greeting
chosen (R148) or the message chosen (R136); the session opens FETCHING at 0, or at the record's resume position, the body gains a reader, and what the
session fetches is asked for (R22, R30; into buffer 0 first, the model's choice, log 15). PAUSE holds a playing and RESUME lets it go on (R38). SEEK moves
its cursor by a clamped delta, leaves its buffers, fetches what it wants there, and answers with the cursor and whether anything was clamped (R39, R30); at
the end of the body it ends FINISHED, its target record played to its end (R34, R132; the answer's cursor there is the count, log 17). -/
def Obligations.OpenPlayAndItsOrdersMoveThePlaying : Prop :=
  ∀ (s : State) (tag : Byte) (ps : List Byte), s.accepting →
    (ps.length = 9 →
      let k := num1 ps 0
      let m := num2 ps 1
      let n := num2 ps 4
      let out := num1 ps 7
      let old := s.eng.session k
      let refused := fun r : Result => exec (.openPlay tag ps) s = .next (s.withAnswer tag r [])
      let fields := k < 48 ∧ num1 ps 3 ≤ 3 ∧ num1 ps 6 ≤ 1 ∧ num1 ps 8 ≤ 1
      let loaded := fields ∧ old.state = .free ∧ m < 4096 ∧ s.eng.mailbox m ≠ none
      let names := fun (target : Target) (body : Nat) g => target = .slot g ∧ (s.eng.slot m g).held = some body
      let resolved := fun (target : Target) (body : Nat) =>
        (num1 ps 3 = 0 ∧ n < 32768 ∧ target = .record n ∧ ∃ x, s.eng.record n = some x ∧ x.mailbox = m ∧ x.state ≠ .recording ∧ x.body = body) ∨
        (∃ g : GreetingKind, num1 ps 3 = 1 ∧ n = g.code ∧ names target body g) ∨
        (∃ g, num1 ps 3 = 2 ∧ n ≤ 1 ∧ s.eng.chooseGreeting m (n = 0) = some g ∧ names target body g) ∨
        (∃ r x, num1 ps 3 = 3 ∧ s.eng.nextNew m = some r ∧ target = .record r ∧ s.eng.record r = some x ∧ x.body = body)
      (¬ fields → refused .badField) ∧
      (fields → old.state ≠ .free → refused .busy) ∧
      (fields → old.state = .free → 4096 ≤ m → refused .badField) ∧
      (fields → old.state = .free → m < 4096 → s.eng.mailbox m = none → refused .noSuch) ∧
      (loaded → num1 ps 3 = 0 → (32768 ≤ n → refused .badField) ∧
        (n < 32768 → (∀ x, s.eng.record n = some x → x.mailbox ≠ m) → refused .noSuch) ∧
        (n < 32768 → ∀ x, s.eng.record n = some x → x.mailbox = m → x.state = .recording → refused .wrongState)) ∧
      (loaded → num1 ps 3 = 1 → (3 < n → refused .badField) ∧ (∀ g : GreetingKind, n = g.code → (s.eng.slot m g).held = none → refused .noSuch)) ∧
      (loaded → num1 ps 3 = 2 → (1 < n → refused .badField) ∧ (n ≤ 1 → s.eng.chooseGreeting m (n = 0) = none → refused .noSuch)) ∧
      (loaded → num1 ps 3 = 3 → s.eng.nextNew m = none → refused .noSuch) ∧
      (∀ target body, loaded → resolved target body →
        let cursor := match target with | .record r => if num1 ps 6 = 1 then ((s.eng.record r).bind (·.resume)).getD 0 else 0 | _ => 0
        let bindable := 3 ≤ out ∧ out ≤ 127 ∧ Tab.find? s.eng.slotsOut out = none
        (¬ bindable → refused .badField) ∧
        (bindable → ∃ t, exec (.openPlay tag ps) s = .next t ∧
          s.fetchesAs t k { Session.freeWith old.buf0 old.buf1 with
            kind := some .play, state := .fetching, outSlot := some out, mailbox := m, target := target, body := some body, cursor := cursor,
            releaseOnReport := decide (num1 ps 8 = 1) } s.eng.ssc.readQueue ∧
          (∀ j, j ≠ k → t.eng.session j = s.eng.session j) ∧
          (∀ i, Tab.find? t.eng.slotsOut i = if i = out then some k else Tab.find? s.eng.slotsOut i) ∧ t.eng.slotsIn = s.eng.slotsIn ∧
          (∀ i, t.eng.hold i = if i = body then { s.eng.hold i with readers := (s.eng.hold i).readers + 1 } else s.eng.hold i) ∧
          t.answered tag .done (opt2 target.number ++ be3 (s.eng.sampleCount body) ++ be2 (s.eng.bodyTenths body) ++ be3 cursor) ∧
          s.keepsBut [.slots, .sessions, .storeQueues, .link, .holds, .outbox] t))) ∧
    (let k := num1 ps 0
    let x := s.eng.session k
    let playing := k < 48 ∧ x.state.playLive = true
    let given := if num2 ps 1 < 32768 then (num2 ps 1 : Int) else (num2 ps 1 : Int) - 65536
    let delta := max (-6000) (min 6000 given)
    let count := s.eng.sampleCount x.bodyNo
    let want := (x.cursor : Int) + 800 * delta
    let cursor := (max 0 (min (count : Int) want)).toNat
    let data := be3 cursor ++ yes1 (decide (delta ≠ given)) ++ yes1 (decide (want < 0 ∨ (count : Int) < want))
    (ps.length = 1 → playing → x.state = .paused → exec (.pause tag ps) s = .next (s.withAnswer tag .done [])) ∧
    (ps.length = 1 → playing → x.state ≠ .paused → exec (.resume tag ps) s = .next (s.withAnswer tag .done [])) ∧
    (ps.length = 1 → playing → x.state ≠ .paused → ∃ t, exec (.pause tag ps) s = .next t ∧
      (∀ j, t.eng.session j = if j = k then { x with state := .paused, pausedFrom := some x.state } else s.eng.session j) ∧
      t.answered tag .done [] ∧ s.keepsBut [.sessions, .outbox] t) ∧
    (ps.length = 1 → playing → x.state = .paused → ∃ t, exec (.resume tag ps) s = .next t ∧
      (∀ j, j ≠ k → t.eng.session j = s.eng.session j) ∧ t.eng.session k = { x with state := (t.eng.session k).state, pausedFrom := none } ∧
      ((x.bufWith .playing).isSome = true → (t.eng.session k).state = .playing) ∧
      (x.bufWith .playing = none → x.pausedFrom = some .fetching → (t.eng.session k).state = .fetching) ∧
      (x.bufWith .playing = none → x.pausedFrom ≠ some .fetching → (t.eng.session k).state = .stalled) ∧
      t.answered tag .done [] ∧ s.keepsBut [.sessions, .outbox] t) ∧
    (ps.length = 3 → playing → cursor ≠ count → ∃ t, exec (.seek tag ps) s = .next t ∧
      s.fetchesAs t k { x with
        cursor := cursor, state := if x.state = .paused then .paused else .fetching,
        pausedFrom := if x.state = .paused then some .fetching else x.pausedFrom, buf0 := s.eng.bufferLeft k 0, buf1 := s.eng.bufferLeft k 1 }
        (s.eng.ssc.readQueue.filter (fun r => r.session ≠ k)) ∧
      (∀ j, j ≠ k → t.eng.session j = s.eng.session j) ∧ t.answered tag .done data ∧ s.keepsBut [.sessions, .storeQueues, .link, .outbox] t) ∧
    (ps.length = 3 → playing → cursor = count → ∃ t, exec (.seek tag ps) s = .next t ∧
      s.eng.endsAs t.eng k { x with
        state := .ended, outcome := some .finished, endCause := none, cursor := count, inSlot := none, outSlot := none, buf0 := s.eng.bufferLeft k 0,
        buf1 := s.eng.bufferLeft k 1 } ∧ s.eng.unbinds t.eng k ∧ (∀ j, j ≠ k → t.eng.session j = s.eng.session j) ∧
      (∀ r y, x.target = .record r → s.eng.record r = some y → ∀ q, t.eng.record q = if q = r then some (y.playedToEnd s.now) else s.eng.record q) ∧
      t.answered tag .done data ∧ s.keepsBut [.slots, .sessions, .pool, .storeQueues, .link, .holds, .counters, .lmp, .outbox,
        .flags, .segments, .bodies, .records, .writes] t))

/-- The session orders refuse a number above 47 BAD_FIELD and a FREE session NO_SUCH, but SESSION STATUS, which reports it; PAUSE, RESUME and SEEK refuse a
session that is not playing WRONG_STATE; and an ENDED session takes STOP and CANCEL without effect (R35 to R41). SESSION STATUS reports an ENDED session
and frees it under release-on-report (R41; the body and mailbox it still shows there, and 0 for a FREE one, are log 18). -/
def Obligations.SessionOrdersRefuseByState : Prop :=
  ∀ (s : State) (tag : Byte) (ps : List Byte) (c : Instr), s.accepting →
    let k := num1 ps 0
    let st := (s.eng.session k).state
    let plain := c = .stop tag ps ∨ c = .cancel tag ps ∨ c = .close tag ps
    let moving := c = .pause tag ps ∨ c = .resume tag ps
    (((plain ∨ moving) ∧ ps.length = 1) ∨ (c = .seek tag ps ∧ ps.length = 3) →
      (48 ≤ k → exec c s = .next (s.withAnswer tag .badField [])) ∧ (k < 48 → st = .free → exec c s = .next (s.withAnswer tag .noSuch []))) ∧
    ((moving ∧ ps.length = 1) ∨ (c = .seek tag ps ∧ ps.length = 3) → k < 48 → st ≠ .free → st.playLive = false →
      exec c s = .next (s.withAnswer tag .wrongState [])) ∧
    ((c = .stop tag ps ∨ c = .cancel tag ps) → ps.length = 1 → k < 48 → st = .ended → exec c s = .next (s.withAnswer tag .done [])) ∧
    (c = .stop tag ps → ps.length = 1 → k < 48 → st = .draining → exec c s = .next (s.withAnswer tag .done [])) ∧
    (c = .sessionStatus tag ps → ps.length = 1 → 48 ≤ k → exec c s = .next (s.withAnswer tag .badField [])) ∧
    (c = .sessionStatus tag ps → ps.length = 1 → k < 48 → (st ≠ .ended ∨ (s.eng.session k).releaseOnReport = false) →
      exec c s = .next (s.withAnswer tag .done (s.eng.session k).statusBytes)) ∧
    (c = .sessionStatus tag ps → ps.length = 1 → k < 48 → st = .ended → (s.eng.session k).releaseOnReport = true →
      ∃ t, exec c s = .next t ∧ (t.eng.session k).state = .free ∧ (∀ j, j ≠ k → t.eng.session j = s.eng.session j) ∧
        t.answered tag .done (s.eng.session k).statusBytes ∧ s.keepsBut [.slots, .sessions, .outbox] t)

/-- STOP, CANCEL and CLOSE end a playing STOPPED (R34, R36, R37, R40), and the loss timer reaching 2 s ends it SLOT_LOST (R43): its reads are withdrawn,
its bindings released, its target record resumes at the cursor where that lies inside the body, and its body loses a reader and, where nothing else holds
it, is released (R107, R108). It ends as R42 and R40 say: reported, and FREE under release-on-report where the notice was placed, or FREE at once and
unreported by CLOSE. CLOSE of an ENDED session frees it; a session that runs no loss timer is not lost (log 4; the loss comes by command, log 2). -/
def Obligations.PlayingsEndStoppedOrLost : Prop :=
  ∀ (s : State) (tag : Byte) (ps : List Byte) (c : Instr) (k : Nat),
    let x := s.eng.session k
    let ordered := s.accepting ∧ ps.length = 1 ∧ k = num1 ps 0 ∧ k < 48
    let parts := [Part.slots, .sessions, .pool, .storeQueues, .link, .holds, .outbox, .flags, .segments, .bodies, .records, .writes]
    (∀ (o : Cause) (x' : Session),
      (ordered ∧ (c = .stop tag ps ∨ c = .cancel tag ps) ∧ o = .stopped ∧ x' = x) ∨ (ordered ∧ c = .close tag ps ∧ o = .stopped ∧ x' = { x with closing := true }) ∨
        (s.calm ∧ c = .lossTimerExpiry k ∧ o = .slotLost ∧ x' = { x with lossTimer := 16000000 }) →
      x.state.playLive = true → ∃ t, exec c s = .next t ∧
      s.eng.endsAs t.eng k { x' with
        state := .ended, outcome := some o, endCause := none, inSlot := none, outSlot := none, buf0 := s.eng.bufferLeft k 0, buf1 := s.eng.bufferLeft k 1 } ∧
      (∀ j, j ≠ k → t.eng.session j = s.eng.session j) ∧ s.eng.unbinds t.eng k ∧
      t.eng.ssc.readQueue = s.eng.ssc.readQueue.filter (fun r => r.session ≠ k) ∧
      (∀ r y, x.target = .record r → s.eng.record r = some y → ∀ q, t.eng.record q =
        if q = r ∧ 0 < x.cursor ∧ x.cursor < s.eng.sampleCount x.bodyNo then some { y with resume := some x.cursor } else s.eng.record q) ∧
      ((∀ r, x.target ≠ .record r) → s.samePart t .records) ∧
      (∀ b, s.eng.body x.bodyNo = some b →
        let held := s.eng.hold x.bodyNo
        (b.share = 0 ∧ held.pins = 0 ∧ held.readers ≤ 1 ∧ s.eng.ssc.service ≠ .frozen → s.eng.releases t.eng x.bodyNo) ∧
        (b.share ≠ 0 ∨ held.pins ≠ 0 ∨ 1 < held.readers → t.eng.hold x.bodyNo = { held with readers := held.readers - 1 } ∧ s.samePart t .bodies ∧
          s.samePart t .segments)) ∧
      (o = .stopped → t.answered tag .done []) ∧ s.keepsBut parts t) ∧
    (ordered → c = .close tag ps → x.state = .ended → ∃ t, exec c s = .next t ∧ t.eng.session k = Session.freeWith x.buf0.freed x.buf1.freed ∧
      (∀ j, j ≠ k → t.eng.session j = s.eng.session j) ∧ s.eng.unbinds t.eng k ∧ t.answered tag .done [] ∧ s.keepsBut [.slots, .sessions, .outbox] t) ∧
    (s.calm → x.state.recordLive = false → x.state.playLive = false → exec (.lossTimerExpiry k) s = .next s)

/-- STOP and CLOSE end a take, and the loss timer reaching 2 s ends it SLOT_LOST (R26, R36, R40, R43): without an onset it is discarded, NO_SPEECH or
SLOT_LOST; below the class's least length it is discarded TOO_SHORT; otherwise it is trimmed by the STOP rule, and drains, or is sealed at once where every
kept segment is DATA (R26 to R29, R60 to R66). CANCEL discards a take, one that drains too (R37), and CLOSE of one that drains marks it closing (R40). A take
ends as R42 and R40 say: reported, and FREE under release-on-report where the notice was placed, or FREE and unreported where it closes. (The loss comes by
command, log 2, a window that is due being closed before, log 9; a cut's writes, next before body, one sequence, log 5.) -/
def Obligations.StopsEndTakes : Prop :=
  ∀ (s : State) (tag : Byte) (ps : List Byte) (k : Nat),
    let x := s.eng.session k
    let ordered := s.accepting ∧ ps.length = 1 ∧ k = num1 ps 0 ∧ k < 48
    let rest := fun t : State => (∀ j, j ≠ k → ∃ g, t.eng.session j = { s.eng.session j with target := g }) ∧
      s.keepsBut [.slots, .sessions, .pool, .storeQueues, .link, .holds, .counters, .lmp, .outbox, .flags, .segments, .bodies, .mailboxes, .records,
        .greetings, .writes] t
    (∀ (c : Instr) (cause : Cause) (x' : Session),
      (ordered ∧ c = .stop tag ps ∧ cause = .stopped ∧ x' = x) ∨ (ordered ∧ c = .close tag ps ∧ cause = .stopped ∧ x' = { x with closing := true }) ∨
        (s.calm ∧ c = .lossTimerExpiry k ∧ cause = .slotLost ∧ x.windowDue = false ∧ x' = { x with lossTimer := 16000000 }) →
      x.state.recordLive = true → ∃ t, exec c s = .next t ∧ (s.eng.setSession k x').endsTake t.eng k cause ∧
        (cause = .stopped → t.answered tag .done []) ∧ rest t) ∧
    (ordered → (x.state.recordLive = true ∨ x.state = .draining) → ∃ t, exec (.cancel tag ps) s = .next t ∧ s.eng.dropsTake t.eng k .cancelled x.trim ∧
      t.answered tag .done [] ∧ rest t) ∧
    (ordered → x.state = .draining → ∃ t, exec (.close tag ps) s = .next t ∧ t.eng.session k = { x with closing := true } ∧
      (∀ j, j ≠ k → t.eng.session j = s.eng.session j) ∧ t.answered tag .done [] ∧ s.keepsBut [.sessions, .outbox] t)

/-- What each step of the store check finds and repairs. The map is formatted, extended or cut (R89, R91; on a cut the chains are those before it, log 13).
The walk builds the free list and the erase queue by index, an ALLOCATED segment becoming DIRTY, follows every body's chain from DATA segment to DATA
segment, makes the DATA segments no chain reaches DIRTY at the queue's tail (R92; in rising index, log 15), and rewrites an OPEN body's ends and count
(R112; a segment linked and not yet counted is reached and kept, log 44; a first that is not reached becomes absent, log 33). A distribution list keeps the
members its walk meets, one that keeps none losing its first too (log 33), and an entry no list keeps becomes free (R157). A mailbox's list keeps the records its walk
meets, and takes the others that name the mailbox in rising number (R139; a walk that comes back to a record it has kept stops, and one that keeps none
leaves the head absent, log 33). Extents, counters and charges are counted anew (R93). A recording cut short is kept, its record NEW with the cut flag, or
its record is freed, and a body already sealed gives its record without the flag (R94, R112; log 32). Stagings go (R151), share counts are those of the
holders (R112), and a body without a share is released (R95). -/
def Obligations.StoreCheckStepsRepairTheTables : Prop :=
  (∀ (e : Engine) (c : Nat),
    let g := e.fitMap c
    let chained := fun i => ∃ b ∈ e.bodiesInUse, i ∈ e.reached b
    g = { e with tab := g.tab, asked := g.asked } ∧
    (e.tab.signature = none → g.tab = { Catalogue.blank with signature := some c }) ∧
    (∀ n, e.tab.signature = some n → n ≤ c → g.tab = { e.tab with signature := some c }) ∧
    (∀ n, e.tab.signature = some n → c < n →
      g.tab = { e.tab with signature := some c, segments := g.tab.segments, bodies := [], records := [], slots := [], mailboxes := g.tab.mailboxes } ∧
      (∀ m, g.mailbox m = (e.mailbox m).map (fun b => { b with head := none, tail := none })) ∧
      (∀ i, (c * 262144 ≤ i → g.segment i = SegEntry.blank) ∧
        (i < c * 262144 → chained i → g.segment i = { e.segment i with state := .dirty, body := none, next := none }) ∧
        (i < c * 262144 → ¬ chained i → g.segment i = e.segment i)))) ∧
  (∀ (e : Engine) (b : Nat) (x : Body), e.body b = some x →
    let c := e.reached b
    let named := fun i => (e.segment i).state = .data ∧ (e.segment i).body = some b
    (∀ i ∈ c, named i) ∧ (c ≠ [] → c.head? = x.first) ∧ (c = [] → ∀ i, x.first = some i → ¬ named i) ∧
    (∀ before i j after, c = before ++ i :: j :: after → (e.segment i).next = some j) ∧
    (∀ i j, c.Nodup → c.getLast? = some i → (e.segment i).next = some j → named j → j ∈ c)) ∧
  (∀ e : Engine, e.ssc.service = .starting → Tab.risingFrom none e.tab.segments = true →
    let g := e.walk
    let state := fun i => (e.segment i).state
    let chained := fun i => e.bodiesInUse.any (fun b => (e.reached b).contains i)
    let keys := e.tab.segments.map (·.1)
    g = { e with tab := { e.tab with segments := g.tab.segments, bodies := g.tab.bodies }, asked := g.asked,
                 ssc := { e.ssc with freeList := g.ssc.freeList, eraseQueue := g.ssc.eraseQueue } } ∧
    (∀ i, g.segment i = if state i = .allocated ∨ (state i = .data ∧ chained i = false) then
      { e.segment i with state := .dirty, body := none, next := none } else e.segment i) ∧
    g.ssc.freeList = keys.filter (fun i => state i = .erased) ∧
    ((∀ i ∈ keys, i < e.segmentTotal) → Run.segments g.ssc.eraseQueue =
      (List.range e.segmentTotal).filter (fun i => state i = .dirty || state i = .allocated) ++ keys.filter (fun i => state i = .data && !chained i)) ∧
    (∀ b, g.body b = (e.body b).map (fun x => if x.sealed then x else
      { x with first := (e.reached b).head?, last := (e.reached b).getLast?, count := (e.reached b).length }))) ∧
  (∀ e : Engine,
    let g := e.repairLists
    let member := fun i => Tab.find? e.tab.members i
    g = { e with tab := { e.tab with lists := g.tab.lists, members := g.tab.members }, asked := g.asked } ∧
    (∀ l, let w := e.walkList l
      g.list l = { first := (w.map (·.1)).head?, last := (w.map (·.1)).getLast?, count := w.length } ∧
      w.length ≤ 512 ∧ (w.map (·.2)).Nodup ∧ (∀ p ∈ w, ∃ v, member p.1 = some v ∧ v.mailbox = p.2) ∧
      (w ≠ [] → (w.map (·.1)).head? = (e.list l).first) ∧ (w = [] → ∀ i, (e.list l).first = some i → member i = none) ∧
      (∀ before p q after, w = before ++ p :: q :: after → ∃ v, member p.1 = some v ∧ v.next = some q.1) ∧
      (∀ p v j u, w.length < 512 → w.getLast? = some p → member p.1 = some v → v.next = some j → member j = some u → u.mailbox ∈ w.map (·.2))) ∧
    (∀ i, ((∃ l, i ∈ (e.walkList l).map (·.1)) → Tab.find? g.tab.members i = member i) ∧
      ((∀ l, i ∉ (e.walkList l).map (·.1)) → Tab.find? g.tab.members i = none))) ∧
  (∀ (e : Engine) (m : Nat) (b : Mailbox), Tab.risingFrom none e.tab.records = true → e.mailbox m = some b →
    let g := e.repairBox m
    ∃ (kept rest : List Nat) (b' : Mailbox), (kept ++ rest).Nodup ∧ (∀ r, r ∈ kept ++ rest ↔ e.recordOf m r) ∧ rest.Pairwise (· < ·) ∧
      g.mailbox m = some b' ∧ b'.fields = b.fields ∧ g.linkedAs b' (kept ++ rest) ∧
      (kept ≠ [] → kept.head? = b.head) ∧ (kept = [] → ∀ r, b.head = some r → ¬ e.recordOf m r) ∧
      (∀ before r q after, kept = before ++ r :: q :: after → ∃ y, e.record r = some y ∧ y.next = some q) ∧
      (∀ r y q, kept.getLast? = some r → e.record r = some y → y.next = some q → e.recordOf m q → q ∈ kept) ∧
      (∀ r, (g.record r).map (fun y => { y with prev := none, next := none }) = (e.record r).map (fun y => { y with prev := none, next := none })) ∧
      (∀ r, ¬ e.recordOf m r → g.record r = e.record r) ∧ (∀ n, n ≠ m → g.mailbox n = e.mailbox n) ∧
      g = { e with tab := { e.tab with records := g.tab.records, mailboxes := g.tab.mailboxes }, asked := g.asked }) ∧
  (∀ e : Engine, Tab.risingFrom none e.tab.bodies = true → e.counters = [] →
    let g := e.openExtents.recount
    (∀ b x, e.body b = some x → g.extent b = x.count) ∧
    (∀ m, g.counter m =
      { new := e.tally m (fun x => decide (x.state = .new)), urgent := e.tally m (fun x => decide (x.state = .new) && x.urgent),
        heard := e.tally m (fun x => decide (x.state = .heard)), saved := e.tally m (fun x => decide (x.state = .saved)),
        recording := e.tally m (fun x => decide (x.state = .recording)), total := e.tally m (fun _ => true),
        charged := ((e.tab.records.filter (fun x => decide (x.2.mailbox = m))).map (fun x => g.extent x.2.body)).sum }) ∧
    g = { e with holds := g.holds, counters := g.counters }) ∧
  (∀ (e : Engine) (b : Nat) (x : Body), Tab.risingFrom none e.tab.records = true → e.body b = some x →
    let g := e.reconcile b
    ((∀ r y, e.record r = some y → y.body = b → y.state ≠ .recording) → g = e) ∧
    (∀ r y, e.record r = some y → y.body = b → y.state = .recording →
      (∀ q z, e.record q = some z → z.body = b → z.state = .recording → q = r) →
      let keeps := 1 ≤ x.count ∧ (e.boxClass y.mailbox).minMessage * 800 ≤ x.count * 2048
      let passed := fun cut : Bool => (∀ q, g.record q = if q = r then some { y with state := .new, cut := cut } else e.record q) ∧
        (∀ n, g.counter n = if n = y.mailbox then (e.counter n).pass .recording .new y.urgent else e.counter n)
      (x.sealed = true → passed false ∧ g.tab.bodies = e.tab.bodies ∧ g.ssc = e.ssc) ∧
      (x.sealed = false → keeps → passed true ∧
        (∀ a, g.body a = if a = b then some { x with sealed := true, offset := some 0, samples := some (x.count * 2048) } else e.body a) ∧
        g.ssc = { e.ssc with start := e.ssc.start.map (fun p => { p with keptCut := p.keptCut + 1 }) }) ∧
      (x.sealed = false → ¬ keeps → g.record r = none ∧
        (∀ n, g.counter n = if n = y.mailbox then
          { (e.counter n).leave .recording y.urgent with charged := (e.counter n).charged - e.extent b } else e.counter n) ∧
        (∀ a, g.body a = if a = b then some { x with share := x.share - 1 } else e.body a) ∧
        g.ssc = { e.ssc with start := e.ssc.start.map (fun p => { p with recordsReleased := p.recordsReleased + 1 }) }))) ∧
  (∀ e : Engine, Tab.risingFrom none e.tab.slots = true →
    e.clearStagings = { e with tab := { e.tab with slots := e.clearStagings.tab.slots }, asked := e.clearStagings.asked } ∧
    ∀ m g, e.clearStagings.slot m g = { e.slot m g with staged := none }) ∧
  (∀ (e : Engine) (b : Nat) (x : Body), e.body b = some x →
    let holders := (e.tab.records.filter (fun y => y.2.body = b)).length + (e.tab.slots.filter (fun y => y.2.held = some b)).length
    (∀ a, (e.fitShare b).body a = if a = b then some { x with share := holders } else e.body a) ∧
    (x.share ≠ 0 → e.releaseAtStart b = e) ∧
    (x.share = 0 → e.ssc.service = .starting → (e.reached b).Nodup →
      let g := e.releaseAtStart b
      (∀ a, g.body a = if a = b then none else e.body a) ∧
      (∀ i, g.segment i = if i ∈ e.reached b then { e.segment i with state := .dirty, body := none, next := none } else e.segment i) ∧
      g.ssc = { e.ssc with eraseQueue := (e.reached b).foldl (fun q i => Run.push i q) e.ssc.eraseQueue,
                           start := e.ssc.start.map (fun p => { p with bodiesReleased := p.bodiesReleased + 1 }) }))

/-- A window that is complete closes its session's meter (R47 to R55) and moves the session on (R23, R25, R26): CUE ends with the cue length, the onset
brings TAKING, and the no-speech count, SILENCE and MAX_LENGTH end the take (R57 to R62); a window not complete changes nothing (log 4). A window end that
did not end the take and finds its buffer full hands it for program (R23), which takes the link at once where it is free (R77, R83), and the other buffer
begins, a message's mailbox charged and its lamp inputs handed (R24, R127). Where no buffer is idle the take ends STORE_BUSY, and where the charge would
exceed the quota it ends QUOTA (R24); the buffer's request is then still in the queue when the take ends, the arbiter choosing once after the command, the
model's choice (log 40). A take that ends is discarded or trimmed, and reported, as StopsEndTakes says (Engine.endsTake). -/
def Obligations.WindowEndsMoveTheTake : Prop :=
  ∀ (s : State) (k : Nat) (m : Meter) (sn : Snapshot), s.calm →
    let x := s.eng.session k
    let n := m.close sn x.windows
    ((x.state.recordLive = false ∨ x.cursor / 64 ≤ x.windows) → exec (.windowEnd k) s = .next s) ∧
    (x.state.recordLive = true → x.windows < x.cursor / 64 → x.meter = some m → x.snap = some sn →
      let goesOn := fun st => (x.state = .cue ∧ x.windows + 1 = x.cueLength ∧ st = (if n.onset = none then SessState.waitOnset else .taking)) ∨
          (x.state = .cue ∧ x.windows + 1 ≠ x.cueLength ∧ st = .cue) ∨ (x.state = .waitOnset ∧ n.onset ≠ none ∧ st = .taking) ∨
          (x.state = .waitOnset ∧ n.onset = none ∧ x.windows + 1 < sn.noSpeechWindows ∧ st = .waitOnset) ∨
          (x.state = .taking ∧ n.silenceRun ≠ sn.endSilenceWindows ∧ (x.windows + 1) * 64 - ((n.onset.getD 0) - sn.preRoll) * 64 < sn.maxSamples ∧ st = .taking)
      let closed : Session := { x with meter := some n, windows := x.windows + 1 }
      let ends := fun (e : Engine) (cause : Cause) => ∃ t, exec (.windowEnd k) s = .next t ∧ e.endsTake t.eng k cause ∧
        (∀ j, j ≠ k → ∃ g, t.eng.session j = { s.eng.session j with target := g }) ∧
        s.keepsBut [.slots, .sessions, .pool, .storeQueues, .link, .holds, .counters, .lmp, .outbox, .flags, .segments, .bodies, .mailboxes, .records,
          .greetings, .writes] t
      (x.cursor % 2048 ≠ 0 → ∀ st, goesOn st → ∃ t, exec (.windowEnd k) s = .next t ∧
        (∀ j, t.eng.session j = if j = k then { closed with state := st } else s.eng.session j) ∧ s.keepsBut [.sessions] t) ∧
      (x.cursor % 2048 = 0 → ∀ st b, goesOn st → x.bufWith .filling = some b →
        let handed := ({ closed with state := st } : Session).setBuf b { x.buf b with role := .queued }
        let req : ProgReq := { session := k, buf := b, body := x.bodyNo, takeSegment := (x.buf b).holds }
        let charged := x.kind = some .recordMessage
        let overQuota := charged ∧ (s.eng.boxClass x.mailbox).quota < (s.eng.counter x.mailbox).charged + 1
        (∀ o, handed.bufWith .idle = some o → ¬ overQuota → (s.eng.linkFree = false ∨ s.eng.ssc.freeList ≠ []) → ∃ t, exec (.windowEnd k) s = .next t ∧
          (∀ j, t.eng.session j = if j = k then handed.setBuf o { handed.buf o with role := .filling, holds := x.cursor / 2048 } else s.eng.session j) ∧
          (s.eng.linkFree = false → t.eng.ssc.progQueue = s.eng.ssc.progQueue ++ [req] ∧ s.samePart t .link ∧ s.samePart t .pool) ∧
          (s.eng.linkFree = true → ∀ i is, s.eng.ssc.freeList = i :: is → t.eng.ssc.progQueue = [] ∧ t.eng.ssc.link = .allocating req i true ∧
            t.eng.ssc.freeList = is ∧ (t.eng.segment i).state = .allocated) ∧
          (∀ a, t.eng.hold a = if a = x.bodyNo then { s.eng.hold a with begun := (s.eng.hold a).begun + 1 } else s.eng.hold a) ∧
          (∀ a, t.eng.counter a = if charged ∧ a = x.mailbox then { s.eng.counter a with charged := (s.eng.counter a).charged + 1 } else s.eng.counter a) ∧
          (charged → s.handsInputs [x.mailbox] t) ∧ (¬ charged → t.eng.lmp = s.eng.lmp) ∧
          s.keepsBut [.sessions, .pool, .storeQueues, .link, .holds, .counters, .lmp, .outbox, .flags, .segments, .writes] t) ∧
        let full := (s.eng.setSession k handed).modSsc (fun q => { q with progQueue := q.progQueue ++ [req] })
        (handed.bufWith .idle = none → ends full .storeBusy) ∧ (∀ o, handed.bufWith .idle = some o → overQuota → ends full .quota)) ∧
      (x.state = .waitOnset → n.onset = none → sn.noSpeechWindows ≤ x.windows + 1 → ends (s.eng.setSession k closed) .noSpeech) ∧
      (x.state = .taking → n.silenceRun = sn.endSilenceWindows → ends (s.eng.setSession k closed) .silence) ∧
      (x.state = .taking → n.silenceRun ≠ sn.endSilenceWindows → sn.maxSamples ≤ (x.windows + 1) * 64 - ((n.onset.getD 0) - sn.preRoll) * 64 →
        ends (s.eng.setSession k closed) .maxLength))

/-! ## The store and the service states -/

/-- The arbiter, at an idle link in SERVICE, takes the first row of R77's table that applies; in STARTING and FROZEN it makes no choice. A
program chosen where no segment is free and none is DIRTY fails STORE_FULL (R78): the session's waiting requests go with it, and its take ends STORE_FULL,
its end capped at the segments programmed (R28, R66): a take without an onset, or left shorter than its class's least, is discarded, and one kept is sealed
at once; it is reported as R42 and R40 say. (Stated for a queue of one session's requests, its filling buffer behind what is programmed, as
EveryStepKeepsTheTakesInOrder keeps it.) -/
def Obligations.ArbiterTakesTheFirstRow : Prop :=
  ∀ e : Engine, e.asked = [] → e.dle.due = none →
    let p := e.ssc.progQueue
    let erased := e.ssc.freeList
    let starved := p ≠ [] ∧ erased = [] ∧ e.ssc.eraseQueue ≠ []
    (e.ssc.service ≠ .service → e.settle.ssc.link = e.ssc.link ∧ e.settle.ssc.progQueue = p) ∧
    (e.ssc.service = .service → e.mgc.restart ≠ .due → e.ssc.link = .idle →
      (∀ run q, starved → e.ssc.eraseQueue = run :: q → e.settle = e.modSsc (fun c => { c with link := .erasing run.start, opTimer := 0 })) ∧
      (∀ r rs i is, p = r :: rs → erased = i :: is → (32 ≤ p.length ∨ e.ssc.readQueue = []) → e.settle.ssc.link = .allocating r i true ∧
        e.settle.ssc.progQueue = rs ∧ e.settle.ssc.freeList = is ∧ (e.settle.segment i).state = .allocated ∧ e.settle.ssc.readQueue = e.ssc.readQueue) ∧
      (∀ r q, ¬ starved → p.length < 32 → e.ssc.readQueue = r :: q →
        e.settle = e.modSsc (fun c => { c with readQueue := q, link := .reading r 1, opTimer := 0 })) ∧
      (∀ run q, p = [] → e.ssc.readQueue = [] → e.ssc.eraseQueue = run :: q → e.settle = e.modSsc (fun c => { c with link := .erasing run.start, opTimer := 0 })) ∧
      (p = [] → e.ssc.readQueue = [] → e.ssc.eraseQueue = [] → e.settle = e) ∧
      (∀ r rs sn, p = r :: rs → (∀ q ∈ rs, q.session = r.session) → erased = [] → e.ssc.eraseQueue = [] → (32 ≤ p.length ∨ e.ssc.readQueue = []) →
        let k := r.session
        let x := e.session k
        let cap := 2048 * x.programmed
        let g := e.settle
        x.snap = some sn →
        let fails := fun (target : Target) (trim : Option Trim) (gone : Bool) => ∃ z : Session, e.endsAs g k z ∧ z = { x with
          state := .ended, outcome := some .storeFull, endCause := none, target := target, trim := trim, discarded := gone, meter := z.meter,
          inSlot := z.inSlot, outSlot := z.outSlot, buf0 := z.buf0, buf1 := z.buf1 }
        let lost := fun trim : Option Trim => fails .none trim true ∧ (∀ a, x.target = .record a → g.record a = none) ∧
          (∀ c, x.target = .slot c → g.slot x.mailbox c = { e.slot x.mailbox c with staged := none })
        (x.state.recordLive = true → (x.meter.bind (·.onset)) = none → lost x.trim ∧ g.ssc.progQueue = []) ∧
        (∀ startS endS,
          (x.state.recordLive = true ∧ ∃ m o, x.meter = some m ∧ m.onset = some o ∧ startS = (o - sn.preRoll) * 64 ∧
            endS = min (min ((min ((x.cursor + 63) / 64 - 1) ((m.lastSpeech.getD o) + sn.hangover) + 1) * 64) x.cursor) cap) ∨
          (x.state = .draining ∧ ∃ t, x.trim = some t ∧ startS = t.startSample ∧ endS = min t.endSample cap) →
          g.ssc.progQueue = [] ∧
          ((endS ≤ startS ∨ endS - startS < sn.minSamples) → lost (some (trimOf startS endS))) ∧
          (startS < endS → sn.minSamples ≤ endS - startS → (x.state.recordLive = true → ∀ f, x.bufWith .filling = some f → x.programmed ≤ (x.buf f).holds) →
            fails x.target (some (trimOf startS endS)) x.discarded ∧
            (∀ a z, x.target = .record a → e.record a = some z → g.record a = some { z with state := .new, cut := false }) ∧
            (∀ c, x.target = .slot c → g.slot x.mailbox c = { held := (e.slot x.mailbox c).staged, staged := none }) ∧
            ((∀ c, x.target = .slot c → (e.slot x.mailbox c).held ≠ some x.bodyNo) → ∀ z, e.body x.bodyNo = some z → ∃ w, g.body x.bodyNo = some w ∧
              w.sealed = true ∧ w.offset = some (startS % 2048) ∧ w.samples = some (endS - startS) ∧ w.share = z.share)))))

/-- A read that succeeds fills its buffer from the segment and lets a FETCHING or STALLED session play where it is the current one (R31, R33, R81); a first
failure, by report or by time, repeats the read, and a second fills with zeros and raises STORE_FAULT (R79, R81, R82). A program that succeeds stores its
buffer and links the segment (R83, R102); one that fails, by report or by time, retires it and returns to the queue (R79, R84). The last kept segment of a
DRAINING take seals its body with the trim's offset and count (R29, R104), its record becomes NEW or its staged body the greeting held (R130, R144), and
the session ends by its cause, reported or freed (R40, R42). A program no longer wanted leaves its segment DIRTY at the queue's tail, or RETIRED where it
fails, and counts for the cap of a take that drains (R66); a read that is stale leaves its data; the buffer becomes idle, and a playing fetches (R18, R30,
R76, R83, R84; buffer 0 first, log 15). An end, or a timeout, with no such operation in flight does nothing (log 4); a timeout comes by command (log 2). -/
def Obligations.ReadsAndProgramsComplete : Prop :=
  ∀ (s : State) (good : Bool), s.eng.mgc.inbox = [] → s.eng.asked = [] → s.eng.dle.due = none →
    (s.calm → (∀ r n, s.eng.ssc.link ≠ .reading r n) → exec (.readComplete good) s = .next s) ∧
    (s.calm → (∀ r i w, s.eng.ssc.link ≠ .programming r i w) → exec (.programComplete good) s = .next s) ∧
    (s.calm → (∀ i, s.eng.ssc.link ≠ .erasing i) → exec (.eraseComplete good) s = .next s) ∧
    (s.calm → (s.eng.ssc.link = .idle ∨ s.eng.ssc.link = .recording) → exec .storeOpTimeout s = .next s) ∧
    (∀ r n, s.eng.ssc.link = .reading r n → s.eng.ssc.progQueue = [] → ((s.eng.session r.session).buf r.buf).role = .reading →
      let k := r.session
      let x := s.eng.session k
      let current := (x.buf r.buf).holds = (x.cursor + s.eng.offsetOf x.bodyNo) / 2048
      (good = true → ∃ t, exec (.readComplete good) s = .next t ∧ ((t.eng.session k).buf r.buf).samples = Tab.get [] s.eng.ssc.flash r.segment ∧
        ((t.eng.session k).buf r.buf).role = (if current then .playing else .prefetched) ∧
        (current → (x.state = .fetching ∨ x.state = .stalled) → (t.eng.session k).state = .playing) ∧
        (¬ current ∨ (x.state ≠ .fetching ∧ x.state ≠ .stalled) → (t.eng.session k).state = x.state) ∧ (t.eng.session k).readFaults = x.readFaults ∧
        s.keepsBut [.sessions, .storeQueues, .link] t) ∧
      (n = 1 → ∀ c, c = Instr.readComplete false ∨ c = .storeOpTimeout →
        exec c s = .next (s.onEng (fun e => e.modSsc (fun c => { c with link := .reading r 2, opTimer := 0 })))) ∧
      (n ≠ 1 → ∀ c, c = Instr.readComplete false ∨ c = .storeOpTimeout → ∃ t, exec c s = .next t ∧ (∀ i, Tab.get 0 ((t.eng.session k).buf r.buf).samples i = 0) ∧
        (t.eng.session k).readFaults = min 65535 (x.readFaults + 1) ∧ t.flagged .storeFault ∧ s.keepsBut [.sessions, .storeQueues, .link, .outbox, .flags] t)) ∧
    (∀ r n c, s.eng.ssc.link = .reading r n → ((s.eng.session r.session).buf r.buf).role = .stale → s.eng.ssc.progQueue = [] →
      s.eng.ssc.service = .service → s.eng.mgc.restart ≠ .due → (c = Instr.readComplete good ∨ c = .storeOpTimeout) →
      let k := r.session
      let x := (s.eng.session k).setBuf r.buf ((s.eng.session k).buf r.buf).idled
      let chain := s.eng.chain x.bodyNo
      let w := x.fetches chain (s.eng.offsetOf x.bodyNo)
      ∃ t, exec c s = .next t ∧ (∀ j, t.eng.session j = if j = k then x.fetching w else s.eng.session j) ∧
        (∀ q qs, s.eng.ssc.readQueue ++ w.map (fun bp => { session := k, buf := bp.1, segment := chain.getD bp.2 0 }) = q :: qs →
          t.eng.ssc.link = .reading q 1 ∧ t.eng.ssc.readQueue = qs) ∧
        (s.eng.ssc.readQueue = [] → w = [] → s.eng.ssc.eraseQueue = [] → t.eng.ssc.link = .idle) ∧ s.keepsBut [.sessions, .storeQueues, .link] t) ∧
    (∀ r i b, s.eng.ssc.link = .programming r i true → s.eng.body r.body = some b →
      let k := r.session
      let x := s.eng.session k
      let linked := { b with first := if b.first = none then some i else b.first, last := some i, count := b.count + 1 }
      (good = true → b.last ≠ some i → (x.state ≠ .draining ∨ ∀ tr, x.trim = some tr → r.takeSegment < tr.last) →
        ∃ t, exec (.programComplete good) s = .next t ∧ Tab.get [] t.eng.ssc.flash i = (x.buf r.buf).samples ∧
        (t.eng.segment i).state = .data ∧ (t.eng.segment i).body = some r.body ∧ (t.eng.segment i).next = none ∧
        (∀ l, b.last = some l → (t.eng.segment l).next = some i) ∧ t.eng.body r.body = some linked ∧
        (∀ j, t.eng.session j = if j = k then { x.setBuf r.buf (x.buf r.buf).idled with programmed := r.takeSegment + 1 } else s.eng.session j) ∧
        t.eng.ssc.link = .recording ∧ s.keepsBut [.sessions, .link, .flash, .segments, .bodies, .writes] t) ∧
      (∀ tr, good = true → b.last ≠ some i → x.state = .draining → x.trim = some tr → tr.last ≤ r.takeSegment → x.body = some r.body →
        (∀ g, x.target = .slot g → (s.eng.slot x.mailbox g).held ≠ some r.body) →
        ∃ t, exec (.programComplete good) s = .next t ∧ Tab.get [] t.eng.ssc.flash i = (x.buf r.buf).samples ∧
        t.eng.body r.body = some { linked with sealed := true, offset := some tr.offset, samples := some tr.count } ∧ (t.eng.hold r.body).begun = 0 ∧
        (∀ a z, x.target = .record a → s.eng.record a = some z → (∀ q, t.eng.record q =
          if q = a then some { z with state := .new, cut := false } else s.eng.record q) ∧
          ∀ n, t.eng.counter n = if n = z.mailbox ∧ z.state ≠ .new then (s.eng.counter n).pass z.state .new z.urgent else s.eng.counter n) ∧
        (∀ g, x.target = .slot g → (∀ n h, t.eng.slot n h = if n = x.mailbox ∧ h = g then
          { held := (s.eng.slot x.mailbox g).staged, staged := none } else s.eng.slot n h) ∧ t.eng.tab.records = s.eng.tab.records) ∧
        s.eng.endsAs t.eng k { x.setBuf r.buf (x.buf r.buf).idled with
          programmed := r.takeSegment + 1, state := .ended, outcome := some (x.endCause.getD .stopped), endCause := none } ∧
        (∀ j, j ≠ k → t.eng.session j = s.eng.session j) ∧
        t.eng.ssc.link = .recording ∧ s.keepsBut [.slots, .sessions, .pool, .link, .flash, .holds, .counters, .lmp, .outbox, .flags,
          .segments, .bodies, .records, .greetings, .writes] t) ∧
      (∀ c, c = Instr.programComplete false ∨ c = .storeOpTimeout → ∃ t, exec c s = .next t ∧ (t.eng.segment i).state = .retired ∧
        t.eng.ssc.progQueue = r :: s.eng.ssc.progQueue ∧ t.eng.sessions = s.eng.sessions ∧ t.flagged .storeFault ∧ t.eng.ssc.link = .recording ∧
        s.keepsBut [.storeQueues, .link, .segments, .outbox, .flags, .writes] t)) ∧
    (∀ r i, s.eng.ssc.link = .programming r i false → i ∉ s.eng.chain (s.eng.session r.session).bodyNo →
      let k := r.session
      let x := (s.eng.session k).setBuf r.buf ((s.eng.session k).buf r.buf).idled
      let counts := x.state = .draining ∧ x.body = some r.body ∧ ∃ tr, x.trim = some tr ∧ r.takeSegment < tr.first
      let left := fun (t : State) (y : Session) =>
        let chain := s.eng.chain y.bodyNo
        let w := y.fetches chain (s.eng.offsetOf y.bodyNo)
        (∀ j, t.eng.session j = if j = k then y.fetching w else s.eng.session j) ∧
        t.eng.ssc.readQueue = s.eng.ssc.readQueue ++ w.map (fun bp => { session := k, buf := bp.1, segment := chain.getD bp.2 0 }) ∧
        t.eng.ssc.link = .recording ∧ (∀ j, j ≠ i → t.eng.segment j = s.eng.segment j)
      (good = true → ∃ t, exec (.programComplete good) s = .next t ∧ (counts → left t { x with programmed := r.takeSegment + 1 }) ∧ (¬ counts → left t x) ∧
        t.eng.segment i = { s.eng.segment i with state := .dirty, body := none, next := none } ∧
        t.eng.ssc.eraseQueue = Run.push i s.eng.ssc.eraseQueue ∧ t.eng.ssc.freeList = s.eng.ssc.freeList ∧
        s.keepsBut [.sessions, .pool, .storeQueues, .link, .flash, .outbox, .flags, .segments, .writes] t) ∧
      (∀ c, c = Instr.programComplete false ∨ c = .storeOpTimeout → ∃ t, exec c s = .next t ∧ left t x ∧ (t.eng.segment i).state = .retired ∧
        t.flagged .storeFault ∧ s.keepsBut [.sessions, .storeQueues, .link, .outbox, .flags, .segments, .writes] t))

/-- An erase that succeeds makes its segment ERASED, its erase failures 0, and moves it from the erase queue's head to the free list's tail; one that
fails, by device report or by time (which comes by command, log 2), moves it to the queue's tail with erase failures 1 the first time, and retires it with
a STORE_FAULT the second (R85). -/
def Obligations.ErasesFollowTheirTable : Prop :=
  ∀ (s : State) (i : Nat), s.eng.mgc.inbox = [] → s.eng.asked = [] → s.eng.dle.due = none →
    (s.eng.ssc.link = .erasing i → Run.head? s.eng.ssc.eraseQueue = some i →
      (∃ t, exec (.eraseComplete true) s = .next t ∧ t.eng.segment i = { state := .erased, body := none, next := none, eraseFailures := 0 } ∧
        t.eng.ssc.eraseQueue = Run.pop s.eng.ssc.eraseQueue ∧ t.eng.ssc.freeList = s.eng.ssc.freeList ++ [i] ∧ t.eng.ssc.link = .recording ∧
        (∀ j, j ≠ i → t.eng.segment j = s.eng.segment j) ∧ s.keepsBut [.pool, .link, .flash, .segments, .writes] t) ∧
      (∀ c, c = Instr.eraseComplete false ∨ c = .storeOpTimeout →
        ((s.eng.segment i).eraseFailures = 0 → ∃ t, exec c s = .next t ∧
          t.eng.segment i = { state := .dirty, body := none, next := none, eraseFailures := 1 } ∧
          t.eng.ssc.eraseQueue = Run.push i (Run.pop s.eng.ssc.eraseQueue) ∧ t.eng.ssc.freeList = s.eng.ssc.freeList ∧
          t.eng.ssc.link = .recording ∧ (∀ j, j ≠ i → t.eng.segment j = s.eng.segment j) ∧ s.keepsBut [.pool, .link, .segments, .writes] t) ∧
        ((s.eng.segment i).eraseFailures ≠ 0 → ∃ t, exec c s = .next t ∧ (t.eng.segment i).state = .retired ∧
          t.eng.ssc.eraseQueue = Run.pop s.eng.ssc.eraseQueue ∧ t.eng.ssc.freeList = s.eng.ssc.freeList ∧ t.flagged .storeFault ∧
          t.eng.ssc.link = .recording ∧ (∀ j, j ≠ i → t.eng.segment j = s.eng.segment j) ∧
          s.keepsBut [.pool, .link, .segments, .outbox, .flags, .writes] t)))

/-- The catalogue write in flight completes (R80): the catalogue memory takes it, the sequence's next write waits its turn (its place is the model's, log
5), and the end of a sequence places an answer (R100; that an OPEN RECORD's waits for the whole sequence is the model's, log 6), frees a job's recipient
(R160), issues a program (R83), leaves the link idle (R79), or hands the segments a cut took out of a chain to the SSC, DIRTY (R103). -/
def Obligations.CatalogueWritesCompleteInOrder : Prop :=
  ∀ s : State, s.calm →
    (s.eng.catQueue = [] → exec .catalogueWriteComplete s = .next s) ∧
    (∀ w v ws a q, s.eng.catQueue = { writes := w :: v :: ws, after := a } :: q →
      exec .catalogueWriteComplete s = .next (s.onEng (fun e => { e with cat := w.apply e.cat, catQueue := requeue { writes := v :: ws, after := a } q }))) ∧
    (∀ w q, s.eng.catQueue = { writes := [w], after := .nothing } :: q →
      exec .catalogueWriteComplete s = .next (s.onEng (fun e => { e with cat := w.apply e.cat, catQueue := q }))) ∧
    (∀ w p q, s.eng.catQueue = { writes := [w], after := .answer p } :: q →
      exec .catalogueWriteComplete s = .next (s.onEng (fun e => { e with cat := w.apply e.cat, catQueue := q, mgc := { e.mgc with outbox := e.mgc.outbox ++ [p], handling := false } }))) ∧
    (∀ w q r i b, s.eng.catQueue = { writes := [w], after := .allocated } :: q → s.eng.ssc.link = .allocating r i b →
      exec .catalogueWriteComplete s =
        .next (s.onEng (fun e => { e with cat := w.apply e.cat, catQueue := q, ssc := { e.ssc with link := .programming r i b, opTimer := 0 } }))) ∧
    (∀ w q, s.eng.catQueue = { writes := [w], after := .recorded } :: q → s.eng.ssc.link = .recording → s.eng.ssc.progQueue = [] →
      s.eng.ssc.readQueue = [] → s.eng.ssc.eraseQueue = [] →
      exec .catalogueWriteComplete s = .next (s.onEng (fun e => { e with cat := w.apply e.cat, catQueue := q, ssc := { e.ssc with link := .idle } }))) ∧
    (∀ w q j js, s.eng.catQueue = { writes := [w], after := .copied } :: q → s.eng.dle.queue = j :: js → j.cancel = false → j.nextPos < j.recipients →
      exec .catalogueWriteComplete s =
        .next (s.onEng (fun e => { e with cat := w.apply e.cat, catQueue := q, dle := { e.dle with queue := { j with current := none } :: js } }))) ∧
    (∀ w q is, s.eng.catQueue = { writes := [w], after := .cut is } :: q → is.Nodup →
      let freed := is.filter (fun i => (s.eng.segment i).state = .data)
      ∃ t, exec .catalogueWriteComplete s = .next t ∧ t.eng.cat = w.apply s.eng.cat ∧
        (∀ i, t.eng.segment i = if i ∈ freed then { s.eng.segment i with state := .dirty, body := none, next := none } else s.eng.segment i) ∧
        t.eng.ssc.eraseQueue = freed.foldl (fun q i => Run.push i q) s.eng.ssc.eraseQueue ∧ t.eng.ssc.freeList = s.eng.ssc.freeList ∧
        s.keepsBut [.pool, .link, .outbox, .flags, .segments, .catalogue, .writes] t)

/-- The service states (section 4.6 to 4.8). POWER_ON resets every volatile block over the catalogue memory and the store's contents, which a write or an
operation abandoned leaves as they were (log 21), and begins the check, or freezes the part at once (R88, R98). With no device counted the check stops,
the settings standing as the catalogue gives them (the model's choice, log 45); otherwise it fits the map and takes its steps over the tables, and asks for their writes (R87, R89; that every decision of the check falls in the one step is
the model's choice, log 24, and that its writes are one sequence log 5). ENTER_SERVICE ends a check or FORMAT whose writes are complete with START_DONE, and
after a check gives the lamp unit its references and its inputs (R87, R93, R139; that the lamp unit stands until then is the model's choice, logs 29 and 38);
where none is ready it changes nothing (log 4). FORMAT clears the content of every loaded mailbox, and is BUSY while a session, a job or a sweep is there
(R96; what its START_DONE counts is the model's reading, log 13). FREEZE ends every session FROZEN, its take untouched, and stops the part (R15, R44, R97; the
outbox and the queues are left as they stand, logs 11 and 12, and so is the sum of a window in progress, log 35); in FROZEN it changes nothing (log 4). -/
def Obligations.ServiceStatesFollowTheirRules : Prop :=
  ∀ s : State,
    (∀ sel, ∃ t, exec (.powerOn sel true) s = .next t ∧ t = { hwi := Hwi.reset, cal := Cal.reset, eng := t.eng, pending := s.pending } ∧
      t.eng.ssc = { Ssc.reset s.eng.ssc.flash with service := .frozen } ∧ t.eng.cat = s.eng.cat ∧ t.eng.catQueue = [] ∧ t.eng.sessions = [] ∧ t.eng.mgc = Mgc.reset) ∧
    (∀ sel, ∃ t, exec (.powerOn sel false) s = .next t ∧ t = { hwi := Hwi.reset, cal := Cal.reset, eng := t.eng, pending := s.pending } ∧
      t.eng.ssc.service = .starting ∧ t.eng.ssc.devices = countSelects sel ∧ t.eng.ssc.link = .idle ∧ t.eng.ssc.readQueue = [] ∧
      t.eng.ssc.progQueue = [] ∧ t.eng.ssc.poolLow = false ∧ t.eng.ssc.flash = s.eng.ssc.flash ∧ t.eng.cat = s.eng.cat ∧ t.eng.sessions = [] ∧
      t.eng.slotsIn = [] ∧ t.eng.slotsOut = [] ∧ t.eng.lmp = Lmp.reset ∧ t.eng.dle = { queue := [], nextNumber := 1 } ∧ t.eng.mgc = Mgc.reset ∧
      (countSelects sel = 0 → t.eng.ssc.start = none ∧ t.eng.tab = s.eng.cat ∧ t.eng.catQueue = []) ∧
      (∀ c, countSelects sel = c → c ≠ 0 →
        let cleared := s.eng.cat.signature.all (fun n => decide (c < n))
        let e := (((Engine.reset s.eng.cat s.eng.ssc.flash).modSsc (fun x => { x with
          devices := c, start := some { cause := .powerOn, cleared := cleared, keptCut := 0, recordsReleased := 0, bodiesReleased := 0 } })).fitMap c).checkSteps
        t.eng.tab = e.tab ∧ t.eng.tab.signature = some c ∧ t.eng.ssc = e.ssc ∧ t.eng.holds = e.holds ∧ t.eng.counters = e.counters ∧
        t.eng.catQueue = (if e.asked = [] then [] else [{ writes := e.asked, after := .nothing }]) ∧
        ∃ p, t.eng.ssc.start = some p ∧ p.cause = .powerOn ∧ p.cleared = cleared)) ∧
    (s.calm → (s.eng.ssc.start = none ∨ s.eng.ssc.service ≠ .starting ∨ s.eng.catQueue ≠ []) → exec .enterService s = .next s) ∧
    (s.calm → ∀ p, s.eng.ssc.start = some p → s.eng.ssc.service = .starting → s.eng.catQueue = [] → s.eng.ssc.progQueue = [] →
      ∃ t, exec .enterService s = .next t ∧
      t.eng.ssc.service = .service ∧ t.eng.ssc.start = none ∧ t.flagged .startDone ∧
      (s.eng.ssc.poolLow = false → (t.eng.ssc.poolLow = true ↔ s.eng.available < s.eng.tab.settings.poolReserve)) ∧
      (p.cause = .format → t.eng.lmp = s.eng.lmp) ∧
      (p.cause ≠ .format → (∀ a, (t.eng.lamp a).refs = (s.eng.lamp a).refs + (s.eng.tab.mailboxes.flatMap (fun x => x.2.fields.lamps)).count a) ∧
        ∀ m b, s.eng.mailbox m = some b → Tab.get Pattern.off t.eng.lmp.patterns m =
          lampPattern b.fields.enabled b.fields.lampsOn (s.eng.counter m).new (s.eng.counter m).urgent (s.eng.boxFull m)) ∧
      s.keepsBut [.service, .pool, .storeQueues, .link, .lmp, .outbox, .flags] t) ∧
    (∀ tag, s.accepting → (0 < s.eng.openSessions ∨ s.eng.dle.queue ≠ [] ∨ s.cal.sweep.running = true) →
      exec (.format tag []) s = .next (s.withAnswer tag .busy [])) ∧
    (∀ tag, s.accepting → s.eng.openSessions = 0 → s.eng.dle.queue = [] → s.cal.sweep.running = false → ∃ t, exec (.format tag []) s = .next t ∧
      t.eng.ssc.service = .starting ∧
      t.eng.ssc.start = some { cause := .format, cleared := true, keptCut := 0, recordsReleased := 0, bodiesReleased := 0 } ∧ t.answered tag .done [] ∧
      (∀ m b g, (m, b) ∈ s.eng.tab.mailboxes → (t.eng.slot m g).held = none) ∧
      (s.eng.counted → s.eng.listed → (∀ r, t.eng.record r = none) ∧
        ∀ m, (t.eng.counter m).new = 0 ∧ (t.eng.counter m).urgent = 0 ∧ (t.eng.counter m).heard = 0 ∧ (t.eng.counter m).saved = 0 ∧
          (t.eng.counter m).recording = 0 ∧ (t.eng.counter m).total = 0) ∧
      s.handsInputs (s.eng.tab.mailboxes.map (·.1)) t ∧
      t.eng.tab.classes = s.eng.tab.classes ∧ t.eng.tab.lists = s.eng.tab.lists ∧ t.eng.tab.settings = s.eng.tab.settings ∧ t.hwi = s.hwi ∧ t.cal = s.cal) ∧
    (s.eng.ssc.service = .frozen → exec .freeze s = .next s) ∧
    (s.eng.ssc.service ≠ .frozen → ∃ t, exec .freeze s = .next t ∧ t.eng.ssc.service = .frozen ∧ t.hwi = s.hwi ∧
      t.cal = s.cal ∧ t.eng.ssc.progQueue = s.eng.ssc.progQueue ∧ t.eng.ssc.readQueue = s.eng.ssc.readQueue ∧ t.eng.ssc.link = s.eng.ssc.link ∧
      t.eng.mgc.outbox = s.eng.mgc.outbox ∧ t.eng.mgc.inbox = s.eng.mgc.inbox ∧ t.eng.tab = s.eng.tab ∧ t.eng.catQueue = haltQueue s.eng.catQueue ∧
      t.eng.lmp = { s.eng.lmp with outCell := [] } ∧
      (Tab.risingFrom none s.eng.sessions = true → ∀ k,
        let x := s.eng.session k
        let y := t.eng.session k
        ((x.state = .free ∨ x.state = .ended) → y = x) ∧
        (x.state ≠ .free → x.state ≠ .ended → y.state = .ended ∧ y.outcome = some .frozen ∧ y.target = x.target ∧ y.trim = x.trim ∧
          y.cursor = x.cursor ∧ y.meter = x.meter ∧ y.inSlot = none ∧ y.outSlot = none ∧ t.flagged .sessionEnd)))
end

