-- ==== Sys2Proof/Laws/State.lean ====
section
/-! SUPPORT. One lemma per field per update, all by rfl: no later proof unfolds a record update. -/

namespace Sys2Proof.Machine

@[simp] theorem State.onEng_hwi (f : Engine → Engine) (s : State) : (s.onEng f).hwi = s.hwi := rfl
@[simp] theorem State.onEng_cal (f : Engine → Engine) (s : State) : (s.onEng f).cal = s.cal := rfl
@[simp] theorem State.onEng_eng (f : Engine → Engine) (s : State) : (s.onEng f).eng = f s.eng := rfl
@[simp] theorem State.onEng_pending (f : Engine → Engine) (s : State) : (s.onEng f).pending = s.pending := rfl
@[simp] theorem State.modHwi_hwi (f : Hwi → Hwi) (s : State) : (s.modHwi f).hwi = f s.hwi := rfl
@[simp] theorem State.modHwi_cal (f : Hwi → Hwi) (s : State) : (s.modHwi f).cal = s.cal := rfl
@[simp] theorem State.modHwi_eng (f : Hwi → Hwi) (s : State) : (s.modHwi f).eng = s.eng := rfl
@[simp] theorem State.modHwi_pending (f : Hwi → Hwi) (s : State) : (s.modHwi f).pending = s.pending := rfl

@[simp] theorem Engine.modMgc_slotsIn (f : Mgc → Mgc) (e : Engine) : (e.modMgc f).slotsIn = e.slotsIn := rfl
@[simp] theorem Engine.modMgc_slotsOut (f : Mgc → Mgc) (e : Engine) : (e.modMgc f).slotsOut = e.slotsOut := rfl
@[simp] theorem Engine.modMgc_sessions (f : Mgc → Mgc) (e : Engine) : (e.modMgc f).sessions = e.sessions := rfl
@[simp] theorem Engine.modMgc_ssc (f : Mgc → Mgc) (e : Engine) : (e.modMgc f).ssc = e.ssc := rfl
@[simp] theorem Engine.modMgc_holds (f : Mgc → Mgc) (e : Engine) : (e.modMgc f).holds = e.holds := rfl
@[simp] theorem Engine.modMgc_counters (f : Mgc → Mgc) (e : Engine) : (e.modMgc f).counters = e.counters := rfl
@[simp] theorem Engine.modMgc_dle (f : Mgc → Mgc) (e : Engine) : (e.modMgc f).dle = e.dle := rfl
@[simp] theorem Engine.modMgc_lmp (f : Mgc → Mgc) (e : Engine) : (e.modMgc f).lmp = e.lmp := rfl
@[simp] theorem Engine.modMgc_mgc (f : Mgc → Mgc) (e : Engine) : (e.modMgc f).mgc = f e.mgc := rfl
@[simp] theorem Engine.modMgc_tab (f : Mgc → Mgc) (e : Engine) : (e.modMgc f).tab = e.tab := rfl
@[simp] theorem Engine.modMgc_cat (f : Mgc → Mgc) (e : Engine) : (e.modMgc f).cat = e.cat := rfl
@[simp] theorem Engine.modMgc_catQueue (f : Mgc → Mgc) (e : Engine) : (e.modMgc f).catQueue = e.catQueue := rfl
@[simp] theorem Engine.modMgc_asked (f : Mgc → Mgc) (e : Engine) : (e.modMgc f).asked = e.asked := rfl

@[simp] theorem Engine.modSsc_slotsIn (f : Ssc → Ssc) (e : Engine) : (e.modSsc f).slotsIn = e.slotsIn := rfl
@[simp] theorem Engine.modSsc_slotsOut (f : Ssc → Ssc) (e : Engine) : (e.modSsc f).slotsOut = e.slotsOut := rfl
@[simp] theorem Engine.modSsc_sessions (f : Ssc → Ssc) (e : Engine) : (e.modSsc f).sessions = e.sessions := rfl
@[simp] theorem Engine.modSsc_ssc (f : Ssc → Ssc) (e : Engine) : (e.modSsc f).ssc = f e.ssc := rfl
@[simp] theorem Engine.modSsc_holds (f : Ssc → Ssc) (e : Engine) : (e.modSsc f).holds = e.holds := rfl
@[simp] theorem Engine.modSsc_counters (f : Ssc → Ssc) (e : Engine) : (e.modSsc f).counters = e.counters := rfl
@[simp] theorem Engine.modSsc_dle (f : Ssc → Ssc) (e : Engine) : (e.modSsc f).dle = e.dle := rfl
@[simp] theorem Engine.modSsc_lmp (f : Ssc → Ssc) (e : Engine) : (e.modSsc f).lmp = e.lmp := rfl
@[simp] theorem Engine.modSsc_mgc (f : Ssc → Ssc) (e : Engine) : (e.modSsc f).mgc = e.mgc := rfl
@[simp] theorem Engine.modSsc_tab (f : Ssc → Ssc) (e : Engine) : (e.modSsc f).tab = e.tab := rfl
@[simp] theorem Engine.modSsc_cat (f : Ssc → Ssc) (e : Engine) : (e.modSsc f).cat = e.cat := rfl
@[simp] theorem Engine.modSsc_catQueue (f : Ssc → Ssc) (e : Engine) : (e.modSsc f).catQueue = e.catQueue := rfl
@[simp] theorem Engine.modSsc_asked (f : Ssc → Ssc) (e : Engine) : (e.modSsc f).asked = e.asked := rfl

@[simp] theorem Engine.modLmp_slotsIn (f : Lmp → Lmp) (e : Engine) : (e.modLmp f).slotsIn = e.slotsIn := rfl
@[simp] theorem Engine.modLmp_slotsOut (f : Lmp → Lmp) (e : Engine) : (e.modLmp f).slotsOut = e.slotsOut := rfl
@[simp] theorem Engine.modLmp_sessions (f : Lmp → Lmp) (e : Engine) : (e.modLmp f).sessions = e.sessions := rfl
@[simp] theorem Engine.modLmp_ssc (f : Lmp → Lmp) (e : Engine) : (e.modLmp f).ssc = e.ssc := rfl
@[simp] theorem Engine.modLmp_holds (f : Lmp → Lmp) (e : Engine) : (e.modLmp f).holds = e.holds := rfl
@[simp] theorem Engine.modLmp_counters (f : Lmp → Lmp) (e : Engine) : (e.modLmp f).counters = e.counters := rfl
@[simp] theorem Engine.modLmp_dle (f : Lmp → Lmp) (e : Engine) : (e.modLmp f).dle = e.dle := rfl
@[simp] theorem Engine.modLmp_lmp (f : Lmp → Lmp) (e : Engine) : (e.modLmp f).lmp = f e.lmp := rfl
@[simp] theorem Engine.modLmp_mgc (f : Lmp → Lmp) (e : Engine) : (e.modLmp f).mgc = e.mgc := rfl
@[simp] theorem Engine.modLmp_tab (f : Lmp → Lmp) (e : Engine) : (e.modLmp f).tab = e.tab := rfl
@[simp] theorem Engine.modLmp_cat (f : Lmp → Lmp) (e : Engine) : (e.modLmp f).cat = e.cat := rfl
@[simp] theorem Engine.modLmp_catQueue (f : Lmp → Lmp) (e : Engine) : (e.modLmp f).catQueue = e.catQueue := rfl
@[simp] theorem Engine.modLmp_asked (f : Lmp → Lmp) (e : Engine) : (e.modLmp f).asked = e.asked := rfl

@[simp] theorem Engine.modDle_slotsIn (f : Dle → Dle) (e : Engine) : (e.modDle f).slotsIn = e.slotsIn := rfl
@[simp] theorem Engine.modDle_slotsOut (f : Dle → Dle) (e : Engine) : (e.modDle f).slotsOut = e.slotsOut := rfl
@[simp] theorem Engine.modDle_sessions (f : Dle → Dle) (e : Engine) : (e.modDle f).sessions = e.sessions := rfl
@[simp] theorem Engine.modDle_ssc (f : Dle → Dle) (e : Engine) : (e.modDle f).ssc = e.ssc := rfl
@[simp] theorem Engine.modDle_holds (f : Dle → Dle) (e : Engine) : (e.modDle f).holds = e.holds := rfl
@[simp] theorem Engine.modDle_counters (f : Dle → Dle) (e : Engine) : (e.modDle f).counters = e.counters := rfl
@[simp] theorem Engine.modDle_dle (f : Dle → Dle) (e : Engine) : (e.modDle f).dle = f e.dle := rfl
@[simp] theorem Engine.modDle_lmp (f : Dle → Dle) (e : Engine) : (e.modDle f).lmp = e.lmp := rfl
@[simp] theorem Engine.modDle_mgc (f : Dle → Dle) (e : Engine) : (e.modDle f).mgc = e.mgc := rfl
@[simp] theorem Engine.modDle_tab (f : Dle → Dle) (e : Engine) : (e.modDle f).tab = e.tab := rfl
@[simp] theorem Engine.modDle_cat (f : Dle → Dle) (e : Engine) : (e.modDle f).cat = e.cat := rfl
@[simp] theorem Engine.modDle_catQueue (f : Dle → Dle) (e : Engine) : (e.modDle f).catQueue = e.catQueue := rfl
@[simp] theorem Engine.modDle_asked (f : Dle → Dle) (e : Engine) : (e.modDle f).asked = e.asked := rfl

@[simp] theorem Engine.modHold_slotsIn (b : Nat) (f : BodyHold → BodyHold) (e : Engine) : (e.modHold b f).slotsIn = e.slotsIn := rfl
@[simp] theorem Engine.modHold_slotsOut (b : Nat) (f : BodyHold → BodyHold) (e : Engine) : (e.modHold b f).slotsOut = e.slotsOut := rfl
@[simp] theorem Engine.modHold_sessions (b : Nat) (f : BodyHold → BodyHold) (e : Engine) : (e.modHold b f).sessions = e.sessions := rfl
@[simp] theorem Engine.modHold_ssc (b : Nat) (f : BodyHold → BodyHold) (e : Engine) : (e.modHold b f).ssc = e.ssc := rfl
@[simp] theorem Engine.modHold_holds (b : Nat) (f : BodyHold → BodyHold) (e : Engine) : (e.modHold b f).holds = Tab.set BodyHold.zero b (f (e.hold b)) e.holds := rfl
@[simp] theorem Engine.modHold_counters (b : Nat) (f : BodyHold → BodyHold) (e : Engine) : (e.modHold b f).counters = e.counters := rfl
@[simp] theorem Engine.modHold_dle (b : Nat) (f : BodyHold → BodyHold) (e : Engine) : (e.modHold b f).dle = e.dle := rfl
@[simp] theorem Engine.modHold_lmp (b : Nat) (f : BodyHold → BodyHold) (e : Engine) : (e.modHold b f).lmp = e.lmp := rfl
@[simp] theorem Engine.modHold_mgc (b : Nat) (f : BodyHold → BodyHold) (e : Engine) : (e.modHold b f).mgc = e.mgc := rfl
@[simp] theorem Engine.modHold_tab (b : Nat) (f : BodyHold → BodyHold) (e : Engine) : (e.modHold b f).tab = e.tab := rfl
@[simp] theorem Engine.modHold_cat (b : Nat) (f : BodyHold → BodyHold) (e : Engine) : (e.modHold b f).cat = e.cat := rfl
@[simp] theorem Engine.modHold_catQueue (b : Nat) (f : BodyHold → BodyHold) (e : Engine) : (e.modHold b f).catQueue = e.catQueue := rfl
@[simp] theorem Engine.modHold_asked (b : Nat) (f : BodyHold → BodyHold) (e : Engine) : (e.modHold b f).asked = e.asked := rfl

@[simp] theorem Engine.modCounter_slotsIn (m : Nat) (f : Counters → Counters) (e : Engine) : (e.modCounter m f).slotsIn = e.slotsIn := rfl
@[simp] theorem Engine.modCounter_slotsOut (m : Nat) (f : Counters → Counters) (e : Engine) : (e.modCounter m f).slotsOut = e.slotsOut := rfl
@[simp] theorem Engine.modCounter_sessions (m : Nat) (f : Counters → Counters) (e : Engine) : (e.modCounter m f).sessions = e.sessions := rfl
@[simp] theorem Engine.modCounter_ssc (m : Nat) (f : Counters → Counters) (e : Engine) : (e.modCounter m f).ssc = e.ssc := rfl
@[simp] theorem Engine.modCounter_holds (m : Nat) (f : Counters → Counters) (e : Engine) : (e.modCounter m f).holds = e.holds := rfl
@[simp] theorem Engine.modCounter_counters (m : Nat) (f : Counters → Counters) (e : Engine) : (e.modCounter m f).counters = Tab.set Counters.zero m (f (e.counter m)) e.counters := rfl
@[simp] theorem Engine.modCounter_dle (m : Nat) (f : Counters → Counters) (e : Engine) : (e.modCounter m f).dle = e.dle := rfl
@[simp] theorem Engine.modCounter_lmp (m : Nat) (f : Counters → Counters) (e : Engine) : (e.modCounter m f).lmp = e.lmp := rfl
@[simp] theorem Engine.modCounter_mgc (m : Nat) (f : Counters → Counters) (e : Engine) : (e.modCounter m f).mgc = e.mgc := rfl
@[simp] theorem Engine.modCounter_tab (m : Nat) (f : Counters → Counters) (e : Engine) : (e.modCounter m f).tab = e.tab := rfl
@[simp] theorem Engine.modCounter_cat (m : Nat) (f : Counters → Counters) (e : Engine) : (e.modCounter m f).cat = e.cat := rfl
@[simp] theorem Engine.modCounter_catQueue (m : Nat) (f : Counters → Counters) (e : Engine) : (e.modCounter m f).catQueue = e.catQueue := rfl
@[simp] theorem Engine.modCounter_asked (m : Nat) (f : Counters → Counters) (e : Engine) : (e.modCounter m f).asked = e.asked := rfl

@[simp] theorem Engine.setSession_slotsIn (k : Nat) (x : Session) (e : Engine) : (e.setSession k x).slotsIn = e.slotsIn := rfl
@[simp] theorem Engine.setSession_slotsOut (k : Nat) (x : Session) (e : Engine) : (e.setSession k x).slotsOut = e.slotsOut := rfl
@[simp] theorem Engine.setSession_sessions (k : Nat) (x : Session) (e : Engine) : (e.setSession k x).sessions = Tab.set Session.reset k x e.sessions := rfl
@[simp] theorem Engine.setSession_ssc (k : Nat) (x : Session) (e : Engine) : (e.setSession k x).ssc = e.ssc := rfl
@[simp] theorem Engine.setSession_holds (k : Nat) (x : Session) (e : Engine) : (e.setSession k x).holds = e.holds := rfl
@[simp] theorem Engine.setSession_counters (k : Nat) (x : Session) (e : Engine) : (e.setSession k x).counters = e.counters := rfl
@[simp] theorem Engine.setSession_dle (k : Nat) (x : Session) (e : Engine) : (e.setSession k x).dle = e.dle := rfl
@[simp] theorem Engine.setSession_lmp (k : Nat) (x : Session) (e : Engine) : (e.setSession k x).lmp = e.lmp := rfl
@[simp] theorem Engine.setSession_mgc (k : Nat) (x : Session) (e : Engine) : (e.setSession k x).mgc = e.mgc := rfl
@[simp] theorem Engine.setSession_tab (k : Nat) (x : Session) (e : Engine) : (e.setSession k x).tab = e.tab := rfl
@[simp] theorem Engine.setSession_cat (k : Nat) (x : Session) (e : Engine) : (e.setSession k x).cat = e.cat := rfl
@[simp] theorem Engine.setSession_catQueue (k : Nat) (x : Session) (e : Engine) : (e.setSession k x).catQueue = e.catQueue := rfl
@[simp] theorem Engine.setSession_asked (k : Nat) (x : Session) (e : Engine) : (e.setSession k x).asked = e.asked := rfl

@[simp] theorem Engine.modSession_slotsIn (k : Nat) (f : Session → Session) (e : Engine) : (e.modSession k f).slotsIn = e.slotsIn := rfl
@[simp] theorem Engine.modSession_slotsOut (k : Nat) (f : Session → Session) (e : Engine) : (e.modSession k f).slotsOut = e.slotsOut := rfl
@[simp] theorem Engine.modSession_sessions (k : Nat) (f : Session → Session) (e : Engine) : (e.modSession k f).sessions = Tab.set Session.reset k (f (e.session k)) e.sessions := rfl
@[simp] theorem Engine.modSession_ssc (k : Nat) (f : Session → Session) (e : Engine) : (e.modSession k f).ssc = e.ssc := rfl
@[simp] theorem Engine.modSession_holds (k : Nat) (f : Session → Session) (e : Engine) : (e.modSession k f).holds = e.holds := rfl
@[simp] theorem Engine.modSession_counters (k : Nat) (f : Session → Session) (e : Engine) : (e.modSession k f).counters = e.counters := rfl
@[simp] theorem Engine.modSession_dle (k : Nat) (f : Session → Session) (e : Engine) : (e.modSession k f).dle = e.dle := rfl
@[simp] theorem Engine.modSession_lmp (k : Nat) (f : Session → Session) (e : Engine) : (e.modSession k f).lmp = e.lmp := rfl
@[simp] theorem Engine.modSession_mgc (k : Nat) (f : Session → Session) (e : Engine) : (e.modSession k f).mgc = e.mgc := rfl
@[simp] theorem Engine.modSession_tab (k : Nat) (f : Session → Session) (e : Engine) : (e.modSession k f).tab = e.tab := rfl
@[simp] theorem Engine.modSession_cat (k : Nat) (f : Session → Session) (e : Engine) : (e.modSession k f).cat = e.cat := rfl
@[simp] theorem Engine.modSession_catQueue (k : Nat) (f : Session → Session) (e : Engine) : (e.modSession k f).catQueue = e.catQueue := rfl
@[simp] theorem Engine.modSession_asked (k : Nat) (f : Session → Session) (e : Engine) : (e.modSession k f).asked = e.asked := rfl

@[simp] theorem Engine.modBuf_slotsIn (k b : Nat) (f : Buffer → Buffer) (e : Engine) : (e.modBuf k b f).slotsIn = e.slotsIn := rfl
@[simp] theorem Engine.modBuf_slotsOut (k b : Nat) (f : Buffer → Buffer) (e : Engine) : (e.modBuf k b f).slotsOut = e.slotsOut := rfl
@[simp] theorem Engine.modBuf_sessions (k b : Nat) (f : Buffer → Buffer) (e : Engine) : (e.modBuf k b f).sessions = Tab.set Session.reset k ((e.session k).setBuf b (f ((e.session k).buf b))) e.sessions := rfl
@[simp] theorem Engine.modBuf_ssc (k b : Nat) (f : Buffer → Buffer) (e : Engine) : (e.modBuf k b f).ssc = e.ssc := rfl
@[simp] theorem Engine.modBuf_holds (k b : Nat) (f : Buffer → Buffer) (e : Engine) : (e.modBuf k b f).holds = e.holds := rfl
@[simp] theorem Engine.modBuf_counters (k b : Nat) (f : Buffer → Buffer) (e : Engine) : (e.modBuf k b f).counters = e.counters := rfl
@[simp] theorem Engine.modBuf_dle (k b : Nat) (f : Buffer → Buffer) (e : Engine) : (e.modBuf k b f).dle = e.dle := rfl
@[simp] theorem Engine.modBuf_lmp (k b : Nat) (f : Buffer → Buffer) (e : Engine) : (e.modBuf k b f).lmp = e.lmp := rfl
@[simp] theorem Engine.modBuf_mgc (k b : Nat) (f : Buffer → Buffer) (e : Engine) : (e.modBuf k b f).mgc = e.mgc := rfl
@[simp] theorem Engine.modBuf_tab (k b : Nat) (f : Buffer → Buffer) (e : Engine) : (e.modBuf k b f).tab = e.tab := rfl
@[simp] theorem Engine.modBuf_cat (k b : Nat) (f : Buffer → Buffer) (e : Engine) : (e.modBuf k b f).cat = e.cat := rfl
@[simp] theorem Engine.modBuf_catQueue (k b : Nat) (f : Buffer → Buffer) (e : Engine) : (e.modBuf k b f).catQueue = e.catQueue := rfl
@[simp] theorem Engine.modBuf_asked (k b : Nat) (f : Buffer → Buffer) (e : Engine) : (e.modBuf k b f).asked = e.asked := rfl

@[simp] theorem Engine.put_slotsIn (w : CatWrite) (e : Engine) : (e.put w).slotsIn = e.slotsIn := rfl
@[simp] theorem Engine.put_slotsOut (w : CatWrite) (e : Engine) : (e.put w).slotsOut = e.slotsOut := rfl
@[simp] theorem Engine.put_sessions (w : CatWrite) (e : Engine) : (e.put w).sessions = e.sessions := rfl
@[simp] theorem Engine.put_ssc (w : CatWrite) (e : Engine) : (e.put w).ssc = e.ssc := rfl
@[simp] theorem Engine.put_holds (w : CatWrite) (e : Engine) : (e.put w).holds = e.holds := rfl
@[simp] theorem Engine.put_counters (w : CatWrite) (e : Engine) : (e.put w).counters = e.counters := rfl
@[simp] theorem Engine.put_dle (w : CatWrite) (e : Engine) : (e.put w).dle = e.dle := rfl
@[simp] theorem Engine.put_lmp (w : CatWrite) (e : Engine) : (e.put w).lmp = e.lmp := rfl
@[simp] theorem Engine.put_mgc (w : CatWrite) (e : Engine) : (e.put w).mgc = e.mgc := rfl
@[simp] theorem Engine.put_tab (w : CatWrite) (e : Engine) : (e.put w).tab = w.apply e.tab := rfl
@[simp] theorem Engine.put_cat (w : CatWrite) (e : Engine) : (e.put w).cat = e.cat := rfl
@[simp] theorem Engine.put_catQueue (w : CatWrite) (e : Engine) : (e.put w).catQueue = e.catQueue := rfl
@[simp] theorem Engine.put_asked (w : CatWrite) (e : Engine) : (e.put w).asked = e.asked ++ [w] := rfl

@[simp] theorem Engine.setRx_slotsIn (rx : Option (List Byte)) (e : Engine) : (e.setRx rx).slotsIn = e.slotsIn := rfl
@[simp] theorem Engine.setRx_slotsOut (rx : Option (List Byte)) (e : Engine) : (e.setRx rx).slotsOut = e.slotsOut := rfl
@[simp] theorem Engine.setRx_sessions (rx : Option (List Byte)) (e : Engine) : (e.setRx rx).sessions = e.sessions := rfl
@[simp] theorem Engine.setRx_ssc (rx : Option (List Byte)) (e : Engine) : (e.setRx rx).ssc = e.ssc := rfl
@[simp] theorem Engine.setRx_holds (rx : Option (List Byte)) (e : Engine) : (e.setRx rx).holds = e.holds := rfl
@[simp] theorem Engine.setRx_counters (rx : Option (List Byte)) (e : Engine) : (e.setRx rx).counters = e.counters := rfl
@[simp] theorem Engine.setRx_dle (rx : Option (List Byte)) (e : Engine) : (e.setRx rx).dle = e.dle := rfl
@[simp] theorem Engine.setRx_lmp (rx : Option (List Byte)) (e : Engine) : (e.setRx rx).lmp = e.lmp := rfl
@[simp] theorem Engine.setRx_mgc (rx : Option (List Byte)) (e : Engine) : (e.setRx rx).mgc = { e.mgc with rx := rx } := rfl
@[simp] theorem Engine.setRx_tab (rx : Option (List Byte)) (e : Engine) : (e.setRx rx).tab = e.tab := rfl
@[simp] theorem Engine.setRx_cat (rx : Option (List Byte)) (e : Engine) : (e.setRx rx).cat = e.cat := rfl
@[simp] theorem Engine.setRx_catQueue (rx : Option (List Byte)) (e : Engine) : (e.setRx rx).catQueue = e.catQueue := rfl
@[simp] theorem Engine.setRx_asked (rx : Option (List Byte)) (e : Engine) : (e.setRx rx).asked = e.asked := rfl

@[simp] theorem Engine.freeLink_slotsIn (e : Engine) : (e.freeLink).slotsIn = e.slotsIn := rfl
@[simp] theorem Engine.freeLink_slotsOut (e : Engine) : (e.freeLink).slotsOut = e.slotsOut := rfl
@[simp] theorem Engine.freeLink_sessions (e : Engine) : (e.freeLink).sessions = e.sessions := rfl
@[simp] theorem Engine.freeLink_ssc (e : Engine) : (e.freeLink).ssc = { e.ssc with link := .idle } := rfl
@[simp] theorem Engine.freeLink_holds (e : Engine) : (e.freeLink).holds = e.holds := rfl
@[simp] theorem Engine.freeLink_counters (e : Engine) : (e.freeLink).counters = e.counters := rfl
@[simp] theorem Engine.freeLink_dle (e : Engine) : (e.freeLink).dle = e.dle := rfl
@[simp] theorem Engine.freeLink_lmp (e : Engine) : (e.freeLink).lmp = e.lmp := rfl
@[simp] theorem Engine.freeLink_mgc (e : Engine) : (e.freeLink).mgc = e.mgc := rfl
@[simp] theorem Engine.freeLink_tab (e : Engine) : (e.freeLink).tab = e.tab := rfl
@[simp] theorem Engine.freeLink_cat (e : Engine) : (e.freeLink).cat = e.cat := rfl
@[simp] theorem Engine.freeLink_catQueue (e : Engine) : (e.freeLink).catQueue = e.catQueue := rfl
@[simp] theorem Engine.freeLink_asked (e : Engine) : (e.freeLink).asked = e.asked := rfl

@[simp] theorem Engine.charge_slotsIn (m : Nat) (f : Nat → Nat) (e : Engine) : (e.charge m f).slotsIn = e.slotsIn := rfl
@[simp] theorem Engine.charge_slotsOut (m : Nat) (f : Nat → Nat) (e : Engine) : (e.charge m f).slotsOut = e.slotsOut := rfl
@[simp] theorem Engine.charge_sessions (m : Nat) (f : Nat → Nat) (e : Engine) : (e.charge m f).sessions = e.sessions := rfl
@[simp] theorem Engine.charge_ssc (m : Nat) (f : Nat → Nat) (e : Engine) : (e.charge m f).ssc = e.ssc := rfl
@[simp] theorem Engine.charge_holds (m : Nat) (f : Nat → Nat) (e : Engine) : (e.charge m f).holds = e.holds := rfl
@[simp] theorem Engine.charge_counters (m : Nat) (f : Nat → Nat) (e : Engine) : (e.charge m f).counters = Tab.set Counters.zero m { e.counter m with charged := f (e.counter m).charged } e.counters := rfl
@[simp] theorem Engine.charge_dle (m : Nat) (f : Nat → Nat) (e : Engine) : (e.charge m f).dle = e.dle := rfl
@[simp] theorem Engine.charge_lmp (m : Nat) (f : Nat → Nat) (e : Engine) : (e.charge m f).lmp = e.lmp := rfl
@[simp] theorem Engine.charge_mgc (m : Nat) (f : Nat → Nat) (e : Engine) : (e.charge m f).mgc = e.mgc := rfl
@[simp] theorem Engine.charge_tab (m : Nat) (f : Nat → Nat) (e : Engine) : (e.charge m f).tab = e.tab := rfl
@[simp] theorem Engine.charge_cat (m : Nat) (f : Nat → Nat) (e : Engine) : (e.charge m f).cat = e.cat := rfl
@[simp] theorem Engine.charge_catQueue (m : Nat) (f : Nat → Nat) (e : Engine) : (e.charge m f).catQueue = e.catQueue := rfl
@[simp] theorem Engine.charge_asked (m : Nat) (f : Nat → Nat) (e : Engine) : (e.charge m f).asked = e.asked := rfl

@[simp] theorem Engine.putSlot_slotsIn (m : Nat) (g : GreetingKind) (x : Slot) (e : Engine) : (e.putSlot m g x).slotsIn = e.slotsIn := rfl
@[simp] theorem Engine.putSlot_slotsOut (m : Nat) (g : GreetingKind) (x : Slot) (e : Engine) : (e.putSlot m g x).slotsOut = e.slotsOut := rfl
@[simp] theorem Engine.putSlot_sessions (m : Nat) (g : GreetingKind) (x : Slot) (e : Engine) : (e.putSlot m g x).sessions = e.sessions := rfl
@[simp] theorem Engine.putSlot_ssc (m : Nat) (g : GreetingKind) (x : Slot) (e : Engine) : (e.putSlot m g x).ssc = e.ssc := rfl
@[simp] theorem Engine.putSlot_holds (m : Nat) (g : GreetingKind) (x : Slot) (e : Engine) : (e.putSlot m g x).holds = e.holds := rfl
@[simp] theorem Engine.putSlot_counters (m : Nat) (g : GreetingKind) (x : Slot) (e : Engine) : (e.putSlot m g x).counters = e.counters := rfl
@[simp] theorem Engine.putSlot_dle (m : Nat) (g : GreetingKind) (x : Slot) (e : Engine) : (e.putSlot m g x).dle = e.dle := rfl
@[simp] theorem Engine.putSlot_lmp (m : Nat) (g : GreetingKind) (x : Slot) (e : Engine) : (e.putSlot m g x).lmp = e.lmp := rfl
@[simp] theorem Engine.putSlot_mgc (m : Nat) (g : GreetingKind) (x : Slot) (e : Engine) : (e.putSlot m g x).mgc = e.mgc := rfl
@[simp] theorem Engine.putSlot_tab (m : Nat) (g : GreetingKind) (x : Slot) (e : Engine) : (e.putSlot m g x).tab = (CatWrite.slot (slotKey m g) x).apply e.tab := rfl
@[simp] theorem Engine.putSlot_cat (m : Nat) (g : GreetingKind) (x : Slot) (e : Engine) : (e.putSlot m g x).cat = e.cat := rfl
@[simp] theorem Engine.putSlot_catQueue (m : Nat) (g : GreetingKind) (x : Slot) (e : Engine) : (e.putSlot m g x).catQueue = e.catQueue := rfl
@[simp] theorem Engine.putSlot_asked (m : Nat) (g : GreetingKind) (x : Slot) (e : Engine) : (e.putSlot m g x).asked = e.asked ++ [.slot (slotKey m g) x] := rfl

@[simp] theorem Engine.placeAnswer_slotsIn (p : List Byte) (e : Engine) : (e.placeAnswer p).slotsIn = e.slotsIn := rfl
@[simp] theorem Engine.placeAnswer_slotsOut (p : List Byte) (e : Engine) : (e.placeAnswer p).slotsOut = e.slotsOut := rfl
@[simp] theorem Engine.placeAnswer_sessions (p : List Byte) (e : Engine) : (e.placeAnswer p).sessions = e.sessions := rfl
@[simp] theorem Engine.placeAnswer_ssc (p : List Byte) (e : Engine) : (e.placeAnswer p).ssc = e.ssc := rfl
@[simp] theorem Engine.placeAnswer_holds (p : List Byte) (e : Engine) : (e.placeAnswer p).holds = e.holds := rfl
@[simp] theorem Engine.placeAnswer_counters (p : List Byte) (e : Engine) : (e.placeAnswer p).counters = e.counters := rfl
@[simp] theorem Engine.placeAnswer_dle (p : List Byte) (e : Engine) : (e.placeAnswer p).dle = e.dle := rfl
@[simp] theorem Engine.placeAnswer_lmp (p : List Byte) (e : Engine) : (e.placeAnswer p).lmp = e.lmp := rfl
@[simp] theorem Engine.placeAnswer_mgc (p : List Byte) (e : Engine) : (e.placeAnswer p).mgc = { e.mgc with outbox := e.mgc.outbox ++ [p], handling := false } := rfl
@[simp] theorem Engine.placeAnswer_tab (p : List Byte) (e : Engine) : (e.placeAnswer p).tab = e.tab := rfl
@[simp] theorem Engine.placeAnswer_cat (p : List Byte) (e : Engine) : (e.placeAnswer p).cat = e.cat := rfl
@[simp] theorem Engine.placeAnswer_catQueue (p : List Byte) (e : Engine) : (e.placeAnswer p).catQueue = e.catQueue := rfl
@[simp] theorem Engine.placeAnswer_asked (p : List Byte) (e : Engine) : (e.placeAnswer p).asked = e.asked := rfl

end Sys2Proof.Machine
end

