-- ==== Sys2Proof/Laws/Flags.lean ====
section
/-! SUPPORT. What raising an event and counting a channel error can do (R201, R204), and the frame of a change of the channel alone. -/

namespace Sys2Proof.Machine

/-- An event sets its flag, and at most appends its notice to the outbox. -/
theorem raise_eq (k : NoticeKind) (d : List Byte) (e : Engine) :
    e.raise k d = { e with mgc := { e.mgc with flags := e.mgc.flags ||| k.bit, outbox := (e.raise k d).mgc.outbox } } := rfl

theorem raise_outbox (k : NoticeKind) (d : List Byte) (e : Engine) :
    (e.raise k d).mgc.outbox = if e.placesNotice k then e.mgc.outbox ++ [noticePacket k d] else e.mgc.outbox := rfl

theorem raise_outbox_mono (k : NoticeKind) (d : List Byte) (e : Engine) : ∃ ps, (e.raise k d).mgc.outbox = e.mgc.outbox ++ ps := by
  rw [raise_outbox]
  split
  · exact ⟨_, rfl⟩
  · exact ⟨[], by simp⟩

/-- The flag of an event raised is set. -/
theorem raise_flagged (k : NoticeKind) (d : List Byte) (e : Engine) : (e.raise k d).mgc.flags &&& k.bit = k.bit := by
  show (e.mgc.flags ||| k.bit) &&& k.bit = k.bit
  ext i hi
  simp only [BitVec.getElem_and, BitVec.getElem_or]
  cases e.mgc.flags[i] <;> cases k.bit[i] <;> rfl

/-- Counting an error touches the channel alone. -/
theorem errorGate_eq (e : Engine) :
    ∃ f o n, (∃ ps, o = e.mgc.outbox ++ ps) ∧
      e.errorGate = { e with mgc := { e.mgc with flags := f, outbox := o, gateOpen := false, errorNoted := n } } := by
  unfold Engine.errorGate
  split
  · exact ⟨_, _, _, raise_outbox_mono _ _ e, rfl⟩
  · rename_i h
    have h : e.mgc.gateOpen = false := by simpa using h
    refine ⟨e.mgc.flags, e.mgc.outbox, true, ⟨[], (List.append_nil _).symm⟩, ?_⟩
    simp [Engine.modMgc, ← h]

/-- An overrun: the counter, the gate, and nothing outside the channel. -/
theorem overrun_eq (e : Engine) :
    ∃ f o n, (∃ ps, o = e.mgc.outbox ++ ps) ∧ e.overrun =
      { e with mgc := { e.mgc with flags := f, outbox := o, gateOpen := false, errorNoted := n, overruns := min 255 (e.mgc.overruns + 1) } } :=
  errorGate_eq (e.modMgc (fun g => { g with overruns := min 255 (g.overruns + 1) }))

/-- The report gate at a second touches the channel alone. -/
theorem gateSecond_eq (e : Engine) :
    ∃ f o g n, (∃ ps, o = e.mgc.outbox ++ ps) ∧
      e.gateSecond = { e with mgc := { e.mgc with flags := f, outbox := o, gateOpen := g, errorNoted := n } } := by
  unfold Engine.gateSecond
  split
  · exact ⟨_, _, _, _, ⟨[], (List.append_nil _).symm⟩, rfl⟩
  · split
    · exact ⟨_, _, _, _, raise_outbox_mono _ _ e, rfl⟩
    · exact ⟨_, _, _, _, ⟨[], (List.append_nil _).symm⟩, rfl⟩

end Sys2Proof.Machine
end

