-- ==== Sys2Proof/Laws/Steady.lean ====
section
/-! SUPPORT. What no block's work on sessions, bodies, records, greetings and lamps ever touches: one relation, and one lemma per operation. -/

namespace Sys2Proof.Machine

/-- From e to e' only sessions, slots, pool and store queues, bodies and segments, records and mailboxes, greetings, counters, holds, lamps, flags
and outbox may change, and sequences of catalogue writes may join the queue. -/
structure Engine.Steady (e e' : Engine) : Prop where
  cat : e'.cat = e.cat
  queue : ∃ q, e'.catQueue = e.catQueue ++ q
  dle : e'.dle = e.dle
  mgc : ∃ f o, e'.mgc = { e.mgc with flags := f, outbox := o }
  service : e'.ssc.service = e.ssc.service
  devices : e'.ssc.devices = e.ssc.devices
  start : e'.ssc.start = e.ssc.start
  flash : e'.ssc.flash = e.ssc.flash
  signature : e'.tab.signature = e.tab.signature
  classes : e'.tab.classes = e.tab.classes
  lists : e'.tab.lists = e.tab.lists
  members : e'.tab.members = e.tab.members
  settings : e'.tab.settings = e.tab.settings

namespace Engine.Steady

theorem refl (e : Engine) : Engine.Steady e e := ⟨rfl, ⟨[], (List.append_nil _).symm⟩, rfl, ⟨_, _, rfl⟩, rfl, rfl, rfl, rfl, rfl, rfl, rfl, rfl, rfl⟩

theorem trans {a b c : Engine} (h : Engine.Steady a b) (k : Engine.Steady b c) : Engine.Steady a c := by
  obtain ⟨f, o, hm⟩ := h.mgc
  obtain ⟨f', o', km⟩ := k.mgc
  obtain ⟨q, hq⟩ := h.queue
  obtain ⟨q', kq⟩ := k.queue
  exact ⟨k.cat.trans h.cat, ⟨q ++ q', by rw [kq, hq, List.append_assoc]⟩, k.dle.trans h.dle, ⟨f', o', by rw [km, hm]⟩, k.service.trans h.service,
    k.devices.trans h.devices, k.start.trans h.start, k.flash.trans h.flash, k.signature.trans h.signature, k.classes.trans h.classes,
    k.lists.trans h.lists, k.members.trans h.members, k.settings.trans h.settings⟩

/-- The inbox, the reserved place and the rest of the channel stand. -/
theorem inbox {e e' : Engine} (h : Engine.Steady e e') : e'.mgc.inbox = e.mgc.inbox := by
  obtain ⟨f, o, hm⟩ := h.mgc
  rw [hm]

theorem handling {e e' : Engine} (h : Engine.Steady e e') : e'.mgc.handling = e.mgc.handling := by
  obtain ⟨f, o, hm⟩ := h.mgc
  rw [hm]

theorem restart {e e' : Engine} (h : Engine.Steady e e') : e'.mgc.restart = e.mgc.restart := by
  obtain ⟨f, o, hm⟩ := h.mgc
  rw [hm]

theorem rx {e e' : Engine} (h : Engine.Steady e e') : e'.mgc.rx = e.mgc.rx := by
  obtain ⟨f, o, hm⟩ := h.mgc
  rw [hm]

theorem halted {e e' : Engine} (h : Engine.Steady e e') : e'.halted = e.halted := by
  simp only [Engine.halted, h.service, h.restart]

end Engine.Steady

open Engine (Steady)

variable {a e : Engine}

/-- Either way steady, so steady. -/
theorem ite_steady {c : Prop} [Decidable c] {x y : Engine} (hx : Steady a x) (hy : Steady a y) : Steady a (if c then x else y) := by
  split
  · exact hx
  · exact hy

/-! ## Updates -/

theorem modSession_steady {k : Nat} {f : Session → Session} (h : Steady a e) : Steady a (e.modSession k f) :=
  h.trans (by constructor <;> first | rfl | exact ⟨_, _, rfl⟩ | exact ⟨[], (List.append_nil _).symm⟩)

theorem setSession_steady {k : Nat} {x : Session} (h : Steady a e) : Steady a (e.setSession k x) :=
  h.trans (by constructor <;> first | rfl | exact ⟨_, _, rfl⟩ | exact ⟨[], (List.append_nil _).symm⟩)

theorem modBuf_steady {k b : Nat} {f : Buffer → Buffer} (h : Steady a e) : Steady a (e.modBuf k b f) :=
  h.trans (by constructor <;> first | rfl | exact ⟨_, _, rfl⟩ | exact ⟨[], (List.append_nil _).symm⟩)

theorem modHold_steady {b : Nat} {f : BodyHold → BodyHold} (h : Steady a e) : Steady a (e.modHold b f) :=
  h.trans (by constructor <;> first | rfl | exact ⟨_, _, rfl⟩ | exact ⟨[], (List.append_nil _).symm⟩)

theorem modCounter_steady {m : Nat} {f : Counters → Counters} (h : Steady a e) : Steady a (e.modCounter m f) :=
  h.trans (by constructor <;> first | rfl | exact ⟨_, _, rfl⟩ | exact ⟨[], (List.append_nil _).symm⟩)

theorem charge_steady {m : Nat} {f : Nat → Nat} (h : Steady a e) : Steady a (e.charge m f) :=
  h.trans (by constructor <;> first | rfl | exact ⟨_, _, rfl⟩ | exact ⟨[], (List.append_nil _).symm⟩)

theorem modLmp_steady {f : Lmp → Lmp} (h : Steady a e) : Steady a (e.modLmp f) :=
  h.trans (by constructor <;> first | rfl | exact ⟨_, _, rfl⟩ | exact ⟨[], (List.append_nil _).symm⟩)

theorem raise_steady {k : NoticeKind} {d : List Byte} (h : Steady a e) : Steady a (e.raise k d) :=
  h.trans (by constructor <;> first | rfl | exact ⟨_, _, rfl⟩ | exact ⟨[], (List.append_nil _).symm⟩)

theorem putSegment_steady {i : Nat} {g : SegEntry} (h : Steady a e) : Steady a (e.put (.segment i g)) :=
  h.trans (by constructor <;> first | rfl | exact ⟨_, _, rfl⟩ | exact ⟨[], (List.append_nil _).symm⟩)

theorem putBody_steady {b : Nat} {x : Option Body} (h : Steady a e) : Steady a (e.put (.body b x)) :=
  h.trans (by constructor <;> first | rfl | exact ⟨_, _, rfl⟩ | exact ⟨[], (List.append_nil _).symm⟩)

theorem putRecord_steady {r : Nat} {x : Option Record} (h : Steady a e) : Steady a (e.put (.record r x)) :=
  h.trans (by constructor <;> first | rfl | exact ⟨_, _, rfl⟩ | exact ⟨[], (List.append_nil _).symm⟩)

theorem putBoxFields_steady {m : Nat} {f : BoxFields} (h : Steady a e) : Steady a (e.put (.boxFields m f)) :=
  h.trans (by constructor <;> first | rfl | exact ⟨_, _, rfl⟩ | exact ⟨[], (List.append_nil _).symm⟩)

theorem putSlot_steady {m : Nat} {g : GreetingKind} {x : Slot} (h : Steady a e) : Steady a (e.putSlot m g x) :=
  h.trans (by constructor <;> first | rfl | exact ⟨_, _, rfl⟩ | exact ⟨[], (List.append_nil _).symm⟩)

theorem slots_steady {i o : Tab Nat} (h : Steady a e) : Steady a { e with slotsIn := i, slotsOut := o } :=
  h.trans (by constructor <;> first | rfl | exact ⟨_, _, rfl⟩ | exact ⟨[], (List.append_nil _).symm⟩)

theorem putBoxHead_steady {m : Nat} {r : Option Nat} (h : Steady a e) : Steady a (e.put (.boxHead m r)) := by
  have hw : (CatWrite.boxHead m r).apply e.tab = { e.tab with mailboxes := ((CatWrite.boxHead m r).apply e.tab).mailboxes } := by
    simp only [CatWrite.apply]; split <;> rfl
  exact h.trans (by constructor <;> first | rfl | exact ⟨_, _, rfl⟩ | exact ⟨[], (List.append_nil _).symm⟩ | (simp only [Engine.put_tab]; rw [hw]))

theorem putBoxTail_steady {m : Nat} {r : Option Nat} (h : Steady a e) : Steady a (e.put (.boxTail m r)) := by
  have hw : (CatWrite.boxTail m r).apply e.tab = { e.tab with mailboxes := ((CatWrite.boxTail m r).apply e.tab).mailboxes } := by
    simp only [CatWrite.apply]; split <;> rfl
  exact h.trans (by constructor <;> first | rfl | exact ⟨_, _, rfl⟩ | exact ⟨[], (List.append_nil _).symm⟩ | (simp only [Engine.put_tab]; rw [hw]))

theorem putRecordPrev_steady {m : Nat} {r : Option Nat} (h : Steady a e) : Steady a (e.put (.recordPrev m r)) := by
  have hw : (CatWrite.recordPrev m r).apply e.tab = { e.tab with records := ((CatWrite.recordPrev m r).apply e.tab).records } := by
    simp only [CatWrite.apply]; split <;> rfl
  exact h.trans (by constructor <;> first | rfl | exact ⟨_, _, rfl⟩ | exact ⟨[], (List.append_nil _).symm⟩ | (simp only [Engine.put_tab]; rw [hw]))

theorem putRecordNext_steady {m : Nat} {r : Option Nat} (h : Steady a e) : Steady a (e.put (.recordNext m r)) := by
  have hw : (CatWrite.recordNext m r).apply e.tab = { e.tab with records := ((CatWrite.recordNext m r).apply e.tab).records } := by
    simp only [CatWrite.apply]; split <;> rfl
  exact h.trans (by constructor <;> first | rfl | exact ⟨_, _, rfl⟩ | exact ⟨[], (List.append_nil _).symm⟩ | (simp only [Engine.put_tab]; rw [hw]))

/-- A change of the SSC's lists, queues, link or indication. -/
theorem modSsc_steady {f : Ssc → Ssc} (h : Steady a e) (hs : (f e.ssc).service = e.ssc.service := by rfl)
    (hd : (f e.ssc).devices = e.ssc.devices := by rfl) (ht : (f e.ssc).start = e.ssc.start := by rfl)
    (hf : (f e.ssc).flash = e.ssc.flash := by rfl) : Steady a (e.modSsc f) :=
  h.trans ⟨rfl, ⟨[], (List.append_nil _).symm⟩, rfl, ⟨_, _, rfl⟩, hs, hd, ht, hf, rfl, rfl, rfl, rfl, rfl⟩

/-! ## Segments and bodies -/

theorem raisePoolLow_steady {d : Nat} (h : Steady a e) : Steady a (e.raisePoolLow d) := raise_steady h

theorem examinePool_steady (h : Steady a e) : Steady a e.examinePool := by
  unfold Engine.examinePool
  (repeat' split) <;> first | exact h | exact raisePoolLow_steady (modSsc_steady h)

theorem putDirty_steady {i : Nat} (h : Steady a e) : Steady a (e.putDirty i) := putSegment_steady h

theorem joinDirty_steady {i : Nat} (h : Steady a e) : Steady a (e.joinDirty i) := examinePool_steady (modSsc_steady (putDirty_steady h))

theorem makeDirty_steady {i : Nat} (h : Steady a e) : Steady a (e.makeDirty i) := ite_steady (joinDirty_steady h) h

/-- The writes asked for become a sequence, or are dropped in a halted part. -/
theorem flush_steady {t : Then} (h : Steady a e) : Steady a (e.flush t) := by
  unfold Engine.flush
  (repeat' split) <;> first
    | exact h
    | exact h.trans (by constructor <;> first | rfl | exact ⟨_, _, rfl⟩ | exact ⟨_, rfl⟩ | exact ⟨[], (List.append_nil _).symm⟩)

/-- A fold of steady changes. -/
theorem foldl_steady {α : Type} {g : Engine → α → Engine} (hg : ∀ e x, Steady a e → Steady a (g e x)) :
    ∀ (l : List α) {e : Engine}, Steady a e → Steady a (l.foldl g e)
  | [], _, h => h
  | x :: l, _, h => foldl_steady hg l (hg _ x h)

theorem makeAllDirty_steady {is : List Nat} (h : Steady a e) : Steady a (e.makeAllDirty is) := foldl_steady (fun _ _ k => makeDirty_steady k) _ h

theorem raiseStoreFault_steady {op : StoreOp} {i : Nat} {c : StoreCause} {k : Option Nat} (h : Steady a e) : Steady a (e.raiseStoreFault op i c k) := raise_steady h

theorem createBody_steady {b : Nat} (h : Steady a e) : Steady a (e.createBody b) := modHold_steady (putBody_steady h)

theorem linkSegment_steady {b i : Nat} (h : Steady a e) : Steady a (e.linkSegment b i) := by
  unfold Engine.linkSegment
  try dsimp only
  (repeat' split) <;> first | exact h | exact putBody_steady (putSegment_steady h) | exact putBody_steady (putSegment_steady (putSegment_steady h))

theorem cutChain_steady {b f l : Nat} (h : Steady a e) : Steady a (e.cutChain b f l) := by
  unfold Engine.cutChain
  try dsimp only
  (repeat' split) <;> first | exact h | exact flush_steady (putBody_steady h) | exact flush_steady (putBody_steady (putSegment_steady h))

theorem release_steady {b : Nat} (h : Steady a e) : Steady a (e.release b) := modHold_steady (putBody_steady (makeAllDirty_steady h))

theorem releaseIfUnheld_steady {b : Nat} (h : Steady a e) : Steady a (e.releaseIfUnheld b) := by
  unfold Engine.releaseIfUnheld
  try dsimp only
  (repeat' split) <;> first | exact h | exact release_steady h

theorem modShare_steady {b : Nat} {f : Nat → Nat} (h : Steady a e) : Steady a (e.modShare b f) := by
  unfold Engine.modShare
  try dsimp only
  (repeat' split) <;> first | exact h | exact putBody_steady h

theorem dropShare_steady {b : Nat} (h : Steady a e) : Steady a (e.dropShare b) := releaseIfUnheld_steady (modShare_steady h)

theorem dropPin_steady {b : Nat} (h : Steady a e) : Steady a (e.dropPin b) := releaseIfUnheld_steady (modHold_steady h)

theorem dropReader_steady {b : Nat} (h : Steady a e) : Steady a (e.dropReader b) := releaseIfUnheld_steady (modHold_steady h)

theorem sealBody_steady {b o n : Nat} (h : Steady a e) : Steady a (e.sealBody b o n) := by
  unfold Engine.sealBody
  try dsimp only
  (repeat' split) <;> first | exact h | exact modHold_steady (putBody_steady h)

/-! ## Mailboxes, records, greetings -/

theorem handInputs_steady {m : Nat} (h : Steady a e) : Steady a (e.handInputs m) := by
  unfold Engine.handInputs
  try dsimp only
  (repeat' split) <;> first | exact h | exact modLmp_steady h

theorem handAll_steady {ms : List Nat} (h : Steady a e) : Steady a (e.handAll ms) := foldl_steady (fun _ _ k => handInputs_steady k) _ h

theorem appendRecord_steady {r : Nat} {x : Record} (h : Steady a e) : Steady a (e.appendRecord r x) := by
  unfold Engine.appendRecord
  try dsimp only
  (repeat' split) <;> first | exact h | exact putBoxTail_steady (putRecordNext_steady (putRecord_steady h)) | exact putBoxTail_steady (putBoxHead_steady (putRecord_steady h))

theorem unlinkRecord_steady {r : Nat} {x : Record} (h : Steady a e) : Steady a (e.unlinkRecord r x) := by
  unfold Engine.unlinkRecord
  try dsimp only
  (repeat' split) <;> first | exact h | exact putRecord_steady (putRecordPrev_steady (putRecordNext_steady h)) | exact putRecord_steady (putBoxTail_steady (putRecordNext_steady h)) | exact putRecord_steady (putRecordPrev_steady (putBoxHead_steady h)) | exact putRecord_steady (putBoxTail_steady (putBoxHead_steady h))

theorem changeRecord_steady {r : Nat} {x y : Record} (h : Steady a e) : Steady a (e.changeRecord r x y) := by
  unfold Engine.changeRecord
  try dsimp only
  (repeat' split) <;> first | exact h | exact putRecord_steady h | exact handInputs_steady (modCounter_steady (putRecord_steady h))

theorem clearTargets_steady {r : Nat} (h : Steady a e) : Steady a (e.clearTargets r) := by
  refine foldl_steady (fun _ _ k => ?_) _ h
  split
  · exact modSession_steady k
  · exact k

theorem detachRecord_steady {r : Nat} {x : Record} (h : Steady a e) : Steady a (e.detachRecord r x) := 
  clearTargets_steady (charge_steady (modCounter_steady (unlinkRecord_steady h)))

theorem freeRecordQuietly_steady {r : Nat} (h : Steady a e) : Steady a (e.freeRecordQuietly r) := by
  unfold Engine.freeRecordQuietly
  try dsimp only
  (repeat' split) <;> first | exact h | exact dropShare_steady (detachRecord_steady h)

theorem freeRecord_steady {r : Nat} (h : Steady a e) : Steady a (e.freeRecord r) := by
  unfold Engine.freeRecord
  try dsimp only
  (repeat' split) <;> first | exact h | exact handInputs_steady (freeRecordQuietly_steady h)

theorem recordSealed_steady {r : Nat} {cut : Bool} (h : Steady a e) : Steady a (e.recordSealed r cut) := by
  unfold Engine.recordSealed
  try dsimp only
  (repeat' split) <;> first | exact h | exact changeRecord_steady h

theorem makeCopy_steady {now : Now} {m b n src : Nat} {u : Bool} {c : Option Nat} (h : Steady a e) : Steady a (e.makeCopy now m b n src u c) := 
  handInputs_steady (charge_steady (modCounter_steady (modShare_steady (appendRecord_steady h))))

theorem replaceGreeting_steady {m : Nat} {g : GreetingKind} (h : Steady a e) : Steady a (e.replaceGreeting m g) := by
  unfold Engine.replaceGreeting
  try dsimp only
  (repeat' split) <;> first | exact h | exact putSlot_steady h | exact dropShare_steady (putSlot_steady h)

theorem abandonGreeting_steady {m : Nat} {g : GreetingKind} (h : Steady a e) : Steady a (e.abandonGreeting m g) := by
  unfold Engine.abandonGreeting
  try dsimp only
  (repeat' split) <;> first | exact h | exact putSlot_steady h | exact dropShare_steady (putSlot_steady h)

theorem emptySlot_steady {m : Nat} {g : GreetingKind} (h : Steady a e) : Steady a (e.emptySlot m g) := by
  unfold Engine.emptySlot
  try dsimp only
  (repeat' split) <;> first | exact h | exact putSlot_steady h | exact dropShare_steady (putSlot_steady h)

theorem emptySlots_steady {m : Nat} (h : Steady a e) : Steady a (e.emptySlots m) := foldl_steady (fun _ _ k => emptySlot_steady k) _ h

theorem freeBox_steady {m : Nat} (h : Steady a e) : Steady a (e.freeBox m) := foldl_steady (fun _ _ k => freeRecordQuietly_steady k) _ h

theorem purgeBox_steady {m : Nat} (h : Steady a e) : Steady a (e.purgeBox m) := emptySlots_steady (handInputs_steady (freeBox_steady h))

theorem markRecord_steady {now : Now} {r : Nat} {mk : Mark} (h : Steady a e) : Steady a (e.markRecord now r mk) := by
  unfold Engine.markRecord
  try dsimp only
  (repeat' split) <;> first | exact h | exact changeRecord_steady h

theorem loadMailbox_steady {m : Nat} {f : BoxFields} (h : Steady a e) : Steady a (e.loadMailbox m f) := handInputs_steady (modLmp_steady (putBoxFields_steady h))

theorem setActive_steady {m : Nat} {g : GreetingKind} (h : Steady a e) : Steady a (e.setActive m g) := by
  unfold Engine.setActive
  try dsimp only
  (repeat' split) <;> first | exact h | exact putBoxFields_steady h

/-! ## Sessions -/

theorem bindSlots_steady {k : Nat} {i o : Option Nat} (h : Steady a e) : Steady a (e.bindSlots k i o) := slots_steady h

theorem releaseSlots_steady {k : Nat} (h : Steady a e) : Steady a (e.releaseSlots k) :=
  h.trans (by constructor <;> first | rfl | exact ⟨_, _, rfl⟩ | exact ⟨[], (List.append_nil _).symm⟩)

theorem freeSession_steady {k : Nat} (h : Steady a e) : Steady a (e.freeSession k) := modSession_steady (releaseSlots_steady h)

theorem enterEnded_steady {k : Nat} {c : Cause} (h : Steady a e) : Steady a (e.enterEnded k c) := by
  unfold Engine.enterEnded
  try dsimp only
  (repeat' split) <;> first | exact h | exact freeSession_steady (modSession_steady h) | exact freeSession_steady (raise_steady (modSession_steady h)) | exact raise_steady (modSession_steady h)

theorem withdrawPrograms_steady {k : Nat} {t : ProgReq → Bool} (h : Steady a e) : Steady a (e.withdrawPrograms k t) := 
  foldl_steady (fun _ _ k => modBuf_steady k) _ (modSsc_steady h)

theorem unwant_steady {k : Nat} {t : ProgReq → Bool} (h : Steady a e) : Steady a (e.unwant k t) := modSsc_steady h

theorem withdrawReads_steady {k : Nat} (h : Steady a e) : Steady a (e.withdrawReads k) := by
  have h2 : Steady a ((e.ssc.readQueue.filter (fun r => r.session = k)).foldl (fun e r => e.modBuf k r.buf Buffer.idled)
      (e.modSsc (fun c => { c with readQueue := c.readQueue.filter (fun r => r.session ≠ k) }))) :=
    foldl_steady (fun _ _ k => modBuf_steady k) _ (modSsc_steady h)
  unfold Engine.withdrawReads
  try dsimp only
  split
  · split
    · exact modBuf_steady h2
    · exact h2
  · exact h2

theorem refund_steady {k n : Nat} (h : Steady a e) : Steady a (e.refund k n) := by
  unfold Engine.refund
  try dsimp only
  (repeat' split) <;> first | exact h | exact modHold_steady h | exact charge_steady (modHold_steady h)

theorem handTake_steady {k : Nat} (h : Steady a e) : Steady a (e.handTake k) := by
  unfold Engine.handTake
  try dsimp only
  (repeat' split) <;> first | exact h | exact handInputs_steady h

theorem idleFilling_steady {k : Nat} (h : Steady a e) : Steady a (e.idleFilling k) := modSession_steady h

theorem discard_steady {k : Nat} (h : Steady a e) : Steady a (e.discard k) := by
  unfold Engine.discard
  apply modSession_steady
  have h2 := refund_steady (k := k) (n := ((((e.withdrawPrograms k (fun _ => true)).unwant k (fun _ => true)).idleFilling k).hold
    ((((e.withdrawPrograms k (fun _ => true)).unwant k (fun _ => true)).idleFilling k).session k).bodyNo).begun)
    (idleFilling_steady (k := k) (unwant_steady (k := k) (t := fun _ => true) (withdrawPrograms_steady (k := k) (t := fun _ => true) h)))
  split
  · exact h2
  · exact freeRecord_steady h2
  · exact abandonGreeting_steady h2

theorem handBuffer_steady {k : Nat} (h : Steady a e) : Steady a (e.handBuffer k) := by
  unfold Engine.handBuffer
  try dsimp only
  (repeat' split) <;> first | exact h | exact modSsc_steady (modBuf_steady h)

theorem applyTrim_steady {k : Nat} {t : Trim} (h : Steady a e) : Steady a (e.applyTrim k t) := by
  unfold Engine.applyTrim
  extract_lets x out begun dataLen goneData goneWaiting goneFlight goneFilling gone e1 e2
  have h1 : Steady a e1 := withdrawPrograms_steady (unwant_steady (cutChain_steady h))
  have h2 : Steady a e2 := ite_steady (idleFilling_steady h1) (handBuffer_steady h1)
  exact modSession_steady (handTake_steady (refund_steady h2))

theorem checkDrained_steady {k : Nat} (h : Steady a e) : Steady a (e.checkDrained k) := by
  unfold Engine.checkDrained
  try dsimp only
  split
  · exact h
  · split
    · apply enterEnded_steady
      split
      · exact sealBody_steady h
      · exact recordSealed_steady (sealBody_steady h)
      · exact replaceGreeting_steady (sealBody_steady h)
    · exact h

theorem endTake_steady {k : Nat} {c : Cause} {cap : Option Nat} (h : Steady a e) : Steady a (e.endTake k c cap) := by
  unfold Engine.endTake
  extract_lets x e0
  have h0 : Steady a e0 := releaseSlots_steady (modSession_steady h)
  clear_value e0 x
  split
  · extract_lets last startS endS t
    refine ite_steady ?_ ?_
    · exact enterEnded_steady (discard_steady (modSession_steady h0))
    · exact checkDrained_steady (modSession_steady (applyTrim_steady h0))
  · exact enterEnded_steady (discard_steady h0)

theorem startBuffer_steady {k : Nat} (h : Steady a e) : Steady a (e.startBuffer k) := by
  unfold Engine.startBuffer
  try dsimp only
  split
  · exact endTake_steady h
  · split
    · exact endTake_steady h
    · split
      · exact handInputs_steady (charge_steady (modHold_steady (modBuf_steady h)))
      · exact modHold_steady (modBuf_steady h)

theorem fullBuffer_steady {k : Nat} (h : Steady a e) : Steady a (e.fullBuffer k) := by
  unfold Engine.fullBuffer
  try dsimp only
  (repeat' split) <;> first | exact h | exact startBuffer_steady (handBuffer_steady h)

theorem closeWindow_steady {k : Nat} (h : Steady a e) : Steady a (e.closeWindow k) := by
  unfold Engine.closeWindow
  extract_lets x w
  refine ite_steady h ?_
  split
  · extract_lets m1 e1 toState
    have h1 : Steady a e1 := modSession_steady h
    have ht : ∀ st, Steady a (toState st) := fun st => fullBuffer_steady (modSession_steady h1)
    clear_value e1 toState
    split
    · exact ite_steady (ht _) (fullBuffer_steady h1)
    · exact ite_steady (ht _) (ite_steady (endTake_steady h1) (fullBuffer_steady h1))
    · exact ite_steady (endTake_steady h1) (ite_steady (endTake_steady h1) (fullBuffer_steady h1))
  · exact h

theorem closeWindows_steady (h : Steady a e) : Steady a e.closeWindows := foldl_steady (fun _ _ k => closeWindow_steady k) _ h

theorem storeFull_steady {r : ProgReq} (h : Steady a e) : Steady a (e.storeFull r) := by
  unfold Engine.storeFull
  extract_lets k n e1 x cap
  have h1 : Steady a e1 := refund_steady (withdrawPrograms_steady (modBuf_steady h))
  clear_value e1 x cap
  refine ite_steady (endTake_steady h1) (ite_steady ?_ h1)
  split
  · extract_lets endS t1 e2
    have h2 : Steady a e2 := modSession_steady h1
    exact ite_steady (enterEnded_steady (discard_steady h2)) (checkDrained_steady (handTake_steady h2))
  · exact h1

theorem fetchOne_steady {k : Nat} (h : Steady a e) : Steady a (e.fetchOne k) := by
  unfold Engine.fetchOne
  try dsimp only
  (repeat' split) <;> first | exact h | exact modSsc_steady (modBuf_steady h)

theorem fetch_steady {k : Nat} (h : Steady a e) : Steady a (e.fetch k) := fetchOne_steady (fetchOne_steady h)

theorem playTarget_steady {now : Now} {c : Cause} {n : Nat} {x : Session} (h : Steady a e) : Steady a (e.playTarget now c n x) := by
  unfold Engine.playTarget
  (repeat' split) <;> first | exact h | exact changeRecord_steady h

theorem endPlay_steady {now : Now} {k : Nat} {c : Cause} (h : Steady a e) : Steady a (e.endPlay now k c) :=
  enterEnded_steady (playTarget_steady (dropReader_steady (releaseSlots_steady (modSession_steady (withdrawReads_steady h)))))

theorem outTaken_steady {now : Now} {k : Nat} (h : Steady a e) : Steady a (e.outTaken now k) := by
  unfold Engine.outTaken
  extract_lets e1 x e2
  have h1 : Steady a e1 := modSession_steady h
  have h2 : Steady a e2 := modSession_steady h1
  clear_value e1 x e2
  exact ite_steady (ite_steady (endPlay_steady h2) (ite_steady (fetch_steady (modSession_steady h2)) h2)) h1

theorem readHanded_steady {k b : Nat} (h : Steady a e) : Steady a (e.readHanded k b) := by
  unfold Engine.readHanded
  extract_lets x cur isCur e1 e2
  have h1 : Steady a e1 := modBuf_steady h
  have h2 : Steady a e2 := ite_steady (modSession_steady h1) h1
  exact fetch_steady h2

theorem stopSession_steady {now : Now} {k : Nat} (h : Steady a e) : Steady a (e.stopSession now k) :=
  ite_steady (endTake_steady h) (ite_steady (endPlay_steady h) h)

theorem cancelSession_steady {now : Now} {k : Nat} (h : Steady a e) : Steady a (e.cancelSession now k) :=
  ite_steady (enterEnded_steady (releaseSlots_steady (discard_steady (modSession_steady h)))) (ite_steady (endPlay_steady h) h)

theorem closeSession_steady {now : Now} {k : Nat} (h : Steady a e) : Steady a (e.closeSession now k) :=
  ite_steady (freeSession_steady h) (stopSession_steady (modSession_steady h))

theorem seekSession_steady {now : Now} {k c : Nat} (h : Steady a e) : Steady a (e.seekSession now k c) := by
  unfold Engine.seekSession
  extract_lets x e1 st from_
  have h1 : Steady a e1 := modSession_steady h
  exact ite_steady (endPlay_steady h1) (fetch_steady (modSession_steady (modSession_steady (withdrawReads_steady h1))))

theorem loseSession_steady {now : Now} {k : Nat} (h : Steady a e) : Steady a (e.loseSession now k) := by
  unfold Engine.loseSession
  extract_lets st e1
  have h1 : Steady a e1 := modSession_steady h
  exact ite_steady (endTake_steady h1) (ite_steady (endPlay_steady h1) h)

end Sys2Proof.Machine
end

