-- ==== Sys2Proof/Laws/Orders.lean ====
section
/-! SUPPORT. What follows every command's own effect (settling, the taking of orders), and the one form every accepted order's step takes. -/

namespace Sys2Proof.Machine

/-! ## The channel through the work of the blocks -/

/-- From e to e' the channel stands but for its flags, its outbox and its counts of errors, and so does the service state. -/
def Engine.SameChannel (e e' : Engine) : Prop :=
  e'.mgc.inbox = e.mgc.inbox ∧ e'.mgc.handling = e.mgc.handling ∧ e'.ssc.service = e.ssc.service

theorem Engine.SameChannel.refl (e : Engine) : e.SameChannel e := ⟨rfl, rfl, rfl⟩

theorem Engine.SameChannel.trans {a b c : Engine} (h : a.SameChannel b) (k : b.SameChannel c) : a.SameChannel c :=
  ⟨k.1.trans h.1, k.2.1.trans h.2.1, k.2.2.trans h.2.2⟩

theorem Engine.Steady.channel {a e : Engine} (h : a.Steady e) : a.SameChannel e := ⟨h.inbox, h.handling, h.service⟩

theorem flush_channel (t : Then) (e : Engine) : e.SameChannel (e.flush t) := by
  unfold Engine.flush
  (repeat' split) <;> exact ⟨rfl, rfl, rfl⟩

theorem endJob_channel (j : Job) (e : Engine) : e.SameChannel (e.endJob j) :=
  Engine.SameChannel.trans (⟨rfl, rfl, rfl⟩ : e.SameChannel (e.modDle (fun d => { d with queue := d.queue.filter (fun i => i.number ≠ j.number) })))
    (raise_steady (dropPin_steady (Engine.Steady.refl _))).channel

theorem endJobs_channel : ∀ (n : Nat) (e : Engine), e.SameChannel (e.endJobs n)
  | 0, e => Engine.SameChannel.refl e
  | n + 1, e => by
    unfold Engine.endJobs
    split
    · exact Engine.SameChannel.refl e
    · split
      · exact Engine.SameChannel.refl e
      · exact (endJob_channel _ e).trans (endJobs_channel n _)

theorem startErase_channel (e : Engine) : e.SameChannel e.startErase := by
  unfold Engine.startErase
  split <;> exact ⟨rfl, rfl, rfl⟩

theorem startRead_channel (e : Engine) : e.SameChannel e.startRead := by
  unfold Engine.startRead
  split <;> exact ⟨rfl, rfl, rfl⟩

theorem startProgram_channel (r : ProgReq) (i : Nat) (e : Engine) : e.SameChannel (e.startProgram r i) := by
  unfold Engine.startProgram
  extract_lets e1 e2
  have h2 : e.SameChannel e2 := ⟨rfl, rfl, rfl⟩
  exact h2.trans ((flush_channel _ e2).trans (examinePool_steady (Engine.Steady.refl _)).channel)

theorem chooseProgram_channel (e : Engine) : e.SameChannel e.chooseProgram := by
  unfold Engine.chooseProgram
  split
  · exact Engine.SameChannel.refl e
  · exact startProgram_channel _ _ e
  · exact Engine.SameChannel.trans ((storeFull_steady (modSsc_steady (Engine.Steady.refl _))).channel) (flush_channel _ _)

theorem arbitrate_channel : ∀ (n : Nat) (e : Engine), e.SameChannel (e.arbitrate n)
  | 0, e => Engine.SameChannel.refl e
  | n + 1, e => by
    unfold Engine.arbitrate
    (repeat' split) <;> first
      | exact Engine.SameChannel.refl e
      | exact startErase_channel e
      | exact startRead_channel e
      | exact (chooseProgram_channel e).trans (arbitrate_channel n _)

/-- Settling leaves the inbox, the reserved place and the service state. -/
theorem settle_channel (e : Engine) : e.SameChannel e.settle := by
  unfold Engine.settle
  extract_lets e1
  have h1 : e.SameChannel e1 := (flush_channel _ e).trans ((endJobs_channel _ _).trans (flush_channel _ _))
  exact h1.trans (arbitrate_channel _ e1)

/-! ## Settling a part at rest -/

theorem flush_none {t : Then} {e : Engine} (h : e.asked = []) : e.flush t = e := by simp [Engine.flush, h]

theorem endJobs_none {n : Nat} {e : Engine} (h : e.dle.due = none) : e.endJobs n = e := by
  cases n with
  | zero => rfl
  | succ n => simp [Engine.endJobs, h]

theorem flush_dle (t : Then) (e : Engine) : (e.flush t).dle = e.dle := by
  unfold Engine.flush
  (repeat' split) <;> rfl

theorem flush_ssc (t : Then) (e : Engine) : (e.flush t).ssc = e.ssc := by
  unfold Engine.flush
  (repeat' split) <;> rfl

theorem flush_mgc (t : Then) (e : Engine) : (e.flush t).mgc = e.mgc := by
  unfold Engine.flush
  (repeat' split) <;> rfl

theorem flush_asked (t : Then) (e : Engine) : (e.flush t).asked = [] := by
  unfold Engine.flush
  (repeat' split) <;> first | assumption | rfl

theorem flush_linkFree (t : Then) (e : Engine) : (e.flush t).linkFree = e.linkFree := by
  simp only [Engine.linkFree, Engine.halted, flush_ssc, flush_mgc]

/-- What the arbiter does with no program waiting: it starts a read, or else an erase, or nothing (R77). -/
def Engine.startNext (e : Engine) : Engine :=
  if !e.linkFree then e else if e.ssc.readQueue ≠ [] then e.startRead else if e.ssc.eraseQueue ≠ [] then e.startErase else e

/-- Settling where no job is due and no program can start: the writes asked for become a sequence, and the arbiter starts a read, an erase or
nothing. -/
theorem settle_quiet {e : Engine} (hd : e.dle.due = none) (hl : e.linkFree = false ∨ e.ssc.progQueue = []) :
    e.settle = (e.flush .nothing).startNext := by
  unfold Engine.settle
  rw [endJobs_none (by rw [flush_dle]; exact hd), flush_none (flush_asked _ _)]
  dsimp only
  have hf : (e.flush .nothing).linkFree = e.linkFree := flush_linkFree _ e
  have hs : (e.flush .nothing).ssc = e.ssc := flush_ssc _ e
  generalize e.flush .nothing = e1 at hs hf
  rcases hl with hl | hq
  · rw [hl] at hf
    simp [Engine.arbitrate, Engine.startNext, hf]
  · simp [Engine.arbitrate, Engine.startNext, hs, hq]

/-- A part at rest is settled. -/
theorem settle_atRest {e : Engine} (h : e.atRest) : e.settle = e := by
  obtain ⟨ha, hd, hl⟩ := h
  rw [settle_quiet hd (hl.imp id (fun x => x.1)), flush_none ha]
  unfold Engine.startNext
  rcases hl with hl | ⟨_, hr, he⟩
  · simp [hl]
  · simp [hr, he]

theorem takeOrder_none {s : State} (h : s.eng.mgc.inbox = []) : s.takeOrder = s := by
  unfold State.takeOrder
  rw [h]

theorem takeOrders_none {s : State} (h : s.eng.mgc.inbox = []) : ∀ n, s.takeOrders n = s
  | 0 => rfl
  | n + 1 => by rw [State.takeOrders, takeOrder_none h, takeOrders_none h n]

/-- Nothing follows in a calm part. -/
theorem finish_calm {s : State} (h : s.calm) : s.finish = s := by
  unfold State.finish
  rw [show s.onEng Engine.settle = s by simp [State.onEng, settle_atRest h.1]]
  exact takeOrders_none h.2 _

/-- What follows where no order waits: settling. -/
theorem finish_settle {s : State} (h : s.eng.mgc.inbox = []) : s.finish = s.onEng Engine.settle := by
  unfold State.finish
  exact takeOrders_none (by rw [State.onEng_eng, (settle_channel s.eng).1, h]) _

/-! ## Handlers keep the inbox -/

/-- A reply leaves the inbox as it was. -/
def Reply.Keeps (s : State) (r : Reply) : Prop := r.state.eng.mgc.inbox = s.eng.mgc.inbox

theorem Reply.refuse_keeps (r : Result) (s : State) : (Reply.refuse r s).Keeps s := rfl

theorem Reply.checked_keeps {cs : List (Bool × Result)} {s : State} {act : Reply} (h : act.Keeps s) : (Reply.checked cs s act).Keeps s := by
  unfold Reply.checked
  split
  · rfl
  · exact h

theorem Reply.done_keeps {d : List Byte} {s s' : State} (h : s'.eng.mgc.inbox = s.eng.mgc.inbox) : (Reply.done d s').Keeps s := h

theorem steady_inbox {s : State} {f : Engine → Engine} (h : s.eng.Steady (f s.eng)) : (s.onEng f).eng.mgc.inbox = s.eng.mgc.inbox := h.inbox

theorem addMember_inbox (l m : Nat) (e : Engine) : (e.addMember l m).mgc = e.mgc := by
  unfold Engine.addMember
  extract_lets d i e1 e2
  have h2 : e2.mgc = e.mgc := by
    show (match d.last with | none => e1 | some t => _).mgc = _
    (repeat' split) <;> rfl
  exact h2

theorem addMembers_mgc (l : Nat) : ∀ (ms : List Nat) (c : AddCounts) (e : Engine), (e.addMembers l ms c).2.mgc = e.mgc
  | [], _, _ => rfl
  | m :: ms, c, e => by
    unfold Engine.addMembers
    split
    · exact addMembers_mgc l ms _ e
    · split
      · rw [addMembers_mgc l ms]; exact addMember_inbox l m e
      · rfl

theorem foldl_putMember_mgc : ∀ (xs : List (Nat × Nat)) (e : Engine),
    (xs.foldl (fun e x => e.put (.member x.1 none)) e).mgc = e.mgc
  | [], _ => rfl
  | x :: xs, e => by rw [List.foldl_cons, foldl_putMember_mgc xs]; rfl

theorem clearList_mgc (l : Nat) (e : Engine) : (e.clearList l).mgc = e.mgc := foldl_putMember_mgc _ _

theorem target_steady (q : OpenRecord) (now : Now) (b : Nat) {a e : Engine} (h : a.Steady e) : a.Steady (q.target now b e).2 := by
  unfold OpenRecord.target
  extract_lets e1 r urgent
  have h1 : a.Steady e1 := createBody_steady h
  split
  · exact modCounter_steady (appendRecord_steady h1)
  · exact putSlot_steady h1

theorem formatContent_steady {a e : Engine} (h : a.Steady e) : a.Steady e.formatContent := by
  unfold Engine.formatContent
  extract_lets boxes e1 e2
  have h1 : a.Steady e1 := foldl_steady (fun _ _ k => freeBox_steady k) _ h
  have h2 : a.Steady e2 := foldl_steady (fun _ _ k => emptySlots_steady k) _ h1
  exact handAll_steady h2

/-- An order's owner leaves the inbox to the order processor. -/
theorem run_keeps (o : Order) (ps : List Byte) (s : State) : (o.run ps s).Keeps s := by
  have r := Engine.Steady.refl s.eng
  cases o <;> dsimp only [Order.run]
  case openRecord =>
    unfold orderOpenRecord OpenRecord.accept
    refine Reply.checked_keeps ?_
    exact (startBuffer_steady (bindSlots_steady (setSession_steady (target_steady _ _ _ r)))).inbox
  case openPlay =>
    unfold orderOpenPlay
    refine Reply.checked_keeps ?_
    split
    · rfl
    · exact Reply.checked_keeps (fetch_steady (bindSlots_steady (setSession_steady (modHold_steady r)))).inbox
  case stop => exact Reply.checked_keeps (stopSession_steady r).inbox
  case cancel => exact Reply.checked_keeps (cancelSession_steady r).inbox
  case pause =>
    unfold orderPause
    refine Reply.checked_keeps ?_
    split <;> rfl
  case resume =>
    unfold orderResume
    refine Reply.checked_keeps ?_
    split <;> rfl
  case seek => exact Reply.checked_keeps (seekSession_steady r).inbox
  case close => exact Reply.checked_keeps (closeSession_steady r).inbox
  case sessionStatus =>
    unfold orderSessionStatus
    refine Reply.checked_keeps ?_
    split
    · exact (freeSession_steady r).inbox
    · rfl
  case list => exact Reply.checked_keeps rfl
  case mark => exact Reply.checked_keeps (markRecord_steady r).inbox
  case delete => exact Reply.checked_keeps (freeRecord_steady r).inbox
  case purge => exact Reply.checked_keeps (purgeBox_steady r).inbox
  case loadClass =>
    refine Reply.checked_keeps ?_
    exact (handAll_steady (Engine.Steady.refl (s.eng.put _))).inbox
  case readClass => exact Reply.checked_keeps rfl
  case loadMailbox =>
    unfold orderLoadMailbox
    refine Reply.checked_keeps ?_
    split
    · rfl
    · exact (loadMailbox_steady r).inbox
  case readMailbox =>
    unfold orderReadMailbox
    refine Reply.checked_keeps ?_
    split <;> rfl
  case selectGreeting => exact Reply.checked_keeps (setActive_steady r).inbox
  case eraseGreeting => exact Reply.checked_keeps (emptySlot_steady r).inbox
  case listClear =>
    unfold orderListClear
    refine Reply.checked_keeps ?_
    split
    · rfl
    · exact congrArg Mgc.inbox (clearList_mgc _ s.eng)
  case listAdd => exact Reply.checked_keeps (congrArg Mgc.inbox (addMembers_mgc _ _ _ s.eng))
  case readList => exact Reply.checked_keeps rfl
  case deliver =>
    unfold orderDeliver
    refine Reply.checked_keeps ?_
    split <;> rfl
  case cancelDelivery => exact Reply.checked_keeps rfl
  case clearFault =>
    unfold orderClearFault
    split <;> rfl
  case lampStatus =>
    unfold orderLampStatus
    split <;> rfl
  case setClock => exact Reply.checked_keeps rfl
  case readClock => rfl
  case sweep => exact Reply.checked_keeps rfl
  case status => rfl
  case setOptions =>
    unfold orderSetOptions
    split
    · rfl
    · refine Reply.done_keeps ?_
      split
      · rfl
      · exact (examinePool_steady (Engine.Steady.refl _)).inbox
  case readOptions => rfl
  case clearFlags =>
    refine Reply.done_keeps ?_
    simp only [State.onEng_eng, Engine.modMgc_mgc]
    split <;> rfl
  case format => exact Reply.checked_keeps (formatContent_steady (Engine.Steady.refl (s.eng.beginStart .format true))).inbox
  case restart => rfl

/-! ## An accepted order -/

/-- The part while an order is handled: the order has left the inbox and its answer's place is reserved (R202). -/
def State.taken (s : State) : State := s.onEng (fun e => e.modMgc (fun g => { g with handling := true }))

theorem place_inbox (tag : Byte) (r : Reply) : (r.place tag).eng.mgc.inbox = r.state.eng.mgc.inbox := by
  simp only [Reply.place, State.onEng_eng, (settle_channel _).1]
  split
  · rw [flush_mgc]
  · rfl

/-- An order that arrives at an accepting part is judged and answered at once, and nothing else follows (R202). -/
theorem deliverOrder_judged {s : State} (h : s.accepting) (code tag : Byte) (ps : List Byte)
    (hk : (s.taken.judgeOrder code ps).Keeps s.taken) :
    s.deliverOrder code tag ps = (s.taken.judgeOrder code ps).place tag := by
  obtain ⟨hv, ⟨hr, hi⟩, hs, hh, hre, ho⟩ := h
  have hg : ((s.onEng (fun e => e.goodPacket (code :: tag :: ps)))) =
      s.onEng (fun e => e.modMgc (fun g => { g with inbox := [code :: tag :: ps] })) := by
    simp [State.onEng, Engine.goodPacket, hi, Engine.modMgc]
  have hc : (s.onEng (fun e => e.modMgc (fun g => { g with inbox := [code :: tag :: ps] }))).eng.canTake = true := by
    simp [Engine.canTake, hh, hre, hs, ho]
  have ht : ((s.onEng (fun e => e.modMgc (fun g => { g with inbox := [code :: tag :: ps] }))).onEng (fun e => e.modMgc Mgc.takeHead)) = s.taken := by
    simp [State.taken, State.onEng, Engine.modMgc, Mgc.takeHead, hi]
  unfold State.deliverOrder
  rw [if_neg (by rw [hv]; decide), hg, show Config.inboxPlaces = 7 + 1 from rfl, State.takeOrders]
  have h1 : (s.onEng (fun e => e.modMgc (fun g => { g with inbox := [code :: tag :: ps] }))).takeOrder = (s.taken.judgeOrder code ps).place tag := by
    unfold State.takeOrder
    rw [show (s.onEng (fun e => e.modMgc (fun g => { g with inbox := [code :: tag :: ps] }))).eng.mgc.inbox = [code :: tag :: ps] from rfl]
    dsimp only
    rw [if_pos hc, ht]
  rw [h1]
  exact takeOrders_none (by rw [place_inbox, hk]; exact hi) 7

theorem judgeOrder_keeps (code : Byte) (ps : List Byte) (s : State) : (s.judgeOrder code ps).Keeps s := by
  unfold State.judgeOrder
  split
  · rfl
  · split
    · rfl
    · split
      · rfl
      · exact run_keeps _ _ _

/-- The same, of every order. -/
theorem deliverOrder_accepted {s : State} (h : s.accepting) (code tag : Byte) (ps : List Byte) :
    s.deliverOrder code tag ps = (s.taken.judgeOrder code ps).place tag :=
  deliverOrder_judged h code tag ps (judgeOrder_keeps _ _ _)

/-- An order of the right length goes to its owner (R202). -/
theorem deliverOrder_run {s : State} (h : s.accepting) {code : Byte} {o : Order} (ho : Order.ofCode code = some o) (tag : Byte) {ps : List Byte}
    (hl : ps.length + 2 = o.bodyLength) : s.deliverOrder code tag ps = (o.run ps s.taken).place tag := by
  rw [deliverOrder_accepted h]
  have hs : s.taken.eng.ssc.service = .service := h.2.2.1
  simp [State.judgeOrder, ho, hl, hs]

/-! ## The place of a reply -/

/-- A reply over an untouched part leaves the answer in the outbox and nothing else changed. -/
theorem place_unchanged {s : State} (h : s.accepting) (tag : Byte) (r : Result) (d : List Byte) :
    ({ result := r, data := d, state := s.taken, waits := false } : Reply).place tag = s.withAnswer tag r d := by
  obtain ⟨hv, ⟨hr, hi⟩, hs, hh, hre, ho⟩ := h
  have he : (s.taken.eng.placeAnswer (answerPacket tag r d)).atRest := hr
  simp only [Reply.place, State.onEng, Bool.false_eq_true, if_false, settle_atRest he]
  simp [State.withAnswer, State.taken, State.onEng, Engine.modMgc, Engine.placeAnswer, hh]

theorem place_refuse {s : State} (h : s.accepting) (tag : Byte) (r : Result) : (Reply.refuse r s.taken).place tag = s.withAnswer tag r [] :=
  place_unchanged h tag r []

/-- An order that a check refuses is answered with the refusal, and nothing else changes (R202). -/
theorem place_checked {s : State} (h : s.accepting) {tag : Byte} {cs : List (Bool × Result)} {act : Reply} {r : Result}
    (hc : firstRefusal cs = some r) : (Reply.checked cs s.taken act).place tag = s.withAnswer tag r [] := by
  unfold Reply.checked
  rw [hc]
  exact place_refuse h tag r

/-! ## Completion -/

theorem exec_next (c : Instr) (s : State) : ∃ t, exec c s = .next t := by
  cases c <;> exact ⟨_, rfl⟩

end Sys2Proof.Machine
end

