-- ==== Sys2Proof/Laws/Outer.lean ====
section
/-! SUPPORT. What orders, and what follows a command, leave of the highway side, the calendar and the queue of commands. -/

namespace Sys2Proof.Machine

/-- What an order may do to the highway side and the calendar: SET CLOCK restarts the divider and sets a date, SWEEP starts a sweep (R190, R193). -/
inductive OuterStep (s : State) : State → Prop where
  | same {t : State} (h : t.hwi = s.hwi) (c : t.cal = s.cal) (p : t.pending = s.pending) : OuterStep s t
  | set {t : State} (y mo d hr mi se : Nat) (ok : dateLegal y mo d hr mi se = true) (h : t.hwi = { s.hwi with divider := 0, pulseDue := false })
      (c : t.cal = { s.cal with year := y, month := mo, day := d, hour := hr, minute := mi, second := se, valid := true, subCount := 0 })
      (p : t.pending = s.pending) : OuterStep s t
  | sweep {t : State} (h : t.hwi = s.hwi) (c : t.cal = s.cal.startSweep .order) (p : t.pending = s.pending) : OuterStep s t

theorem OuterStep.refl (s : State) : OuterStep s s := .same rfl rfl rfl

/-- Changes of the other blocks keep what stands outside them. -/
theorem OuterStep.onEng {s t : State} (h : OuterStep s t) (f : Engine → Engine) : OuterStep s (t.onEng f) := by
  cases h with
  | same h c p => exact .same h c p
  | set y mo d hr mi se ok h c p => exact .set y mo d hr mi se ok h c p
  | sweep h c p => exact .sweep h c p

theorem checked_outer {cs : List (Bool × Result)} {s : State} {act : Reply} (h : firstRefusal cs = none → OuterStep s act.state) :
    OuterStep s (Reply.checked cs s act).state := by
  unfold Reply.checked
  split
  · exact .refl s
  · exact h (by assumption)

theorem eng_outer {s : State} (e : Engine) : OuterStep s { s with eng := e } := .same rfl rfl rfl

theorem run_outer (o : Order) (ps : List Byte) (s : State) : OuterStep s (o.run ps s).state := by
  cases o <;> dsimp only [Order.run]
  case setClock =>
    refine checked_outer (fun hc => ?_)
    refine .set _ _ _ _ _ _ ?_ rfl rfl rfl
    · simpa [firstRefusal] using hc
  case sweep => exact checked_outer (fun _ => .sweep rfl rfl rfl)
  case openPlay =>
    refine checked_outer (fun _ => ?_)
    split
    · exact .refl s
    · exact checked_outer (fun _ => eng_outer _)
  case pause => exact checked_outer (fun _ => by split <;> exact .same rfl rfl rfl)
  case resume => exact checked_outer (fun _ => by split <;> exact .same rfl rfl rfl)
  case sessionStatus => exact checked_outer (fun _ => by split <;> exact .same rfl rfl rfl)
  case loadMailbox => exact checked_outer (fun _ => by split <;> exact .same rfl rfl rfl)
  case readMailbox => exact checked_outer (fun _ => by split <;> exact .same rfl rfl rfl)
  case listClear => exact checked_outer (fun _ => by split <;> exact .same rfl rfl rfl)
  case deliver => exact checked_outer (fun _ => by split <;> exact .same rfl rfl rfl)
  case clearFault => unfold orderClearFault; split <;> exact .same rfl rfl rfl
  case lampStatus => unfold orderLampStatus; split <;> exact .same rfl rfl rfl
  case setOptions => unfold orderSetOptions; split <;> exact .same rfl rfl rfl
  case readClock => exact .refl s
  case status => exact .refl s
  case readOptions => exact .refl s
  case clearFlags => exact .same rfl rfl rfl
  case restart => exact .same rfl rfl rfl
  all_goals exact checked_outer (fun _ => .same rfl rfl rfl)

theorem takeOrder_outer (s : State) : OuterStep s s.takeOrder := by
  unfold State.takeOrder
  split
  · split
    · rename_i code tag ps q hq hc
      have hj : OuterStep s ((s.onEng (fun e => e.modMgc Mgc.takeHead)).judgeOrder code ps).state := by
        unfold State.judgeOrder
        split
        · exact .same rfl rfl rfl
        · split
          · exact .same rfl rfl rfl
          · split
            · exact .same rfl rfl rfl
            · have := run_outer (by assumption) ps (s.onEng (fun e => e.modMgc Mgc.takeHead))
              cases this with
              | same h c p => exact .same h c p
              | set y mo d hr mi se ok h c p => exact .set y mo d hr mi se ok h c p
              | sweep h c p => exact .sweep h c p
      unfold Reply.place
      exact hj.onEng _
    · exact .refl s
  · exact .refl s

/-- What the highway, the calendar and the queue keep through any number of orders. -/
theorem takeOrders_induct {P : State → Prop} (hstep : ∀ s t, OuterStep s t → P s → P t) :
    ∀ (n : Nat) (s : State), P s → P (s.takeOrders n)
  | 0, _, h => h
  | n + 1, s, h => takeOrders_induct hstep n _ (hstep _ _ (takeOrder_outer s) h)

theorem finish_induct {P : State → Prop} (hstep : ∀ s t, OuterStep s t → P s → P t) (s : State) (h : P s) : P s.finish :=
  takeOrders_induct hstep _ _ (hstep s _ (.same rfl rfl rfl) h)

theorem deliverOrder_induct {P : State → Prop} (hstep : ∀ s t, OuterStep s t → P s → P t) (code tag : Byte) (ps : List Byte) (s : State)
    (h : P s) : P (s.deliverOrder code tag ps) := by
  unfold State.deliverOrder
  split
  · exact h
  · exact takeOrders_induct hstep _ _ (hstep s _ (.same rfl rfl rfl) h)

theorem OuterStep.pending {s t : State} (h : OuterStep s t) : t.pending = s.pending := by
  cases h <;> assumption

/-- Orders leave the highway but for the seconds divider. -/
theorem OuterStep.hwi {s t : State} (h : OuterStep s t) : ∃ d p, t.hwi = { s.hwi with divider := d, pulseDue := p } := by
  cases h with
  | same h _ _ => exact ⟨_, _, h⟩
  | set y mo d hr mi se ok h c p => exact ⟨_, _, h⟩
  | sweep h _ _ => exact ⟨_, _, h⟩

theorem finish_pending (s : State) : s.finish.pending = s.pending :=
  finish_induct (P := fun t => t.pending = s.pending) (fun _ _ h k => h.pending.trans k) s rfl

theorem deliverOrder_pending (code tag : Byte) (ps : List Byte) (s : State) : (s.deliverOrder code tag ps).pending = s.pending :=
  deliverOrder_induct (P := fun t => t.pending = s.pending) (fun _ _ h k => h.pending.trans k) code tag ps s rfl

theorem finish_hwi (s : State) : ∃ d p, s.finish.hwi = { s.hwi with divider := d, pulseDue := p } := by
  refine finish_induct (P := fun t => ∃ d p, t.hwi = { s.hwi with divider := d, pulseDue := p }) ?_ s ⟨_, _, rfl⟩
  rintro a b h ⟨d, p, k⟩
  obtain ⟨d', p', h'⟩ := h.hwi
  exact ⟨d', p', by rw [h', k]⟩

end Sys2Proof.Machine
end

