-- ==== Sys2Proof/Laws/Highway.lean ====
section
/-! SUPPORT. What the highway's events leave of the queue of commands and of the other blocks. -/

namespace Sys2Proof.Machine

/-! ## The queue of commands -/

theorem takePulse_pending (s : State) : s.takePulse.pending = s.pending := by
  unfold State.takePulse
  split
  · unfold State.secondCounted
    dsimp only
    split <;> rfl
  · rfl

theorem setFrameNo_pending (n : Option Nat) (s : State) : (s.setFrameNo n).pending = s.pending := by
  unfold State.setFrameNo State.lampRestart
  dsimp only
  (repeat' split) <;> rfl

theorem loseHighwayClock_pending (s : State) : s.loseHighwayClock.pending = s.pending := by
  unfold State.loseHighwayClock
  split <;> rfl

theorem enterSearch_pending (s : State) : s.enterSearch.pending = s.pending := by
  unfold State.enterSearch
  dsimp only
  split <;> simp [State.raiseHighway, setFrameNo_pending, loseHighwayClock_pending]

theorem lampRestart_pending (s : State) : s.lampRestart.pending = s.pending := by
  unfold State.lampRestart
  split <;> rfl

theorem numberFrame_pending (k : SyncKind) (s : State) : (s.numberFrame k).pending = s.pending := by
  unfold State.numberFrame
  split
  · split
    · exact setFrameNo_pending _ _
    · rfl
  · dsimp only
    split
    · rw [lampRestart_pending, State.modHwi_pending, setFrameNo_pending]
    · exact setFrameNo_pending _ _

theorem alignFrame_pending (k : SyncKind) (s : State) : (s.alignFrame k).pending = s.pending := by
  unfold State.alignFrame
  split <;> exact setFrameNo_pending _ _

theorem boundary_pending (k : Option SyncKind) (s : State) : (s.boundary k).pending = s.pending := by
  unfold State.boundary
  dsimp only
  rw [← takePulse_pending s]
  generalize s.takePulse = s
  split
  · rfl
  · simp [alignFrame_pending]
  · exact enterSearch_pending s
  · split
    · simp [State.enterLocked, State.raiseHighway, State.gainHighwayClock, alignFrame_pending]
    · simp [alignFrame_pending]
  · rfl
  · simp [State.divideFrame, numberFrame_pending]
  · split
    · exact (enterSearch_pending s.divideFrame).trans rfl
    · rfl
  · simp [State.divideFrame, numberFrame_pending]

theorem secondCounted_pending (s : State) : s.secondCounted.pending = s.pending := by
  unfold State.secondCounted
  dsimp only
  split <;> rfl

theorem endSweep_pending (n : Nat) (s : State) : (s.endSweep n).pending = s.pending := rfl

theorem examination_pending (s : State) : s.examination.pending = s.pending := by
  unfold State.examination
  split
  · rfl
  · dsimp only
    split <;> rfl

theorem frame_pending (h : List Byte) (s : State) : (s.frame h).pending = s.pending := by
  unfold State.frame State.beginFrame
  dsimp only
  (repeat' split) <;> simp [boundary_pending]


/-! ## The other blocks at a frame boundary -/

/-- From e to e' only the lamp unit, the flags, the outbox and the receiver may change. -/
def Engine.Line (e e' : Engine) : Prop :=
  ∃ l f o r, e' = { e with lmp := l, mgc := { e.mgc with flags := f, outbox := o, rx := r } }

theorem Engine.Line.refl (e : Engine) : e.Line e := ⟨_, _, _, _, rfl⟩

theorem Engine.Line.trans {a b c : Engine} (h : a.Line b) (k : b.Line c) : a.Line c := by
  obtain ⟨l, f, o, r, rfl⟩ := h
  obtain ⟨l', f', o', r', rfl⟩ := k
  exact ⟨l', f', o', r', rfl⟩

/-- A part at rest stays at rest. -/
theorem Engine.Line.atRest {e e' : Engine} (h : e.Line e') (k : e.atRest) : e'.atRest := by
  obtain ⟨l, f, o, r, rfl⟩ := h
  exact k

theorem Engine.Line.inbox {e e' : Engine} (h : e.Line e') : e'.mgc.inbox = e.mgc.inbox := by
  obtain ⟨l, f, o, r, rfl⟩ := h
  rfl

theorem Engine.Line.service {e e' : Engine} (h : e.Line e') : e'.ssc.service = e.ssc.service := by
  obtain ⟨l, f, o, r, rfl⟩ := h
  rfl

theorem lampRestart_line (s : State) : s.eng.Line s.lampRestart.eng := by
  unfold State.lampRestart
  split
  · exact .refl _
  · exact ⟨_, _, _, _, rfl⟩

theorem setFrameNo_line (n : Option Nat) (s : State) : s.eng.Line (s.setFrameNo n).eng := by
  unfold State.setFrameNo
  dsimp only
  split
  · exact .refl _
  · exact lampRestart_line _

theorem loseHighwayClock_eng (s : State) : s.loseHighwayClock.eng = s.eng := by
  unfold State.loseHighwayClock
  split <;> rfl

theorem raiseHighway_line (st : SyncState) (s : State) : s.eng.Line (s.raiseHighway st).eng := ⟨_, _, _, _, rfl⟩

theorem enterSearch_line (s : State) : s.eng.Line s.enterSearch.eng := by
  unfold State.enterSearch
  extract_lets s1 s2
  have h1 : s.eng.Line s1.eng := by
    have := setFrameNo_line none s.loseHighwayClock
    rwa [loseHighwayClock_eng] at this
  have h2 : s.eng.Line s2.eng := h1.trans (raiseHighway_line _ _)
  split
  · exact h2
  · exact h2.trans ⟨_, _, _, _, rfl⟩

theorem enterLocked_line (s : State) : s.eng.Line s.enterLocked.eng := ⟨_, _, _, _, rfl⟩

theorem numberFrame_line (k : SyncKind) (s : State) : s.eng.Line (s.numberFrame k).eng := by
  unfold State.numberFrame
  split
  · split
    · exact setFrameNo_line _ _
    · exact .refl _
  · extract_lets s1
    split
    · exact (setFrameNo_line _ _).trans (lampRestart_line (s1.modHwi _))
    · exact setFrameNo_line _ _

theorem alignFrame_line (k : SyncKind) (s : State) : s.eng.Line (s.alignFrame k).eng := by
  unfold State.alignFrame
  split <;> exact setFrameNo_line _ _

theorem takePulse_none {s : State} (h : s.hwi.pulseDue = false) : s.takePulse = s := by simp [State.takePulse, h]

/-- A frame boundary with no seconds pulse due touches the lamp unit, the flags, the outbox and the receiver alone. -/
theorem boundary_line (k : Option SyncKind) {s : State} (h : s.hwi.pulseDue = false) : s.eng.Line (s.boundary k).eng := by
  unfold State.boundary
  rw [takePulse_none h]
  dsimp only
  split
  · exact .refl _
  · exact alignFrame_line _ _
  · exact enterSearch_line s
  · split
    · exact (alignFrame_line _ (s.modHwi _)).trans (enterLocked_line _)
    · exact alignFrame_line _ (s.modHwi _)
  · exact ⟨_, _, _, _, rfl⟩
  · exact numberFrame_line _ _
  · split
    · exact enterSearch_line s.divideFrame
    · exact ⟨_, _, _, _, rfl⟩
  · exact numberFrame_line _ (s.modHwi _)

end Sys2Proof.Machine
end

