-- ==== Sys2Proof/Laws/Frame.lean ====
section
/-! SUPPORT. What the management bytes, the lamp byte and the traffic of a begun frame do. -/

namespace Sys2Proof.Machine

/-! ## The management bytes -/

/-- From e to g only the outbox and the bytes handed of its head differ. -/
def Engine.OutboxApart (e g : Engine) : Prop := ∃ o n, g = { e with mgc := { e.mgc with outbox := o, handed := n } }

theorem Engine.OutboxApart.refl (e : Engine) : e.OutboxApart e := ⟨_, _, rfl⟩

theorem Engine.OutboxApart.symm {e g : Engine} (h : e.OutboxApart g) : g.OutboxApart e := by
  obtain ⟨o, n, rfl⟩ := h
  exact ⟨e.mgc.outbox, e.mgc.handed, rfl⟩

theorem Engine.OutboxApart.trans {a b c : Engine} (h : a.OutboxApart b) (k : b.OutboxApart c) : a.OutboxApart c := by
  obtain ⟨o, n, rfl⟩ := h
  obtain ⟨o', n', rfl⟩ := k
  exact ⟨o', n', rfl⟩

theorem raise_apart {e g : Engine} (k : NoticeKind) (d d' : List Byte) (h : e.OutboxApart g) : (e.raise k d).OutboxApart (g.raise k d') := by
  obtain ⟨o, n, rfl⟩ := h
  exact ⟨_, _, rfl⟩

theorem modMgc_apart {e g : Engine} {f : Mgc → Mgc}
    (hf : ∀ (m : Mgc) o n, ∃ o' n', f { m with outbox := o, handed := n } = { f m with outbox := o', handed := n' })
    (h : e.OutboxApart g) : (e.modMgc f).OutboxApart (g.modMgc f) := by
  obtain ⟨o, n, rfl⟩ := h
  obtain ⟨o', n', hf⟩ := hf e.mgc o n
  exact ⟨o', n', by simp only [Engine.modMgc, hf]⟩

theorem errorGate_apart {e g : Engine} (h : e.OutboxApart g) : e.errorGate.OutboxApart g.errorGate := by
  obtain ⟨o, n, rfl⟩ := h
  unfold Engine.errorGate
  dsimp only
  split
  · exact ⟨_, _, rfl⟩
  · exact ⟨_, _, rfl⟩

theorem lengthError_apart {e g : Engine} (h : e.OutboxApart g) : e.lengthError.OutboxApart g.lengthError :=
  errorGate_apart (modMgc_apart (fun _ _ _ => ⟨_, _, rfl⟩) h)

theorem checkError_apart {e g : Engine} (h : e.OutboxApart g) : e.checkError.OutboxApart g.checkError :=
  errorGate_apart (modMgc_apart (fun _ _ _ => ⟨_, _, rfl⟩) h)

theorem overrun_apart {e g : Engine} (h : e.OutboxApart g) : e.overrun.OutboxApart g.overrun :=
  errorGate_apart (modMgc_apart (fun _ _ _ => ⟨_, _, rfl⟩) h)

theorem setRx_apart {e g : Engine} (rx : Option (List Byte)) (h : e.OutboxApart g) : (e.setRx rx).OutboxApart (g.setRx rx) :=
  modMgc_apart (fun _ _ _ => ⟨_, _, rfl⟩) h

theorem goodPacket_apart {e g : Engine} (body : List Byte) (h : e.OutboxApart g) : (e.goodPacket body).OutboxApart (g.goodPacket body) := by
  have hi : g.mgc.inbox = e.mgc.inbox := by
    obtain ⟨o, n, rfl⟩ := h
    rfl
  unfold Engine.goodPacket
  rw [hi]
  split
  · exact modMgc_apart (fun _ _ _ => ⟨_, _, rfl⟩) h
  · exact overrun_apart h

/-- The receiver does not see the outbox: what it does with a byte, and which bytes it takes again, is the same. -/
theorem rxByte_apart {e g : Engine} (b : Byte) (h : e.OutboxApart g) :
    (e.rxByte b).1.OutboxApart (g.rxByte b).1 ∧ (g.rxByte b).2 = (e.rxByte b).2 := by
  have hr : g.mgc.rx = e.mgc.rx := by
    obtain ⟨o, n, rfl⟩ := h
    rfl
  unfold Engine.rxByte
  rw [hr]
  split
  · refine ⟨?_, rfl⟩
    split
    · exact setRx_apart _ h
    · exact h
  · split
    · exact ⟨setRx_apart _ h, rfl⟩
    · exact ⟨lengthError_apart (setRx_apart _ h), rfl⟩
  · split
    · exact ⟨setRx_apart _ h, rfl⟩
    · split
      · exact ⟨goodPacket_apart _ (setRx_apart _ h), rfl⟩
      · exact ⟨checkError_apart (setRx_apart _ h), rfl⟩

theorem rxRun_apart : ∀ (n : Nat) (bs : List Byte) {e g : Engine}, e.OutboxApart g → (e.rxRun n bs).OutboxApart (g.rxRun n bs)
  | 0, _, _, _, h => h
  | _ + 1, [], _, _, h => h
  | n + 1, b :: bs, e, g, h => by
    unfold Engine.rxRun
    dsimp only
    rw [(rxByte_apart b h).2]
    exact rxRun_apart n _ (rxByte_apart b h).1

/-- What leaves the outbox meanwhile does not change what the receiver does with a byte (R198). -/
theorem mgmtIn_apart {e g : Engine} (b : Byte) (h : e.OutboxApart g) : (e.mgmtIn b).OutboxApart (g.mgmtIn b) := rxRun_apart 1400 [b] h

/-- From e to g the receiver has worked: good packets have joined the inbox and notices the outbox, each at its tail, and outside the channel, and of what
the outbox has handed and the orders do, nothing has changed. -/
def Engine.Receiving (e g : Engine) : Prop :=
  g = { e with mgc := g.mgc } ∧ (∃ i, g.mgc.inbox = e.mgc.inbox ++ i) ∧ (∃ ps, g.mgc.outbox = e.mgc.outbox ++ ps) ∧ g.mgc.handed = e.mgc.handed ∧
    g.mgc.handling = e.mgc.handling ∧ g.mgc.restart = e.mgc.restart

theorem Engine.Receiving.refl (e : Engine) : e.Receiving e := ⟨rfl, ⟨[], (List.append_nil _).symm⟩, ⟨[], (List.append_nil _).symm⟩, rfl, rfl, rfl⟩

theorem Engine.Receiving.trans {a b c : Engine} (h : a.Receiving b) (k : b.Receiving c) : a.Receiving c := by
  obtain ⟨h1, ⟨i, hi⟩, ⟨o, ho⟩, h4, h5, h6⟩ := h
  obtain ⟨k1, ⟨j, hj⟩, ⟨p, hp⟩, k4, k5, k6⟩ := k
  refine ⟨?_, ⟨i ++ j, by rw [hj, hi, List.append_assoc]⟩, ⟨o ++ p, by rw [hp, ho, List.append_assoc]⟩, k4.trans h4, k5.trans h5, k6.trans h6⟩
  rw [h1] at k1
  exact k1

theorem errorGate_receiving (e : Engine) : e.Receiving e.errorGate := by
  obtain ⟨f, o, n, ho, h⟩ := errorGate_eq e
  rw [h]
  exact ⟨rfl, ⟨[], (List.append_nil _).symm⟩, ho, rfl, rfl, rfl⟩

theorem setRx_receiving (rx : Option (List Byte)) (e : Engine) : e.Receiving (e.setRx rx) :=
  ⟨rfl, ⟨[], (List.append_nil _).symm⟩, ⟨[], (List.append_nil _).symm⟩, rfl, rfl, rfl⟩

theorem lengthError_receiving (e : Engine) : e.Receiving e.lengthError :=
  Engine.Receiving.trans (b := e.modMgc _) ⟨rfl, ⟨[], (List.append_nil _).symm⟩, ⟨[], (List.append_nil _).symm⟩, rfl, rfl, rfl⟩ (errorGate_receiving _)

theorem checkError_receiving (e : Engine) : e.Receiving e.checkError :=
  Engine.Receiving.trans (b := e.modMgc _) ⟨rfl, ⟨[], (List.append_nil _).symm⟩, ⟨[], (List.append_nil _).symm⟩, rfl, rfl, rfl⟩ (errorGate_receiving _)

theorem overrun_receiving (e : Engine) : e.Receiving e.overrun :=
  Engine.Receiving.trans (b := e.modMgc _) ⟨rfl, ⟨[], (List.append_nil _).symm⟩, ⟨[], (List.append_nil _).symm⟩, rfl, rfl, rfl⟩ (errorGate_receiving _)

theorem goodPacket_receiving (body : List Byte) (e : Engine) : e.Receiving (e.goodPacket body) := by
  unfold Engine.goodPacket
  split
  · exact ⟨rfl, ⟨[body], rfl⟩, ⟨[], (List.append_nil _).symm⟩, rfl, rfl, rfl⟩
  · exact overrun_receiving e

theorem rxByte_receiving (b : Byte) (e : Engine) : e.Receiving (e.rxByte b).1 := by
  unfold Engine.rxByte
  split
  · dsimp only
    split
    · exact setRx_receiving _ e
    · exact .refl e
  · split
    · exact setRx_receiving _ e
    · exact (setRx_receiving _ e).trans (lengthError_receiving _)
  · split
    · exact setRx_receiving _ e
    · split
      · exact (setRx_receiving _ e).trans (goodPacket_receiving _ _)
      · exact (setRx_receiving _ e).trans (checkError_receiving _)

theorem rxRun_receiving : ∀ (n : Nat) (bs : List Byte) (e : Engine), e.Receiving (e.rxRun n bs)
  | 0, _, e => .refl e
  | _ + 1, [], e => .refl e
  | n + 1, b :: bs, e => by
    unfold Engine.rxRun
    exact (rxByte_receiving b e).trans (rxRun_receiving n _ _)

/-- Everything a management byte can do (R198 to R201). -/
theorem mgmtIn_receiving (b : Byte) (e : Engine) : e.Receiving (e.mgmtIn b) := rxRun_receiving 1400 [b] e

/-- In HUNT a byte that is no lead byte is discarded (R198). -/
theorem mgmtIn_hunt {b : Byte} {e : Engine} (h : e.mgc.rx = none) (hb : b ≠ 0xC3) : e.mgmtIn b = e := by
  simp only [Engine.mgmtIn, Engine.rxRun, Engine.rxByte, h, if_neg hb, List.nil_append]

/-- With no RESTART on its way, what a management timeslot takes out changes the outbox alone (R203). -/
theorem mgmtOut_apart {e : Engine} (h : e.mgc.restart = .none) : e.OutboxApart e.mgmtOut.2 := by
  unfold Engine.mgmtOut
  split
  · exact .refl e
  · dsimp only
    split
    · unfold Engine.packetLeft
      rw [h]
      exact ⟨_, _, rfl⟩
    · exact ⟨_, _, rfl⟩

/-- With nothing in the outbox, a management timeslot carries $FF (R7). -/
theorem mgmtOut_empty {e : Engine} (h : e.mgc.outbox = []) : e.mgmtOut = (0xFF, e) := by
  unfold Engine.mgmtOut
  rw [h]

/-- With a packet at its head and no RESTART on its way, the outbox gives the packet's next byte; with the last one the packet leaves (R7, R203). -/
theorem mgmtOut_cons {e : Engine} {p : List Byte} {q : List (List Byte)} (hr : e.mgc.restart = .none) (he : e.mgc.outbox = p :: q) :
    e.mgmtOut = (p.getD e.mgc.handed 0xFF,
      if p.length ≤ e.mgc.handed + 1 then e.modMgc (fun g => { g with outbox := q, handed := 0 }) else
        e.modMgc (fun g => { g with outbox := p :: q, handed := e.mgc.handed + 1 })) := by
  unfold Engine.mgmtOut
  rw [he]
  dsimp only
  split
  · simp [Engine.packetLeft, hr, Engine.modMgc, he]
  · simp [Engine.modMgc, ← he]

/-! ## A frame begun -/

theorem closeWindow_none {e : Engine} {k : Nat} (h : (e.session k).windowDue = false) : e.closeWindow k = e := by simp [Engine.closeWindow, h]

theorem session_mem (e : Engine) (k : Nat) : (∃ kx ∈ e.sessions, kx.2 = e.session k) ∨ e.session k = Session.reset := by
  unfold Engine.session Tab.get
  generalize e.sessions = t
  induction t with
  | nil => exact .inr rfl
  | cons y t ih =>
    simp only [Tab.find?]
    by_cases hk : k = y.1
    · exact .inl ⟨y, List.mem_cons_self, by simp [hk]⟩
    · rw [if_neg hk]
      exact ih.imp (fun ⟨kx, hm, h⟩ => ⟨kx, List.mem_cons_of_mem _ hm, h⟩) id

/-- With no window end due, none is taken before a frame (log 9). -/
theorem closeWindows_none {e : Engine} (h : ∀ kx ∈ e.sessions, kx.2.windowDue = false) : e.closeWindows = e := by
  have hs : ∀ k, (e.session k).windowDue = false := fun k => by
    rcases session_mem e k with ⟨kx, hm, hk⟩ | hk
    · rw [← hk]
      exact h kx hm
    · rw [hk]
      rfl
  unfold Engine.closeWindows
  generalize e.sessions.map (·.1) = ks
  induction ks with
  | nil => rfl
  | cons k ks ih => rw [List.foldl_cons, closeWindow_none (hs k), ih]

/-- A frame whose sync has been taken, of a highway that carries traffic, with no window end due: its traffic and nothing else (R2, R7, R10). -/
theorem frame_begun {s : State} (hrx : List Byte) (hb : s.hwi.frameBegun = true) (hc : s.carries = true)
    (hw : ∀ kx ∈ s.eng.sessions, kx.2.windowDue = false) :
    s.frame hrx = { s with hwi := { s.hwi with frameBegun := false, htx := (s.eng.traffic s.now s.hwi.frameNo hrx).1 },
                           eng := (s.eng.traffic s.now s.hwi.frameNo hrx).2 } := by
  have h1 : s.onEng Engine.closeWindows = s := by simp [State.onEng, closeWindows_none hw]
  have hc' : (s.modHwi (fun h => { h with frameBegun := false })).carries = true := hc
  simp only [State.frame, h1, State.beginFrame, hb, if_true, hc']
  rfl

/-- The highway carries traffic in LOCKED and FLYWHEEL outside FROZEN (R5, R15). -/
theorem carries_of {s : State} (h : s.hwi.sync = .locked ∨ s.hwi.sync = .flywheel) (hf : s.eng.ssc.service ≠ .frozen) : s.carries = true := by
  rcases h with h | h <;> simp [State.carries, h, hf]

/-- The traffic of a frame with no voice timeslot bound: the management bytes, outbound before inbound in each timeslot, and the lamp byte (R7). -/
theorem traffic_unbound {e : Engine} (now : Now) (frameNo : Option Nat) (hrx : List Byte)
    {o0 o1 o2 : Byte} {e0 e1 e2 : Engine} (h0 : e.mgmtOut = (o0, e0)) (h1 : (e0.mgmtIn (hrx.getD 0 0xFF)).mgmtOut = (o1, e1))
    (h2 : (e1.mgmtIn (hrx.getD 1 0xFF)).lampFrame frameNo (hrx.getD 2 0xFF) = (o2, e2)) (hi2 : e2.slotsIn = []) (ho2 : e2.slotsOut = []) :
    e.traffic now frameNo hrx = (o0 :: o1 :: o2 :: List.replicate 125 0x00, e2) := by
  have hv : ∀ t, e2.voiceOut t = 0x00 := fun t => by
    unfold Engine.voiceOut
    rw [ho2]
    rfl
  have hf : e2.voiceFrame now hrx = e2 := by simp [Engine.voiceFrame, ho2, hi2]
  simp only [Engine.traffic, h0, h1, h2, hf, hv]
  rfl

/-- A frame on which nothing arrives: its management timeslots carry what the outbox gives, every other byte is idle, and the part stands as the outbox
leaves it (R7, R203). -/
theorem frame_silent {s : State} {hrx : List Byte} (hb : s.hwi.frameBegun = true) (hc : s.carries = true)
    (hw : ∀ kx ∈ s.eng.sessions, kx.2.windowDue = false) (hn : s.hwi.frameNo = none) (h0 : hrx.getD 0 0xFF ≠ 0xC3) (h1 : hrx.getD 1 0xFF ≠ 0xC3)
    {o0 o1 : Byte} {e0 e1 : Engine} (k0 : s.eng.mgmtOut = (o0, e0)) (k1 : e0.mgmtOut = (o1, e1)) (r0 : e0.mgc.rx = none) (r1 : e1.mgc.rx = none)
    (hi1 : e1.slotsIn = []) (ho1 : e1.slotsOut = []) :
    s.frame hrx = { s with hwi := { s.hwi with frameBegun := false, htx := o0 :: o1 :: 0xFF :: List.replicate 125 0x00 }, eng := e1 } := by
  rw [frame_begun hrx hb hc hw, hn, traffic_unbound s.now none hrx k0 (o1 := o1) (e1 := e1) (o2 := 0xFF) (e2 := e1) (by rw [mgmtIn_hunt r0 h0]; exact k1)
    (by rw [mgmtIn_hunt r1 h1]; rfl) hi1 ho1]

/-! ## The lamp byte -/

/-- Judging a lamp's cell touches the lamp unit, its notices and flags alone. -/
theorem judge_line (p : Nat) (cell : List Byte) (e : Engine) : e.Line (e.judge p cell) := by
  unfold Engine.judge
  extract_lets l mine e1
  have h1 : e.Line e1 := ⟨_, _, _, _, rfl⟩
  split
  · exact h1
  · split
    · exact h1
    · extract_lets x
      split
      · exact h1
      · split
        · refine h1.trans ?_
          unfold Engine.lampOk
          dsimp only
          split <;> exact ⟨_, _, _, _, rfl⟩
        · refine h1.trans ?_
          unfold Engine.lampBad Engine.lampConfirmed Engine.raiseLampFault
          dsimp only
          (repeat' split) <;> exact ⟨_, _, _, _, rfl⟩

/-- So does the lamp byte of a frame (R174, R175). -/
theorem lampFrame_line (n : Option Nat) (b : Byte) (e : Engine) : e.Line (e.lampFrame n b).2 := by
  unfold Engine.lampFrame
  split
  · exact .refl e
  · dsimp only
    rename_i n
    refine Engine.Line.trans (b := { e with lmp := (e.lmp.outByte n).2 }) ⟨_, _, _, _, rfl⟩ ?_
    unfold Engine.lampByte
    dsimp only
    (repeat' split) <;> first
      | exact ⟨_, _, _, _, rfl⟩
      | exact Engine.Line.trans (b := Engine.modLmp _ _) ⟨_, _, _, _, rfl⟩ (judge_line _ _ _)

/-- Of the channel, judging a lamp's cell touches the flags and the outbox alone. -/
theorem judge_mgc (p : Nat) (cell : List Byte) (e : Engine) :
    (e.judge p cell).mgc = { e.mgc with flags := (e.judge p cell).mgc.flags, outbox := (e.judge p cell).mgc.outbox } := by
  unfold Engine.judge Engine.lampOk Engine.lampBad Engine.lampConfirmed Engine.raiseLampFault
  dsimp only
  (repeat' split) <;> rfl

/-- So does the lamp byte of a frame. -/
theorem lampFrame_mgc (n : Option Nat) (b : Byte) (e : Engine) :
    (e.lampFrame n b).2.mgc = { e.mgc with flags := (e.lampFrame n b).2.mgc.flags, outbox := (e.lampFrame n b).2.mgc.outbox } := by
  unfold Engine.lampFrame
  split
  · rfl
  · dsimp only
    unfold Engine.lampByte
    dsimp only
    (repeat' split) <;> first
      | rfl
      | exact judge_mgc _ _ _

/-! ## After a frame -/

/-- Where no order can be taken, none is (R202). -/
theorem takeOrders_blocked {s : State} (h : s.eng.canTake = false) : ∀ n, s.takeOrders n = s
  | 0 => rfl
  | n + 1 => by
    have : s.takeOrder = s := by
      unfold State.takeOrder
      split
      · simp [h]
      · rfl
    rw [State.takeOrders, this, takeOrders_blocked h n]

/-- An order that reaches an empty inbox stands there alone until it is taken (R200, R202). -/
theorem deliver_calm {u : State} (hc : u.carries = true) (hin : u.eng.mgc.inbox = []) {body : List Byte} {code tag : Byte} {ps : List Byte}
    (hb : body = code :: tag :: ps) :
    u.deliverOrder code tag ps = (u.onEng (fun e => e.modMgc (fun g => { g with inbox := [body] }))).takeOrders 8 := by
  unfold State.deliverOrder
  rw [if_neg (by rw [hc]; decide), ← hb]
  have : u.eng.goodPacket body = u.eng.modMgc (fun g => { g with inbox := [body] }) := by
    simp [Engine.goodPacket, Engine.modMgc, hin]
  simp only [State.onEng, this]

/-- A part at rest that takes no order: nothing follows a command. -/
theorem finish_rest {u : State} (h : u.eng.atRest) (hi : u.eng.mgc.inbox = [] ∨ u.eng.canTake = false) : u.finish = u := by
  unfold State.finish
  rw [show u.onEng Engine.settle = u by simp only [State.onEng, settle_atRest h]]
  rcases hi with h | h
  · exact takeOrders_none h _
  · exact takeOrders_blocked h _

end Sys2Proof.Machine
end

