-- ==== Sys2Proof/Laws/PerInstr.lean ====
section
/-! SUPPORT. A statement made for every command: the packet body of a well-formed order fits a packet (R197). -/

namespace Sys2Proof.Laws.OrderFitsPacket

/-- The body of a well-formed order has 2 to 48 bytes (R197). -/
def Statement (i : Instr) : Prop :=
  i.wellFormed = true → ∀ b, Machine.orderBody i = some b → 2 ≤ b.length ∧ b.length ≤ 48

theorem no_body (i : Instr) (h : Machine.orderBody i = none) : Statement i := by
  intro _ b hb
  rw [h] at hb
  exact absurd hb (by simp)

theorem body_fits (i : Instr) (code tag : Byte) (ps : List Byte) (h : Machine.orderBody i = some (code :: tag :: ps))
    (hw : i.wellFormed = true → paramsFit ps = true) : Statement i := by
  intro w b hb
  have hp : ps.length ≤ 46 := by simpa [paramsFit] using hw w
  rw [h] at hb
  cases hb
  simp only [List.length_cons]
  omega

theorem powerOn (x : Selects) (p : Bool) : Statement (.powerOn x p) := no_body _ rfl
theorem freeze : Statement (.freeze) := no_body _ rfl
theorem syncPulse (w : Nat) (e : Bool) : Statement (.syncPulse w e) := no_body _ rfl
theorem frame (h : List Byte) : Statement (.frame h) := no_body _ rfl
theorem hclkLoss : Statement (.hclkLoss) := no_body _ rfl
theorem secondsPulse : Statement (.secondsPulse) := no_body _ rfl
theorem localSecond : Statement (.localSecond) := no_body _ rfl
theorem windowEnd (k : Nat) : Statement (.windowEnd k) := no_body _ rfl
theorem lossTimerExpiry (k : Nat) : Statement (.lossTimerExpiry k) := no_body _ rfl
theorem retryDue (a : Nat) : Statement (.retryDue a) := no_body _ rfl
theorem openRecord (tag : Byte) (ps : List Byte) : Statement (.openRecord tag ps) := body_fits _ _ tag ps rfl id
theorem openPlay (tag : Byte) (ps : List Byte) : Statement (.openPlay tag ps) := body_fits _ _ tag ps rfl id
theorem stop (tag : Byte) (ps : List Byte) : Statement (.stop tag ps) := body_fits _ _ tag ps rfl id
theorem cancel (tag : Byte) (ps : List Byte) : Statement (.cancel tag ps) := body_fits _ _ tag ps rfl id
theorem pause (tag : Byte) (ps : List Byte) : Statement (.pause tag ps) := body_fits _ _ tag ps rfl id
theorem resume (tag : Byte) (ps : List Byte) : Statement (.resume tag ps) := body_fits _ _ tag ps rfl id
theorem seek (tag : Byte) (ps : List Byte) : Statement (.seek tag ps) := body_fits _ _ tag ps rfl id
theorem close (tag : Byte) (ps : List Byte) : Statement (.close tag ps) := body_fits _ _ tag ps rfl id
theorem sessionStatus (tag : Byte) (ps : List Byte) : Statement (.sessionStatus tag ps) := body_fits _ _ tag ps rfl id
theorem readComplete (g : Bool) : Statement (.readComplete g) := no_body _ rfl
theorem programComplete (g : Bool) : Statement (.programComplete g) := no_body _ rfl
theorem eraseComplete (g : Bool) : Statement (.eraseComplete g) := no_body _ rfl
theorem storeOpTimeout : Statement (.storeOpTimeout) := no_body _ rfl
theorem catalogueWriteComplete : Statement (.catalogueWriteComplete) := no_body _ rfl
theorem enterService : Statement (.enterService) := no_body _ rfl
theorem restartReset (x : Selects) : Statement (.restartReset x) := no_body _ rfl
theorem deliveryRecipient : Statement (.deliveryRecipient) := no_body _ rfl
theorem sweepExamination : Statement (.sweepExamination) := no_body _ rfl
theorem list (tag : Byte) (ps : List Byte) : Statement (.list tag ps) := body_fits _ _ tag ps rfl id
theorem mark (tag : Byte) (ps : List Byte) : Statement (.mark tag ps) := body_fits _ _ tag ps rfl id
theorem delete (tag : Byte) (ps : List Byte) : Statement (.delete tag ps) := body_fits _ _ tag ps rfl id
theorem purge (tag : Byte) (ps : List Byte) : Statement (.purge tag ps) := body_fits _ _ tag ps rfl id
theorem loadClass (tag : Byte) (ps : List Byte) : Statement (.loadClass tag ps) := body_fits _ _ tag ps rfl id
theorem readClass (tag : Byte) (ps : List Byte) : Statement (.readClass tag ps) := body_fits _ _ tag ps rfl id
theorem loadMailbox (tag : Byte) (ps : List Byte) : Statement (.loadMailbox tag ps) := body_fits _ _ tag ps rfl id
theorem readMailbox (tag : Byte) (ps : List Byte) : Statement (.readMailbox tag ps) := body_fits _ _ tag ps rfl id
theorem selectGreeting (tag : Byte) (ps : List Byte) : Statement (.selectGreeting tag ps) := body_fits _ _ tag ps rfl id
theorem eraseGreeting (tag : Byte) (ps : List Byte) : Statement (.eraseGreeting tag ps) := body_fits _ _ tag ps rfl id
theorem listClear (tag : Byte) (ps : List Byte) : Statement (.listClear tag ps) := body_fits _ _ tag ps rfl id
theorem listAdd (tag : Byte) (ps : List Byte) : Statement (.listAdd tag ps) := body_fits _ _ tag ps rfl id
theorem readList (tag : Byte) (ps : List Byte) : Statement (.readList tag ps) := body_fits _ _ tag ps rfl id
theorem deliver (tag : Byte) (ps : List Byte) : Statement (.deliver tag ps) := body_fits _ _ tag ps rfl id
theorem cancelDelivery (tag : Byte) (ps : List Byte) : Statement (.cancelDelivery tag ps) := body_fits _ _ tag ps rfl id
theorem clearFault (tag : Byte) (ps : List Byte) : Statement (.clearFault tag ps) := body_fits _ _ tag ps rfl id
theorem lampStatus (tag : Byte) (ps : List Byte) : Statement (.lampStatus tag ps) := body_fits _ _ tag ps rfl id
theorem setClock (tag : Byte) (ps : List Byte) : Statement (.setClock tag ps) := body_fits _ _ tag ps rfl id
theorem readClock (tag : Byte) (ps : List Byte) : Statement (.readClock tag ps) := body_fits _ _ tag ps rfl id
theorem sweep (tag : Byte) (ps : List Byte) : Statement (.sweep tag ps) := body_fits _ _ tag ps rfl id
theorem status (tag : Byte) (ps : List Byte) : Statement (.status tag ps) := body_fits _ _ tag ps rfl id
theorem setOptions (tag : Byte) (ps : List Byte) : Statement (.setOptions tag ps) := body_fits _ _ tag ps rfl id
theorem readOptions (tag : Byte) (ps : List Byte) : Statement (.readOptions tag ps) := body_fits _ _ tag ps rfl id
theorem clearFlags (tag : Byte) (ps : List Byte) : Statement (.clearFlags tag ps) := body_fits _ _ tag ps rfl id
theorem format (tag : Byte) (ps : List Byte) : Statement (.format tag ps) := body_fits _ _ tag ps rfl id
theorem restart (tag : Byte) (ps : List Byte) : Statement (.restart tag ps) := body_fits _ _ tag ps rfl id
theorem unknownOrder (code tag : Byte) (ps : List Byte) : Statement (.unknownOrder code tag ps) :=
  body_fits _ code tag ps rfl (fun w => by simpa [Instr.wellFormed] using (Bool.and_eq_true _ _ ▸ w).2)

end Sys2Proof.Laws.OrderFitsPacket
end

