-- ==== Sys2Proof/Laws/Table.lean ====
section
/-! SUPPORT. What a sparse table reads after a write, and that a write keeps its canonical form. -/

namespace Sys2Proof.Tab

variable {α : Type}

@[simp] theorem find?_nil (m : Nat) : find? ([] : Tab α) m = none := rfl

theorem find?_insert (n : Nat) (v : α) (t : Tab α) (m : Nat) : find? (insert n v t) m = if m = n then some v else find? t m := by
  induction t with
  | nil => simp [insert, find?]
  | cons e t ih =>
    obtain ⟨k, w⟩ := e
    unfold insert
    by_cases h1 : n < k
    · simp [h1, find?]
    · by_cases h2 : n = k
      · subst h2
        by_cases h3 : m = n <;> simp [find?, h3]
      · by_cases h4 : m = k
        · subst h4
          simp [h1, h2, find?, Ne.symm h2]
        · simp [h1, h2, find?, h4, ih]

@[simp] theorem find?_insert_self (n : Nat) (v : α) (t : Tab α) : find? (insert n v t) n = some v := by simp [find?_insert]

theorem find?_insert_ne {n m : Nat} (h : m ≠ n) (v : α) (t : Tab α) : find? (insert n v t) m = find? t m := by simp [find?_insert, h]

theorem find?_erase (n : Nat) (t : Tab α) (m : Nat) : find? (erase n t) m = if m = n then none else find? t m := by
  induction t with
  | nil => simp [erase]
  | cons e t ih =>
    obtain ⟨k, w⟩ := e
    unfold erase at ih ⊢
    by_cases h : k = n
    · subst h
      by_cases h3 : m = k
      · subst h3
        simpa using ih
      · simpa [find?, h3] using ih
    · by_cases h3 : m = k
      · subst h3
        simp [find?, h]
      · simpa [find?, h, h3] using ih

@[simp] theorem find?_erase_self (n : Nat) (t : Tab α) : find? (erase n t) n = none := by simp [find?_erase]

theorem find?_put (n : Nat) (v : Option α) (t : Tab α) (m : Nat) : find? (put n v t) m = if m = n then v else find? t m := by
  cases v with
  | none => simp [put, find?_erase]
  | some v => simp [put, find?_insert]

@[simp] theorem find?_put_self (n : Nat) (v : Option α) (t : Tab α) : find? (put n v t) n = v := by simp [find?_put]

theorem find?_put_ne {n m : Nat} (h : m ≠ n) (v : Option α) (t : Tab α) : find? (put n v t) m = find? t m := by simp [find?_put, h]

@[simp] theorem get_nil (d : α) (m : Nat) : get d ([] : Tab α) m = d := rfl

theorem get_set [DecidableEq α] (d : α) (n : Nat) (v : α) (t : Tab α) (m : Nat) : get d (set d n v t) m = if m = n then v else get d t m := by
  unfold get set
  by_cases h : v = d
  · by_cases h2 : m = n <;> simp [h, h2, find?_erase]
  · by_cases h2 : m = n <;> simp [h, h2, find?_insert]

@[simp] theorem get_set_self [DecidableEq α] (d : α) (n : Nat) (v : α) (t : Tab α) : get d (set d n v t) n = v := by simp [get_set]

theorem get_set_ne [DecidableEq α] {n m : Nat} (h : m ≠ n) (d v : α) (t : Tab α) : get d (set d n v t) m = get d t m := by simp [get_set, h]

/-! ## Canonical form -/

theorem risingFrom_weaken {lo lo' : Option Nat} (h : ∀ n, above lo n = true → above lo' n = true) : ∀ t : Tab α, risingFrom lo t = true → risingFrom lo' t = true
  | [], _ => rfl
  | (k, _) :: t, hr => by
    simp only [risingFrom, Bool.and_eq_true] at hr ⊢
    exact ⟨h k hr.1, hr.2⟩

theorem risingFrom_tail {lo k : Nat} (h : lo < k) (t : Tab α) (hr : risingFrom (some k) t = true) : risingFrom (some lo) t = true :=
  risingFrom_weaken (fun n hn => by simp only [above, decide_eq_true_eq] at hn ⊢; omega) t hr

theorem risingFrom_erase (n : Nat) : ∀ (lo : Option Nat) (t : Tab α), risingFrom lo t = true → risingFrom lo (erase n t) = true
  | _, [], _ => rfl
  | lo, (k, w) :: t, h => by
    simp only [risingFrom, Bool.and_eq_true] at h
    unfold erase
    by_cases hk : k = n
    · have ht : risingFrom lo (erase n t) = true := by
        apply risingFrom_erase n lo t
        cases lo with
        | none => exact risingFrom_weaken (fun _ _ => rfl) t h.2
        | some l => exact risingFrom_tail (by simpa [above] using h.1) t h.2
      simpa [hk, erase] using ht
    · simpa [hk, risingFrom, erase, h.1] using risingFrom_erase n (some k) t h.2

theorem risingFrom_insert (n : Nat) (v : α) : ∀ (lo : Option Nat) (t : Tab α), (∀ l, lo = some l → l < n) → risingFrom lo t = true →
    risingFrom lo (insert n v t) = true
  | lo, [], hl, _ => by
    cases lo with
    | none => rfl
    | some l => simpa [insert, risingFrom, above] using hl l rfl
  | lo, (k, w) :: t, hl, h => by
    have hlo : above lo n = true := by
      cases lo with
      | none => rfl
      | some l => simpa [above] using hl l rfl
    simp only [risingFrom, Bool.and_eq_true] at h
    unfold insert
    by_cases h1 : n < k
    · simp only [h1, if_true, risingFrom, Bool.and_eq_true, above, decide_eq_true_eq]
      exact ⟨hlo, trivial, h.2⟩
    · by_cases h2 : n = k
      · subst h2
        simp only [h1, if_false, if_true, risingFrom, Bool.and_eq_true]
        exact ⟨hlo, h.2⟩
      · simp only [h1, h2, if_false, risingFrom, Bool.and_eq_true]
        exact ⟨h.1, risingFrom_insert n v (some k) t (fun l hl' => by cases hl'; omega) h.2⟩

theorem mem_insert (n : Nat) (v : α) : ∀ (t : Tab α) (e : Nat × α), e ∈ insert n v t → e = (n, v) ∨ e ∈ t
  | [], e, h => by simpa [insert] using h
  | (k, w) :: t, e, h => by
    unfold insert at h
    by_cases h1 : n < k
    · simpa [h1] using h
    · by_cases h2 : n = k
      · rw [if_neg h1, if_pos h2] at h
        rcases List.mem_cons.mp h with h | h
        · exact .inl h
        · exact .inr (List.mem_cons_of_mem _ h)
      · rw [if_neg h1, if_neg h2] at h
        rcases List.mem_cons.mp h with h | h
        · exact .inr (by simp [h])
        · rcases mem_insert n v t e h with h | h
          · exact .inl h
          · exact .inr (List.mem_cons_of_mem _ h)

/-- Writing a key keeps the canonical form. -/
theorem wf_set [DecidableEq α] (d : α) (n : Nat) (v : α) (t : Tab α) (h : wf d t = true) : wf d (set d n v t) = true := by
  unfold wf at h ⊢
  simp only [Bool.and_eq_true, List.all_eq_true, decide_eq_true_eq] at h ⊢
  unfold set
  by_cases hv : v = d
  · simp only [hv, if_true]
    exact ⟨risingFrom_erase n none t h.1, fun e he => h.2 e (List.mem_of_mem_filter he)⟩
  · simp only [hv, if_false]
    refine ⟨risingFrom_insert n v none t (by simp) h.1, fun e he => ?_⟩
    rcases mem_insert n v t e he with he | he
    · rw [he]; exact hv
    · exact h.2 e he

/-- Taking an entry out keeps the canonical form. -/
theorem wf_erase [DecidableEq α] (d : α) (n : Nat) (t : Tab α) (h : wf d t = true) : wf d (erase n t) = true := by
  unfold wf at h ⊢
  simp only [Bool.and_eq_true, List.all_eq_true, decide_eq_true_eq] at h ⊢
  exact ⟨risingFrom_erase n none t h.1, fun e he => h.2 e (List.mem_of_mem_filter he)⟩

@[simp] theorem wf_nil [DecidableEq α] (d : α) : wf d ([] : Tab α) = true := rfl

/-- Every listed key of a table with rising keys above `lo` reads its own entry. -/
theorem find?_eq_none_of_rising : ∀ (n : Nat) (t : Tab α), risingFrom (some n) t = true → find? t n = none
  | _, [], _ => rfl
  | n, (k, w) :: t, h => by
    simp only [risingFrom, above, Bool.and_eq_true, decide_eq_true_eq] at h
    have hk : n ≠ k := by omega
    simpa [find?, hk] using find?_eq_none_of_rising n t (risingFrom_tail h.1 t h.2)

/-- Two canonical tables that read the same are the same: equal storage is equal data. -/
theorem eq_of_rising : ∀ (lo : Option Nat) (t u : Tab α), risingFrom lo t = true → risingFrom lo u = true → (∀ n, find? t n = find? u n) → t = u
  | _, [], [], _, _, _ => rfl
  | _, [], (k, w) :: u, _, _, h => by simpa [find?] using h k
  | _, (k, w) :: t, [], _, _, h => by simpa [find?] using h k
  | lo, (k, v) :: t, (l, w) :: u, ht, hu, h => by
    simp only [risingFrom, Bool.and_eq_true] at ht hu
    have hkl : k = l := by
      by_contra hne
      rcases Nat.lt_or_gt_of_ne hne with hlt | hgt
      · have h1 := h k
        simp only [find?, if_true, hne, if_false] at h1
        rw [find?_eq_none_of_rising k u (risingFrom_tail hlt u hu.2)] at h1
        exact absurd h1 (by simp)
      · have h1 := h l
        simp only [find?, if_true, Ne.symm hne, if_false] at h1
        rw [find?_eq_none_of_rising l t (risingFrom_tail hgt t ht.2)] at h1
        exact absurd h1 (by simp)
    subst hkl
    have hv : v = w := by simpa [find?] using h k
    subst hv
    have htu : t = u := by
      apply eq_of_rising (some k) t u ht.2 hu.2
      intro n
      by_cases hn : n = k
      · subst hn
        rw [find?_eq_none_of_rising n t ht.2, find?_eq_none_of_rising n u hu.2]
      · simpa [find?, hn] using h n
    rw [htu]

/-- A canonical table lists a key exactly when it does not read as the unlisted value. -/
theorem eq_of_wf [DecidableEq α] (d : α) (t u : Tab α) (ht : wf d t = true) (hu : wf d u = true) (h : ∀ n, get d t n = get d u n) : t = u := by
  unfold wf at ht hu
  simp only [Bool.and_eq_true, List.all_eq_true, decide_eq_true_eq] at ht hu
  have listed : ∀ (s : Tab α), (∀ e ∈ s, e.2 ≠ d) → ∀ n v, find? s n = some v → v ≠ d := by
    intro s hs
    induction s with
    | nil => intro n v hv; simp at hv
    | cons e s ih =>
      intro n v hv
      obtain ⟨k, w⟩ := e
      by_cases hk : n = k
      · simp only [find?, hk, if_true, Option.some.injEq] at hv
        exact hv ▸ hs (k, w) (by simp)
      · simp only [find?, hk, if_false] at hv
        exact ih (fun e he => hs e (by simp [he])) n v hv
  apply eq_of_rising none t u ht.1 hu.1
  intro n
  have hn := h n
  unfold get at hn
  cases h1 : find? t n with
  | none =>
    cases h2 : find? u n with
    | none => rfl
    | some w =>
      rw [h1, h2] at hn
      exact absurd (hn.symm) (listed u hu.2 n w h2)
  | some v =>
    cases h2 : find? u n with
    | none =>
      rw [h1, h2] at hn
      exact absurd hn (listed t ht.2 n v h1)
    | some w =>
      rw [h1, h2] at hn
      simpa using hn

end Sys2Proof.Tab
end

