-- ==== Sys2Proof/Laws/Pool.lean ====
section
/-! SUPPORT. The erase queue as the list of its segments, and what each change of a segment does to the pool: the free list keeps holding the ERASED
segments and the erase queue the DIRTY ones (R69). -/

namespace Sys2Proof.Machine

/-! ## The erase queue as a list of segments -/

theorem Run.segments_cons (r : Run) (q : List Run) :
    Run.segments (r :: q) = (List.range r.count).map (fun i => r.start + i) ++ Run.segments q := rfl

/-- Joining the queue appends one segment. -/
theorem Run.segments_push (i : Nat) : ∀ q, Run.segments (Run.push i q) = Run.segments q ++ [i]
  | [] => by simp [Run.push, Run.segments]
  | [r] => by
    simp only [Run.push]
    split
    · next h => simp [Run.segments, List.range_succ, h]
    · simp [Run.segments]
  | r :: r2 :: q => by
    rw [Run.push, Run.segments_cons, Run.segments_push i (r2 :: q), Run.segments_cons r (r2 :: q), List.append_assoc]

/-- The runs of a queue stay whole when a segment joins. -/
theorem Run.push_positive (i : Nat) : ∀ q : List Run, (∀ r ∈ q, 0 < r.count) → ∀ r ∈ Run.push i q, 0 < r.count
  | [], _ => by simp [Run.push]
  | [r], h => by
    have hr := h r (by simp)
    simp only [Run.push]
    split <;> simp [hr]
  | r :: r2 :: q, h => by
    have hr := h r (by simp)
    have ih := Run.push_positive i (r2 :: q) (fun x hx => h x (by simp only [List.mem_cons] at hx ⊢; exact Or.inr hx))
    intro x hx
    rcases List.mem_cons.mp hx with rfl | hx
    · exact hr
    · exact ih x hx

/-- The queue's head is its first segment, and the queue without it the others. -/
theorem Run.segments_pop {q : List Run} (h : ∀ r ∈ q, 0 < r.count) {i : Nat} (hi : Run.head? q = some i) :
    Run.segments q = i :: Run.segments (Run.pop q) := by
  match q, hi with
  | r :: q, hi =>
    cases Option.some.inj hi
    obtain ⟨n, hn⟩ : ∃ n, r.count = n + 1 := ⟨r.count - 1, by have := h r (by simp); omega⟩
    have hs : ∀ m, (List.range (m + 1)).map (fun i => r.start + i) = r.start :: (List.range m).map (fun i => r.start + 1 + i) := by
      intro m
      rw [List.range_succ_eq_map, List.map_cons, List.map_map]
      refine congrArg₂ _ rfl (List.map_congr_left (fun x _ => ?_))
      show r.start + (x + 1) = r.start + 1 + x
      omega
    rw [Run.segments_cons, Run.pop, hn, hs n]
    split
    · next h1 =>
      have : n = 0 := by omega
      subst this
      rfl
    · rfl

theorem Run.pop_positive {q : List Run} (h : ∀ r ∈ q, 0 < r.count) : ∀ r ∈ Run.pop q, 0 < r.count := by
  match q with
  | [] => exact h
  | r :: q =>
    simp only [Run.pop]
    split
    · exact fun x hx => h x (List.mem_cons_of_mem _ hx)
    · next hc =>
      intro x hx
      rcases List.mem_cons.mp hx with rfl | hx
      · show 0 < r.count - 1
        omega
      · exact h x (List.mem_cons_of_mem _ hx)

/-! ## The pool -/

/-- The free list holds exactly the ERASED segments and the erase queue the DIRTY ones, each once. -/
structure Pool (segs : Tab SegEntry) (free : List Nat) (queue : List Run) (total : Nat) : Prop where
  rising : Tab.risingFrom none segs = true
  freeOnce : free.Nodup
  free : ∀ i, i ∈ free ↔ (Tab.get SegEntry.blank segs i).state = .erased
  queueOnce : (Run.segments queue).Nodup
  whole : ∀ r ∈ queue, 0 < r.count
  queued : ∀ i ∈ Run.segments queue, (Tab.get SegEntry.blank segs i).state = .dirty
  dirty : ∀ i, i < total → (Tab.get SegEntry.blank segs i).state = .dirty → i ∈ Run.segments queue

/-- The invariant of the pool is `Pool`, with the segments of the operation in flight. -/
theorem pooled_iff (e : Engine) : e.pooled ↔ Tab.risingFrom none e.cat.segments = true ∧
    (e.walked → Pool e.tab.segments e.ssc.freeList e.ssc.eraseQueue e.segmentTotal ∧
      (∀ r i w, (e.ssc.link = .allocating r i w ∨ e.ssc.link = .programming r i w) → (e.segment i).state = .allocated) ∧
      (∀ i, e.ssc.link = .erasing i → Run.head? e.ssc.eraseQueue = some i)) :=
  ⟨fun ⟨hc, h⟩ => ⟨hc, fun w => let ⟨a, b, c, d, e1, f, g, k, l⟩ := h w; ⟨⟨a, b, c, d, e1, f, g⟩, k, l⟩⟩,
    fun ⟨hc, h⟩ => ⟨hc, fun w => let ⟨p, k, l⟩ := h w; ⟨p.rising, p.freeOnce, p.free, p.queueOnce, p.whole, p.queued, p.dirty, k, l⟩⟩⟩

theorem risingFrom_set (i : Nat) (g : SegEntry) {t : Tab SegEntry} (h : Tab.risingFrom none t = true) :
    Tab.risingFrom none (Tab.set SegEntry.blank i g t) = true := by
  unfold Tab.set
  split
  · exact Tab.risingFrom_erase i none t h
  · exact Tab.risingFrom_insert i g none t (by simp) h

namespace Pool

variable {segs : Tab SegEntry} {free : List Nat} {queue : List Run} {total i : Nat} {g : SegEntry}

/-- A segment of neither list becomes DIRTY and joins the queue. -/
theorem push (h : Pool segs free queue total) (he : (Tab.get SegEntry.blank segs i).state ≠ .erased)
    (hd : (Tab.get SegEntry.blank segs i).state ≠ .dirty) (hg : g.state = .dirty) :
    Pool (Tab.set SegEntry.blank i g segs) free (Run.push i queue) total := by
  have hq : i ∉ Run.segments queue := fun k => hd (h.queued i k)
  refine ⟨risingFrom_set i g h.rising, h.freeOnce, fun j => ?_, ?_, Run.push_positive i queue h.whole, fun j hj => ?_, fun j hj hs => ?_⟩
  · rw [Tab.get_set]
    by_cases hji : j = i
    · subst hji
      rw [if_pos rfl, h.free, hg]
      exact ⟨fun k => absurd k he, fun k => absurd k (by decide)⟩
    · rw [if_neg hji]; exact h.free j
  · rw [Run.segments_push]
    exact List.nodup_append.mpr ⟨h.queueOnce, by simp, fun a ha b hb => by rw [List.mem_singleton.mp hb]; exact fun k => hq (k ▸ ha)⟩
  · rw [Run.segments_push, List.mem_append, List.mem_singleton] at hj
    rw [Tab.get_set]
    by_cases hji : j = i
    · rw [if_pos hji, hg]
    · rw [if_neg hji]; exact h.queued j (hj.resolve_right hji)
  · rw [Run.segments_push, List.mem_append, List.mem_singleton]
    by_cases hji : j = i
    · exact Or.inr hji
    · rw [Tab.get_set, if_neg hji] at hs
      exact Or.inl (h.dirty j hj hs)

/-- A segment of neither list changes and joins neither. -/
theorem place (h : Pool segs free queue total) (he : (Tab.get SegEntry.blank segs i).state ≠ .erased)
    (hd : (Tab.get SegEntry.blank segs i).state ≠ .dirty) (hge : g.state ≠ .erased) (hgd : g.state ≠ .dirty) :
    Pool (Tab.set SegEntry.blank i g segs) free queue total := by
  refine ⟨risingFrom_set i g h.rising, h.freeOnce, fun j => ?_, h.queueOnce, h.whole, fun j hj => ?_, fun j hj hs => ?_⟩
  · rw [Tab.get_set]
    by_cases hji : j = i
    · subst hji
      rw [if_pos rfl, h.free]
      exact ⟨fun k => absurd k he, fun k => absurd k hge⟩
    · rw [if_neg hji]; exact h.free j
  · rw [Tab.get_set]
    by_cases hji : j = i
    · subst hji; exact absurd (h.queued j hj) hd
    · rw [if_neg hji]; exact h.queued j hj
  · rw [Tab.get_set] at hs
    by_cases hji : j = i
    · rw [if_pos hji] at hs; exact absurd hs hgd
    · rw [if_neg hji] at hs; exact h.dirty j hj hs

/-- The free list's head leaves it, for neither list. -/
theorem take {rest : List Nat} (h : Pool segs (i :: rest) queue total) (hge : g.state ≠ .erased) (hgd : g.state ≠ .dirty) :
    Pool (Tab.set SegEntry.blank i g segs) rest queue total := by
  have hi := (h.free i).mp List.mem_cons_self
  refine ⟨risingFrom_set i g h.rising, (List.nodup_cons.mp h.freeOnce).2, fun j => ?_, h.queueOnce, h.whole, fun j hj => ?_, fun j hj hs => ?_⟩
  · rw [Tab.get_set]
    by_cases hji : j = i
    · subst hji
      rw [if_pos rfl]
      exact ⟨fun k => absurd k (List.nodup_cons.mp h.freeOnce).1, fun k => absurd k hge⟩
    · rw [if_neg hji, ← h.free j, List.mem_cons]
      exact ⟨Or.inr, fun k => k.resolve_left hji⟩
  · rw [Tab.get_set]
    by_cases hji : j = i
    · subst hji
      have := h.queued j hj
      rw [hi] at this
      exact absurd this (by decide)
    · rw [if_neg hji]; exact h.queued j hj
  · rw [Tab.get_set] at hs
    by_cases hji : j = i
    · rw [if_pos hji] at hs; exact absurd hs hgd
    · rw [if_neg hji] at hs; exact h.dirty j hj hs

/-- The erase queue's head leaves it, for neither list. -/
theorem drop (h : Pool segs free queue total) (hi : Run.head? queue = some i) (hge : g.state ≠ .erased) (hgd : g.state ≠ .dirty) :
    Pool (Tab.set SegEntry.blank i g segs) free (Run.pop queue) total := by
  have hs := Run.segments_pop h.whole hi
  have hn := h.queueOnce
  rw [hs] at hn
  have hd := h.queued i (by rw [hs]; exact List.mem_cons_self)
  refine ⟨risingFrom_set i g h.rising, h.freeOnce, fun j => ?_, (List.nodup_cons.mp hn).2, Run.pop_positive h.whole, fun j hj => ?_, fun j hj hst => ?_⟩
  · rw [Tab.get_set]
    by_cases hji : j = i
    · subst hji
      rw [if_pos rfl, h.free, hd]
      exact ⟨fun k => absurd k (by decide), fun k => absurd k hge⟩
    · rw [if_neg hji]; exact h.free j
  · rw [Tab.get_set]
    by_cases hji : j = i
    · subst hji; exact absurd hj (List.nodup_cons.mp hn).1
    · rw [if_neg hji]; exact h.queued j (by rw [hs]; exact List.mem_cons_of_mem _ hj)
  · rw [Tab.get_set] at hst
    by_cases hji : j = i
    · rw [if_pos hji] at hst; exact absurd hst hgd
    · rw [if_neg hji] at hst
      have := h.dirty j hj hst
      rw [hs, List.mem_cons] at this
      exact this.resolve_left hji

/-- A segment of neither list becomes ERASED and joins the free list. -/
theorem give (h : Pool segs free queue total) (he : (Tab.get SegEntry.blank segs i).state ≠ .erased)
    (hd : (Tab.get SegEntry.blank segs i).state ≠ .dirty) (hg : g.state = .erased) :
    Pool (Tab.set SegEntry.blank i g segs) (free ++ [i]) queue total := by
  have hf : i ∉ free := fun k => he ((h.free i).mp k)
  refine ⟨risingFrom_set i g h.rising, ?_, fun j => ?_, h.queueOnce, h.whole, fun j hj => ?_, fun j hj hs => ?_⟩
  · exact List.nodup_append.mpr ⟨h.freeOnce, by simp, fun a ha b hb => by rw [List.mem_singleton.mp hb]; exact fun k => hf (k ▸ ha)⟩
  · rw [Tab.get_set, List.mem_append, List.mem_singleton]
    by_cases hji : j = i
    · rw [if_pos hji, hg]; exact ⟨fun _ => rfl, fun _ => Or.inr hji⟩
    · rw [if_neg hji, ← h.free j]; exact ⟨fun k => k.resolve_right hji, Or.inl⟩
  · rw [Tab.get_set]
    by_cases hji : j = i
    · subst hji; exact absurd (h.queued j hj) hd
    · rw [if_neg hji]; exact h.queued j hj
  · rw [Tab.get_set] at hs
    by_cases hji : j = i
    · rw [if_pos hji, hg] at hs; exact absurd hs (by decide)
    · rw [if_neg hji] at hs; exact h.dirty j hj hs

/-- The pool depends on what the map reads alone. -/
theorem congr {segs' : Tab SegEntry} (h : Pool segs free queue total) (hr : Tab.risingFrom none segs' = true)
    (hs : ∀ j, (Tab.get SegEntry.blank segs' j).state = (Tab.get SegEntry.blank segs j).state) : Pool segs' free queue total :=
  ⟨hr, h.freeOnce, fun j => by rw [hs]; exact h.free j, h.queueOnce, h.whole, fun j hj => by rw [hs]; exact h.queued j hj,
    fun j hj k => h.dirty j hj (by rw [← hs]; exact k)⟩

/-- What a segment out of both lists, written twice, reads is its last write. -/
theorem twice {x : SegEntry} (h : Tab.risingFrom none segs = true) :
    Tab.risingFrom none (Tab.set SegEntry.blank i g segs) = true ∧ ∀ j, (Tab.get SegEntry.blank (Tab.set SegEntry.blank i g segs) j).state =
      (Tab.get SegEntry.blank (Tab.set SegEntry.blank i g (Tab.set SegEntry.blank i x segs)) j).state := by
  refine ⟨risingFrom_set i g h, fun j => ?_⟩
  simp only [Tab.get_set]
  split <;> rfl

/-- A segment out of both lists, on its way from one to the other. -/
def moving : SegEntry := { state := .allocated, body := none, next := none, eraseFailures := 0 }

theorem moving_state (t : Tab SegEntry) (i : Nat) : (Tab.get SegEntry.blank (Tab.set SegEntry.blank i moving t) i).state = .allocated := by
  rw [Tab.get_set, if_pos rfl]
  rfl

/-- An erase succeeds: the queue's head joins the free list (R85). -/
theorem erased (h : Pool segs free queue total) (hi : Run.head? queue = some i) (hg : g.state = .erased) :
    Pool (Tab.set SegEntry.blank i g segs) (free ++ [i]) (Run.pop queue) total :=
  have t := twice (x := moving) h.rising
  ((h.drop (g := moving) hi (by decide) (by decide)).give (by rw [moving_state]; decide) (by rw [moving_state]; decide) hg).congr t.1 t.2

/-- An erase fails: the queue's head goes to its tail (R85). -/
theorem requeued (h : Pool segs free queue total) (hi : Run.head? queue = some i) (hg : g.state = .dirty) :
    Pool (Tab.set SegEntry.blank i g segs) free (Run.push i (Run.pop queue)) total :=
  have t := twice (x := moving) h.rising
  ((h.drop (g := moving) hi (by decide) (by decide)).push (by rw [moving_state]; decide) (by rw [moving_state]; decide) hg).congr t.1 t.2

end Pool

/-! ## The pool through the work of the store -/

/-- The engine's map and lists are a pool. -/
def Engine.HasPool (n : Nat) (e : Engine) : Prop := Pool e.tab.segments e.ssc.freeList e.ssc.eraseQueue n

theorem examinePool_pool {n : Nat} {e : Engine} (h : e.HasPool n) : e.examinePool.HasPool n := by
  unfold Engine.examinePool
  split
  · exact h
  · split
    · exact h
    · split
      · exact h
      · exact h

/-- A segment that is neither ERASED nor DIRTY goes DIRTY. -/
theorem joinDirty_pool {n i : Nat} {e : Engine} (h : e.HasPool n) (he : (e.segment i).state ≠ .erased) (hd : (e.segment i).state ≠ .dirty) :
    (e.joinDirty i).HasPool n := examinePool_pool (Pool.push h he hd rfl)

theorem makeDirty_pool {n i : Nat} {e : Engine} (h : e.HasPool n) : (e.makeDirty i).HasPool n := by
  unfold Engine.makeDirty
  split
  · next hs => exact joinDirty_pool h (by rw [hs]; decide) (by rw [hs]; decide)
  · exact h

/-- A chain let go keeps the pool. -/
theorem makeAllDirty_pool {n : Nat} : ∀ (is : List Nat) {e : Engine}, e.HasPool n → (e.makeAllDirty is).HasPool n
  | [], _, h => h
  | _ :: is, _, h => makeAllDirty_pool is (makeDirty_pool h)

theorem flush_pool {n : Nat} {a : Then} {e : Engine} (h : e.HasPool n) : (e.flush a).HasPool n := by
  unfold Engine.flush
  repeat' split
  all_goals exact h

/-- A program starts on the free list's head (R83). -/
theorem startProgram_pool {n i : Nat} {r : ProgReq} {is : List Nat} {e : Engine} (h : e.HasPool n) (hf : e.ssc.freeList = i :: is) :
    (e.startProgram r i).HasPool n := by
  refine examinePool_pool (flush_pool ?_)
  have h' : Pool e.tab.segments (i :: is) e.ssc.eraseQueue n := hf ▸ h
  show Pool _ e.ssc.freeList.tail _ n
  rw [hf]
  exact h'.take (g := { state := .allocated, body := none, next := none, eraseFailures := (e.segment i).eraseFailures }) SegState.noConfusion SegState.noConfusion

/-- An erase succeeds or fails (R85). -/
theorem eraseDone_pool {n i : Nat} {e : Engine} (h : e.HasPool n) (hi : Run.head? e.ssc.eraseQueue = some i) : (e.eraseDone i).HasPool n :=
  flush_pool (Pool.erased (g := { state := .erased, body := none, next := none, eraseFailures := 0 }) h hi rfl : Pool _ _ _ _)

theorem eraseFailed_pool {n i : Nat} {c : StoreCause} {e : Engine} (h : e.HasPool n) (hi : Run.head? e.ssc.eraseQueue = some i) :
    (e.eraseFailed i c).HasPool n := by
  unfold Engine.eraseFailed
  split
  · exact flush_pool (Pool.requeued (g := { state := .dirty, body := none, next := none, eraseFailures := 1 }) h hi rfl : Pool _ _ _ _)
  · refine examinePool_pool (flush_pool (a := .recorded) ?_)
    exact Pool.drop (g := { state := .retired, body := none, next := none, eraseFailures := (e.segment i).eraseFailures }) h hi
      SegState.noConfusion SegState.noConfusion

end Sys2Proof.Machine
end

