-- ==== Sys2Proof/Laws/Read.lean ====
section
/-! SUPPORT. What a table reads as after a write, and where an accepted order's reply leaves the part. -/

namespace Sys2Proof.Machine

variable (e : Engine)

theorem session_setSession (k : Nat) (x : Session) (j : Nat) : (e.setSession k x).session j = if j = k then x else e.session j :=
  Tab.get_set _ _ _ _ _

theorem session_modSession (k : Nat) (f : Session → Session) (j : Nat) :
    (e.modSession k f).session j = if j = k then f (e.session k) else e.session j := Tab.get_set _ _ _ _ _

theorem session_modSession_self (k : Nat) (f : Session → Session) : (e.modSession k f).session k = f (e.session k) := by
  simp [session_modSession]

theorem session_modSession_ne {k j : Nat} (h : j ≠ k) (f : Session → Session) : (e.modSession k f).session j = e.session j := by
  simp [session_modSession, h]

theorem session_modBuf (k b : Nat) (f : Buffer → Buffer) (j : Nat) :
    (e.modBuf k b f).session j = if j = k then (e.session k).setBuf b (f ((e.session k).buf b)) else e.session j := Tab.get_set _ _ _ _ _

theorem hold_modHold (b : Nat) (f : BodyHold → BodyHold) (c : Nat) :
    (e.modHold b f).hold c = if c = b then f (e.hold b) else e.hold c := Tab.get_set _ _ _ _ _

theorem counter_modCounter (m : Nat) (f : Counters → Counters) (n : Nat) :
    (e.modCounter m f).counter n = if n = m then f (e.counter m) else e.counter n := Tab.get_set _ _ _ _ _

theorem segment_putSegment (i : Nat) (g : SegEntry) (j : Nat) : (e.put (.segment i g)).segment j = if j = i then g else e.segment j :=
  Tab.get_set _ _ _ _ _

theorem body_putBody (b : Nat) (x : Option Body) (c : Nat) : (e.put (.body b x)).body c = if c = b then x else e.body c := Tab.find?_put _ _ _ _

theorem cls_putCls (k : Nat) (c : MailClass) (j : Nat) : (e.put (.cls k c)).cls j = if j = k then c else e.cls j := Tab.get_set _ _ _ _ _

theorem record_putRecord (r : Nat) (x : Option Record) (q : Nat) : (e.put (.record r x)).record q = if q = r then x else e.record q :=
  Tab.find?_put _ _ _ _

theorem list_putList (l : Nat) (d : DistList) (m : Nat) : (e.put (.list l d)).list m = if m = l then d else e.list m := Tab.get_set _ _ _ _ _

theorem member_putMember (i : Nat) (v : Option Member) (j : Nat) :
    Tab.find? (e.put (.member i v)).tab.members j = if j = i then v else Tab.find? e.tab.members j := Tab.find?_put _ _ _ _

theorem mailbox_putBoxFields (m : Nat) (f : BoxFields) (n : Nat) :
    (e.put (.boxFields m f)).mailbox n =
      if n = m then some { fields := f, head := (e.mailbox m).bind (·.head), tail := (e.mailbox m).bind (·.tail) } else e.mailbox n :=
  Tab.find?_insert _ _ _ _

theorem slotKey_inj {m n : Nat} {g h : GreetingKind} : slotKey m g = slotKey n h ↔ m = n ∧ g = h := by
  constructor
  · intro k
    unfold slotKey at k
    have hg : g.code < 4 := by cases g <;> decide
    have hh : h.code < 4 := by cases h <;> decide
    refine ⟨by omega, ?_⟩
    have : g.code = h.code := by omega
    revert this
    cases g <;> cases h <;> decide
  · rintro ⟨rfl, rfl⟩
    rfl

theorem slot_putSlot (m : Nat) (g : GreetingKind) (x : Slot) (n : Nat) (h : GreetingKind) :
    (e.putSlot m g x).slot n h = if n = m ∧ h = g then x else e.slot n h := by
  show Tab.get Slot.empty (Tab.set Slot.empty (slotKey m g) x e.tab.slots) (slotKey n h) = _
  rw [Tab.get_set]
  simp only [slotKey_inj]
  rfl

theorem lampEntry_modEntry (a : Nat) (f : LampEntry → LampEntry) (l : Lmp) (b : Nat) :
    (l.modEntry a f).entry b = if b = a then f (l.entry a) else l.entry b := Tab.get_set _ _ _ _ _

/-- What a page buffer reads as after a change of a buffer. -/
theorem buf_setBuf (x : Session) (b : Nat) (v : Buffer) : (x.setBuf b v).buf b = v := by
  unfold Session.setBuf Session.buf
  split <;> rfl

/-! ## Where a reply leaves the part -/

theorem flush_nothing_live {e : Engine} (h : e.halted = false) :
    e.flush .nothing = { e with asked := [], catQueue := if e.asked = [] then e.catQueue else e.catQueue ++ [{ writes := e.asked, after := .nothing }] } := by
  unfold Engine.flush
  split
  · rename_i ha
    cases e
    simp_all
  · simp [h]

/-- Settling with no job due and nothing for the arbiter: the writes asked for become a sequence, and nothing else happens. -/
theorem settle_still {e : Engine} (hd : e.dle.due = none)
    (hl : e.linkFree = false ∨ (e.ssc.progQueue = [] ∧ e.ssc.readQueue = [] ∧ e.ssc.eraseQueue = [])) : e.settle = e.flush .nothing := by
  rw [settle_quiet hd (hl.imp id (fun x => x.1))]
  have hs : (e.flush .nothing).ssc = e.ssc := flush_ssc _ e
  unfold Engine.startNext
  rcases hl with hl | ⟨_, hr, he⟩
  · have hf := flush_linkFree .nothing e
    rw [hl] at hf
    simp [hf]
  · simp [hs, hr, he]

/-- An order carried out by work that asks for writes only, over a part with nothing else to do: its answer, and one sequence of its writes. -/
theorem place_still (tag : Byte) (r : Result) (d : List Byte) {s : State} (hd : s.eng.dle.due = none)
    (hl : s.eng.linkFree = false ∨ (s.eng.ssc.progQueue = [] ∧ s.eng.ssc.readQueue = [] ∧ s.eng.ssc.eraseQueue = [])) :
    ({ result := r, data := d, state := s, waits := false } : Reply).place tag =
      s.onEng (fun e => (e.placeAnswer (answerPacket tag r d)).flush .nothing) := by
  simp only [Reply.place, Bool.false_eq_true, if_false, State.onEng]
  rw [settle_still (e := s.eng.placeAnswer (answerPacket tag r d)) hd hl]

/-- The part with an order's answer placed and the writes asked for made one sequence. -/
def Engine.concluded (tag : Byte) (r : Result) (d : List Byte) (e : Engine) : Engine :=
  { e with mgc := { e.mgc with outbox := e.mgc.outbox ++ [answerPacket tag r d], handling := false }, asked := [],
           catQueue := if e.asked = [] then e.catQueue else e.catQueue ++ [{ writes := e.asked, after := .nothing }] }

/-- An accepted order whose work leaves nothing else to do: its answer is placed, and its writes become one sequence (R80, R202). -/
theorem order_still {s : State} (h : s.accepting) {code : Byte} {o : Order} (ho : Order.ofCode code = some o) (tag : Byte) {ps : List Byte}
    (hl : ps.length + 2 = o.bodyLength) {r : Result} {d : List Byte} {s' : State}
    (hr : o.run ps s.taken = { result := r, data := d, state := s', waits := false }) (hd : s'.eng.dle.due = none)
    (hq : s'.eng.linkFree = false ∨ (s'.eng.ssc.progQueue = [] ∧ s'.eng.ssc.readQueue = [] ∧ s'.eng.ssc.eraseQueue = []))
    (hh : s'.eng.halted = false) : s.deliverOrder code tag ps = s'.onEng (Engine.concluded tag r d) := by
  rw [deliverOrder_run h ho tag hl, hr, place_still _ _ _ hd hq]
  simp only [State.onEng]
  rw [flush_nothing_live (e := s'.eng.placeAnswer (answerPacket tag r d)) hh]
  rfl

/-- A checked order that no check refuses. -/
theorem checked_passes {cs : List (Bool × Result)} (s : State) (act : Reply) (h : firstRefusal cs = none) : Reply.checked cs s act = act := by
  unfold Reply.checked
  rw [h]

end Sys2Proof.Machine
end

