-- ==== Sys2Proof/Laws/StartUp.lean ====
section
/-! SUPPORT. What the store check never touches: the channel, the sessions, the jobs, the store's queues, link and contents. -/

namespace Sys2Proof.Machine

/-- From e to e' the check has changed only what the catalogue holds, the pool's lists, the counts and the lamps; the part stays in STARTING. -/
structure Engine.Checks (e e' : Engine) : Prop where
  mgc : e'.mgc = e.mgc
  sessions : e'.sessions = e.sessions
  slots : e'.slotsIn = e.slotsIn ∧ e'.slotsOut = e.slotsOut
  dle : e'.dle = e.dle
  cat : e'.cat = e.cat
  queue : e'.catQueue = e.catQueue
  service : e'.ssc.service = e.ssc.service
  devices : e'.ssc.devices = e.ssc.devices
  queues : e'.ssc.readQueue = e.ssc.readQueue ∧ e'.ssc.progQueue = e.ssc.progQueue
  link : e'.ssc.link = e.ssc.link ∧ e'.ssc.opTimer = e.ssc.opTimer
  poolLow : e'.ssc.poolLow = e.ssc.poolLow
  flash : e'.ssc.flash = e.ssc.flash

/-- An operation of the check: over a part in STARTING with no session it changes nothing else. -/
def Checked (f : Engine → Engine) : Prop := ∀ e : Engine, e.ssc.service = .starting → e.sessions = [] → e.Checks (f e)

namespace Engine.Checks

theorem refl (e : Engine) : Engine.Checks e e := ⟨rfl, rfl, ⟨rfl, rfl⟩, rfl, rfl, rfl, rfl, rfl, ⟨rfl, rfl⟩, ⟨rfl, rfl⟩, rfl, rfl⟩

theorem trans {a b c : Engine} (h : Engine.Checks a b) (k : Engine.Checks b c) : Engine.Checks a c :=
  ⟨k.mgc.trans h.mgc, k.sessions.trans h.sessions, ⟨k.slots.1.trans h.slots.1, k.slots.2.trans h.slots.2⟩, k.dle.trans h.dle, k.cat.trans h.cat,
    k.queue.trans h.queue, k.service.trans h.service, k.devices.trans h.devices,
    ⟨k.queues.1.trans h.queues.1, k.queues.2.trans h.queues.2⟩, ⟨k.link.1.trans h.link.1, k.link.2.trans h.link.2⟩,
    k.poolLow.trans h.poolLow, k.flash.trans h.flash⟩

end Engine.Checks

open Engine (Checks)

/-- One operation after another. -/
theorem Checked.comp {f g : Engine → Engine} (hf : Checked f) (hg : Checked g) : Checked (fun e => g (f e)) := by
  intro e hs hn
  have h1 := hf e hs hn
  exact h1.trans (hg _ (h1.service.trans hs) (h1.sessions.trans hn))

theorem Checked.fold {α : Type} {f : Engine → α → Engine} (hf : ∀ x, Checked (fun e => f e x)) : ∀ xs : List α, Checked (fun e => xs.foldl f e)
  | [] => fun e _ _ => Checks.refl e
  | x :: xs => (hf x).comp (Checked.fold hf xs)

theorem Checked.ite {c : Engine → Prop} [∀ e, Decidable (c e)] {f g : Engine → Engine} (hf : Checked f) (hg : Checked g) :
    Checked (fun e => if c e then f e else g e) := by
  intro e hs hn
  dsimp only
  split
  · exact hf e hs hn
  · exact hg e hs hn

theorem Checked.id : Checked (fun e => e) := fun e _ _ => Checks.refl e

theorem put_checks (w : CatWrite) : Checked (fun e => e.put w) := fun _ _ _ =>
  ⟨rfl, rfl, ⟨rfl, rfl⟩, rfl, rfl, rfl, rfl, rfl, ⟨rfl, rfl⟩, ⟨rfl, rfl⟩, rfl, rfl⟩

theorem putDirty_checks (i : Nat) : Checked (fun e => e.putDirty i) := fun _ _ _ =>
  ⟨rfl, rfl, ⟨rfl, rfl⟩, rfl, rfl, rfl, rfl, rfl, ⟨rfl, rfl⟩, ⟨rfl, rfl⟩, rfl, rfl⟩

theorem modHold_checks (b : Nat) (f : BodyHold → BodyHold) : Checked (fun e => e.modHold b f) := fun _ _ _ =>
  ⟨rfl, rfl, ⟨rfl, rfl⟩, rfl, rfl, rfl, rfl, rfl, ⟨rfl, rfl⟩, ⟨rfl, rfl⟩, rfl, rfl⟩

theorem modCounter_checks (m : Nat) (f : Counters → Counters) : Checked (fun e => e.modCounter m f) := fun _ _ _ =>
  ⟨rfl, rfl, ⟨rfl, rfl⟩, rfl, rfl, rfl, rfl, rfl, ⟨rfl, rfl⟩, ⟨rfl, rfl⟩, rfl, rfl⟩

theorem modLmp_checks (f : Lmp → Lmp) : Checked (fun e => e.modLmp f) := fun _ _ _ =>
  ⟨rfl, rfl, ⟨rfl, rfl⟩, rfl, rfl, rfl, rfl, rfl, ⟨rfl, rfl⟩, ⟨rfl, rfl⟩, rfl, rfl⟩

theorem modReport_checks (f : StartReport → StartReport) : Checked (fun e => e.modReport f) := fun _ _ _ =>
  ⟨rfl, rfl, ⟨rfl, rfl⟩, rfl, rfl, rfl, rfl, rfl, ⟨rfl, rfl⟩, ⟨rfl, rfl⟩, rfl, rfl⟩

theorem joinDirty_checks (i : Nat) : Checked (fun e => e.joinDirty i) := by
  intro e hs _
  have h : e.joinDirty i = (e.putDirty i).modSsc (fun c => { c with eraseQueue := Run.push i c.eraseQueue }) := by
    unfold Engine.joinDirty Engine.examinePool
    rw [if_pos (by exact hs)]
  dsimp only
  rw [h]
  exact ⟨rfl, rfl, ⟨rfl, rfl⟩, rfl, rfl, rfl, rfl, rfl, ⟨rfl, rfl⟩, ⟨rfl, rfl⟩, rfl, rfl⟩

theorem makeDirty_checks (i : Nat) : Checked (fun e => e.makeDirty i) := by
  intro e hs hn
  dsimp only
  unfold Engine.makeDirty
  split
  · exact joinDirty_checks i e hs hn
  · exact Checks.refl e

theorem makeAllDirty_checks (is : List Nat) : Checked (fun e => e.makeAllDirty is) := Checked.fold (fun i => makeDirty_checks i) is

theorem handInputs_checks (m : Nat) : Checked (fun e => e.handInputs m) := by
  intro e hs hn
  dsimp only
  unfold Engine.handInputs
  (repeat' split) <;> first
    | exact Checks.refl e
    | exact modLmp_checks _ e hs hn
    | (dsimp only; split; exacts [Checks.refl e, modLmp_checks _ e hs hn])

theorem dropRecords_checks : Checked Engine.dropRecords := fun e hs hn => by
  unfold Engine.dropRecords
  exact ((Checked.fold (fun r => put_checks (.record r none)) _).comp
    (Checked.fold (fun m => (put_checks (.boxHead m none)).comp (put_checks (.boxTail m none))) _)) e hs hn

theorem dropContent_checks (is : List Nat) : Checked (fun e => e.dropContent is) := fun e hs hn => by
  dsimp only
  unfold Engine.dropContent
  extract_lets e1 e2
  have h1 : e.Checks e1 := ((Checked.fold (fun i => putDirty_checks i) is).comp dropRecords_checks) e hs hn
  have h2 : e.Checks e2 := h1.trans (Checked.fold (fun k => put_checks (.slot k Slot.empty)) _ e1 (h1.service.trans hs) (h1.sessions.trans hn))
  exact h2.trans (Checked.fold (fun b => put_checks (.body b none)) _ e2 (h2.service.trans hs) (h2.sessions.trans hn))

theorem cutStore_checks (n : Nat) : Checked (fun e => e.cutStore n) := fun e hs hn => ((put_checks _).comp (dropContent_checks _)) e hs hn

theorem fitMap_checks (c : Nat) : Checked (fun e => e.fitMap c) := by
  intro e hs hn
  dsimp only
  unfold Engine.fitMap
  split
  · exact (put_checks .blank |>.comp (put_checks _)) e hs hn
  · split
    · exact put_checks _ e hs hn
    · split
      · exact ((cutStore_checks _).comp (put_checks _)) e hs hn
      · exact Checks.refl e

theorem clampSettings_checks : Checked Engine.clampSettings := by
  intro e hs hn
  unfold Engine.clampSettings
  split
  · exact Checks.refl e
  · exact put_checks _ e hs hn

theorem dirtyAllocated_checks : Checked Engine.dirtyAllocated := fun e hs hn => by
  unfold Engine.dirtyAllocated
  exact Checked.fold (fun i => putDirty_checks i) _ e hs hn

theorem buildLists_checks : Checked Engine.buildLists := fun _ _ _ =>
  ⟨rfl, rfl, ⟨rfl, rfl⟩, rfl, rfl, rfl, rfl, rfl, ⟨rfl, rfl⟩, ⟨rfl, rfl⟩, rfl, rfl⟩

theorem fitOpenBody_checks (b : Nat) : Checked (fun e => e.fitOpenBody b) := by
  intro e hs hn
  dsimp only
  unfold Engine.fitOpenBody
  split
  · exact Checks.refl e
  · dsimp only
    split
    · exact Checks.refl e
    · exact put_checks _ e hs hn

theorem walk_checks : Checked Engine.walk := fun e hs hn => by
  have h1 := (dirtyAllocated_checks.comp buildLists_checks) e hs hn
  unfold Engine.walk
  extract_lets e1 e2 chained data
  have h2 : e.Checks e2 := h1.trans (Checked.fold fitOpenBody_checks _ _ (h1.service.trans hs) (h1.sessions.trans hn))
  exact h2.trans (makeAllDirty_checks _ _ (h2.service.trans hs) (h2.sessions.trans hn))

theorem fitList_checks (l : Nat) : Checked (fun e => e.fitList l) := by
  intro e hs hn
  dsimp only
  unfold Engine.fitList
  extract_lets kept d
  split
  · exact Checks.refl e
  · exact put_checks _ e hs hn

theorem repairLists_checks : Checked Engine.repairLists := fun e hs hn => by
  unfold Engine.repairLists
  extract_lets ls kept e1
  have h1 : e.Checks e1 := Checked.fold fitList_checks _ e hs hn
  exact h1.trans (Checked.fold (fun i => put_checks (.member i none)) _ _ (h1.service.trans hs) (h1.sessions.trans hn))

theorem fitPrev_checks (r : Nat) (p : Option Nat) : Checked (fun e => e.fitPrev r p) := by
  intro e hs hn
  dsimp only
  unfold Engine.fitPrev
  split
  · exact Checks.refl e
  · exact put_checks _ e hs hn

theorem fitNext_checks (r : Nat) (n : Option Nat) : Checked (fun e => e.fitNext r n) := by
  intro e hs hn
  dsimp only
  unfold Engine.fitNext
  split
  · exact Checks.refl e
  · exact put_checks _ e hs hn

theorem fitPrevs_checks : ∀ (rs : List Nat) (p : Option Nat), Checked (fun e => e.fitPrevs p rs)
  | [], _ => Checked.id
  | r :: rs, p => fun e hs hn => by
    dsimp only
    unfold Engine.fitPrevs
    exact ((fitPrev_checks r p).comp (fitPrevs_checks rs (some r))) e hs hn

theorem fitEnds_checks (m : Nat) (kept : List Nat) : Checked (fun e => e.fitEnds m kept) := by
  intro e hs hn
  dsimp only
  unfold Engine.fitEnds
  split
  · exact Checks.refl e
  · extract_lets e1
    have h1 : e.Checks e1 := by
      show e.Checks (if _ then _ else e)
      split
      · exact put_checks _ e hs hn
      · exact Checks.refl e
    split
    · exact h1
    · exact h1.trans (put_checks _ e1 (h1.service.trans hs) (h1.sessions.trans hn))

theorem fitBox_checks (m : Nat) (kept : List Nat) : Checked (fun e => e.fitBox m kept) := by
  intro e hs hn
  dsimp only
  unfold Engine.fitBox
  split
  · exact ((fitPrevs_checks kept none).comp (fitEnds_checks m kept)) e hs hn
  · rename_i r _
    exact ((fitPrevs_checks kept none).comp ((fitNext_checks r none).comp (fitEnds_checks m kept))) e hs hn

theorem appendRecord_checks (r : Nat) (x : Record) : Checked (fun e => e.appendRecord r x) := by
  intro e hs hn
  dsimp only
  unfold Engine.appendRecord
  extract_lets tail e1 e2
  have h1 : e.Checks e1 := put_checks _ e hs hn
  have put1 (w : CatWrite) : e.Checks (e1.put w) := h1.trans (put_checks w e1 (h1.service.trans hs) (h1.sessions.trans hn))
  have h2 : e.Checks e2 := by
    cases h : (e.mailbox x.mailbox).bind (·.tail) <;> simp only [e2, tail, h] <;> exact put1 _
  exact h2.trans (put_checks _ e2 (h2.service.trans hs) (h2.sessions.trans hn))

theorem appendAgain_checks (r : Nat) : Checked (fun e => e.appendAgain r) := by
  intro e hs hn
  dsimp only
  unfold Engine.appendAgain
  split
  · exact Checks.refl e
  · exact appendRecord_checks _ _ e hs hn

theorem repairBox_checks (m : Nat) : Checked (fun e => e.repairBox m) := fun e hs hn => by
  dsimp only
  unfold Engine.repairBox
  exact ((fitBox_checks m _).comp (Checked.fold appendAgain_checks _)) e hs hn

theorem openExtents_checks : Checked Engine.openExtents := fun e hs hn => by
  unfold Engine.openExtents
  refine Checked.fold (fun x : Nat × Body => ?_) _ e hs hn
  intro e hs hn
  dsimp only
  split
  · exact Checks.refl e
  · exact modHold_checks _ _ e hs hn

theorem recount_checks : Checked Engine.recount := fun e hs hn => by
  unfold Engine.recount
  refine Checked.fold (fun x : Nat × Record => ?_) _ e hs hn
  intro e hs hn
  exact ((modCounter_checks x.2.mailbox _).comp (modCounter_checks x.2.mailbox (fun c => { c with charged := c.charged + e.extent x.2.body }))) e hs hn

theorem sealBody_checks (b o n : Nat) : Checked (fun e => e.sealBody b o n) := by
  intro e hs hn
  dsimp only
  unfold Engine.sealBody
  split
  · exact Checks.refl e
  · exact ((put_checks _).comp (modHold_checks _ _)) e hs hn

theorem recordSealed_checks (r : Nat) (cut : Bool) : Checked (fun e => e.recordSealed r cut) := by
  intro e hs hn
  dsimp only
  unfold Engine.recordSealed
  split
  · exact Checks.refl e
  · rename_i x _
    unfold Engine.changeRecord
    split
    · exact Checks.refl e
    · dsimp only
      split
      · exact put_checks _ e hs hn
      · exact ((put_checks _).comp ((modCounter_checks _ _).comp (handInputs_checks _))) e hs hn

theorem unlinkRecord_checks (r : Nat) (x : Record) : Checked (fun e => e.unlinkRecord r x) := by
  intro e hs hn
  dsimp only
  unfold Engine.unlinkRecord
  extract_lets e1 e2
  have h1 : e.Checks e1 := by
    show e.Checks (match x.prev with | some p => _ | none => _)
    split <;> exact put_checks _ e hs hn
  have h2 : e.Checks e2 := by
    show e.Checks (match x.next with | some n => _ | none => _)
    split <;> exact h1.trans (put_checks _ e1 (h1.service.trans hs) (h1.sessions.trans hn))
  exact h2.trans (put_checks _ e2 (h2.service.trans hs) (h2.sessions.trans hn))

theorem clearTargets_checks (r : Nat) : Checked (fun e => e.clearTargets r) := by
  intro e hs hn
  dsimp only
  unfold Engine.clearTargets
  rw [hn]
  exact Checks.refl e

theorem detachRecord_checks (r : Nat) (x : Record) : Checked (fun e => e.detachRecord r x) := by
  intro e hs hn
  dsimp only
  unfold Engine.detachRecord
  exact ((unlinkRecord_checks r x).comp ((modCounter_checks _ _).comp ((modCounter_checks x.mailbox (fun c => { c with charged := c.charged - e.extent x.body })).comp
    (clearTargets_checks r)))) e hs hn

theorem modShare_checks (b : Nat) (f : Nat → Nat) : Checked (fun e => e.modShare b f) := by
  intro e hs hn
  dsimp only
  unfold Engine.modShare
  split
  · exact Checks.refl e
  · exact put_checks _ e hs hn

theorem reconcile_checks (b : Nat) : Checked (fun e => e.reconcile b) := by
  intro e hs hn
  dsimp only
  unfold Engine.reconcile
  split
  · split
    · exact recordSealed_checks _ _ e hs hn
    · split
      · exact ((sealBody_checks _ _ _).comp ((recordSealed_checks _ _).comp (modReport_checks _))) e hs hn
      · exact ((detachRecord_checks _ _).comp ((modShare_checks _ _).comp ((handInputs_checks _).comp (modReport_checks _)))) e hs hn
  · exact Checks.refl e

theorem clearStagings_checks : Checked Engine.clearStagings := fun e hs hn => by
  unfold Engine.clearStagings
  refine Checked.fold (fun x : Nat × Slot => ?_) _ e hs hn
  intro e hs hn
  dsimp only
  split
  · exact put_checks _ e hs hn
  · exact Checks.refl e

theorem fitShare_checks (b : Nat) : Checked (fun e => e.fitShare b) := by
  intro e hs hn
  dsimp only
  unfold Engine.fitShare
  split
  · exact Checks.refl e
  · split
    · exact Checks.refl e
    · exact put_checks _ e hs hn

theorem releaseAtStart_checks (b : Nat) : Checked (fun e => e.releaseAtStart b) := by
  intro e hs hn
  dsimp only
  unfold Engine.releaseAtStart
  split
  · exact Checks.refl e
  · split
    · exact Checks.refl e
    · exact ((makeAllDirty_checks _).comp ((put_checks _).comp ((modHold_checks _ _).comp (modReport_checks _)))) e hs hn

theorem checkSteps_checks : Checked Engine.checkSteps := fun e hs hn => by
  unfold Engine.checkSteps
  extract_lets e1 e2 e3 e4
  have h1 : e.Checks e1 := (clampSettings_checks.comp (walk_checks.comp repairLists_checks)) e hs hn
  have h2 : e.Checks e2 := h1.trans (((Checked.fold repairBox_checks _).comp (openExtents_checks.comp recount_checks)) e1 (h1.service.trans hs) (h1.sessions.trans hn))
  have h3 : e.Checks e3 := h2.trans (((Checked.fold reconcile_checks _).comp clearStagings_checks) e2 (h2.service.trans hs) (h2.sessions.trans hn))
  have h4 : e.Checks e4 := h3.trans (Checked.fold fitShare_checks _ e3 (h3.service.trans hs) (h3.sessions.trans hn))
  exact h4.trans (Checked.fold releaseAtStart_checks _ e4 (h4.service.trans hs) (h4.sessions.trans hn))

/-- The check after its first probe, over a part that has entered STARTING. -/
theorem check_flush (c : Nat) (e : Engine) (hs : e.ssc.service = .starting) (hn : e.sessions = []) :
    ∃ z : Engine, ((e.fitMap c).checkSteps).flush .nothing = z ∧ z.mgc = e.mgc ∧ z.sessions = e.sessions ∧ z.slotsIn = e.slotsIn ∧
      z.slotsOut = e.slotsOut ∧ z.dle = e.dle ∧ z.cat = e.cat ∧ z.ssc.service = e.ssc.service ∧ z.ssc.devices = e.ssc.devices ∧
      z.ssc.readQueue = e.ssc.readQueue ∧ z.ssc.progQueue = e.ssc.progQueue ∧ z.ssc.link = e.ssc.link ∧ z.ssc.poolLow = e.ssc.poolLow ∧
      z.ssc.flash = e.ssc.flash := by
  have h1 : e.Checks (e.fitMap c) := fitMap_checks c e hs hn
  have h : e.Checks (e.fitMap c).checkSteps := h1.trans (checkSteps_checks _ (h1.service.trans hs) (h1.sessions.trans hn))
  generalize (e.fitMap c).checkSteps = y at h
  refine ⟨_, rfl, ?_⟩
  have hf : y.flush .nothing = { y with asked := [], catQueue := (y.flush .nothing).catQueue } ∨ y.flush .nothing = y := by
    unfold Engine.flush
    split
    · exact Or.inr rfl
    · left
      split <;> rfl
  have key : (y.flush .nothing).mgc = y.mgc ∧ (y.flush .nothing).sessions = y.sessions ∧ (y.flush .nothing).slotsIn = y.slotsIn ∧
      (y.flush .nothing).slotsOut = y.slotsOut ∧ (y.flush .nothing).dle = y.dle ∧ (y.flush .nothing).cat = y.cat ∧
      (y.flush .nothing).ssc = y.ssc := by
    rcases hf with hf | hf <;> rw [hf] <;> exact ⟨rfl, rfl, rfl, rfl, rfl, rfl, rfl⟩
  obtain ⟨f1, f2, f3, f4, f5, f6, f7⟩ := key
  refine ⟨f1.trans h.mgc, f2.trans h.sessions, f3.trans h.slots.1, f4.trans h.slots.2, f5.trans h.dle, f6.trans h.cat, ?_⟩
  rw [f7]
  exact ⟨h.service, h.devices, h.queues.1, h.queues.2, h.link.1, h.poolLow, h.flash⟩

/-- What a store check leaves as it was, and what it sets (R87 to R95): the catalogue memory is changed only as the writes complete. -/
theorem storeCheck_spec (cause : StartCause) (x : Selects) (e t : Engine) (hs : e.ssc.service = .starting) (hn : e.sessions = [])
    (ht : t = e.storeCheck cause x) :
    t.mgc = e.mgc ∧ t.sessions = [] ∧ t.slotsIn = e.slotsIn ∧ t.slotsOut = e.slotsOut ∧ t.dle = e.dle ∧ t.lmp = e.lmp ∧ t.cat = e.cat ∧
      t.ssc.service = .starting ∧ t.ssc.devices = countSelects x ∧ t.ssc.readQueue = e.ssc.readQueue ∧ t.ssc.progQueue = e.ssc.progQueue ∧
      t.ssc.link = e.ssc.link ∧ t.ssc.poolLow = e.ssc.poolLow ∧ t.ssc.flash = e.ssc.flash := by
  unfold Engine.storeCheck at ht
  extract_lets c e1 e2 at ht
  by_cases hc : c = 0
  · rw [if_pos hc] at ht
    subst ht
    exact ⟨rfl, hn, rfl, rfl, rfl, rfl, rfl, hs, rfl, rfl, rfl, rfl, rfl, rfl⟩
  · rw [if_neg hc] at ht
    obtain ⟨z, hz, h⟩ := check_flush c (e1.beginStart cause (e1.fitClears c)) rfl hn
    have he : e2 = z := hz
    subst ht
    rw [he]
    exact ⟨h.1, h.2.1.trans hn, h.2.2.1, h.2.2.2.1, h.2.2.2.2.1, rfl, h.2.2.2.2.2.1, h.2.2.2.2.2.2.1, h.2.2.2.2.2.2.2.1,
      h.2.2.2.2.2.2.2.2.1, h.2.2.2.2.2.2.2.2.2.1, h.2.2.2.2.2.2.2.2.2.2.1, h.2.2.2.2.2.2.2.2.2.2.2.1, h.2.2.2.2.2.2.2.2.2.2.2.2⟩

end Sys2Proof.Machine
end

