-- ==== Sys2Proof/Laws/Tally.lean ====
section
/-! SUPPORT. How the number of a table's entries that pass a test moves with a write: what the counters (R125) and the share counts (R105) rest on. -/

namespace Sys2Proof.Tab

variable {α : Type}

/-- How many entries pass a test. -/
def tally (p : α → Bool) (t : Tab α) : Nat := (t.filter (fun x => p x.2)).length

/-- 1 where the entry of a key passes a test. -/
def passing (p : α → Bool) (x : Option α) : Nat := if x.any p then 1 else 0

theorem tally_cons (p : α → Bool) (k : Nat) (v : α) (t : Tab α) : tally p ((k, v) :: t) = passing p (some v) + tally p t := by
  unfold tally passing
  rw [List.filter_cons]
  simp only [Option.any_some]
  split <;> simp [Nat.add_comm]

/-- Listing an entry adds it and takes away the one its key had. -/
theorem tally_insert (p : α → Bool) (n : Nat) (v : α) : ∀ (lo : Option Nat) (t : Tab α), risingFrom lo t = true →
    tally p (insert n v t) + passing p (find? t n) = tally p t + passing p (some v)
  | _, [], _ => by simp [insert, tally_cons, passing, find?]; omega
  | _, (k, w) :: t, h => by
    simp only [risingFrom, Bool.and_eq_true] at h
    unfold insert find?
    by_cases h1 : n < k
    · have h2 : ¬ n = k := by omega
      have hn : find? t n = none := by
        have := find?_eq_none_of_rising n t (risingFrom_tail h1 t h.2)
        exact this
      rw [if_pos h1, if_neg h2, hn, tally_cons]
      simp [passing]
      omega
    · by_cases h2 : n = k
      · rw [if_neg h1, if_pos h2, if_pos h2, tally_cons, tally_cons]
        omega
      · rw [if_neg h1, if_neg h2, if_neg h2, tally_cons, tally_cons]
        have ih := tally_insert p n v (some k) t h.2
        omega

/-- Taking an entry out takes away what its key had. -/
theorem tally_erase (p : α → Bool) (n : Nat) : ∀ (lo : Option Nat) (t : Tab α), risingFrom lo t = true →
    tally p (erase n t) + passing p (find? t n) = tally p t
  | _, [], _ => rfl
  | _, (k, w) :: t, h => by
    simp only [risingFrom, Bool.and_eq_true] at h
    have ih := tally_erase p n (some k) t h.2
    by_cases hk : n = k
    · subst hk
      have he : erase n ((n, w) :: t) = erase n t := by simp [erase]
      have hf : find? ((n, w) :: t) n = some w := by simp [find?]
      have hn : find? t n = none := find?_eq_none_of_rising n t h.2
      rw [he, hf, tally_cons]
      rw [hn] at ih
      simp only [passing, Option.any_none] at ih ⊢
      simp at ih
      omega
    · have he : erase n ((k, w) :: t) = (k, w) :: erase n t := by
        have : k ≠ n := fun e => hk e.symm
        simp [erase, this]
      have hf : find? ((k, w) :: t) n = find? t n := by simp [find?, hk]
      rw [he, hf, tally_cons, tally_cons]
      omega

end Sys2Proof.Tab

namespace Sys2Proof.Machine

/-- The records of a mailbox that pass a test, as a table's tally. -/
theorem tally_eq (e : Engine) (m : Nat) (test : Record → Bool) :
    e.tally m test = Tab.tally (fun y => decide (y.mailbox = m) && test y) e.tab.records := rfl

/-- The holders of a body, as tallies. -/
theorem sharers_eq (e : Engine) (b : Nat) : e.sharers b = Tab.tally (fun y => decide (y.body = b)) e.tab.records +
    Tab.tally (fun x => decide (x.held = some b)) e.tab.slots + Tab.tally (fun x => decide (x.staged = some b)) e.tab.slots := rfl

end Sys2Proof.Machine
end

