-- ==== Sys2Proof/Tests/Slice0.lean ====
section
/-! SUPPORT. Tests: the ill-formed terms the checks refuse, the orders' bodies, and, for each statement, states and operands that meet its hypotheses,
with what the model answers there. -/

open Sys2Proof Sys2Proof.Machine

namespace Sys2Proof.Tests

set_option Elab.async false

/-! ## Helpers -/

/-- The state after a command, the state before where it answers none. -/
def after (c : Instr) (s : State) : State :=
  match exec c s with
  | .next t => t
  | _ => s

/-- Calm, decided. -/
def calmB (s : State) : Bool :=
  decide (s.eng.asked = []) && decide (s.eng.dle.due = none) &&
    (decide (s.eng.linkFree = false) || (decide (s.eng.ssc.progQueue = []) && decide (s.eng.ssc.readQueue = []) && decide (s.eng.ssc.eraseQueue = []))) &&
    decide (s.eng.mgc.inbox = [])

theorem calm_of {s : State} (h : calmB s = true) : s.calm := by
  simp only [calmB, Bool.and_eq_true, Bool.or_eq_true, decide_eq_true_eq] at h
  exact ⟨⟨h.1.1.1, h.1.1.2, h.1.2.imp id (fun p => ⟨p.1.1, p.1.2, p.2⟩)⟩, h.2⟩

/-- Accepting, decided. -/
def acceptB (s : State) : Bool :=
  s.carries && calmB s && decide (s.eng.ssc.service = .service) && decide (s.eng.mgc.handling = false) && decide (s.eng.mgc.restart = .none) &&
    decide (s.eng.mgc.outbox.length < 16)

theorem accepting_of {s : State} (h : acceptB s = true) : s.accepting := by
  simp only [acceptB, Bool.and_eq_true, decide_eq_true_eq] at h
  exact ⟨h.1.1.1.1.1, calm_of h.1.1.1.1.2, h.1.1.1.2, h.1.1.2, h.1.2, h.2⟩

/-- A calm frame, decided. -/
def calmFrameB (s : State) (hrx : List Byte) : Bool :=
  calmB s && s.hwi.frameBegun && (decide (s.hwi.sync = .locked) || decide (s.hwi.sync = .flywheel)) && decide (s.eng.ssc.service ≠ .frozen) &&
    s.eng.sessions.all (fun kx => decide (kx.2.windowDue = false)) && decide (s.eng.mgc.rx = none) && decide (hrx.getD 0 0xFF ≠ 0xC3) &&
    decide (hrx.getD 1 0xFF ≠ 0xC3)

theorem calmFrame_of {s : State} {hrx : List Byte} (h : calmFrameB s hrx = true) : s.calmFrame hrx := by
  simp only [calmFrameB, Bool.and_eq_true, Bool.or_eq_true, decide_eq_true_eq, List.all_eq_true] at h
  obtain ⟨⟨⟨⟨⟨⟨⟨h1, h2⟩, h3⟩, h4⟩, h5⟩, h6⟩, h7⟩, h8⟩ := h
  exact ⟨calm_of h1, h2, h3, h4, h5, h6, h7, h8⟩

/-- A quiet frame, decided. -/
def quietB (s : State) (hrx : List Byte) : Bool := calmFrameB s hrx && decide (s.hwi.frameNo = none)

theorem quiet_of {s : State} {hrx : List Byte} (h : quietB s hrx = true) : s.quietFrame hrx := by
  simp only [quietB, Bool.and_eq_true, decide_eq_true_eq] at h
  exact ⟨calmFrame_of h.1, h.2⟩

/-- The outbox of a state ends with an answer. -/
def lastAnswer (s : State) (tag : Byte) (r : Result) (data : List Byte) : Bool := decide (s.eng.mgc.outbox.getLast? = some (answerPacket tag r data))

/-- A part in SERVICE over one device, on a LOCKED highway, its catalogue formatted, nothing loaded. -/
def ready : State :=
  let s := State.reset.onEng (fun e =>
    let tab := { e.tab with signature := some 1 }
    { e with tab := tab, cat := tab, ssc := { e.ssc with service := .service, devices := 1 } })
  { s with hwi := { s.hwi with sync := .locked, pulseValid := true }, cal := { s.cal with source := .highway } }

/-- The part in SEARCH, its clock on LOSC. -/
def searching (s : State) : State := { s with hwi := Hwi.reset, cal := Cal.reset }

/-- The part in another service state. -/
def inState (v : Service) (s : State) : State := s.onEng (fun e => e.modSsc (fun c => { c with service := v }))

/-- A mailbox's fields, one lamp. -/
def fields : BoxFields :=
  { extension := 100, cls := 0, enabled := true, accepts := true, lampsOn := true, active := .standard, lamps := [33] }

/-- Mailbox 5 loaded. -/
def boxed : State :=
  ready.onEng (fun e => { e with tab := { e.tab with mailboxes := [(5, { fields := fields, head := none, tail := none })] } })

/-- A message record of mailbox 5. -/
def message : Record :=
  { mailbox := 5, body := 3, state := .new, urgent := false, cut := false, arrival := none, caller := none, sender := none, heardDay := none,
    resume := none, prev := none, next := none }

/-- A sealed body of one segment. -/
def sealedBody (segment samples : Nat) : Body :=
  { sealed := true, first := some segment, last := some segment, count := 1, offset := some 0, samples := some samples, share := 1 }

/-- Mailbox 5 with record 7, a message over body 3 in segment 10. -/
def mailed : State :=
  boxed.onEng (fun e => { e with
    tab := { e.tab with
      mailboxes := [(5, { fields := fields, head := some 7, tail := some 7 })], records := [(7, message)], bodies := [(3, sealedBody 10 1000)],
      segments := [(10, { state := .data, body := some 3, next := none, eraseFailures := 0 })] },
    counters := [(5, { Counters.zero with new := 1, total := 1, charged := 1 })],
    ssc := { e.ssc with flash := [(10, [(0, 100), (2, -7)])] } })

/-- Record 7 of `mailed` otherwise. -/
def withRecord (x : Record) : State := mailed.onEng (fun e => { e with tab := { e.tab with records := [(7, x)] } })

/-- A session of `mailed`. -/
def withSession (k : Nat) (x : Session) (s : State) : State := s.onEng (fun e => e.setSession k x)

/-- A play session of record 7, its segment in buffer 0. -/
def playSession : Session :=
  { Session.reset with
    kind := some .play, state := .playing, outSlot := some 9, mailbox := 5, target := .record 7, body := some 3, cursor := 2,
    buf0 := { role := .playing, holds := 0, samples := [(0, 100), (2, -7)] } }

/-- Session 2 playing record 7 on timeslot 9. -/
def playing : State :=
  (withSession 2 playSession mailed).onEng (fun e => { e with slotsOut := [(9, 2)], holds := [(3, { begun := 0, pins := 0, readers := 1 })] })

/-- The snapshot of the default class. -/
def snap0 : Snapshot := MailClass.default.snapshot false

/-- A message session that has received c samples in w windows, its meter m. -/
def takeSession (st : SessState) (c w : Nat) (m : Meter) : Session :=
  { Session.reset with
    kind := some .recordMessage, state := st, inSlot := some 4, mailbox := 5, target := .record 7, body := some 3, cursor := c, windows := w,
    meter := some m, snap := some snap0, cueLength := 25, buf0 := { role := .filling, holds := c / 2048, samples := [] } }

/-- Session 2 recording record 7 from timeslot 4. -/
def taking (x : Session) : State :=
  (withSession 2 x mailed).onEng (fun e => { e with
    slotsIn := [(4, 2)], holds := [(3, { begun := 1, pins := 0, readers := 0 })],
    ssc := { e.ssc with freeList := [20, 21] },
    tab := { e.tab with records := [(7, { message with state := .recording })], bodies := [(3, Body.fresh)], segments := [] },
    counters := [(5, { Counters.zero with recording := 1, total := 1, charged := 1 })] })

/-! ## Ill-formed terms -/

theorem test_width_of_a_pulse : Instr.wellFormed (.syncPulse 0 true) = false ∧ Instr.wellFormed (.syncPulse 1 true) = true := by decide
theorem test_length_of_a_frame :
    Instr.wellFormed (.frame (List.replicate 127 0)) = false ∧ Instr.wellFormed (.frame (List.replicate 128 0)) = true := by decide +kernel
theorem test_session_number : Instr.wellFormed (.windowEnd 48) = false ∧ Instr.wellFormed (.lossTimerExpiry 48) = false ∧
    Instr.wellFormed (.windowEnd 47) = true ∧ Instr.wellFormed (.lossTimerExpiry 47) = true := by decide
theorem test_lamp_address : Instr.wellFormed (.retryDue 16384) = false ∧ Instr.wellFormed (.retryDue 16383) = true := by decide
theorem test_order_fits_a_packet :
    Instr.wellFormed (.stop 1 (List.replicate 47 0)) = false ∧ Instr.wellFormed (.stop 1 (List.replicate 46 0)) = true := by decide +kernel
theorem test_unknown_code : Instr.wellFormed (.unknownOrder 0x10 1 []) = false ∧ Instr.wellFormed (.unknownOrder 0x19 1 []) = true := by decide

/-! ## The machine -/

theorem test_reset_queue : State.reset.pending = [] ∧ State.reset.eng.ssc.service = .starting := by decide

/-- StepRunsTheFrontCommand, IdleStepIsOneLoscPeriod. -/
theorem witness_step :
    (match step { searching ready with pending := [.localSecond, .freeze] } with | .next t => decide (t.pending = [.freeze] ∧ t.cal.second = 1) | _ => false) = true ∧
    (match step (searching playing) with | .next t => decide (t.cal.subCount = 1 ∧ (t.eng.session 2).lossTimer = 1) | _ => false) = true ∧ (searching playing).pending = [] := by
  decide +kernel

/-! ## The highway -/

/-- `ready` with another highway side. -/
def onHighway (f : Hwi → Hwi) (s : State) : State := s.modHwi f

def confirmed3 : State := onHighway (fun h => { h with sync := .confirm, confirms := 3 }) ready
def locked (n : Option Nat) : State := onHighway (fun h => { h with sync := .locked, frameNo := n, pulseValid := true }) ready
def wheel (misses : Nat) : State := onHighway (fun h => { h with sync := .flywheel, misses := misses, pulseValid := true }) ready

/-- SyncPulseDrivesTheStateMachine, clause by clause, the divider before its end and at it. -/
theorem witness_sync :
    let divided (d : Nat) := (after (.syncPulse 1 true) (onHighway (fun h => { h with divider := d }) (wheel 1))).hwi
    (wheel 1).hwi.pulseDue = false ∧ (divided 7998).divider = 7999 ∧ (divided 7998).pulseDue = false ∧ (divided 7999).divider = 0 ∧
    (divided 7999).pulseDue = true ∧ (divided 5).misses = 0 ∧ (after (.syncPulse 1 true) confirmed3).hwi.divider = 0 ∧
    calmB (searching ready) = true ∧ after (.syncPulse 3 true) (searching ready) = (searching ready) ∧ after (.syncPulse 1 false) (locked none) = locked none ∧ calmB (locked none) = true ∧
    (searching ready).hwi.sync = .search ∧ (after (.syncPulse 1 false) (searching ready)).hwi.sync = .confirm ∧ (after (.syncPulse 2 false) (searching ready)).hwi.frameNo = some 0 ∧
    (after (.syncPulse 1 true) (onHighway (fun h => { h with confirms := 2 }) confirmed3)).hwi.confirms = 3 ∧
    calmB confirmed3 = true ∧ (after (.syncPulse 1 true) confirmed3).hwi.sync = .locked ∧ (after (.syncPulse 1 true) confirmed3).cal.source = .highway ∧
    (after (.syncPulse 1 true) confirmed3).eng.mgc.flags = 0x0080 ∧ (after (.syncPulse 1 true) (wheel 2)).hwi.sync = .locked := by decide +kernel

/-- SlipsAreCounted: the alignment gained by a double sync and not by a single one, in LOCKED and in SEARCH; a realignment in CONFIRM; the alignment lost by
HCLK, by a miss in CONFIRM and by the third miss; and a part frozen. -/
theorem witness_alignment :
    let sent (s : State) := s.onEng (fun e => { e with lmp := { e.lmp with inCell := some [7], superframe := 9 } })
    let restarts (c : Instr) (s : State) := decide (calmB s = true ∧ (after c s).eng.lmp = s.eng.lmp.restart ∧ (after c s).eng.lmp ≠ s.eng.lmp)
    let stands (c : Instr) (s : State) := decide (calmB s = true ∧ (after c s).eng.lmp = s.eng.lmp)
    let double := Instr.syncPulse 2 true
    let single := Instr.syncPulse 1 true
    let confirm (n : Option Nat) := sent (onHighway (fun h => { h with frameNo := n }) confirmed3)
    let third := sent (onHighway (fun h => { h with frameNo := some 3 }) (wheel 2))
    restarts double (sent (locked none)) = true ∧ (after double (sent (locked none))).hwi.frameNo = some 0 ∧ (after double (sent (locked none))).hwi.slips = 0 ∧
    stands single (sent (locked none)) = true ∧ (after single (sent (locked none))).hwi.frameNo = none ∧ restarts double (sent (searching ready)) = true ∧
    stands single (sent (searching ready)) = true ∧ stands double (confirm (some 4)) = true ∧ (after double (confirm (some 4))).hwi.frameNo = some 0 ∧
    (after double (confirm (some 4))).hwi.slips = 0 ∧ (after single (confirm (some 15))).hwi.frameNo = some 0 ∧ restarts .hclkLoss (sent (locked (some 3))) = true ∧
    stands .hclkLoss (sent (locked none)) = true ∧ restarts (.frame []) (confirm (some 4)) = true ∧ restarts (.frame []) third = true ∧
    (after (.frame []) third).hwi.frameNo = none ∧ stands double (inState .frozen (sent (locked (some 4)))) = true ∧
    (after double (inState .frozen (sent (locked (some 4))))).hwi.slips = 1 := by decide +kernel

/-- SlipsAreCounted: the four rows. -/
theorem witness_slips :
    calmB (locked (some 4)) = true ∧ (locked (some 4)).hwi.pulseDue = false ∧ (after (.syncPulse 1 true) (locked (some 4))).hwi.frameNo = some 5 ∧
    (after (.syncPulse 2 true) (locked (some 15))).hwi.frameNo = some 0 ∧ (after (.syncPulse 2 true) (locked (some 15))).hwi.slips = 0 ∧
    (after (.syncPulse 2 true) (locked (some 4))).hwi.frameNo = some 0 ∧ (after (.syncPulse 2 true) (locked (some 4))).hwi.slips = 1 ∧
    (after (.syncPulse 1 true) (locked (some 15))).hwi.frameNo = some 0 ∧ (after (.syncPulse 1 true) (locked (some 15))).hwi.slips = 1 := by decide +kernel

/-- MissingSyncsCostTheFramePosition: each miss, and the divider at the third, at its end and before it. -/
theorem witness_missing :
    let third (d : Nat) := after (.frame []) (onHighway (fun h => { h with divider := d }) (wheel 2))
    let first (d : Nat) := after (.frame []) (onHighway (fun h => { h with divider := d }) (locked (some 15)))
    let full := (wheel 2).onEng (fun e => e.modMgc (fun g => { g with handling := true, inbox := [[0x48, 1, 24, 2, 29, 1, 2, 3]] }))
    full.eng.canTake = false ∧ (after (.frame []) full).hwi.divider = 1 ∧ (after (.frame []) full).eng.mgc.inbox.length = 1 ∧ (wheel 2).eng.mgc.inbox = [] ∧
    (locked (some 15)).eng.mgc.rx = none ∧ (first 5).hwi.divider = 6 ∧ (first 5).hwi.pulseDue = false ∧ (first 7999).hwi.divider = 0 ∧
    (first 7999).hwi.pulseDue = true ∧ (first 5).hwi.frameNo = some 0 ∧
    (wheel 2).hwi.pulseDue = false ∧ (third 5).hwi.divider = 6 ∧ (third 5).cal.subCount = 6000 ∧ (third 5).cal.source = .losc ∧
    (third 7999).hwi.divider = 0 ∧ (third 7999).cal.subCount = 0 ∧
    (locked none).hwi.frameBegun = false ∧ (after (.frame []) (locked none)).hwi.sync = .flywheel ∧ (after (.frame []) (wheel 1)).hwi.misses = 2 ∧
    (after (.frame []) (wheel 2)).hwi.sync = .search ∧ (after (.frame []) (wheel 2)).hwi.htx = idleFill ∧
    (after (.frame []) confirmed3).hwi.sync = .search ∧ (after (.frame []) (searching ready)).hwi.sync = .search := by decide +kernel

/-- FramesWithoutTrafficCarryIdleFill: SEARCH, CONFIRM, FROZEN. -/
theorem witness_idle_fill :
    after (.frame []) (searching ready) = searching ready ∧ (searching ready).hwi.sync = .search ∧ calmB (searching ready) = true ∧
    (searching ready).hwi.frameBegun = false ∧
    (after (.frame []) (onHighway (fun h => { h with frameBegun := true }) confirmed3)) = confirmed3 ∧
    (after (.frame []) (onHighway (fun h => { h with frameBegun := true }) (inState .frozen (locked none)))) = inState .frozen (locked none) ∧
    calmB (inState .frozen (locked none)) = true := by decide +kernel

/-- ClockLossEntersSearch. -/
theorem witness_clock_loss :
    (after .hclkLoss (searching ready)).hwi.htx = List.replicate 128 0xFF ∧ (after .hclkLoss (locked (some 3))).hwi.sync = .search ∧
    (after .hclkLoss (locked (some 3))).hwi.frameNo = none ∧ (after .hclkLoss (locked (some 3))).eng.mgc.flags = 0x0080 ∧ calmB (locked (some 3)) = true ∧
    (after .hclkLoss (onHighway (fun h => { h with divider := 7999 }) (locked none))).cal.subCount = 7999000 := by decide +kernel

/-- A frame begun in LOCKED over a state. -/
def framed (s : State) : State := onHighway (fun h => { h with sync := .locked, pulseValid := true, frameBegun := true }) s

/-- Idle bytes but for the code of one timeslot. -/
def hrxWith (ts : Nat) (c : Byte) : List Byte := (List.range 128).map (fun i => if i = ts then c else 0xFF)

/-- RecordSessionsReceiveSamples: 1,023 samples received, the next one 100; and a session whose buffers are not filling. -/
theorem witness_receive :
    let s := framed (taking (takeSession .taking 1023 15 Meter.start))
    let bare := framed (taking { takeSession .cue 5 0 Meter.start with buf0 := { role := .queued, holds := 0, samples := [] } })
    quietB bare (hrxWith 4 0x2D) = true ∧ (bare.eng.session 2).bufWith .filling = none ∧
    ((after (.frame (hrxWith 4 0x2D)) bare).eng.session 2).buf0 = (bare.eng.session 2).buf0 ∧ ((after (.frame (hrxWith 4 0x2D)) bare).eng.session 2).cursor = 6 ∧
    quietB s (hrxWith 4 0x2D) = true ∧ s.eng.mgc.outbox = [] ∧ s.eng.slotsIn = [(4, 2)] ∧ s.eng.slotsOut = ((none : Option Nat).map (fun n => (n, 2))).toList ∧
    (s.eng.session 2).state.recordLive = true ∧ (s.eng.session 2).bufWith .filling = some 0 ∧
    ((after (.frame (hrxWith 4 0x2D)) s).eng.session 2).cursor = 1024 ∧
    Tab.get 0 ((after (.frame (hrxWith 4 0x2D)) s).eng.session 2).buf0.samples 1023 = 100 := by decide +kernel

/-- RecordSessionsReceiveSamples: bound both ways; the first cue value is that of count 0, taken before the frame's sample, and outside CUE it is 0. -/
theorem witness_both_ways :
    let s (st : SessState) (c : Nat) := framed ((taking { takeSession st c 0 Meter.start with outSlot := some 9 }).onEng (fun e => { e with slotsOut := [(9, 2)] }))
    let t (st : SessState) (c : Nat) := after (.frame (hrxWith 4 0x2D)) (s st c)
    quietB (s .cue 0) (hrxWith 4 0x2D) = true ∧ (s .cue 0).eng.slotsOut = ((some 9).map (fun n => (n, 2))).toList ∧ (t .cue 0).hwi.htx.getD 9 0xFF = 0x00 ∧
    (t .cue 1).hwi.htx.getD 9 0 = 0x56 ∧ (t .cue 2).hwi.htx.getD 9 0 = 0x60 ∧ ((t .cue 3).eng.session 2).cursor = 4 ∧
    Tab.get 0 ((t .cue 3).eng.session 2).buf0.samples 3 = 100 ∧ (t .waitOnset 3).hwi.htx.getD 9 0xFF = 0x00 ∧ (t .taking 3).hwi.htx.getD 9 0xFF = 0x00 := by
  decide +kernel

/-- SessionsGiveTheirValues: PLAYING, CUE and PAUSED. -/
theorem witness_give :
    let s := framed playing
    let cue := framed ((withSession 2 { takeSession .cue 3 0 Meter.start with outSlot := some 9 } mailed).onEng (fun e => { e with slotsOut := [(9, 2)] }))
    let held := framed ((withSession 2 { playSession with state := .paused } playing))
    quietB s [] = true ∧ s.eng.mgc.outbox = [] ∧ s.eng.slotsIn = [] ∧ s.eng.slotsOut = [(9, 2)] ∧ (s.eng.session 2).cursor + 1 ≠ s.eng.sampleCount 3 ∧
    (s.eng.session 2).bufWith .playing = some 0 ∧ ((after (.frame []) s).hwi.htx.getD 9 0) = encode (-7) ∧
    ((after (.frame []) s).eng.session 2).cursor = 3 ∧ quietB cue [] = true ∧ (after (.frame []) cue).hwi.htx.getD 9 0 = 0x56 ∧
    quietB held [] = true ∧ (after (.frame []) held).hwi.htx.getD 9 0xFF = 0x00 ∧ ((after (.frame []) held).eng.session 2).cursor = 2 := by decide +kernel

/-- `mailed` with body 3 over segments 10, 11 and 12. -/
def long : State :=
  mailed.onEng (fun e => { e with tab := { e.tab with
    bodies := [(3, { sealedBody 10 5000 with last := some 12, count := 3 })],
    segments := [(10, { state := .data, body := some 3, next := some 11, eraseFailures := 0 }),
      (11, { state := .data, body := some 3, next := some 12, eraseFailures := 0 }), (12, { state := .data, body := some 3, next := none, eraseFailures := 0 })] } })

/-- A session over the body of `long`, bound to timeslot 9. -/
def longPlay (x : Session) : State :=
  (withSession 2 x long).onEng (fun e => { e with slotsOut := [(9, 2)], holds := [(3, { begun := 0, pins := 0, readers := 1 })] })

/-- SessionsGiveTheirValues: a segment crossed with a prefetched buffer and without one, and the end of a body, kept and released. -/
theorem witness_cross :
    let at_end := { playSession with cursor := 2047 }
    let ready_ := framed (longPlay { at_end with buf1 := { role := .prefetched, holds := 1, samples := [] } })
    let starved := framed (longPlay at_end)
    let last (r : Bool) := framed ((withSession 2 { playSession with cursor := 999, releaseOnReport := r } playing).onEng (fun e =>
      { e with tab := { e.tab with settings := { e.tab.settings with noticesOn := true, kindsOn := 0x0001 } } }))
    let go (s : State) := after (.frame []) s
    quietB ready_ [] = true ∧ quietB starved [] = true ∧ (ready_.eng.session 2).bufWith .playing = some 0 ∧
    ((ready_.eng.session 2).cursor + 1 + ready_.eng.offsetOf 3) % 2048 = 0 ∧ ((go ready_).eng.session 2).buf1.role = .playing ∧
    ((go ready_).eng.session 2).state = .playing ∧ (go ready_).eng.ssc.link = .reading { session := 2, buf := 0, segment := 12 } 1 ∧
    ((go starved).eng.session 2).state = .stalled ∧ ((go starved).eng.session 2).underruns = 1 ∧
    (go starved).eng.ssc.link = .reading { session := 2, buf := 0, segment := 11 } 1 ∧
    (go starved).eng.ssc.readQueue = [{ session := 2, buf := 1, segment := 12 }] ∧ quietB (last true) [] = true ∧ quietB (last false) [] = true ∧
    ((last true).eng.session 2).cursor + 1 = (last true).eng.sampleCount 3 ∧ ((go (last true)).eng.session 2).state = .free ∧
    ((go (last false)).eng.session 2).outcome = some .finished ∧ (go (last false)).eng.slotsOut = [] ∧
    (go (last false)).eng.record 7 = some { message with state := .heard } := by decide +kernel

/-- PacketsLeaveByteByByte: the middle and the end of a packet of 7 bytes, its end on timeslot 0 with a packet behind it and with none, and no packet. -/
theorem witness_leave :
    let p : List Byte := packet [0x02, 0x08, 0x02, 0x00]
    let s (q : List (List Byte)) (n : Nat) := framed (ready.onEng (fun e => e.modMgc (fun g => { g with outbox := q, handed := n })))
    let out (t : State) := (t.hwi.htx.take 2, t.eng.mgc.outbox, t.eng.mgc.handed)
    let go (q : List (List Byte)) (n : Nat) := out (after (.frame []) (s q n))
    quietB (s [p] 0) [] = true ∧ (s [p] 0).eng.mgc.restart = .none ∧ p.length = 7 ∧ go [p] 0 = ([0xC3, 0x04], [p], 2) ∧ go [p] 5 = ([0x00, p.getD 6 0], [], 0) ∧
    quietB (s [p, p] 6) [] = true ∧ go [p, p] 6 = ([p.getD 6 0, 0xC3], [p], 1) ∧ go [p] 6 = ([p.getD 6 0, 0xFF], [], 0) ∧ quietB (s [] 0) [] = true ∧
    go [] 0 = ([0xFF, 0xFF], [], 0) := by decide +kernel

/-! ## Samples and the meter -/

/-- CodesExpandByTheLaw and ValuesEncodeTowardZero, at the ends of the law, and R12's own examples of truncation. -/
theorem witness_codes :
    expand (BitVec.ofNat 8 (128 * 1 + 16 * 7 + 15)) = -3952 ∧ expand 0x00 = 0 ∧ encode 4000 = 0x7F ∧ encode (-4000) = 0xFF ∧ encode (-1) = 0x81 := by
  decide +kernel

/-- CueToneFollowsItsTable, at levels 0 and 3. -/
theorem witness_cue : cueTone 0 1 = 1392 ∧ cueTone 3 6 = -240 ∧ encode (cueTone 0 1) = 0x66 ∧ encode (cueTone 3 2) = 0x40 := by decide +kernel

/-- LevelsFollowAndWindowsCloseInRange: the greatest level and mean, the last window of the mask and the first after it. -/
theorem witness_meter :
    nextLevel 63232 3952 = 63232 ∧ nextLevel 0 1 = 2 ∧
    (Meter.start.close snap0 39).voice = .silent ∧ ((({ Meter.start with sum := 64 * 3952, level := 63232 } : Meter)).close snap0 39).voice = .silent ∧
    ((({ Meter.start with sum := 64 * 3952, level := 63232 } : Meter)).close snap0 40).onset = some 40 ∧ snap0.mask = 40 ∧
    ((({ Meter.start with voice := .speech, onset := some 40, lastSpeech := some 41 } : Meter)).close snap0 42).silenceRun = 1 := by decide +kernel

/-! ## The management channel -/

/-- The bytes of a stream reach the receiver. -/
def heard (bs : List Byte) (s : State) : Engine := bs.foldl (fun e b => e.mgmtIn b) s.eng

/-- PacketsArriveWhole: a body of 2 bytes and one of 48, behind a stray lead byte, and behind packets cut short, of lengths 2, 5 and 48. -/
theorem witness_packets :
    let after_ (n : Byte) (cut : List Byte) := (heard (0xC3 :: n :: (cut ++ packet [0x50, 0x07])) ready).mgc
    (heard (0xC3 :: packet [0x50, 0x07]) ready).mgc.inbox = [[0x50, 0x07]] ∧ (heard (0xC3 :: packet [0x50, 0x07]) ready).mgc.lengthErrors = 1 ∧
    byteSum (5 :: ([1, 2] ++ packet [0x50, 0x07]).take 6) ≠ 0 ∧ (after_ 5 [1, 2]).inbox = [[0x50, 0x07]] ∧ (after_ 5 [1, 2]).checkErrors = 1 ∧
    (after_ 2 [1, 2]).inbox = [[0x50, 0x07]] ∧ (after_ 2 [1, 2]).checkErrors = 1 ∧ (after_ 48 (List.replicate 48 0)).inbox = [[0x50, 0x07]] ∧
    (after_ 48 (List.replicate 48 0)).checkErrors = 1 ∧ (after_ 48 (List.replicate 48 0)).lengthErrors = 0 ∧
    ready.eng.mgc.rx = none ∧ (heard (packet [0x50, 0x07]) ready).mgc.inbox = [[0x50, 0x07]] ∧
    (heard (packet (List.replicate 48 0xC3)) ready).mgc.inbox = [List.replicate 48 0xC3] := by decide +kernel

/-- PacketsArriveWhole, its frames: the bytes of timeslots 0 and 1 end a packet, the one or the other by their order, with the order processor busy; they begin
one, with nothing in the inbox, in an aligned superframe; and they end an order's packet at a calm part. -/
theorem witness_frames :
    let part (rx : Option (List Byte)) (busy : Bool) := framed (ready.onEng (fun e => e.modMgc (fun g => { g with rx := rx, handling := busy })))
    let heard2 (a b : Byte) (s : State) := (s.eng.mgmtIn a).mgmtIn b
    let go (a b : Byte) (s : State) := after (.frame [a, b]) s
    let half := part (some [2, 0x50]) true
    let calm := part (some [2, 0x50]) false
    let aligned := onHighway (fun h => { h with frameNo := some 3 }) (part none false)
    half.hwi.frameBegun = true ∧ half.eng.mgc.handling = true ∧ half.eng.asked = [] ∧ half.eng.dle.due = none ∧ half.eng.ssc.progQueue = [] ∧
    half.eng.ssc.readQueue = [] ∧ half.eng.ssc.eraseQueue = [] ∧ half.eng.mgc.restart = .none ∧ half.eng.slotsIn = [] ∧ half.eng.slotsOut = [] ∧
    (go 0x07 0xA7 half).eng.mgc.inbox = [[0x50, 0x07]] ∧ (go 0x07 0xA7 half).eng.mgc.rx = none ∧ (go 0x07 0xA7 half).eng.mgc.checkErrors = 0 ∧
    (go 0xA7 0x07 half).eng.mgc.inbox = [[0x50, 0xA7]] ∧ (heard2 0xC3 0x02 aligned).mgc.inbox = [] ∧
    (go 0xC3 0x02 aligned).eng.mgc.rx = some [2] ∧ (go 0xC3 0x02 aligned).eng.mgc.lengthErrors = 0 ∧ orderBody (.status 7 []) = some [0x50, 0x07] ∧
    heard2 0x07 0xA7 calm = calm.eng.modMgc (fun g => { g with rx := none, inbox := [[0x50, 0x07]] }) ∧ calm.hwi.frameNo = none ∧
    (go 0x07 0xA7 calm).eng.mgc.outbox.length = 1 ∧ (go 0x07 0xA7 calm).eng.mgc.inbox = [] := by decide +kernel

/-- BadPacketsAreCounted: lengths 1 and 49, a check that fails at lengths 2 and 48, and a closed gate. -/
theorem witness_bad_packets :
    let shut := ready.onEng (fun e => e.modMgc (fun g => { g with gateOpen := false }))
    (heard [0xC3, 1] ready).mgc.lengthErrors = 1 ∧ (heard [0xC3, 49] ready).mgc.lengthErrors = 1 ∧ (heard [0xC3, 49] ready).mgc.rx = none ∧
    byteSum [2, 0x50, 0x07] + 0x00 ≠ 0 ∧ (heard [0xC3, 2, 0x50, 0x07, 0x00] ready).mgc.checkErrors = 1 ∧
    (heard [0xC3, 2, 0x50, 0x07, 0x00] ready).mgc.flags = 0x0100 ∧ (heard ([0xC3, 48] ++ List.replicate 49 0) ready).mgc.checkErrors = 1 ∧
    (heard [0xC3, 1] ready).mgc.flags = 0x0100 ∧ (heard [0xC3, 1] ready).mgc.gateOpen = false ∧ (heard [0xC3, 1] ready).mgc.errorNoted = false ∧
    (heard [0xC3, 49] shut).mgc.errorNoted = true ∧ (heard [0xC3, 49] shut).mgc.gateOpen = false ∧ (heard [0xC3, 49] shut).mgc.flags = 0 ∧
    (heard [0xC3, 2, 0x50, 0x07, 0x00] shut).mgc.errorNoted = true ∧ (heard [0xC3, 2, 0x50, 0x07, 0x00] shut).mgc.flags = 0 := by decide +kernel

/-- An inbox of n orders behind an order being handled. -/
def waiting (n : Nat) : State := ready.onEng (fun e => e.modMgc (fun g => { g with handling := true, inbox := List.replicate n [0x50, 0x01] }))

/-- OrdersWaitOrOverrun: 7 and 8 orders waiting, FROZEN, and SEARCH. -/
theorem witness_overrun :
    (waiting 7).eng.canTake = false ∧ (after (.status 2 []) (waiting 7)).eng.mgc.inbox = List.replicate 7 [0x50, 0x01] ++ [[0x50, 0x02]] ∧
    (after (.status 2 []) (waiting 8)).eng.mgc.overruns = 1 ∧ (after (.status 2 []) (waiting 8)).eng.mgc.inbox = List.replicate 8 [0x50, 0x01] ∧
    (waiting 7).carries = true ∧ after (.status 2 []) (inState .frozen ready) = inState .frozen ready ∧ (inState .frozen ready).carries = false ∧
    after (.status 2 []) (searching ready) = searching ready ∧ (searching ready).carries = false := by decide +kernel

/-- OrdersWaitOrOverrun: the invariant's premise with 8 orders waiting, and a step taken. -/
theorem witness_waiting : (waiting 8).eng.takesOrders ∧ (match step (waiting 8) with | .next _ => true | _ => false) = true := by
  refine ⟨⟨by decide, by decide, fun n body h => ?_, Or.inr (by decide)⟩, by decide +kernel⟩
  change none = some (n :: body) at h
  cases h

/-- OrdersAreCheckedFirst: UNKNOWN, BAD_LENGTH, NOT_READY, with 15 packets in the outbox. -/
theorem witness_checks :
    let s := ready.onEng (fun e => e.modMgc (fun g => { g with outbox := List.replicate 15 [] }))
    let early := inState .starting ready
    calmB s = true ∧ calmB early = true ∧ early.eng.mgc.handling = false ∧ (0x19 : Byte) ∉ orderCodes ∧ Order.ofCode 0x12 = some .stop ∧
    after (.unknownOrder 0x19 4 [1]) s = s.withAnswer 4 .unknown [] ∧ after (.stop 4 [1, 2]) s = s.withAnswer 4 .badLength [] ∧
    after (.stop 4 [1]) early = early.withAnswer 4 .notReady [] ∧ (after (.status 4 []) early).eng.mgc.outbox.length = 1 := by decide +kernel

/-- ClearFlagsClearsTheNamedFlags: with and without MGMT_ERRORS in the mask; STATUS. -/
theorem witness_clear_flags :
    let s := ready.onEng (fun e => e.modMgc (fun g => { g with flags := 0x0181, checkErrors := 3 }))
    acceptB s = true ∧ (after (.clearFlags 4 [0x01, 0x00]) s).eng.mgc.flags = 0x0081 ∧ (after (.clearFlags 4 [0x01, 0x00]) s).eng.mgc.checkErrors = 0 ∧
    (after (.clearFlags 4 [0x00, 0x01]) s).eng.mgc.flags = 0x0180 ∧ (after (.clearFlags 4 [0x00, 0x01]) s).eng.mgc.checkErrors = 3 ∧
    lastAnswer (after (.clearFlags 4 [0x00, 0x01]) s) 4 .done [0x01, 0x81] = true ∧ after (.status 4 []) s = s.withAnswer 4 .done s.statusBytes := by
  decide +kernel

/-- SetOptionsKeepsTheSettings: numbers past both ends, each code without meaning, the reserve changed with the pool below it, and READ OPTIONS. -/
theorem witness_options :
    let ps : List Byte := [1, 0xFF, 0xFF, 0, 1, 3, 0, 9, 24, 0, 1, 9, 64]
    let t := after (.setOptions 4 ps) ready
    acceptB ready = true ∧ ps.length = 13 ∧ t.eng.tab.settings.retryInterval = 1 ∧ t.eng.tab.settings.confirmCount = 4 ∧ t.eng.tab.settings.sweepHour = 23 ∧
    t.eng.tab.settings.poolReserve = 64 ∧ t.eng.tab.settings.cueLength = 63 ∧ t.eng.tab.settings.kindsOn = 0x03FF ∧ t.eng.ssc.poolLow = true ∧
    (answerPacket 4 .done [1]) ∈ t.eng.mgc.outbox ∧
    after (.setOptions 4 [2, 0, 0, 0, 0, 0, 0, 0, 0, 0, 0, 0, 0]) ready = ready.withAnswer 4 .badField [] ∧
    after (.setOptions 4 [0, 0, 0, 4, 0, 0, 0, 0, 0, 0, 0, 0, 0]) ready = ready.withAnswer 4 .badField [] ∧
    after (.setOptions 4 [0, 0, 0, 0, 0, 4, 0, 0, 0, 0, 0, 0, 0]) ready = ready.withAnswer 4 .badField [] ∧
    lastAnswer (after (.readOptions 4 []) ready) 4 .done [0, 3, 0xFF, 2, 0, 1, 10, 2, 3, 4, 0, 1, 25] = true := by decide +kernel

def oneDevice : Selects := { scs0 := true, scs1 := false, scs2 := false, scs3 := false }

/-- `ready` with a RESTART whose answer has left. -/
def due : State := ready.onEng (fun e => e.modMgc (fun g => { g with restart := .due }))

/-- A RESTART whose answer stands n packets from the outbox's head, so many bytes of the head packet handed, an order waiting and two sequences written. -/
def leaving (n handed : Nat) : State :=
  framed (ready.onEng (fun e =>
    { e.modMgc (fun g => { g with restart := .answering n, outbox := List.replicate n (packet [0x02, 0x08]), handed := handed, inbox := [[0x50, 0x01]] }) with
      catQueue := [{ writes := [.signature (some 1), .signature (some 2)], after := .nothing }, { writes := [.signature (some 3)], after := .nothing }] }))

/-- RestartFollowsItsAnswer: the middle of a packet, a packet that leaves before the answer, and the answer; each leaves on timeslot 1 and on timeslot 0. -/
theorem witness_restart_leaves :
    let t (n h : Nat) := after (.frame []) (leaving n h)
    let p := packet [0x02, 0x08]
    let quiet (n h : Nat) := quietB ((leaving n h).onEng (fun e => e.modMgc (fun g => { g with inbox := [] }))) []
    let near (u : State) := (u.eng.mgc.restart, u.eng.mgc.inbox, u.eng.mgc.outbox, u.eng.mgc.handed, u.hwi.htx.getD 1 0)
    let halted := [{ writes := [.signature (some 1)], after := .nothing }]
    p.length = 5 ∧ quiet 1 3 = true ∧ quiet 2 4 = true ∧ (leaving 1 3).eng.slotsIn = [] ∧ (leaving 1 3).eng.slotsOut = [] ∧
    [near (t 2 1), near (t 2 3), near (t 2 4), near (t 1 3), near (t 1 4)] =
      [(.answering 2, [[0x50, 0x01]], [p, p], 3, 0x02), (.answering 1, [[0x50, 0x01]], [p], 0, p.getD 4 0), (.answering 1, [[0x50, 0x01]], [p], 1, 0xC3),
        (.due, [], [], 0, p.getD 4 0), (.due, [], [], 0, 0xFF)] ∧
    (t 2 4).eng.catQueue = (leaving 2 4).eng.catQueue ∧
    [haltQueue (leaving 1 4).eng.catQueue, (t 1 3).eng.catQueue, (t 1 4).eng.catQueue] = List.replicate 3 halted := by decide +kernel

/-- RestartFollowsItsAnswer: the order, not ready, and the reset. -/
theorem witness_restart :
    (after (.restart 4 []) ready).eng.mgc.restart = .answering 1 ∧ after (.restartReset oneDevice) ready = ready ∧ due.eng.ssc.link = .idle ∧
    due.eng.catQueue = [] ∧ due.hwi.pulseDue = false ∧ (after (.restartReset oneDevice) due).eng.ssc.service = .starting ∧
    (after (.restartReset oneDevice) due).eng.ssc.devices = 1 ∧ (after (.restartReset oneDevice) due).eng.mgc = Mgc.reset := by decide +kernel

/-! ## The calendar -/

/-- EveryStepKeepsTheHighwayAndTheClockSound: its premise holds at reset, and a step is taken. -/
theorem witness_invariant :
    State.reset.clocked ∧ (match step State.reset with | .next _ => true | _ => false) = true := by
  refine ⟨⟨⟨?_, ?_, ?_, ?_, ?_, ?_, ?_, ?_⟩, ⟨?_, ?_, ?_⟩, ?_⟩, ?_⟩ <;> decide +kernel

/-- `ready` at a date and time. -/
def at_ (y mo d h mi se : Nat) : State :=
  { ready with cal := { ready.cal with year := y, month := mo, day := d, hour := h, minute := mi, second := se, valid := true } }

/-- SecondsAdvanceTheDate at its two ends, and at a leap day. -/
theorem witness_dates :
    dateLegal 99 12 31 23 59 59 = true ∧ (at_ 99 12 31 23 59 59).cal.atEnd = true ∧ (at_ 99 12 31 23 59 59).cal.advance.valid = false ∧
    (at_ 0 2 28 23 59 59).cal.advance.day = 29 ∧ (at_ 99 12 31 23 59 58).cal.advance.second = 59 ∧ (at_ 1 2 28 23 59 59).cal.advance.month = 3 := by
  decide +kernel

/-- SecondsAreCounted: from either source, at the sweep hour, with the gate open and shut. -/
theorem witness_seconds :
    let pulse := onHighway (fun h => { h with pulseDue := true }) (at_ 24 6 1 2 59 59)
    let shut (n : Bool) := (searching ready).onEng (fun e => e.modMgc (fun g => { g with gateOpen := false, errorNoted := n }))
    calmB pulse = true ∧ (after .secondsPulse pulse).cal.sweep.running = true ∧ (after .secondsPulse pulse).eng.lmp.seconds = 1 ∧
    after .secondsPulse ready = ready ∧ after .localSecond ready = ready ∧ (after .localSecond (searching ready)).cal.second = 1 ∧
    (after .localSecond (searching (inState .frozen ready))).eng.lmp.seconds = 0 ∧ (after .localSecond (shut true)).eng.mgc.flags = 0x0100 ∧
    (after .localSecond (shut false)).eng.mgc.gateOpen = true := by decide +kernel

/-- A sweep running at an entry. -/
def sweeping (p : Nat) (s : State) : State := { s with cal := { s.cal with sweep := { s.cal.sweep with running := true, pointer := p } } }

/-- ClockOrdersSetReadAndSweep. -/
theorem witness_clock_orders :
    (after (.setClock 4 [24, 2, 29, 23, 59, 59]) ready).cal.day = 29 ∧ acceptB ready = true ∧
    after (.setClock 4 [23, 2, 29, 0, 0, 0]) ready = ready.withAnswer 4 .badField [] ∧
    after (.readClock 4 []) ready = ready.withAnswer 4 .done ready.cal.clockBytes ∧ after (.sweep 4 []) ready = ready.withAnswer 4 .wrongState [] ∧
    (after (.sweep 4 []) (at_ 24 6 1 0 0 0)).cal.sweep.running = true ∧
    after (.sweep 4 []) (sweeping 0 ready) = (sweeping 0 ready).withAnswer 4 .busy [] ∧ acceptB (sweeping 0 ready) = true := by decide +kernel

/-- A clock at the first of June 2024, day 8,918, in a part with record 7 heard on a day. -/
def dated (p : Nat) (x : Record) : State :=
  sweeping p { withRecord x with cal := (at_ 24 6 1 0 0 0).cal }

/-- ExaminationsFollowTheTable: an invalid clock, a free entry at the table's end, a NEW one, an absent day, and heard days at and past the retention. -/
theorem witness_examination :
    let heardOn (d : Nat) := dated 7 { message with state := .heard, heardDay := some d }
    calmB (sweeping 0 ready) = true ∧ (after .sweepExamination (sweeping 0 ready)).cal.sweep.running = false ∧
    calmB (dated 32767 message) = true ∧ (after .sweepExamination (dated 32767 message)).cal.sweep.running = false ∧
    (after .sweepExamination (dated 32767 message)).eng.mgc.flags = 0x0004 ∧ (after .sweepExamination (dated 7 message)).cal.sweep.pointer = 8 ∧
    (after .sweepExamination (dated 7 { message with state := .saved })).cal.sweep.stamped = 1 ∧ (heardOn 0).cal.dayNumber = 8918 ∧
    (after .sweepExamination (heardOn 8904)).cal.sweep.deleted = 0 ∧ (after .sweepExamination (heardOn 8903)).cal.sweep.deleted = 1 ∧
    (after .sweepExamination (heardOn 8903)).eng.record 7 = none ∧ (after .sweepExamination (heardOn 8903)).eng.body 3 = none ∧
    ((after .sweepExamination (heardOn 8903)).eng.segment 10).state = .dirty ∧ ((after .sweepExamination (heardOn 8903)).eng.mailbox 5).bind (·.head) = none ∧
    (after .sweepExamination (heardOn 8903)).cal.sweep.startDay = (heardOn 8903).cal.sweep.startDay := by decide +kernel


/-! ## Classes, mailboxes, messages and greetings -/

/-- ReadClassReportsTheStoredValues, LoadClassAndDeleteHandTheLampInputs: classes 0, 15 and 16; every field below and above its range. -/
theorem witness_classes :
    let low : List Byte := 15 :: List.replicate 22 0
    let high : List Byte := 0 :: List.replicate 22 0xFF
    let c := (after (.loadClass 4 low) boxed).eng.cls 15
    let d := (after (.loadClass 4 high) boxed).eng.cls 0
    acceptB boxed = true ∧ low.length = 23 ∧ c.maxMessages = 1 ∧ c.quota = 16 ∧ c.maxMessage = 10 ∧ c.endSilence = 5 ∧ c.tOff = 0 ∧
    d.maxMessage = 600 ∧ d.tOn = 3952 ∧ d.tOff = 3952 ∧ d.savedRetention = 3650 ∧ d.quota = 65535 ∧
    lastAnswer (after (.loadClass 4 high) boxed) 4 .done [1] = true ∧
    after (.loadClass 4 (16 :: List.replicate 22 0)) boxed = boxed.withAnswer 4 .badField [] ∧
    after (.readClass 4 [16]) boxed = boxed.withAnswer 4 .badField [] ∧
    after (.readClass 4 [15]) boxed = boxed.withAnswer 4 .done
      [40, 9, 96, 0, 180, 10, 0, 60, 5, 30, 12, 25, 40, 0, 200, 0, 120, 40, 0, 14, 0, 60] := by decide +kernel

/-- ClassFieldsTravelWhole: classes and settings in their ranges. -/
theorem witness_travel : MailClass.default.clamped = MailClass.default ∧ Settings.default.clamped = Settings.default ∧
    Settings.read Settings.default.bytes = some Settings.default := by decide +kernel

/-- LoadMailboxStoresItsFields: the last mailbox and the last lamp address; a mailbox, an extension, a class, a greeting, a count and an address past
their ranges; an address twice; READ MAILBOX of each kind. -/
theorem witness_load_mailbox :
    let rest : List Byte := List.replicate 9 0
    let load (ps : List Byte) := after (.loadMailbox 4 ps) boxed
    let bad := boxed.withAnswer 4 .badField []
    let good : List Byte := [0x0F, 0xFF, 0x98, 0x96, 0x7F, 15, 1, 0, 1, 2, 1, 15, 31, 31] ++ rest
    good.length = 23 ∧ (load good).eng.mailbox 4095 =
      some { fields := { extension := 9999999, cls := 15, enabled := true, accepts := false, lampsOn := true, active := .absent, lamps := [16383] }, head := none, tail := none } ∧
    ((load good).eng.lamp 16383).refs = 1 ∧ lastAnswer (load good) 4 .done [] = true ∧
    load ([0x10, 0x00, 0, 0, 1, 0, 1, 1, 1, 0, 0, 0, 0, 0] ++ rest) = bad ∧ load ([0, 1, 0x98, 0x96, 0x80, 0, 1, 1, 1, 0, 0, 0, 0, 0] ++ rest) = bad ∧
    load ([0, 1, 0, 0, 1, 16, 1, 1, 1, 0, 0, 0, 0, 0] ++ rest) = bad ∧ load ([0, 1, 0, 0, 1, 0, 1, 1, 1, 3, 0, 0, 0, 0] ++ rest) = bad ∧
    load ([0, 1, 0, 0, 1, 0, 1, 1, 1, 0, 5, 0, 0, 0] ++ rest) = bad ∧ load ([0, 1, 0, 0, 1, 0, 1, 1, 1, 0, 1, 16, 0, 0] ++ rest) = bad ∧
    load ([0, 1, 0, 0, 1, 0, 1, 1, 1, 0, 2, 1, 1, 1, 1, 1, 1] ++ List.replicate 6 0) = bad ∧
    after (.readMailbox 4 [0x10, 0x00]) boxed = bad ∧ after (.readMailbox 4 [0x0F, 0xFF]) boxed = boxed.withAnswer 4 .noSuch [] ∧
    acceptB mailed = true ∧ after (.readMailbox 4 [0, 5]) mailed = mailed.withAnswer 4 .done
      [0, 0, 100, 0, 1, 1, 1, 0, 1, 0, 1, 1, 0xFF, 0xFF, 0xFF, 0xFF, 0xFF, 0xFF, 0xFF, 0xFF, 0xFF, 1, 0, 0, 0, 0, 1, 0, 1, 0, 0, 7, 0, 7] := by decide +kernel

/-- ListGivesEntriesInOrder: from the head and from record 7, BRIEF and FULL, and each refusal. -/
theorem witness_list :
    after (.list 4 [0, 5, 0xFF, 0xFF, 0]) mailed = mailed.withAnswer 4 .done [1, 0xFF, 0xFF, 0, 7, 1, 0, 2] ∧
    after (.list 4 [0, 5, 0, 7, 1]) mailed = mailed.withAnswer 4 .done
      [1, 0xFF, 0xFF, 0, 7, 1, 0, 2, 0xFF, 0xFF, 0xFF, 0xFF, 0xFF, 0xFF, 0xFF, 0xFF, 0xFF, 0xFF, 0xFF, 0xFF, 0xFF, 0xFF, 0xFF] ∧
    after (.list 4 [0x10, 0, 0xFF, 0xFF, 0]) mailed = mailed.withAnswer 4 .badField [] ∧
    after (.list 4 [0, 5, 0x80, 0x00, 0]) mailed = mailed.withAnswer 4 .badField [] ∧
    after (.list 4 [0, 5, 0xFF, 0xFF, 2]) mailed = mailed.withAnswer 4 .badField [] ∧
    after (.list 4 [0x0F, 0xFF, 0xFF, 0xFF, 0]) mailed = mailed.withAnswer 4 .noSuch [] ∧
    after (.list 4 [0, 5, 0x7F, 0xFF, 0]) mailed = mailed.withAnswer 4 .noSuch [] := by decide +kernel

/-- MarkFollowsItsTable: each mark of a NEW record and of a SAVED one, and each refusal. -/
theorem witness_mark :
    let mark (s : State) (c : Byte) := after (.mark 4 [0, 5, 0, 7, c]) s
    let saved := withRecord { message with state := .saved, heardDay := some 9 }
    let live := withRecord { message with state := .recording }
    acceptB mailed = true ∧ acceptB saved = true ∧ acceptB live = true ∧ (mark mailed 0).eng.record 7 = some { message with state := .heard } ∧
    (mark mailed 0).eng.counter 5 = { Counters.zero with heard := 1, total := 1, charged := 1 } ∧
    (mark (dated 0 message) 1).eng.record 7 = some { message with state := .saved, heardDay := some 8918 } ∧
    (mark mailed 2).eng.record 7 = some message ∧ (mark saved 0).eng.record 7 = saved.eng.record 7 ∧ (mark saved 1).eng.record 7 = saved.eng.record 7 ∧
    (mark saved 2).eng.record 7 = some message ∧ mark live 0 = live.withAnswer 4 .wrongState [] ∧ mark mailed 3 = mailed.withAnswer 4 .badField [] ∧
    after (.mark 4 [0x10, 0, 0, 7, 0]) mailed = mailed.withAnswer 4 .badField [] ∧ after (.mark 4 [0, 5, 0x80, 0, 0]) mailed = mailed.withAnswer 4 .badField [] ∧
    after (.mark 4 [0x0F, 0xFF, 0, 7, 0]) mailed = mailed.withAnswer 4 .noSuch [] ∧
    after (.mark 4 [0, 5, 0x7F, 0xFF, 0]) mailed = mailed.withAnswer 4 .noSuch [] := by decide +kernel

/-- LoadClassAndDeleteHandTheLampInputs: DELETE, with its refusals. -/
theorem witness_delete :
    let t := after (.delete 4 [0, 5, 0, 7]) mailed
    let live := withRecord { message with state := .recording }
    t.eng.record 7 = none ∧ t.eng.counter 5 = Counters.zero ∧ t.eng.body 3 = none ∧ (t.eng.segment 10).state = .dirty ∧
    (t.eng.mailbox 5).bind (·.head) = none ∧ lastAnswer t 4 .done [] = true ∧ t.eng.ssc.link = .erasing 10 ∧
    after (.delete 4 [0, 5, 0, 7]) live = live.withAnswer 4 .wrongState [] ∧
    after (.delete 4 [0x10, 0, 0, 7]) mailed = mailed.withAnswer 4 .badField [] ∧
    after (.delete 4 [0, 5, 0x7F, 0xFF]) mailed = mailed.withAnswer 4 .noSuch [] := by decide +kernel

/-- Mailbox 5 with records 7 and 8 over one body. -/
def pair : State :=
  mailed.onEng (fun e => { e with
    tab := { e.tab with
      mailboxes := [(5, { fields := fields, head := some 7, tail := some 8 })], bodies := [(3, { sealedBody 10 1000 with share := 2 })],
      records := [(7, { message with next := some 8 }), (8, { message with prev := some 7 })] },
    counters := [(5, { Counters.zero with new := 2, total := 2, charged := 2 })] })

/-- LoadClassAndDeleteHandTheLampInputs: a body still held, a session's target, lamp inputs handed, not handed and handed again, and a list changed. -/
theorem witness_inputs :
    let t := after (.delete 4 [0, 5, 0, 7]) pair
    let u := after (.delete 4 [0, 5, 0, 7]) playing
    let lit := mailed.onEng (fun e => { e with lmp := { e.lmp with table := [(33, { LampEntry.reset with refs := 1 })] } })
    let given := (lit.eng.handInputs 5).lmp
    let moved := given.listChange 5 [33] [34]
    let tight := after (.loadClass 4 (0 :: 1 :: List.replicate 21 0xFF)) lit
    acceptB pair = true ∧ t.eng.record 8 = some message ∧ (t.eng.mailbox 5).bind (·.head) = some 8 ∧ (t.eng.body 3).map (·.share) = some 1 ∧
    (t.eng.segment 10).state = .data ∧ t.eng.counter 5 = { Counters.zero with new := 1, total := 1, charged := 1 } ∧
    acceptB playing = true ∧ (u.eng.session 2).target = .none ∧ (u.eng.body 3).map (·.share) = some 0 ∧
    fields.lamps.Nodup ∧ given.patterns = [(5, .steady)] ∧ given.entry 33 = { LampEntry.reset with refs := 1, steady := 1, queued := true } ∧
    given.changeQueue = [33] ∧ (lit.eng.handInputs 5).handInputs 5 = lit.eng.handInputs 5 ∧ lit.eng.handInputs 6 = lit.eng ∧
    (inState .frozen lit).eng.handInputs 5 = (inState .frozen lit).eng ∧ moved.entry 33 = { LampEntry.reset with queued := true } ∧
    moved.entry 34 = { LampEntry.reset with refs := 1, steady := 1, queued := true } ∧ moved.changeQueue = [33, 34] ∧
    acceptB lit = true ∧ tight.eng.lmp.patterns = [(5, .fast)] ∧ tight.eng.lmp.changeQueue = [33] := by decide +kernel

/-- A greeting slot of mailbox 5. -/
def greeted (g : GreetingKind) (x : Slot) : State := mailed.onEng (fun e => { e with tab := { e.tab with slots := [(slotKey 5 g, x)] } })

/-- `mailed` with its erase queue as the walk builds it. -/
def kept : State := mailed.onEng (fun e => e.modSsc (fun c => { c with eraseQueue := [{ start := 0, count := 10 }, { start := 11, count := 262133 }] }))

theorem kept_segment (i : Nat) :
    kept.eng.segment i = if i = 10 then { state := .data, body := some 3, next := none, eraseFailures := 0 } else SegEntry.blank := by
  show Tab.get SegEntry.blank [(10, _)] i = _
  by_cases h : i = 10
  · subst h; rfl
  · simp [Tab.get, Tab.find?, h]

theorem kept_queue (i : Nat) : i ∈ Run.segments kept.eng.ssc.eraseQueue ↔ i < 262144 ∧ i ≠ 10 := by
  show i ∈ Run.segments [{ start := 0, count := 10 }, { start := 11, count := 262133 }] ↔ _
  simp only [Run.segments, List.mem_flatMap, List.mem_cons, List.not_mem_nil, or_false, exists_eq_or_imp, exists_eq_left, List.mem_map, List.mem_range]
  constructor
  · rintro (⟨a, h, rfl⟩ | ⟨a, h, rfl⟩) <;> omega
  · intro h
    by_cases h10 : i < 10
    · exact Or.inl ⟨i, h10, by omega⟩
    · exact Or.inr ⟨i - 11, by omega, by omega⟩

theorem kept_queue_nodup : (Run.segments kept.eng.ssc.eraseQueue).Nodup := by
  show (Run.segments [{ start := 0, count := 10 }, { start := 11, count := 262133 }]).Nodup
  have range (s n : Nat) : ((List.range n).map (fun i => s + i)).Nodup := List.Pairwise.map _ (fun a b h e => h (Nat.add_left_cancel e)) (List.nodup_range : (List.range n).Nodup)
  have h : Run.segments [{ start := 0, count := 10 }, { start := 11, count := 262133 }] =
      (List.range 10).map (fun i => 0 + i) ++ (List.range 262133).map (fun i => 11 + i) := by
    simp only [Run.segments, List.flatMap_cons, List.flatMap_nil, List.append_nil]
  rw [h]
  refine List.nodup_append.mpr ⟨range 0 10, range 11 262133, ?_⟩
  intro a ha b hb
  simp only [List.mem_map, List.mem_range] at ha hb
  obtain ⟨x, hx, rfl⟩ := ha
  obtain ⟨y, hy, rfl⟩ := hb
  omega

/-- EveryStepKeepsThePoolTheListsAndTheSharesTrue: its premises hold together in a state with a message, and a step is taken. -/
theorem witness_pool : kept.eng.pooled := by
  refine ⟨rfl, fun _ => ⟨rfl, List.nodup_nil, ?_, kept_queue_nodup, by decide, ?_, ?_, ?_, ?_⟩⟩
  · intro i
    rw [kept_segment]
    refine ⟨fun h => absurd h List.not_mem_nil, fun h => ?_⟩
    split at h <;> exact absurd h (by decide)
  · intro i hi
    rw [kept_segment, if_neg ((kept_queue i).mp hi).2]
    rfl
  · intro i hi hd
    rw [kept_segment] at hd
    by_cases h : i = 10
    · rw [if_pos h] at hd; exact absurd hd (by decide)
    · exact (kept_queue i).mpr ⟨hi, h⟩
  · intro r i w h
    exact absurd h (by rintro (h | h) <;> exact Link.noConfusion h)
  · intro i h
    exact Link.noConfusion h

theorem kept_record {r : Nat} {y : Record} (h : kept.eng.record r = some y) : r = 7 ∧ y = message := by
  change Tab.find? [(7, message)] r = some y at h
  by_cases h7 : r = 7
  · subst h7; exact ⟨rfl, (Option.some.inj h).symm⟩
  · simp [Tab.find?, h7] at h

theorem witness_counts : kept.eng.counted := by
  refine ⟨rfl, fun _ => ⟨rfl, fun m => ?_⟩⟩
  by_cases h : m = 5
  · subst h; decide
  · have hc : kept.eng.counter m = Counters.zero := by
      show Tab.get Counters.zero [(5, _)] m = _
      simp [Tab.get, Tab.find?, h]
    have ht (test : Record → Bool) : kept.eng.tally m test = 0 := by
      show (List.filter _ [(7, message)]).length = 0
      have hm : message.mailbox ≠ m := fun e => h e.symm
      simp [hm]
    rw [hc]
    simp only [ht]
    exact ⟨rfl, rfl, rfl, rfl, rfl, rfl⟩

theorem witness_listed : kept.eng.listed := by
  refine fun _ => ⟨?_, ?_⟩
  · intro r y h
    obtain ⟨_, rfl⟩ := kept_record h
    decide
  · intro m b h
    change Tab.find? [(5, _)] m = some b at h
    by_cases h5 : m = 5
    · subst h5
      cases h
      refine ⟨[7], by decide, ?_, rfl, rfl, ?_⟩
      · intro r
        refine ⟨fun hr => ?_, fun ⟨y, hy, _⟩ => ?_⟩
        · rw [List.mem_singleton.mp hr]; exact ⟨message, rfl, rfl⟩
        · rw [(kept_record hy).1]; exact List.mem_singleton.mpr rfl
      · intro before r after e
        match before, e with
        | [], e => cases e; exact ⟨message, rfl, rfl, rfl⟩
        | x :: xs, e =>
          have := congrArg List.length e
          simp at this
    · simp [Tab.find?, h5] at h

theorem witness_shares : kept.eng.shared ∧ kept.safeNext ∧ (match step kept with | .next _ => true | _ => false) = true := by
  refine ⟨fun _ => ⟨rfl, rfl, rfl, ?_, ?_, ?_⟩, ?_, by decide +kernel⟩
  · intro b x h
    change Tab.find? [(3, _)] b = some x at h
    by_cases h3 : b = 3
    · subst h3; cases h; decide
    · simp [Tab.find?, h3] at h
  · intro b h
    by_cases h3 : b = 3
    · subst h3; decide
    · have hm : message.body ≠ b := fun e => h3 e.symm
      change 0 < (List.filter _ [(7, message)]).length + 0 + 0 at h
      simp [hm] at h
  · intro j h
    exact absurd h List.not_mem_nil
  · intro c h
    cases h

/-- PurgeEmptiesTheMailbox: busy by a record, a slot and a job, and not busy. -/
theorem witness_purge :
    let live := withRecord { message with state := .recording }
    let staged := greeted .busy { held := none, staged := some 4 }
    let filled := greeted .busy { held := some 3, staged := none }
    let purge (s : State) := after (.purge 4 [0, 5]) s
    acceptB live = true ∧ purge live = live.withAnswer 4 .busy [] ∧ purge staged = staged.withAnswer 4 .busy [] ∧
    (purge filled).eng.record 7 = none ∧ ((purge filled).eng.slot 5 .busy).held = none ∧ lastAnswer (purge filled) 4 .done [] = true ∧
    after (.purge 4 [0x10, 0]) mailed = mailed.withAnswer 4 .badField [] ∧ after (.purge 4 [0x0F, 0xFF]) mailed = mailed.withAnswer 4 .noSuch [] := by
  decide +kernel

/-- GreetingOrdersSetAndEmptySlots: the last codes, a slot held, empty and staged. -/
theorem witness_greetings :
    let held := greeted .name { held := some 3, staged := none }
    let staged := greeted .name { held := some 3, staged := some 4 }
    ((after (.selectGreeting 4 [0, 5, 2]) held).eng.mailbox 5).map (·.fields.active) = some .absent ∧
    lastAnswer (after (.selectGreeting 4 [0, 5, 2]) held) 4 .done [2, 0, 0, 0, 0, 0, 0, 0, 0, 0, 0, 0, 0, 1, 0, 2, 0] = true ∧
    after (.selectGreeting 4 [0, 5, 3]) held = held.withAnswer 4 .badField [] ∧ after (.eraseGreeting 4 [0, 5, 4]) held = held.withAnswer 4 .badField [] ∧
    after (.selectGreeting 4 [0, 6, 2]) held = held.withAnswer 4 .noSuch [] ∧ after (.eraseGreeting 4 [0, 6, 3]) held = held.withAnswer 4 .noSuch [] ∧
    lastAnswer (after (.eraseGreeting 4 [0, 5, 3]) held) 4 .done [1, 0, 2] = true ∧ ((after (.eraseGreeting 4 [0, 5, 3]) held).eng.slot 5 .name).held = none ∧
    after (.eraseGreeting 4 [0, 5, 0]) held = held.withAnswer 4 .done [0, 0, 0] ∧
    after (.eraseGreeting 4 [0, 5, 3]) staged = staged.withAnswer 4 .busy [] ∧ acceptB staged = true := by decide +kernel

/-- OpenPlayChoosesItsTarget: a message chosen, each greeting, and none. -/
theorem witness_choices :
    mailed.eng.nextNew 5 = some 7 ∧ boxed.eng.nextNew 5 = none ∧ mailed.eng.chooseGreeting 5 true = none ∧
    (greeted .name { held := some 3, staged := none }).eng.chooseGreeting 5 true = some .name ∧
    (greeted .busy { held := some 3, staged := none }).eng.chooseGreeting 5 true = some .busy ∧
    (greeted .busy { held := some 3, staged := none }).eng.chooseGreeting 5 false = none ∧
    (greeted .standard { held := some 3, staged := none }).eng.chooseGreeting 5 true = some .standard := by decide +kernel

/-! ## Lists and deliveries -/

/-- List 63 with member entries 0 and 1: mailboxes 5 and 4095. -/
def listed : State :=
  mailed.onEng (fun e => { e with tab := { e.tab with
    lists := [(63, { first := some 0, last := some 1, count := 2 })],
    members := [(0, { mailbox := 5, next := some 1 }), (1, { mailbox := 4095, next := none })] } })

/-- A job from record 7. -/
def job (target : JobTarget) (n : Nat) : Job :=
  { number := 65535, sourceBox := 5, sourceRecord := 7, body := 3, extent := 1, caller := none, target := target, recipients := n, urgent := true,
    skipSource := true, nextPos := 0, current := none, cancel := false, delivered := 0, skips := Skips.zero }

/-- A part with jobs. -/
def withJobs (js : List Job) (s : State) : State :=
  s.onEng (fun e => { e with dle := { queue := js, nextNumber := 65535 }, holds := [(3, { begun := 0, pins := js.length, readers := 0 })] })

/-- ListClearEmptiesAndReadListReads: lists 63 and 64, in use, empty, and the last position. -/
theorem witness_lists :
    let used := withJobs [job (.list 63) 2] listed
    acceptB listed = true ∧ acceptB used = true ∧ listed.eng.listInUse 63 = false ∧ used.eng.listInUse 63 = true ∧
    after (.listClear 4 [64]) listed = listed.withAnswer 4 .badField [] ∧ after (.listClear 4 [63]) used = used.withAnswer 4 .busy [] ∧
    (after (.listClear 4 [63]) listed).eng.tab.members = [] ∧ lastAnswer (after (.listClear 4 [63]) listed) 4 .done [0, 2, 0x20, 0x00] = true ∧
    after (.listClear 4 [0]) listed = listed.withAnswer 4 .done [0, 0, 0x1F, 0xFE] ∧
    after (.readList 4 [64, 0, 0]) listed = listed.withAnswer 4 .badField [] ∧ after (.readList 4 [63, 2, 0]) listed = listed.withAnswer 4 .badField [] ∧
    after (.readList 4 [63, 0, 1]) listed = listed.withAnswer 4 .done ([0, 2, 0, 0x1F, 0xFE, 1, 0xFF, 0xFF, 0x0F, 0xFF] ++ List.replicate 30 0xFF) ∧
    after (.readList 4 [63, 1, 0xFF]) listed = listed.withAnswer 4 .done ([0, 2, 0, 0x1F, 0xFE, 0, 0xFF, 0xFF] ++ List.replicate 32 0xFF) := by decide +kernel

/-- ListAddCountsWhatItAdds: one added and one present; all present; a full list; counts 0 and 17, a mailbox 4096, a list in use. -/
theorem witness_list_add :
    let add (s : State) (ps : List Byte) := after (.listAdd 4 (ps ++ List.replicate (34 - ps.length) 0)) s
    let packed := listed.onEng (fun e => { e with tab := { e.tab with lists := [(63, { first := none, last := none, count := 512 })] } })
    let used := withJobs [job (.list 63) 2] listed
    lastAnswer (add listed [63, 2, 0, 5, 0, 6]) 4 .done [1, 1, 0, 0, 3, 0x1F, 0xFD] = true ∧ (add listed [63, 2, 0, 5, 0, 6]).eng.listMembers 63 = [5, 4095, 6] ∧
    lastAnswer (add listed [63, 1, 0x0F, 0xFF]) 4 .done [0, 1, 0, 0, 2, 0x1F, 0xFE] = true ∧
    lastAnswer (add packed [63, 1, 0, 6]) 4 .full [0, 0, 1, 2, 0, 0x1F, 0xFE] = true ∧ acceptB packed = true ∧
    add listed [63, 0] = listed.withAnswer 4 .badField [] ∧ add listed [63, 17] = listed.withAnswer 4 .badField [] ∧
    add listed [64, 1] = listed.withAnswer 4 .badField [] ∧ add listed [63, 1, 0x10, 0] = listed.withAnswer 4 .badField [] ∧
    add used [63, 1, 0, 6] = used.withAnswer 4 .busy [] := by decide +kernel

/-- ListAddCountsWhatItAdds and EveryStepKeepsTheListsWhole: the premise holds where a list has members, and a step is taken. -/
theorem witness_membered : listed.eng.membered ∧ (match step listed with | .next _ => true | _ => false) = true := by
  have other (l : Nat) (h : l ≠ 63) : listed.eng.list l = DistList.empty := by
    show Tab.get DistList.empty [(63, _)] l = _
    simp [Tab.get, Tab.find?, h]
  refine ⟨fun _ => ⟨rfl, fun l => if l = 63 then [0, 1] else [], fun l => ?_, fun l k i hl hk => ?_, fun i h => ⟨63, ?_⟩⟩, by decide +kernel⟩
  · by_cases h : l = 63
    · subst h
      refine ⟨⟨rfl, rfl, rfl, ?_⟩, by decide, by decide, by decide⟩
      intro before i rest e
      match before, e with
      | [], e => cases e; exact ⟨_, rfl, fun _ => rfl⟩
      | [a], e => cases e; exact ⟨_, rfl, fun h => absurd rfl h⟩
      | a :: b :: c, e =>
        have := congrArg List.length e
        simp at this
    · have hm : listed.eng.listMembers l = [] := by
        simp only [Engine.listMembers, Engine.listEntries, other l h]
        rfl
      simp only [if_neg h, Engine.memberChain, other l h, hm]
      exact ⟨⟨rfl, rfl, rfl, fun before i rest e => by simp at e⟩, List.nodup_nil, by decide, List.nodup_nil⟩
  · by_cases h : l = 63 <;> by_cases h' : k = 63 <;> simp_all
  · change Tab.find? [(0, _), (1, _)] i ≠ none at h
    by_cases h0 : i = 0
    · simp [h0]
    · by_cases h1 : i = 1
      · simp [h1]
      · simp [Tab.find?, h0, h1] at h

/-- DeliverQueuesAJob: a mailbox, a list, an empty list, 3 and 4 jobs queued, and each refusal. -/
theorem witness_deliver :
    let ask (s : State) (ps : List Byte) := after (.deliver 4 ps) s
    let jobs (n : Nat) := withJobs (List.replicate n (job (.mailbox 6) 1)) listed
    let t := ask listed [0, 5, 0, 7, 0, 0, 63, 1, 1]
    acceptB (jobs 3) = true ∧ acceptB (jobs 4) = true ∧ t.eng.dle.queue.map (·.recipients) = [2] ∧ (t.eng.hold 3).pins = 1 ∧
    lastAnswer t 4 .done [0, 1, 0, 2, 0] = true ∧ (ask listed [0, 5, 0, 7, 1, 0x0F, 0xFF, 0, 0]).eng.dle.queue.map (·.recipients) = [1] ∧
    (ask (jobs 3) [0, 5, 0, 7, 0, 0, 0, 0, 0]).eng.dle.queue.length = 4 ∧ (ask (jobs 3) [0, 5, 0, 7, 0, 0, 0, 0, 0]).eng.dle.nextNumber = 1 ∧
    ask (jobs 4) [0, 5, 0, 7, 0, 0, 63, 0, 0] = (jobs 4).withAnswer 4 .busy [] ∧
    (ask listed [0, 5, 0, 7, 0, 0, 0, 0, 0]).eng.dle.queue = [] ∧ (ask listed [0, 5, 0, 7, 0, 0, 0, 0, 0]).eng.mgc.flags = 0x0002 ∧
    ask listed [0, 5, 0, 7, 0, 0, 64, 0, 0] = listed.withAnswer 4 .badField [] ∧ ask listed [0, 5, 0, 7, 1, 0x10, 0, 0, 0] = listed.withAnswer 4 .badField [] ∧
    ask listed [0, 5, 0, 7, 2, 0, 0, 0, 0] = listed.withAnswer 4 .badField [] ∧ ask listed [0, 5, 0, 7, 0, 0, 63, 2, 0] = listed.withAnswer 4 .badField [] ∧
    ask listed [0, 5, 0, 8, 0, 0, 63, 0, 0] = listed.withAnswer 4 .noSuch [] := by decide +kernel

/-- CancelDeliveryEndsTheJob: between recipients, at a recipient, number 0, and a number no job holds. -/
theorem witness_cancel_delivery :
    let idle := withJobs [job (.mailbox 6) 1] listed
    let writing := withJobs [{ job (.mailbox 6) 1 with current := some 6, nextPos := 1 }] listed
    acceptB idle = true ∧ acceptB writing = true ∧ (after (.cancelDelivery 4 [0xFF, 0xFF]) idle).eng.dle.queue = [] ∧
    (after (.cancelDelivery 4 [0xFF, 0xFF]) idle).eng.mgc.flags = 0x0002 ∧
    (after (.cancelDelivery 4 [0xFF, 0xFF]) writing).eng.dle.queue.map (·.cancel) = [true] ∧
    after (.cancelDelivery 4 [0, 0]) idle = idle.withAnswer 4 .badField [] ∧ after (.cancelDelivery 4 [0, 1]) idle = idle.withAnswer 4 .noSuch [] := by
  decide +kernel

/-- A part whose running job comes to mailbox 5, its fields and class as given. -/
def judged (f : BoxFields) (c : MailClass) (j : Job) : State :=
  (withJobs [j] mailed).onEng (fun e => { e with tab := { e.tab with
    mailboxes := [(5, { fields := f, head := some 7, tail := some 7 })], classes := [(0, c)] } })

/-- RecipientsAreJudgedInTurn: a copy, and each reason but a full message table, at its boundary. -/
theorem witness_recipients :
    let take (f : BoxFields) (c : MailClass) (j : Job) := (after .deliveryRecipient (judged f c j)).eng
    let two : Job := { job (.mailbox 5) 2 with skipSource := false }
    let c := MailClass.default
    calmB (judged fields c two) = true ∧ (take fields c two).dle.queue.map (·.delivered) = [1] ∧ ((take fields c two).record 0).map (·.body) = some 3 ∧
    ((take fields c two).body 3).map (·.share) = some 2 ∧ (take fields c two).counter 5 = { Counters.zero with new := 2, urgent := 1, total := 2, charged := 2 } ∧
    (take fields { c with maxMessages := 1 } two).dle.queue.map (·.skips.full) = [1] ∧ (take fields { c with maxMessages := 2 } two).dle.queue.map (·.skips.full) = [0] ∧
    (take fields { c with quota := 1 } two).dle.queue.map (·.skips.quota) = [1] ∧
    (take { fields with enabled := false } c two).dle.queue.map (·.skips.disabled) = [1] ∧
    (take { fields with accepts := false } c two).dle.queue.map (·.skips.notAccepting) = [1] ∧
    (take fields c (job (.mailbox 5) 2)).dle.queue.map (·.skips.sourceBox) = [1] ∧ (take fields c (job (.mailbox 5) 1)).dle.queue = [] := by decide +kernel


/-- A message table with no free entry. -/
def fullTable (k n : Nat) : Tab Record := (List.range' k n).map (fun i => (i, message))

theorem lowestFreeFrom_full : ∀ n k, Tab.lowestFreeFrom k (fullTable k n) = k + n
  | 0, k => rfl
  | n + 1, k => by
    have h : fullTable k (n + 1) = (k, message) :: fullTable (k + 1) n := by simp [fullTable, List.range'_succ]
    rw [h]
    simp only [Tab.lowestFreeFrom, if_true]
    rw [lowestFreeFrom_full n (k + 1)]
    omega

/-- RecipientsAreJudgedInTurn: the message table is full. -/
theorem witness_table_full :
    (mailed.onEng (fun e => { e with tab := { e.tab with records := fullTable 0 32768 } })).eng.freeRecordNo = 32768 := by
  show Tab.lowestFreeFrom 0 (fullTable 0 32768) = 32768
  rw [lowestFreeFrom_full]

/-! ## Lamps -/

/-- Mailbox 5's lamp address 33 in a fault state. -/
def lamped (f : FaultState) (due : Option Nat) : State :=
  mailed.onEng (fun e => { e with lmp := { e.lmp with table := [(33, { LampEntry.reset with refs := 1, fault := f, kind := some .short, confirm := 2, retryDue := due })] } })

/-- LampOrdersAndRetries: each fault state, the ends of the address range, and a retry due, and due a second on. -/
theorem witness_lamps :
    let s := lamped .latched none
    let clear (s : State) := after (.clearFault 4 [0, 1, 1]) s
    acceptB s = true ∧ ((clear s).eng.lamp 33).fault = .clear ∧ (clear s).eng.lmp.changeQueue = [33] ∧ lastAnswer (clear s) 4 .done [2] = true ∧
    clear (lamped .suspect none) = (lamped .suspect none).withAnswer 4 .done [1] ∧
    after (.clearFault 4 [16, 0, 0]) s = s.withAnswer 4 .badField [] ∧ after (.lampStatus 4 [0, 32, 0]) s = s.withAnswer 4 .badField [] ∧
    after (.lampStatus 4 [15, 31, 31]) s = s.withAnswer 4 .done [0, 0, 0, 0, 0, 0, 0, 0, 0, 0xFF, 0, 0xFF, 0, 0xFF, 0xFF, 0xFF, 0, 0, 0, 0] ∧
    lastAnswer (after (.lampStatus 4 [0, 1, 1]) s) 4 .done [0, 1, 0, 0, 0, 0, 0, 0, 0, 0xFF, 2, 2, 2, 0xFF, 0xFF, 0xFF, 0, 0, 0, 0] = true ∧
    ((after (.retryDue 33) (lamped .retryWait (some 0))).eng.lamp 33).fault = .suspect ∧
    after (.retryDue 33) (lamped .retryWait (some 1)) = lamped .retryWait (some 1) ∧ after (.retryDue 33) s = s := by decide +kernel

/-- LampPatternFollowsItsTable and LampFaultsFollowTheirMode: not confirmed, and confirmed in each mode. -/
theorem witness_lamp_faults :
    let e (m : FaultMode) := (lamped .suspect none).eng.put (.settings { Settings.default with modeShort := m, confirmCount := 3 })
    lampPattern true true 1 0 true = .fast ∧ lampPattern true true 1 1 false = .slow ∧ lampPattern true true 1 0 false = .steady ∧
    lampPattern true true 0 0 true = .off ∧ lampPattern false true 1 1 true = .off ∧
    (((e .latch).lampBad 33 .openCircuit).lamp 33).confirm = 1 ∧ (((e .latch).lampBad 33 .short).lamp 33).fault = .latched ∧
    ((e .latch).lampBad 33 .short).mgc.flags = 0x0008 ∧ (((e .retry).lampBad 33 .short).lamp 33).retryDue = some 10 ∧
    (((e .report).lampBad 33 .short).lamp 33).reported = some .short ∧ ((e .ignore).lampBad 33 .short).mgc.flags = 0 ∧
    ((((e .report).lampBad 33 .short).lampOk 33).mgc.flags) = 0x0018 := by decide +kernel

/-- A lamp unit with addresses 33, 34 and 40, and a change queue. -/
def unit (f : FaultState) (queue : List Nat) (pointer : Nat) : Lmp :=
  let x (k : Bool) := { LampEntry.reset with refs := 1, steady := 1, queued := k }
  { Lmp.reset with
    table := [(33, { x (queue.contains 33) with fault := f }), (34, x (queue.contains 34)), (40, x (queue.contains 40))],
    changeQueue := queue, sweepPointer := pointer }

/-- LampFaultsFollowTheirMode, the choice: the queue's head, one out of service dropped, the sweep ahead and round again, and nothing; the cell sent. -/
theorem witness_cells :
    let c (l : Lmp) := l.choose
    let sent := (unit .clear [34] 5).cellPosition 0
    c (unit .latched [33, 34] 5) = (some 34, { unit .latched [] 5 with table := (unit .latched [] 5).table }) ∧
    (c (unit .latched [33] 34)).1 = some 40 ∧ (c (unit .latched [33] 34)).2.sweepPointer = 40 ∧ (c (unit .latched [] 40)).1 = some 34 ∧
    (c (unit .clear [] 16383)).1 = some 33 ∧ c { Lmp.reset with changeQueue := [7], table := [(7, { LampEntry.reset with fault := .latched, queued := true })] } =
      (none, { Lmp.reset with table := [(7, { LampEntry.reset with fault := .latched })] }) ∧ Tab.risingFrom none (unit .clear [] 5).table = true ∧
    sent.outCell = [0x5A, 0x00, 0x22, 0x01] ∧ sent.superframe = 1 ∧ sent.awaiting = [{ position := 0, superframe := 1, sent := some (34, .steady) }] ∧
    (sent.entry 34).lastSent = some .steady ∧ (Lmp.reset.cellPosition 3).awaiting = [{ position := 3, superframe := 0, sent := none }] ∧
    (Lmp.reset.cellPosition 3).outCell = [0xFF, 0xFF, 0xFF, 0xFF] ∧ ((unit .clear [34] 5).outByte 0).1 = 0x5A ∧ (sent.outByte 1).1 = 0x5A ∧
    (Lmp.reset.outByte 15).1 = 0xFF := by decide +kernel

/-- LampFaultsFollowTheirMode, the judging: no entry of the position, an idle cell, an address gone, and each answer; the bytes of an inbound cell; a
restart; and an aligned frame. -/
theorem witness_judging :
    let e (f : FaultState) (w : List Awaiting) : Engine := { mailed.eng with lmp := { unit f [] 5 with superframe := 2, awaiting := w } }
    let w (a : Nat) : Awaiting := { position := 3, superframe := 1, sent := some (a, .steady) }
    let judge (cell : List Byte) := ((e .clear [w 33]).judge 3 cell).lamp 33
    let far := e .clear [{ w 33 with superframe := 0 }]
    let back := { unit .clear [34] 5 with awaiting := [w 33, w 34, w 7], inCell := some [1], superframe := 9 }.restart
    let aligned := framed (onHighway (fun h => { h with frameNo := some 1 }) ready)
    far.judge 3 [0, 0, 33, 0] = far ∧ (e .clear [{ w 33 with sent := none }]).judge 3 [0, 0, 33, 1] = e .clear [] ∧
    (e .latched [w 33]).judge 3 [0, 0, 33, 1] = e .latched [] ∧ (e .clear [w 35]).judge 3 [0, 0, 35, 1] = e .clear [] ∧
    (judge [0, 0, 33, 0]).fault = .clear ∧ (judge [0, 0, 33, 1]).kind = some .openCircuit ∧ (judge [0, 0, 33, 2]).kind = some .short ∧
    (judge [0, 0, 33, 3]).kind = some .noAnswer ∧ (judge [0, 0, 34, 0]).kind = some .noAnswer ∧
    (judge [0xFF, 0xFF, 0xFF, 0xFF]).kind = some .noAnswer ∧ (judge [0, 0, 33, 1]).confirm = 1 ∧
    (ready.eng.lampByte 4 7).lmp.inCell = some [7] ∧ ready.eng.lampByte 5 7 = ready.eng ∧
    ([(12, 0), (13, 0), (14, 33), (15, 1)].foldl (fun (e : Engine) (b : Nat × Byte) => e.lampByte b.1 b.2) (e .clear [w 33])).lmp.entry 33 =
      judge [0, 0, 33, 1] ∧
    back.changeQueue = [34, 33, 7] ∧ back.awaiting = [] ∧ back.inCell = none ∧ back.superframe = 0 ∧
    calmFrameB aligned (hrxWith 2 0x41) = true ∧ (after (.frame (hrxWith 2 0x41)) aligned).hwi.htx.take 4 = [0xFF, 0xFF, 0xFF, 0x00] ∧
    (after (.frame (hrxWith 2 0x41)) (framed (onHighway (fun h => { h with frameNo := some 0 }) ready))).eng.lmp.inCell = some [0x41] := by decide +kernel

/-! ## Sessions -/

/-- A part in which an OPEN RECORD is admitted: 64 segments free, a reserve of 64. -/
def open_ (cue : Nat) : State :=
  mailed.onEng (fun e =>
    { e with
      ssc := { e.ssc with freeList := List.range' 100 64 },
      tab := { e.tab with settings := { Settings.default with poolReserve := 64, cueLength := cue } } })

/-- OpenRecordStartsATake: a message with and without a cue, and a greeting, on the ends of the ranges; sessions 48 and kind 2. -/
theorem witness_open_record :
    let ask (s : State) (ps : List Byte) := after (.openRecord 4 ps) s
    let message_ : List Byte := [47, 0, 0, 5, 0, 1, 0x98, 0x96, 0x7F, 127, 3, 1]
    let t := ask (open_ 25) message_
    acceptB (open_ 25) = true ∧ (open_ 25).eng.available = 64 ∧ (t.eng.session 47).state = .cue ∧ (t.eng.session 47).target = .record 0 ∧
    (t.eng.session 47).body = some 0 ∧ t.eng.slotsIn = [(127, 47)] ∧ t.eng.slotsOut = [(3, 47)] ∧ (t.eng.record 0).map (·.caller) = some (some 9999999) ∧
    t.eng.counter 5 = { Counters.zero with new := 1, recording := 1, total := 2, charged := 2 } ∧ t.eng.mgc.handling = true ∧
    t.eng.catQueue.map (·.after) = [.answer (answerPacket 4 .done [0, 0, 0, 0, 0])] ∧ ((ask (open_ 0) message_).eng.session 47).state = .waitOnset ∧
    ((ask (open_ 25) [0, 1, 0, 5, 3, 9, 0xFF, 0xFF, 0xFF, 3, 0xFF, 0]).eng.session 0).target = .slot .name ∧
    ((ask (open_ 25) [0, 1, 0, 5, 3, 9, 0xFF, 0xFF, 0xFF, 3, 0xFF, 0]).eng.slot 5 .name).staged = some 0 ∧
    ask (open_ 25) [48, 0, 0, 5, 0, 0, 0, 0, 0, 3, 0xFF, 0] = (open_ 25).withAnswer 4 .badField [] ∧
    ask (open_ 25) [47, 2, 0, 5, 0, 0, 0, 0, 0, 3, 0xFF, 0] = (open_ 25).withAnswer 4 .badField [] := by decide +kernel

/-- OpenRecordStartsATake: each refusal in its order, and STORE_BUSY. -/
theorem witness_open_record_refused :
    let ask (s : State) (ps : List Byte) := after (.openRecord 4 ps) s
    let full (c : MailClass) := (open_ 25).onEng (fun e => { e with tab := { e.tab with classes := [(0, c)] } })
    let off := (open_ 25).onEng (fun e => { e with tab := { e.tab with mailboxes := [(5, { fields := { fields with enabled := false }, head := some 7, tail := some 7 })] } })
    let short := (open_ 25).onEng (fun e => e.modSsc (fun c => { c with freeList := List.range' 100 63 }))
    let staged := (open_ 25).onEng (fun e => { e with tab := { e.tab with slots := [(slotKey 5 .name, { held := none, staged := some 4 })] } })
    let bound := (open_ 25).onEng (fun e => { e with slotsIn := [(9, 1)] })
    let inUse := withSession 0 { Session.reset with state := .ended } (open_ 25)
    let stuck := withSession 0 { Session.reset with buf0 := { Buffer.empty with role := .stale }, buf1 := { Buffer.empty with role := .stale } } (open_ 25)
    let m (i o : Byte) : List Byte := [0, 0, 0, 5, 0, 0, 0xFF, 0xFF, 0xFF, i, o, 0]
    let g : List Byte := [0, 1, 0, 5, 3, 0, 0, 0, 0, 9, 0xFF, 0]
    let no (s : State) (r : Result) (ps : List Byte) := ask s ps = s.withAnswer 4 r []
    no (open_ 25) .badField [0, 0, 0, 5, 0, 2, 0xFF, 0xFF, 0xFF, 9, 0xFF, 0] ∧ no (open_ 25) .badField [0, 1, 0, 5, 4, 0, 0, 0, 0, 9, 0xFF, 0] ∧
    acceptB inUse = true ∧ no inUse .busy (m 9 0xFF) ∧ no (open_ 25) .badField [0, 0, 0x10, 0, 0, 0, 0xFF, 0xFF, 0xFF, 9, 0xFF, 0] ∧
    no (open_ 25) .noSuch [0, 0, 0, 6, 0, 0, 0xFF, 0xFF, 0xFF, 9, 0xFF, 0] ∧ acceptB off = true ∧ no off .wrongState (m 9 0xFF) ∧
    no (full { MailClass.default with maxMessages := 1 }) .full (m 9 0xFF) ∧ acceptB (full { MailClass.default with quota := 1 }) = true ∧
    no (full { MailClass.default with quota := 1 }) .full (m 9 0xFF) ∧ acceptB short = true ∧ no short .storeFull (m 9 0xFF) ∧
    acceptB staged = true ∧ no staged .wrongState g ∧ acceptB bound = true ∧ no bound .badField (m 9 0xFF) ∧ no (open_ 25) .badField (m 2 0xFF) ∧
    no (open_ 25) .badField (m 128 0xFF) ∧ no (open_ 25) .badField (m 9 2) ∧ acceptB stuck = true ∧ (stuck.eng.session 0).bufWith .idle = none ∧
    (stuck.eng.session 0).bufWith .filling = none ∧ ((ask stuck (m 9 0xFF)).eng.session 0).outcome = some .storeBusy ∧
    (ask stuck (m 9 0xFF)).eng.record 0 = none ∧ ((ask stuck g).eng.session 0).outcome = some .storeBusy ∧
    (ask stuck g).eng.slot 5 .name = Slot.empty := by decide +kernel

/-- OpenRecordStartsATake: a full body table. -/
theorem witness_bodies_full (e : Engine) (b : Body) (h : e.tab.bodies = (List.range' 0 65536).map (fun i => (i, b))) : e.freeBody = 65536 := by
  have free : ∀ n k, Tab.lowestFreeFrom k ((List.range' k n).map (fun i => (i, b))) = k + n := by
    intro n
    induction n with
    | zero => intro k; rfl
    | succ n ih =>
      intro k
      simp only [List.range'_succ, List.map_cons, Tab.lowestFreeFrom, if_true]
      rw [ih (k + 1)]
      omega
  show Tab.lowestFreeFrom 0 e.tab.bodies = 65536
  rw [h, free]

/-- OpenPlayAndItsOrdersMoveThePlaying: a record from its resume position, a slot, the active greeting, the next new message; sessions 48, kind 4, and one in use. -/
theorem witness_open_play :
    let ask (s : State) (ps : List Byte) := after (.openPlay 4 ps) s
    let resumed := withRecord { message with resume := some 900 }
    let g := greeted .name { held := some 3, staged := none }
    acceptB resumed = true ∧ ((ask resumed [47, 0, 5, 0, 0, 7, 1, 127, 1]).eng.session 47).cursor = 900 ∧
    (ask resumed [47, 0, 5, 0, 0, 7, 1, 127, 1]).eng.ssc.link = .reading { session := 47, buf := 0, segment := 10 } 1 ∧
    lastAnswer (ask resumed [47, 0, 5, 0, 0, 7, 1, 127, 1]) 4 .done [0, 7, 0, 3, 0xE8, 0, 2, 0, 3, 0x84] = true ∧
    ((ask resumed [47, 0, 5, 0, 0, 7, 0, 3, 0]).eng.hold 3).readers = 1 ∧ ((ask g [0, 0, 5, 1, 0, 3, 0, 3, 0]).eng.session 0).target = .slot .name ∧
    ((ask g [0, 0, 5, 2, 0, 1, 0, 3, 0]).eng.session 0).target = .slot .name ∧ ((ask mailed [0, 0, 5, 3, 0, 0, 0, 3, 0]).eng.session 0).target = .record 7 ∧
    ask mailed [48, 0, 5, 3, 0, 0, 0, 3, 0] = mailed.withAnswer 4 .badField [] ∧ ask mailed [0, 0, 5, 4, 0, 0, 0, 3, 0] = mailed.withAnswer 4 .badField [] ∧
    ask playing [2, 0, 5, 3, 0, 0, 0, 3, 0] = playing.withAnswer 4 .busy [] ∧ acceptB playing = true := by decide +kernel

/-- OpenPlayAndItsOrdersMoveThePlaying: each refusal of OPEN PLAY, the reads asked for, and a SEEK that withdraws one and refetches. -/
theorem witness_play_refused :
    let ask (s : State) (ps : List Byte) := after (.openPlay 4 ps) s
    let no (s : State) (r : Result) (ps : List Byte) := ask s ps = s.withAnswer 4 r []
    let live := withRecord { message with state := .recording }
    let bound := mailed.onEng (fun e => { e with slotsOut := [(9, 1)] })
    let t := ask long [47, 0, 5, 0, 0, 7, 0, 127, 1]
    let busy := (longPlay { playSession with cursor := 5, buf1 := { role := .reading, holds := 1, samples := [] } }).onEng (fun e =>
      e.modSsc (fun c => { c with link := .reading { session := 1, buf := 0, segment := 12 } 1, readQueue := [{ session := 2, buf := 1, segment := 11 }] }))
    let u := after (.seek 4 [2, 0, 3]) busy
    no mailed .badField [0, 0, 5, 0, 0, 7, 2, 9, 0] ∧ no mailed .badField [0, 0, 5, 0, 0, 7, 0, 9, 2] ∧ no mailed .badField [0, 0x10, 0, 0, 0, 7, 0, 9, 0] ∧
    no mailed .noSuch [0, 0, 6, 0, 0, 7, 0, 9, 0] ∧ no mailed .badField [0, 0, 5, 0, 0x80, 0, 0, 9, 0] ∧ no mailed .noSuch [0, 0, 5, 0, 0x7F, 0xFF, 0, 9, 0] ∧
    acceptB live = true ∧ no live .wrongState [0, 0, 5, 0, 0, 7, 0, 9, 0] ∧ no mailed .badField [0, 0, 5, 1, 0, 4, 0, 9, 0] ∧
    no mailed .noSuch [0, 0, 5, 1, 0, 3, 0, 9, 0] ∧ no mailed .badField [0, 0, 5, 2, 0, 2, 0, 9, 0] ∧ no mailed .noSuch [0, 0, 5, 2, 0, 1, 0, 9, 0] ∧
    acceptB boxed = true ∧ no boxed .noSuch [0, 0, 5, 3, 0, 0, 0, 9, 0] ∧ acceptB bound = true ∧ no bound .badField [0, 0, 5, 0, 0, 7, 0, 9, 0] ∧
    no mailed .badField [0, 0, 5, 0, 0, 7, 0, 2, 0] ∧ no mailed .badField [0, 0, 5, 0, 0, 7, 0, 128, 0] ∧ acceptB long = true ∧
    t.eng.ssc.link = .reading { session := 47, buf := 0, segment := 10 } 1 ∧ t.eng.ssc.readQueue = [{ session := 47, buf := 1, segment := 11 }] ∧
    (t.eng.session 47).buf1.role = .reading ∧ acceptB busy = true ∧ (u.eng.session 2).cursor = 2405 ∧ (u.eng.session 2).state = .fetching ∧
    busy.eng.bufferLeft 2 1 = Buffer.idled { role := .reading, holds := 1, samples := [] } ∧ (u.eng.session 2).buf0.holds = 1 ∧
    u.eng.ssc.readQueue = [{ session := 2, buf := 0, segment := 11 }, { session := 2, buf := 1, segment := 12 }] := by decide +kernel

/-- A session that has ended. -/
def ended (release : Bool) : State := withSession 2 { playSession with state := .ended, outcome := some .finished, releaseOnReport := release } mailed

/-- A take over 19 windows, its onset in window 15, that keeps samples 192 to 1216. -/
def heardMeter : Meter := { Meter.start with voice := .speech, onset := some 15, lastSpeech := some 18 }
def shortSnap : Snapshot := { snap0 with minSamples := 1024 }
def take1 : State := taking { takeSession .taking 1216 19 heardMeter with snap := some shortSnap }

/-- SessionOrdersRefuseByState: session 48, a FREE one, one recording, one ended, one draining, and SESSION STATUS of each kind. -/
theorem witness_session_orders :
    let rec_ := taking (takeSession .taking 100 1 Meter.start)
    let drain := taking (takeSession .draining 100 1 Meter.start)
    after (.stop 4 [48]) mailed = mailed.withAnswer 4 .badField [] ∧ after (.seek 4 [48, 0, 0]) mailed = mailed.withAnswer 4 .badField [] ∧
    after (.pause 4 [47]) mailed = mailed.withAnswer 4 .noSuch [] ∧ after (.seek 4 [47, 0, 0]) mailed = mailed.withAnswer 4 .noSuch [] ∧
    acceptB rec_ = true ∧ after (.resume 4 [2]) rec_ = rec_.withAnswer 4 .wrongState [] ∧ after (.seek 4 [2, 0, 0]) rec_ = rec_.withAnswer 4 .wrongState [] ∧
    after (.cancel 4 [2]) (ended false) = (ended false).withAnswer 4 .done [] ∧ after (.stop 4 [2]) drain = drain.withAnswer 4 .done [] ∧
    after (.sessionStatus 4 [48]) mailed = mailed.withAnswer 4 .badField [] ∧
    after (.sessionStatus 4 [2]) playing = playing.withAnswer 4 .done playSession.statusBytes ∧
    ((after (.sessionStatus 4 [2]) (ended true)).eng.session 2).state = .free ∧ acceptB (ended true) = true := by decide +kernel

/-- PlayingsEndStoppedOrLost: STOP, CLOSE, a loss, a CLOSE of an ended session, and a loss of one that runs no loss timer. -/
theorem witness_ends :
    let t := after (.stop 4 [2]) playing
    (t.eng.session 2).outcome = some .stopped ∧ t.eng.slotsOut = [] ∧ t.eng.mgc.flags = 0x0001 ∧ lastAnswer t 4 .done [] = true ∧
    (t.eng.record 7).map (·.resume) = some (some 2) ∧ ((after (.lossTimerExpiry 2) playing).eng.session 2).outcome = some .slotLost ∧
    ((after (.close 4 [2]) playing).eng.session 2).state = .free ∧ (after (.close 4 [2]) playing).eng.mgc.flags = 0 ∧
    ((after (.close 4 [2]) (ended false)).eng.session 2).state = .free ∧ after (.lossTimerExpiry 2) (ended false) = ended false ∧ calmB (ended false) = true := by
  decide +kernel

/-- A part whose notices are on. -/
def noticed (s : State) : State :=
  s.onEng (fun e => { e with tab := { e.tab with settings := { e.tab.settings with noticesOn := true } } })

theorem witness_notes : (noticed playing).eng.notesEnd ∧ playing.eng.mutesEnd := ⟨⟨rfl, by decide, by decide, rfl⟩, Or.inl rfl⟩

/-- PlayingsEndStoppedOrLost and OpenPlayAndItsOrdersMoveThePlaying: a playing that releases on report, its notice placed and not, by each command, and
one closed; a body that its last reader leaves, and one that another reader holds. -/
theorem witness_reports :
    let rel (s : State) := withSession 2 { playSession with releaseOnReport := true } s
    let on := rel (noticed playing)
    let z (o : Cause) (buf : Buffer) : Session := { playSession with state := .ended, outcome := some o, outSlot := none, releaseOnReport := true, buf0 := buf }
    let placed (o : Cause) (t : State) := decide (noticePacket .sessionEnd ((z o (on.eng.bufferLeft 2 0)).endBytes 2) ∈ t.eng.mgc.outbox)
    let state (t : State) := (t.eng.session 2).state
    let loose (n : Nat) := playing.onEng (fun e => { e with
      tab := { e.tab with records := [], bodies := [(3, { sealedBody 10 1000 with share := 0 })] }, holds := [(3, { begun := 0, pins := 0, readers := n })] })
    let gone := after (.stop 4 [2]) (loose 1)
    let kept_ := after (.stop 4 [2]) (loose 2)
    acceptB on = true ∧ calmB on = true ∧ state (after (.stop 4 [2]) on) = .free ∧ placed .stopped (after (.stop 4 [2]) on) = true ∧
    state (after (.cancel 4 [2]) on) = .free ∧ state (after (.lossTimerExpiry 2) on) = .free ∧ placed .slotLost (after (.lossTimerExpiry 2) on) = true ∧
    state (after (.seek 4 [2, 0x17, 0x70]) on) = .free ∧ lastAnswer (after (.seek 4 [2, 0x17, 0x70]) on) 4 .done [0, 3, 0xE8, 0, 1] = true ∧
    state (after (.stop 4 [2]) (noticed playing)) = .ended ∧ state (after (.stop 4 [2]) (rel playing)) = .ended ∧
    (after (.stop 4 [2]) (rel playing)).eng.mgc.flags = 0x0001 ∧ (after (.close 4 [2]) on).eng.mgc.flags = 0 ∧
    (after (.close 4 [2]) on).eng.mgc.outbox.length = 1 ∧ acceptB (loose 1) = true ∧ gone.eng.body 3 = none ∧
    gone.eng.segment 10 = { state := .dirty, body := none, next := none, eraseFailures := 0 } ∧ gone.eng.ssc.link = .erasing 10 ∧
    kept_.eng.hold 3 = { begun := 0, pins := 0, readers := 1 } ∧ (kept_.eng.segment 10).state = .data := by decide +kernel

/-- StopsEndTakes: STOP before the onset, CANCEL of a live and of a draining take, and STOP of a take that is kept, at its least length. -/
theorem witness_takes :
    let silent := taking (takeSession .waitOnset 100 1 Meter.start)
    let drain := taking (takeSession .draining 100 1 Meter.start)
    acceptB silent = true ∧ ((after (.stop 4 [2]) silent).eng.session 2).outcome = some .noSpeech ∧ (after (.stop 4 [2]) silent).eng.record 7 = none ∧
    ((after (.cancel 4 [2]) silent).eng.session 2).outcome = some .cancelled ∧ ((after (.cancel 4 [2]) drain).eng.session 2).outcome = some .cancelled ∧
    acceptB take1 = true ∧ ((after (.stop 4 [2]) take1).eng.session 2).state = .draining ∧
    ((after (.stop 4 [2]) take1).eng.session 2).trim =
      some { startSample := 192, endSample := 1216, first := 0, last := 0, offset := 192, count := 1024 } := by decide +kernel

/-- A take over 3 buffers, segments 30 and 31 programmed, its onset in window 50, a window past which it keeps. -/
def longTake (last windows : Nat) : State :=
  (taking { takeSession .taking (64 * windows) windows { Meter.start with voice := .speech, onset := some 50, lastSpeech := some last } with
    snap := some shortSnap, programmed := 2, buf0 := { role := .filling, holds := 2, samples := [] } }).onEng (fun e => { e with
      tab := { e.tab with
        bodies := [(3, { Body.fresh with first := some 30, last := some 31, count := 2 })],
        segments := [(30, { state := .data, body := some 3, next := some 31, eraseFailures := 0 }), (31, { state := .data, body := some 3, next := none, eraseFailures := 0 })] },
      holds := [(3, { begun := 3, pins := 0, readers := 0 })], counters := [(5, { Counters.zero with recording := 1, total := 1, charged := 3 })] })

/-- StopsEndTakes: TOO_SHORT, a loss with an onset and without, and CLOSE of each and of a take that drains, reported and not. -/
theorem witness_take_ends :
    let silent := taking (takeSession .waitOnset 100 1 Meter.start)
    let short_ := withSession 2 { takeSession .taking 1216 19 heardMeter with snap := some { snap0 with minSamples := 1025 } } take1
    let drain (c : Bool) := taking { takeSession .draining 100 1 Meter.start with closing := c }
    let rel := noticed (withSession 2 { takeSession .waitOnset 100 1 Meter.start with releaseOnReport := true } silent)
    let x (c : Instr) (s : State) := (after c s).eng.session 2
    acceptB short_ = true ∧ (x (.stop 4 [2]) short_).outcome = some .tooShort ∧ (x (.stop 4 [2]) short_).trim = some (trimOf 192 1216) ∧
    (after (.stop 4 [2]) short_).eng.record 7 = none ∧ (x (.stop 4 [2]) short_).discarded = true ∧
    calmB silent = true ∧ (x (.lossTimerExpiry 2) silent).outcome = some .slotLost ∧ calmB take1 = true ∧ (x (.lossTimerExpiry 2) take1).state = .draining ∧
    (x (.lossTimerExpiry 2) take1).endCause = some .slotLost ∧ (x (.close 4 [2]) take1).state = .draining ∧ (x (.close 4 [2]) take1).closing = true ∧
    (x (.close 4 [2]) silent).state = .free ∧ (after (.close 4 [2]) silent).eng.mgc.flags = 0 ∧ acceptB (drain false) = true ∧
    x (.close 4 [2]) (drain false) = { (drain false).eng.session 2 with closing := true } ∧ (x (.cancel 4 [2]) (drain true)).state = .free ∧
    (after (.cancel 4 [2]) (drain true)).eng.mgc.flags = 0 ∧ acceptB rel = true ∧ (x (.stop 4 [2]) rel).state = .free ∧
    (after (.stop 4 [2]) rel).eng.mgc.flags = 0x0001 ∧ (after (.stop 4 [2]) rel).eng.mgc.outbox.length = 2 := by decide +kernel

/-- StopsEndTakes: a trim that takes the first segment out of the chain and hands the filling buffer, and one that keeps segment 1 alone and seals at once,
of a message and of a greeting. -/
theorem witness_trims :
    let t := (after (.stop 4 [2]) (longTake 70 66)).eng
    let u := (after (.stop 4 [2]) (longTake 51 66)).eng
    let out := noticed ((longTake 51 66).onEng (fun e => e.modSession 2 (fun x => { x with snap := some { shortSnap with hangover := 4 } })))
    let v := (after (.stop 4 [2]) out).eng
    let greet := out.onEng (fun e => { e.modSession 2 (fun x => { x with target := .slot .busy, kind := some .recordGreeting, releaseOnReport := true }) with
      tab := { e.tab with slots := [(slotKey 5 .busy, { held := none, staged := some 3 })] } })
    let w := (after (.stop 4 [2]) greet).eng
    acceptB (longTake 70 66) = true ∧ ((longTake 70 66).eng.session 2).bufWith .filling = some 0 ∧ (longTake 70 66).eng.chain 3 = [30, 31] ∧
    (t.session 2).trim = some (trimOf 2432 4224) ∧ (trimOf 2432 4224).first = 1 ∧ (trimOf 2432 4224).last = 2 ∧ (t.session 2).state = .draining ∧
    (t.body 3).map (fun b => (b.first, b.last, b.count)) = some (some 31, some 31, 1) ∧ t.catQueue.map (·.after) = [.cut [30], .allocated] ∧
    (t.segment 30).state = .data ∧ (t.hold 3).begun = 2 ∧ (t.counter 5).charged = 2 ∧
    t.ssc.link = .allocating { session := 2, buf := 0, body := 3, takeSegment := 2 } 20 true ∧ (t.session 2).buf0.role = .queued ∧ (u.session 2).state = .draining ∧
    acceptB out = true ∧ (v.session 2).trim.map (fun r => (r.first, r.last)) = some (1, 1) ∧ (v.session 2).state = .ended ∧ (v.session 2).outcome = some .stopped ∧
    (v.session 2).buf0.role = .idle ∧ (v.body 3).map (fun b => (b.sealed, b.first, b.count, b.share)) = some (true, some 31, 1, 1) ∧
    (v.record 7).map (·.state) = some .new ∧ (v.hold 3).begun = 0 ∧ v.counter 5 = { Counters.zero with new := 1, total := 1, charged := 1 } ∧
    v.mgc.flags = 0x0001 ∧ acceptB greet = true ∧ w.slot 5 .busy = { held := some 3, staged := none } ∧ (w.session 2).state = .free := by decide +kernel

/-- OpenPlayAndItsOrdersMoveThePlaying: a PAUSE and a RESUME each way, a SEEK inside the body, before it, to its end and past it. -/
theorem witness_moves :
    let held := withSession 2 { playSession with state := .paused, pausedFrom := some .playing } playing
    let empty := withSession 2 { playSession with state := .paused, pausedFrom := some .fetching, buf0 := Buffer.empty } playing
    let starved := withSession 2 { playSession with state := .paused, pausedFrom := some .stalled, buf0 := Buffer.empty } playing
    acceptB held = true ∧ ((after (.pause 4 [2]) playing).eng.session 2).pausedFrom = some .playing ∧ after (.pause 4 [2]) held = held.withAnswer 4 .done [] ∧
    after (.resume 4 [2]) playing = playing.withAnswer 4 .done [] ∧ ((after (.resume 4 [2]) held).eng.session 2).state = .playing ∧
    ((after (.resume 4 [2]) empty).eng.session 2).state = .fetching ∧ ((after (.resume 4 [2]) starved).eng.session 2).state = .stalled ∧
    ((after (.seek 4 [2, 0, 1]) playing).eng.session 2).cursor = 802 ∧ lastAnswer (after (.seek 4 [2, 0, 1]) playing) 4 .done [0, 3, 0x22, 0, 0] = true ∧
    ((after (.seek 4 [2, 0, 0]) held).eng.session 2).state = .paused ∧ lastAnswer (after (.seek 4 [2, 0x80, 0]) playing) 4 .done [0, 0, 0, 1, 1] = true ∧
    ((after (.seek 4 [2, 0x17, 0x70]) playing).eng.session 2).outcome = some .finished ∧
    lastAnswer (after (.seek 4 [2, 0x17, 0x71]) playing) 4 .done [0, 3, 0xE8, 1, 1] = true := by decide +kernel


/-- WindowEndsMoveTheTake: a window not complete, no take, and each row at its boundary. -/
theorem witness_windows :
    let s (st : SessState) (c w : Nat) (m : Meter) (f : Snapshot → Snapshot) := taking { takeSession st c w m with snap := some (f snap0) }
    let x (t : State) := (after (.windowEnd 2) t).eng.session 2
    let loud : Meter := { Meter.start with sum := 64 * 3952, level := 63232 }
    let bare : Snapshot → Snapshot := fun n => { n with mask := 0, minSamples := 1088 }
    calmB (s .taking 1023 15 Meter.start id) = true ∧ after (.windowEnd 2) (s .taking 1023 15 Meter.start id) = s .taking 1023 15 Meter.start id ∧
    after (.windowEnd 2) playing = playing ∧ (x (s .cue 1600 24 Meter.start id)).state = .waitOnset ∧ (x (s .cue 1600 24 loud bare)).state = .taking ∧
    (x (s .cue 1536 23 Meter.start id)).state = .cue ∧ (x (s .waitOnset 1600 24 loud bare)).state = .taking ∧
    (x (s .waitOnset 39936 623 Meter.start id)).state = .waitOnset ∧ (x (s .waitOnset 40000 624 Meter.start id)).outcome = some .noSpeech ∧
    (x (s .taking 1280 19 heardMeter id)).state = .taking ∧ (x (s .taking 1280 19 heardMeter id)).windows = 20 ∧
    (x (s .taking 1280 19 heardMeter (fun n => { bare n with endSilenceWindows := 1 }))).endCause = some .silence ∧
    (x (s .taking 1280 19 heardMeter (fun n => { bare n with maxSamples := 1088 }))).endCause = some .maxLength ∧
    (x (s .taking 1280 19 heardMeter (fun n => { bare n with maxSamples := 1088 }))).trim =
      some { startSample := 192, endSample := 1280, first := 0, last := 0, offset := 192, count := 1088 } ∧
    (x (s .taking 1280 19 heardMeter (fun n => { bare n with maxSamples := 1089 }))).state = .taking := by decide +kernel

/-- WindowEndsMoveTheTake: a take that ends too short, and a silent one that ends under release-on-report. -/
theorem witness_window_drops :
    let bare : Snapshot → Snapshot := fun n => { n with mask := 0, minSamples := 1089 }
    let s (f : Snapshot → Snapshot) := taking { takeSession .taking 1280 19 heardMeter with snap := some (f (bare snap0)) }
    let quiet := noticed (taking { takeSession .waitOnset 40000 624 Meter.start with releaseOnReport := true })
    let x (t : State) := (after (.windowEnd 2) t).eng.session 2
    (x (s (fun n => { n with endSilenceWindows := 1 }))).outcome = some .tooShort ∧ (x (s (fun n => { n with maxSamples := 1088 }))).outcome = some .tooShort ∧
    (after (.windowEnd 2) (s (fun n => { n with endSilenceWindows := 1 }))).eng.record 7 = none ∧ calmB quiet = true ∧ (x quiet).state = .free ∧
    (after (.windowEnd 2) quiet).eng.mgc.outbox.length = 1 := by decide +kernel

/-- WindowEndsMoveTheTake at a full buffer: handed and begun again with the link free and taken, STORE_BUSY before the onset and after it, QUOTA. -/
theorem witness_full_buffer :
    let at_ (m : Meter) (f : Session → Session) := taking (f { takeSession .taking 2048 31 m with snap := some shortSnap, buf0 := { role := .filling, holds := 0, samples := [] } })
    let busy (s : State) := s.onEng (fun e => e.modSsc (fun c => { c with link := .reading { session := 1, buf := 0, segment := 9 } 1 }))
    let poor := (at_ heardMeter id).onEng (fun e => { e with counters := [(5, { Counters.zero with recording := 1, total := 1, charged := 2400 })] })
    let end_ (s : State) := after (.windowEnd 2) s
    let x (s : State) := (end_ s).eng.session 2
    let none_ (y : Session) : Session := { y with buf1 := { role := .queued, holds := 9, samples := [] } }
    calmB (at_ heardMeter id) = true ∧ (at_ heardMeter id).eng.linkFree = true ∧ calmB (busy (at_ heardMeter id)) = true ∧
    (x (at_ heardMeter id)).buf0.role = .queued ∧ (x (at_ heardMeter id)).buf1.role = .filling ∧ (x (at_ heardMeter id)).buf1.holds = 1 ∧
    (end_ (at_ heardMeter id)).eng.ssc.link = .allocating { session := 2, buf := 0, body := 3, takeSegment := 0 } 20 true ∧
    (end_ (at_ heardMeter id)).eng.counter 5 = { Counters.zero with recording := 1, total := 1, charged := 2 } ∧
    ((end_ (at_ heardMeter id)).eng.hold 3).begun = 2 ∧
    (end_ (busy (at_ heardMeter id))).eng.ssc.progQueue = [{ session := 2, buf := 0, body := 3, takeSegment := 0 }] ∧
    calmB (at_ Meter.start none_) = true ∧ (x (at_ Meter.start none_)).outcome = some .storeBusy ∧ (x (at_ heardMeter none_)).state = .draining ∧
    (x (at_ heardMeter none_)).endCause = some .storeBusy ∧ calmB poor = true ∧ (poor.eng.boxClass 5).quota = 2400 ∧ (x poor).endCause = some .quota := by
  decide +kernel

/-! ## The store and the service states -/

def progReq : ProgReq := { session := 2, buf := 0, body := 3, takeSegment := 0 }
def readReq : ReadReq := { session := 2, buf := 0, segment := 10 }

/-- Requests waiting at an idle link. -/
def queued (programs reads : Nat) (free : List Nat) (erase : List Run) (s : State) : State :=
  s.onEng (fun e => e.modSsc (fun c => { c with
    progQueue := List.replicate programs progReq, readQueue := List.replicate reads readReq, freeList := free, eraseQueue := erase }))

/-- ArbiterTakesTheFirstRow: each row, 31 and 32 programs against a read, nothing waiting, and FROZEN. -/
theorem witness_arbiter :
    let link (p r : Nat) (f : List Nat) (q : List Run) := (queued p r f q ready).eng.settle.ssc.link
    let frozen := inState .frozen (queued 1 1 [6] [] ready)
    ready.eng.asked = [] ∧ ready.eng.dle.due = none ∧ ready.eng.mgc.restart ≠ .due ∧ ready.eng.ssc.link = .idle ∧
    link 1 1 [] [{ start := 5, count := 2 }] = .erasing 5 ∧ link 32 1 [6] [] = .allocating progReq 6 true ∧ link 31 1 [6] [] = .reading readReq 1 ∧
    link 1 0 [6] [{ start := 5, count := 2 }] = .allocating progReq 6 true ∧ link 0 1 [] [{ start := 5, count := 2 }] = .reading readReq 1 ∧
    link 0 0 [6] [{ start := 5, count := 2 }] = .erasing 5 ∧ link 0 0 [6] [] = .idle ∧ frozen.eng.settle = frozen.eng := by decide +kernel

/-- ArbiterTakesTheFirstRow: a program that fails STORE_FULL: before the onset, long enough, and too short, of a live take and of a draining one. -/
theorem witness_store_full :
    let s (y : Session) := ((queued 1 0 [] [] (taking y)).onEng (fun e => { e with
      tab := { e.tab with bodies := [(3, { Body.fresh with first := some 19, last := some 19, count := 1 })],
                          segments := [(19, { state := .data, body := some 3, next := none, eraseFailures := 0 })] } })).eng
    let y (m : Meter) := { takeSession .taking 4100 64 m with programmed := 1, snap := some shortSnap, buf0 := { role := .queued, holds := 1, samples := [] } }
    let drain (n : Nat) := { y heardMeter with state := .draining, trim := some (trimOf 192 n), endCause := some .stopped }
    let g (y : Session) := (s y).settle
    let out (y : Session) := ((g y).session 2).outcome
    let late := { heardMeter with onset := some 40, lastSpeech := some 50 }
    let filling (f : Session → Session) := f { y heardMeter with buf1 := { role := .filling, holds := 2, samples := [] } }
    let shut := g (filling (fun x => { x with closing := true }))
    let told := ({ s (filling (fun x => { x with releaseOnReport := true })) with
      tab := { (s (y heardMeter)).tab with settings := { Settings.default with noticesOn := true } } } : Engine).settle
    (filling id).bufWith .filling = some 1 ∧ (filling id).programmed ≤ ((filling id).buf 1).holds ∧ out (filling id) = some .storeFull ∧
    ((g (filling id)).record 7).map (·.state) = some .new ∧ (g (filling id)).ssc.progQueue = [] ∧ (shut.session 2).state = .free ∧ shut.mgc.flags = 0 ∧
    (told.session 2).state = .free ∧ told.mgc.flags = 0x0001 ∧ told.mgc.outbox.length = 1 ∧
    (s (y Meter.start)).asked = [] ∧ (s (y Meter.start)).dle.due = none ∧ (s (y Meter.start)).ssc.service = .service ∧ (s (y Meter.start)).ssc.link = .idle ∧
    out (y Meter.start) = some .storeFull ∧ (g (y Meter.start)).record 7 = none ∧ (g (y Meter.start)).ssc.progQueue = [] ∧
    out (y heardMeter) = some .storeFull ∧ ((g (y heardMeter)).session 2).trim = some (trimOf 192 2048) ∧
    ((g (y heardMeter)).record 7).map (·.state) = some .new ∧ ((g (y heardMeter)).body 3).map (·.samples) = some (some 1856) ∧
    out (y late) = some .storeFull ∧ (g (y late)).record 7 = none ∧ ((g (drain 3000)).body 3).map (·.samples) = some (some 1856) ∧
    ((g (drain 3000)).record 7).map (·.cut) = some false ∧ ((g (drain 3000)).session 2).target = .record 7 := by decide +kernel

/-- A part with an operation on its link. -/
def linked (l : Link) (s : State) : State := s.onEng (fun e => e.modSsc (fun c => { c with link := l }))

/-- ReadsAndProgramsComplete: a read of the current segment and of the next one, good, failed once and failed twice. -/
theorem witness_reads :
    let wait := { playSession with state := .fetching, buf0 := { role := .reading, holds := 0, samples := [(0, 5)] } }
    let s (n : Nat) := linked (.reading readReq n) (withSession 2 wait playing)
    let next := linked (.reading readReq 1) (withSession 2 { wait with state := .paused, buf0 := { wait.buf0 with holds := 1 } } playing)
    let x (g : Bool) (t : State) := (after (.readComplete g) t).eng.session 2
    calmB ready = true ∧ after (.readComplete true) ready = ready ∧ (s 1).eng.mgc.inbox = [] ∧ (s 1).eng.asked = [] ∧ (s 1).eng.dle.due = none ∧
    (s 1).eng.ssc.progQueue = [] ∧ (x true (s 1)).state = .playing ∧ (x true (s 1)).buf0.samples = [(0, 100), (2, -7)] ∧ (x true (s 1)).buf0.role = .playing ∧
    after .storeOpTimeout (s 1) = after (.readComplete false) (s 1) ∧ after .storeOpTimeout (s 2) = after (.readComplete false) (s 2) ∧
    (x true next).state = .paused ∧ (x true next).buf0.role = .prefetched ∧ (after (.readComplete false) (s 1)).eng.ssc.link = .reading readReq 2 ∧
    (x false (s 2)).readFaults = 1 ∧ (x false (s 2)).buf0.samples = [] ∧ (after (.readComplete false) (s 2)).eng.mgc.flags = 0x0020 := by decide +kernel

/-- A take of one segment, its program in flight on segment 20. -/
def programming (b : Body) : State :=
  linked (.programming progReq 20 true) ((taking { takeSession .taking 2050 32 Meter.start with
    buf0 := { role := .queued, holds := 0, samples := [(3, 9)] }, buf1 := { role := .filling, holds := 1, samples := [] } }).onEng
    (fun e => { e with tab := { e.tab with bodies := [(3, b)] } }))

/-- ReadsAndProgramsComplete: the first segment of a body and a later one, and a failure. -/
theorem witness_programs :
    let s := programming Body.fresh
    let more := programming { Body.fresh with first := some 19, last := some 19, count := 1 }
    let t := after (.programComplete true) s
    after (.programComplete true) ready = ready ∧ s.eng.mgc.inbox = [] ∧ s.eng.asked = [] ∧ (s.eng.session 2).trim = none ∧ (s.eng.body 3).isSome = true ∧
    Tab.get [] t.eng.ssc.flash 20 = [(3, 9)] ∧ (t.eng.body 3).map (·.first) = some (some 20) ∧ (t.eng.segment 20).state = .data ∧
    (t.eng.session 2).programmed = 1 ∧ t.eng.ssc.link = .recording ∧ ((after (.programComplete true) more).eng.segment 19).next = some 20 ∧
    after .storeOpTimeout s = after (.programComplete false) s ∧ (after (.programComplete false) s).eng.mgc.flags = 0x0020 ∧
    (after (.programComplete false) s).eng.ssc.progQueue = [progReq] ∧ ((after (.programComplete false) s).eng.segment 20).state = .retired := by decide +kernel

/-- EveryStepKeepsTheTakesInOrder: its premises hold in a state with a take and a program in flight, and a step is taken. -/
theorem witness_in_order :
    (programming Body.fresh).eng.inTakeOrder ∧ (programming Body.fresh).eng.namesBuffers ∧
      (match step (programming Body.fresh) with | .next _ => true | _ => false) = true := by
  have session (k : Nat) (h : k ≠ 2) : (programming Body.fresh).eng.session k = Session.reset := by
    show Tab.get Session.reset [(2, _)] k = _
    simp [Tab.get, Tab.find?, h]
  refine ⟨fun _ => ⟨rfl, rfl, rfl, ?_, ?_, fun k => ?_⟩, fun _ => ⟨by decide, by decide, fun r h => absurd h List.not_mem_nil⟩, by decide +kernel⟩
  · intro n k h
    change Tab.find? [(4, 2)] n = some k at h
    by_cases h4 : n = 4
    · subst h4; cases h; rfl
    · simp [Tab.find?, h4] at h
  · intro n k h
    change (none : Option Nat) = some k at h
    cases h
  · by_cases h : k = 2
    · subst h
      refine ⟨by decide, by decide, fun h => absurd h (by decide), fun _ => ⟨by decide, by decide, by decide, by decide, by decide, by decide, by decide, ?_⟩,
        fun h => absurd h (by decide), fun h => absurd h (by decide), fun h => absurd h (by decide)⟩
      intro b hb
      have hb1 : b = 1 := (Option.some.inj hb).symm
      subst hb1
      decide
    · have hw : (programming Body.fresh).eng.wanted k = [] := by
        show List.map _ (List.filter _ [progReq]) = []
        have : ¬ progReq.session = k := fun e => h e.symm
        simp [this]
      rw [session k h, hw]
      exact ⟨by decide, by decide, by decide, fun h => absurd h (by decide), by decide, by decide, fun h => absurd h (by decide)⟩

/-- ReadsAndProgramsComplete: a stale read, the last kept segment of a draining take, reported, freed and closed,
and a program no longer wanted, good, failed and out of time, and one that counts for the cap. -/
theorem witness_leavings :
    let stale := linked (.reading { readReq with buf := 1 } 1) (longPlay { playSession with buf1 := { role := .stale, holds := 1, samples := [(5, 5)] } })
    let draining (x : Session → Session) := (linked (.programming progReq 20 true) (taking (x { takeSession .draining 2000 31 heardMeter with
      buf0 := { role := .queued, holds := 0, samples := [(3, 9)] }, trim := some (trimOf 192 1800), endCause := some .silence })))
    let staged := (draining (fun x => { x with target := .slot .busy })).onEng (fun e => { e with tab := { e.tab with
      records := [], slots := [(slotKey 5 .busy, { held := none, staged := some 3 })] } })
    let unwanted := linked (.programming { progReq with buf := 1 } 20 false) (playing.onEng (fun e =>
      { e.modSession 2 (fun x => { x with buf1 := { role := .queued, holds := 4, samples := [] } }) with
        tab := { e.tab with segments := e.tab.segments ++ [(20, { state := .allocated, body := none, next := none, eraseFailures := 0 })] } }))
    let counted := linked (.programming progReq 20 false) ((taking { takeSession .draining 6000 93 heardMeter with
      buf0 := { role := .queued, holds := 0, samples := [] }, trim := some (trimOf 2432 6000), endCause := some .stopped }).onEng (fun e =>
        { e with tab := { e.tab with segments := [(20, { state := .allocated, body := none, next := none, eraseFailures := 0 })] } }))
    let go (g : Bool) (s : State) := after (.programComplete g) s
    let id_ := draining id
    let shut := draining (fun x => { x with closing := true })
    let told := noticed (draining (fun x => { x with releaseOnReport := true }))
    (trimOf 2432 6000).first = 1 ∧ ((go true counted).eng.session 2).programmed = 1 ∧ ((go true counted).eng.session 2).buf0.role = .idle ∧
    ((go true counted).eng.segment 20).state = .dirty ∧ ((go false counted).eng.session 2).programmed = 0 ∧
    after .storeOpTimeout counted = after (.programComplete false) counted ∧ after .storeOpTimeout unwanted = after (.programComplete false) unwanted ∧
    ((go true shut).eng.session 2).state = .free ∧ (go true shut).eng.mgc.flags = 0 ∧ ((go true told).eng.session 2).state = .free ∧
    (go true told).eng.mgc.outbox.length = 1 ∧
    ((stale.eng.session 2).buf 1).role = .stale ∧ stale.eng.asked = [] ∧ stale.eng.ssc.progQueue = [] ∧
    (after (.readComplete true) stale).eng.ssc.link = .reading { session := 2, buf := 1, segment := 11 } 1 ∧
    ((after (.readComplete true) stale).eng.session 2).buf1 = { role := .reading, holds := 1, samples := ((stale.eng.session 2).buf 1).idled.samples } ∧
    after .storeOpTimeout stale = after (.readComplete false) stale ∧ (go true id_).eng.body 3 = some
      { sealed := true, first := some 20, last := some 20, count := 1, offset := some 192, samples := some 1608, share := 1 } ∧
    ((go true id_).eng.record 7).map (·.state) = some .new ∧ ((go true id_).eng.session 2).outcome = some .silence ∧
    (go true id_).eng.counter 5 = { Counters.zero with new := 1, total := 1, charged := 1 } ∧ (go true id_).eng.mgc.flags = 0x0001 ∧
    ((go true staged).eng.slot 5 .busy) = { held := some 3, staged := none } ∧ unwanted.eng.mgc.inbox = [] ∧ unwanted.eng.asked = [] ∧ counted.eng.asked = [] ∧ 20 ∉ counted.eng.chain 3 ∧ 20 ∉ unwanted.eng.chain 3 ∧
    ((go true unwanted).eng.segment 20).state = .dirty ∧ (go true unwanted).eng.ssc.eraseQueue = [{ start := 20, count := 1 }] ∧
    ((go true unwanted).eng.session 2).buf1.role = .idle ∧ ((go false unwanted).eng.segment 20).state = .retired ∧
    (go false unwanted).eng.mgc.flags = 0x0020 := by decide +kernel

/-- A part that erases segment 5, which has failed before so many times. -/
def erasing (failures : Nat) : State :=
  linked (.erasing 5) ((queued 0 0 [6] [{ start := 5, count := 2 }] ready).onEng (fun e => { e with tab := { e.tab with
    segments := if failures = 0 then [] else [(5, { SegEntry.blank with eraseFailures := failures })] } }))

/-- ErasesFollowTheirTable: a success, a first and a second failure, by device and by time, and none in flight. -/
theorem witness_erases :
    let t := after (.eraseComplete true) (erasing 1)
    let u := after (.eraseComplete false) (erasing 0)
    let v := after .storeOpTimeout (erasing 1)
    after (.eraseComplete true) ready = ready ∧ after .storeOpTimeout ready = ready ∧ calmB (linked .recording ready) = true ∧
    Run.head? (erasing 0).eng.ssc.eraseQueue = some 5 ∧ (erasing 0).eng.mgc.inbox = [] ∧ (erasing 0).eng.asked = [] ∧
    t.eng.segment 5 = { state := .erased, body := none, next := none, eraseFailures := 0 } ∧ t.eng.ssc.freeList = [6, 5] ∧
    t.eng.ssc.eraseQueue = [{ start := 6, count := 1 }] ∧ (u.eng.segment 5).eraseFailures = 1 ∧
    u.eng.ssc.eraseQueue = [{ start := 6, count := 1 }, { start := 5, count := 1 }] ∧ (v.eng.segment 5).state = .retired ∧ v.eng.mgc.flags = 0x0060 := by
  decide +kernel

/-- A part with sequences of catalogue writes. -/
def writing (q : List CatSeq) (s : State) : State := s.onEng (fun e => { e with catQueue := q })

/-- CatalogueWritesCompleteInOrder: a sequence in its middle, and each end of one. -/
theorem witness_writes :
    let w : CatWrite := .settings { Settings.default with sweepHour := 9 }
    let v : CatWrite := .signature (some 2)
    let done (a : Then) (s : State) := (after .catalogueWriteComplete (writing [{ writes := [w], after := a }] s)).eng
    let long := after .catalogueWriteComplete (writing [{ writes := [w, v], after := .nothing }] ready)
    let running := withJobs [{ job (.mailbox 6) 2 with nextPos := 1, current := some 6 }] mailed
    calmB (writing [{ writes := [w], after := .nothing }] ready) = true ∧ after .catalogueWriteComplete ready = ready ∧ long.eng.cat.settings.sweepHour = 9 ∧
    long.eng.catQueue = [{ writes := [v], after := .nothing }] ∧ (done .nothing ready).catQueue = [] ∧ (done (.answer [1, 2]) ready).mgc.outbox = [[1, 2]] ∧
    (done .allocated (linked (.allocating progReq 20 true) ready)).ssc.link = .programming progReq 20 true ∧
    (done .recorded (linked .recording ready)).ssc.link = .idle ∧ calmB running = true ∧ (done .copied running).dle.queue.map (·.current) = [none] := by
  decide +kernel

/-- CatalogueWritesCompleteInOrder: the segments a cut took out of a chain, one of them let go already. -/
theorem witness_cut_writes :
    let s := writing [{ writes := [.signature (some 2)], after := .cut [11, 12, 99] }] long
    let t := after .catalogueWriteComplete s
    calmB s = true ∧ [11, 12, 99].Nodup ∧ t.eng.cat.signature = some 2 ∧ (t.eng.segment 11).state = .dirty ∧ (t.eng.segment 12).body = none ∧
    (t.eng.segment 10).state = .data ∧ t.eng.ssc.eraseQueue = [{ start := 11, count := 2 }] ∧ t.eng.ssc.freeList = [] := by decide +kernel

/-- A check whose writes are complete. -/
def checked_ (c : StartCause) : State :=
  inState .starting (ready.onEng (fun e => e.modSsc (fun x => { x with
    start := some { cause := c, cleared := true, keptCut := 0, recordsReleased := 0, bodiesReleased := 0 } })))

/-- ServiceStatesFollowTheirRules: POWER_ON with PFW_N low and high, ENTER_SERVICE, FORMAT, FREEZE. -/
theorem witness_service :
    let t := after (.powerOn oneDevice false) State.reset
    let f := after (.format 4 []) mailed
    let z := after .freeze playing
    (after (.powerOn oneDevice true) State.reset).eng.ssc.service = .frozen ∧ t.eng.ssc.service = .starting ∧ t.eng.ssc.devices = 1 ∧
    t.eng.ssc.start.map (·.cleared) = some true ∧ t.eng.ssc.eraseQueue = [{ start := 0, count := 262144 }] ∧ after .enterService t = t ∧ calmB t = true ∧
    calmB (checked_ .powerOn) = true ∧ (after .enterService (checked_ .powerOn)).eng.ssc.service = .service ∧
    (after .enterService (checked_ .powerOn)).eng.ssc.poolLow = true ∧ (after .enterService (checked_ .format)).eng.lmp = ready.eng.lmp ∧
    f.eng.ssc.service = .starting ∧ f.eng.record 7 = none ∧ f.eng.body 3 = none ∧ lastAnswer f 4 .done [] = true ∧
    after (.format 4 []) playing = playing.withAnswer 4 .busy [] ∧ z.eng.ssc.service = .frozen ∧ (z.eng.session 2).outcome = some .frozen ∧
    (z.eng.session 2).target = .record 7 ∧ z.eng.slotsOut = [] ∧ z.eng.mgc.flags = 0x0001 ∧ after .freeze z = z := by decide +kernel

/-- A catalogue memory of two devices. -/
def stored (f : Catalogue → Catalogue) : State := State.reset.onEng (fun e => { e with cat := f { long.eng.tab with signature := some 2 } })

/-- ServiceStatesFollowTheirRules: no device, a cut map, the lamp inputs at the entry to SERVICE, and FREEZE of three sessions. -/
theorem witness_service_lists :
    let t (sel : Selects) := after (.powerOn sel false) (stored id)
    let entered := after .enterService ({ checked_ .powerOn with eng := { (checked_ .powerOn).eng with tab := mailed.eng.tab, counters := mailed.eng.counters } })
    let three := (withSession 5 (takeSession .taking 1023 15 heardMeter) (withSession 4 { Session.reset with state := .ended } playing))
    let z := after .freeze three
    countSelects { oneDevice with scs0 := false } = 0 ∧ (t { oneDevice with scs0 := false }).eng.ssc.start = none ∧
    (t { oneDevice with scs0 := false }).eng.catQueue = [] ∧ (t oneDevice).eng.tab.signature = some 1 ∧
    (t oneDevice).eng.ssc.start.map (·.cleared) = some true ∧ (t oneDevice).eng.record 7 = none ∧ (t oneDevice).eng.ssc.eraseQueue = [{ start := 0, count := 262144 }] ∧
    (entered.eng.lamp 33).refs = 1 ∧ entered.eng.lmp.patterns = [(5, .steady)] ∧ entered.eng.lmp.changeQueue = [33] ∧
    Tab.risingFrom none three.eng.sessions = true ∧ (z.eng.session 2).outcome = some .frozen ∧ (z.eng.session 5).outcome = some .frozen ∧
    (z.eng.session 5).meter = some heardMeter ∧ (z.eng.session 5).inSlot = none ∧ z.eng.session 4 = three.eng.session 4 := by decide +kernel

/-- Two recordings cut short and a message, list and member tables that do not agree, an ALLOCATED segment and one no chain reaches. -/
def broken : Catalogue :=
  { mailed.eng.tab with
    classes := [(0, { MailClass.default with minMessage := 5 })],
    mailboxes := [(5, { fields := fields, head := some 9, tail := none })],
    records := [(7, message), (8, { message with state := .recording, body := 4 }), (9, { message with state := .recording, body := 5, next := some 8 })],
    bodies := [(3, sealedBody 10 1000), (4, { Body.fresh with first := some 20, last := some 20, count := 1 }), (5, { Body.fresh with first := some 30 })],
    segments := [(10, { state := .data, body := some 3, next := some 11, eraseFailures := 0 }), (11, { state := .erased, body := none, next := none, eraseFailures := 0 }),
      (12, { state := .allocated, body := none, next := none, eraseFailures := 0 }), (13, { state := .data, body := some 9, next := none, eraseFailures := 0 }),
      (20, { state := .data, body := some 4, next := some 21, eraseFailures := 0 }), (21, { state := .data, body := some 4, next := none, eraseFailures := 0 })],
    slots := [(slotKey 5 .busy, { held := some 3, staged := some 6 })],
    lists := [(63, { first := some 0, last := none, count := 9 })],
    members := [(0, { mailbox := 5, next := some 1 }), (1, { mailbox := 5, next := none }), (2, { mailbox := 6, next := none })] }

/-- The engine that begins a check of `broken`. -/
def checking : Engine :=
  let e := Engine.reset broken []
  { e with tab := broken, ssc := { e.ssc with devices := 1, start := some { cause := .powerOn, cleared := false, keptCut := 0, recordsReleased := 0, bodiesReleased := 0 } } }

/-- StoreCheckStepsRepairTheTables: the map as it is, extended, cut and formatted. -/
theorem witness_fit :
    let e (n : Option Nat) : Engine := { checking with tab := { broken with signature := n } }
    (e (some 1)).fitMap 1 = e (some 1) ∧ ((e (some 1)).fitMap 4).tab = { broken with signature := some 4 } ∧
    ((e none).fitMap 2).tab = { Catalogue.blank with signature := some 2 } ∧ ((e (some 2)).fitMap 1).tab.records = [] ∧
    (((e (some 2)).fitMap 1).segment 10).state = .dirty ∧ (((e (some 2)).fitMap 1).segment 13).state = .data ∧
    (((e (some 2)).fitMap 1).mailbox 5).map (·.head) = some none ∧ ((e (some 2)).fitMap 1).tab.lists = broken.lists := by decide +kernel

/-- StoreCheckStepsRepairTheTables: the walk, the lists, a mailbox's list and the counts. -/
theorem witness_check_steps :
    let w := checking.walk
    let l := w.repairLists
    let m := l.repairBox 5
    let c := m.openExtents.recount
    checking.ssc.service = .starting ∧ Tab.risingFrom none broken.segments = true ∧ Tab.risingFrom none broken.records = true ∧
    Tab.risingFrom none broken.bodies = true ∧ Tab.risingFrom none broken.slots = true ∧ checking.counters = [] ∧
    checking.reached 4 = [20, 21] ∧ checking.reached 3 = [10] ∧ checking.reached 5 = [] ∧ (w.segment 12).state = .dirty ∧ (w.segment 13).state = .dirty ∧
    w.ssc.freeList = [11] ∧ w.ssc.eraseQueue = [{ start := 0, count := 10 }, { start := 12, count := 1 }, { start := 14, count := 6 },
      { start := 22, count := 262122 }, { start := 13, count := 1 }] ∧ (w.body 4).map (·.count) = some 2 ∧ (w.body 5).map (·.first) = some none ∧
    l.list 63 = { first := some 0, last := some 0, count := 1 } ∧ l.tab.members = [(0, { mailbox := 5, next := some 1 })] ∧
    m.boxList 5 = [9, 8, 7] ∧ (m.mailbox 5).bind (·.tail) = some 7 ∧ (m.record 8).map (·.prev) = some (some 9) ∧ c.extent 4 = 2 ∧
    c.counter 5 = { Counters.zero with new := 1, recording := 2, total := 3, charged := 3 } := by decide +kernel

/-- What the repair of mailbox 5 asks for. -/
def repairWrites (e : Engine) : List CatWrite := ({ e with asked := [] } : Engine).repairBox 5 |>.asked

/-- A repair of mailbox 5 cut short after so many of its writes and run again comes to the end of the whole one. -/
def resumes (e : Engine) (n : Nat) : Bool :=
  let cut : Engine := { e with tab := ((repairWrites e).take n).foldl (fun c w => w.apply c) e.tab }
  decide ((cut.repairBox 5).tab = (e.repairBox 5).tab)

/-- The repair of a mailbox's list (R90, R123, R139): its writes in order, and a repair cut short anywhere, of a list that lost its tail, of one whose last
record leads back, and of one whose head names no record. -/
theorem test_repair_is_resumed :
    let lost := checking.walk.repairLists
    let ring : Engine := { lost with tab := { lost.tab with records := [(7, { message with next := some 9 }), (8, message), (9, { message with next := some 7 })] } }
    let headless : Engine := { lost with tab := { lost.tab with mailboxes := [(5, { fields := fields, head := some 30, tail := some 30 })] } }
    repairWrites lost = [.recordPrev 8 (some 9), .boxTail 5 (some 8), .record 7 (some { message with prev := some 8 }), .recordNext 8 (some 7),
      .boxTail 5 (some 7)] ∧
    repairWrites ring = [.recordPrev 7 (some 9), .recordNext 7 none, .boxTail 5 (some 7), .record 8 (some { message with prev := some 7 }),
      .recordNext 7 (some 8), .boxTail 5 (some 8)] ∧
    (repairWrites headless).take 4 = [.boxHead 5 none, .boxTail 5 none, .record 7 (some message), .boxHead 5 (some 7)] ∧
    (List.range 6).all (resumes lost) = true ∧ (List.range 7).all (resumes ring) = true ∧ (repairWrites headless).length = 11 ∧
    (List.range 12).all (resumes headless) = true := by decide +kernel

/-- StoreCheckStepsRepairTheTables: a recording kept and one freed, a sealed body's recording, stagings, shares and releases. -/
theorem witness_reconcile :
    let e := (checking.walk.repairLists.repairBox 5).openExtents.recount
    let k := e.reconcile 4
    let f := k.reconcile 5
    let sealed_ := (e.put (.body 4 (some (sealedBody 20 500)))).reconcile 4
    let s := f.clearStagings
    let g := (s.put (.body 3 (some { sealedBody 10 1000 with share := 7 }))).fitShare 3
    let r := (s.put (.body 4 (some { sealedBody 20 1000 with share := 0 }))).releaseAtStart 4
    e.reconcile 3 = e ∧ (k.record 8).map (·.cut) = some true ∧ (k.body 4).map (·.samples) = some (some 4096) ∧ k.ssc.start.map (·.keptCut) = some 1 ∧
    f.record 9 = none ∧ f.ssc.start.map (·.recordsReleased) = some 1 ∧ (f.body 5).map (·.share) = some 0 ∧
    f.counter 5 = { Counters.zero with new := 2, total := 2, charged := 3 } ∧ (sealed_.record 8).map (·.cut) = some false ∧
    (sealed_.record 8).map (·.state) = some .new ∧ s.slot 5 .busy = { held := some 3, staged := none } ∧ (g.body 3).map (·.share) = some 2 ∧
    s.releaseAtStart 4 = s ∧ r.body 4 = none ∧ (r.segment 21).state = .dirty ∧ r.ssc.start.map (·.bodiesReleased) = some 1 := by decide +kernel

/-- From reset: POWER_ON finds a blank catalogue, its two writes complete, and the part enters SERVICE. -/
theorem test_start_up :
    let t := after .enterService (after .catalogueWriteComplete (after .catalogueWriteComplete (after (.powerOn oneDevice false) State.reset)))
    t.eng.ssc.service = .service ∧ t.eng.cat = t.eng.tab ∧ t.eng.cat.signature = some 1 ∧ t.eng.mgc.flags = 0x0200 ∧ t.eng.catQueue = [] ∧
    t.eng.ssc.link = .erasing 0 := by decide +kernel

end Sys2Proof.Tests
end

namespace Sys2Proof.Machine

/-! Proofs about section 1.4, the companding law (R11 and R12). Both directions go through a code's three fields: the magnitude of a segment and a step, and
the segment and the step of a magnitude. -/

/-! ## The fields of a sample code (11.8) -/

/-- The code of a sign, a segment and a step. -/
def codeOf (sign s q : Nat) : Byte := BitVec.ofNat 8 (128 * sign + 16 * s + q)

/-- The magnitude R11 gives a segment and a step. -/
def codeMagnitude (s q : Nat) : Nat := (16 + q) * 2 ^ s - 16

/-- Every code has its three fields. -/
theorem exists_codeOf (c : Byte) : ∃ sign s q, sign < 2 ∧ s < 8 ∧ q < 16 ∧ c = codeOf sign s q := by
  refine ⟨c.toNat / 128, c.toNat / 16 % 8, c.toNat % 16, by omega, by omega, by omega, ?_⟩
  rw [codeOf, show 128 * (c.toNat / 128) + 16 * (c.toNat / 16 % 8) + c.toNat % 16 = c.toNat by omega, BitVec.ofNat_toNat, BitVec.setWidth_eq]

/-- With the bias of 16 the law is a plain product, in which segments compare by powers of 2. -/
theorem codeMagnitude_add (s q : Nat) : codeMagnitude s q + 16 = (16 + q) * 2 ^ s :=
  Nat.sub_add_cancel (Nat.le_trans (Nat.le_add_right 16 q) (Nat.le_mul_of_pos_right _ (Nat.two_pow_pos s)))

theorem codeMagnitude_cast (s q : Nat) : (codeMagnitude s q : Int) = ((16 + q : Nat) : Int) * 2 ^ s - 16 := by
  have h : (codeMagnitude s q : Int) + 16 = ((16 + q : Nat) : Int) * 2 ^ s := by exact_mod_cast codeMagnitude_add s q
  omega

theorem codeMagnitude_le_fullScale {s q : Nat} (hs : s < 8) (hq : q < 16) : codeMagnitude s q ≤ Config.fullScale := by
  have hbound : (16 + q) * 2 ^ s ≤ 31 * 2 ^ 7 := Nat.mul_le_mul (by omega) (Nat.pow_le_pow_right (by decide) (by omega))
  rw [← codeMagnitude_add] at hbound
  exact Nat.le_of_add_le_add_right hbound

/-- Only the first step of segment 0 has no magnitude. -/
theorem codeMagnitude_eq_zero {s q : Nat} (h : codeMagnitude s q = 0) : s = 0 ∧ q = 0 := by
  have hbias := codeMagnitude_add s q
  rw [h] at hbias
  cases s with
  | zero => omega
  | succ s =>
    have := Nat.two_pow_pos s
    have : (16 + q) * 2 ≤ (16 + q) * 2 ^ (s + 1) := Nat.mul_le_mul_left _ (by rw [Nat.pow_succ]; omega)
    omega

/-- R11 by the fields of the code. -/
theorem expand_codeOf {sign s q : Nat} (hsign : sign < 2) (hs : s < 8) (hq : q < 16) :
    expand (codeOf sign s q) = (if sign = 1 then -1 else 1) * (codeMagnitude s q : Int) := by
  have hcode : (codeOf sign s q).toNat = 128 * sign + 16 * s + q := by rw [codeOf, BitVec.toNat_ofNat]; omega
  have hstep : (128 * sign + 16 * s + q) % 16 = q := by omega
  have hseg : (128 * sign + 16 * s + q) / 16 % 8 = s := by omega
  have hsgn : (128 * sign + 16 * s + q) / 128 = sign := by omega
  simp only [expand, hcode, hstep, hseg, hsgn]
  split <;> simp [codeMagnitude]

theorem natAbs_expand_codeOf {sign s q : Nat} (hsign : sign < 2) (hs : s < 8) (hq : q < 16) :
    (expand (codeOf sign s q)).natAbs = codeMagnitude s q := by
  rw [expand_codeOf hsign hs hq]
  split <;> simp

/-- A code is negative when its sign is 1 and it has a magnitude. -/
theorem expand_codeOf_neg {sign s q : Nat} (hsign : sign < 2) (hs : s < 8) (hq : q < 16) :
    expand (codeOf sign s q) < 0 ↔ sign = 1 ∧ 0 < codeMagnitude s q := by
  rw [expand_codeOf hsign hs hq]
  split <;> omega

theorem natAbs_expand_le (c : Byte) : (expand c).natAbs ≤ Config.fullScale := by
  obtain ⟨sign, s, q, hsign, hs, hq, rfl⟩ := exists_codeOf c
  exact natAbs_expand_codeOf hsign hs hq ▸ codeMagnitude_le_fullScale hs hq

/-! ## The segment and the step of a magnitude (R12) -/

theorem segmentOf_le (m : Nat) : ∀ n, segmentOf m n ≤ n
  | 0 => Nat.le_refl 0
  | n + 1 => by
    have ih := segmentOf_le m n
    rw [segmentOf]
    split <;> omega

theorem segmentOf_fits (m : Nat) : ∀ n, 16 * 2 ^ segmentOf m n ≤ m + 16
  | 0 => by simp [segmentOf]
  | n + 1 => by
    rw [segmentOf]
    split
    · assumption
    · exact segmentOf_fits m n

theorem le_segmentOf {m r : Nat} (hr : 16 * 2 ^ r ≤ m + 16) : ∀ {n}, r ≤ n → r ≤ segmentOf m n
  | 0, h => h
  | n + 1, h => by
    rw [segmentOf]
    split
    case isTrue => exact h
    case isFalse hn =>
      have hne : r ≠ n + 1 := fun e => hn (e ▸ hr)
      exact le_segmentOf hr (by omega)

/-- R12's step of a magnitude. -/
def stepOf (m : Nat) : Nat := min 15 ((m + 16) / 2 ^ segmentOf m 7 - 16)

/-- A magnitude in range lies below the top of its segment: of the next segment's start, or, in segment 7, of full scale. -/
theorem add_lt_segment_top {m : Nat} (hm : m ≤ Config.fullScale) : m + 16 < 32 * 2 ^ segmentOf m 7 := by
  by_contra! hge
  have hseg := segmentOf_le m 7
  rcases Nat.lt_or_eq_of_le hseg with hlt | heq
  · have hnext : segmentOf m 7 + 1 ≤ segmentOf m 7 := le_segmentOf (by rw [Nat.pow_succ]; omega) hlt
    omega
  · rw [heq] at hge
    have : m ≤ 3952 := hm
    omega

/-- Within the range of the law the step needs no clamp: the segment holds the magnitude. -/
theorem stepOf_add {m : Nat} (hm : m ≤ Config.fullScale) : 16 + stepOf m = (m + 16) / 2 ^ segmentOf m 7 := by
  have hlow : 16 ≤ (m + 16) / 2 ^ segmentOf m 7 := (Nat.le_div_iff_mul_le (Nat.two_pow_pos _)).mpr (segmentOf_fits m 7)
  have hhigh : (m + 16) / 2 ^ segmentOf m 7 < 32 := (Nat.div_lt_iff_lt_mul (Nat.two_pow_pos _)).mpr (add_lt_segment_top hm)
  rw [stepOf]
  omega

theorem stepOf_lt (m : Nat) : stepOf m < 16 := by
  rw [stepOf]
  omega

/-- The code of a magnitude's segment and step is at or below the magnitude. -/
theorem codeMagnitude_segmentOf_le {m : Nat} (hm : m ≤ Config.fullScale) : codeMagnitude (segmentOf m 7) (stepOf m) ≤ m := by
  have hle : (m + 16) / 2 ^ segmentOf m 7 * 2 ^ segmentOf m 7 ≤ m + 16 := Nat.div_mul_le_self _ _
  rw [← stepOf_add hm, ← codeMagnitude_add] at hle
  omega

/-- The segment of a code below a magnitude starts below the magnitude. -/
theorem segment_le_segmentOf {m s q : Nat} (hs : s < 8) (h : codeMagnitude s q ≤ m) : s ≤ segmentOf m 7 := by
  have hstart : 16 * 2 ^ s ≤ (16 + q) * 2 ^ s := Nat.mul_le_mul_right _ (by omega)
  have hbias := codeMagnitude_add s q
  exact le_segmentOf (by omega) (by omega)

/-- Truncation: no code between its segment's code and the magnitude. In the same segment the step is the floor; a code of a lower segment lies below the
start of the magnitude's own. -/
theorem codeMagnitude_le_segmentOf {m s q : Nat} (hm : m ≤ Config.fullScale) (hs : s < 8) (hq : q < 16) (h : codeMagnitude s q ≤ m) :
    codeMagnitude s q ≤ codeMagnitude (segmentOf m 7) (stepOf m) := by
  suffices hbiased : (16 + q) * 2 ^ s ≤ (16 + stepOf m) * 2 ^ segmentOf m 7 by
    rw [← codeMagnitude_add, ← codeMagnitude_add] at hbiased
    exact Nat.le_of_add_le_add_right hbiased
  have hbias := codeMagnitude_add s q
  rcases Nat.lt_or_eq_of_le (segment_le_segmentOf hs h) with hlt | heq
  · calc (16 + q) * 2 ^ s ≤ 32 * 2 ^ s := Nat.mul_le_mul_right _ (by omega)
      _ = 16 * 2 ^ (s + 1) := by rw [Nat.pow_succ]; omega
      _ ≤ 16 * 2 ^ segmentOf m 7 := Nat.mul_le_mul_left _ (Nat.pow_le_pow_right (by decide) hlt)
      _ ≤ (16 + stepOf m) * 2 ^ segmentOf m 7 := Nat.mul_le_mul_right _ (Nat.le_add_right 16 _)
  · rw [stepOf_add hm, ← heq]
    exact Nat.mul_le_mul_right _ ((Nat.le_div_iff_mul_le (Nat.two_pow_pos s)).mpr (by omega))

/-- A code's magnitude lies in the code's own segment. -/
theorem segmentOf_codeMagnitude {s q : Nat} (hs : s < 8) (hq : q < 16) : segmentOf (codeMagnitude s q) 7 = s := by
  refine Nat.le_antisymm ?_ (segment_le_segmentOf hs (Nat.le_refl _))
  by_contra! hlt
  have hfits := segmentOf_fits (codeMagnitude s q) 7
  have hpow : 2 ^ (s + 1) ≤ 2 ^ segmentOf (codeMagnitude s q) 7 := Nat.pow_le_pow_right (by decide) hlt
  have htop : (16 + q) * 2 ^ s < 32 * 2 ^ s := Nat.mul_lt_mul_of_pos_right (by omega) (Nat.two_pow_pos s)
  rw [codeMagnitude_add] at hfits
  rw [Nat.pow_succ] at hpow
  omega

theorem stepOf_codeMagnitude {s q : Nat} (hs : s < 8) (hq : q < 16) : stepOf (codeMagnitude s q) = q := by
  have hstep := stepOf_add (codeMagnitude_le_fullScale hs hq)
  rw [segmentOf_codeMagnitude hs hq, codeMagnitude_add, Nat.mul_div_cancel _ (Nat.two_pow_pos s)] at hstep
  omega

/-! ## Encoding (R12) -/

/-- The magnitude a value is encoded by, saturated at full scale. -/
def saturated (v : Int) : Nat := min Config.fullScale v.natAbs

theorem saturated_le_fullScale (v : Int) : saturated v ≤ Config.fullScale := Nat.min_le_left _ _

/-- R12 by the fields of the code. -/
theorem encode_eq (v : Int) : encode v = codeOf (if v < 0 then 1 else 0) (segmentOf (saturated v) 7) (stepOf (saturated v)) := by
  rw [encode, codeOf]
  split <;> rfl

theorem natAbs_expand_encode (v : Int) :
    (expand (encode v)).natAbs = codeMagnitude (segmentOf (saturated v) 7) (stepOf (saturated v)) := by
  rw [encode_eq]
  exact natAbs_expand_codeOf (by split <;> decide) (Nat.lt_succ_of_le (segmentOf_le _ 7)) (stepOf_lt _)

theorem natAbs_expand_encode_le (v : Int) : (expand (encode v)).natAbs ≤ saturated v :=
  natAbs_expand_encode v ▸ codeMagnitude_segmentOf_le (saturated_le_fullScale v)

theorem natAbs_expand_le_encode {v : Int} {c : Byte} (h : (expand c).natAbs ≤ saturated v) :
    (expand c).natAbs ≤ (expand (encode v)).natAbs := by
  obtain ⟨sign, s, q, hsign, hs, hq, rfl⟩ := exists_codeOf c
  rw [natAbs_expand_codeOf hsign hs hq] at h ⊢
  rw [natAbs_expand_encode]
  exact codeMagnitude_le_segmentOf (saturated_le_fullScale v) hs hq h

/-- The code of an expanded code keeps its segment and step; only the sign of a zero is lost. -/
theorem encode_expand_codeOf {sign s q : Nat} (hsign : sign < 2) (hs : s < 8) (hq : q < 16) :
    encode (expand (codeOf sign s q)) = codeOf (if sign = 1 ∧ 0 < codeMagnitude s q then 1 else 0) s q := by
  have hsat : saturated (expand (codeOf sign s q)) = codeMagnitude s q := by
    rw [saturated, natAbs_expand_codeOf hsign hs hq]
    exact Nat.min_eq_right (codeMagnitude_le_fullScale hs hq)
  simp only [encode_eq, hsat, segmentOf_codeMagnitude hs hq, stepOf_codeMagnitude hs hq, expand_codeOf_neg hsign hs hq]

theorem encode_expand {c : Byte} (hc : c ≠ 0x80) : encode (expand c) = c := by
  obtain ⟨sign, s, q, hsign, hs, hq, rfl⟩ := exists_codeOf c
  rw [encode_expand_codeOf hsign hs hq]
  rcases Nat.eq_zero_or_pos (codeMagnitude s q) with hzero | hpos
  · obtain ⟨rfl, rfl⟩ := codeMagnitude_eq_zero hzero
    have hpositive : sign ≠ 1 := fun h => hc (h ▸ rfl)
    simp [show sign = 0 by omega]
  · congr 1
    split <;> omega

/-! ## The statements -/

/-- Settles O13: the fields `encode` writes are the largest fitting segment and its floor step, so the code is the greatest at or below the magnitude. -/
theorem valuesEncodeTowardZero : Obligations.ValuesEncodeTowardZero := by
  refine ⟨fun v => ?_, fun v => ⟨natAbs_expand_encode_le v, fun c => natAbs_expand_le_encode⟩, by decide, fun c => encode_expand, by decide⟩
  have hfits := segmentOf_fits (saturated v) 7
  refine ⟨segmentOf (saturated v) 7, segmentOf_le _ 7, Nat.sub_le_of_le_add hfits, fun r hr h => ?_, ?_⟩
  · exact le_segmentOf (Nat.le_add_of_sub_le h) hr
  · exact encode_eq v

/-- Settles O12, by the fields of the code; the range is that of the last step of segment 7. -/
theorem codesExpandByTheLaw : Obligations.CodesExpandByTheLaw := by
  refine ⟨fun sign s q hsign hs hq => ?_, natAbs_expand_le, ?_⟩
  · rw [← codeMagnitude_cast]
    exact expand_codeOf hsign hs hq
  · decide

end Sys2Proof.Machine

namespace Sys2Proof.Machine

/-! Proofs about section 6, mailboxes, classes and messages. -/

/-! ## READ CLASS (R117) -/

/-- An accepted READ CLASS of the right length is answered by its owner (R202). -/
theorem exec_readClass {s : State} (h : s.accepting) (tag : Byte) {ps : List Byte} (hl : ps.length = 1) :
    exec (.readClass tag ps) s = .next ((orderReadClass ps s.taken).place tag) :=
  congrArg _ (deliverOrder_run h (o := .readClass) rfl tag (congrArg (· + 2) hl))

/-- READ CLASS of a class number that exists reports the stored class and leaves the part as it was. -/
theorem orderReadClass_of_le {ps : List Byte} (s : State) (hk : num1 ps 0 ≤ 15) :
    orderReadClass ps s = Reply.done (s.eng.cls (num1 ps 0)).bytes s :=
  checked_passes s _ (by simp [firstRefusal, hk])

/-! ## The statements -/

/-- Settles O29: the range check decides between the two answers, and in both the owner replies over an untouched part. -/
theorem readClassReportsTheStoredValues : Obligations.ReadClassReportsTheStoredValues := by
  intro s tag ps h hl c
  rw [exec_readClass h tag hl]
  constructor
  · intro hk
    rw [orderReadClass_of_le s.taken hk]
    exact congrArg _ (place_unchanged h tag .done c.bytes)
  · intro hk
    have hrefused : firstRefusal [(decide (15 < num1 ps 0), .badField)] = some .badField := by simp [firstRefusal, hk]
    exact congrArg _ (place_checked h hrefused)

end Sys2Proof.Machine

namespace Sys2Proof.Machine

/-! Proofs about section 9, message lamps. -/

/-! ## The rows of the pattern table (R166) -/

section PatternTable

variable {enabled lampsOn full : Bool} {new urgent : Nat}

theorem lampPattern_of_disabled (h : lampsOn = false ∨ enabled = false) : lampPattern enabled lampsOn new urgent full = .off :=
  if_pos (by rcases h with rfl | rfl <;> simp)

/-- With the lamps and the mailbox enabled, row 1 does not apply and rows 2 to 5 decide. -/
theorem lampPattern_enabled :
    lampPattern true true new urgent full =
      if 0 < new ∧ full = true then .fast else if 0 < urgent then .slow else if 0 < new then .steady else .off := by
  simp [lampPattern]

theorem lampPattern_of_full_new (h : 0 < new ∧ full = true) : lampPattern true true new urgent full = .fast := by
  rw [lampPattern_enabled, if_pos h]

theorem lampPattern_of_urgent (h : ¬ (0 < new ∧ full = true)) (hu : 0 < urgent) : lampPattern true true new urgent full = .slow := by
  rw [lampPattern_enabled, if_neg h, if_pos hu]

theorem lampPattern_of_new (h : ¬ (0 < new ∧ full = true)) (hn : 0 < new) : lampPattern true true new 0 full = .steady := by
  rw [lampPattern_enabled, if_neg h, if_neg (Nat.lt_irrefl 0), if_pos hn]

theorem lampPattern_of_no_new : lampPattern true true 0 0 full = .off := by
  simp [lampPattern_enabled]

end PatternTable

/-! ## The statements -/

/-- Settles O47, row by row: a disabled mailbox or lamp gives row 1, and otherwise box full, new-urgent and new choose in that order. -/
theorem lampPatternFollowsItsTable : Obligations.LampPatternFollowsItsTable := by
  intro enabled lampsOn full new urgent p
  refine ⟨lampPattern_of_disabled, ?_⟩
  rintro rfl rfl
  refine ⟨lampPattern_of_full_new, fun hfull => ⟨lampPattern_of_urgent hfull, ?_⟩⟩
  rintro rfl
  refine ⟨lampPattern_of_new hfull, ?_⟩
  rintro rfl
  exact lampPattern_of_no_new

end Sys2Proof.Machine

namespace Sys2Proof.Machine

/-! Proofs about section 11, the management channel. -/

/-! ## The bit of a notice kind (11.8) -/

theorem NoticeKind.code_pred_lt (k : NoticeKind) : k.code - 1 < 16 := by
  cases k <;> decide

theorem NoticeKind.bit_ne_zero (k : NoticeKind) : k.bit ≠ 0 := by
  cases k <;> decide

/-- What a mask and a kind's bit have in common: the kind with code k is named by bit k − 1. -/
theorem and_bit (m : BitVec 16) (k : NoticeKind) : m &&& k.bit = if m.getLsbD (k.code - 1) = true then k.bit else 0 :=
  BitVec.and_twoPow m (k.code - 1)

theorem and_bit_eq_bit_iff (m : BitVec 16) (k : NoticeKind) : m &&& k.bit = k.bit ↔ m.getLsbD (k.code - 1) = true := by
  rw [and_bit]
  split
  case isTrue hset => exact iff_of_true rfl hset
  case isFalse hclear => exact iff_of_false k.bit_ne_zero.symm hclear

theorem and_bit_eq_zero_iff (m : BitVec 16) (k : NoticeKind) : m &&& k.bit = 0 ↔ ¬ m.getLsbD (k.code - 1) = true := by
  rw [and_bit]
  split
  case isTrue hset => exact iff_of_false k.bit_ne_zero (not_not.mpr hset)
  case isFalse hclear => exact iff_of_true rfl hclear

/-- With a mask's bits cleared, a flag is set when it was set and the mask does not name it. -/
theorem cleared_flag_iff (flags m : BitVec 16) (k : NoticeKind) :
    (flags &&& ~~~m) &&& k.bit = k.bit ↔ flags &&& k.bit = k.bit ∧ m &&& k.bit = 0 := by
  rw [and_bit_eq_bit_iff, and_bit_eq_bit_iff, and_bit_eq_zero_iff]
  simp [k.code_pred_lt]

/-! ## CLEAR FLAGS (R205) -/

/-- An error counter after a CLEAR FLAGS with a mask. -/
def errorsLeft (m : BitVec 16) (n : Nat) : Nat := if m &&& NoticeKind.mgmtErrors.bit ≠ 0 then 0 else n

theorem errorsLeft_of_named {m : BitVec 16} (h : m &&& NoticeKind.mgmtErrors.bit ≠ 0) (n : Nat) : errorsLeft m n = 0 := if_pos h

theorem errorsLeft_of_not_named {m : BitVec 16} (h : m &&& NoticeKind.mgmtErrors.bit = 0) (n : Nat) : errorsLeft m n = n :=
  if_neg (fun hne => hne h)

/-- The channel after a CLEAR FLAGS with a mask, field by field. -/
def Mgc.cleared (m : BitVec 16) (g : Mgc) : Mgc :=
  { g with flags := g.flags &&& ~~~m, lengthErrors := errorsLeft m g.lengthErrors, checkErrors := errorsLeft m g.checkErrors,
           overruns := errorsLeft m g.overruns }

/-- The part after a CLEAR FLAGS with a mask, its answer left out. -/
def State.cleared (m : BitVec 16) (s : State) : State := s.onEng (fun e => e.modMgc (Mgc.cleared m))

/-- CLEAR FLAGS clears the channel by its mask, and answers with the flags it finds. -/
theorem orderClearFlags_eq (ps : List Byte) (s : State) :
    orderClearFlags ps s = Reply.done (mask2 s.eng.mgc.flags) (s.cleared (maskAt ps 0)) := by
  refine congrArg (fun f => Reply.done (mask2 s.eng.mgc.flags) (s.onEng (fun e => e.modMgc f))) (funext fun g => ?_)
  rw [Mgc.cleared]
  dsimp only
  split
  case isTrue hnamed => simp only [errorsLeft_of_named hnamed]
  case isFalse hnot => simp only [errorsLeft_of_not_named (not_not.mp hnot)]

/-- Clearing flags touches nothing that the taking of orders looks at. -/
theorem cleared_accepting {s : State} (h : s.accepting) (m : BitVec 16) : (s.cleared m).accepting := h

/-- An accepted CLEAR FLAGS of the right length leaves the cleared part with its answer. -/
theorem exec_clearFlags {s : State} (h : s.accepting) (tag : Byte) {ps : List Byte} (hl : ps.length = 2) :
    exec (.clearFlags tag ps) s = .next ((s.cleared (maskAt ps 0)).withAnswer tag .done (mask2 s.eng.mgc.flags)) := by
  refine congrArg _ ((deliverOrder_run h (o := .clearFlags) rfl tag (congrArg (· + 2) hl)).trans ?_)
  show (orderClearFlags ps s.taken).place tag = _
  rw [orderClearFlags_eq]
  exact place_unchanged (cleared_accepting h (maskAt ps 0)) tag .done (mask2 s.eng.mgc.flags)

/-- Outside the outbox and the flags, the cleared part with an answer stands as it was. -/
theorem cleared_withAnswer_keeps (s : State) (m : BitVec 16) (tag : Byte) (r : Result) (d : List Byte) :
    s.keepsBut [.outbox, .flags] ((s.cleared m).withAnswer tag r d) := by
  refine ⟨rfl, fun p hp => ?_⟩
  cases p
  case outbox | flags => simp at hp
  case slots | storeQueues | link | writes => exact ⟨rfl, rfl⟩
  case service | pool => exact ⟨rfl, rfl, rfl⟩
  case channel => exact ⟨rfl, rfl, rfl, rfl⟩
  all_goals rfl

/-! ## STATUS (R205, R207) -/

/-- An accepted STATUS reports the part as it stands and leaves its answer. -/
theorem exec_status {s : State} (h : s.accepting) (tag : Byte) :
    exec (.status tag []) s = .next (s.withAnswer tag .done s.statusBytes) :=
  congrArg _ ((deliverOrder_run h (o := .status) rfl tag rfl).trans (place_unchanged h tag .done s.statusBytes))

/-! ## The statements -/

/-- Settles O20: the part after the order is known field by field, and only its flags need an argument, bit by bit. -/
theorem clearFlagsClearsTheNamedFlags : Obligations.ClearFlagsClearsTheNamedFlags := by
  intro s tag ps h
  refine ⟨fun hl => ⟨_, exec_clearFlags h tag hl, rfl, fun k => cleared_flag_iff _ _ k, fun hnamed => ?_, fun hnot => ?_, rfl, rfl, rfl,
    cleared_withAnswer_keeps s (maskAt ps 0) tag .done (mask2 s.eng.mgc.flags)⟩, ?_⟩
  · exact ⟨errorsLeft_of_named hnamed _, errorsLeft_of_named hnamed _, errorsLeft_of_named hnamed _⟩
  · exact ⟨errorsLeft_of_not_named hnot _, errorsLeft_of_not_named hnot _, errorsLeft_of_not_named hnot _⟩
  · rintro rfl
    exact exec_status h tag

end Sys2Proof.Machine

namespace Sys2Proof.Machine

/-! Proofs about the machine and section 1: which commands are orders, and the highway side and the clock through a frame boundary. -/

/-! ## Orders and events -/

/-- A command that carries a packet body is an order, and runs as the arrival of its packet (log 3). -/
theorem exec_of_orderBody {c : Instr} {body : List Byte} (h : orderBody c = some body) :
    ∃ code tag ps, body = code :: tag :: ps ∧ ∀ s, exec c s = .next (s.deliverOrder code tag ps) := by
  cases c
  case powerOn | freeze | syncPulse | frame | hclkLoss | secondsPulse | localSecond | windowEnd | lossTimerExpiry | retryDue | readComplete |
    programComplete | eraseComplete | storeOpTimeout | catalogueWriteComplete | enterService | restartReset | deliveryRecipient |
    sweepExamination => cases h
  all_goals exact ⟨_, _, _, (Option.some.inj h).symm, fun _ => rfl⟩

/-- A property of the part that orders keep is kept by every command, where each event keeps it too. -/
theorem exec_induct {P : State → State → Prop} (horder : ∀ code tag ps s, P s (s.deliverOrder code tag ps))
    (hevent : ∀ c s t, orderBody c = none → exec c s = .next t → P s t) (c : Instr) {s t : State} (h : exec c s = .next t) : P s t := by
  cases hb : orderBody c with
  | none => exact hevent c s t hb h
  | some body =>
    obtain ⟨code, tag, ps, -, hexec⟩ := exec_of_orderBody hb
    cases (hexec s).symm.trans h
    exact horder code tag ps s

/-! ## The waiting commands -/

theorem syncPulse_pending (w : Nat) (x : Bool) (s : State) : (s.syncPulse w x).pending = s.pending := by
  unfold State.syncPulse
  split
  · rfl
  · split
    · exact boundary_pending _ s
    · rfl

theorem hclkLoss_pending (s : State) : s.hclkLoss.pending = s.pending := by
  unfold State.hclkLoss
  split
  · rfl
  · exact (enterSearch_pending _).trans (takePulse_pending s)

theorem freeze_pending (s : State) : s.freeze.pending = s.pending := by
  unfold State.freeze
  split <;> rfl

theorem restartReset_pending (x : Selects) (s : State) : (s.restartReset x).pending = s.pending := by
  unfold State.restartReset
  split
  · rfl
  · exact takePulse_pending s

/-- No command takes another from the queue or adds one. -/
theorem exec_pending (c : Instr) {s t : State} (h : exec c s = .next t) : t.pending = s.pending := by
  refine exec_induct (P := fun s t => t.pending = s.pending) (fun code tag ps s => deliverOrder_pending code tag ps s) ?_ c h
  clear h s t c
  intro c s t hb h
  cases c <;> cases hb <;> cases h
  case powerOn => rfl
  case freeze => exact freeze_pending s
  case restartReset => exact restartReset_pending _ s
  all_goals refine (finish_pending _).trans ?_
  case syncPulse => exact syncPulse_pending _ _ s
  case frame => exact frame_pending _ s
  case hclkLoss => exact hclkLoss_pending s
  case secondsPulse => exact takePulse_pending s
  case localSecond =>
    split
    · exact secondCounted_pending _
    · rfl
  case sweepExamination =>
    split
    · exact examination_pending s
    · rfl
  case retryDue | deliveryRecipient => split <;> rfl
  all_goals rfl

/-- Settles O1. -/
theorem stepRunsTheFrontCommand : Obligations.StepRunsTheFrontCommand := fun _ _ _ => rfl

/-- Settles O2: every arm answers, and what each runs keeps the queue. -/
theorem everyCommandAnswersNext : Obligations.EveryCommandAnswersNext := fun c s =>
  (exec_next c s).imp fun _ h => ⟨h, exec_pending c h⟩

end Sys2Proof.Machine

namespace Sys2Proof.Machine

/-! Proofs about section 1: what each highway operation makes of the highway side and of the clock. -/

/-! ## The highway side and the clock, operation by operation -/

@[simp] theorem lampRestart_hwi (s : State) : s.lampRestart.hwi = s.hwi := by unfold State.lampRestart; split <;> rfl
@[simp] theorem lampRestart_cal (s : State) : s.lampRestart.cal = s.cal := by unfold State.lampRestart; split <;> rfl
@[simp] theorem raiseHighway_hwi (st : SyncState) (s : State) : (s.raiseHighway st).hwi = s.hwi := rfl
@[simp] theorem raiseHighway_cal (st : SyncState) (s : State) : (s.raiseHighway st).cal = s.cal := rfl

@[simp] theorem setFrameNo_hwi (n : Option Nat) (s : State) : (s.setFrameNo n).hwi = { s.hwi with frameNo := n } := by
  unfold State.setFrameNo
  dsimp only
  split
  · rfl
  · exact lampRestart_hwi _

@[simp] theorem setFrameNo_cal (n : Option Nat) (s : State) : (s.setFrameNo n).cal = s.cal := by
  unfold State.setFrameNo
  dsimp only
  split
  · rfl
  · exact lampRestart_cal _

@[simp] theorem loseHighwayClock_hwi (s : State) : s.loseHighwayClock.hwi = { s.hwi with pulseValid := false } := by
  unfold State.loseHighwayClock
  split
  case isTrue => rfl
  case isFalse h => rw [← Bool.eq_false_of_not_eq_true h]

/-- The clock when pulse valid goes off: it goes on from the divider over LOSC, where it counted from the highway (R189). -/
theorem loseHighwayClock_cal (s : State) : s.loseHighwayClock.cal =
    if s.hwi.pulseValid = true then { s.cal with source := .losc, subCount := 1000 * s.hwi.divider } else s.cal := by
  unfold State.loseHighwayClock
  split <;> rfl

/-- SEARCH as it is entered (R2 to R4, R14). -/
@[simp] theorem enterSearch_hwi (s : State) : s.enterSearch.hwi =
    { s.hwi with sync := .search, misses := 0, confirms := 0, frameNo := none, frameBegun := false, pulseValid := false } := by
  have h : ((s.loseHighwayClock.setFrameNo none).modHwi
      (fun h => { h with sync := .search, misses := 0, confirms := 0, frameBegun := false })).hwi =
      { s.hwi with sync := .search, misses := 0, confirms := 0, frameNo := none, frameBegun := false, pulseValid := false } := by simp
  unfold State.enterSearch
  dsimp only
  split
  · exact h
  · exact h

theorem enterSearch_cal (s : State) : s.enterSearch.cal = s.loseHighwayClock.cal := by
  have h : (s.loseHighwayClock.setFrameNo none).cal = s.loseHighwayClock.cal := setFrameNo_cal _ _
  unfold State.enterSearch
  dsimp only
  split
  · exact h
  · exact h

@[simp] theorem enterLocked_hwi (s : State) : s.enterLocked.hwi =
    { s.hwi with sync := .locked, misses := 0, confirms := 0, pulseValid := true, divider := 0 } := rfl

@[simp] theorem enterLocked_cal (s : State) : s.enterLocked.cal = { s.cal with source := .highway, subCount := 0 } := rfl

@[simp] theorem divideFrame_hwi (s : State) : s.divideFrame.hwi =
    if s.hwi.divider + 1 = 8000 then { s.hwi with divider := 0, pulseDue := true } else { s.hwi with divider := s.hwi.divider + 1 } := rfl

@[simp] theorem divideFrame_cal (s : State) : s.divideFrame.cal = s.cal := rfl
@[simp] theorem divideFrame_eng (s : State) : s.divideFrame.eng = s.eng := rfl

/-- The number a sync gives its frame where the number expected is `n` (R4). -/
def numberGiven (kind : SyncKind) (n : Option Nat) : Option Nat := if kind = .double then some 0 else n

theorem numberGiven_some (kind : SyncKind) (n : Nat) : numberGiven kind (some n) = some (if kind = .double then 0 else n) := by
  unfold numberGiven
  split <;> rfl

/-- The slip counter after a sync checked against the number expected (R4). -/
def slipsAfter (kind : SyncKind) (n : Option Nat) (count : Nat) : Nat := if n.any (slips kind) = true then min 255 (count + 1) else count

@[simp] theorem alignFrame_hwi (k : SyncKind) (s : State) :
    (s.alignFrame k).hwi = { s.hwi with frameNo := numberGiven k (nextFrameNo s.hwi.frameNo) } := by
  unfold State.alignFrame numberGiven
  split <;> exact setFrameNo_hwi _ s

@[simp] theorem alignFrame_cal (k : SyncKind) (s : State) : (s.alignFrame k).cal = s.cal := by
  unfold State.alignFrame
  split <;> exact setFrameNo_cal _ s

@[simp] theorem numberFrame_hwi (k : SyncKind) (s : State) : (s.numberFrame k).hwi =
    { s.hwi with frameNo := numberGiven k (nextFrameNo s.hwi.frameNo), slips := slipsAfter k (nextFrameNo s.hwi.frameNo) s.hwi.slips } := by
  have hnone : nextFrameNo s.hwi.frameNo = none → s.hwi = { s.hwi with frameNo := none } := fun h => by
    rw [← Option.map_eq_none_iff.mp h]
  unfold State.numberFrame
  split
  case h_1 hn =>
    rw [hn]
    unfold numberGiven
    split
    · exact setFrameNo_hwi _ s
    · exact hnone hn
  case h_2 n hn =>
    rw [hn, numberGiven_some]
    unfold slipsAfter
    dsimp only [Option.any_some]
    split <;> simp

@[simp] theorem numberFrame_cal (k : SyncKind) (s : State) : (s.numberFrame k).cal = s.cal := by
  unfold State.numberFrame
  split
  · split
    · exact setFrameNo_cal _ s
    · rfl
  · dsimp only
    split <;> simp

@[simp] theorem takePulse_hwi (s : State) : s.takePulse.hwi = { s.hwi with pulseDue := false } := by
  unfold State.takePulse State.secondCounted
  split
  · dsimp only
    split <;> rfl
  case isFalse h => rw [← Bool.eq_false_of_not_eq_true h]

end Sys2Proof.Machine

namespace Sys2Proof.Machine

/-! Proofs about section 10, the calendar: the date as it advances, and the invariant of the highway and the clock. -/

/-! ## Legal dates (R186) -/

theorem monthLength_bounds (y m : Nat) : 28 ≤ monthLength y m ∧ monthLength y m ≤ 31 := by
  unfold monthLength
  split
  · split <;> decide
  · split <;> decide

theorem dateLegal_iff {y mo d h mi se : Nat} : dateLegal y mo d h mi se = true ↔
    y ≤ 99 ∧ (1 ≤ mo ∧ mo ≤ 12) ∧ (1 ≤ d ∧ d ≤ monthLength y mo) ∧ h ≤ 23 ∧ mi ≤ 59 ∧ se ≤ 59 := by
  simp [dateLegal, and_assoc]

theorem atEnd_iff (c : Cal) : c.atEnd = true ↔
    c.year = 99 ∧ c.month = 12 ∧ c.day = 31 ∧ c.hour = 23 ∧ c.minute = 59 ∧ c.second = 59 := by
  simp [Cal.atEnd, and_assoc]

theorem not_atEnd {c : Cal} (h : c.atEnd = false) :
    ¬ (c.year = 99 ∧ c.month = 12 ∧ c.day = 31 ∧ c.hour = 23 ∧ c.minute = 59 ∧ c.second = 59) := fun hc => by
  simp [(atEnd_iff c).mpr hc] at h

theorem monthLength_december (y : Nat) : monthLength y 12 = 31 := rfl

/-- The fields one second on from a legal date are a legal date, but at the last second of 2099. -/
theorem carry_legal {c : Cal} (h : dateLegal c.year c.month c.day c.hour c.minute c.second = true) (he : c.atEnd = false) :
    dateLegal c.carry.year c.carry.month c.carry.day c.carry.hour c.carry.minute c.carry.second = true := by
  have hend := not_atEnd he
  have hnextMonth := monthLength_bounds c.year (c.month + 1)
  have hnextYear := monthLength_bounds (c.year + 1) 1
  have hdec : c.month = 12 → monthLength c.year c.month = 31 := fun hm => by rw [hm]; rfl
  rw [dateLegal_iff] at h ⊢
  unfold Cal.carry
  split_ifs <;> dsimp only <;> omega

/-- A second advances the date and leaves the rest of the clock but for valid. -/
theorem advance_rest (c : Cal) : c.advance.source = c.source ∧ c.advance.subCount = c.subCount ∧ c.advance.sweep = c.sweep := by
  unfold Cal.advance Cal.carry
  split_ifs <;> exact ⟨rfl, rfl, rfl⟩

theorem advance_of_not_atEnd {c : Cal} (h : c.atEnd = false) : c.advance = c.carry :=
  if_neg (by simp [h])

theorem advance_of_atEnd {c : Cal} (h : c.atEnd = true) : c.advance = { c with valid := false } := if_pos h

theorem advance_legal {c : Cal} (h : dateLegal c.year c.month c.day c.hour c.minute c.second = true) :
    dateLegal c.advance.year c.advance.month c.advance.day c.advance.hour c.advance.minute c.advance.second = true := by
  cases he : c.atEnd with
  | true => rwa [advance_of_atEnd he]
  | false => rw [advance_of_not_atEnd he]; exact carry_legal h he

/-! ## Day numbers (R186) -/

theorem daysBefore_succ (y : Nat) {m : Nat} (h : 1 ≤ m) : daysBefore y (m + 1) = daysBefore y m + monthLength y m := by
  obtain ⟨k, rfl⟩ := Nat.exists_eq_add_of_le' h
  rfl

/-- The days of a year before December. -/
theorem daysBefore_december (y : Nat) : daysBefore y 12 = 334 + if y % 4 = 0 then 1 else 0 := by
  have hdays : daysBefore y 12 = 306 + monthLength y 2 := by
    simp [daysBefore, monthLength]
    omega
  rw [hdays, monthLength, if_pos rfl]
  split <;> rfl

theorem daysBefore_mono (y : Nat) {m n : Nat} (hm : 1 ≤ m) (hmn : m ≤ n) : daysBefore y m ≤ daysBefore y n := by
  induction n, hmn using Nat.le_induction with
  | base => exact Nat.le_refl _
  | succ n hn ih => rw [daysBefore_succ y (hm.trans hn)]; omega

/-- Of a legal date no later day of its year lies beyond 31 December. -/
theorem daysBefore_add_le {y m : Nat} (h1 : 1 ≤ m) (h2 : m ≤ 12) :
    daysBefore y m + monthLength y m ≤ 365 + if y % 4 = 0 then 1 else 0 := by
  rw [← daysBefore_succ y h1]
  refine (daysBefore_mono y (Nat.le_add_left 1 m) (show m + 1 ≤ 13 by omega)).trans (le_of_eq ?_)
  rw [daysBefore_succ y (show 1 ≤ 12 by decide), daysBefore_december, monthLength_december]
  omega

theorem dayNumber_le {c : Cal} (h : dateLegal c.year c.month c.day c.hour c.minute c.second = true) : c.dayNumber ≤ 36524 := by
  obtain ⟨hy, ⟨hm1, hm2⟩, ⟨hd1, hd2⟩, -⟩ := dateLegal_iff.mp h
  have hdays := daysBefore_add_le (y := c.year) hm1 hm2
  unfold Cal.dayNumber dayNumber
  split at hdays <;> omega

theorem secondOfDay_lt {c : Cal} (h : dateLegal c.year c.month c.day c.hour c.minute c.second = true) : c.secondOfDay < 86400 := by
  obtain ⟨-, -, -, hh, hmi, hse⟩ := dateLegal_iff.mp h
  unfold Cal.secondOfDay
  omega

/-- The fields one second on count one second more, from day 0 on. -/
theorem carry_counts {c : Cal} (h : dateLegal c.year c.month c.day c.hour c.minute c.second = true) :
    86400 * c.carry.dayNumber + c.carry.secondOfDay = 86400 * c.dayNumber + c.secondOfDay + 1 := by
  obtain ⟨hy, ⟨hm1, hm2⟩, ⟨hd1, hd2⟩, hh, hmi, hse⟩ := dateLegal_iff.mp h
  have hmonth := daysBefore_succ c.year hm1
  have hyear : c.month = 12 → daysBefore c.year c.month + (c.year + 3) / 4 = 334 + (c.year + 1 + 3) / 4 := fun hm => by
    rw [hm, daysBefore_december]
    split <;> omega
  have hdec : c.month = 12 → monthLength c.year c.month = 31 := fun hm => by rw [hm]; rfl
  have hjan : daysBefore (c.year + 1) 1 = 0 := rfl
  unfold Cal.carry
  split_ifs <;> dsimp only [Cal.dayNumber, dayNumber, Cal.secondOfDay] <;> omega

/-- Settles O25: carry by carry, the year's turn by the days before December. -/
theorem secondsAdvanceTheDate : Obligations.SecondsAdvanceTheDate := by
  refine ⟨fun c h => ⟨secondOfDay_lt h, dayNumber_le h, advance_of_atEnd, fun he => ?_⟩, by decide, by decide, by decide, by decide⟩
  obtain ⟨hsource, hsub, hsweep⟩ := advance_rest c
  refine ⟨advance_legal h, ?_, ?_, hsource, hsub, hsweep⟩
  · rw [advance_of_not_atEnd he]
    exact carry_counts h
  · rw [advance_of_not_atEnd he]
    unfold Cal.carry
    split_ifs <;> rfl

/-! ## The invariant of the highway and the clock -/

/-- The invariant speaks of the highway side and the clock alone. -/
theorem clocked_congr {s t : State} (k : s.clocked) (h : t.hwi = s.hwi) (c : t.cal = s.cal) : t.clocked := by
  unfold State.clocked at k ⊢
  rwa [h, c]

theorem reset_clocked : State.reset.clocked := by
  refine ⟨⟨?_, ?_, ?_, ?_, ?_, ?_, ?_, ?_⟩, ⟨by decide, by decide, ?_⟩, ?_⟩ <;> simp [State.reset, Hwi.reset, Cal.reset, Sweep.reset]

/-- Settles O23. -/
theorem highwayAndClockAreSoundAtReset : Obligations.HighwayAndClockAreSoundAtReset := reset_clocked

theorem OuterStep.clocked {s t : State} (h : OuterStep s t) (k : s.clocked) : t.clocked := by
  obtain ⟨⟨hslips, hdiv, hno, hvalid, hmiss, hconf, hsearch, hhtx⟩, ⟨hdate, hsub, hsweep⟩, hsource⟩ := k
  cases h with
  | same h c _ => exact clocked_congr ⟨⟨hslips, hdiv, hno, hvalid, hmiss, hconf, hsearch, hhtx⟩, ⟨hdate, hsub, hsweep⟩, hsource⟩ h c
  | set y mo d hr mi se ok h c _ =>
    unfold State.clocked
    rw [h, c]
    exact ⟨⟨hslips, show 0 < 8000 by decide, hno, hvalid, hmiss, hconf, hsearch, hhtx⟩, ⟨ok, show 0 < 8000000 by decide, hsweep⟩, hsource⟩
  | sweep h c _ =>
    unfold State.clocked
    rw [h, c]
    exact ⟨⟨hslips, hdiv, hno, hvalid, hmiss, hconf, hsearch, hhtx⟩, ⟨hdate, hsub, fun _ => show 0 < 32768 by decide⟩, hsource⟩

/-- A second counted advances the date, and may start a sweep. -/
theorem secondCounted_cal (s : State) :
    s.secondCounted.cal = s.cal.advance ∨ s.secondCounted.cal = s.cal.advance.startSweep .automatic := by
  unfold State.secondCounted
  dsimp only
  split
  · exact .inr rfl
  · exact .inl rfl

theorem secondCounted_hwi (s : State) : s.secondCounted.hwi = s.hwi := by
  unfold State.secondCounted
  dsimp only
  split <;> rfl

theorem startSweep_sound {c : Cal} (h : c.sound) (x : SweepCause) : (c.startSweep x).sound := ⟨h.1, h.2.1, fun _ => show 0 < 32768 by decide⟩

theorem advance_sound {c : Cal} (h : c.sound) : c.advance.sound := by
  obtain ⟨hdate, hsub, hsweep⟩ := h
  obtain ⟨-, hsub', hsweep'⟩ := advance_rest c
  exact ⟨advance_legal hdate, hsub' ▸ hsub, hsweep' ▸ hsweep⟩

theorem secondCounted_clocked {s : State} (k : s.clocked) : s.secondCounted.clocked := by
  obtain ⟨hh, hc, hsource⟩ := k
  have hadvance := advance_sound hc
  have hkept : s.cal.advance.source = s.cal.source := (advance_rest s.cal).1
  unfold State.clocked
  rw [secondCounted_hwi]
  rcases secondCounted_cal s with h | h <;> rw [h]
  · exact ⟨hh, hadvance, hkept ▸ hsource⟩
  · exact ⟨hh, startSweep_sound hadvance _, (show (s.cal.advance.startSweep .automatic).source = s.cal.source from hkept) ▸ hsource⟩

theorem takePulse_clocked {s : State} (k : s.clocked) : s.takePulse.clocked := by
  unfold State.takePulse
  split
  · exact secondCounted_clocked k
  · exact k

end Sys2Proof.Machine

namespace Sys2Proof.Machine

/-! Proofs about section 1: the invariant of the highway and the clock through a frame boundary, and every step. -/

/-! ## The invariant at a frame boundary -/

theorem nextFrameNo_lt {n : Option Nat} : ∀ m, nextFrameNo n = some m → m < 16 := fun m h => by
  obtain ⟨k, -, rfl⟩ := Option.map_eq_some_iff.mp h
  exact Nat.mod_lt _ (by decide)

theorem numberGiven_lt {k : SyncKind} {n : Option Nat} : ∀ m, numberGiven k (nextFrameNo n) = some m → m < 16 := fun m h => by
  unfold numberGiven at h
  split at h
  · cases h; decide
  · exact nextFrameNo_lt m h

theorem slipsAfter_le {k : SyncKind} {n : Option Nat} {c : Nat} (h : c ≤ 255) : slipsAfter k n c ≤ 255 := by
  unfold slipsAfter
  split
  · exact Nat.min_le_left _ _
  · exact h

theorem enterSearch_clocked {s : State} (hslips : s.hwi.slips ≤ 255) (hdiv : s.hwi.divider < 8000) (hhtx : s.hwi.htx.length = 128)
    (hc : s.cal.sound) (hsource : s.cal.source = .highway ↔ s.hwi.pulseValid = true) : s.enterSearch.clocked := by
  unfold State.clocked
  rw [enterSearch_hwi, enterSearch_cal, loseHighwayClock_cal]
  refine ⟨⟨hslips, hdiv, by simp, by simp, by simp, by simp, by simp, hhtx⟩, ?_, ?_⟩
  · split
    · exact ⟨hc.1, show 1000 * s.hwi.divider < 8000000 by omega, hc.2.2⟩
    · exact hc
  · split <;> simp_all

/-- The divider's advance keeps the invariant. -/
theorem divideFrame_clocked {s : State} (k : s.clocked) : s.divideFrame.clocked := by
  obtain ⟨⟨hslips, hdiv, hno, hvalid, hmiss, hconf, hsearch, hhtx⟩, hc, hsource⟩ := k
  have hdiv' : s.hwi.divider < 8000 := hdiv
  unfold State.clocked
  rw [divideFrame_hwi, divideFrame_cal]
  split
  · exact ⟨⟨hslips, show 0 < 8000 by decide, hno, hvalid, hmiss, hconf, hsearch, hhtx⟩, hc, hsource⟩
  · exact ⟨⟨hslips, show s.hwi.divider + 1 < 8000 by omega, hno, hvalid, hmiss, hconf, hsearch, hhtx⟩, hc, hsource⟩

/-- A frame boundary keeps the highway and the clock sound. -/
theorem boundary_clocked (k : Option SyncKind) {s : State} (h : s.clocked) : (s.boundary k).clocked := by
  obtain ⟨⟨hslips, hdiv, hno, hvalid, hmiss, hconf, hsearch, hhtx⟩, hc, hsource⟩ := takePulse_clocked h
  unfold State.boundary
  generalize s.takePulse = u at *
  dsimp only
  split
  case h_1 => exact ⟨⟨hslips, hdiv, hno, hvalid, hmiss, hconf, hsearch, hhtx⟩, hc, hsource⟩
  case h_2 k hs =>
    unfold State.clocked
    rw [alignFrame_hwi, alignFrame_cal]
    have hoff : u.hwi.pulseValid = false := by simpa [hs] using hvalid
    exact ⟨⟨hslips, hdiv, numberGiven_lt, by simp [hoff], by simp, by simp, by simp, hhtx⟩, hc, hsource⟩
  case h_3 => exact enterSearch_clocked hslips hdiv hhtx hc hsource
  case h_4 k hs =>
    have hle := hconf hs
    have hoff : u.hwi.pulseValid = false := by simpa [hs] using hvalid
    split
    case isTrue =>
      unfold State.clocked
      rw [enterLocked_hwi, enterLocked_cal, alignFrame_hwi, alignFrame_cal]
      exact ⟨⟨hslips, show 0 < 8000 by decide, numberGiven_lt, by simp, by simp, by simp, by simp, hhtx⟩,
        ⟨hc.1, show 0 < 8000000 by decide, hc.2.2⟩, by simp⟩
    case isFalse hfour =>
      rw [alignFrame_hwi] at hfour
      unfold State.clocked
      rw [alignFrame_hwi, alignFrame_cal]
      refine ⟨⟨hslips, hdiv, numberGiven_lt, by simp [hs, hoff], by simp [hs], fun _ => ?_, by simp [hs], hhtx⟩, hc, hsource⟩
      exact Nat.le_of_lt_succ (Nat.lt_of_le_of_ne (Nat.succ_le_succ hle) hfour)
  case h_5 hs =>
    have hon : u.hwi.pulseValid = true := hvalid.mpr (.inl hs)
    exact divideFrame_clocked ⟨⟨hslips, hdiv, nextFrameNo_lt, by simp [hon], by simp, by simp, by simp, hhtx⟩, hc, hsource⟩
  case h_6 k hs =>
    refine divideFrame_clocked ?_
    unfold State.clocked
    rw [numberFrame_hwi, numberFrame_cal]
    exact ⟨⟨slipsAfter_le hslips, hdiv, numberGiven_lt, hvalid, by simp [hs], by simp [hs], by simp [hs], hhtx⟩, hc, hsource⟩
  case h_7 hs =>
    have hmisses := hmiss hs
    split
    case isTrue =>
      obtain ⟨⟨hslips', hdiv', _, _, _, _, _, hhtx'⟩, hc', hsource'⟩ :=
        divideFrame_clocked (s := u) ⟨⟨hslips, hdiv, hno, hvalid, hmiss, hconf, hsearch, hhtx⟩, hc, hsource⟩
      exact enterSearch_clocked hslips' hdiv' hhtx' hc' hsource'
    case isFalse hthree =>
      refine divideFrame_clocked ⟨⟨hslips, hdiv, nextFrameNo_lt, hvalid, fun _ => ⟨Nat.le_add_left 1 _, ?_⟩, by simp [hs], by simp [hs], hhtx⟩, hc, hsource⟩
      show u.hwi.misses + 1 ≤ 2
      omega
  case h_8 k hs =>
    have hon : u.hwi.pulseValid = true := hvalid.mpr (.inr hs)
    refine divideFrame_clocked ?_
    unfold State.clocked
    rw [numberFrame_hwi, numberFrame_cal]
    exact ⟨⟨slipsAfter_le hslips, hdiv, numberGiven_lt, by simp [hon], by simp, by simp, by simp, hhtx⟩, hc, hsource⟩

/-! ## The invariant through the commands -/

/-- The invariant does not look at whether a frame's sync has been taken. -/
theorem frameBegun_clocked {s : State} (k : s.clocked) (b : Bool) : (s.modHwi (fun h => { h with frameBegun := b })).clocked := k

theorem htx_clocked {s : State} (k : s.clocked) {htx : List Byte} (h : htx.length = 128) : (s.modHwi (fun h => { h with htx := htx })).clocked := by
  obtain ⟨⟨hslips, hdiv, hno, hvalid, hmiss, hconf, hsearch, -⟩, hc⟩ := k
  exact ⟨⟨hslips, hdiv, hno, hvalid, hmiss, hconf, hsearch, h⟩, hc⟩

theorem onEng_clocked {s : State} (k : s.clocked) (f : Engine → Engine) : (s.onEng f).clocked := k

theorem syncPulse_clocked (w : Nat) (x : Bool) {s : State} (k : s.clocked) : (s.syncPulse w x).clocked := by
  unfold State.syncPulse
  split
  · exact k
  · split
    · exact frameBegun_clocked (boundary_clocked _ k) true
    · exact k

theorem beginFrame_clocked {s : State} (k : s.clocked) : s.beginFrame.clocked := by
  unfold State.beginFrame
  split
  · exact frameBegun_clocked k false
  · exact boundary_clocked none k

/-- A frame drives one byte in each timeslot. -/
theorem traffic_length (now : Now) (n : Option Nat) (hrx : List Byte) (e : Engine) : (e.traffic now n hrx).1.length = 128 := by
  simp [Engine.traffic]

theorem frame_clocked (hrx : List Byte) {s : State} (k : s.clocked) : (s.frame hrx).clocked := by
  have hbegun : (s.onEng Engine.closeWindows).beginFrame.clocked := beginFrame_clocked (onEng_clocked k _)
  unfold State.frame
  dsimp only
  split
  · exact clocked_congr (htx_clocked hbegun (traffic_length _ _ hrx _)) rfl rfl
  · exact htx_clocked hbegun rfl

theorem hclkLoss_clocked {s : State} (k : s.clocked) : s.hclkLoss.clocked := by
  unfold State.hclkLoss
  refine htx_clocked ?_ rfl
  split
  · exact k
  · obtain ⟨⟨hslips, hdiv, _, _, _, _, _, hhtx⟩, hc, hsource⟩ := takePulse_clocked k
    exact enterSearch_clocked hslips hdiv hhtx hc hsource

theorem powerOn_clocked (x : Selects) (p : Bool) (s : State) : (s.powerOn x p).clocked := clocked_congr reset_clocked rfl rfl

theorem restarted_sound {c : Cal} (h : c.sound) {d : Nat} (hd : d < 8000) : (c.restarted d).sound := by
  obtain ⟨hdate, hsub, -⟩ := h
  unfold Cal.restarted
  dsimp only
  split
  · exact ⟨hdate, show 1000 * d < 8000000 by omega, nofun⟩
  · exact ⟨hdate, hsub, nofun⟩

theorem restarted_source (c : Cal) (d : Nat) : (c.restarted d).source = .losc := by
  unfold Cal.restarted
  dsimp only
  split
  · rfl
  · cases h : c.source
    · contradiction
    · rfl

theorem restartReset_clocked (x : Selects) {s : State} (k : s.clocked) : (s.restartReset x).clocked := by
  unfold State.restartReset
  split
  · exact k
  · obtain ⟨⟨-, hdiv, -⟩, hc, -⟩ := takePulse_clocked k
    refine ⟨reset_clocked.1, restarted_sound hc hdiv, ?_⟩
    simp [restarted_source, Hwi.reset]

theorem examination_clocked {s : State} (k : s.clocked) (hr : s.cal.sweep.running = true) : s.examination.clocked := by
  obtain ⟨hh, ⟨hdate, hsub, hsweep⟩, hsource⟩ := k
  have hp := hsweep hr
  unfold State.examination
  split
  · exact ⟨hh, ⟨hdate, hsub, nofun⟩, hsource⟩
  · dsimp only
    split
    · exact ⟨hh, ⟨hdate, hsub, nofun⟩, hsource⟩
    case isFalse hlast => exact ⟨hh, ⟨hdate, hsub, fun _ => Nat.lt_of_le_of_ne hp hlast⟩, hsource⟩

theorem localSecond_clocked {s : State} (k : s.clocked) :
    ({ s with cal := { s.cal with subCount := 0 } } : State).clocked := by
  obtain ⟨hh, ⟨hdate, -, hsweep⟩, hsource⟩ := k
  exact ⟨hh, ⟨hdate, show 0 < 8000000 by decide, hsweep⟩, hsource⟩

theorem losc_clocked {s : State} (k : s.clocked) : s.losc.clocked := by
  obtain ⟨hh, ⟨hdate, hsub, hsweep⟩, hsource⟩ := k
  have hcal : s.cal.losc.sound ∧ s.cal.losc.source = s.cal.source := by
    unfold Cal.losc
    split
    · exact ⟨⟨hdate, show min 7999999 (s.cal.subCount + 1) < 8000000 by omega, hsweep⟩, rfl⟩
    · exact ⟨⟨hdate, hsub, hsweep⟩, rfl⟩
  exact ⟨hh, hcal.1, (show s.losc.cal.source = s.cal.source from hcal.2) ▸ hsource⟩

theorem finish_clocked {s : State} (k : s.clocked) : s.finish.clocked := finish_induct (fun _ _ h => h.clocked) s k

/-- Every command keeps the highway and the clock sound: an order by what orders may do there, an event by its own effect. -/
theorem exec_clocked (c : Instr) {s t : State} (h : exec c s = .next t) (k : s.clocked) : t.clocked := by
  refine exec_induct (P := fun s t => s.clocked → t.clocked)
    (fun code tag ps s => deliverOrder_induct (fun _ _ h => h.clocked) code tag ps s) ?_ c h k
  clear h k s t c
  intro c s t hb h k
  cases c <;> cases hb <;> cases h
  case powerOn => exact powerOn_clocked _ _ s
  case freeze =>
    unfold State.freeze
    split
    · exact k
    · exact clocked_congr k rfl rfl
  case restartReset => exact restartReset_clocked _ k
  all_goals refine finish_clocked ?_
  case syncPulse => exact syncPulse_clocked _ _ k
  case frame => exact frame_clocked _ k
  case hclkLoss => exact hclkLoss_clocked k
  case secondsPulse => exact takePulse_clocked k
  case localSecond =>
    split
    · exact secondCounted_clocked (localSecond_clocked k)
    · exact k
  case sweepExamination =>
    split
    case isTrue hr => exact examination_clocked k (Bool.and_eq_true_iff.mp hr).1
    case isFalse => exact k
  case retryDue | deliveryRecipient => split <;> exact k
  all_goals exact onEng_clocked k _

/-- Settles O24: by the command at the front of the queue, or by one LOSC period. -/
theorem everyStepKeepsTheHighwayAndTheClockSound : Obligations.EveryStepKeepsTheHighwayAndTheClockSound := by
  intro s t k h
  unfold step at h
  split at h
  · cases h
    exact losc_clocked k
  · exact exec_clocked _ h (s := { s with pending := _ }) k

end Sys2Proof.Machine

namespace Sys2Proof.Machine

/-! Proofs about section 2: what the session engine and the arbiter keep, once for every property of the blocks. -/

/-! ## A property that the blocks' operations keep -/

/-- A property of the blocks that every operation the session engine is made of keeps. What the engine does in larger steps (the ends of takes and
playings, window ends, fetches) then keeps it too; each lemma of this section is one such step. -/
structure Engine.Kept (P : Engine → Prop) : Prop where
  session : ∀ k f e, P e → P (e.modSession k f)
  slots : ∀ i o e, P e → P { e with slotsIn := i, slotsOut := o }
  programs : ∀ q e, P e → P (e.modSsc (fun c => { c with progQueue := q }))
  reads : ∀ q e, P e → P (e.modSsc (fun c => { c with readQueue := q }))
  unwant : ∀ k t e, P e → P (e.unwant k t)
  begun : ∀ b (f : Nat → Nat) e, P e → P (e.modHold b (fun h => { h with begun := f h.begun }))
  charge : ∀ m f e, P e → P (e.charge m f)
  lamps : ∀ f e, P e → P (e.modLmp f)
  raise : ∀ k d e, P e → P (e.raise k d)
  cut : ∀ b first last e, P e → P (e.cutChain b first last)
  seals : ∀ b o n e, P e → P (e.sealBody b o n)
  free : ∀ r e, P e → P (e.freeRecord r)
  abandon : ∀ m g e, P e → P (e.abandonGreeting m g)
  sealed : ∀ r c e, P e → P (e.recordSealed r c)
  replace : ∀ m g e, P e → P (e.replaceGreeting m g)
  reader : ∀ b e, P e → P (e.dropReader b)
  target : ∀ now c n x e, P e → P (e.playTarget now c n x)

/-- Either way kept, so kept. -/
theorem ite_kept {P : Engine → Prop} {c : Prop} [Decidable c] {x y : Engine} (hx : P x) (hy : P y) : P (if c then x else y) := by
  split
  · exact hx
  · exact hy

theorem foldl_kept {α : Type} {P : Engine → Prop} {g : Engine → α → Engine} (hg : ∀ e x, P e → P (g e x)) :
    ∀ (l : List α) {e : Engine}, P e → P (l.foldl g e)
  | [], _, h => h
  | x :: l, _, h => foldl_kept hg l (hg _ x h)

namespace Engine.Kept

variable {P : Engine → Prop} {e : Engine}

theorem setSession (hP : Kept P) {k : Nat} {x : Session} (h : P e) : P (e.setSession k x) := hP.session k (fun _ => x) e h

theorem modBuf (hP : Kept P) {k b : Nat} {f : Buffer → Buffer} (h : P e) : P (e.modBuf k b f) := hP.session k _ e h

theorem releaseSlots (hP : Kept P) {k : Nat} (h : P e) : P (e.releaseSlots k) := by
  unfold Engine.releaseSlots
  exact hP.session k _ _ (hP.slots _ _ e h)

theorem bindSlots (hP : Kept P) {k : Nat} {i o : Option Nat} (h : P e) : P (e.bindSlots k i o) := hP.slots _ _ e h

theorem freeSession (hP : Kept P) {k : Nat} (h : P e) : P (e.freeSession k) := hP.session k _ _ (hP.releaseSlots h)

theorem enterEnded (hP : Kept P) {k : Nat} {c : Cause} (h : P e) : P (e.enterEnded k c) := by
  have h1 := hP.session k (fun x => { x with state := .ended, outcome := some c, endCause := none }) e h
  exact ite_kept (hP.freeSession h1) (ite_kept (hP.freeSession (hP.raise _ _ _ h1)) (hP.raise _ _ _ h1))

theorem withdrawPrograms (hP : Kept P) {k : Nat} {t : ProgReq → Bool} (h : P e) : P (e.withdrawPrograms k t) :=
  foldl_kept (fun _ _ h => hP.modBuf h) _ (hP.programs _ e h)

theorem withdrawReads (hP : Kept P) {k : Nat} (h : P e) : P (e.withdrawReads k) := by
  have h2 : P ((e.ssc.readQueue.filter (fun r => r.session = k)).foldl (fun e r => e.modBuf k r.buf Buffer.idled)
      (e.modSsc (fun c => { c with readQueue := c.readQueue.filter (fun r => r.session ≠ k) }))) :=
    foldl_kept (fun _ _ h => hP.modBuf h) _ (hP.reads _ e h)
  unfold Engine.withdrawReads
  dsimp only
  split
  · exact ite_kept (hP.modBuf h2) h2
  · exact h2

theorem refund (hP : Kept P) {k n : Nat} (h : P e) : P (e.refund k n) :=
  ite_kept (hP.charge _ _ _ (hP.begun _ (· - n) e h)) (hP.begun _ (· - n) e h)

theorem handInputs (hP : Kept P) {m : Nat} (h : P e) : P (e.handInputs m) := by
  unfold Engine.handInputs
  split
  · exact h
  · exact ite_kept h (ite_kept h (hP.lamps _ _ h))

theorem handAll (hP : Kept P) {ms : List Nat} (h : P e) : P (e.handAll ms) := foldl_kept (fun _ _ h => hP.handInputs h) _ h

theorem handTake (hP : Kept P) {k : Nat} (h : P e) : P (e.handTake k) := ite_kept (hP.handInputs h) h

theorem idleFilling (hP : Kept P) {k : Nat} (h : P e) : P (e.idleFilling k) := hP.session k _ e h

theorem discard (hP : Kept P) {k : Nat} (h : P e) : P (e.discard k) := by
  unfold Engine.discard
  extract_lets e1 x e2 e3
  have h1 : P e1 := hP.idleFilling (hP.unwant _ _ _ (hP.withdrawPrograms h))
  have h2 : P e2 := hP.refund h1
  refine hP.session k _ _ ?_
  unfold e3
  split
  · exact h2
  · exact hP.free _ _ h2
  · exact hP.abandon _ _ _ h2

theorem handBuffer (hP : Kept P) {k : Nat} (h : P e) : P (e.handBuffer k) := by
  unfold Engine.handBuffer
  extract_lets x
  split
  · exact h
  · exact hP.programs (_ ++ [_]) _ (hP.modBuf h)

theorem applyTrim (hP : Kept P) {k : Nat} {t : Trim} (h : P e) : P (e.applyTrim k t) := by
  unfold Engine.applyTrim
  extract_lets x out begun dataLen goneData goneWaiting goneFlight goneFilling gone e1 e2
  have h1 : P e1 := hP.withdrawPrograms (hP.unwant _ _ _ (hP.cut _ _ _ _ h))
  have h2 : P e2 := ite_kept (hP.idleFilling h1) (hP.handBuffer h1)
  exact hP.session k _ _ (hP.handTake (hP.refund h2))

theorem checkDrained (hP : Kept P) {k : Nat} (h : P e) : P (e.checkDrained k) := by
  unfold Engine.checkDrained
  extract_lets x
  split
  · exact h
  · refine ite_kept (hP.enterEnded ?_) h
    have h1 := fun o n => hP.seals x.bodyNo o n e h
    split
    · exact h1 _ _
    · exact hP.sealed _ _ _ (h1 _ _)
    · exact hP.replace _ _ _ (h1 _ _)

theorem endTake (hP : Kept P) {k : Nat} {c : Cause} {cap : Option Nat} (h : P e) : P (e.endTake k c cap) := by
  unfold Engine.endTake
  extract_lets x e0
  have h0 : P e0 := hP.releaseSlots (hP.session k _ e h)
  clear_value e0 x
  split
  · extract_lets last startS endS t
    exact ite_kept (hP.enterEnded (hP.discard (hP.session k _ _ h0))) (hP.checkDrained (hP.session k _ _ (hP.applyTrim h0)))
  · exact hP.enterEnded (hP.discard h0)

theorem startBuffer (hP : Kept P) {k : Nat} (h : P e) : P (e.startBuffer k) := by
  unfold Engine.startBuffer
  extract_lets x
  split
  · exact hP.endTake h
  · have h2 := fun b f => hP.begun x.bodyNo (· + 1) _ (hP.modBuf (k := k) (b := b) (f := f) h)
    exact ite_kept (hP.endTake h) (ite_kept (hP.handInputs (hP.charge _ _ _ (h2 _ _))) (h2 _ _))

theorem fullBuffer (hP : Kept P) {k : Nat} (h : P e) : P (e.fullBuffer k) := ite_kept (hP.startBuffer (hP.handBuffer h)) h

theorem closeWindow (hP : Kept P) {k : Nat} (h : P e) : P (e.closeWindow k) := by
  unfold Engine.closeWindow
  extract_lets x w
  refine ite_kept h ?_
  split
  · extract_lets m1 e1 toState
    have h1 : P e1 := hP.session k _ e h
    have ht : ∀ st, P (toState st) := fun st => hP.fullBuffer (hP.session k _ _ h1)
    clear_value e1 toState
    split
    · exact ite_kept (ht _) (hP.fullBuffer h1)
    · exact ite_kept (ht _) (ite_kept (hP.endTake h1) (hP.fullBuffer h1))
    · exact ite_kept (hP.endTake h1) (ite_kept (hP.endTake h1) (hP.fullBuffer h1))
  · exact h

theorem closeWindows (hP : Kept P) (h : P e) : P e.closeWindows := foldl_kept (fun _ _ h => hP.closeWindow h) _ h

theorem storeFull (hP : Kept P) {r : ProgReq} (h : P e) : P (e.storeFull r) := by
  unfold Engine.storeFull
  extract_lets k n e1 x cap
  have h1 : P e1 := hP.refund (hP.withdrawPrograms (hP.modBuf h))
  clear_value e1 x cap
  refine ite_kept (hP.endTake h1) (ite_kept ?_ h1)
  split
  · extract_lets endS t1 e2
    have h2 : P e2 := hP.session k _ _ h1
    exact ite_kept (hP.enterEnded (hP.discard h2)) (hP.checkDrained (hP.handTake h2))
  · exact h1

theorem fetchOne (hP : Kept P) {k : Nat} (h : P e) : P (e.fetchOne k) := by
  unfold Engine.fetchOne
  extract_lets x chain cur
  refine ite_kept h ?_
  split
  · exact hP.reads (_ ++ [_]) _ (hP.modBuf h)
  · exact h

theorem fetch (hP : Kept P) {k : Nat} (h : P e) : P (e.fetch k) := hP.fetchOne (hP.fetchOne h)

theorem endPlay (hP : Kept P) {now : Now} {k : Nat} {c : Cause} (h : P e) : P (e.endPlay now k c) :=
  hP.enterEnded (hP.target _ _ _ _ _ (hP.reader _ _ (hP.releaseSlots (hP.session k _ _ (hP.withdrawReads h)))))

theorem outTaken (hP : Kept P) {now : Now} {k : Nat} (h : P e) : P (e.outTaken now k) := by
  unfold Engine.outTaken
  extract_lets e1 x e2
  have h1 : P e1 := hP.session k _ e h
  have h2 : P e2 := hP.session k _ _ h1
  clear_value e1 x e2
  exact ite_kept (ite_kept (hP.endPlay h2) (ite_kept (hP.fetch (hP.session k _ _ h2)) h2)) h1

theorem voiceFrame (hP : Kept P) {now : Now} {hrx : List Byte} (h : P e) : P (e.voiceFrame now hrx) :=
  foldl_kept (fun _ _ h => hP.session _ _ _ h) _ (foldl_kept (fun _ _ h => hP.outTaken h) _ h)

theorem readHanded (hP : Kept P) {k b : Nat} (h : P e) : P (e.readHanded k b) := by
  unfold Engine.readHanded
  extract_lets x cur isCur e1 e2
  have h1 : P e1 := hP.modBuf h
  exact hP.fetch (ite_kept (hP.session k _ _ h1) h1)

theorem stopSession (hP : Kept P) {now : Now} {k : Nat} (h : P e) : P (e.stopSession now k) :=
  ite_kept (hP.endTake h) (ite_kept (hP.endPlay h) h)

theorem cancelSession (hP : Kept P) {now : Now} {k : Nat} (h : P e) : P (e.cancelSession now k) :=
  ite_kept (hP.enterEnded (hP.releaseSlots (hP.discard (hP.session k _ e h)))) (ite_kept (hP.endPlay h) h)

theorem closeSession (hP : Kept P) {now : Now} {k : Nat} (h : P e) : P (e.closeSession now k) :=
  ite_kept (hP.freeSession h) (hP.stopSession (hP.session k _ e h))

theorem seekSession (hP : Kept P) {now : Now} {k c : Nat} (h : P e) : P (e.seekSession now k c) := by
  have h1 := hP.session k (fun x => { x with cursor := c }) e h
  exact ite_kept (hP.endPlay h1) (hP.fetch (hP.session k _ _ (hP.session k _ _ (hP.withdrawReads h1))))

theorem loseSession (hP : Kept P) {now : Now} {k : Nat} (h : P e) : P (e.loseSession now k) := by
  unfold Engine.loseSession
  extract_lets st e1
  have h1 : P e1 := hP.session k _ e h
  exact ite_kept (hP.endTake h1) (ite_kept (hP.endPlay h1) h)

theorem freezeSession (hP : Kept P) {k : Nat} (h : P e) : P (e.freezeSession k) := by
  unfold Engine.freezeSession
  extract_lets x e1 unread e2 e3
  have h1 : P e1 := hP.releaseSlots h
  have hunread : P unread := hP.reader _ _ (hP.session k _ _ h1)
  have h2 : P e2 := by
    refine ite_kept ?_ h1
    split
    · exact ite_kept (hP.modBuf hunread) hunread
    · exact hunread
  exact ite_kept h (hP.raise _ _ _ (hP.session k _ _ h2))

end Engine.Kept

end Sys2Proof.Machine

namespace Sys2Proof.Machine

/-! Proofs about section 4: what the part does at once after a command keeps, and the notices and flags that the blocks add to the channel. -/

/-! ## Settling -/

/-- A property kept by the session engine, by the ends of jobs, and by the starts of store operations. -/
structure Engine.Served (P : Engine → Prop) : Prop extends Engine.Kept P where
  flush : ∀ t e, P e → P (e.flush t)
  job : ∀ j e, e.dle.due = some j → P e → P (e.endJob j)
  erase : ∀ e, P e → P e.startErase
  read : ∀ e, P e → P e.startRead
  program : ∀ r i is e, e.ssc.freeList = i :: is → P e → P (e.startProgram r i)

namespace Engine.Served

variable {P : Engine → Prop} {e : Engine}

theorem endJobs (hP : Served P) : ∀ (n : Nat) {e : Engine}, P e → P (e.endJobs n)
  | 0, _, h => h
  | n + 1, e, h => by
    unfold Engine.endJobs
    refine ite_kept h ?_
    split
    · exact h
    · next j hd => exact hP.endJobs n (hP.job j _ hd h)

theorem chooseProgram (hP : Served P) (h : P e) : P e.chooseProgram := by
  unfold Engine.chooseProgram
  split
  · exact h
  case h_2 hf => exact hP.program _ _ _ _ hf h
  · exact hP.flush _ _ (hP.storeFull (hP.programs _ _ h))

theorem arbitrate (hP : Served P) : ∀ (n : Nat) {e : Engine}, P e → P (e.arbitrate n)
  | 0, _, h => h
  | n + 1, _, h =>
    have hnext := hP.arbitrate n (hP.chooseProgram h)
    ite_kept h (ite_kept (hP.erase _ h) (ite_kept hnext (ite_kept (hP.read _ h) (ite_kept hnext (ite_kept (hP.erase _ h) h)))))

theorem settle (hP : Served P) (h : P e) : P e.settle :=
  hP.arbitrate _ (hP.flush _ _ (hP.endJobs _ (hP.flush _ _ h)))

end Engine.Served

/-! ## Properties that every update keeps -/

/-- A property that every update of the blocks keeps, a raised event among them. -/
structure Engine.Loose (P : Engine → Prop) : Prop where
  session : ∀ k f e, P e → P (e.modSession k f)
  slots : ∀ i o e, P e → P { e with slotsIn := i, slotsOut := o }
  ssc : ∀ f e, P e → P (e.modSsc f)
  hold : ∀ b f e, P e → P (e.modHold b f)
  counter : ∀ m f e, P e → P (e.modCounter m f)
  lamps : ∀ f e, P e → P (e.modLmp f)
  jobs : ∀ f e, P e → P (e.modDle f)
  put : ∀ w e, P e → P (e.put w)
  queue : ∀ q a e, P e → P { e with catQueue := q, asked := a }
  raise : ∀ k d e, P e → P (e.raise k d)

namespace Engine.Loose

variable {P : Engine → Prop} {e : Engine}

theorem flush (hP : Loose P) {t : Then} (h : P e) : P (e.flush t) :=
  ite_kept h (ite_kept (hP.queue e.catQueue _ _ h) (hP.queue _ _ _ h))

theorem examinePool (hP : Loose P) (h : P e) : P e.examinePool :=
  ite_kept h (ite_kept (hP.raise _ _ _ (hP.ssc _ _ h)) (ite_kept (hP.raise _ _ _ (hP.ssc _ _ h)) h))

theorem makeDirty (hP : Loose P) {i : Nat} (h : P e) : P (e.makeDirty i) := ite_kept (hP.examinePool (hP.ssc _ _ (hP.put _ _ h))) h

theorem makeAllDirty (hP : Loose P) {is : List Nat} (h : P e) : P (e.makeAllDirty is) := foldl_kept (fun _ _ h => hP.makeDirty h) _ h

theorem cutChain (hP : Loose P) {b first last : Nat} (h : P e) : P (e.cutChain b first last) := by
  unfold Engine.cutChain
  split
  · exact h
  · extract_lets chain head kept tail e1
    refine ite_kept h (hP.flush (hP.put _ _ ?_))
    unfold e1
    split
    · exact ite_kept h (hP.put _ _ h)
    · exact h

theorem releaseIfUnheld (hP : Loose P) {b : Nat} (h : P e) : P (e.releaseIfUnheld b) := by
  unfold Engine.releaseIfUnheld
  split
  · exact h
  · exact ite_kept (hP.hold _ _ _ (hP.put _ _ (hP.makeAllDirty h))) h

theorem modShare (hP : Loose P) {b : Nat} {f : Nat → Nat} (h : P e) : P (e.modShare b f) := by
  unfold Engine.modShare
  split
  · exact h
  · exact hP.put _ _ h

theorem dropShare (hP : Loose P) {b : Nat} (h : P e) : P (e.dropShare b) := hP.releaseIfUnheld (hP.modShare h)

theorem handInputs (hP : Loose P) {m : Nat} (h : P e) : P (e.handInputs m) := by
  unfold Engine.handInputs
  split
  · exact h
  · exact ite_kept h (ite_kept h (hP.lamps _ _ h))

theorem changeRecord (hP : Loose P) {r : Nat} {x y : Record} (h : P e) : P (e.changeRecord r x y) :=
  ite_kept h (ite_kept (hP.put _ _ h) (hP.handInputs (hP.counter _ _ _ (hP.put _ _ h))))

theorem clearTargets (hP : Loose P) {r : Nat} (h : P e) : P (e.clearTargets r) :=
  foldl_kept (fun _ _ h => ite_kept (hP.session _ _ _ h) h) _ h

theorem unlinkRecord (hP : Loose P) {r : Nat} {x : Record} (h : P e) : P (e.unlinkRecord r x) := by
  unfold Engine.unlinkRecord
  extract_lets e1 e2
  have h1 : P e1 := by
    unfold e1
    split <;> exact hP.put _ _ h
  have h2 : P e2 := by
    unfold e2
    split <;> exact hP.put _ _ h1
  exact hP.put _ _ h2

theorem freeRecordQuietly (hP : Loose P) {r : Nat} (h : P e) : P (e.freeRecordQuietly r) := by
  unfold Engine.freeRecordQuietly
  split
  · exact h
  · exact hP.dropShare (hP.clearTargets (hP.counter _ _ _ (hP.counter _ _ _ (hP.unlinkRecord h))))

theorem freeRecord (hP : Loose P) {r : Nat} (h : P e) : P (e.freeRecord r) := by
  unfold Engine.freeRecord
  split
  · exact h
  · exact hP.handInputs (hP.freeRecordQuietly h)

theorem sealBody (hP : Loose P) {b o n : Nat} (h : P e) : P (e.sealBody b o n) := by
  unfold Engine.sealBody
  split
  · exact h
  · exact hP.hold _ _ _ (hP.put _ _ h)

theorem recordSealed (hP : Loose P) {r : Nat} {c : Bool} (h : P e) : P (e.recordSealed r c) := by
  unfold Engine.recordSealed
  split
  · exact h
  · exact hP.changeRecord h

theorem replaceGreeting (hP : Loose P) {m : Nat} {g : GreetingKind} (h : P e) : P (e.replaceGreeting m g) := by
  unfold Engine.replaceGreeting
  extract_lets x e1
  split
  · exact hP.put _ _ h
  · exact hP.dropShare (hP.put _ _ h)

theorem abandonGreeting (hP : Loose P) {m : Nat} {g : GreetingKind} (h : P e) : P (e.abandonGreeting m g) := by
  unfold Engine.abandonGreeting
  extract_lets x e1
  split
  · exact hP.put _ _ h
  · exact hP.dropShare (hP.put _ _ h)

theorem playTarget (hP : Loose P) {now : Now} {c : Cause} {n : Nat} {x : Session} (h : P e) : P (e.playTarget now c n x) := by
  unfold Engine.playTarget
  split
  · split
    · exact h
    · exact ite_kept (hP.changeRecord h) (ite_kept (hP.changeRecord h) h)
  · exact h

theorem endJob (hP : Loose P) {j : Job} (h : P e) : P (e.endJob j) :=
  hP.raise _ _ _ (hP.releaseIfUnheld (hP.hold _ _ _ (hP.jobs _ _ h)))

theorem startErase (hP : Loose P) (h : P e) : P e.startErase := by
  unfold Engine.startErase
  split
  · exact h
  · exact hP.ssc _ _ h

theorem startRead (hP : Loose P) (h : P e) : P e.startRead := by
  unfold Engine.startRead
  split
  · exact h
  · exact hP.ssc _ _ h

theorem kept (hP : Loose P) : Kept P where
  session := hP.session
  slots := hP.slots
  programs _ _ h := hP.ssc _ _ h
  reads _ _ h := hP.ssc _ _ h
  unwant _ _ _ h := hP.ssc _ _ h
  begun _ _ _ h := hP.hold _ _ _ h
  charge _ _ _ h := hP.counter _ _ _ h
  lamps := hP.lamps
  raise := hP.raise
  cut _ _ _ _ h := hP.cutChain h
  seals _ _ _ _ h := hP.sealBody h
  free _ _ h := hP.freeRecord h
  abandon _ _ _ h := hP.abandonGreeting h
  sealed _ _ _ h := hP.recordSealed h
  replace _ _ _ h := hP.replaceGreeting h
  reader _ _ h := hP.releaseIfUnheld (hP.hold _ _ _ h)
  target _ _ _ _ _ h := hP.playTarget h

theorem served (hP : Loose P) : Served P where
  toKept := hP.kept
  flush _ _ h := hP.flush h
  job _ _ _ h := hP.endJob h
  erase _ h := hP.startErase h
  read _ h := hP.startRead h
  program _ _ _ _ _ h := hP.examinePool (hP.flush (hP.put _ _ (hP.ssc _ _ h)))

end Engine.Loose

/-! ## The channel through the work of the blocks -/

/-- From e to g the channel has gained notices and flags, and nothing else of it has changed. -/
def Engine.Notes (e g : Engine) : Prop :=
  ∃ ps f, g.mgc = { e.mgc with outbox := e.mgc.outbox ++ ps, flags := e.mgc.flags ||| f }

theorem Engine.Notes.refl (e : Engine) : e.Notes e := ⟨[], 0, by simp⟩

theorem Engine.Notes.trans {a b c : Engine} (h : a.Notes b) (k : b.Notes c) : a.Notes c := by
  obtain ⟨ps, f, h⟩ := h
  obtain ⟨qs, g, k⟩ := k
  exact ⟨ps ++ qs, f ||| g, by rw [k, h]; simp [BitVec.or_assoc]⟩

theorem raise_notes (k : NoticeKind) (d : List Byte) (e : Engine) : e.Notes (e.raise k d) := by
  obtain ⟨ps, hps⟩ := raise_outbox_mono k d e
  exact ⟨ps, k.bit, by rw [← hps]; rfl⟩

theorem notes_loose (a : Engine) : Engine.Loose a.Notes where
  session _ _ _ h := h
  slots _ _ _ h := h
  ssc _ _ h := h
  hold _ _ _ h := h
  counter _ _ _ h := h
  lamps _ _ h := h
  jobs _ _ h := h
  put _ _ h := h
  queue _ _ _ h := h
  raise _ _ e h := h.trans (raise_notes _ _ e)

theorem Engine.Notes.inbox {e g : Engine} (h : e.Notes g) : g.mgc.inbox = e.mgc.inbox := by obtain ⟨ps, f, h⟩ := h; rw [h]
theorem Engine.Notes.handling {e g : Engine} (h : e.Notes g) : g.mgc.handling = e.mgc.handling := by obtain ⟨ps, f, h⟩ := h; rw [h]
theorem Engine.Notes.restart {e g : Engine} (h : e.Notes g) : g.mgc.restart = e.mgc.restart := by obtain ⟨ps, f, h⟩ := h; rw [h]
theorem Engine.Notes.rx {e g : Engine} (h : e.Notes g) : g.mgc.rx = e.mgc.rx := by obtain ⟨ps, f, h⟩ := h; rw [h]
theorem Engine.Notes.handed {e g : Engine} (h : e.Notes g) : g.mgc.handed = e.mgc.handed := by obtain ⟨ps, f, h⟩ := h; rw [h]

/-- A packet placed stays in the outbox. -/
theorem Engine.Notes.mem {e g : Engine} (h : e.Notes g) {p : List Byte} (hp : p ∈ e.mgc.outbox) : p ∈ g.mgc.outbox := by
  obtain ⟨ps, f, h⟩ := h
  rw [h]
  exact List.mem_append_left _ hp

/-- A flag set stays set. -/
theorem Engine.Notes.flagged {e g : Engine} (h : e.Notes g) {k : NoticeKind} (hk : e.mgc.flags &&& k.bit = k.bit) :
    g.mgc.flags &&& k.bit = k.bit := by
  obtain ⟨ps, f, h⟩ := h
  rw [h]
  rw [and_bit_eq_bit_iff] at hk ⊢
  simp [hk]

theorem settle_notes (e : Engine) : e.Notes e.settle := (notes_loose e).served.settle (Engine.Notes.refl e)

/-- Where no order can be taken, none can after notices have been placed. -/
theorem Engine.Notes.canTake {e g : Engine} (h : e.Notes g) (hs : g.ssc.service = e.ssc.service) (hc : e.canTake = false) : g.canTake = false := by
  obtain ⟨ps, f, h⟩ := h
  unfold Engine.canTake at hc ⊢
  rw [h, hs]
  simp only [Bool.and_eq_false_iff, decide_eq_false_iff_not] at hc ⊢
  rcases hc with ((h | h) | h) | h
  · exact .inl (.inl (.inl h))
  · exact .inl (.inl (.inr h))
  · refine .inl (.inr fun hlt => h (lt_of_le_of_lt ?_ hlt))
    simp
  · exact .inr h

end Sys2Proof.Machine

namespace Sys2Proof.Machine

/-! Proofs about the machine: what every command but a reset keeps of the blocks, once for every property of the blocks. -/

/-- No check refuses, when each one passes. -/
theorem firstRefusal_none_iff : ∀ {cs : List (Bool × Result)}, firstRefusal cs = none ↔ ∀ c ∈ cs, c.1 = false
  | [] => by simp [firstRefusal]
  | (true, r) :: cs => by simp [firstRefusal]
  | (false, r) :: cs => by simp [firstRefusal, firstRefusal_none_iff (cs := cs)]

/-! ## A property that the work of the part keeps -/

/-! ## The channel at a frame boundary -/

@[simp] theorem lampRestart_mgc (s : State) : s.lampRestart.eng.mgc = s.eng.mgc := by
  unfold State.lampRestart
  split <;> rfl

@[simp] theorem setFrameNo_mgc (n : Option Nat) (s : State) : (s.setFrameNo n).eng.mgc = s.eng.mgc := by
  unfold State.setFrameNo
  dsimp only
  split
  · rfl
  · exact lampRestart_mgc _

@[simp] theorem numberFrame_mgc (k : SyncKind) (s : State) : (s.numberFrame k).eng.mgc = s.eng.mgc := by
  unfold State.numberFrame
  split
  · split
    · exact setFrameNo_mgc _ _
    · rfl
  · dsimp only
    split
    · rw [lampRestart_mgc, State.modHwi_eng, setFrameNo_mgc]
    · exact setFrameNo_mgc _ _

@[simp] theorem alignFrame_mgc (k : SyncKind) (s : State) : (s.alignFrame k).eng.mgc = s.eng.mgc := by
  unfold State.alignFrame
  split <;> exact setFrameNo_mgc _ _

/-- Entering SEARCH, the receiver stands or drops what it keeps (R199). -/
theorem enterSearch_receiver (s : State) : s.enterSearch.eng.mgc.rx = s.eng.mgc.rx ∨ s.enterSearch.eng.mgc.rx = none := by
  have h1 : (s.loseHighwayClock.setFrameNo none).eng.mgc.rx = s.eng.mgc.rx := by rw [setFrameNo_mgc, loseHighwayClock_eng]
  unfold State.enterSearch
  dsimp only
  split
  · exact .inl h1
  · exact .inr rfl

theorem boundary_receiver (k : Option SyncKind) {s : State} (h : s.hwi.pulseDue = false) :
    (s.boundary k).eng.mgc.rx = s.eng.mgc.rx ∨ (s.boundary k).eng.mgc.rx = none := by
  unfold State.boundary
  rw [takePulse_none h]
  dsimp only
  split
  · exact .inl rfl
  · exact .inl (congrArg Mgc.rx (alignFrame_mgc _ _))
  · exact enterSearch_receiver s
  case h_4 k _ =>
    have h1 := congrArg Mgc.rx (alignFrame_mgc k (s.modHwi (fun h => { h with confirms := h.confirms + 1 })))
    split
    · exact .inl h1
    · exact .inl h1
  · exact .inl rfl
  · exact .inl (congrArg Mgc.rx (numberFrame_mgc _ s))
  · split
    · exact enterSearch_receiver s.divideFrame
    · exact .inl rfl
  · exact .inl (congrArg Mgc.rx (numberFrame_mgc _ (s.modHwi _)))

/-- From g to h no packet comes into the channel: the receiver stands or drops what it keeps, and orders leave the inbox from its head. -/
def Mgc.Drops (g h : Mgc) : Prop := (h.rx = g.rx ∨ h.rx = none) ∧ ∃ n, h.inbox = g.inbox.drop n

theorem Mgc.Drops.of_eq {g h : Mgc} (hr : h.rx = g.rx) (hi : h.inbox = g.inbox) : g.Drops h := ⟨.inl hr, 0, hi⟩

/-- A property of the blocks that everything the blocks do outside a store check keeps. Each field is one thing that a block does, and says what of the
part it may lean on. -/
structure Engine.Worked (P : Engine → Prop) : Prop extends Engine.Served P where
  /- The channel. -/
  channel : ∀ f e, e.mgc.Drops (f e.mgc) → P e → P (e.modMgc f)
  byteIn : ∀ b e, P e → P (e.rxByte b).1
  packetIn : ∀ code tag ps e, P e → P (e.goodPacket (code :: tag :: ps))
  queue : ∀ q a e, P e → P { e with catQueue := q, asked := a }
  write : ∀ (w : CatWrite) e, P e → P { e with cat := w.apply e.cat }
  dirty : ∀ is e, P e → P (e.makeAllDirty is)
  pool : ∀ e, P e → P e.examinePool
  /- The store link. -/
  idle : ∀ e, P e → P e.freeLink
  retry : ∀ r n e, P e → P (e.modSsc (fun c => { c with link := .reading r n, opTimer := 0 }))
  issue : ∀ r i w e, e.ssc.link = .allocating r i w → P e → P (e.modSsc (fun c => { c with link := .programming r i w, opTimer := 0 }))
  stored : ∀ t e, P e → P (e.modSsc (fun c => { c with flash := t }))
  linked : ∀ r i w e, e.ssc.link = .programming r i w → P e → P (e.linkSegment r.body i).recordResult
  unlinked : ∀ r i w e, e.ssc.link = .programming r i w → P e → P (e.joinDirty i).recordResult
  retired : ∀ r i w n e, e.ssc.link = .programming r i w → P e →
    P (e.put (.segment i { state := .retired, body := none, next := none, eraseFailures := n })).recordResult
  erased : ∀ i e, e.ssc.link = .erasing i → P e → P (e.eraseDone i)
  kept : ∀ i c e, e.ssc.link = .erasing i → P e → P (e.eraseFailed i c)
  losc : ∀ e, P e → P { e with sessions := e.sessions.map (fun kx => (kx.1, kx.2.losc)), ssc := e.ssc.losc }
  /- Deliveries and the sweep. -/
  recipient : ∀ now e, P e → P (e.takeRecipient now)
  copied : ∀ e, P e → P (e.modRunning (fun j => { j with current := none }))
  examine : ∀ r day e, P e → P (e.examineEntry r day).1
  /- The service state. -/
  service : ∀ p e, e.ssc.start = some p → P e → P (e.modSsc (fun c => { c with service := .service, start := none }))
  freeze : ∀ e, P e → P (e.modSsc (fun c => { c with service := .frozen, start := none }))
  format : ∀ e, e.ssc.service = .service → P e → P (e.beginStart .format true)
  /- Orders. -/
  create : ∀ (q : OpenRecord) now e, e.mailbox q.mailbox ≠ none → (q.kind ≠ 0 → (e.slot q.mailbox q.slotKind).staged = none) → P e →
    P (q.target now e.freeBody e).2
  listen : ∀ b e, P e → P (e.modHold b (fun h => { h with readers := h.readers + 1 }))
  accept : ∀ r x j e, e.record r = some x → j.body = x.body → P e → P (e.acceptJob j)
  cancel : ∀ n e, P e → P (e.cancelJob n)
  clear : ∀ l e, P e → P (e.clearList l)
  add : ∀ l m e, m ∉ e.listMembers l → (e.list l).count < Config.listMembers → 0 < e.freeEntries → P e → P (e.addMember l m)
  cls : ∀ k c e, P e → P (e.put (.cls k c))
  settings : ∀ x e, P e → P (e.put (.settings x))
  fields : ∀ m f e, P e → P (e.put (.boxFields m f))
  mark : ∀ now r mk e, P e → P (e.markRecord now r mk)
  slot : ∀ m g e, P e → P (e.emptySlot m g)
  quietly : ∀ r e, P e → P (e.freeRecordQuietly r)

namespace Engine.Worked

variable {P : Engine → Prop} {e : Engine}

/-! ## The channel and the highway -/

theorem line (hP : Worked P) {g : Engine} (h : P e) (k : e.Line g) (hr : g.mgc.rx = e.mgc.rx ∨ g.mgc.rx = none) : P g := by
  obtain ⟨l, f, o, r, rfl⟩ := k
  exact hP.channel (fun _ => { e.mgc with flags := f, outbox := o, rx := r }) (e.modLmp (fun _ => l)) ⟨hr, 0, rfl⟩ (hP.lamps (fun _ => l) e h)

theorem rxRun (hP : Worked P) : ∀ (n : Nat) (bs : List Byte) {e : Engine}, P e → P (e.rxRun n bs)
  | 0, _, _, h => h
  | _ + 1, [], _, h => h
  | n + 1, b :: _, _, h => hP.rxRun n _ (hP.byteIn b _ h)

theorem mgmtIn (hP : Worked P) {b : Byte} (h : P e) : P (e.mgmtIn b) := hP.rxRun _ _ h

theorem mgmtOut (hP : Worked P) (h : P e) : P e.mgmtOut.2 := by
  unfold Engine.mgmtOut
  split
  · exact h
  · refine ite_kept ?_ (hP.channel _ _ (.of_eq rfl rfl) h)
    unfold Engine.packetLeft
    have h1 := hP.channel (fun g => { g with outbox := g.outbox.tail, handed := 0 }) e (.of_eq rfl rfl) h
    dsimp only
    split
    · refine ite_kept (hP.queue _ _ _ (hP.channel _ _ ⟨.inl rfl, e.mgc.inbox.length, ?_⟩ h1)) (hP.channel _ _ (.of_eq rfl rfl) h1)
      exact (List.drop_length).symm
    · exact h1

theorem lampFrame (hP : Worked P) {n : Option Nat} {b : Byte} (h : P e) : P (e.lampFrame n b).2 :=
  hP.line h (lampFrame_line n b e) (.inl ((congrArg Mgc.rx (lampFrame_mgc n b e)).trans rfl))

theorem traffic (hP : Worked P) {now : Now} {n : Option Nat} {hrx : List Byte} (h : P e) : P (e.traffic now n hrx).2 :=
  hP.voiceFrame (hP.lampFrame (hP.mgmtIn (hP.mgmtOut (hP.mgmtIn (hP.mgmtOut h)))))

theorem gateSecond (hP : Worked P) (h : P e) : P e.gateSecond := by
  obtain ⟨f, o, g, n, -, k⟩ := gateSecond_eq e
  rw [k]
  exact hP.channel (fun m => { m with flags := f, outbox := o, gateOpen := g, errorNoted := n }) e (.of_eq rfl rfl) h

theorem lampSecond (hP : Worked P) (h : P e) : P e.lampSecond :=
  ite_kept h (hP.lamps (fun l => { l with seconds := l.seconds + 1 }) e h)

theorem secondCounted (hP : Worked P) {s : State} (h : P s.eng) : P s.secondCounted.eng := by
  unfold State.secondCounted
  refine hP.gateSecond ?_
  dsimp only
  split <;> exact hP.lampSecond h

theorem takePulse (hP : Worked P) {s : State} (h : P s.eng) : P s.takePulse.eng := by
  unfold State.takePulse
  split
  · exact hP.secondCounted h
  · exact h

theorem takePulse_pulseDue (s : State) : s.takePulse.hwi.pulseDue = false := by
  unfold State.takePulse
  split
  · rw [secondCounted_hwi]
  case isFalse h => simpa using h

theorem boundary_takePulse (k : Option SyncKind) (s : State) : s.takePulse.boundary k = s.boundary k := by
  have h := takePulse_none (takePulse_pulseDue s)
  unfold State.boundary
  rw [h]

theorem boundary (hP : Worked P) {s : State} {k : Option SyncKind} (h : P s.eng) : P (s.boundary k).eng := by
  rw [← boundary_takePulse]
  exact hP.line (hP.takePulse h) (boundary_line k (takePulse_pulseDue s)) (boundary_receiver k (takePulse_pulseDue s))

theorem syncPulse (hP : Worked P) {s : State} {w : Nat} {x : Bool} (h : P s.eng) : P (s.syncPulse w x).eng := by
  unfold State.syncPulse
  split
  · exact h
  · split
    · exact hP.boundary h
    · exact h

theorem frame (hP : Worked P) {s : State} {hrx : List Byte} (h : P s.eng) : P (s.frame hrx).eng := by
  unfold State.frame
  extract_lets s1
  have h1 : P s1.eng := by
    unfold s1 State.beginFrame
    split
    · exact hP.closeWindows h
    · exact hP.boundary (hP.closeWindows h)
  split
  · exact hP.traffic h1
  · exact h1

theorem hclkLoss (hP : Worked P) {s : State} (h : P s.eng) : P s.hclkLoss.eng := by
  unfold State.hclkLoss
  dsimp only [State.modHwi_eng]
  split
  · exact h
  · exact hP.line (hP.takePulse h) (enterSearch_line _) (enterSearch_receiver _)

theorem localSecond (hP : Worked P) {s : State} (h : P s.eng) :
    P (if s.cal.source = .losc then ({ s with cal := { s.cal with subCount := 0 } } : State).secondCounted else s).eng := by
  split
  · exact hP.secondCounted h
  · exact h

/-! ## The store link and the catalogue -/

theorem readEnds (hP : Worked P) {r : ReadReq} {n : Nat} {c : Option StoreCause} (h : P e) : P (e.readEnds r n c) := by
  unfold Engine.readEnds
  extract_lets k e1
  refine ite_kept (hP.fetch (hP.idle _ (hP.modBuf h))) ?_
  split
  · exact hP.readHanded (hP.idle _ (hP.modBuf h))
  · exact ite_kept (hP.retry _ _ _ h) (hP.readHanded (hP.raise _ _ _ (hP.idle _ (hP.session _ _ _ (hP.modBuf h)))))

theorem programDone (hP : Worked P) {r : ProgReq} {i : Nat} {w : Bool} (hl : e.ssc.link = .programming r i w) (h : P e) :
    P (e.programDone r i w) := by
  unfold Engine.programDone
  extract_lets k e0 e1
  have h0 : P e0 := hP.stored _ _ h
  exact ite_kept (hP.checkDrained (hP.session _ _ _ (hP.modBuf (hP.linked _ _ _ _ hl h0))))
    (hP.fetch (hP.session _ _ _ (hP.modBuf (hP.unlinked _ _ _ _ hl h0))))

theorem programFailed (hP : Worked P) {r : ProgReq} {i : Nat} {w : Bool} {c : StoreCause} (hl : e.ssc.link = .programming r i w) (h : P e) :
    P (e.programFailed r i w c) := by
  unfold Engine.programFailed
  extract_lets k e1 e2
  have h2 : P e2 := hP.raise _ _ _ (hP.retired _ _ _ _ _ hl h)
  exact ite_kept (hP.programs (r :: e2.ssc.progQueue) _ h2) (hP.fetch (hP.modBuf h2))

theorem readComplete (hP : Worked P) {good : Bool} (h : P e) : P (e.readComplete good) := by
  unfold Engine.readComplete
  split
  · exact hP.readEnds h
  · exact h

theorem programComplete (hP : Worked P) {good : Bool} (h : P e) : P (e.programComplete good) := by
  unfold Engine.programComplete
  split
  case h_1 hl => exact ite_kept (hP.programDone hl h) (hP.programFailed hl h)
  · exact h

theorem eraseComplete (hP : Worked P) {good : Bool} (h : P e) : P (e.eraseComplete good) := by
  unfold Engine.eraseComplete
  split
  case h_1 hl => exact ite_kept (hP.erased _ _ hl h) (hP.kept _ _ _ hl h)
  · exact h

theorem opTimeout (hP : Worked P) (h : P e) : P e.opTimeout := by
  unfold Engine.opTimeout
  split
  · exact hP.readEnds h
  case h_2 hl => exact hP.programFailed hl h
  case h_3 hl => exact hP.kept _ _ _ hl h
  · exact h

theorem afterSeq (hP : Worked P) {t : Then} (h : P e) : P (e.afterSeq t) := by
  unfold Engine.afterSeq
  split
  · exact h
  · split
    case h_1 hl => exact hP.issue _ _ _ _ hl h
    · exact h
  · exact ite_kept (hP.idle _ h) h
  · exact hP.dirty _ _ h
  · exact hP.copied _ h
  · exact hP.channel _ _ (.of_eq rfl rfl) h

theorem writeDone (hP : Worked P) (h : P e) : P e.writeDone := by
  unfold Engine.writeDone
  split
  · exact h
  · split
    · exact hP.afterSeq (hP.queue _ e.asked _ h)
    · extract_lets e1
      have h1 : P e1 := hP.write _ _ h
      exact ite_kept (hP.afterSeq (hP.queue _ e1.asked _ h1)) (hP.queue _ e1.asked _ h1)

/-! ## The sweep, the lamps, the service state -/

theorem endSweep (hP : Worked P) {s : State} {n : Nat} (h : P s.eng) : P (s.endSweep n).eng := hP.raise _ _ _ h

theorem examination (hP : Worked P) {s : State} (h : P s.eng) : P s.examination.eng := by
  unfold State.examination
  split
  · exact hP.endSweep h
  · have h1 := hP.examine s.cal.sweep.pointer s.cal.dayNumber _ h
    dsimp only
    split
    · exact hP.endSweep h1
    · exact h1

theorem enterService (hP : Worked P) (h : P e) : P e.enterService := by
  unfold Engine.enterService
  split
  · exact h
  case h_2 p hp =>
    extract_lets e1
    have h1 : P e1 ∧ e1.ssc.start = some p := by
      unfold e1
      split
      · exact ⟨h, hp⟩
      · unfold Engine.handAtStart Engine.countLamps
        have hs : e.Steady (e.countLamps.handAll e.loadedBoxes) := handAll_steady (modLmp_steady (.refl e))
        exact ⟨hP.lamps _ _ (hP.handAll (hP.lamps _ _ h)), hs.start.trans hp⟩
    exact ite_kept h (hP.pool _ (hP.raise _ _ _ (hP.service p _ h1.2 h1.1)))

theorem freezePart (hP : Worked P) {s : State} (h : P s.eng) : P s.freeze.eng := by
  unfold State.freeze
  split
  · exact h
  · extract_lets e1 e2 e3
    have h1 : P e1 := hP.freeze _ h
    have h2 : P e2 := hP.channel _ _ (.of_eq rfl rfl) h1
    exact foldl_kept (fun _ _ h => hP.freezeSession h) _ (hP.lamps (fun l => { l with outCell := [] }) _ (hP.queue (haltQueue e2.catQueue) e2.asked _ h2))

/-! ## Orders -/

theorem addMembers (hP : Worked P) (l : Nat) : ∀ (ms : List Nat) (c : AddCounts) {e : Engine}, P e → P (e.addMembers l ms c).2
  | [], _, _, h => h
  | m :: ms, c, e, h => by
    unfold Engine.addMembers
    split
    · exact hP.addMembers l ms _ h
    case isFalse hm =>
      split
      case isTrue hr =>
        simp only [Bool.and_eq_true, decide_eq_true_eq] at hr
        exact hP.addMembers l ms _ (hP.add l m e (by simpa using hm) hr.1 hr.2 h)
      · exact h

theorem checked (_ : Worked P) {cs : List (Bool × Result)} {s : State} {act : Reply} (h : P s.eng)
    (ha : firstRefusal cs = none → P act.state.eng) : P (Reply.checked cs s act).state.eng := by
  unfold Reply.checked
  split
  · exact h
  case h_2 hc => exact ha hc

theorem openRecord (hP : Worked P) {ps : List Byte} {s : State} (h : P s.eng) : P (orderOpenRecord ps s).state.eng := by
  refine hP.checked h (fun hc => ?_)
  generalize OpenRecord.read ps = q at hc
  have hpass := firstRefusal_none_iff.1 hc
  have hbox : s.eng.mailbox q.mailbox ≠ none := fun hb => by
    have := hpass (boxLoaded q.mailbox s) (by simp [OpenRecord.checks])
    simp [boxLoaded, hb] at this
  have hslot : q.kind ≠ 0 → (s.eng.slot q.mailbox q.slotKind).staged = none := fun hk => by
    have := hpass ((s.eng.slot q.mailbox q.slotKind).busy, .wrongState) (by simp [OpenRecord.checks, OpenRecord.kindChecks, hk])
    simpa [Slot.busy] using this
  exact hP.startBuffer (hP.bindSlots (hP.setSession (hP.create q s.now _ hbox hslot h)))

theorem openPlay (hP : Worked P) {ps : List Byte} {s : State} (h : P s.eng) : P (orderOpenPlay ps s).state.eng := by
  refine hP.checked h (fun _ => ?_)
  split
  · exact h
  · exact hP.checked h (fun _ => hP.fetch (hP.bindSlots (hP.setSession (hP.listen _ _ h))))

theorem deliver (hP : Worked P) {ps : List Byte} {s : State} (h : P s.eng) : P (orderDeliver ps s).state.eng := by
  refine hP.checked h (fun _ => ?_)
  split
  case h_1 hx _ => exact hP.accept _ _ _ _ hx rfl h
  · exact h

theorem formatOrder (hP : Worked P) {ps : List Byte} {s : State} (hs : s.eng.ssc.service = .service) (h : P s.eng) :
    P (orderFormat ps s).state.eng := by
  refine hP.checked h (fun _ => ?_)
  exact hP.handAll (foldl_kept (fun _ _ h => foldl_kept (fun _ _ h => hP.slot _ _ _ h) _ h) _
    (foldl_kept (fun _ _ h => foldl_kept (fun _ _ h => hP.quietly _ _ h) _ h) _ (hP.format _ hs h)))

/-- What each order's owner does is kept. FORMAT reaches its owner in SERVICE alone. -/
theorem run (hP : Worked P) (o : Order) (ps : List Byte) {s : State} (hs : o = .format → s.eng.ssc.service = .service) (h : P s.eng) :
    P (o.run ps s).state.eng := by
  cases o <;> dsimp only [Order.run]
  case openRecord => exact hP.openRecord h
  case openPlay => exact hP.openPlay h
  case stop => exact hP.checked h (fun _ => hP.stopSession h)
  case cancel => exact hP.checked h (fun _ => hP.cancelSession h)
  case pause => exact hP.checked h (fun _ => by dsimp only [Reply.done]; split <;> [exact h; exact hP.session _ _ _ h])
  case resume => exact hP.checked h (fun _ => by dsimp only [Reply.done]; split <;> [exact hP.session _ _ _ h; exact h])
  case seek => exact hP.checked h (fun _ => hP.seekSession h)
  case close => exact hP.checked h (fun _ => hP.closeSession h)
  case sessionStatus => exact hP.checked h (fun _ => by dsimp only [Reply.done]; split <;> [exact hP.freeSession h; exact h])
  case list => exact hP.checked h (fun _ => h)
  case mark => exact hP.checked h (fun _ => hP.mark _ _ _ _ h)
  case delete => exact hP.checked h (fun _ => hP.free _ _ h)
  case purge =>
    exact hP.checked h (fun _ => foldl_kept (fun _ _ h => hP.slot _ _ _ h) _
      (hP.handInputs (foldl_kept (fun _ _ h => hP.quietly _ _ h) _ h)))
  case loadClass => exact hP.checked h (fun _ => hP.handAll (hP.cls _ _ _ h))
  case readClass => exact hP.checked h (fun _ => h)
  case loadMailbox =>
    refine hP.checked h (fun _ => ?_)
    split
    · exact h
    · exact hP.handInputs (hP.lamps _ _ (hP.fields _ _ _ h))
  case readMailbox =>
    refine hP.checked h (fun _ => ?_)
    split <;> exact h
  case selectGreeting =>
    refine hP.checked h (fun _ => ?_)
    dsimp only [Reply.done, State.onEng, Engine.setActive]
    split
    · exact h
    · exact ite_kept h (hP.fields _ _ _ h)
  case eraseGreeting => exact hP.checked h (fun _ => hP.slot _ _ _ h)
  case listClear => exact hP.checked h (fun _ => by dsimp only [Reply.done]; split <;> [exact h; exact hP.clear _ _ h])
  case listAdd => exact hP.checked h (fun _ => hP.addMembers _ _ _ h)
  case readList => exact hP.checked h (fun _ => h)
  case deliver => exact hP.deliver h
  case cancelDelivery => exact hP.checked h (fun _ => hP.cancel _ _ h)
  case clearFault =>
    unfold orderClearFault
    split
    · exact h
    · exact hP.lamps _ _ h
  case lampStatus =>
    unfold orderLampStatus
    split <;> exact h
  case setClock => exact hP.checked h (fun _ => h)
  case readClock => exact h
  case sweep => exact hP.checked h (fun _ => h)
  case status => exact h
  case setOptions =>
    unfold orderSetOptions
    split
    · exact h
    · exact ite_kept (hP.settings _ _ h) (hP.pool _ (hP.settings _ _ h))
  case readOptions => exact h
  case clearFlags => exact orderClearFlags_eq ps s ▸ hP.channel (Mgc.cleared (maskAt ps 0)) _ (.of_eq rfl rfl) h
  case format => exact hP.formatOrder (hs rfl) h
  case restart => exact hP.channel (fun g => { g with restart := .answering (g.outbox.length + 1) }) _ (.of_eq rfl rfl) h

theorem judgeOrder (hP : Worked P) {code : Byte} {ps : List Byte} {s : State} (hs : s.eng.ssc.service ≠ .frozen) (h : P s.eng) :
    P (s.judgeOrder code ps).state.eng := by
  unfold State.judgeOrder
  split
  · exact h
  case h_2 o ho =>
    split
    · exact h
    · split
      · exact h
      case isFalse hn =>
        refine hP.run o ps (fun hf => ?_) h
        subst hf
        cases hv : s.eng.ssc.service
        case service => rfl
        case starting => exact absurd (by rw [hv]; rfl) hn
        case frozen => exact absurd hv hs

theorem place (hP : Worked P) {tag : Byte} {r : Reply} (h : P r.state.eng) : P (r.place tag).eng :=
  hP.settle (ite_kept (hP.flush _ _ h) (hP.channel _ _ (.of_eq rfl rfl) h))

theorem takeOrder (hP : Worked P) {s : State} (h : P s.eng) : P s.takeOrder.eng := by
  unfold State.takeOrder
  split
  · split
    case isTrue hc =>
      refine hP.place (hP.judgeOrder ?_ (hP.channel _ _ ⟨.inl rfl, 1, List.drop_one.symm⟩ h))
      intro hf
      have hf : s.eng.ssc.service = .frozen := hf
      simp [Engine.canTake, hf] at hc
    · exact h
  · exact h

theorem takeOrders (hP : Worked P) : ∀ (n : Nat) {s : State}, P s.eng → P (s.takeOrders n).eng
  | 0, _, h => h
  | n + 1, _, h => hP.takeOrders n (hP.takeOrder h)

theorem finish (hP : Worked P) {s : State} (h : P s.eng) : P s.finish.eng := hP.takeOrders _ (hP.settle h)

theorem deliverOrder (hP : Worked P) {code tag : Byte} {ps : List Byte} {s : State} (h : P s.eng) : P (s.deliverOrder code tag ps).eng := by
  unfold State.deliverOrder
  split
  · exact h
  · exact hP.takeOrders _ (hP.packetIn _ _ _ _ h)

/-- Every event but a reset keeps it. -/
theorem event (hP : Worked P) (c : Instr) (hc : resets c = false) (hb : orderBody c = none) {s t : State} (h : P s.eng)
    (hex : exec c s = .next t) : P t.eng := by
  cases c <;> cases hb <;> cases hc <;> cases hex
  case freeze => exact hP.freezePart h
  case syncPulse => exact hP.finish (hP.syncPulse h)
  case frame => exact hP.finish (hP.frame h)
  case hclkLoss => exact hP.finish (hP.hclkLoss h)
  case secondsPulse => exact hP.finish (hP.takePulse h)
  case localSecond => exact hP.finish (hP.localSecond h)
  case windowEnd => exact hP.finish (hP.closeWindow h)
  case lossTimerExpiry => exact hP.finish (hP.loseSession (hP.closeWindow h))
  case retryDue =>
    refine hP.finish ?_
    split
    · exact hP.lamps _ _ h
    · exact h
  case readComplete => exact hP.finish (hP.readComplete h)
  case programComplete => exact hP.finish (hP.programComplete h)
  case eraseComplete => exact hP.finish (hP.eraseComplete h)
  case storeOpTimeout => exact hP.finish (hP.opTimeout h)
  case catalogueWriteComplete => exact hP.finish (hP.writeDone h)
  case enterService => exact hP.finish (hP.enterService h)
  case deliveryRecipient =>
    refine hP.finish ?_
    split
    · exact hP.recipient _ _ h
    · exact h
  case sweepExamination =>
    refine hP.finish ?_
    split
    · exact hP.examination h
    · exact h

/-- Every command but a reset keeps it. -/
theorem exec (hP : Worked P) (c : Instr) (hc : resets c = false) {s t : State} (h : P s.eng) (hex : exec c s = .next t) : P t.eng := by
  cases hb : orderBody c with
  | some body =>
    obtain ⟨code, tag, ps, -, hexec⟩ := exec_of_orderBody hb
    cases (hexec s).symm.trans hex
    exact hP.deliverOrder h
  | none => exact hP.event c hc hb h hex

/-- Every step keeps it, where a reset does. -/
theorem step (hP : Worked P) {s t : State} (h : P s.eng)
    (hreset : ∀ c rest, s.pending = c :: rest → resets c = true → Machine.exec c { s with pending := rest } = .next t → P t.eng)
    (hst : Machine.step s = .next t) : P t.eng := by
  unfold Machine.step at hst
  split at hst
  · cases hst
    exact hP.losc _ h
  case h_2 c rest hp =>
    cases hc : resets c with
    | true => exact hreset c rest hp hc hst
    | false => exact hP.exec (s := { s with pending := rest }) c hc h hst

end Engine.Worked

end Sys2Proof.Machine

namespace Sys2Proof.Machine

/-! Proofs about the state: which parts each operation of the blocks can change. -/

/-! ## Parts -/

theorem State.samePart_refl (s : State) (p : Part) : s.samePart s p := by
  cases p <;> simp only [State.samePart, and_self]

theorem State.samePart_trans {s t u : State} {p : Part} (h : s.samePart t p) (k : t.samePart u p) : s.samePart u p := by
  cases p <;> simp only [State.samePart] at h k ⊢ <;> simp only [h, k, and_self]

theorem State.keepsBut_refl (ps : List Part) (s : State) : s.keepsBut ps s := ⟨rfl, fun p _ => s.samePart_refl p⟩

theorem State.keepsBut_trans {ps : List Part} {s t u : State} (h : s.keepsBut ps t) (k : t.keepsBut ps u) : s.keepsBut ps u :=
  ⟨k.1.trans h.1, fun p hp => State.samePart_trans (h.2 p hp) (k.2 p hp)⟩

/-- Every part of a list stands in another. -/
def partsIn (ps qs : List Part) : Bool := ps.all (fun p => decide (p ∈ qs))

theorem mem_of_partsIn {ps qs : List Part} (h : partsIn ps qs = true) {p : Part} (hp : p ∈ ps) : p ∈ qs := by
  simpa using List.all_eq_true.1 h p hp

theorem State.keepsBut_mono {ps qs : List Part} {s t : State} (h : s.keepsBut ps t) (hsub : partsIn ps qs = true) : s.keepsBut qs t :=
  ⟨h.1, fun p hp => h.2 p (fun k => hp (mem_of_partsIn hsub k))⟩

/-- Of the blocks, from e to g, only the parts listed can have changed. -/
def Engine.Within (ps : List Part) (e g : Engine) : Prop := ∀ s : State, ({ s with eng := e } : State).keepsBut ps { s with eng := g }

namespace Engine.Within

variable {ps qs : List Part} {a b c e : Engine}

theorem refl (ps : List Part) (e : Engine) : Within ps e e := fun _ => State.keepsBut_refl ps _

theorem trans (h : Within ps a b) (k : Within ps b c) : Within ps a c := fun s => State.keepsBut_trans (h s) (k s)

theorem mono (h : Within ps a b) (hsub : partsIn ps qs = true) : Within qs a b := fun s => State.keepsBut_mono (h s) hsub

/-- One more operation, of parts already listed. -/
theorem step (h : Within ps a b) (k : Within qs b c) (hsub : partsIn qs ps = true) : Within ps a c := h.trans (k.mono hsub)

theorem ite {p : Prop} [Decidable p] (h : Within ps a b) (k : Within ps a c) : Within ps a (if p then b else c) := by
  split
  · exact h
  · exact k

theorem foldl {α : Type} {g : Engine → α → Engine} (hg : ∀ e x, Within ps e (g e x)) : ∀ (l : List α) (e : Engine), Within ps e (l.foldl g e)
  | [], e => refl ps e
  | x :: l, e => (hg e x).trans (foldl hg l (g e x))

theorem same (h : Within ps e a) (s : State) (p : Part) (hp : p ∉ ps) : State.samePart { s with eng := e } { s with eng := a } p :=
  (h s).2 p hp

/-- A state whose blocks alone have changed, within some parts. -/
theorem keepsBut {s t : State} (h : Within ps s.eng t.eng) (hh : t.hwi = s.hwi) (hc : t.cal = s.cal) (hp : t.pending = s.pending) :
    s.keepsBut ps t := by
  have := h s
  obtain ⟨_, _, _, _⟩ := t
  cases hh
  cases hc
  cases hp
  exact this

end Engine.Within

/-! ## Updates -/

section
variable (e : Engine)
open Engine

theorem modSession_within (k : Nat) (f : Session → Session) : Within [.sessions] e (e.modSession k f) := fun s => ⟨rfl, fun p hp => by
  cases p
  case sessions => exact absurd (.head _) hp
  all_goals simp [State.samePart]⟩

theorem setSession_within (k : Nat) (x : Session) : Within [.sessions] e (e.setSession k x) := modSession_within e k (fun _ => x)

theorem modBuf_within (k b : Nat) (f : Buffer → Buffer) : Within [.sessions] e (e.modBuf k b f) := modSession_within e k _

theorem slots_within (i o : Tab Nat) : Within [.slots] e { e with slotsIn := i, slotsOut := o } := fun s => ⟨rfl, fun p hp => by
  cases p
  case slots => exact absurd (.head _) hp
  all_goals simp [State.samePart]⟩

theorem modHold_within (b : Nat) (f : BodyHold → BodyHold) : Within [.holds] e (e.modHold b f) := fun s => ⟨rfl, fun p hp => by
  cases p
  case holds => exact absurd (.head _) hp
  all_goals simp [State.samePart]⟩

theorem modCounter_within (m : Nat) (f : Counters → Counters) : Within [.counters] e (e.modCounter m f) := fun s => ⟨rfl, fun p hp => by
  cases p
  case counters => exact absurd (.head _) hp
  all_goals simp [State.samePart]⟩

theorem charge_within (m : Nat) (f : Nat → Nat) : Within [.counters] e (e.charge m f) := modCounter_within e m _

theorem modLmp_within (f : Lmp → Lmp) : Within [.lmp] e (e.modLmp f) := fun s => ⟨rfl, fun p hp => by
  cases p
  case lmp => exact absurd (.head _) hp
  all_goals simp [State.samePart]⟩

theorem modDle_within (f : Dle → Dle) : Within [.dle] e (e.modDle f) := fun s => ⟨rfl, fun p hp => by
  cases p
  case dle => exact absurd (.head _) hp
  all_goals simp [State.samePart]⟩

theorem modMgc_within (f : Mgc → Mgc) : Within [.channel, .outbox, .flags] e (e.modMgc f) := fun s => ⟨rfl, fun p hp => by
  cases p
  case channel | outbox | flags => exact absurd (by simp) hp
  all_goals simp [State.samePart]⟩

/-- The parts of a receiver's change. -/
theorem Engine.Receiving.within {e g : Engine} (h : e.Receiving g) : Within [.channel, .outbox, .flags] e g := by
  rw [h.1]
  exact modMgc_within e (fun _ => g.mgc)

theorem raise_within (k : NoticeKind) (d : List Byte) : Within [.outbox, .flags] e (e.raise k d) := fun s => ⟨rfl, fun p hp => by
  cases p
  case outbox | flags => exact absurd (by simp) hp
  all_goals simp [State.samePart, raise]⟩

theorem writes_within (q : List CatSeq) (w : List CatWrite) : Within [.writes] e { e with catQueue := q, asked := w } := fun s => ⟨rfl, fun p hp => by
  cases p
  case writes => exact absurd (.head _) hp
  all_goals simp [State.samePart]⟩

theorem cat_within (c : Catalogue) : Within [.catalogue] e { e with cat := c } := fun s => ⟨rfl, fun p hp => by
  cases p
  case catalogue => exact absurd (.head _) hp
  all_goals simp [State.samePart]⟩

theorem poolLists_within (f : List Nat) (q : List Run) (l : Bool) :
    Within [.pool] e (e.modSsc (fun c => { c with freeList := f, eraseQueue := q, poolLow := l })) := fun s => ⟨rfl, fun p hp => by
  cases p
  case pool => exact absurd (.head _) hp
  all_goals simp [State.samePart]⟩

theorem queues_within (r : List ReadReq) (q : List ProgReq) :
    Within [.storeQueues] e (e.modSsc (fun c => { c with readQueue := r, progQueue := q })) := fun s => ⟨rfl, fun p hp => by
  cases p
  case storeQueues => exact absurd (.head _) hp
  all_goals simp [State.samePart]⟩

theorem link_within (l : Link) (n : Nat) : Within [.link] e (e.modSsc (fun c => { c with link := l, opTimer := n })) := fun s => ⟨rfl, fun p hp => by
  cases p
  case link => exact absurd (.head _) hp
  all_goals simp [State.samePart]⟩

theorem flash_within (f : Tab Samples) : Within [.flash] e (e.modSsc (fun c => { c with flash := f })) := fun s => ⟨rfl, fun p hp => by
  cases p
  case flash => exact absurd (.head _) hp
  all_goals simp [State.samePart]⟩

theorem service_within (v : Service) (n : Nat) (r : Option StartReport) :
    Within [.service] e (e.modSsc (fun c => { c with service := v, devices := n, start := r })) := fun s => ⟨rfl, fun p hp => by
  cases p
  case service => exact absurd (.head _) hp
  all_goals simp [State.samePart]⟩

/-- The table that a catalogue write changes. -/
def CatWrite.part : CatWrite → List Part
  | .signature _ => [.signature]
  | .blank => [.segments, .bodies, .classes, .mailboxes, .records, .greetings, .lists, .members, .settings]
  | .cutMap _ => [.segments]
  | .segment _ _ => [.segments]
  | .body _ _ => [.bodies]
  | .cls _ _ => [.classes]
  | .boxFields _ _ => [.mailboxes]
  | .boxHead _ _ => [.mailboxes]
  | .boxTail _ _ => [.mailboxes]
  | .record _ _ => [.records]
  | .recordPrev _ _ => [.records]
  | .recordNext _ _ => [.records]
  | .slot _ _ => [.greetings]
  | .list _ _ => [.lists]
  | .member _ _ => [.members]
  | .settings _ => [.settings]

theorem signature_within (t : Option Nat) (w : List CatWrite) :
    Within [.writes, .signature] e { e with tab := { e.tab with signature := t }, asked := w } := fun s => ⟨rfl, fun p hp => by
  cases p
  case writes | signature => exact absurd (by simp) hp
  all_goals simp [State.samePart]⟩

theorem segments_within (t : Tab SegEntry) (w : List CatWrite) :
    Within [.writes, .segments] e { e with tab := { e.tab with segments := t }, asked := w } := fun s => ⟨rfl, fun p hp => by
  cases p
  case writes | segments => exact absurd (by simp) hp
  all_goals simp [State.samePart]⟩

theorem bodies_within (t : Tab Body) (w : List CatWrite) :
    Within [.writes, .bodies] e { e with tab := { e.tab with bodies := t }, asked := w } := fun s => ⟨rfl, fun p hp => by
  cases p
  case writes | bodies => exact absurd (by simp) hp
  all_goals simp [State.samePart]⟩

theorem classes_within (t : Tab MailClass) (w : List CatWrite) :
    Within [.writes, .classes] e { e with tab := { e.tab with classes := t }, asked := w } := fun s => ⟨rfl, fun p hp => by
  cases p
  case writes | classes => exact absurd (by simp) hp
  all_goals simp [State.samePart]⟩

theorem mailboxes_within (t : Tab Mailbox) (w : List CatWrite) :
    Within [.writes, .mailboxes] e { e with tab := { e.tab with mailboxes := t }, asked := w } := fun s => ⟨rfl, fun p hp => by
  cases p
  case writes | mailboxes => exact absurd (by simp) hp
  all_goals simp [State.samePart]⟩

theorem records_within (t : Tab Record) (w : List CatWrite) :
    Within [.writes, .records] e { e with tab := { e.tab with records := t }, asked := w } := fun s => ⟨rfl, fun p hp => by
  cases p
  case writes | records => exact absurd (by simp) hp
  all_goals simp [State.samePart]⟩

theorem greetings_within (t : Tab Slot) (w : List CatWrite) :
    Within [.writes, .greetings] e { e with tab := { e.tab with slots := t }, asked := w } := fun s => ⟨rfl, fun p hp => by
  cases p
  case writes | greetings => exact absurd (by simp) hp
  all_goals simp [State.samePart]⟩

theorem distLists_within (t : Tab DistList) (w : List CatWrite) :
    Within [.writes, .lists] e { e with tab := { e.tab with lists := t }, asked := w } := fun s => ⟨rfl, fun p hp => by
  cases p
  case writes | lists => exact absurd (by simp) hp
  all_goals simp [State.samePart]⟩

theorem members_within (t : Tab Member) (w : List CatWrite) :
    Within [.writes, .members] e { e with tab := { e.tab with members := t }, asked := w } := fun s => ⟨rfl, fun p hp => by
  cases p
  case writes | members => exact absurd (by simp) hp
  all_goals simp [State.samePart]⟩

theorem settings_within (t : Settings) (w : List CatWrite) :
    Within [.writes, .settings] e { e with tab := { e.tab with settings := t }, asked := w } := fun s => ⟨rfl, fun p hp => by
  cases p
  case writes | settings => exact absurd (by simp) hp
  all_goals simp [State.samePart]⟩

theorem blank_within : Within (.writes :: CatWrite.blank.part) e (e.put .blank) := fun s => ⟨rfl, fun p hp => by
  cases p
  case writes | segments | bodies | classes | mailboxes | records | greetings | lists | members | settings => exact absurd (by simp [CatWrite.part]) hp
  all_goals simp [State.samePart, CatWrite.apply]⟩

/-- A write changes its table alone. -/
theorem put_within (w : CatWrite) : Within (.writes :: w.part) e (e.put w) := by
  cases w
  case signature v => exact signature_within e v _
  case blank => exact blank_within e
  case cutMap n => exact segments_within e _ _
  case segment i g => exact segments_within e _ _
  case body b x => exact bodies_within e _ _
  case cls k c => exact classes_within e _ _
  case boxFields m f => exact mailboxes_within e _ _
  case boxHead m r =>
    unfold put CatWrite.apply
    dsimp only
    split
    · exact mailboxes_within e e.tab.mailboxes _
    · exact mailboxes_within e _ _
  case boxTail m r =>
    unfold put CatWrite.apply
    dsimp only
    split
    · exact mailboxes_within e e.tab.mailboxes _
    · exact mailboxes_within e _ _
  case record r x => exact records_within e _ _
  case recordPrev r x =>
    unfold put CatWrite.apply
    dsimp only
    split
    · exact records_within e e.tab.records _
    · exact records_within e _ _
  case recordNext r x =>
    unfold put CatWrite.apply
    dsimp only
    split
    · exact records_within e e.tab.records _
    · exact records_within e _ _
  case slot k x => exact greetings_within e _ _
  case list l d => exact distLists_within e _ _
  case member i v => exact members_within e _ _
  case settings x => exact settings_within e _ _

end

end Sys2Proof.Machine

namespace Sys2Proof.Machine

/-! Proofs about the state: the parts that the larger operations of the blocks can change. -/

section
variable (e : Engine)
open Engine Within

/-! ## The store and the bodies -/

theorem flush_within (t : Then) : Within [.writes] e (e.flush t) := by
  unfold flush
  exact ite (.refl _ _) (ite (writes_within e e.catQueue _) (writes_within e _ _))

theorem examinePool_within : Within [.pool, .outbox, .flags] e e.examinePool := by
  unfold examinePool
  have h := fun l => (poolLists_within e e.ssc.freeList e.ssc.eraseQueue l).mono (qs := [.pool, .outbox, .flags]) rfl
  exact ite (.refl _ _) (ite ((h true).step (raise_within _ _ _) rfl) (ite ((h false).step (raise_within _ _ _) rfl) (.refl _ _)))

theorem putDirty_within (i : Nat) : Within [.segments, .writes] e (e.putDirty i) := (put_within e _).mono rfl

/-- The parts that a segment's going DIRTY can change. -/
def dirtyParts : List Part := [.segments, .writes, .pool, .outbox, .flags]

theorem joinDirty_within (i : Nat) : Within dirtyParts e (e.joinDirty i) :=
  (((putDirty_within e i).mono (qs := dirtyParts) rfl).step (poolLists_within (e.putDirty i) _ _ _) rfl).step (examinePool_within _) rfl

theorem makeDirty_within (i : Nat) : Within dirtyParts e (e.makeDirty i) := ite (joinDirty_within e i) (.refl _ _)

theorem makeAllDirty_within (is : List Nat) : Within dirtyParts e (e.makeAllDirty is) := foldl (fun e i => makeDirty_within e i) is e

theorem createBody_within (b : Nat) : Within [.bodies, .holds, .writes] e (e.createBody b) :=
  ((put_within e _).mono rfl).step (modHold_within _ _ _) rfl

theorem linkSegment_within (b i : Nat) : Within [.segments, .bodies, .writes] e (e.linkSegment b i) := by
  unfold linkSegment
  split
  · exact .refl _ _
  · extract_lets e1 e2
    have h1 : Within [.segments, .bodies, .writes] e e1 := (put_within e _).mono rfl
    have h2 : Within [.segments, .bodies, .writes] e e2 := by
      unfold e2
      split
      · exact h1
      · exact h1.step (put_within _ _) rfl
    exact h2.step (put_within _ _) rfl

theorem cutChain_within (b first last : Nat) : Within [.segments, .bodies, .writes] e (e.cutChain b first last) := by
  unfold cutChain
  split
  · exact .refl _ _
  · extract_lets chain head kept tail e1
    have h1 : Within [.segments, .bodies, .writes] e e1 := by
      unfold e1
      split
      · exact ite (.refl _ _) ((put_within e _).mono rfl)
      · exact .refl _ _
    exact ite (.refl _ _) ((h1.step (put_within _ _) rfl).step (flush_within _ _) rfl)

/-- The parts that the letting go of a body can change. -/
def releaseParts : List Part := [.segments, .writes, .pool, .outbox, .flags, .bodies, .holds]

theorem release_within (b : Nat) : Within releaseParts e (e.release b) :=
  (((makeAllDirty_within e _).mono (qs := releaseParts) rfl).step (put_within _ _) rfl).step (modHold_within _ _ _) rfl

theorem releaseIfUnheld_within (b : Nat) : Within releaseParts e (e.releaseIfUnheld b) := by
  unfold releaseIfUnheld
  split
  · exact .refl _ _
  · exact ite (release_within e b) (.refl _ _)

theorem modShare_within (b : Nat) (f : Nat → Nat) : Within [.bodies, .writes] e (e.modShare b f) := by
  unfold modShare
  split
  · exact .refl _ _
  · exact (put_within e _).mono rfl

theorem dropShare_within (b : Nat) : Within releaseParts e (e.dropShare b) :=
  ((modShare_within e b _).mono (qs := releaseParts) rfl).step (releaseIfUnheld_within _ _) rfl

theorem dropPin_within (b : Nat) : Within releaseParts e (e.dropPin b) :=
  ((modHold_within e b _).mono (qs := releaseParts) rfl).step (releaseIfUnheld_within _ _) rfl

theorem dropReader_within (b : Nat) : Within releaseParts e (e.dropReader b) :=
  ((modHold_within e b _).mono (qs := releaseParts) rfl).step (releaseIfUnheld_within _ _) rfl

theorem sealBody_within (b o n : Nat) : Within [.bodies, .holds, .writes] e (e.sealBody b o n) := by
  unfold sealBody
  split
  · exact .refl _ _
  · exact ((put_within e _).mono rfl).step (modHold_within _ _ _) rfl

/-! ## Mailboxes, records, greetings -/

theorem handInputs_within (m : Nat) : Within [.lmp] e (e.handInputs m) := by
  unfold handInputs
  split
  · exact .refl _ _
  · exact ite (.refl _ _) (ite (.refl _ _) (modLmp_within e _))

theorem handAll_within (ms : List Nat) : Within [.lmp] e (e.handAll ms) := foldl (fun e m => handInputs_within e m) ms e

theorem appendRecord_within (r : Nat) (x : Record) : Within [.records, .mailboxes, .writes] e (e.appendRecord r x) := by
  unfold appendRecord
  extract_lets tail e1 e2
  clear_value tail
  have h1 : Within [.records, .mailboxes, .writes] e e1 := (put_within e _).mono rfl
  have h2 : Within [.records, .mailboxes, .writes] e e2 := by
    unfold e2
    split <;> exact h1.step (put_within _ _) rfl
  exact h2.step (put_within _ _) rfl

theorem unlinkRecord_within (r : Nat) (x : Record) : Within [.records, .mailboxes, .writes] e (e.unlinkRecord r x) := by
  unfold unlinkRecord
  extract_lets e1 e2
  have h1 : Within [.records, .mailboxes, .writes] e e1 := by
    unfold e1
    split <;> exact (put_within e _).mono rfl
  have h2 : Within [.records, .mailboxes, .writes] e e2 := by
    unfold e2
    split <;> exact h1.step (put_within _ _) rfl
  exact h2.step (put_within _ _) rfl

theorem changeRecord_within (r : Nat) (x y : Record) : Within [.records, .counters, .lmp, .writes] e (e.changeRecord r x y) := by
  unfold changeRecord
  have h : Within [.records, .counters, .lmp, .writes] e (e.put (.record r (some y))) := (put_within e _).mono rfl
  exact ite (.refl _ _) (ite h ((h.step (modCounter_within _ _ _) rfl).step (handInputs_within _ _) rfl))

theorem recordSealed_within (r : Nat) (cut : Bool) : Within [.records, .counters, .lmp, .writes] e (e.recordSealed r cut) := by
  unfold recordSealed
  split
  · exact .refl _ _
  · exact changeRecord_within _ _ _ _

theorem markRecord_within (now : Now) (r : Nat) (mk : Mark) : Within [.records, .counters, .lmp, .writes] e (e.markRecord now r mk) := by
  unfold markRecord
  split
  · exact .refl _ _
  · exact changeRecord_within _ _ _ _

theorem clearTargets_within (r : Nat) : Within [.sessions] e (e.clearTargets r) :=
  foldl (fun _ _ => ite (modSession_within _ _ _) (.refl _ _)) _ e

theorem detachRecord_within (r : Nat) (x : Record) : Within [.records, .mailboxes, .writes, .counters, .sessions] e (e.detachRecord r x) :=
  ((((unlinkRecord_within e r x).mono (qs := [.records, .mailboxes, .writes, .counters, .sessions]) rfl).step (modCounter_within _ _ _) rfl).step
    (charge_within _ _ _) rfl).step (clearTargets_within _ _) rfl

/-- The parts that the freeing of a record can change. -/
def freeParts : List Part :=
  [.sessions, .pool, .holds, .counters, .lmp, .outbox, .flags, .segments, .bodies, .mailboxes, .records, .writes]

theorem freeRecordQuietly_within (r : Nat) : Within freeParts e (e.freeRecordQuietly r) := by
  unfold freeRecordQuietly
  split
  · exact .refl _ _
  · exact ((detachRecord_within e r _).mono (qs := freeParts) rfl).step (dropShare_within _ _) rfl

theorem freeRecord_within (r : Nat) : Within freeParts e (e.freeRecord r) := by
  unfold freeRecord
  split
  · exact .refl _ _
  · exact (freeRecordQuietly_within e r).step (handInputs_within _ _) rfl

theorem freeBox_within (m : Nat) : Within freeParts e (e.freeBox m) := foldl (fun e r => freeRecordQuietly_within e r) _ e

theorem putSlot_within (m : Nat) (g : GreetingKind) (x : Slot) : Within [.greetings, .writes] e (e.putSlot m g x) := (put_within e _).mono rfl

/-- The parts that a change of a greeting slot can change. -/
def slotParts : List Part := [.segments, .writes, .pool, .outbox, .flags, .bodies, .holds, .greetings]

theorem replaceGreeting_within (m : Nat) (g : GreetingKind) : Within slotParts e (e.replaceGreeting m g) := by
  unfold replaceGreeting
  extract_lets x e1
  have h1 : Within slotParts e e1 := (putSlot_within e m g _).mono rfl
  split
  · exact h1
  · exact h1.step (dropShare_within _ _) rfl

theorem abandonGreeting_within (m : Nat) (g : GreetingKind) : Within slotParts e (e.abandonGreeting m g) := by
  unfold abandonGreeting
  extract_lets x e1
  have h1 : Within slotParts e e1 := (putSlot_within e m g _).mono rfl
  split
  · exact h1
  · exact h1.step (dropShare_within _ _) rfl

theorem emptySlot_within (m : Nat) (g : GreetingKind) : Within slotParts e (e.emptySlot m g) := by
  unfold emptySlot
  extract_lets x
  split
  · exact .refl _ _
  · exact ((putSlot_within e m g _).mono (qs := slotParts) rfl).step (dropShare_within _ _) rfl

theorem emptySlots_within (m : Nat) : Within slotParts e (e.emptySlots m) := foldl (fun e g => emptySlot_within e m g) _ e

theorem target_within (q : OpenRecord) (now : Now) (b : Nat) :
    Within [.records, .mailboxes, .counters, .greetings, .bodies, .holds, .writes] e (q.target now b e).2 := by
  unfold OpenRecord.target
  extract_lets e1 r urgent
  have h1 : Within [.records, .mailboxes, .counters, .greetings, .bodies, .holds, .writes] e e1 := (createBody_within e b).mono rfl
  split
  · exact (h1.step (appendRecord_within _ _ _) rfl).step (modCounter_within _ _ _) rfl
  · exact h1.step (putSlot_within _ _ _ _) rfl

theorem makeCopy_within (now : Now) (m b n src : Nat) (u : Bool) (c : Option Nat) :
    Within [.records, .mailboxes, .bodies, .counters, .lmp, .writes] e (e.makeCopy now m b n src u c) :=
  (((((appendRecord_within e _ _).mono (qs := [.records, .mailboxes, .bodies, .counters, .lmp, .writes]) rfl).step (modShare_within _ _ _) rfl).step
    (modCounter_within _ _ _) rfl).step (charge_within _ _ _) rfl).step (handInputs_within _ _) rfl

theorem examineEntry_within (r day : Nat) : Within freeParts e (e.examineEntry r day).1 := by
  unfold examineEntry
  split
  · exact .refl _ _
  · split
    · split
      · exact (put_within e _).mono rfl
      · split
        · exact freeRecord_within e r
        · exact .refl _ _
    · exact .refl _ _

theorem takeRecipient_within (now : Now) : Within [.records, .mailboxes, .bodies, .counters, .lmp, .dle, .writes] e (e.takeRecipient now) := by
  unfold takeRecipient
  split
  · exact .refl _ _
  · refine ite (.refl _ _) ?_
    split
    · exact .refl _ _
    · extract_lets reason
      clear_value reason
      split
      · exact (modDle_within e _).mono rfl
      · exact (((makeCopy_within e _ _ _ _ _ _ _).mono (qs := [.records, .mailboxes, .bodies, .counters, .lmp, .dle, .writes]) rfl).step
          (modDle_within _ _) rfl).step (flush_within _ _) rfl

/-! ## Lists -/

theorem addMember_within (l m : Nat) : Within [.lists, .members, .writes] e (e.addMember l m) := by
  unfold addMember
  extract_lets d i e1 e2
  have h1 : Within [.lists, .members, .writes] e e1 := (put_within e _).mono rfl
  have h2 : Within [.lists, .members, .writes] e e2 := by
    unfold e2
    split
    · exact h1
    · split
      · exact h1
      · exact h1.step (put_within _ _) rfl
  exact h2.step (put_within _ _) rfl

theorem addMembers_within (l : Nat) : ∀ (ms : List Nat) (c : AddCounts) (e : Engine), Within [.lists, .members, .writes] e (e.addMembers l ms c).2
  | [], _, e => .refl _ e
  | m :: ms, c, e => by
    unfold addMembers
    split
    · exact addMembers_within l ms _ e
    · split
      · exact (addMember_within e l m).trans (addMembers_within l ms _ _)
      · exact .refl _ e

theorem clearList_within (l : Nat) : Within [.lists, .members, .writes] e (e.clearList l) :=
  ((put_within e (.list l DistList.empty)).mono (qs := [.lists, .members, .writes]) rfl).trans
    (foldl (fun e _ => (put_within e _).mono rfl) _ _)

/-! ## Sessions -/

theorem releaseSlots_within (k : Nat) : Within [.slots, .sessions] e (e.releaseSlots k) :=
  ((slots_within e _ _).mono (qs := [.slots, .sessions]) rfl).step (modSession_within _ _ _) rfl

theorem bindSlots_within (k : Nat) (i o : Option Nat) : Within [.slots] e (e.bindSlots k i o) := slots_within e _ _

theorem freeSession_within (k : Nat) : Within [.slots, .sessions] e (e.freeSession k) := (releaseSlots_within e k).step (modSession_within _ _ _) rfl

theorem enterEnded_within (k : Nat) (c : Cause) : Within [.slots, .sessions, .outbox, .flags] e (e.enterEnded k c) := by
  unfold enterEnded
  extract_lets e1 x placed e2
  have h1 : Within [.slots, .sessions, .outbox, .flags] e e1 := (modSession_within e k _).mono rfl
  have h2 : Within [.slots, .sessions, .outbox, .flags] e e2 := h1.step (raise_within _ _ _) rfl
  exact ite (h1.step (freeSession_within _ _) rfl) (ite (h2.step (freeSession_within _ _) rfl) h2)

theorem withdrawPrograms_within (k : Nat) (t : ProgReq → Bool) : Within [.sessions, .storeQueues] e (e.withdrawPrograms k t) :=
  ((queues_within e e.ssc.readQueue _).mono (qs := [.sessions, .storeQueues]) rfl).trans (foldl (fun e _ => (modBuf_within e _ _ _).mono rfl) _ _)

theorem unwant_within (k : Nat) (t : ProgReq → Bool) : Within [.link] e (e.unwant k t) := link_within e _ e.ssc.opTimer

theorem withdrawReads_within (k : Nat) : Within [.sessions, .storeQueues] e (e.withdrawReads k) := by
  unfold withdrawReads
  extract_lets out e1 e2
  have h2 : Within [.sessions, .storeQueues] e e2 :=
    ((queues_within e _ e.ssc.progQueue).mono (qs := [.sessions, .storeQueues]) rfl).trans (foldl (fun e _ => (modBuf_within e _ _ _).mono rfl) _ _)
  split
  · exact ite (h2.step (modBuf_within _ _ _ _) rfl) h2
  · exact h2

theorem refund_within (k n : Nat) : Within [.holds, .counters] e (e.refund k n) := by
  unfold refund
  have h : Within [.holds, .counters] e (e.modHold (e.session k).bodyNo (fun h => { h with begun := h.begun - n })) := (modHold_within e _ _).mono rfl
  exact ite (h.step (charge_within _ _ _) rfl) h

theorem handTake_within (k : Nat) : Within [.lmp] e (e.handTake k) := ite (handInputs_within e _) (.refl _ _)

theorem idleFilling_within (k : Nat) : Within [.sessions] e (e.idleFilling k) := modSession_within e k _

theorem handBuffer_within (k : Nat) : Within [.sessions, .storeQueues] e (e.handBuffer k) := by
  unfold handBuffer
  extract_lets x
  split
  · exact .refl _ _
  · extract_lets req
    exact ((modBuf_within e k _ _).mono (qs := [.sessions, .storeQueues]) rfl).step (queues_within _ _ _) rfl

theorem fetchOne_within (k : Nat) : Within [.sessions, .storeQueues] e (e.fetchOne k) := by
  unfold fetchOne
  extract_lets x chain cur
  refine ite (.refl _ _) ?_
  split
  · extract_lets req
    exact ((modBuf_within e k _ _).mono (qs := [.sessions, .storeQueues]) rfl).step (queues_within _ _ _) rfl
  · exact .refl _ _

theorem fetch_within (k : Nat) : Within [.sessions, .storeQueues] e (e.fetch k) := (fetchOne_within e k).trans (fetchOne_within _ k)

theorem playTarget_within (now : Now) (c : Cause) (n : Nat) (x : Session) :
    Within [.records, .counters, .lmp, .writes] e (e.playTarget now c n x) := by
  unfold playTarget
  split
  · split
    · exact .refl _ _
    · exact ite (changeRecord_within _ _ _ _) (ite (changeRecord_within _ _ _ _) (.refl _ _))
  · exact .refl _ _

/-- The parts that the end of a playing can change. -/
def endPlayParts : List Part :=
  [.slots, .sessions, .pool, .storeQueues, .holds, .counters, .lmp, .outbox, .flags, .segments, .bodies, .records, .writes]

theorem endPlay_within (now : Now) (k : Nat) (c : Cause) : Within endPlayParts e (e.endPlay now k c) := by
  unfold endPlay
  extract_lets e1 x
  have h1 : Within endPlayParts e e1 :=
    (((withdrawReads_within e k).mono (qs := endPlayParts) rfl).step (modSession_within _ _ _) rfl).step (releaseSlots_within _ _) rfl
  exact ((h1.step (dropReader_within _ _) rfl).step (playTarget_within _ _ _ _ _) rfl).step (enterEnded_within _ _ _) rfl

/-- The parts that the work of sessions can change. -/
def sessionParts : List Part :=
  [.slots, .sessions, .pool, .storeQueues, .link, .holds, .counters, .lmp, .outbox, .flags, .segments, .bodies, .mailboxes, .records, .greetings,
    .writes]

/-- What the session engine does stays within its parts. -/
theorem within_kept (a : Engine) : Kept (Within sessionParts a) where
  session _ _ _ h := h.step (modSession_within _ _ _) rfl
  slots _ _ _ h := h.step (slots_within _ _ _) rfl
  programs _ _ h := h.step (queues_within _ _ _) rfl
  reads _ _ h := h.step (queues_within _ _ _) rfl
  unwant _ _ _ h := h.step (unwant_within _ _ _) rfl
  begun _ _ _ h := h.step (modHold_within _ _ _) rfl
  charge _ _ _ h := h.step (charge_within _ _ _) rfl
  lamps _ _ h := h.step (modLmp_within _ _) rfl
  raise _ _ _ h := h.step (raise_within _ _ _) rfl
  cut _ _ _ _ h := h.step (cutChain_within _ _ _ _) rfl
  seals _ _ _ _ h := h.step (sealBody_within _ _ _ _) rfl
  free _ _ h := h.step (freeRecord_within _ _) rfl
  abandon _ _ _ h := h.step (abandonGreeting_within _ _ _) rfl
  sealed _ _ _ h := h.step (recordSealed_within _ _ _) rfl
  replace _ _ _ h := h.step (replaceGreeting_within _ _ _) rfl
  reader _ _ h := h.step (dropReader_within _ _) rfl
  target _ _ _ _ _ h := h.step (playTarget_within _ _ _ _ _) rfl

/-! ## Settling -/

theorem startErase_within : Within [.link] e e.startErase := by
  unfold startErase
  split
  · exact .refl _ _
  · exact link_within e _ _

theorem startRead_within : Within [.link, .storeQueues] e e.startRead := by
  unfold startRead
  split
  · exact .refl _ _
  case h_2 r q _ =>
    exact ((queues_within e q e.ssc.progQueue).mono (qs := [.link, .storeQueues]) rfl).step (link_within _ (.reading r 1) 0) rfl

/-- The parts that the start of a program can change. -/
def programParts : List Part := [.link, .storeQueues, .pool, .segments, .writes, .outbox, .flags]

theorem startProgram_within (r : ProgReq) (i : Nat) : Within programParts e (e.startProgram r i) := by
  unfold startProgram
  extract_lets e1 e2
  have h1 : Within programParts e e1 :=
    (((queues_within e e.ssc.readQueue e.ssc.progQueue.tail).mono (qs := programParts) rfl).step
      (poolLists_within _ e.ssc.freeList.tail e.ssc.eraseQueue e.ssc.poolLow) rfl).step (link_within _ (.allocating r i true) 0) rfl
  exact ((h1.step (put_within _ _) rfl).step (flush_within _ _) rfl).step (examinePool_within _) rfl

theorem endJob_within (j : Job) : Within (.dle :: releaseParts) e (e.endJob j) :=
  (((modDle_within e _).mono (qs := .dle :: releaseParts) rfl).step (dropPin_within _ _) rfl).step (raise_within _ _ _) rfl

theorem endJobs_within : ∀ (n : Nat) (e : Engine), Within (.dle :: releaseParts) e (e.endJobs n)
  | 0, e => .refl _ e
  | n + 1, e => by
    unfold endJobs
    refine ite (.refl _ _) ?_
    split
    · exact .refl _ _
    · exact (endJob_within e _).trans (endJobs_within n _)

theorem within_served (a : Engine) : Served (Within (.dle :: sessionParts) a) where
  session _ _ _ h := h.step (modSession_within _ _ _) rfl
  slots _ _ _ h := h.step (slots_within _ _ _) rfl
  programs _ _ h := h.step (queues_within _ _ _) rfl
  reads _ _ h := h.step (queues_within _ _ _) rfl
  unwant _ _ _ h := h.step (unwant_within _ _ _) rfl
  begun _ _ _ h := h.step (modHold_within _ _ _) rfl
  charge _ _ _ h := h.step (charge_within _ _ _) rfl
  lamps _ _ h := h.step (modLmp_within _ _) rfl
  raise _ _ _ h := h.step (raise_within _ _ _) rfl
  cut _ _ _ _ h := h.step (cutChain_within _ _ _ _) rfl
  seals _ _ _ _ h := h.step (sealBody_within _ _ _ _) rfl
  free _ _ h := h.step (freeRecord_within _ _) rfl
  abandon _ _ _ h := h.step (abandonGreeting_within _ _ _) rfl
  sealed _ _ _ h := h.step (recordSealed_within _ _ _) rfl
  replace _ _ _ h := h.step (replaceGreeting_within _ _ _) rfl
  reader _ _ h := h.step (dropReader_within _ _) rfl
  target _ _ _ _ _ h := h.step (playTarget_within _ _ _ _ _) rfl
  flush _ _ h := h.step (flush_within _ _) rfl
  job _ _ _ h := h.step (endJob_within _ _) rfl
  erase _ h := h.step (startErase_within _) rfl
  read _ h := h.step (startRead_within _) rfl
  program _ _ _ _ _ h := h.step (startProgram_within _ _ _) rfl

end

end Sys2Proof.Machine

namespace Sys2Proof.Machine

/-! Proofs about section 4.6: the parts that each step of the store check can change. -/

section
variable (e : Engine)
open Engine Within

theorem foldl_put_within {α : Type} (w : α → CatWrite) (ps : List Part) (h : ∀ x, partsIn (.writes :: (w x).part) ps = true) (l : List α)
    (e : Engine) : Within ps e (l.foldl (fun e x => e.put (w x)) e) :=
  foldl (fun e x => (put_within e (w x)).mono (h x)) l e

theorem dropRecords_within : Within [.records, .mailboxes, .writes] e e.dropRecords := by
  unfold dropRecords
  extract_lets e1
  have h1 : Within [.records, .mailboxes, .writes] e e1 := foldl_put_within (fun r => .record r none) _ (fun _ => rfl) _ e
  exact h1.trans (foldl (fun e m => ((put_within e (.boxHead m none)).mono (qs := [.records, .mailboxes, .writes]) rfl).step (put_within _ _) rfl) _ _)

/-- The parts that clearing the content can change. -/
def contentParts : List Part := [.segments, .records, .mailboxes, .greetings, .bodies, .writes]

theorem dropContent_within (is : List Nat) : Within contentParts e (e.dropContent is) := by
  unfold dropContent
  extract_lets e1 e2
  have h0 : Within contentParts e (is.foldl (fun e i => e.putDirty i) e) := foldl (fun e i => (putDirty_within e i).mono rfl) _ e
  have h1 : Within contentParts e e1 := h0.step (dropRecords_within _) rfl
  have h2 : Within contentParts e e2 := h1.trans (foldl_put_within (fun k => .slot k Slot.empty) _ (fun _ => rfl) _ _)
  exact h2.trans (foldl_put_within (fun b => .body b none) _ (fun _ => rfl) _ _)

theorem cutStore_within (n : Nat) : Within contentParts e (e.cutStore n) := ((put_within e (.cutMap n)).mono rfl).trans (dropContent_within _ _)

theorem clampSettings_within : Within [.settings, .writes] e e.clampSettings := ite (.refl _ _) ((put_within e _).mono rfl)

theorem dirtyAllocated_within : Within [.segments, .writes] e e.dirtyAllocated := foldl (fun e i => putDirty_within e i) _ e

theorem buildLists_within : Within [.pool] e e.buildLists := poolLists_within e _ _ e.ssc.poolLow

theorem fitOpenBody_within (b : Nat) : Within [.bodies, .writes] e (e.fitOpenBody b) := by
  unfold fitOpenBody
  split
  · exact .refl _ _
  · exact ite (.refl _ _) ((put_within e _).mono rfl)

/-- The parts that the walk can change. -/
def walkParts : List Part := [.segments, .writes, .pool, .outbox, .flags, .bodies]

theorem walk_within : Within walkParts e e.walk := by
  unfold walk
  extract_lets e1 e2 chained data
  have h1 : Within walkParts e e1 := ((dirtyAllocated_within e).mono (qs := walkParts) rfl).step (buildLists_within _) rfl
  have h2 : Within walkParts e e2 := h1.trans (foldl (fun e b => (fitOpenBody_within e b).mono rfl) _ _)
  exact h2.step (makeAllDirty_within _ _) rfl

theorem fitList_within (l : Nat) : Within [.lists, .writes] e (e.fitList l) := ite (.refl _ _) ((put_within e _).mono rfl)

theorem repairLists_within : Within [.lists, .members, .writes] e e.repairLists := by
  unfold repairLists
  extract_lets ls kept e1
  have h1 : Within [.lists, .members, .writes] e e1 := foldl (fun e l => (fitList_within e l).mono rfl) _ e
  exact h1.trans (foldl_put_within (fun i => .member i none) _ (fun _ => rfl) _ _)

/-- The parts that a list's repair can change. -/
def boxParts : List Part := [.records, .mailboxes, .writes]

theorem fitPrev_within (r : Nat) (p : Option Nat) : Within boxParts e (e.fitPrev r p) := ite (.refl _ _) ((put_within e _).mono rfl)

theorem fitNext_within (r : Nat) (n : Option Nat) : Within boxParts e (e.fitNext r n) := ite (.refl _ _) ((put_within e _).mono rfl)

theorem fitPrevs_within : ∀ (rs : List Nat) (p : Option Nat) (e : Engine), Within boxParts e (e.fitPrevs p rs)
  | [], _, e => .refl _ e
  | r :: rs, p, e => (fitPrev_within e r p).trans (fitPrevs_within rs (some r) _)

theorem fitEnds_within (m : Nat) (kept : List Nat) : Within boxParts e (e.fitEnds m kept) := by
  unfold fitEnds
  split
  · exact .refl _ _
  · extract_lets e1
    have h1 : Within boxParts e e1 := ite ((put_within e _).mono rfl) (.refl _ _)
    exact ite h1 (h1.step (put_within _ _) rfl)

theorem fitBox_within (m : Nat) (kept : List Nat) : Within boxParts e (e.fitBox m kept) := by
  unfold fitBox
  extract_lets e1
  have h1 : Within boxParts e e1 := fitPrevs_within kept none e
  refine Within.trans ?_ (fitEnds_within _ m kept)
  split
  · exact h1
  · exact h1.trans (fitNext_within _ _ _)

theorem appendAgain_within (r : Nat) : Within boxParts e (e.appendAgain r) := by
  unfold appendAgain
  split
  · exact .refl _ _
  · exact appendRecord_within e r _

theorem repairBox_within (m : Nat) : Within boxParts e (e.repairBox m) :=
  (fitBox_within e m _).trans (foldl (fun e r => appendAgain_within e r) _ _)

theorem openExtents_within : Within [.holds] e e.openExtents := foldl (fun _ _ => ite (.refl _ _) (modHold_within _ _ _)) _ e

theorem recount_within : Within [.counters] e e.recount :=
  foldl (fun e _ => (modCounter_within e _ _).trans (charge_within _ _ _)) _ e

theorem modReport_within (f : StartReport → StartReport) : Within [.service] e (e.modReport f) :=
  service_within e e.ssc.service e.ssc.devices _

/-- The parts that the reconciliation of a body can change. -/
def reconcileParts : List Part := [.records, .mailboxes, .writes, .counters, .sessions, .lmp, .bodies, .holds, .service]

theorem reconcile_within (b : Nat) : Within reconcileParts e (e.reconcile b) := by
  unfold reconcile
  split
  · refine ite ((recordSealed_within e _ _).mono rfl) (ite ?_ ?_)
    · exact (((sealBody_within e _ _ _).mono (qs := reconcileParts) rfl).step (recordSealed_within _ _ _) rfl).step (modReport_within _ _) rfl
    · exact ((((detachRecord_within e _ _).mono (qs := reconcileParts) rfl).step (modShare_within _ _ _) rfl).step (handInputs_within _ _) rfl).step
        (modReport_within _ _) rfl
  · exact .refl _ _

theorem clearStagings_within : Within [.greetings, .writes] e e.clearStagings :=
  foldl (fun e _ => ite ((put_within e _).mono rfl) (.refl _ _)) _ e

theorem fitShare_within (b : Nat) : Within [.bodies, .writes] e (e.fitShare b) := by
  unfold fitShare
  split
  · exact .refl _ _
  · exact ite (.refl _ _) ((put_within e _).mono rfl)

theorem releaseAtStart_within (b : Nat) : Within (.service :: releaseParts) e (e.releaseAtStart b) := by
  unfold releaseAtStart
  split
  · exact .refl _ _
  · exact ite (.refl _ _) (((((makeAllDirty_within e _).mono (qs := .service :: releaseParts) rfl).step (put_within _ _) rfl).step
      (modHold_within _ _ _) rfl).step (modReport_within _ _) rfl)

/-! ## The check as a whole -/

/-- The lists that the check repairs and the counts it makes before it reconciles the bodies. -/
def Engine.repaired (e : Engine) : Engine :=
  let e1 := e.clampSettings.walk.repairLists
  (e1.loadedBoxes.foldl (fun e m => e.repairBox m) e1).openExtents.recount

/-- The bodies reconciled, the stagings let go, and the shares counted. -/
def Engine.reconciled (e : Engine) : Engine :=
  let e3 := (e.bodiesInUse.foldl (fun e b => e.reconcile b) e).clearStagings
  e3.bodiesInUse.foldl (fun e b => e.fitShare b) e3

/-- The bodies without a share released. -/
def Engine.released (e : Engine) : Engine := e.bodiesInUse.foldl (fun e b => e.releaseAtStart b) e

theorem checkSteps_eq : e.checkSteps = e.repaired.reconciled.released := rfl

theorem repairBoxes_within (ms : List Nat) : Within boxParts e (ms.foldl (fun e m => e.repairBox m) e) := foldl (fun e m => repairBox_within e m) ms e

theorem reconciled_within : Within (.greetings :: reconcileParts) e e.reconciled := by
  unfold reconciled
  extract_lets e3
  have h3 : Within (.greetings :: reconcileParts) e e3 :=
    (foldl (fun e b => (reconcile_within e b).mono rfl) _ e).step (clearStagings_within _) rfl
  exact h3.trans (foldl (fun e b => (fitShare_within e b).mono rfl) _ _)

theorem released_within : Within (.service :: releaseParts) e e.released := foldl (fun e b => releaseAtStart_within e b) _ e

/-- The store check over a catalogue memory: without a device it only says so; otherwise a start is under way, the map is fitted and the steps run. -/
theorem storeCheck_eq (cause : StartCause) (x : Selects) :
    ∃ e1 : Engine, e1.ssc.start ≠ none ∧ Within [.service] e e1 ∧ (e1.ssc.service = .starting) ∧
      e.storeCheck cause x = if countSelects x = 0 then e.modSsc (fun c => { c with devices := countSelects x })
        else { (((e1.fitMap (countSelects x)).checkSteps).flush .nothing) with lmp := e.lmp } :=
  ⟨_, by simp, (service_within e e.ssc.service (countSelects x) e.ssc.start).trans (service_within _ .starting (countSelects x) _), rfl, rfl⟩

end

end Sys2Proof.Machine

/-! Proofs about sparse tables: keys, and the lowest free one. -/

namespace Sys2Proof.Tab

variable {α : Type}

theorem risingFrom_cons {lo : Option Nat} {k : Nat} {v : α} {t : Tab α} :
    risingFrom lo ((k, v) :: t) = true ↔ above lo k = true ∧ risingFrom (some k) t = true := Bool.and_eq_true_iff

theorem risingFrom_none {lo : Option Nat} {t : Tab α} (h : risingFrom lo t = true) : risingFrom none t = true := risingFrom_weaken (fun _ _ => rfl) t h

theorem lt_of_mem_rising {k : Nat} : ∀ {t : Tab α}, risingFrom (some k) t = true → ∀ x ∈ t, k < x.1
  | [], _, _, hx => absurd hx List.not_mem_nil
  | (j, v) :: t, h, x, hx => by
    obtain ⟨hk, ht⟩ := risingFrom_cons.1 h
    have hkj : k < j := by simpa [above] using hk
    rcases List.mem_cons.1 hx with rfl | hx
    · exact hkj
    · exact hkj.trans (lt_of_mem_rising ht x hx)

theorem mem_of_find? : ∀ {t : Tab α} {n : Nat} {v : α}, find? t n = some v → (n, v) ∈ t
  | (k, w) :: t, n, v, h => by
    simp only [find?] at h
    split at h
    case isTrue hn => exact hn ▸ Option.some.inj h ▸ List.mem_cons_self
    · exact List.mem_cons_of_mem _ (mem_of_find? h)

theorem find?_of_mem : ∀ {lo : Option Nat} {t : Tab α}, risingFrom lo t = true → ∀ x ∈ t, find? t x.1 = some x.2
  | _, [], _, _, hx => absurd hx List.not_mem_nil
  | _, (j, v) :: t, h, x, hx => by
    obtain ⟨-, ht⟩ := risingFrom_cons.1 h
    simp only [find?]
    rcases List.mem_cons.1 hx with rfl | hx
    · rw [if_pos rfl]
    · rw [if_neg (lt_of_mem_rising ht x hx).ne']
      exact find?_of_mem ht x hx

theorem find?_eq_none_iff {t : Tab α} {n : Nat} : find? t n = none ↔ n ∉ t.map (·.1) := by
  induction t with
  | nil => simp
  | cons x t ih =>
    obtain ⟨k, v⟩ := x
    simp only [find?, List.map_cons, List.mem_cons, not_or]
    split
    case isTrue h => simp [h]
    case isFalse h => simp [h, ih]

theorem keys_nodup : ∀ {lo : Option Nat} {t : Tab α}, risingFrom lo t = true → (t.map (·.1)).Nodup
  | _, [], _ => List.nodup_nil
  | _, (k, v) :: t, h => by
    obtain ⟨-, ht⟩ := risingFrom_cons.1 h
    refine List.nodup_cons.2 ⟨fun hk => ?_, keys_nodup ht⟩
    obtain ⟨x, hx, hxk⟩ := List.mem_map.1 hk
    exact (lt_of_mem_rising ht x hx).ne' hxk

theorem le_lowestFreeFrom : ∀ (t : Tab α) (n : Nat), n ≤ lowestFreeFrom n t
  | [], n => le_refl n
  | (k, v) :: t, n => by
    unfold lowestFreeFrom
    split
    · exact (Nat.le_succ n).trans (le_lowestFreeFrom t (n + 1))
    · exact le_refl n

theorem find?_lowestFreeFrom : ∀ {t : Tab α} {lo : Option Nat} (n : Nat), risingFrom lo t = true → (∀ x ∈ t, n ≤ x.1) →
    find? t (lowestFreeFrom n t) = none
  | [], _, _, _, _ => rfl
  | (k, v) :: t, _, n, h, hn => by
    obtain ⟨-, ht⟩ := risingFrom_cons.1 h
    unfold lowestFreeFrom
    split
    case isTrue hk =>
      have hge := le_lowestFreeFrom t (n + 1)
      simp only [find?]
      rw [if_neg (by omega)]
      exact find?_lowestFreeFrom (n + 1) ht (fun x hx => hk ▸ lt_of_mem_rising ht x hx)
    case isFalse hk =>
      have hlt : n < k := lt_of_le_of_ne (hn (k, v) List.mem_cons_self) (Ne.symm hk)
      refine find?_eq_none_iff.2 (fun hm => ?_)
      obtain ⟨x, hx, rfl⟩ := List.mem_map.1 hm
      rcases List.mem_cons.1 hx with rfl | hx
      · exact lt_irrefl _ hlt
      · exact lt_irrefl _ (hlt.trans (lt_of_mem_rising ht x hx))

/-- The lowest free key of a table with rising keys is free. -/
theorem find?_lowestFree {t : Tab α} (h : risingFrom none t = true) : find? t (lowestFree t) = none :=
  find?_lowestFreeFrom 0 h (fun _ _ => Nat.zero_le _)

theorem find?_foldl_erase (j : Nat) : ∀ (is : List Nat) (d : Tab α),
    find? (is.foldl (fun t i => put i none t) d) j = if j ∈ is then none else find? d j
  | [], _ => by simp
  | i :: is, d => by
    rw [List.foldl_cons, find?_foldl_erase j is, find?_put]
    by_cases hj : j ∈ is <;> by_cases hi : j = i <;> simp [hj, hi]

theorem risingFrom_foldl_erase (lo : Option Nat) : ∀ (is : List Nat) (d : Tab α), risingFrom lo d = true →
    risingFrom lo (is.foldl (fun t i => put i none t) d) = true
  | [], _, h => h
  | i :: is, _, h => risingFrom_foldl_erase lo is _ (risingFrom_erase i lo _ h)

theorem risingFrom_put {n : Nat} {v : Option α} {t : Tab α} (h : risingFrom none t = true) : risingFrom none (put n v t) = true := by
  cases v with
  | none => exact risingFrom_erase n none t h
  | some v => exact risingFrom_insert n v none t (fun _ hl => absurd hl (by simp)) h

end Sys2Proof.Tab

namespace Sys2Proof.Machine

/-! Proofs about section 8: the member area stays shared out among the lists. -/

/-- No part of a list stands in another. -/
def partsApart (ps qs : List Part) : Bool := ps.all (fun p => !decide (p ∈ qs))

theorem not_mem_of_partsApart {ps qs : List Part} (h : partsApart ps qs = true) {p : Part} (hp : p ∈ ps) : p ∉ qs := by
  simpa using List.all_eq_true.1 h p hp

theorem partsApart_of_subset {ps qs rs : List Part} (h : partsApart ps qs = true) (hr : rs ⊆ ps) : partsApart rs qs = true :=
  List.all_eq_true.2 (fun p hp => List.all_eq_true.1 h p (hr hp))

namespace Engine.Within

variable {ps : List Part} {e g : Engine}

theorem walked (h : Within ps e g) (hp : partsApart [.service] ps = true) : g.walked ↔ e.walked := by
  obtain ⟨hs, -, ht⟩ := h.same State.reset .service (not_mem_of_partsApart hp (.head _))
  unfold Engine.walked
  rw [hs, ht]

theorem members (h : Within ps e g) (hp : partsApart [.members] ps = true) : g.tab.members = e.tab.members :=
  h.same State.reset .members (not_mem_of_partsApart hp (.head _))

theorem lists (h : Within ps e g) (hp : partsApart [.lists] ps = true) : g.tab.lists = e.tab.lists :=
  h.same State.reset .lists (not_mem_of_partsApart hp (.head _))

end Engine.Within

/-! ## The lists of the member area -/

/-- The lists are es: each list's chain, its members once, the lists apart, and every member entry in one. -/
structure Engine.ListsAre (es : Nat → List Nat) (e : Engine) : Prop where
  rising : Tab.risingFrom none e.tab.members = true
  chain : ∀ l, e.memberChain l (es l)
  once : ∀ l, (es l).Nodup
  bounded : ∀ l, (es l).length ≤ Config.listMembers
  named : ∀ l, (e.listMembers l).Nodup
  apart : ∀ l k i, i ∈ es l → i ∈ es k → l = k
  covers : ∀ i, Tab.find? e.tab.members i ≠ none → ∃ l, i ∈ es l

theorem membered_iff (e : Engine) : e.membered ↔ (e.walked → ∃ es, e.ListsAre es) := by
  unfold Engine.membered
  refine forall_congr' fun _ => ⟨?_, ?_⟩
  · rintro ⟨hr, es, hl, ha, hc⟩
    exact ⟨es, hr, fun l => (hl l).1, fun l => (hl l).2.1, fun l => (hl l).2.2.1, fun l => (hl l).2.2.2, ha, hc⟩
  · rintro ⟨es, h⟩
    exact ⟨h.rising, es, fun l => ⟨h.chain l, h.once l, h.bounded l, h.named l⟩, h.apart, h.covers⟩

theorem membersFrom_congr {e g : Engine} (h : g.tab.members = e.tab.members) : ∀ (n : Nat) (i : Option Nat), g.membersFrom n i = e.membersFrom n i
  | 0, _ => rfl
  | n + 1, none => rfl
  | n + 1, some i => by
    unfold Engine.membersFrom
    rw [h]
    split
    · rfl
    · rw [membersFrom_congr h n]

theorem membered_congr {e g : Engine} (hw : g.walked ↔ e.walked) (hm : g.tab.members = e.tab.members) (hl : g.tab.lists = e.tab.lists)
    (h : e.membered) : g.membered := by
  unfold Engine.membered Engine.memberChain Engine.listMembers Engine.listEntries Engine.list at h ⊢
  simp only [hw, hm, hl, membersFrom_congr hm]
  exact h

/-- What leaves the lists, the member area and the service state alone keeps the lists whole. -/
theorem Engine.Within.membered {ps : List Part} {e g : Engine} (h : Within ps e g) (he : e.membered)
    (hp : partsApart [.service, .members, .lists] ps = true) : g.membered :=
  membered_congr (h.walked (partsApart_of_subset hp (by simp))) (h.members (partsApart_of_subset hp (by simp)))
    (h.lists (partsApart_of_subset hp (by simp))) he

/-! ## The chain of a list and its walk -/

/-- The mailbox that a member entry names. -/
def Engine.memberBox (e : Engine) (i : Nat) : Nat := ((Tab.find? e.tab.members i).map (·.mailbox)).getD 0

/-- The entries es are linked: each is in use, and its next is the entry after it, where one is. -/
def Engine.memberLinks (e : Engine) (es : List Nat) : Prop :=
  ∀ before i after, es = before ++ i :: after → ∃ v, Tab.find? e.tab.members i = some v ∧ (after ≠ [] → v.next = after.head?)

theorem memberLinks_tail {e : Engine} {i : Nat} {es : List Nat} (h : e.memberLinks (i :: es)) : e.memberLinks es := fun before j after hj =>
  h (i :: before) j after (by rw [hj, List.cons_append])

theorem memberLinks_mem {e : Engine} {es : List Nat} (h : e.memberLinks es) {i : Nat} (hi : i ∈ es) : ∃ v, Tab.find? e.tab.members i = some v := by
  obtain ⟨before, after, rfl⟩ := List.append_of_mem hi
  obtain ⟨v, hv, -⟩ := h before i after rfl
  exact ⟨v, hv⟩

/-- The walk along linked entries gives them with their mailboxes. -/
theorem membersFrom_links (e : Engine) : ∀ es : List Nat, e.memberLinks es → e.membersFrom es.length es.head? = es.map (fun i => (i, e.memberBox i))
  | [], _ => rfl
  | i :: es, h => by
    obtain ⟨v, hv, hn⟩ := h [] i es rfl
    have ih := membersFrom_links e es (memberLinks_tail h)
    have hrest : e.membersFrom es.length v.next = e.membersFrom es.length es.head? := by
      cases es with
      | nil => rfl
      | cons j es => rw [hn (List.cons_ne_nil _ _)]
    simp only [List.length_cons, List.head?_cons, Engine.membersFrom, hv, List.map_cons, hrest, ih, Engine.memberBox, Option.map_some, Option.getD_some]

theorem listEntries_of_chain {e : Engine} {l : Nat} {es : List Nat} (h : e.memberChain l es) :
    e.listEntries l = es.map (fun i => (i, e.memberBox i)) := by
  obtain ⟨hc, hf, -, hlinks⟩ := h
  unfold Engine.listEntries
  rw [hf, ← hc]
  exact membersFrom_links e es hlinks

theorem listMembers_of_chain {e : Engine} {l : Nat} {es : List Nat} (h : e.memberChain l es) : e.listMembers l = es.map e.memberBox := by
  unfold Engine.listMembers
  rw [listEntries_of_chain h, List.map_map]
  rfl

/-! ## A list cleared -/

/-- Entries put free leave everything else of the catalogue. -/
theorem foldl_putMember_tab : ∀ (is : List Nat) (e : Engine),
    (is.foldl (fun e i => e.put (.member i none)) e).tab = { e.tab with members := is.foldl (fun t i => Tab.put i none t) e.tab.members }
  | [], _ => rfl
  | i :: is, e => by rw [List.foldl_cons, foldl_putMember_tab is]; rfl

theorem clearList_tab (l : Nat) (e : Engine) : (e.clearList l).tab =
    { e.tab with lists := Tab.set DistList.empty l DistList.empty e.tab.lists,
                 members := ((e.listEntries l).map (·.1)).foldl (fun t i => Tab.put i none t) e.tab.members } := by
  unfold Engine.clearList
  rw [← List.foldl_map (f := fun x : Nat × Nat => x.1) (g := fun e i => Engine.put (.member i none) e), foldl_putMember_tab]
  rfl

theorem list_clearList (l : Nat) (e : Engine) (k : Nat) : (e.clearList l).list k = if k = l then DistList.empty else e.list k := by
  unfold Engine.list
  rw [clearList_tab]
  exact Tab.get_set DistList.empty l DistList.empty e.tab.lists k

theorem clearList_listsAre {es : Nat → List Nat} {e : Engine} (h : e.ListsAre es) (l : Nat) :
    (e.clearList l).ListsAre (fun k => if k = l then [] else es k) := by
  have hentries : (e.listEntries l).map (·.1) = es l := by
    rw [listEntries_of_chain (h.chain l), List.map_map]
    simp [Function.comp_def]
  have hfind : ∀ j, Tab.find? (e.clearList l).tab.members j = if j ∈ es l then none else Tab.find? e.tab.members j := fun j => by
    rw [clearList_tab, hentries]
    exact Tab.find?_foldl_erase _ _ _
  have hapart : ∀ k, k ≠ l → ∀ i ∈ es k, i ∉ es l := fun k hk i hi hl => hk (h.apart k l i hi hl)
  have hchain : ∀ k, (e.clearList l).memberChain k (if k = l then [] else es k) := by
    intro k
    unfold Engine.memberChain
    rw [list_clearList]
    split
    · exact ⟨rfl, rfl, rfl, fun before i after hb => absurd hb (by simp)⟩
    case isFalse hk =>
      obtain ⟨hc, hf, ht, hlinks⟩ := h.chain k
      refine ⟨hc, hf, ht, fun before i after hb => ?_⟩
      rw [hfind, if_neg (hapart k hk i (by rw [hb]; simp))]
      exact hlinks before i after hb
  refine ⟨?_, hchain, fun k => ?_, fun k => ?_, fun k => ?_, fun k j i => ?_, fun i hi => ?_⟩
  · rw [clearList_tab]
    exact Tab.risingFrom_foldl_erase _ _ _ h.rising
  · split
    · exact List.nodup_nil
    · exact h.once k
  · split
    · exact Nat.zero_le _
    · exact h.bounded k
  · have hn := h.named k
    rw [listMembers_of_chain (h.chain k)] at hn
    rw [listMembers_of_chain (hchain k)]
    split
    · exact List.nodup_nil
    case isFalse hk =>
      refine (List.map_congr_left (fun i hi => ?_)).symm ▸ hn
      unfold Engine.memberBox
      rw [hfind, if_neg (hapart k hk i hi)]
  · show i ∈ (if k = l then [] else es k) → i ∈ (if j = l then [] else es j) → k = j
    split
    · exact fun hi => absurd hi (List.not_mem_nil)
    · split
      · exact fun _ hi => absurd hi (List.not_mem_nil)
      · exact h.apart k j i
  · rw [hfind] at hi
    split at hi
    · exact absurd rfl hi
    case isFalse hl =>
      obtain ⟨k, hk⟩ := h.covers i hi
      exact ⟨k, by rw [if_neg (fun hkl : k = l => hl (hkl ▸ hk))]; exact hk⟩

/-! ## A member added -/

theorem list_addMember (l m : Nat) (e : Engine) (k : Nat) : (e.addMember l m).list k = if k = l then
    { first := (e.list l).first.or (some (Tab.lowestFree e.tab.members)), last := some (Tab.lowestFree e.tab.members), count := (e.list l).count + 1 }
    else e.list k := by
  unfold Engine.addMember
  extract_lets d i e1 e2
  have h2 : e2.tab.lists = e.tab.lists := by
    unfold e2
    split
    · rfl
    · split <;> rfl
  refine (list_putList _ l _ k).trans ?_
  show (if k = l then _ else Tab.get _ e2.tab.lists k) = _
  rw [h2]
  rfl

/-- The entry taken is a free one, and the list's last member is linked to it. -/
theorem member_addMember {l m : Nat} {e : Engine} (hr : Tab.risingFrom none e.tab.members = true)
    (hlast : ∀ t, (e.list l).last = some t → ∃ v, Tab.find? e.tab.members t = some v) (j : Nat) :
    Tab.find? (e.addMember l m).tab.members j = if (e.list l).last = some j then
      (Tab.find? e.tab.members j).map (fun v => { v with next := some (Tab.lowestFree e.tab.members) })
    else if j = Tab.lowestFree e.tab.members then some { mailbox := m, next := none } else Tab.find? e.tab.members j := by
  have hfree := Tab.find?_lowestFree hr
  unfold Engine.addMember
  extract_lets d i e1 e2
  have h1 : ∀ j, Tab.find? e1.tab.members j = if j = i then some { mailbox := m, next := none } else Tab.find? e.tab.members j :=
    member_putMember _ _ _
  change Tab.find? e2.tab.members j = if d.last = some j then _ else _
  unfold e2
  split
  case h_1 hd =>
    rw [if_neg (by rw [hd]; exact nofun)]
    exact h1 j
  case h_2 t hd =>
    obtain ⟨v, hv⟩ := hlast t hd
    have hti : t ≠ i := fun h => by rw [h, hfree] at hv; cases hv
    have hv1 : Tab.find? e1.tab.members t = some v := by rw [h1, if_neg hti, hv]
    rw [hv1]
    refine (member_putMember _ _ _ j).trans ?_
    rw [hd]
    by_cases hj : j = t
    · rw [if_pos hj, if_pos (by rw [hj]), hj, hv]
      rfl
    · rw [if_neg hj, if_neg (fun h => hj (Option.some.inj h).symm)]
      exact h1 j

theorem memberBox_addMember {es : Nat → List Nat} {e : Engine} (h : e.ListsAre es) (l m i : Nat) :
    (e.addMember l m).memberBox i = if i = Tab.lowestFree e.tab.members then m else e.memberBox i := by
  have hfree := Tab.find?_lowestFree h.rising
  obtain ⟨-, -, hlast, hlinks⟩ := h.chain l
  have hin : ∀ t, (e.list l).last = some t → ∃ v, Tab.find? e.tab.members t = some v := fun t ht =>
    memberLinks_mem hlinks (List.mem_of_getLast? (hlast ▸ ht))
  unfold Engine.memberBox
  rw [member_addMember h.rising hin]
  by_cases hi : i = Tab.lowestFree e.tab.members
  · rw [if_pos hi, if_neg, if_pos hi]
    · rfl
    · intro ht
      obtain ⟨v, hv⟩ := hin i ht
      rw [hi, hfree] at hv
      cases hv
  · rw [if_neg hi, if_neg hi]
    split
    · cases Tab.find? e.tab.members i <;> rfl
    · rfl

theorem memberLinks_nil (e : Engine) : e.memberLinks [] := fun _ _ _ h => absurd h (by simp)

theorem memberLinks_cons {e : Engine} {i : Nat} {es : List Nat} : e.memberLinks (i :: es) ↔
    (∃ v, Tab.find? e.tab.members i = some v ∧ (es ≠ [] → v.next = es.head?)) ∧ e.memberLinks es := by
  refine ⟨fun h => ⟨h [] i es rfl, memberLinks_tail h⟩, fun ⟨hi, h⟩ before j after hb => ?_⟩
  cases before with
  | nil =>
    obtain ⟨rfl, rfl⟩ := List.cons.inj hb
    exact hi
  | cons a before => exact h before j after (List.cons.inj hb).2

/-- Linked entries stay linked with one more behind them, where the last of them is given it as its next. -/
theorem memberLinks_concat {e g : Engine} {i : Nat} (hi : ∃ v, Tab.find? g.tab.members i = some v) : ∀ es : List Nat, es.Nodup → e.memberLinks es →
    (∀ j ∈ es, Tab.find? g.tab.members j = if es.getLast? = some j then (Tab.find? e.tab.members j).map (fun v => { v with next := some i })
      else Tab.find? e.tab.members j) → g.memberLinks (es ++ [i])
  | [], _, _, _ => memberLinks_cons.2 ⟨hi.imp fun _ h => ⟨h, fun hne => absurd rfl hne⟩, memberLinks_nil g⟩
  | [a], _, h, hg => by
    obtain ⟨⟨v, hv, -⟩, -⟩ := memberLinks_cons.1 h
    refine memberLinks_cons.2 ⟨⟨{ v with next := some i }, ?_, fun _ => rfl⟩, ?_⟩
    · rw [hg a (by simp), if_pos (by simp), hv]
      rfl
    · exact memberLinks_concat (e := e) hi [] List.nodup_nil (memberLinks_nil e) (fun _ hj => absurd hj List.not_mem_nil)
  | a :: b :: es, hn, h, hg => by
    obtain ⟨⟨v, hv, hnext⟩, htail⟩ := memberLinks_cons.1 h
    obtain ⟨ha, hn⟩ := List.nodup_cons.1 hn
    have hlast : ∀ j, (a :: b :: es).getLast? = some j ↔ (b :: es).getLast? = some j := fun j => by rw [List.getLast?_cons_cons]
    refine memberLinks_cons.2 ⟨⟨v, ?_, fun _ => hnext (List.cons_ne_nil _ _)⟩, ?_⟩
    · rw [hg a List.mem_cons_self, if_neg, hv]
      rw [hlast]
      exact fun hl => ha (List.mem_of_getLast? hl)
    · refine memberLinks_concat hi (b :: es) hn htail (fun j hj => ?_)
      rw [hg j (List.mem_cons_of_mem _ hj)]
      simp only [hlast]

/-- What an added member's entry is taken from: a free entry, behind the list's last. -/
theorem addMember_chain {es : Nat → List Nat} {e : Engine} (h : e.ListsAre es) (l m k : Nat) :
    (e.addMember l m).memberChain k (if k = l then es l ++ [Tab.lowestFree e.tab.members] else es k) := by
  have hfree := Tab.find?_lowestFree h.rising
  have hlist := list_addMember l m e
  obtain ⟨hcount, hfirst, hlast, hlinks⟩ := h.chain l
  have hmem : ∀ t, (e.list l).last = some t → t ∈ es l := fun t ht => List.mem_of_getLast? (hlast ▸ ht)
  have hfind := member_addMember (m := m) h.rising (fun t ht => memberLinks_mem hlinks (hmem t ht))
  generalize Tab.lowestFree e.tab.members = i at hfree hfind hlist
  have hne : ∀ k, ∀ j ∈ es k, j ≠ i := fun k j hj hji => by
    obtain ⟨v, hv⟩ := memberLinks_mem (h.chain k).2.2.2 hj
    rw [hji, hfree] at hv
    cases hv
  unfold Engine.memberChain
  rw [hlist]
  split
  · refine ⟨by simp [hcount], ?_, by simp, memberLinks_concat (e := e) ⟨{ mailbox := m, next := none }, ?_⟩ _ (h.once l) hlinks (fun j hj => ?_)⟩
    · rw [List.head?_append, hfirst]
      rfl
    · rw [hfind, if_neg (fun ht => hne l i (hmem i ht) rfl), if_pos rfl]
    · rw [hfind, hlast, if_neg (hne l j hj)]
  case isFalse hk =>
    obtain ⟨hck, hfk, htk, hlk⟩ := h.chain k
    refine ⟨hck, hfk, htk, fun before j after hb => ?_⟩
    have hj : j ∈ es k := by rw [hb]; simp
    rw [hfind, if_neg (fun ht => hk (h.apart k l j hj (hmem j ht))), if_neg (hne k j hj)]
    exact hlk before j after hb

theorem not_mem_of_free {es : Nat → List Nat} {e : Engine} (h : e.ListsAre es) {i : Nat} (hi : Tab.find? e.tab.members i = none) (k : Nat) :
    i ∉ es k := fun hk => by
  obtain ⟨v, hv⟩ := memberLinks_mem (h.chain k).2.2.2 hk
  rw [hi] at hv
  cases hv

theorem listMembers_addMember {es : Nat → List Nat} {e : Engine} (h : e.ListsAre es) (l m k : Nat) :
    (e.addMember l m).listMembers k = if k = l then e.listMembers l ++ [m] else e.listMembers k := by
  have hnew := not_mem_of_free h (Tab.find?_lowestFree h.rising)
  have hbox := memberBox_addMember h l m
  have hsame : ∀ k, (es k).map (e.addMember l m).memberBox = (es k).map e.memberBox := fun k =>
    List.map_congr_left (fun i hi => by rw [hbox, if_neg (fun hf : i = Tab.lowestFree e.tab.members => hnew k (hf ▸ hi))])
  rw [listMembers_of_chain (addMember_chain h l m k), listMembers_of_chain (h.chain l), listMembers_of_chain (h.chain k)]
  split
  · rw [List.map_append, hsame, List.map_singleton, hbox, if_pos rfl]
  · exact hsame k

theorem addMember_listsAre {es : Nat → List Nat} {e : Engine} (h : e.ListsAre es) {l m : Nat} (hm : m ∉ e.listMembers l)
    (hc : (e.list l).count < Config.listMembers) :
    (e.addMember l m).ListsAre (fun k => if k = l then es l ++ [Tab.lowestFree e.tab.members] else es k) := by
  have hnew := not_mem_of_free h (Tab.find?_lowestFree h.rising)
  have hmem : ∀ {k i}, (i ∈ if k = l then es l ++ [Tab.lowestFree e.tab.members] else es k) →
      i ∈ es k ∨ (k = l ∧ i = Tab.lowestFree e.tab.members) := by
    intro k i hi
    split at hi
    case isTrue hk =>
      rcases List.mem_append.1 hi with hi | hi
      · exact .inl (hk ▸ hi)
      · exact .inr ⟨hk, List.mem_singleton.1 hi⟩
    · exact .inl hi
  refine ⟨?_, addMember_chain h l m, fun k => ?_, fun k => ?_, fun k => ?_, fun k j i hk hj => ?_, fun i hi => ?_⟩
  · have hput : ∀ (i : Nat) (v : Option Member) (g : Engine), Tab.risingFrom none g.tab.members = true →
        Tab.risingFrom none (g.put (.member i v)).tab.members = true := fun _ _ _ hg => Tab.risingFrom_put hg
    unfold Engine.addMember
    extract_lets d i e1 e2
    have h1 : Tab.risingFrom none e1.tab.members = true := hput _ _ _ h.rising
    show Tab.risingFrom none e2.tab.members = true
    unfold e2
    split
    · exact h1
    · split
      · exact h1
      · exact hput _ _ _ h1
  · split
    · exact List.nodup_append.2 ⟨h.once l, List.nodup_singleton _, fun a ha b hb hab => hnew l (List.mem_singleton.1 hb ▸ hab ▸ ha)⟩
    · exact h.once k
  · split
    · rw [List.length_append, (h.chain l).1]
      exact hc
    · exact h.bounded k
  · rw [listMembers_addMember h]
    split
    · exact List.nodup_append.2 ⟨h.named l, List.nodup_singleton _, fun a ha b hb hab => hm (List.mem_singleton.1 hb ▸ hab ▸ ha)⟩
    · exact h.named k
  · rcases hmem hk with hk | ⟨hkl, hik⟩ <;> rcases hmem hj with hj | ⟨hjl, hij⟩
    · exact h.apart k j i hk hj
    · exact absurd (hij ▸ hk) (hnew k)
    · exact absurd (hik ▸ hj) (hnew j)
    · exact hkl.trans hjl.symm
  · by_cases hf : i = Tab.lowestFree e.tab.members
    · exact ⟨l, by rw [if_pos rfl, hf]; simp⟩
    · have hi' : Tab.find? e.tab.members i ≠ none := fun hn => hi (by
        rw [member_addMember h.rising (fun t ht => memberLinks_mem (h.chain l).2.2.2 (List.mem_of_getLast? ((h.chain l).2.2.1 ▸ ht))), if_neg hf, hn]
        simp)
      obtain ⟨k, hk⟩ := h.covers i hi'
      refine ⟨k, ?_⟩
      split
      case isTrue hkl => exact List.mem_append_left _ (hkl ▸ hk)
      · exact hk

end Sys2Proof.Machine

namespace Sys2Proof.Machine

/-! Proofs about section 8: the repair of the distribution lists (R157), and the lists through every step. -/

/-! ## The walk of a list -/

/-- A list's walk so far: the entries kept are linked from the first, each mailbox once, and the last one's next is where the walk stands. -/
structure Engine.Walking (e : Engine) (first : Option Nat) (kept : List (Nat × Nat)) (cur : Option Nat) : Prop where
  links : e.memberLinks (kept.map (·.1))
  named : ∀ x ∈ kept, ∃ v, Tab.find? e.tab.members x.1 = some v ∧ v.mailbox = x.2
  last : ∀ x, kept.getLast? = some x → (Tab.find? e.tab.members x.1).bind (·.next) = cur
  head : (kept.head?.map (·.1)).or (if kept = [] then cur else none) = first
  once : (kept.map (·.2)).Nodup

theorem memberLinks_snoc {e : Engine} {i : Nat} {v : Member} (hi : Tab.find? e.tab.members i = some v) : ∀ es : List Nat, e.memberLinks es →
    (∀ j, es.getLast? = some j → (Tab.find? e.tab.members j).bind (·.next) = some i) → e.memberLinks (es ++ [i])
  | [], _, _ => memberLinks_cons.2 ⟨⟨v, hi, fun hne => absurd rfl hne⟩, memberLinks_nil e⟩
  | [a], h, hl => by
    obtain ⟨⟨w, hw, -⟩, -⟩ := memberLinks_cons.1 h
    have hn := hl a rfl
    rw [hw] at hn
    exact memberLinks_cons.2 ⟨⟨w, hw, fun _ => hn⟩, memberLinks_snoc hi [] (memberLinks_nil e) (by simp)⟩
  | a :: b :: es, h, hl => by
    obtain ⟨⟨w, hw, hn⟩, ht⟩ := memberLinks_cons.1 h
    exact memberLinks_cons.2 ⟨⟨w, hw, fun _ => hn (List.cons_ne_nil _ _)⟩,
      memberLinks_snoc hi (b :: es) ht (fun j hj => hl j (by rw [List.getLast?_cons_cons]; exact hj))⟩

theorem Engine.Walking.snoc {e : Engine} {first : Option Nat} {kept : List (Nat × Nat)} {i : Nat} {v : Member}
    (h : e.Walking first kept (some i)) (hv : Tab.find? e.tab.members i = some v) (hm : v.mailbox ∉ kept.map (·.2)) :
    e.Walking first (kept ++ [(i, v.mailbox)]) v.next where
  links := by
    rw [List.map_append]
    refine memberLinks_snoc hv _ h.links (fun j hj => ?_)
    rw [List.getLast?_map] at hj
    obtain ⟨x, hx, rfl⟩ := Option.map_eq_some_iff.1 hj
    exact h.last x hx
  named x hx := by
    rcases List.mem_append.1 hx with hx | hx
    · exact h.named x hx
    · obtain rfl := List.mem_singleton.1 hx
      exact ⟨v, hv, rfl⟩
  last x hx := by
    obtain rfl : (i, v.mailbox) = x := by simpa using hx
    simp [hv]
  head := by
    rw [← h.head]
    cases kept <;> simp
  once := by
    rw [List.map_append]
    exact List.nodup_append.2 ⟨h.once, List.nodup_singleton _, fun a ha b hb hab => hm (by rwa [← (hab.trans (List.mem_singleton.1 hb) : a = v.mailbox)])⟩

theorem keptMembers_walking (e : Engine) (first : Option Nat) : ∀ (n : Nat) (cur : Option Nat) (kept : List (Nat × Nat)),
    n + kept.length ≤ Config.listMembers → e.Walking first kept cur →
    ∃ cur', e.Walking first (e.keptMembers n cur kept) cur' ∧ (e.keptMembers n cur kept).length ≤ Config.listMembers
  | 0, cur, kept, hn, h => ⟨cur, h, by simpa [Engine.keptMembers] using hn⟩
  | n + 1, none, kept, hn, h => ⟨none, h, by simp only [Engine.keptMembers]; omega⟩
  | n + 1, some i, kept, hn, h => by
    unfold Engine.keptMembers
    split
    · exact ⟨some i, h, by omega⟩
    case h_2 v hv =>
      split
      · exact ⟨some i, h, by omega⟩
      case isFalse hk =>
        refine keptMembers_walking e first n v.next _ (by simp; omega) (h.snoc hv (fun hm => hk ?_))
        obtain ⟨x, hx, hxm⟩ := List.mem_map.1 hm
        exact List.any_eq_true.2 ⟨x, hx, by simpa using hxm⟩

theorem walkList_walking (e : Engine) (l : Nat) : ∃ cur, e.Walking (e.list l).first (e.walkList l) cur ∧ (e.walkList l).length ≤ Config.listMembers :=
  keptMembers_walking e _ _ _ [] (by simp) ⟨memberLinks_nil e, by simp, by simp, by simp, List.nodup_nil⟩

/-- The entries that a list's walk keeps. -/
def Engine.keptEntries (e : Engine) (l : Nat) : List Nat := (e.walkList l).map (·.1)

theorem keptEntries_boxes (e : Engine) (l : Nat) : (e.keptEntries l).map e.memberBox = (e.walkList l).map (·.2) := by
  obtain ⟨cur, h, -⟩ := walkList_walking e l
  unfold Engine.keptEntries
  rw [List.map_map]
  refine List.map_congr_left (fun x hx => ?_)
  obtain ⟨v, hv, hm⟩ := h.named x hx
  simp [Engine.memberBox, hv, hm]

theorem keptEntries_nodup (e : Engine) (l : Nat) : (e.keptEntries l).Nodup := by
  obtain ⟨cur, h, -⟩ := walkList_walking e l
  exact List.Nodup.of_map e.memberBox (keptEntries_boxes e l ▸ h.once)

theorem keptMembers_congr {e g : Engine} (h : g.tab.members = e.tab.members) : ∀ (n : Nat) (i : Option Nat) (kept : List (Nat × Nat)),
    g.keptMembers n i kept = e.keptMembers n i kept
  | 0, _, _ => rfl
  | n + 1, none, _ => rfl
  | n + 1, some i, kept => by
    unfold Engine.keptMembers
    rw [h]
    split
    · rfl
    · split
      · rfl
      · exact keptMembers_congr h n _ _

/-! ## The repair -/

/-- A list as its walk leaves it (R157). -/
def Engine.fitted (e : Engine) (l : Nat) : DistList :=
  { first := (e.keptEntries l).head?, last := (e.keptEntries l).getLast?, count := (e.keptEntries l).length }

theorem list_fitList (l : Nat) (e : Engine) (k : Nat) : (e.fitList l).list k = if k = l then e.fitted l else e.list k := by
  unfold Engine.fitList
  extract_lets kept d
  by_cases hd : d = e.list l
  · rw [if_pos hd]
    split
    case isTrue hk => rw [hk]; exact hd.symm
    · rfl
  · rw [if_neg hd]
    exact list_putList e l d k

theorem fitList_members (l : Nat) (e : Engine) : (e.fitList l).tab.members = e.tab.members := by
  unfold Engine.fitList
  extract_lets kept d
  split <;> rfl

/-- The first of a fitted list is the first of the list, or absent where the walk kept none. -/
theorem walkList_fitList (l : Nat) (e : Engine) (k : Nat) : (e.fitList l).walkList k = e.walkList k := by
  unfold Engine.walkList
  rw [keptMembers_congr (fitList_members l e), list_fitList]
  split
  case isFalse => rfl
  case isTrue hk =>
    subst hk
    obtain ⟨cur, h, -⟩ := walkList_walking e k
    have hhead := h.head
    cases hw : e.walkList k with
    | nil =>
      have : (e.fitted k).first = none := by simp [Engine.fitted, Engine.keptEntries, hw]
      rw [this]
      have : e.walkList k = [] := hw
      unfold Engine.walkList at this
      rw [this]
      rfl
    | cons x xs =>
      rw [hw] at hhead
      have : (e.fitted k).first = (e.list k).first := by simpa [Engine.fitted, Engine.keptEntries, hw] using hhead
      rw [this]

theorem foldl_fitList (e : Engine) : ∀ (ls : List Nat) (g : Engine), (∀ k, g.walkList k = e.walkList k) → g.tab.members = e.tab.members →
    (∀ k, (ls.foldl (fun e l => e.fitList l) g).list k = if k ∈ ls then e.fitted k else g.list k) ∧
      (ls.foldl (fun e l => e.fitList l) g).tab.members = e.tab.members
  | [], g, _, hm => ⟨fun k => by simp, hm⟩
  | l :: ls, g, hw, hm => by
    obtain ⟨h1, h2⟩ := foldl_fitList e ls (g.fitList l) (fun k => (walkList_fitList l g k).trans (hw k)) ((fitList_members l g).trans hm)
    refine ⟨fun k => ?_, h2⟩
    rw [List.foldl_cons, h1, list_fitList]
    have hf : g.fitted l = e.fitted l := by unfold Engine.fitted Engine.keptEntries; rw [hw]
    by_cases hk : k ∈ ls <;> by_cases hl : k = l <;> simp [hk, hl, hf]

theorem repairLists_list (e : Engine) (k : Nat) : e.repairLists.list k = e.fitted k := by
  have hput : ∀ (is : List Nat) (g : Engine), (is.foldl (fun e i => e.put (.member i none)) g).list k = g.list k := fun is g => by
    unfold Engine.list
    rw [foldl_putMember_tab]
  unfold Engine.repairLists
  dsimp only
  rw [hput, (foldl_fitList e _ e (fun _ => rfl) rfl).1]
  split
  · rfl
  case isFalse hk =>
    have hlist : e.list k = DistList.empty := by
      unfold Engine.list Tab.get
      rw [Tab.find?_eq_none_iff.2 hk]
      rfl
    have hw : e.walkList k = [] := by
      unfold Engine.walkList
      rw [hlist]
      rfl
    rw [hlist, Engine.fitted, Engine.keptEntries, hw]
    rfl

/-- The entries that some list's walk keeps. -/
def Engine.reachedEntries (e : Engine) : List Nat := ((e.tab.lists.map (·.1)).flatMap (fun l => e.walkList l)).map (·.1)

theorem repairLists_members (e : Engine) : e.repairLists.tab.members =
    ((e.tab.members.map (·.1)).filter (fun i => !e.reachedEntries.contains i)).foldl (fun t i => Tab.put i none t) e.tab.members := by
  have h := (foldl_fitList e (e.tab.lists.map (·.1)) e (fun _ => rfl) rfl).2
  have hput := fun is => foldl_putMember_tab is ((e.tab.lists.map (·.1)).foldl (fun e l => e.fitList l) e)
  unfold Engine.repairLists
  dsimp only
  rw [hput, h]
  rfl

theorem mem_reachedEntries (e : Engine) {i l : Nat} (h : i ∈ e.keptEntries l) : i ∈ e.reachedEntries := by
  obtain ⟨x, hx, rfl⟩ := List.mem_map.1 h
  refine List.mem_map.2 ⟨x, List.mem_flatMap.2 ⟨l, ?_, hx⟩, rfl⟩
  by_contra hl
  have hlist : e.list l = DistList.empty := by
    unfold Engine.list Tab.get
    rw [Tab.find?_eq_none_iff.2 hl]
    rfl
  unfold Engine.walkList at hx
  rw [hlist] at hx
  exact absurd hx List.not_mem_nil

theorem repairLists_find (e : Engine) (i : Nat) :
    Tab.find? e.repairLists.tab.members i = if i ∈ e.reachedEntries then Tab.find? e.tab.members i else none := by
  rw [repairLists_members, Tab.find?_foldl_erase]
  by_cases hr : i ∈ e.reachedEntries
  · simp [hr]
  · cases hf : Tab.find? e.tab.members i with
    | none => simp
    | some v =>
      have hm : i ∈ e.tab.members.map (·.1) := List.mem_map.2 ⟨_, Tab.mem_of_find? hf, rfl⟩
      rw [if_neg hr, if_pos]
      exact List.mem_filter.2 ⟨hm, by simpa using hr⟩

/-- The repair leaves the lists whole, where no two walks meet (R157). -/
theorem repairLists_listsAre (e : Engine) (hr : Tab.risingFrom none e.tab.members = true)
    (hapart : ∀ l k i, i ∈ e.keptEntries l → i ∈ e.keptEntries k → l = k) : e.repairLists.ListsAre e.keptEntries := by
  have hfind : ∀ l, ∀ i ∈ e.keptEntries l, Tab.find? e.repairLists.tab.members i = Tab.find? e.tab.members i := fun l i hi => by
    rw [repairLists_find, if_pos (mem_reachedEntries e hi)]
  have hchain : ∀ l, e.repairLists.memberChain l (e.keptEntries l) := fun l => by
    obtain ⟨cur, h, -⟩ := walkList_walking e l
    unfold Engine.memberChain
    rw [repairLists_list]
    refine ⟨rfl, rfl, rfl, fun before i after hb => ?_⟩
    rw [hfind l i (by rw [hb]; simp)]
    exact h.links before i after hb
  refine ⟨?_, hchain, keptEntries_nodup e, fun l => ?_, fun l => ?_, hapart, fun i hi => ?_⟩
  · rw [repairLists_members]
    exact Tab.risingFrom_foldl_erase none _ _ hr
  · obtain ⟨cur, -, hb⟩ := walkList_walking e l
    simpa [Engine.keptEntries] using hb
  · obtain ⟨cur, h, -⟩ := walkList_walking e l
    rw [listMembers_of_chain (hchain l)]
    have : (e.keptEntries l).map e.repairLists.memberBox = (e.keptEntries l).map e.memberBox :=
      List.map_congr_left (fun i hi => by unfold Engine.memberBox; rw [hfind l i hi])
    rw [this, keptEntries_boxes]
    exact h.once
  · rw [repairLists_find] at hi
    split at hi
    case isTrue hm =>
      obtain ⟨x, hx, rfl⟩ := List.mem_map.1 hm
      obtain ⟨l, -, hxl⟩ := List.mem_flatMap.1 hx
      exact ⟨l, List.mem_map.2 ⟨x, hxl, rfl⟩⟩
    · exact absurd rfl hi

/-! ## The lists through the check -/

theorem walkList_congr {e g : Engine} (hm : g.tab.members = e.tab.members) (hl : g.tab.lists = e.tab.lists) (l : Nat) : g.walkList l = e.walkList l := by
  unfold Engine.walkList Engine.list
  rw [keptMembers_congr hm, hl]

/-- A catalogue in which the lists' walks are apart, as the check's first steps leave it: as it was, or blank. -/
theorem fitMap_lists (c : Nat) (e : Engine) : ((e.fitMap c).tab.members = e.tab.members ∧ (e.fitMap c).tab.lists = e.tab.lists) ∨
    ((e.fitMap c).tab.members = [] ∧ (e.fitMap c).tab.lists = []) := by
  unfold Engine.fitMap
  split
  · exact .inr ⟨rfl, rfl⟩
  · split
    · exact .inl ⟨rfl, rfl⟩
    · split
      · generalize c * Config.deviceSegments = n
        have h : Engine.Within (.signature :: contentParts) e ((e.cutStore n).put (.signature (some c))) := ((cutStore_within e n).mono rfl).step (put_within _ _) rfl
        generalize (e.cutStore n).put (.signature (some c)) = g at h
        exact .inl ⟨(h.members rfl), (h.lists rfl)⟩
      · exact .inl ⟨rfl, rfl⟩

theorem listsApart_engine {e : Engine} (h : e.tab.listsApart) : Tab.risingFrom none e.tab.members = true ∧
    ∀ l k i, i ∈ e.keptEntries l → i ∈ e.keptEntries k → l = k := by
  have hw : ∀ l, (Engine.reset e.tab []).walkList l = e.walkList l := walkList_congr rfl rfl
  obtain ⟨hr, ha⟩ := h
  simp only [hw] at ha
  exact ⟨hr, ha⟩

theorem listsApart_congr {c d : Catalogue} (hm : d.members = c.members) (hl : d.lists = c.lists) (h : c.listsApart) : d.listsApart := by
  have hw : ∀ l, (Engine.reset d []).walkList l = (Engine.reset c []).walkList l := walkList_congr hm hl
  unfold Catalogue.listsApart
  simp only [hw, hm]
  exact h

theorem blank_listsApart : Catalogue.blank.listsApart := by
  have hw : ∀ l, (Engine.reset Catalogue.blank []).walkList l = [] := fun _ => rfl
  refine ⟨rfl, fun l k i hi => ?_⟩
  rw [hw] at hi
  exact absurd hi List.not_mem_nil

theorem ListsAre_congr {es : Nat → List Nat} {e g : Engine} (hm : g.tab.members = e.tab.members) (hl : g.tab.lists = e.tab.lists)
    (h : e.ListsAre es) : g.ListsAre es := by
  obtain ⟨hr, hc, ho, hb, hn, ha, hv⟩ := h
  refine ⟨hm ▸ hr, fun l => ?_, ho, hb, fun l => ?_, ha, fun i => hm ▸ hv i⟩
  · have := hc l
    unfold Engine.memberChain Engine.list at this ⊢
    rwa [hm, hl]
  · have := hn l
    unfold Engine.listMembers Engine.listEntries Engine.list at this ⊢
    rwa [hl, membersFrom_congr hm]

/-- The parts that the check can change behind the repair of the distribution lists. -/
def lateParts : List Part :=
  [.records, .mailboxes, .writes, .holds, .counters, .greetings, .sessions, .lmp, .bodies, .service, .segments, .pool, .outbox, .flags]

theorem checkSteps_late (e : Engine) : Engine.Within lateParts e.clampSettings.walk.repairLists e.checkSteps := by
  rw [checkSteps_eq]
  have h1 := (((repairBoxes_within e.clampSettings.walk.repairLists e.clampSettings.walk.repairLists.loadedBoxes).mono (qs := lateParts) rfl).step
    (openExtents_within _) rfl).step (recount_within _) rfl
  exact (Engine.Within.trans h1 ((reconciled_within e.repaired).mono rfl)).trans ((released_within _).mono rfl)

/-- The lists are whole when the check's steps end. -/
theorem checkSteps_lists {e : Engine} (h : e.tab.listsApart) : ∃ es, e.checkSteps.ListsAre es := by
  have hwalk : Engine.Within (.settings :: walkParts) e e.clampSettings.walk := ((clampSettings_within e).mono rfl).trans ((walk_within _).mono rfl)
  have hapart : e.clampSettings.walk.tab.listsApart := listsApart_congr (hwalk.members rfl) (hwalk.lists rfl) h
  obtain ⟨hr, ha⟩ := listsApart_engine hapart
  have hrepair := repairLists_listsAre _ hr ha
  have hlate := checkSteps_late e
  generalize e.clampSettings.walk.repairLists = e1 at hrepair hlate
  generalize e.checkSteps = e2 at hlate
  exact ⟨_, ListsAre_congr (hlate.members rfl) (hlate.lists rfl) hrepair⟩

theorem storeCheck_membered (cause : StartCause) (x : Selects) {e : Engine} (h : e.tab.listsApart) (hw : ¬ e.walked) :
    (e.storeCheck cause x).membered := by
  obtain ⟨e1, -, hwithin, -, heq⟩ := storeCheck_eq e cause x
  rw [heq]
  split
  · intro hk
    exact absurd hk hw
  · have h1 : e1.tab.listsApart := listsApart_congr (hwithin.members rfl) (hwithin.lists rfl) h
    have h2 : (e1.fitMap (countSelects x)).tab.listsApart := by
      rcases fitMap_lists (countSelects x) e1 with ⟨hm, hl⟩ | ⟨hm, hl⟩
      · exact listsApart_congr hm hl h1
      · exact listsApart_congr (c := Catalogue.blank) hm hl blank_listsApart
    obtain ⟨es, hes⟩ := checkSteps_lists h2
    generalize (e1.fitMap (countSelects x)).checkSteps = g at hes
    have hflush := flush_within g .nothing
    rw [membered_iff]
    exact fun _ => ⟨es, ListsAre_congr (hflush.members rfl) (hflush.lists rfl) hes⟩

/-! ## The lists through every step -/

theorem membered_of_not_walked {e : Engine} (h : ¬ e.walked) : e.membered := fun hw => absurd hw h

theorem clearList_membered {l : Nat} {e : Engine} (h : e.membered) : (e.clearList l).membered := by
  rw [membered_iff] at h ⊢
  intro hw
  obtain ⟨es, hes⟩ := h ((clearList_within e l).walked rfl |>.1 hw)
  exact ⟨_, clearList_listsAre hes l⟩

theorem addMember_membered {l m : Nat} {e : Engine} (hm : m ∉ e.listMembers l) (hc : (e.list l).count < Config.listMembers) (h : e.membered) :
    (e.addMember l m).membered := by
  rw [membered_iff] at h ⊢
  intro hw
  obtain ⟨es, hes⟩ := h ((addMember_within e l m).walked rfl |>.1 hw)
  exact ⟨_, addMember_listsAre hes hm hc⟩

/-- Where the lists were whole already, a change of the service state leaves them so. -/
theorem membered_of_walked {e g : Engine} (hw : e.walked) (ht : g.tab = e.tab) (h : e.membered) : g.membered := by
  rw [membered_iff] at h ⊢
  obtain ⟨es, hes⟩ := h hw
  exact fun _ => ⟨es, ListsAre_congr (ht ▸ rfl) (ht ▸ rfl) hes⟩

theorem recordResult_within (e : Engine) : Engine.Within [.link, .writes] e e.recordResult :=
  ((link_within e .recording e.ssc.opTimer).mono (qs := [.link, .writes]) rfl).step (flush_within _ _) rfl

/-- The parts that the end of an erase can change. -/
def eraseParts : List Part := [.segments, .writes, .pool, .flash, .link, .outbox, .flags]

theorem eraseDone_within (e : Engine) (i : Nat) : Engine.Within eraseParts e (e.eraseDone i) := by
  unfold Engine.eraseDone
  have h1 := ((put_within e (.segment i { state := .erased, body := none, next := none, eraseFailures := 0 })).mono (qs := eraseParts) rfl).step
    (poolLists_within _ (e.ssc.freeList ++ [i]) (Run.pop e.ssc.eraseQueue) e.ssc.poolLow) rfl
  exact (h1.step (flash_within _ (Tab.erase i e.ssc.flash)) rfl).step (recordResult_within _) rfl

theorem eraseFailed_within (e : Engine) (i : Nat) (c : StoreCause) : Engine.Within eraseParts e (e.eraseFailed i c) := by
  unfold Engine.eraseFailed
  refine Engine.Within.ite ?_ ?_
  · have h1 := ((put_within e (.segment i { state := .dirty, body := none, next := none, eraseFailures := 1 })).mono (qs := eraseParts) rfl).step
      (poolLists_within _ e.ssc.freeList (Run.push i (Run.pop e.ssc.eraseQueue)) e.ssc.poolLow) rfl
    exact h1.step (recordResult_within _) rfl
  · have h1 := ((put_within e (.segment i { state := .retired, body := none, next := none, eraseFailures := (e.segment i).eraseFailures })).mono
      (qs := eraseParts) rfl).step (poolLists_within _ e.ssc.freeList (Run.pop e.ssc.eraseQueue) e.ssc.poolLow) rfl
    exact ((h1.step (recordResult_within _) rfl).step (raise_within _ _ _) rfl).step (examinePool_within _) rfl

theorem losc_within (e : Engine) : Engine.Within [.sessions, .link] e
    { e with sessions := e.sessions.map (fun kx => (kx.1, kx.2.losc)), ssc := e.ssc.losc } := fun s => ⟨rfl, fun p hp => by
  cases p
  case sessions | link => exact absurd (by simp) hp
  all_goals
    unfold Ssc.losc
    split <;> simp [State.samePart]⟩

theorem acceptJob_within (e : Engine) (j : Job) : Engine.Within [.dle, .holds] e (e.acceptJob j) :=
  ((modDle_within e _).mono (qs := [.dle, .holds]) rfl).step (modHold_within _ _ _) rfl

/-- What the part does outside a check keeps the lists whole. -/
theorem membered_worked : Engine.Worked Engine.membered where
  session k f e h := (modSession_within e k f).membered h rfl
  slots i o e h := (slots_within e i o).membered h rfl
  programs q e h := (queues_within e e.ssc.readQueue q).membered h rfl
  reads q e h := (queues_within e q e.ssc.progQueue).membered h rfl
  unwant k t e h := (unwant_within e k t).membered h rfl
  begun b f e h := (modHold_within e b _).membered h rfl
  charge m f e h := (charge_within e m f).membered h rfl
  lamps f e h := (modLmp_within e f).membered h rfl
  raise k d e h := (raise_within e k d).membered h rfl
  cut b f l e h := (cutChain_within e b f l).membered h rfl
  seals b o n e h := (sealBody_within e b o n).membered h rfl
  free r e h := (freeRecord_within e r).membered h rfl
  abandon m g e h := (abandonGreeting_within e m g).membered h rfl
  sealed r c e h := (recordSealed_within e r c).membered h rfl
  replace m g e h := (replaceGreeting_within e m g).membered h rfl
  reader b e h := (dropReader_within e b).membered h rfl
  target now c n x e h := (playTarget_within e now c n x).membered h rfl
  flush t e h := (flush_within e t).membered h rfl
  job j e _ h := (endJob_within e j).membered h rfl
  erase e h := (startErase_within e).membered h rfl
  read e h := (startRead_within e).membered h rfl
  program r i is e _ h := (startProgram_within e r i).membered h rfl
  channel f e _ h := (modMgc_within e f).membered h rfl
  byteIn b e h := (rxByte_receiving b e).within.membered h rfl
  packetIn c g ps e h := (goodPacket_receiving (c :: g :: ps) e).within.membered h rfl
  queue q a e h := (writes_within e q a).membered h rfl
  write w e h := (cat_within e (w.apply e.cat)).membered h rfl
  dirty is e h := (makeAllDirty_within e is).membered h rfl
  pool e h := (examinePool_within e).membered h rfl
  idle e h := (link_within e .idle e.ssc.opTimer).membered h rfl
  retry r n e h := (link_within e (.reading r n) 0).membered h rfl
  issue r i w e _ h := (link_within e (.programming r i w) 0).membered h rfl
  stored t e h := (flash_within e t).membered h rfl
  linked r i w e _ h := (recordResult_within _).membered ((linkSegment_within e r.body i).membered h rfl) rfl
  unlinked r i w e _ h := (recordResult_within _).membered ((joinDirty_within e i).membered h rfl) rfl
  retired r i w n e _ h := (recordResult_within _).membered ((put_within e _).membered h rfl) rfl
  erased i e _ h := (eraseDone_within e i).membered h rfl
  kept i c e _ h := (eraseFailed_within e i c).membered h rfl
  losc e h := (losc_within e).membered h rfl
  recipient now e h := (takeRecipient_within e now).membered h rfl
  copied e h := (modDle_within e _).membered h rfl
  examine r day e h := (examineEntry_within e r day).membered h rfl
  service p e hp h := membered_of_walked (e := e) (.inr (by rw [hp]; exact nofun)) rfl h
  freeze e _ := membered_of_not_walked (fun hw => hw.elim nofun (fun h => h rfl))
  format e hs h := membered_of_walked (e := e) (.inl hs) rfl h
  create q now e _ _ h := (target_within e q now _).membered h rfl
  listen b e h := (modHold_within e b _).membered h rfl
  accept r x j e _ _ h := (acceptJob_within e j).membered h rfl
  cancel n e h := (modDle_within e _).membered h rfl
  clear l e h := clearList_membered h
  add l m e hm hc _ h := addMember_membered hm hc h
  cls k c e h := (put_within e (.cls k c)).membered h rfl
  settings x e h := (put_within e (.settings x)).membered h rfl
  fields m f e h := (put_within e (.boxFields m f)).membered h rfl
  mark now r mk e h := (markRecord_within e now r mk).membered h rfl
  slot m g e h := (emptySlot_within e m g).membered h rfl
  quietly r e h := (freeRecordQuietly_within e r).membered h rfl

/-- A second counted changes the lamp unit's seconds and the report gate, of the blocks. -/
theorem secondCounted_eng (s : State) : ∃ l m, s.secondCounted.eng = { s.eng with lmp := l, mgc := m } := by
  have hlamp : ∃ l, s.eng.lampSecond = { s.eng with lmp := l } := by
    unfold Engine.lampSecond
    split
    · exact ⟨s.eng.lmp, rfl⟩
    · exact ⟨_, rfl⟩
  obtain ⟨l, hl⟩ := hlamp
  obtain ⟨f, o, g, n, -, hg⟩ := gateSecond_eq s.eng.lampSecond
  refine ⟨l, { s.eng.mgc with flags := f, outbox := o, gateOpen := g, errorNoted := n }, ?_⟩
  have heng : s.secondCounted.eng = s.eng.lampSecond.gateSecond := by
    unfold State.secondCounted
    dsimp only
    split <;> rfl
  rw [heng, hg, hl]

theorem takePulse_eng (s : State) : ∃ l m, s.takePulse.eng = { s.eng with lmp := l, mgc := m } := by
  unfold State.takePulse
  split
  · exact secondCounted_eng _
  · exact ⟨s.eng.lmp, s.eng.mgc, rfl⟩

/-- A RESTART either does nothing, or runs the store check over the catalogue memory. -/
theorem restartReset_eng (x : Selects) (s : State) : (s.restartReset x).eng = s.eng ∨
    (s.restartReset x).eng = (Engine.reset s.eng.cat s.eng.ssc.flash).storeCheck .restart x := by
  unfold State.restartReset
  split
  · exact .inl rfl
  · obtain ⟨l, m, h⟩ := takePulse_eng s
    right
    show (Engine.reset s.takePulse.eng.cat s.takePulse.eng.ssc.flash).storeCheck .restart x = _
    rw [h]

/-- A reset leaves the lists whole over a catalogue memory in which no two lists meet, and ends FROZEN or without a device otherwise. -/
theorem reset_membered (x : Selects) (cause : StartCause) (cat : Catalogue) (flash : Tab Samples) (h : cat.listsApart) :
    ((Engine.reset cat flash).storeCheck cause x).membered :=
  storeCheck_membered cause x h (fun hw => hw.elim nofun (fun h => h rfl))

/-- Settles O42: the lists are given by their walks at a reset, and every other operation but LIST CLEAR and LIST ADD leaves them. -/
theorem everyStepKeepsTheListsWhole : Obligations.EveryStepKeepsTheListsWhole := by
  refine ⟨membered_of_not_walked (fun hw => hw.elim nofun (fun h => h rfl)), fun s t h hapart hst => ?_⟩
  refine membered_worked.step h (fun c rest hp hc hex => ?_) hst
  have hcat : s.eng.cat.listsApart := hapart c (by rw [hp]; rfl) hc
  cases c <;> cases hc
  case powerOn x low =>
    cases hex
    cases low
    · exact reset_membered x _ _ _ hcat
    · exact membered_of_not_walked (fun hw => hw.elim nofun (fun h => h rfl))
  case restartReset x =>
    cases hex
    rcases restartReset_eng x { s with pending := rest } with he | he
    · rw [he]
      exact h
    · rw [he]
      exact reset_membered x _ _ _ hcat

end Sys2Proof.Machine

namespace Sys2Proof.Machine

/-! Proofs about section 1: what the events of the highway do to the highway side, the clock and the lamp unit. -/

/-! ## The parts that the highway's events can change -/

/-- A state whose blocks have changed within some parts, and whose highway side and clock have changed where they are listed. -/
theorem Engine.Within.keepsBut_of {ps qs : List Part} {s t : State} (h : Engine.Within ps s.eng t.eng) (hsub : partsIn ps qs = true)
    (hh : Part.hwi ∈ qs ∨ t.hwi = s.hwi) (hc : Part.cal ∈ qs ∨ t.cal = s.cal) (hp : t.pending = s.pending) : s.keepsBut qs t := by
  refine ⟨hp, fun p hpq => ?_⟩
  have hps : p ∉ ps := fun k => hpq (mem_of_partsIn hsub k)
  have hsame := (h s).2 p hps
  cases p
  case hwi => exact hh.resolve_left hpq
  case cal => exact hc.resolve_left hpq
  all_goals exact hsame

/-- The lamp unit after a superframe restart indication, which stands in FROZEN (R4, R185). -/
def Engine.restartedLamps (e : Engine) : Lmp := if e.ssc.service = .frozen then e.lmp else e.lmp.restart

@[simp] theorem lampRestart_eng (s : State) : s.lampRestart.eng = { s.eng with lmp := s.eng.restartedLamps } := by
  unfold State.lampRestart Engine.restartedLamps
  split <;> rfl

/-- Gaining or losing the alignment restarts the lamp cells (R4). -/
@[simp] theorem setFrameNo_eng (n : Option Nat) (s : State) : (s.setFrameNo n).eng =
    { s.eng with lmp := if n.isSome = s.hwi.frameNo.isSome then s.eng.lmp else s.eng.restartedLamps } := by
  unfold State.setFrameNo
  dsimp only
  split
  · rfl
  · exact lampRestart_eng _

/-- A sync of LOCKED restarts the lamp cells where it slips, or gains the alignment (R4). -/
theorem numberFrame_eng (k : SyncKind) (s : State) : (s.numberFrame k).eng = { s.eng with lmp := (
    if (nextFrameNo s.hwi.frameNo).any (slips k) = true ∨ (s.hwi.frameNo = none ∧ k = .double) then s.eng.restartedLamps else s.eng.lmp) } := by
  unfold State.numberFrame
  split
  case h_1 hn =>
    have hnone : s.hwi.frameNo = none := Option.map_eq_none_iff.mp hn
    rw [hn, hnone]
    cases k
    · rfl
    · rw [if_pos rfl, setFrameNo_eng, hnone]
      rfl
  case h_2 n hn =>
    have hsome : s.hwi.frameNo.isSome = true := by
      obtain ⟨m, hm, -⟩ := Option.map_eq_some_iff.mp hn
      simp [hm]
    have hne : s.hwi.frameNo ≠ none := fun k => by simp [k] at hsome
    have hset : (s.setFrameNo (some (if k = .double then 0 else n))).eng = s.eng := by
      rw [setFrameNo_eng, hsome]
      rfl
    rw [hn]
    dsimp only [Option.any_some]
    by_cases hs : slips k n = true
    · rw [if_pos hs, if_pos (Or.inl hs), lampRestart_eng, State.modHwi_eng, hset]
    · rw [if_neg hs, if_neg (not_or.2 ⟨hs, fun k => hne k.1⟩), hset]

/-- A sync of SEARCH or CONFIRM restarts the lamp cells where it gains the alignment (R4). -/
theorem alignFrame_eng (k : SyncKind) (s : State) : (s.alignFrame k).eng = { s.eng with lmp := (
    if s.hwi.frameNo = none ∧ k = .double then s.eng.restartedLamps else s.eng.lmp) } := by
  unfold State.alignFrame
  cases k
  · rw [if_neg (by simp), if_neg (by simp), setFrameNo_eng, nextFrameNo]
    simp
  · rw [if_pos rfl, setFrameNo_eng]
    cases s.hwi.frameNo <;> simp

theorem lmp_within (e : Engine) (l : Lmp) : Engine.Within [.lmp] e { e with lmp := l } := modLmp_within e (fun _ => l)

theorem numberFrame_within (k : SyncKind) (s : State) : Engine.Within [.lmp] s.eng (s.numberFrame k).eng := by
  rw [numberFrame_eng]
  exact lmp_within _ _

theorem alignFrame_within (k : SyncKind) (s : State) : Engine.Within [.lmp] s.eng (s.alignFrame k).eng := by
  rw [alignFrame_eng]
  exact lmp_within _ _

theorem raiseHighway_within (st : SyncState) (s : State) : Engine.Within [.outbox, .flags] s.eng (s.raiseHighway st).eng := raise_within _ _ _

theorem enterLocked_within (s : State) : Engine.Within [.outbox, .flags] s.eng s.enterLocked.eng := raise_within _ _ _

theorem enterSearch_within (s : State) : Engine.Within [.lmp, .channel, .outbox, .flags] s.eng s.enterSearch.eng := by
  have h1 : Engine.Within [.lmp] s.eng (s.loseHighwayClock.setFrameNo none).eng := by
    rw [setFrameNo_eng, loseHighwayClock_eng]
    exact lmp_within _ _
  unfold State.enterSearch
  extract_lets s1 s2
  have h2 : Engine.Within [.lmp, .channel, .outbox, .flags] s.eng s2.eng := (h1.mono rfl).step (raise_within s1.eng _ _) rfl
  split
  · exact h2
  · exact h2.step (modMgc_within s2.eng (fun g => { g with rx := none })) rfl

/-- Entering SEARCH restarts the lamp cells where the alignment is lost, raises HIGHWAY, and drops the packet in progress (R4, R6, R199). -/
theorem enterSearch_lmp (s : State) : s.enterSearch.eng.lmp = if s.hwi.frameNo = none then s.eng.lmp else s.eng.restartedLamps := by
  have h1 : (s.loseHighwayClock.setFrameNo none).eng.lmp = if s.hwi.frameNo = none then s.eng.lmp else s.eng.restartedLamps := by
    rw [setFrameNo_eng, loseHighwayClock_eng, loseHighwayClock_hwi]
    cases s.hwi.frameNo <;> rfl
  unfold State.enterSearch
  dsimp only
  split
  · exact h1
  · exact h1

theorem enterSearch_flagged (s : State) : s.enterSearch.flagged .highway := by
  unfold State.enterSearch
  extract_lets s1 s2
  have h2 : s2.flagged .highway := raise_flagged .highway _ s1.eng
  split
  · exact h2
  · exact h2

theorem enterSearch_rx {s : State} (h : s.eng.ssc.service ≠ .frozen) : s.enterSearch.eng.mgc.rx = none := by
  have h2 : (((s.loseHighwayClock.setFrameNo none).modHwi
      (fun h => { h with sync := .search, misses := 0, confirms := 0, frameBegun := false })).raiseHighway .search).eng.ssc.service ≠ .frozen := by
    show (s.loseHighwayClock.setFrameNo none).eng.ssc.service ≠ .frozen
    rwa [setFrameNo_eng, loseHighwayClock_eng]
  unfold State.enterSearch
  dsimp only
  rw [if_neg h2]
  rfl

/-! ## A frame boundary, state by state -/

section
variable {s : State} (hd : s.hwi.pulseDue = false)
include hd

theorem boundary_search_sync (k : SyncKind) (hs : s.hwi.sync = .search) :
    s.boundary (some k) = (s.modHwi (fun h => { h with sync := .confirm, confirms := 0 })).alignFrame k := by
  simp only [State.boundary, takePulse_none hd, hs]

theorem boundary_confirm_sync (k : SyncKind) (hs : s.hwi.sync = .confirm) : s.boundary (some k) =
    (let s1 := (s.modHwi (fun h => { h with confirms := h.confirms + 1 })).alignFrame k
      if s1.hwi.confirms = 4 then s1.enterLocked else s1) := by
  simp only [State.boundary, takePulse_none hd, hs]

theorem boundary_locked_sync (k : SyncKind) (hs : s.hwi.sync = .locked) : s.boundary (some k) = (s.numberFrame k).divideFrame := by
  simp only [State.boundary, takePulse_none hd, hs]

theorem boundary_flywheel_sync (k : SyncKind) (hs : s.hwi.sync = .flywheel) :
    s.boundary (some k) = ((s.modHwi (fun h => { h with sync := .locked, misses := 0 })).numberFrame k).divideFrame := by
  simp only [State.boundary, takePulse_none hd, hs]

end

/-- At a calm part nothing follows a change of the lamp unit, the flags, the outbox and the receiver. -/
theorem finish_line {s t : State} (h : s.calm) (k : s.eng.Line t.eng) : t.finish = t := finish_calm ⟨k.atRest h.1, k.inbox.trans h.2⟩

/-- A pulse taken at a calm part, no seconds pulse due (R1). -/
theorem exec_syncPulse {s : State} (hcalm : s.calm) (hd : s.hwi.pulseDue = false) {width : Nat} {expected : Bool} {k : SyncKind}
    (hw : SyncKind.ofWidth width = some k) (hx : s.hwi.sync = .search ∨ expected = true) :
    exec (.syncPulse width expected) s = .next ((s.boundary (some k)).modHwi (fun h => { h with frameBegun := true })) := by
  have hpulse : s.syncPulse width expected = (s.boundary (some k)).modHwi (fun h => { h with frameBegun := true }) := by
    unfold State.syncPulse
    rw [hw]
    exact if_pos (by simpa using hx)
  show Host.Outcome.next (s.syncPulse width expected).finish = _
  rw [hpulse]
  exact congrArg _ (finish_line hcalm (boundary_line (some k) hd))

theorem ofWidth_eq_none {width : Nat} (h : 3 ≤ width) : SyncKind.ofWidth width = none := by
  obtain ⟨n, rfl⟩ := Nat.exists_eq_add_of_le' h
  rfl

theorem ofWidth_eq_some {width : Nat} (h : width = 1 ∨ width = 2) : ∃ k, SyncKind.ofWidth width = some k := by
  obtain rfl | rfl := h
  · exact ⟨_, rfl⟩
  · exact ⟨_, rfl⟩

/-- A pulse that is disregarded (R1). -/
theorem exec_syncPulse_disregarded {s : State} (hcalm : s.calm) {width : Nat} {expected : Bool}
    (h : 3 ≤ width ∨ (expected = false ∧ s.hwi.sync ≠ .search)) : exec (.syncPulse width expected) s = .next s := by
  have hsame : s.syncPulse width expected = s := by
    unfold State.syncPulse
    obtain h | ⟨rfl, hs⟩ := h
    · rw [ofWidth_eq_none h]
    · split
      · rfl
      · exact if_neg (by simpa using hs)
  show Host.Outcome.next (s.syncPulse width expected).finish = _
  rw [hsame, finish_calm hcalm]

theorem enterLocked_flagged (s : State) : s.enterLocked.flagged .highway := raise_flagged _ _ _

/-- Settles O4: the state of the sync machine says which operation a boundary with a sync is. -/
theorem syncPulseDrivesTheStateMachine : Obligations.SyncPulseDrivesTheStateMachine := by
  intro s width expected hcalm
  refine ⟨exec_syncPulse_disregarded hcalm, fun hd hw hx => ?_⟩
  obtain ⟨k, hk⟩ := ofWidth_eq_some hw
  refine ⟨_, exec_syncPulse hcalm hd hk hx, ?_⟩
  dsimp only
  refine ⟨fun hs => ?_, fun hs hc => ?_, fun hs hc => ?_, fun hs => ?_, ?_⟩
  · simp [boundary_search_sync hd k hs]
  · simp [boundary_confirm_sync hd k hs, hs, hc]
  · have hb : s.boundary (some k) = ((s.modHwi (fun h => { h with confirms := h.confirms + 1 })).alignFrame k).enterLocked := by
      rw [boundary_confirm_sync hd k hs]
      exact if_pos (by rw [alignFrame_hwi, State.modHwi_hwi, hc])
    refine ⟨by simp [hb], by simp [hb], ?_⟩
    show State.flagged .highway (s.boundary (some k))
    rw [hb]
    exact enterLocked_flagged _
  · obtain hs | hs := hs
    · simp [boundary_locked_sync hd k hs, hs, hd]
      split <;> simp_all
    · simp [boundary_flywheel_sync hd k hs, hs, hd]
      split <;> simp_all
  · refine Engine.Within.keepsBut_of (ps := [.lmp, .outbox, .flags]) ?_ rfl (.inl (by simp)) (.inl (by simp)) (boundary_pending _ s)
    show Engine.Within _ s.eng (s.boundary (some k)).eng
    cases hs : s.hwi.sync
    · rw [boundary_locked_sync hd k hs]
      exact (numberFrame_within k s).mono rfl
    · rw [boundary_flywheel_sync hd k hs]
      exact (numberFrame_within k (s.modHwi _)).mono rfl
    · rw [boundary_search_sync hd k hs]
      exact (alignFrame_within k (s.modHwi _)).mono rfl
    · rw [boundary_confirm_sync hd k hs]
      have h1 := alignFrame_within k (s.modHwi (fun h => { h with confirms := h.confirms + 1 }))
      dsimp only
      split
      · exact (h1.mono rfl).step (enterLocked_within _) rfl
      · exact h1.mono rfl

end Sys2Proof.Machine

namespace Sys2Proof.Machine

/-! Proofs about section 1: the numbers that syncs give their frames, the loss of the frame position, and the frames without traffic. -/

/-! ## Syncs at a calm part -/

section
variable {s : State} (hd : s.hwi.pulseDue = false)
include hd

/-- A sync of LOCKED, or the one that returns FLYWHEEL to it, numbers its frame against the number expected (R4). -/
theorem boundary_numbered (k : SyncKind) (hs : s.hwi.sync = .locked ∨ s.hwi.sync = .flywheel) :
    (s.boundary (some k)).hwi.frameNo = numberGiven k (nextFrameNo s.hwi.frameNo) ∧
      (s.boundary (some k)).hwi.slips = slipsAfter k (nextFrameNo s.hwi.frameNo) s.hwi.slips ∧
      (s.boundary (some k)).eng = (s.numberFrame k).eng ∧ (s.boundary (some k)).cal = s.cal := by
  obtain hs | hs := hs
  · rw [boundary_locked_sync hd k hs, divideFrame_hwi, divideFrame_cal, numberFrame_cal]
    refine ⟨?_, ?_, rfl, rfl⟩
    · split <;> simp
    · split <;> simp
  · rw [boundary_flywheel_sync hd k hs, divideFrame_hwi, divideFrame_cal, numberFrame_cal, divideFrame_eng, numberFrame_eng, numberFrame_eng]
    refine ⟨?_, ?_, rfl, rfl⟩
    · split <;> simp
    · split <;> simp

/-- A sync of SEARCH or CONFIRM numbers its frame without a check (R4). -/
theorem boundary_aligned (k : SyncKind) (hs : s.hwi.sync = .search ∨ s.hwi.sync = .confirm) :
    (s.boundary (some k)).hwi.frameNo = numberGiven k (nextFrameNo s.hwi.frameNo) ∧ (s.boundary (some k)).hwi.slips = s.hwi.slips ∧
      (s.boundary (some k)).eng.lmp = (s.alignFrame k).eng.lmp := by
  obtain hs | hs := hs
  · rw [boundary_search_sync hd k hs, alignFrame_hwi, alignFrame_eng, alignFrame_eng]
    exact ⟨rfl, rfl, rfl⟩
  · rw [boundary_confirm_sync hd k hs]
    dsimp only
    split
    · rw [enterLocked_hwi, alignFrame_hwi, alignFrame_eng]
      refine ⟨rfl, rfl, ?_⟩
      show (State.alignFrame k _).eng.lmp = _
      rw [alignFrame_eng]
      rfl
    · rw [alignFrame_hwi, alignFrame_eng, alignFrame_eng]
      exact ⟨rfl, rfl, rfl⟩

theorem boundary_sync_within (k : SyncKind) : Engine.Within [.lmp, .outbox, .flags] s.eng (s.boundary (some k)).eng := by
  cases hs : s.hwi.sync
  case locked =>
    rw [boundary_locked_sync hd k hs]
    exact (numberFrame_within k s).mono rfl
  case flywheel =>
    rw [boundary_flywheel_sync hd k hs]
    exact (numberFrame_within k (s.modHwi _)).mono rfl
  case search =>
    rw [boundary_search_sync hd k hs]
    exact (alignFrame_within k (s.modHwi _)).mono rfl
  case confirm =>
    rw [boundary_confirm_sync hd k hs]
    have h1 := alignFrame_within k (s.modHwi (fun h => { h with confirms := h.confirms + 1 }))
    dsimp only
    split
    · exact (h1.mono rfl).step (enterLocked_within _) rfl
    · exact h1.mono rfl

end

/-! ## The loss of the frame position -/

/-- A loss of HCLK outside SEARCH, no seconds pulse due (R3). -/
theorem hclkLoss_eq {s : State} (hd : s.hwi.pulseDue = false) (hs : s.hwi.sync ≠ .search) :
    s.hclkLoss = s.enterSearch.modHwi (fun h => { h with htx := List.replicate 128 0xFF }) := by
  unfold State.hclkLoss
  rw [if_neg hs, takePulse_none hd]

theorem exec_hclkLoss {s : State} (hcalm : s.calm) (hd : s.hwi.pulseDue = false) (hs : s.hwi.sync ≠ .search) :
    exec .hclkLoss s = .next (s.enterSearch.modHwi (fun h => { h with htx := List.replicate 128 0xFF })) := by
  show Host.Outcome.next s.hclkLoss.finish = _
  rw [hclkLoss_eq hd hs]
  exact congrArg _ (finish_line hcalm (enterSearch_line s))

/-- A frame for which no sync has come, its window ends closed (R2, log 9). -/
theorem frame_unbegun {s : State} (hrx : List Byte) (hb : s.hwi.frameBegun = false) (hw : ∀ kx ∈ s.eng.sessions, kx.2.windowDue = false)
    (hc : (s.boundary none).carries = false) : s.frame hrx = (s.boundary none).modHwi (fun h => { h with htx := idleFill }) := by
  have h1 : (s.onEng Engine.closeWindows).beginFrame = s.boundary none := by
    have h0 : s.onEng Engine.closeWindows = s := by
      unfold State.onEng
      rw [closeWindows_none hw]
    rw [h0]
    unfold State.beginFrame
    rw [if_neg (by simp [hb])]
  unfold State.frame
  dsimp only
  rw [h1, if_neg (by simp [hc])]

theorem boundary_confirm_missing {s : State} (hd : s.hwi.pulseDue = false) (hs : s.hwi.sync = .confirm) : s.boundary none = s.enterSearch := by
  simp only [State.boundary, takePulse_none hd, hs]

theorem boundary_third_missing {s : State} (hd : s.hwi.pulseDue = false) (hs : s.hwi.sync = .flywheel) (hm : s.hwi.misses = 2) :
    s.boundary none = s.divideFrame.enterSearch := by
  simp [State.boundary, takePulse_none hd, hs, hm]

theorem enterSearch_carries (s : State) : s.enterSearch.carries = false := by
  simp [State.carries]

/-- A frame whose missing sync costs the frame position, at a calm part (R2, R5). -/
theorem exec_frame_lost {s : State} (hrx : List Byte) (hcalm : s.calm) (hd : s.hwi.pulseDue = false) (hb : s.hwi.frameBegun = false)
    (hw : ∀ kx ∈ s.eng.sessions, kx.2.windowDue = false) (hs : s.hwi.sync = .confirm ∨ (s.hwi.sync = .flywheel ∧ s.hwi.misses = 2)) :
    exec (.frame hrx) s = .next ((s.boundary none).modHwi (fun h => { h with htx := idleFill })) ∧
      ∃ d, s.boundary none = State.enterSearch d ∧ d.eng = s.eng ∧ d.pending = s.pending ∧ d.hwi.frameNo = s.hwi.frameNo ∧ d.hwi.slips = s.hwi.slips := by
  have hb0 : ∃ d, s.boundary none = State.enterSearch d ∧ d.eng = s.eng ∧ d.pending = s.pending ∧ d.hwi.frameNo = s.hwi.frameNo ∧
      d.hwi.slips = s.hwi.slips := by
    obtain hs | ⟨hs, hm⟩ := hs
    · exact ⟨s, boundary_confirm_missing hd hs, rfl, rfl, rfl, rfl⟩
    · refine ⟨_, boundary_third_missing hd hs hm, rfl, rfl, ?_, ?_⟩
      · rw [divideFrame_hwi]
        split <;> rfl
      · rw [divideFrame_hwi]
        split <;> rfl
  refine ⟨?_, hb0⟩
  have hc : (s.boundary none).carries = false := by
    obtain ⟨d, hd', -⟩ := hb0
    rw [hd', enterSearch_carries]
  show Host.Outcome.next (s.frame hrx).finish = _
  rw [frame_unbegun hrx hb hw hc]
  exact congrArg _ (finish_line hcalm (boundary_line none hd))

/-- Settles O5: a sync by the width of its pulse and the number expected, a loss by the entry to SEARCH. -/
theorem slipsAreCounted : Obligations.SlipsAreCounted := by
  intro s width hcalm hd hwidth restarted numbered
  refine ⟨fun hs => ?_, fun hs => ?_, ?_⟩
  · obtain ⟨k, hk⟩ := ofWidth_eq_some hwidth
    obtain ⟨hno, hslips, heng, hcal⟩ := boundary_numbered hd k hs
    refine ⟨_, exec_syncPulse hcalm hd hk (.inr rfl), fun n hn => ?_, fun hn => ?_,
      Engine.Within.keepsBut_of (ps := [.lmp]) ?_ rfl (.inl (by simp)) (.inr hcal) (boundary_pending _ s)⟩
    · rw [hn] at hno hslips
      have hl := heng.trans (numberFrame_eng k s)
      rw [hn] at hl
      have hl' := congrArg Engine.lmp hl
      obtain rfl | rfl := hwidth
      all_goals
        cases hk
        simp [numbered, restarted, hno, hslips, hl', nextFrameNo, numberGiven, slipsAfter, slips, Engine.restartedLamps]
        by_cases h0 : (n + 1) % 16 = 0 <;> simp [h0]
    · rw [hn] at hno hslips
      have hl' := congrArg Engine.lmp (heng.trans (numberFrame_eng k s))
      rw [hn] at hl'
      obtain rfl | rfl := hwidth
      all_goals
        cases hk
        simp [numbered, restarted, hno, hslips, hl', nextFrameNo, numberGiven, slipsAfter, Engine.restartedLamps]
    · show Engine.Within _ s.eng (s.boundary (some k)).eng
      rw [heng]
      exact numberFrame_within k s
  · obtain ⟨k, hk⟩ := ofWidth_eq_some hwidth
    obtain ⟨hno, hslips, hlmp⟩ := boundary_aligned hd k hs
    refine ⟨_, exec_syncPulse hcalm hd hk (.inr rfl), fun h1 => ?_, fun h2 => ?_,
      Engine.Within.keepsBut_of (boundary_sync_within hd k) rfl (.inl (by simp)) (.inl (by simp)) (boundary_pending _ s)⟩
    · subst h1
      cases hk
      rw [alignFrame_eng] at hlmp
      exact ⟨⟨hno, hslips⟩, hlmp.trans (if_neg (by simp))⟩
    · subst h2
      cases hk
      rw [alignFrame_eng] at hlmp
      refine ⟨⟨hno, hslips⟩, hlmp.trans ?_⟩
      simp [restarted, Engine.restartedLamps]
  · rintro c hrx (⟨rfl, hs⟩ | ⟨rfl, hb, hw, hs⟩)
    · refine ⟨_, exec_hclkLoss hcalm hd hs, ⟨?_, ?_⟩, enterSearch_lmp s,
        Engine.Within.keepsBut_of (enterSearch_within s) rfl (.inl (by simp)) (.inl (by simp)) (enterSearch_pending s)⟩
      · simp
      · simp
    · obtain ⟨hex, d, hbd, hde, hdp, hdn, hds⟩ := exec_frame_lost hrx hcalm hd hb hw hs
      refine ⟨_, hex, ⟨?_, ?_⟩, ?_, Engine.Within.keepsBut_of (ps := [.lmp, .channel, .outbox, .flags]) ?_ rfl (.inl (by simp)) (.inl (by simp))
        (boundary_pending _ s)⟩
      · simp [hbd]
      · simp [hbd, hds]
      · show (s.boundary none).eng.lmp = _
        rw [hbd, enterSearch_lmp, hdn, hde]
        rfl
      · show Engine.Within _ s.eng (s.boundary none).eng
        rw [hbd, ← hde]
        exact enterSearch_within d

/-- Settles O8. -/
theorem clockLossEntersSearch : Obligations.ClockLossEntersSearch := by
  intro s hcalm hd
  refine ⟨fun hs => ?_, fun hs => ?_⟩
  · show Host.Outcome.next s.hclkLoss.finish = _
    unfold State.hclkLoss
    rw [if_pos hs]
    exact congrArg _ (finish_line hcalm (.refl _))
  · refine ⟨_, exec_hclkLoss hcalm hd hs, ?_, ?_, ?_, ?_, rfl, enterSearch_flagged s, fun hv => ?_, fun hf => enterSearch_rx hf,
      Engine.Within.keepsBut_of (enterSearch_within s) rfl (.inl (by simp)) (.inl (by simp)) (enterSearch_pending s)⟩
    · simp
    · simp
    · simp
    · simp
    · show s.enterSearch.cal = _
      rw [enterSearch_cal, loseHighwayClock_cal, if_pos hv]

/-- Settles O7: no block is reached, and what follows the command finds a calm part. -/
theorem framesWithoutTrafficCarryIdleFill : Obligations.FramesWithoutTrafficCarryIdleFill := by
  intro s hrx hcalm hd hw hs
  have hclosed : s.onEng Engine.closeWindows = s := by
    unfold State.onEng
    rw [closeWindows_none hw]
  have hframe : s.frame hrx = { s with hwi := { s.hwi with frameBegun := false, htx := idleFill } } := by
    obtain ⟨hs, hb⟩ | ⟨hb, hs⟩ := hs
    · have hbound : s.boundary none = s := by simp only [State.boundary, takePulse_none hd, hs]
      rw [frame_unbegun hrx hb hw (by rw [hbound]; simp [State.carries, hs]), hbound]
      simp [State.modHwi, ← hb]
    · have hbegin : s.beginFrame = s.modHwi (fun h => { h with frameBegun := false }) := by
        unfold State.beginFrame
        rw [if_pos hb]
      unfold State.frame
      dsimp only
      rw [hclosed, hbegin, if_neg]
      · rfl
      · obtain hs | hs := hs <;> simp [State.carries, hs]
  show Host.Outcome.next (s.frame hrx).finish = _
  rw [hframe]
  exact congrArg _ (finish_line hcalm (.refl _))

end Sys2Proof.Machine

namespace Sys2Proof.Machine

/-! Proofs about samples and the meter (sections 1.4 and 3), and about one period of the local oscillator. -/

/-! ## The cue tone (R13) -/

/-- Settles O14: by the eight entries, and by the four levels. -/
theorem cueToneFollowsItsTable : Obligations.CueToneFollowsItsTable := by
  intro level n hlevel
  refine ⟨(cueValues level).1, (cueValues level).2, ?_, ?_⟩
  · have hr : n % 8 < 8 := Nat.mod_lt n (Nat.succ_pos 7)
    unfold cueTone
    generalize n % 8 = r at hr
    interval_cases r <;> rfl
  · interval_cases level <;> rfl

/-! ## The meter (R47 to R55) -/

theorem nextLevel_le {l mean : Nat} (hl : l ≤ 63232) (hm : mean ≤ 3952) : nextLevel l mean ≤ 63232 := by
  unfold nextLevel
  omega

/-- The floor never stands above the level (R50, R51). -/
theorem nextFloor_le (inMask : Bool) (f l : Nat) : nextFloor inMask f l ≤ l := by
  unfold nextFloor
  split
  · exact Nat.le_refl l
  · split
    · exact Nat.le_refl l
    · omega

theorem silenceThreshold_le (sn : Snapshot) (f : Nat) : silenceThreshold sn f ≤ speechThreshold sn f := Nat.min_le_left _ _

theorem speechThreshold_le (sn : Snapshot) (f : Nat) : speechThreshold sn f ≤ 63232 := Nat.min_le_left _ _

theorem nextVoice_masked (v : Voice) (l on off : Nat) : nextVoice true v l on off = .silent := rfl

theorem nextVoice_speech_iff (v : Voice) (l on off : Nat) :
    nextVoice false v l on off = .speech ↔ (v = .silent ∧ on ≤ l) ∨ (v = .speech ∧ off ≤ l) := by
  cases v <;> simp [nextVoice]

/-- Settles O15. -/
theorem levelsFollowAndWindowsCloseInRange : Obligations.LevelsFollowAndWindowsCloseInRange := by
  refine ⟨fun l mean hl hm => ⟨rfl, nextLevel_le hl hm, fun d hd => ?_, fun d hd => ?_⟩, ?_⟩
  · unfold nextLevel
    omega
  · unfold nextLevel
    omega
  · intro sn k m hsum hlevel hfloor n
    have hmean : m.sum / 64 ≤ 3952 := by omega
    refine ⟨rfl, rfl, hmean, rfl, nextLevel_le hlevel hmean, nextFloor_le _ _ _, fun hk => ?_, fun hk => ?_, ?_, fun hv => ?_, fun hv => ?_⟩
    · have hmask : decide (k < sn.mask) = true := decide_eq_true hk
      constructor
      · show nextFloor (decide (k < sn.mask)) _ _ = _
        rw [hmask]
        rfl
      · show nextVoice (decide (k < sn.mask)) _ _ _ _ = _
        rw [hmask]
        rfl
    · have hmask : decide (k < sn.mask) = false := decide_eq_false (Nat.not_lt.2 hk)
      have hf : n.floor = nextFloor false m.floor n.level := by
        show nextFloor (decide (k < sn.mask)) _ _ = _
        rw [hmask]
        rfl
      rw [hf]
      unfold nextFloor
      refine ⟨fun h => ?_, fun h => ?_⟩
      · simp [h]
      · rw [if_neg Bool.false_ne_true, if_neg (Nat.not_lt.2 h)]
    · refine ⟨_, _, rfl, rfl, silenceThreshold_le _ _, speechThreshold_le _ _, rfl, rfl, fun hk => ?_⟩
      have hmask : decide (k < sn.mask) = false := decide_eq_false (Nat.not_lt.2 hk)
      have hv : n.voice = nextVoice false m.voice n.level (speechThreshold sn n.floor) (silenceThreshold sn n.floor) := by
        show nextVoice (decide (k < sn.mask)) m.voice n.level (speechThreshold sn n.floor) (silenceThreshold sn n.floor) = _
        rw [hmask]
      rw [hv]
      exact nextVoice_speech_iff _ _ _ _
    · refine ⟨?_, ?_, ?_⟩ <;> exact if_pos hv
    · have hne : n.voice ≠ .speech := by rw [hv]; nofun
      have honset : n.onset = m.onset := if_neg hne
      refine ⟨if_neg hne, honset, ?_⟩
      rw [← honset]
      exact if_neg hne

/-! ## One LOSC period -/

theorem find?_map_snd {α β : Type} (f : α → β) : ∀ (t : Tab α) (n : Nat), Tab.find? (t.map (fun kx => (kx.1, f kx.2))) n = (Tab.find? t n).map f
  | [], _ => rfl
  | (k, v) :: t, n => by
    simp only [List.map_cons, Tab.find?]
    split
    · rfl
    · exact find?_map_snd f t n

theorem session_losc (s : State) (k : Nat) : s.losc.eng.session k = (s.eng.session k).losc := by
  show Tab.get Session.reset (s.eng.sessions.map (fun kx => (kx.1, kx.2.losc))) k = (Tab.get Session.reset s.eng.sessions k).losc
  unfold Tab.get
  rw [find?_map_snd]
  cases Tab.find? s.eng.sessions k <;> rfl

/-- Settles O3. -/
theorem idleStepIsOneLoscPeriod : Obligations.IdleStepIsOneLoscPeriod := by
  intro s hp
  refine ⟨s.losc, ?_, rfl, rfl, fun k => ?_, Engine.Within.keepsBut_of (losc_within s.eng) rfl (.inr rfl) (.inl (by simp)) rfl⟩
  · unfold step
    rw [hp]
  · rw [session_losc]
    unfold Session.losc
    simp only [Bool.or_eq_true]
    split <;> rfl

/-! ## Seconds (R188) -/

theorem secondCounted_clock (s : State) : s.secondCounted.cal =
    if ({ s with cal := s.cal.advance, eng := s.eng.lampSecond } : State).sweepDue = true then s.cal.advance.startSweep .automatic else s.cal.advance := by
  unfold State.secondCounted
  dsimp only
  split <;> rfl

theorem secondCounted_blocks (s : State) : s.secondCounted.eng = s.eng.lampSecond.gateSecond := by
  unfold State.secondCounted
  dsimp only
  split <;> rfl

theorem lampSecond_eq (e : Engine) :
    e.lampSecond = { e with lmp := { e.lmp with seconds := e.lmp.seconds + (if e.ssc.service = .frozen then 0 else 1) } } := by
  unfold Engine.lampSecond
  split <;> rfl

theorem gateSecond_within (e : Engine) : Engine.Within [.outbox, .flags] e e.gateSecond := by
  unfold Engine.gateSecond
  split
  · exact .refl _ _
  · split
    · exact (raise_within e .mgmtErrors e.mgc.errorBytes).trans (fun s => ⟨rfl, fun p hp => by
        cases p
        case flags => exact absurd (by simp) hp
        all_goals simp [State.samePart]⟩)
    · exact fun s => ⟨rfl, fun p hp => by
        cases p
        case flags => exact absurd (by simp) hp
        all_goals simp [State.samePart]⟩

theorem secondCounted_within (s : State) : Engine.Within [.lmp, .outbox, .flags] s.eng s.secondCounted.eng := by
  rw [secondCounted_blocks, lampSecond_eq]
  exact ((lmp_within s.eng _).mono rfl).step (gateSecond_within _) rfl

/-- The automatic sweep is due (R193). -/
theorem sweepDue_iff (s : State) : s.sweepDue = true ↔ s.cal.valid = true ∧ s.eng.ssc.service = .service ∧ s.cal.sweep.running = false ∧
    s.cal.hour = s.eng.tab.settings.sweepHour ∧ s.cal.minute = 0 ∧ s.cal.second = 0 := by
  simp [State.sweepDue, Cal.atSweepHour, and_assoc]

/-- A part at rest stays so when a second is counted. -/
theorem finish_second {s t : State} (h : s.calm) (k : t.eng = s.eng.lampSecond.gateSecond) : t.finish = t := by
  obtain ⟨f, o, g, n, -, hg⟩ := gateSecond_eq s.eng.lampSecond
  rw [hg, lampSecond_eq] at k
  exact finish_calm (by unfold State.calm; rw [k]; exact h)

/-- What a second counted at a calm part makes of it. -/
theorem second_counted {s u : State} (hu : u.eng = s.eng) (hp : u.pending = s.pending) :
    let t := u.secondCounted
    let d := u.cal.advance
    t.hwi = u.hwi ∧
      t.eng.lmp = { s.eng.lmp with seconds := s.eng.lmp.seconds + (if s.eng.ssc.service = .frozen then 0 else 1) } ∧
      (d.valid = true → s.eng.ssc.service = .service → d.sweep.running = false →
        d.hour = s.eng.tab.settings.sweepHour → d.minute = 0 → d.second = 0 →
        t.cal = { d with sweep := { running := true, cause := .automatic, pointer := 0, deleted := 0, stamped := 0, startDay := d.dayNumber } }) ∧
      ((d.valid = false ∨ s.eng.ssc.service ≠ .service ∨ d.sweep.running = true ∨ d.hour ≠ s.eng.tab.settings.sweepHour ∨ d.minute ≠ 0 ∨
        d.second ≠ 0) → t.cal = d) ∧
      (s.eng.mgc.gateOpen = true → t.eng.mgc = s.eng.mgc) ∧
      (s.eng.mgc.gateOpen = false → s.eng.mgc.errorNoted = true → t.eng.mgc.gateOpen = false ∧ t.eng.mgc.errorNoted = false ∧ t.flagged .mgmtErrors) ∧
      (s.eng.mgc.gateOpen = false → s.eng.mgc.errorNoted = false → t.eng.mgc = { s.eng.mgc with gateOpen := true }) ∧
      s.keepsBut [.hwi, .cal, .lmp, .outbox, .flags] t := by
  intro t d
  have heng : t.eng = s.eng.lampSecond.gateSecond := by rw [← hu]; exact secondCounted_blocks u
  have hdue := sweepDue_iff ({ u with cal := u.cal.advance, eng := u.eng.lampSecond } : State)
  have hsvc : u.eng.lampSecond.ssc.service = s.eng.ssc.service := by rw [hu, lampSecond_eq]
  have hset : u.eng.lampSecond.tab = s.eng.tab := by rw [hu, lampSecond_eq]
  rw [hsvc, hset] at hdue
  have hmgc : s.eng.lampSecond.mgc = s.eng.mgc := by rw [lampSecond_eq]
  refine ⟨secondCounted_hwi u, ?_, fun h1 h2 h3 h4 h5 h6 => ?_, fun h => ?_, fun hg => ?_, fun hg hn => ?_, fun hg hn => ?_, ?_⟩
  · obtain ⟨f, o, g, n, -, hg⟩ := gateSecond_eq s.eng.lampSecond
    rw [heng, hg, lampSecond_eq]
  · rw [show t.cal = _ from secondCounted_clock u, if_pos (hdue.2 ⟨h1, h2, h3, h4, h5, h6⟩)]
    rfl
  · rw [show t.cal = _ from secondCounted_clock u, if_neg]
    rw [hdue]
    rintro ⟨h1, h2, h3, h4, h5, h6⟩
    obtain h | h | h | h | h | h := h
    · exact Bool.false_ne_true (h.symm.trans h1)
    · exact h h2
    · exact Bool.false_ne_true (h3.symm.trans h)
    · exact h h4
    · exact h h5
    · exact h h6
  · rw [heng, Engine.gateSecond, if_pos (by rw [hmgc, hg]), hmgc]
  · have : t.eng = (s.eng.lampSecond.raise .mgmtErrors s.eng.lampSecond.mgc.errorBytes).modMgc (fun g => { g with errorNoted := false }) := by
      rw [heng, Engine.gateSecond, if_neg (by simp [hmgc, hg]), if_pos (by rw [hmgc, hn])]
    refine ⟨?_, ?_, ?_⟩
    · rw [this]
      exact (congrArg Mgc.gateOpen hmgc).trans hg
    · rw [this]
      rfl
    · show t.eng.mgc.flags &&& _ = _
      rw [this]
      exact raise_flagged .mgmtErrors s.eng.lampSecond.mgc.errorBytes s.eng.lampSecond
  · rw [heng, Engine.gateSecond, if_neg (by simp [hmgc, hg]), if_neg (by simp [hmgc, hn])]
    exact congrArg (fun m : Mgc => { m with gateOpen := true }) hmgc
  · exact Engine.Within.keepsBut_of (hu ▸ secondCounted_within u) rfl (.inl (by simp)) (.inl (by simp)) ((secondCounted_pending u).trans hp)

/-- Settles O26. -/
theorem secondsAreCounted : Obligations.SecondsAreCounted := by
  intro s hcalm
  refine ⟨fun hd => ?_, fun hs => ?_, ?_⟩
  · show Host.Outcome.next s.takePulse.finish = _
    rw [takePulse_none hd, finish_calm hcalm]
  · show Host.Outcome.next (State.finish (if s.cal.source = .losc then _ else s)) = _
    rw [if_neg (by rw [hs]; nofun), finish_calm hcalm]
  · rintro c h (⟨rfl, hd, rfl⟩ | ⟨rfl, hs, rfl⟩)
    · refine ⟨({ s with hwi := { s.hwi with pulseDue := false } } : State).secondCounted, ?_, second_counted rfl rfl⟩
      show Host.Outcome.next s.takePulse.finish = _
      have ht : s.takePulse = ({ s with hwi := { s.hwi with pulseDue := false } } : State).secondCounted := if_pos hd
      rw [ht]
      exact congrArg _ (finish_second hcalm (secondCounted_blocks _))
    · refine ⟨({ s with cal := { s.cal with subCount := 0 } } : State).secondCounted, ?_, second_counted rfl rfl⟩
      show Host.Outcome.next (State.finish (if s.cal.source = .losc then _ else s)) = _
      rw [if_pos hs]
      exact congrArg _ (finish_second hcalm (secondCounted_blocks _))

end Sys2Proof.Machine

namespace Sys2Proof.Machine

/-! Proofs about section 1: a frame for which no sync has come, whatever the part has still to do. -/

/-! ## No order that could be taken -/

/-- No order waits that the order processor could take (R202). -/
def Engine.noneTaken (e : Engine) : Prop := e.mgc.inbox = [] ∨ e.canTake = false

/-- From e to g the orders that wait stand, and whether one can be taken only falls. -/
structure Engine.Waits (e g : Engine) : Prop where
  inbox : g.mgc.inbox = e.mgc.inbox
  handling : g.mgc.handling = e.mgc.handling
  restart : g.mgc.restart = e.mgc.restart
  outbox : e.mgc.outbox.length ≤ g.mgc.outbox.length
  service : g.ssc.service = e.ssc.service

namespace Engine.Waits

variable {a b c e g : Engine}

theorem refl (e : Engine) : e.Waits e := ⟨rfl, rfl, rfl, Nat.le_refl _, rfl⟩

theorem trans (h : a.Waits b) (k : b.Waits c) : a.Waits c :=
  ⟨k.inbox.trans h.inbox, k.handling.trans h.handling, k.restart.trans h.restart, h.outbox.trans k.outbox, k.service.trans h.service⟩

theorem of_notes (h : e.Notes g) (hs : g.ssc.service = e.ssc.service) : e.Waits g :=
  ⟨h.inbox, h.handling, h.restart, by obtain ⟨ps, f, h⟩ := h; simp [h], hs⟩

theorem canTake (h : e.Waits g) (hc : e.canTake = false) : g.canTake = false := by
  have hle := h.outbox
  unfold Engine.canTake at hc ⊢
  rw [h.handling, h.restart, h.service]
  simp only [Bool.and_eq_false_iff, decide_eq_false_iff_not] at hc ⊢
  rcases hc with ((hc | hc) | hc) | hc
  · exact .inl (.inl (.inl hc))
  · exact .inl (.inl (.inr hc))
  · exact .inl (.inr (fun hlt => hc (Nat.lt_of_le_of_lt hle hlt)))
  · exact .inr hc

theorem noneTaken (h : e.Waits g) (hn : e.noneTaken) : g.noneTaken := hn.imp (h.inbox.trans ·) h.canTake

end Engine.Waits

theorem settle_waits (e : Engine) : e.Waits e.settle := .of_notes (settle_notes e) (settle_channel e).2.2

theorem closeWindows_notes (e : Engine) : e.Notes e.closeWindows := (notes_loose e).kept.closeWindows (.refl e)

theorem closeWindows_waits (e : Engine) : e.Waits e.closeWindows :=
  .of_notes (closeWindows_notes e) (closeWindows_steady (Engine.Steady.refl e)).channel.2.2

theorem gateSecond_waits (e : Engine) : e.Waits e.gateSecond := by
  obtain ⟨f, o, g, n, ⟨ps, rfl⟩, h⟩ := gateSecond_eq e
  rw [h]
  exact ⟨rfl, rfl, rfl, by simp, rfl⟩

theorem lmp_waits (e : Engine) (l : Lmp) : e.Waits { e with lmp := l } := ⟨rfl, rfl, rfl, Nat.le_refl _, rfl⟩

theorem takePulse_waits (s : State) : s.eng.Waits s.takePulse.eng := by
  unfold State.takePulse
  split
  · rw [secondCounted_blocks]
    refine Engine.Waits.trans ?_ (gateSecond_waits _)
    rw [lampSecond_eq]
    exact lmp_waits _ _
  · exact .refl _

theorem raise_waits (k : NoticeKind) (d : List Byte) (e : Engine) : e.Waits (e.raise k d) := .of_notes (raise_notes k d e) rfl

theorem enterSearch_waits (s : State) : s.eng.Waits s.enterSearch.eng := by
  have h1 : s.eng.Waits (s.loseHighwayClock.setFrameNo none).eng := by
    rw [setFrameNo_eng, loseHighwayClock_eng]
    exact lmp_waits _ _
  unfold State.enterSearch
  extract_lets s1 s2
  have h2 : s.eng.Waits s2.eng := h1.trans (raise_waits _ _ s1.eng)
  split
  · exact h2
  · exact h2.trans ⟨rfl, rfl, rfl, Nat.le_refl _, rfl⟩

/-- Where no order can be taken, what follows a command is the settling alone. -/
theorem finish_noneTaken {s : State} (h : s.eng.noneTaken) : s.finish = s.onEng Engine.settle := by
  unfold State.finish
  obtain h | h := (settle_waits s.eng).noneTaken h
  · exact takeOrders_none (s := s.onEng Engine.settle) h _
  · exact takeOrders_blocked (s := s.onEng Engine.settle) h _

/-! ## The receiver in a silent frame -/

theorem mgmtOut_idle {e : Engine} (h : e.mgc.inbox = []) : e.mgmtOut.2.mgc.inbox = [] ∧ e.mgmtOut.2.mgc.rx = e.mgc.rx := by
  unfold Engine.mgmtOut
  split
  · exact ⟨h, rfl⟩
  · dsimp only
    split
    · unfold Engine.packetLeft
      dsimp only
      split
      · split
        · exact ⟨rfl, rfl⟩
        · exact ⟨h, rfl⟩
      · exact ⟨h, rfl⟩
    · exact ⟨h, rfl⟩

/-- The traffic of a frame without a lead byte brings no order. -/
theorem traffic_inbox {e : Engine} {now : Now} {n : Option Nat} {hrx : List Byte} (hi : e.mgc.inbox = []) (hr : e.mgc.rx = none)
    (h0 : hrx.getD 0 0xFF ≠ 0xC3) (h1 : hrx.getD 1 0xFF ≠ 0xC3) : (e.traffic now n hrx).2.mgc.inbox = [] := by
  obtain ⟨hi0, hr0⟩ := mgmtOut_idle hi
  obtain ⟨hi1, hr1⟩ := mgmtOut_idle hi0
  have hr0' : e.mgmtOut.2.mgc.rx = none := hr0.trans hr
  unfold Engine.traffic
  dsimp only
  rw [mgmtIn_hunt hr0' h0, mgmtIn_hunt (hr1.trans hr0') h1]
  have hl := congrArg Mgc.inbox (lampFrame_mgc n (hrx.getD 2 0xFF) e.mgmtOut.2.mgmtOut.2)
  exact ((notes_loose _).kept.voiceFrame (.refl _)).inbox.trans (hl.trans hi1)

/-! ## The frame -/

/-- The boundary of a frame for which no sync has come, its window ends closed first (R2; log 9). -/
def State.missed (s : State) : State := (s.onEng Engine.closeWindows).boundary none

/-- A frame without a sync is its boundary, with the bytes driven and the traffic, where it carries any. -/
theorem frame_missed {s : State} (hrx : List Byte) (hb : s.hwi.frameBegun = false) : s.frame hrx =
    if s.missed.carries = true then
      { s.missed with hwi := { s.missed.hwi with htx := (s.missed.eng.traffic s.missed.now s.missed.hwi.frameNo hrx).1 },
                      eng := (s.missed.eng.traffic s.missed.now s.missed.hwi.frameNo hrx).2 }
    else s.missed.modHwi (fun h => { h with htx := idleFill }) := by
  have h1 : (s.onEng Engine.closeWindows).beginFrame = s.missed := by
    unfold State.beginFrame
    exact if_neg (by simp [hb])
  unfold State.frame
  dsimp only
  rw [h1]

theorem frame_missed_sides {s : State} (hrx : List Byte) (hb : s.hwi.frameBegun = false) :
    (∃ htx, (s.frame hrx).hwi = { s.missed.hwi with htx := htx }) ∧ (s.frame hrx).cal = s.missed.cal := by
  rw [frame_missed hrx hb]
  split
  · exact ⟨⟨_, rfl⟩, rfl⟩
  · exact ⟨⟨_, rfl⟩, rfl⟩

/-- The window ends closed and the seconds pulse taken, before the boundary. -/
def State.pulseTaken (s : State) : State := (s.onEng Engine.closeWindows).takePulse

theorem pulseTaken_hwi (s : State) : s.pulseTaken.hwi = { s.hwi with pulseDue := false } := takePulse_hwi _

theorem pulseTaken_cal {s : State} (h : s.hwi.pulseDue = false) : s.pulseTaken.cal = s.cal := by
  have h0 : (s.onEng Engine.closeWindows).takePulse = s.onEng Engine.closeWindows := takePulse_none h
  unfold State.pulseTaken
  rw [h0]
  rfl

theorem pulseTaken_waits (s : State) : s.eng.Waits s.pulseTaken.eng := (closeWindows_waits s.eng).trans (takePulse_waits (s.onEng Engine.closeWindows))

theorem pulseTaken_rx (s : State) : s.pulseTaken.eng.mgc.rx = s.eng.mgc.rx := by
  have h1 : s.pulseTaken.eng.mgc.rx = s.eng.closeWindows.mgc.rx := by
    unfold State.pulseTaken State.takePulse
    split
    · rw [secondCounted_blocks]
      obtain ⟨f, o, g, n, -, hg⟩ := gateSecond_eq s.eng.closeWindows.lampSecond
      have hl : s.eng.closeWindows.lampSecond.mgc = s.eng.closeWindows.mgc := by rw [lampSecond_eq]
      show s.eng.closeWindows.lampSecond.gateSecond.mgc.rx = _
      rw [hg, ← hl]
    · rfl
  exact h1.trans (closeWindows_notes s.eng).rx

theorem missed_eq (s : State) : s.missed = s.pulseTaken.boundary none := (Engine.Worked.boundary_takePulse none (s.onEng Engine.closeWindows)).symm

theorem pulseTaken_pulseDue (s : State) : s.pulseTaken.hwi.pulseDue = false := Engine.Worked.takePulse_pulseDue _

theorem boundary_locked_missing {s : State} (hd : s.hwi.pulseDue = false) (hs : s.hwi.sync = .locked) : s.boundary none =
    (s.modHwi (fun h => { h with sync := .flywheel, misses := 1, frameNo := nextFrameNo h.frameNo })).divideFrame := by
  simp only [State.boundary, takePulse_none hd, hs]

theorem boundary_flywheel_missing {s : State} (hd : s.hwi.pulseDue = false) (hs : s.hwi.sync = .flywheel) (hm : s.hwi.misses ≠ 2) : s.boundary none =
    (s.modHwi (fun h => { h with misses := h.misses + 1, frameNo := nextFrameNo h.frameNo })).divideFrame := by
  simp [State.boundary, takePulse_none hd, hs, hm]

/-- The first missing sync of LOCKED, and those of FLYWHEEL before the third: the position is held, and the divider advances (R2, R4, R14). -/
theorem missed_held {s : State} (hs : s.hwi.sync = .locked ∨ (s.hwi.sync = .flywheel ∧ s.hwi.misses ≠ 2)) :
    s.missed.eng = s.pulseTaken.eng ∧ s.missed.cal = s.pulseTaken.cal ∧
      s.missed.hwi.sync = .flywheel ∧ s.missed.hwi.misses = (if s.hwi.sync = .locked then 1 else s.hwi.misses + 1) ∧
      s.missed.hwi.frameNo = nextFrameNo s.hwi.frameNo ∧
      s.missed.hwi.divider = (if s.hwi.divider + 1 = 8000 then 0 else s.hwi.divider + 1) ∧
      s.missed.hwi.pulseDue = decide (s.hwi.divider + 1 = 8000) := by
  have hv := pulseTaken_hwi s
  rw [missed_eq]
  obtain hs | ⟨hs, hm⟩ := hs
  · rw [boundary_locked_missing (pulseTaken_pulseDue s) (by rw [hv]; exact hs), divideFrame_hwi, State.modHwi_hwi, hv]
    refine ⟨rfl, rfl, ?_⟩
    split <;> simp_all
  · rw [boundary_flywheel_missing (pulseTaken_pulseDue s) (by rw [hv]; exact hs) (by rw [hv]; exact hm), divideFrame_hwi, State.modHwi_hwi, hv]
    refine ⟨rfl, rfl, ?_⟩
    split <;> simp_all

/-- The third missing sync of FLYWHEEL: the divider advances, and SEARCH is entered (R2, R14). -/
theorem missed_third {s : State} (hs : s.hwi.sync = .flywheel) (hm : s.hwi.misses = 2) : s.missed = s.pulseTaken.divideFrame.enterSearch := by
  have hv := pulseTaken_hwi s
  rw [missed_eq]
  exact boundary_third_missing (pulseTaken_pulseDue s) (by rw [hv]; exact hs) (by rw [hv]; exact hm)

theorem missed_confirm {s : State} (hs : s.hwi.sync = .confirm) : s.missed = s.pulseTaken.enterSearch := by
  have hv := pulseTaken_hwi s
  rw [missed_eq]
  exact boundary_confirm_missing (pulseTaken_pulseDue s) (by rw [hv]; exact hs)

theorem missed_search {s : State} (hs : s.hwi.sync = .search) : s.missed = s.pulseTaken := by
  have hv := pulseTaken_hwi s
  rw [missed_eq]
  simp only [State.boundary, takePulse_none (pulseTaken_pulseDue s), show s.pulseTaken.hwi.sync = .search by rw [hv]; exact hs]

/-- A frame without a sync that leaves the part in SEARCH, no order waiting that could be taken. -/
theorem frame_to_search {s : State} {hrx : List Byte} (hb : s.hwi.frameBegun = false) (hc : s.missed.hwi.sync = .search)
    (hw : s.eng.Waits s.missed.eng) (hn : s.eng.noneTaken) :
    ∃ e, (s.frame hrx).finish = { s.missed with hwi := { s.missed.hwi with htx := idleFill }, eng := e } := by
  have hframe : s.frame hrx = s.missed.modHwi (fun h => { h with htx := idleFill }) := by
    rw [frame_missed hrx hb, if_neg (by simp [State.carries, hc])]
  refine ⟨s.missed.eng.settle, ?_⟩
  rw [hframe]
  exact finish_noneTaken (hw.noneTaken hn)

/-- Settles O6. -/
theorem missingSyncsCostTheFramePosition : Obligations.MissingSyncsCostTheFramePosition := by
  intro s hrx hb hn
  have hw := pulseTaken_waits s
  have hv := pulseTaken_hwi s
  obtain ⟨⟨htx, hh⟩, hcal⟩ := frame_missed_sides hrx hb
  obtain ⟨d, p, hf⟩ := finish_hwi (s.frame hrx)
  refine ⟨(s.frame hrx).finish, rfl, ?_⟩
  refine ⟨fun hs => ?_, fun hs hm => ?_, fun hi hr h0 h1 hs => ?_, fun hs hm => ?_, fun hs => ?_, fun hs => ?_⟩
  · obtain ⟨-, -, hsync, hmiss, -⟩ := missed_held (.inl hs)
    rw [hf, hh]
    exact ⟨hsync, hmiss.trans (if_pos hs)⟩
  · obtain ⟨-, -, hsync, hmiss, -⟩ := missed_held (.inr ⟨hs, hm⟩)
    rw [hf, hh]
    exact ⟨hsync, hmiss.trans (if_neg (by rw [hs]; nofun))⟩
  · obtain ⟨heng, hc, hsync, hmiss, hno, hdiv, hdue⟩ := missed_held hs
    have hinbox : s.missed.eng.mgc.inbox = [] := by rw [heng]; exact hw.inbox.trans hi
    have hframe : (s.frame hrx).eng.mgc.inbox = [] := by
      rw [frame_missed hrx hb]
      split
      · exact traffic_inbox hinbox (by rw [heng, pulseTaken_rx, hr]) h0 h1
      · exact hinbox
    rw [finish_settle hframe]
    refine ⟨⟨?_, ?_⟩, ?_, fun hd => ?_⟩
    · rw [State.onEng_hwi, hh]
      exact hdiv
    · rw [State.onEng_hwi, hh]
      exact hdue
    · rw [State.onEng_hwi, hh]
      exact hno
    · rw [State.onEng_cal, hcal, hc, pulseTaken_cal hd]
  · have hm' := missed_third hs hm
    obtain ⟨e, he⟩ := frame_to_search (hrx := hrx) hb (by simp [hm']) (by rw [hm']; exact hw.trans (enterSearch_waits s.pulseTaken.divideFrame)) hn
    rw [he, hm']
    refine ⟨by simp, by simp, by simp, rfl, ?_, fun hd hvalid => ?_⟩
    · dsimp only
      rw [enterSearch_hwi, divideFrame_hwi, hv]
      split <;> simp_all
    · have hpv : s.pulseTaken.divideFrame.hwi.pulseValid = true := by
        rw [divideFrame_hwi, hv]
        split <;> exact hvalid
      show s.pulseTaken.divideFrame.enterSearch.cal = _
      rw [enterSearch_cal, loseHighwayClock_cal, if_pos hpv, divideFrame_cal, pulseTaken_cal hd, enterSearch_hwi]
  · have hm' := missed_confirm hs
    obtain ⟨e, he⟩ := frame_to_search (hrx := hrx) hb (by simp [hm']) (by rw [hm']; exact hw.trans (enterSearch_waits s.pulseTaken)) hn
    rw [he, hm']
    refine ⟨by simp, by simp, by simp, rfl, ?_⟩
    simp [hv]
  · have hm' := missed_search hs
    obtain ⟨e, he⟩ := frame_to_search (hrx := hrx) hb (by simp [hm', hv, hs]) (by rw [hm']; exact hw) hn
    rw [he, hm']
    refine ⟨by simp [hv, hs], rfl, by simp [hv]⟩

end Sys2Proof.Machine

namespace Sys2Proof.Machine

/-! Proofs about section 11: the receiver, byte by byte. -/

/-! ## Bytes taken without an error -/

/-- From e to g the receiver takes bytes, and takes none of them again (R198). -/
inductive Engine.Fed : Engine → List Byte → Engine → Prop where
  | nil (e : Engine) : Fed e [] e
  | cons {e m g : Engine} {b : Byte} {bs : List Byte} (h : e.rxByte b = (m, [])) (k : Fed m bs g) : Fed e (b :: bs) g

namespace Engine.Fed

variable {e m g : Engine} {as bs : List Byte}

theorem one {b : Byte} (h : e.rxByte b = (g, [])) : e.Fed [b] g := .cons h (.nil g)

theorem append (h : e.Fed as m) (k : m.Fed bs g) : e.Fed (as ++ bs) g := by
  induction h with
  | nil => exact k
  | cons hb _ ih => exact .cons hb (ih k)

theorem split (h : e.Fed (as ++ bs) g) : ∃ m, e.Fed as m ∧ m.Fed bs g := by
  induction as generalizing e with
  | nil => exact ⟨e, .nil e, h⟩
  | cons b as ih =>
    obtain _ | ⟨hb, h⟩ := h
    obtain ⟨m, h1, h2⟩ := ih h
    exact ⟨m, .cons hb h1, h2⟩

/-- The run that takes bytes again goes on behind those taken without an error. -/
theorem run (h : e.Fed as g) (n : Nat) (cs : List Byte) : e.rxRun (n + as.length) (as ++ cs) = g.rxRun n cs := by
  induction h with
  | nil => rfl
  | cons hb _ ih =>
    rw [List.length_cons, ← Nat.add_assoc, List.cons_append, Engine.rxRun, hb]
    exact ih

/-- Bytes that come in one by one. -/
theorem fold (h : e.Fed as g) : as.foldl (fun e b => e.mgmtIn b) e = g := by
  induction h with
  | nil => rfl
  | cons hb _ ih =>
    rw [List.foldl_cons, Engine.mgmtIn, Engine.rxRun, hb]
    exact ih

end Engine.Fed

theorem rxRun_nil (n : Nat) (e : Engine) : e.rxRun n [] = e := by cases n <;> rfl

/-- Bytes taken again, none of which leads to an error. -/
theorem Engine.Fed.again {e g : Engine} {bs : List Byte} (h : e.Fed bs g) {n : Nat} (hn : bs.length ≤ n) : e.rxRun n bs = g := by
  obtain ⟨m, rfl⟩ := Nat.exists_eq_add_of_le' hn
  have := h.run m []
  rwa [List.append_nil, rxRun_nil] at this

theorem setRx_self {e : Engine} {rx : Option (List Byte)} (h : e.mgc.rx = rx) : e.setRx rx = e := by
  subst h
  rfl

theorem setRx_setRx (e : Engine) (a b : Option (List Byte)) : (e.setRx a).setRx b = e.setRx b := rfl

/-! ## The receiver's states (R198) -/

theorem rxByte_lead {e : Engine} (h : e.mgc.rx = none) : e.rxByte 0xC3 = (e.setRx (some []), []) := by
  unfold Engine.rxByte
  rw [h]
  rfl

theorem rxByte_hunt {e : Engine} {b : Byte} (h : e.mgc.rx = none) (hb : b ≠ 0xC3) : e.rxByte b = (e, []) := by
  unfold Engine.rxByte
  rw [h]
  dsimp only
  rw [if_neg hb]

theorem rxByte_length {e : Engine} {n : Byte} (h : e.mgc.rx = some []) (hn : lengthByte n = true) : e.rxByte n = (e.setRx (some [n]), []) := by
  unfold Engine.rxByte
  rw [h]
  exact if_pos hn

theorem rxByte_badLength {e : Engine} {n : Byte} (h : e.mgc.rx = some []) (hn : lengthByte n = false) :
    e.rxByte n = ((e.setRx none).lengthError, [n]) := by
  unfold Engine.rxByte
  rw [h]
  exact if_neg (by rw [hn]; nofun)

theorem rxByte_body {e : Engine} {n b : Byte} {body : List Byte} (h : e.mgc.rx = some (n :: body)) (hl : body.length < n.toNat) :
    e.rxByte b = (e.setRx (some (n :: (body ++ [b]))), []) := by
  unfold Engine.rxByte
  rw [h]
  exact if_pos hl

theorem rxByte_good {e : Engine} {n b : Byte} {body : List Byte} (h : e.mgc.rx = some (n :: body)) (hl : ¬ body.length < n.toNat)
    (hs : byteSum (n :: body) + b = 0) : e.rxByte b = ((e.setRx none).goodPacket body, []) := by
  unfold Engine.rxByte
  rw [h]
  dsimp only
  rw [if_neg hl, if_pos hs]

theorem rxByte_badCheck {e : Engine} {n b : Byte} {body : List Byte} (h : e.mgc.rx = some (n :: body)) (hl : ¬ body.length < n.toNat)
    (hs : byteSum (n :: body) + b ≠ 0) : e.rxByte b = ((e.setRx none).checkError, n :: (body ++ [b])) := by
  unfold Engine.rxByte
  rw [h]
  dsimp only
  rw [if_neg hl, if_neg hs]

theorem lengthByte_iff (n : Byte) : lengthByte n = true ↔ 2 ≤ n.toNat ∧ n.toNat ≤ 48 := by simp [lengthByte]

/-! ## Runs of bytes -/

theorem fed_hunt {e : Engine} (h : e.mgc.rx = none) : ∀ {bs : List Byte}, 0xC3 ∉ bs → e.Fed bs e
  | [], _ => .nil e
  | _ :: _, hb => .cons (rxByte_hunt h (fun k => hb (k ▸ List.mem_cons_self))) (fed_hunt h (fun k => hb (List.mem_cons_of_mem _ k)))

/-- Body bytes are kept, up to the number that the length byte gives. -/
theorem fed_body {n : Byte} : ∀ {bs pre : List Byte} {e : Engine}, e.mgc.rx = some (n :: pre) → pre.length + bs.length ≤ n.toNat →
    e.Fed bs (e.setRx (some (n :: (pre ++ bs))))
  | [], pre, e, h, _ => by
    rw [List.append_nil, setRx_self h]
    exact .nil e
  | b :: bs, pre, e, h, hl => by
    rw [List.length_cons] at hl
    refine .cons (rxByte_body h (by omega)) ?_
    have := fed_body (bs := bs) (pre := pre ++ [b]) (e := e.setRx (some (n :: (pre ++ [b])))) rfl (by simp; omega)
    rwa [setRx_setRx, List.append_assoc, List.singleton_append] at this

/-- The lead byte and the length byte of a packet, and what of its body has come. -/
theorem fed_start {e : Engine} {n : Byte} {bs : List Byte} (h : e.mgc.rx = none) (h2 : 2 ≤ n.toNat) (h48 : n.toNat ≤ 48) (hl : bs.length ≤ n.toNat) :
    e.Fed (0xC3 :: n :: bs) (e.setRx (some (n :: bs))) :=
  .cons (rxByte_lead h) (.cons (rxByte_length rfl ((lengthByte_iff n).2 ⟨h2, h48⟩))
    (fed_body (pre := []) (e := e.setRx (some [n])) rfl (by simpa using hl)))

theorem byteSum_cons (b : Byte) (bs : List Byte) : byteSum (b :: bs) = b + byteSum bs := by
  unfold byteSum
  rw [List.foldl_cons, BitVec.add_comm 0 b, List.foldl_assoc]

/-- A good packet, taken whole from HUNT, is its body's (R197, R198, R200). -/
theorem fed_packet {e : Engine} {body : List Byte} (h : e.mgc.rx = none) (h2 : 2 ≤ body.length) (h48 : body.length ≤ 48) :
    e.Fed (packet body) (e.goodPacket body) := by
  have hn : (BitVec.ofNat 8 body.length).toNat = body.length := by
    rw [BitVec.toNat_ofNat]
    exact Nat.mod_eq_of_lt (by omega)
  have hstart : e.Fed (0xC3 :: BitVec.ofNat 8 body.length :: body) (e.setRx (some (BitVec.ofNat 8 body.length :: body))) :=
    fed_start h (by omega) (by omega) (by omega)
  have hcheck : byteSum (BitVec.ofNat 8 body.length :: body) + (0 - (BitVec.ofNat 8 body.length + byteSum body)) = 0 := by
    rw [byteSum_cons, BitVec.add_comm, BitVec.sub_add_cancel]
  refine hstart.append (.one ?_)
  rw [rxByte_good rfl (by omega) hcheck, setRx_setRx, setRx_self h]

/-! ## Errors (R201) -/

/-- The channel's flags and report gate after an error. -/
def Engine.gated (e g : Engine) : Prop :=
  (e.mgc.gateOpen = true → g.mgc.flags = e.mgc.flags ||| 0x0100 ∧ g.mgc.gateOpen = false ∧ g.mgc.errorNoted = false) ∧
    (e.mgc.gateOpen = false → g.mgc.flags = e.mgc.flags ∧ g.mgc.gateOpen = false ∧ g.mgc.errorNoted = true)

/-- Counting an error reports it or notes it, and leaves the receiver, the inbox and the counters. -/
theorem errorGate_spec (e : Engine) : e.gated e.errorGate ∧ e.errorGate.mgc.rx = e.mgc.rx ∧ e.errorGate.mgc.inbox = e.mgc.inbox ∧
    e.errorGate.mgc.lengthErrors = e.mgc.lengthErrors ∧ e.errorGate.mgc.checkErrors = e.mgc.checkErrors ∧
    e.errorGate.mgc.overruns = e.mgc.overruns := by
  unfold Engine.errorGate Engine.gated
  cases hg : e.mgc.gateOpen
  · rw [if_neg Bool.false_ne_true]
    exact ⟨⟨nofun, fun _ => ⟨rfl, hg, rfl⟩⟩, rfl, rfl, rfl, rfl, rfl⟩
  · rw [if_pos rfl]
    exact ⟨⟨fun _ => ⟨rfl, rfl, rfl⟩, nofun⟩, rfl, rfl, rfl, rfl, rfl⟩

/-- A length error counts one, and hunts again. -/
theorem lengthError_spec (e : Engine) : e.gated e.lengthError ∧ e.lengthError.mgc.rx = e.mgc.rx ∧ e.lengthError.mgc.inbox = e.mgc.inbox ∧
    e.lengthError.mgc.lengthErrors = min 255 (e.mgc.lengthErrors + 1) ∧ e.lengthError.mgc.checkErrors = e.mgc.checkErrors ∧
    e.lengthError.mgc.overruns = e.mgc.overruns := errorGate_spec (e.modMgc (fun g => { g with lengthErrors := min 255 (g.lengthErrors + 1) }))

theorem checkError_spec (e : Engine) : e.gated e.checkError ∧ e.checkError.mgc.rx = e.mgc.rx ∧ e.checkError.mgc.inbox = e.mgc.inbox ∧
    e.checkError.mgc.lengthErrors = e.mgc.lengthErrors ∧ e.checkError.mgc.checkErrors = min 255 (e.mgc.checkErrors + 1) ∧
    e.checkError.mgc.overruns = e.mgc.overruns := errorGate_spec (e.modMgc (fun g => { g with checkErrors := min 255 (g.checkErrors + 1) }))

/-- A byte behind the lead byte that is no length byte counts a length error, and is then taken in HUNT (R198). -/
theorem mgmtIn_badLength {e : Engine} {n : Byte} (h : e.mgc.rx = some []) (hn : lengthByte n = false) :
    e.mgmtIn n = (e.setRx none).lengthError.rxRun 1399 [n] := by
  rw [Engine.mgmtIn, Engine.rxRun, rxByte_badLength h hn]
  rfl

/-- A check byte that does not fit counts a check error, and the bytes kept are taken again (R198). -/
theorem mgmtIn_badCheck {e : Engine} {n b : Byte} {body : List Byte} (h : e.mgc.rx = some (n :: body)) (hl : ¬ body.length < n.toNat)
    (hs : byteSum (n :: body) + b ≠ 0) : e.mgmtIn b = (e.setRx none).checkError.rxRun 1399 (n :: (body ++ [b])) := by
  rw [Engine.mgmtIn, Engine.rxRun, rxByte_badCheck h hl hs]
  dsimp only
  rw [List.append_nil]

/-- Settles O17: the receiver keeps what comes until the byte that is in error, and finds no lead byte among what it takes again. -/
theorem badPacketsAreCounted : Obligations.BadPacketsAreCounted := by
  intro e n chk body hrx hn gate
  refine ⟨fun hlen => ⟨_, rfl, ?_⟩, fun h2 h48 hl hbody hchk hsum => ⟨_, rfl, ?_⟩⟩
  · have hbad : lengthByte n = false := by
      refine Bool.eq_false_iff.2 (fun k => ?_)
      have := (lengthByte_iff n).1 k
      omega
    have hlead : e.mgmtIn 0xC3 = e.setRx (some []) := (Engine.Fed.one (rxByte_lead hrx)).fold
    obtain ⟨hgate, hr, hi, hle, hce, ho⟩ := lengthError_spec e
    rw [List.foldl_cons, List.foldl_cons, List.foldl_nil, hlead, mgmtIn_badLength rfl hbad, setRx_setRx, setRx_self hrx,
      (fed_hunt (hr.trans hrx) (by simpa using Ne.symm hn)).again (by simp)]
    exact ⟨hr.trans hrx, hi, hle, hce, ho, hgate⟩
  · have hstart : (0xC3 :: n :: body).foldl (fun e b => e.mgmtIn b) e = e.setRx (some (n :: body)) := (fed_start hrx h2 h48 (by omega)).fold
    have hagain : 0xC3 ∉ n :: (body ++ [chk]) := by
      simp only [List.mem_cons, List.mem_append, List.not_mem_nil, or_false, not_or]
      exact ⟨Ne.symm hn, hbody, Ne.symm hchk⟩
    obtain ⟨hgate, hr, hi, hle, hce, ho⟩ := checkError_spec e
    rw [show 0xC3 :: n :: (body ++ [chk]) = (0xC3 :: n :: body) ++ [chk] from rfl, List.foldl_append, hstart, List.foldl_cons, List.foldl_nil,
      mgmtIn_badCheck rfl (by omega) hsum, setRx_setRx, setRx_self hrx, (fed_hunt (hr.trans hrx) hagain).again (by simp; omega)]
    exact ⟨hr.trans hrx, hi, hce, hle, ho, hgate⟩

end Sys2Proof.Machine

namespace Sys2Proof.Machine

/-! Proofs about section 11: packets that arrive whole, and the receiver in a frame. -/

/-! ## Packets byte by byte -/

theorem goodPacket_placed {e : Engine} {body : List Byte} (h : e.mgc.inbox.length < 8) :
    e.goodPacket body = e.modMgc (fun g => { g with inbox := g.inbox ++ [body] }) := if_pos h

/-- A lead byte behind a lead byte counts a length error and begins the packet anew (R198). -/
theorem mgmtIn_leadAgain {e : Engine} (h : e.mgc.rx = none) : (e.setRx (some [])).mgmtIn 0xC3 = e.lengthError.setRx (some []) := by
  have hr : e.lengthError.mgc.rx = none := (lengthError_spec e).2.1.trans h
  rw [mgmtIn_badLength rfl rfl, setRx_setRx, setRx_self h]
  exact (Engine.Fed.one (rxByte_lead hr)).again (Nat.succ_pos 1398)

/-- What a packet is behind its lead byte. -/
theorem fed_packet_tail {e : Engine} {body : List Byte} (h : e.mgc.rx = none) (h2 : 2 ≤ body.length) (h48 : body.length ≤ 48) :
    (e.setRx (some [])).Fed (packet body).tail (e.goodPacket body) := by
  have hp := fed_packet h h2 h48
  rw [show packet body = 0xC3 :: (packet body).tail from rfl] at hp
  obtain _ | ⟨hb, hp⟩ := hp
  rw [rxByte_lead h, Prod.mk.injEq] at hb
  rw [hb.1]
  exact hp

theorem byteSum_append (as : List Byte) (b : Byte) : byteSum (as ++ [b]) = byteSum as + b := by
  unfold byteSum
  rw [List.foldl_append]
  rfl

/-- A packet behind one that was cut short: the bytes kept are taken again from their lead byte on (R198, R201). -/
theorem fold_cut_packet {e : Engine} {n : Byte} {cut body : List Byte} (h : e.mgc.rx = none) (h2 : 2 ≤ body.length) (h48 : body.length ≤ 48)
    (hn2 : 2 ≤ n.toNat) (hn48 : n.toNat ≤ 48) (hcut : 0xC3 ∉ cut) (hlt : cut.length < n.toNat + 1) (hle : n.toNat + 1 ≤ (cut ++ packet body).length)
    (hs : byteSum (n :: (cut ++ packet body).take (n.toNat + 1)) ≠ 0) :
    (0xC3 :: n :: (cut ++ packet body)).foldl (fun e b => e.mgmtIn b) e = e.checkError.goodPacket body := by
  have hr : e.checkError.mgc.rx = none := (checkError_spec e).2.1.trans h
  have hne : n ≠ 0xC3 := by
    rintro rfl
    exact absurd hn48 (Nat.not_le.2 (Nat.lt_of_sub_eq_succ rfl))
  have htake : (cut ++ packet body).take (n.toNat + 1) = (cut ++ packet body).take n.toNat ++ [(cut ++ packet body)[n.toNat]] :=
    List.take_succ_eq_append_getElem hle
  have hagain : (cut ++ packet body).take (n.toNat + 1) = cut ++ (packet body).take (n.toNat + 1 - cut.length) := by
    rw [List.take_append, List.take_of_length_le (Nat.le_of_lt hlt)]
  have hrest : (cut ++ packet body).drop (n.toNat + 1) = (packet body).drop (n.toNat + 1 - cut.length) := by
    rw [List.drop_append, List.drop_eq_nil_of_le (Nat.le_of_lt hlt), List.nil_append]
  have hlen : ((cut ++ packet body).take n.toNat).length = n.toNat := by
    rw [List.length_take]
    omega
  obtain ⟨m, hm, hm'⟩ : ∃ m, e.checkError.Fed ((packet body).take (n.toNat + 1 - cut.length)) m ∧
      m.Fed ((packet body).drop (n.toNat + 1 - cut.length)) (e.checkError.goodPacket body) := by
    have hp := fed_packet hr h2 h48
    rw [← List.take_append_drop (n.toNat + 1 - cut.length) (packet body)] at hp
    exact hp.split
  have hskip : e.checkError.Fed (n :: cut) e.checkError := fed_hunt hr (by
    rw [List.mem_cons, not_or]
    exact ⟨Ne.symm hne, hcut⟩)
  have hbad : (e.setRx (some (n :: (cut ++ packet body).take n.toNat))).mgmtIn (cut ++ packet body)[n.toNat] = m := by
    rw [htake, ← List.cons_append, byteSum_append] at hs
    rw [mgmtIn_badCheck rfl (by omega) hs, setRx_setRx, setRx_self h, ← htake, hagain, ← List.cons_append]
    refine (hskip.append hm).again ?_
    rw [List.cons_append, ← hagain, List.length_cons, List.length_take]
    omega
  have hfold : (0xC3 :: n :: (cut ++ packet body).take n.toNat).foldl (fun e b => e.mgmtIn b) e =
      e.setRx (some (n :: (cut ++ packet body).take n.toNat)) := (fed_start h hn2 hn48 (by omega)).fold
  have hparts : cut ++ packet body =
      (cut ++ packet body).take n.toNat ++ ([(cut ++ packet body)[n.toNat]] ++ (cut ++ packet body).drop (n.toNat + 1)) := by
    rw [← List.append_assoc, ← htake, List.take_append_drop]
  have hsplit : 0xC3 :: n :: (cut ++ packet body) =
      (0xC3 :: n :: (cut ++ packet body).take n.toNat) ++ ([(cut ++ packet body)[n.toNat]] ++ (cut ++ packet body).drop (n.toNat + 1)) :=
    congrArg (fun l => 0xC3 :: n :: l) hparts
  rw [hsplit, List.foldl_append, hfold, List.foldl_append, List.foldl_cons, List.foldl_nil, hbad, hrest]
  exact hm'.fold

/-! ## The management bytes in a frame -/

/-- The two management bytes of a frame, as the receiver takes them. -/
def Engine.mgmtPair (e : Engine) (hrx : List Byte) : Engine := (e.mgmtIn (hrx.getD 0 0xFF)).mgmtIn (hrx.getD 1 0xFF)

theorem mgmtPair_receiving (e : Engine) (hrx : List Byte) : e.Receiving (e.mgmtPair hrx) := (mgmtIn_receiving _ e).trans (mgmtIn_receiving _ _)

theorem Engine.Line.slots {e g : Engine} (h : e.Line g) : g.slotsIn = e.slotsIn ∧ g.slotsOut = e.slotsOut := by
  obtain ⟨l, f, o, r, rfl⟩ := h
  exact ⟨rfl, rfl⟩

theorem Engine.OutboxApart.slots {e g : Engine} (h : e.OutboxApart g) : g.slotsIn = e.slotsIn ∧ g.slotsOut = e.slotsOut := by
  obtain ⟨o, n, rfl⟩ := h
  exact ⟨rfl, rfl⟩

theorem Engine.Receiving.slots {e g : Engine} (h : e.Receiving g) : g.slotsIn = e.slotsIn ∧ g.slotsOut = e.slotsOut := by
  rw [h.1]
  exact ⟨rfl, rfl⟩

/-- Of a frame with no voice timeslot bound and no RESTART on its way: the receiver stands as the two bytes leave it, whatever leaves meanwhile. -/
theorem traffic_pair {e : Engine} (now : Now) (n : Option Nat) (hrx : List Byte) (hr : e.mgc.restart = .none) (hi : e.slotsIn = []) (ho : e.slotsOut = []) :
    ∃ (o0 o1 o2 : Byte) (a g : Engine), e.traffic now n hrx = (o0 :: o1 :: o2 :: List.replicate 125 0x00, g) ∧ (e.mgmtPair hrx).OutboxApart a ∧
      a.lampFrame n (hrx.getD 2 0xFF) = (o2, g) := by
  have h0 := mgmtOut_apart hr
  have h1 := mgmtIn_apart (hrx.getD 0 0xFF) h0
  have hr1 : (e.mgmtOut.2.mgmtIn (hrx.getD 0 0xFF)).mgc.restart = .none := by
    obtain ⟨o, m, h⟩ := h1
    rw [h]
    exact (mgmtIn_receiving (hrx.getD 0 0xFF) e).2.2.2.2.2.trans hr
  have h2 := mgmtIn_apart (hrx.getD 1 0xFF) (h1.trans (mgmtOut_apart hr1))
  refine ⟨e.mgmtOut.1, (e.mgmtOut.2.mgmtIn (hrx.getD 0 0xFF)).mgmtOut.1, _, _, _,
    traffic_unbound now n hrx (e0 := e.mgmtOut.2) rfl (e1 := (e.mgmtOut.2.mgmtIn (hrx.getD 0 0xFF)).mgmtOut.2) rfl rfl ?_ ?_, h2, rfl⟩
  · exact (lampFrame_line _ _ _).slots.1.trans (h2.slots.1.trans ((mgmtPair_receiving e hrx).slots.1.trans hi))
  · exact (lampFrame_line _ _ _).slots.2.trans (h2.slots.2.trans ((mgmtPair_receiving e hrx).slots.2.trans ho))

theorem Engine.OutboxApart.within {e g : Engine} (h : e.OutboxApart g) : Engine.Within [.outbox] e g := by
  obtain ⟨o, n, rfl⟩ := h
  refine fun s => ⟨rfl, fun p hp => ?_⟩
  cases p
  case outbox => exact absurd (List.mem_singleton_self _) hp
  all_goals simp [State.samePart]

theorem Engine.Line.within {e g : Engine} (h : e.Line g) : Engine.Within [.lmp, .channel, .outbox, .flags] e g := by
  obtain ⟨l, f, o, r, rfl⟩ := h
  exact ((lmp_within e l).mono rfl).step (modMgc_within { e with lmp := l } (fun g => { g with flags := f, outbox := o, rx := r })) rfl

theorem Engine.Receiving.atRest {e g : Engine} (h : e.Receiving g) (k : e.atRest) : g.atRest := by
  obtain ⟨heq, -, -, -, -, hr⟩ := h
  have hfree : g.linkFree = e.linkFree := by
    rw [heq]
    simp only [Engine.linkFree, Engine.halted, hr]
  unfold Engine.atRest
  rw [hfree, heq]
  exact k

theorem Engine.OutboxApart.atRest {e g : Engine} (h : e.OutboxApart g) (k : e.atRest) : g.atRest := by
  obtain ⟨o, n, rfl⟩ := h
  exact k

/-- A frame of LOCKED or FLYWHEEL hands the receiver both its management bytes (R7, R198). -/
theorem frame_hands_pair {s : State} {hrx : List Byte} (hb : s.hwi.frameBegun = true) (hc : s.carries = true)
    (hw : ∀ kx ∈ s.eng.sessions, kx.2.windowDue = false) (hi : s.eng.slotsIn = []) (ho : s.eng.slotsOut = []) (hrest : s.eng.atRest)
    (hr : s.eng.mgc.restart = .none) (hq : s.eng.mgc.handling = true ∨ (s.eng.mgmtPair hrx).mgc.inbox = []) :
    ∃ t a, exec (.frame hrx) s = .next t ∧ (s.eng.mgmtPair hrx).OutboxApart a ∧ t.eng = (a.lampFrame s.hwi.frameNo (hrx.getD 2 0xFF)).2 ∧
      t.cal = s.cal ∧ t.pending = s.pending := by
  obtain ⟨o0, o1, o2, a, g, htr, ha, hl⟩ := traffic_pair s.now s.hwi.frameNo hrx hr hi ho
  have hframe := frame_begun hrx hb hc hw
  rw [htr] at hframe
  have hrecv := mgmtPair_receiving s.eng hrx
  have hline := lampFrame_line s.hwi.frameNo (hrx.getD 2 0xFF) a
  rw [hl] at hline
  have hmgc := lampFrame_mgc s.hwi.frameNo (hrx.getD 2 0xFF) a
  rw [hl] at hmgc
  refine ⟨s.frame hrx, a, ?_, ha, ?_, by rw [hframe], by rw [hframe]⟩
  · refine congrArg Host.Outcome.next (finish_rest ?_ ?_)
    · rw [hframe]
      exact hline.atRest (ha.atRest (hrecv.atRest hrest))
    · rw [hframe]
      show g.mgc.inbox = [] ∨ g.canTake = false
      obtain ⟨o, m, rfl⟩ := ha
      obtain hq | hq := hq
      · right
        have : g.mgc.handling = true := (congrArg Mgc.handling hmgc).trans (hrecv.2.2.2.2.1.trans hq)
        simp [Engine.canTake, this]
      · exact .inl ((congrArg Mgc.inbox hmgc).trans hq)
  · rw [hframe, hl]

/-- A frame whose two bytes complete an order's packet at a calm part, with nothing in the outbox: the order's command (R202). -/
theorem frame_completes {s : State} {hrx : List Byte} (hb : s.hwi.frameBegun = true) (hc : s.carries = true)
    (hw : ∀ kx ∈ s.eng.sessions, kx.2.windowDue = false) (hi : s.eng.slotsIn = []) (ho : s.eng.slotsOut = []) (hrest : s.eng.atRest)
    {c : Instr} {body : List Byte} (hbody : orderBody c = some body) (hinbox : s.eng.mgc.inbox = []) (hout : s.eng.mgc.outbox = [])
    (hno : s.hwi.frameNo = none) (he : s.eng.mgmtPair hrx = s.eng.modMgc (fun g => { g with rx := none, inbox := [body] })) :
    exec (.frame hrx) s = exec c { s with hwi := { s.hwi with frameBegun := false, htx := idleFill }, eng := s.eng.modMgc (fun g => { g with rx := none }) } := by
  have hout0 : (s.eng.mgmtIn (hrx.getD 0 0xFF)).mgc.outbox = [] := by
    obtain ⟨-, -, ⟨ps, hps⟩, -⟩ := mgmtIn_receiving (hrx.getD 1 0xFF) (s.eng.mgmtIn (hrx.getD 0 0xFF))
    have hend : (s.eng.mgmtPair hrx).mgc.outbox = [] := by rw [he]; exact hout
    exact (List.append_eq_nil_iff.1 (hps.symm.trans hend)).1
  have htr : s.eng.traffic s.now s.hwi.frameNo hrx = (idleFill, s.eng.mgmtPair hrx) := by
    rw [hno]
    refine traffic_unbound s.now none hrx (mgmtOut_empty hout) (mgmtOut_empty hout0) rfl ?_ ?_
    · exact (mgmtPair_receiving s.eng hrx).slots.1.trans hi
    · exact (mgmtPair_receiving s.eng hrx).slots.2.trans ho
  have hframe := frame_begun hrx hb hc hw
  rw [htr, he] at hframe
  obtain ⟨code, tag, ps, hcode, hexec⟩ := exec_of_orderBody hbody
  rw [hexec, deliver_calm (u := { s with hwi := { s.hwi with frameBegun := false, htx := idleFill }, eng := s.eng.modMgc (fun g => { g with rx := none }) })
    hc hinbox hcode]
  show Host.Outcome.next (s.frame hrx).finish = _
  rw [hframe]
  refine congrArg Host.Outcome.next ?_
  unfold State.finish
  refine congrArg (State.takeOrders 8) ?_
  exact congrArg (fun e => ({ s with hwi := { s.hwi with frameBegun := false, htx := idleFill }, eng := e } : State)) (settle_atRest hrest)

/-- Settles O16: the packets by what the receiver keeps, the frame by the two bytes and the outbox that they pass. -/
theorem packetsArriveWhole : Obligations.PacketsArriveWhole := by
  refine ⟨fun e body h h2 h48 hlen => ⟨?_, ⟨_, rfl, ?_⟩, fun n cut hn2 hn48 hcut hlt hle hs => ⟨_, rfl, ?_⟩⟩, ?_⟩
  · rw [(fed_packet h h2 h48).fold, goodPacket_placed hlen]
  · obtain ⟨-, hr, hi, hle, hce, ho⟩ := lengthError_spec e
    have hlead : e.mgmtIn 0xC3 = e.setRx (some []) := (Engine.Fed.one (rxByte_lead h)).fold
    rw [show 0xC3 :: packet body = 0xC3 :: 0xC3 :: (packet body).tail from rfl, List.foldl_cons, List.foldl_cons, hlead, mgmtIn_leadAgain h,
      (fed_packet_tail (hr.trans h) h2 h48).fold, goodPacket_placed (by rw [hi]; exact hlen)]
    exact ⟨hr.trans h, congrArg (· ++ [body]) hi, hle, hce, ho⟩
  · obtain ⟨-, hr, hi, hle', hce, ho⟩ := checkError_spec e
    rw [fold_cut_packet h h2 h48 hn2 hn48 hcut hlt hle hs, goodPacket_placed (by rw [hi]; exact hlen)]
    exact ⟨hr.trans h, congrArg (· ++ [body]) hi, hce, hle', ho⟩
  · intro s hrx hb hsync hf hw hi ho hrest hr e
    have hc := carries_of hsync hf
    refine ⟨fun hq => ?_, fun c body hbody hinbox hout hno he => frame_completes hb hc hw hi ho hrest hbody hinbox hout hno he⟩
    obtain ⟨t, a, hex, ha, heng, hcal, hp⟩ := frame_hands_pair hb hc hw hi ho hrest hr hq
    have hrecv := mgmtPair_receiving s.eng hrx
    have hwithin : Engine.Within [.lmp, .channel, .outbox, .flags] s.eng t.eng := by
      rw [heng]
      exact ((hrecv.within.mono rfl).step ha.within rfl).step (lampFrame_line _ _ _).within rfl
    have hmgc := lampFrame_mgc s.hwi.frameNo (hrx.getD 2 0xFF) a
    rw [← heng] at hmgc
    obtain ⟨o, m, rfl⟩ := ha
    refine ⟨t, hex, ?_, ?_, ?_, ?_, ?_, ?_, ?_, ?_, ?_, fun hno => ?_, hwithin.keepsBut_of rfl (.inl (by simp)) (.inr hcal) hp⟩
    · exact (congrArg Mgc.rx hmgc :)
    · exact (congrArg Mgc.inbox hmgc :)
    · exact (congrArg Mgc.lengthErrors hmgc :)
    · exact (congrArg Mgc.checkErrors hmgc :)
    · exact (congrArg Mgc.overruns hmgc :)
    · exact (congrArg Mgc.gateOpen hmgc :)
    · exact (congrArg Mgc.errorNoted hmgc :)
    · exact (congrArg Mgc.handling hmgc :).trans hrecv.2.2.2.2.1
    · exact (congrArg Mgc.restart hmgc :).trans (hrecv.2.2.2.2.2.trans hr)
    · rw [heng, hno]
      refine ⟨rfl, ?_⟩
      show (s.eng.mgmtPair hrx).lmp = _
      rw [hrecv.1]

end Sys2Proof.Machine

namespace Sys2Proof.Machine

/-! Proofs about section 11: the orders that wait, and the order processor's own checks. -/

/-! ## What waits in the channel -/

/-- The inbox holds at most 8 orders, each with its code and tag, and the receiver keeps no more of a packet than its length byte allows. -/
structure Engine.listening (e : Engine) : Prop where
  places : e.mgc.inbox.length ≤ 8
  bodies : ∀ p ∈ e.mgc.inbox, 2 ≤ p.length
  packet : ∀ n body, e.mgc.rx = some (n :: body) → 2 ≤ n.toNat ∧ n.toNat ≤ 48 ∧ body.length ≤ n.toNat

theorem takesOrders_iff (e : Engine) : e.takesOrders ↔ e.listening ∧ e.noneTaken :=
  ⟨fun ⟨h1, h2, h3, h4⟩ => ⟨⟨h1, h2, h3⟩, h4⟩, fun ⟨⟨h1, h2, h3⟩, h4⟩ => ⟨h1, h2, h3, h4⟩⟩

namespace Engine.listening

variable {e g : Engine}

theorem congr (hr : g.mgc.rx = e.mgc.rx) (hi : g.mgc.inbox = e.mgc.inbox) (h : e.listening) : g.listening :=
  ⟨hi ▸ h.places, hi ▸ h.bodies, hr ▸ h.packet⟩

/-- Orders taken from the head of the inbox, and a packet in progress dropped. -/
theorem drops (h : e.listening) {f : Mgc → Mgc} (hd : e.mgc.Drops (f e.mgc)) : (e.modMgc f).listening := by
  obtain ⟨hr, n, hi⟩ := hd
  have hi : (e.modMgc f).mgc.inbox = e.mgc.inbox.drop n := hi
  refine ⟨?_, fun p hp => h.bodies p (List.mem_of_mem_drop (hi ▸ hp)), fun m body hm => ?_⟩
  · rw [hi, List.length_drop]
    exact (Nat.sub_le _ _).trans h.places
  · obtain hr | hr := hr
    · exact h.packet m body (hr.symm.trans hm)
    · exact absurd (hr.symm.trans hm) nofun

theorem setRx_none (h : e.listening) : (e.setRx none).listening := ⟨h.places, h.bodies, fun _ _ k => absurd k nofun⟩

theorem error (h : e.listening) : e.lengthError.listening ∧ e.checkError.listening ∧ e.overrun.listening := by
  obtain ⟨-, hr, hi, -⟩ := lengthError_spec e
  obtain ⟨-, hr', hi', -⟩ := checkError_spec e
  obtain ⟨f, o, n, -, ho⟩ := overrun_eq e
  exact ⟨h.congr hr hi, h.congr hr' hi', h.congr (by rw [ho]) (by rw [ho])⟩

/-- A packet's body joins the inbox where it has a place. -/
theorem goodPacket (h : e.listening) {body : List Byte} (hb : 2 ≤ body.length) : (e.goodPacket body).listening := by
  unfold Engine.goodPacket
  split
  case isTrue hlt =>
    refine ⟨?_, fun p hp => ?_, h.packet⟩
    · show (e.mgc.inbox ++ [body]).length ≤ 8
      rw [List.length_append]
      exact hlt
    · obtain hp | hp := List.mem_append.1 hp
      · exact h.bodies p hp
      · rwa [List.mem_singleton.1 hp]
  · exact h.error.2.2

theorem packetIn (h : e.listening) (code tag : Byte) (ps : List Byte) : (e.goodPacket (code :: tag :: ps)).listening :=
  h.goodPacket (Nat.le_add_left 2 ps.length)

/-- One byte taken by the receiver (R198). -/
theorem byteIn (h : e.listening) (b : Byte) : (e.rxByte b).1.listening := by
  unfold Engine.rxByte
  split
  · dsimp only
    split
    · exact ⟨h.places, h.bodies, fun _ _ k => absurd k nofun⟩
    · exact h
  · split
    case isTrue hb =>
      refine ⟨h.places, h.bodies, fun n body k => ?_⟩
      obtain ⟨h2, h48⟩ := (lengthByte_iff b).1 hb
      cases k
      exact ⟨h2, h48, Nat.zero_le _⟩
    · exact h.setRx_none.error.1
  · rename_i n body hrx
    obtain ⟨h2, h48, hl⟩ := h.packet n body hrx
    split
    case isTrue hlt =>
      refine ⟨h.places, h.bodies, fun m bs k => ?_⟩
      cases k
      refine ⟨h2, h48, ?_⟩
      rw [List.length_append]
      exact hlt
    case isFalse hnot =>
      split
      · exact h.setRx_none.goodPacket (by omega)
      · exact h.setRx_none.error.2.1

end Engine.listening

/-- What waits in the channel stands through a change of other parts. -/
theorem Engine.Within.listening {ps : List Part} {e g : Engine} (h : Engine.Within ps e g) (he : e.listening)
    (hp : partsApart [.channel] ps = true) : g.listening := by
  obtain ⟨hr, hi, -, -⟩ := h.same State.reset .channel (not_mem_of_partsApart hp (List.mem_singleton_self _))
  exact he.congr hr hi

theorem listening_worked : Engine.Worked Engine.listening where
  session k f e h := (modSession_within e k f).listening h rfl
  slots i o e h := (slots_within e i o).listening h rfl
  programs q e h := (queues_within e e.ssc.readQueue q).listening h rfl
  reads q e h := (queues_within e q e.ssc.progQueue).listening h rfl
  unwant k t e h := (unwant_within e k t).listening h rfl
  begun b f e h := (modHold_within e b _).listening h rfl
  charge m f e h := (charge_within e m f).listening h rfl
  lamps f e h := (modLmp_within e f).listening h rfl
  raise k d e h := (raise_within e k d).listening h rfl
  cut b f l e h := (cutChain_within e b f l).listening h rfl
  seals b o n e h := (sealBody_within e b o n).listening h rfl
  free r e h := (freeRecord_within e r).listening h rfl
  abandon m g e h := (abandonGreeting_within e m g).listening h rfl
  sealed r c e h := (recordSealed_within e r c).listening h rfl
  replace m g e h := (replaceGreeting_within e m g).listening h rfl
  reader b e h := (dropReader_within e b).listening h rfl
  target now c n x e h := (playTarget_within e now c n x).listening h rfl
  flush t e h := (flush_within e t).listening h rfl
  job j e _ h := (endJob_within e j).listening h rfl
  erase e h := (startErase_within e).listening h rfl
  read e h := (startRead_within e).listening h rfl
  program r i is e _ h := (startProgram_within e r i).listening h rfl
  channel f e hd h := h.drops hd
  byteIn b e h := h.byteIn b
  packetIn c g ps e h := h.packetIn c g ps
  queue q a e h := (writes_within e q a).listening h rfl
  write w e h := (cat_within e (w.apply e.cat)).listening h rfl
  dirty is e h := (makeAllDirty_within e is).listening h rfl
  pool e h := (examinePool_within e).listening h rfl
  idle e h := (link_within e .idle e.ssc.opTimer).listening h rfl
  retry r n e h := (link_within e (.reading r n) 0).listening h rfl
  issue r i w e _ h := (link_within e (.programming r i w) 0).listening h rfl
  stored t e h := (flash_within e t).listening h rfl
  linked r i w e _ h := (recordResult_within _).listening ((linkSegment_within e r.body i).listening h rfl) rfl
  unlinked r i w e _ h := (recordResult_within _).listening ((joinDirty_within e i).listening h rfl) rfl
  retired r i w n e _ h := (recordResult_within _).listening ((put_within e _).listening h rfl) rfl
  erased i e _ h := (eraseDone_within e i).listening h rfl
  kept i c e _ h := (eraseFailed_within e i c).listening h rfl
  losc e h := (losc_within e).listening h rfl
  recipient now e h := (takeRecipient_within e now).listening h rfl
  copied e h := (modDle_within e _).listening h rfl
  examine r day e h := (examineEntry_within e r day).listening h rfl
  service p e _ h := (service_within e .service e.ssc.devices none).listening h rfl
  freeze e h := (service_within e .frozen e.ssc.devices none).listening h rfl
  format e _ h := (service_within e .starting e.ssc.devices _).listening h rfl
  create q now e _ _ h := (target_within e q now _).listening h rfl
  listen b e h := (modHold_within e b _).listening h rfl
  accept r x j e _ _ h := (acceptJob_within e j).listening h rfl
  cancel n e h := (modDle_within e _).listening h rfl
  clear l e h := (clearList_within e l).listening h rfl
  add l m e _ _ _ h := (addMember_within e l m).listening h rfl
  cls k c e h := (put_within e (.cls k c)).listening h rfl
  settings x e h := (put_within e (.settings x)).listening h rfl
  fields m f e h := (put_within e (.boxFields m f)).listening h rfl
  mark now r mk e h := (markRecord_within e now r mk).listening h rfl
  slot m g e h := (emptySlot_within e m g).listening h rfl
  quietly r e h := (freeRecordQuietly_within e r).listening h rfl

/-! ## The taking of orders -/

/-- One order taken: the head of the inbox, where it may be (R202). -/
theorem takeOrder_inbox {s : State} (hl : s.eng.listening) (hc : s.eng.canTake = true) : s.takeOrder.eng.mgc.inbox = s.eng.mgc.inbox.tail := by
  unfold State.takeOrder
  split
  · rw [if_pos hc, place_inbox]
    exact judgeOrder_keeps _ _ _
  case h_2 hno =>
    cases hi : s.eng.mgc.inbox with
    | nil => rfl
    | cons p q =>
      have h2 := hl.bodies p (hi ▸ List.mem_cons_self)
      obtain _ | ⟨a, _ | ⟨b, bs⟩⟩ := p
      · exact absurd h2 (by simp)
      · exact absurd h2 (by simp)
      · exact absurd hi (hno a b bs q)

/-- As many orders as the inbox holds are taken, or one stands that cannot be. -/
theorem takeOrders_noneTaken : ∀ (n : Nat) {s : State}, s.eng.listening → s.eng.mgc.inbox.length ≤ n → (s.takeOrders n).eng.noneTaken
  | 0, s, _, h => .inl (List.eq_nil_of_length_eq_zero (Nat.le_zero.1 h))
  | n + 1, s, hl, h => by
    cases hc : s.eng.canTake
    · rw [takeOrders_blocked hc]
      exact .inr hc
    · refine takeOrders_noneTaken n (listening_worked.takeOrder hl) ?_
      rw [takeOrder_inbox hl hc, List.length_tail]
      omega

theorem finish_takesOrders {s : State} (h : s.eng.listening) : s.finish.eng.takesOrders := by
  have hs : (s.onEng Engine.settle).eng.listening := listening_worked.settle h
  exact (takesOrders_iff _).2 ⟨listening_worked.takeOrders _ hs, takeOrders_noneTaken 8 hs hs.places⟩

theorem deliverOrder_takesOrders {s : State} (h : s.eng.takesOrders) (code tag : Byte) (ps : List Byte) : (s.deliverOrder code tag ps).eng.takesOrders := by
  unfold State.deliverOrder
  split
  · exact h
  · have hg : (s.onEng (fun e => e.goodPacket (code :: tag :: ps))).eng.listening := ((takesOrders_iff _).1 h).1.packetIn code tag ps
    exact (takesOrders_iff _).2 ⟨listening_worked.takeOrders _ hg, takeOrders_noneTaken 8 hg hg.places⟩

theorem freeze_takesOrders {s : State} (h : s.eng.takesOrders) : s.freeze.eng.takesOrders := by
  refine (takesOrders_iff _).2 ⟨listening_worked.freezePart ((takesOrders_iff _).1 h).1, .inr ?_⟩
  have hf : s.freeze.eng.ssc.service = .frozen := by
    unfold State.freeze
    split
    case isTrue hf => exact hf
    · have hw (x : Engine) : x.freezeSessions.ssc.service = x.ssc.service :=
        ((foldl_kept (fun _ _ h => (within_kept x).freezeSession h) _ (.refl _ x)).same s .service
          (not_mem_of_partsApart (ps := [.service]) rfl (List.mem_singleton_self _))).1
      exact (hw _).trans rfl
  simp [Engine.canTake, hf]

/-- A part that has been reset hears nothing and holds no order. -/
theorem takesOrders_of_reset {e : Engine} (h : e.mgc = Mgc.reset) : e.takesOrders := by
  refine (takesOrders_iff _).2 ⟨⟨?_, ?_, ?_⟩, .inl (by rw [h]; rfl)⟩ <;> rw [h] <;> simp [Mgc.reset]

/-- The store check of a reset leaves the channel of a reset. -/
theorem storeCheck_reset (cause : StartCause) (x : Selects) (cat : Catalogue) (flash : Tab Samples) :
    ((Engine.reset cat flash).storeCheck cause x).mgc = Mgc.reset ∧ ((Engine.reset cat flash).storeCheck cause x).sessions = [] := by
  obtain ⟨hm, hs, -⟩ := storeCheck_spec cause x (Engine.reset cat flash) _ rfl rfl rfl
  exact ⟨hm, hs⟩

/-- Every command leaves no order that could be taken. -/
theorem exec_takesOrders (c : Instr) {s t : State} (h : s.eng.takesOrders) (hex : exec c s = .next t) : t.eng.takesOrders := by
  have hl := ((takesOrders_iff _).1 h).1
  refine exec_induct (P := fun s t => s.eng.takesOrders → t.eng.takesOrders) (fun code tag ps s k => deliverOrder_takesOrders k code tag ps) ?_ c hex h
  clear h hl hex s t c
  intro c s t hb hex h
  have hl := ((takesOrders_iff _).1 h).1
  cases c <;> cases hb <;> cases hex
  case powerOn x low =>
    refine takesOrders_of_reset ?_
    cases low
    · exact (storeCheck_reset .powerOn x s.eng.cat s.eng.ssc.flash).1
    · rfl
  case restartReset x =>
    obtain hsame | hreset := restartReset_eng x s
    · rw [hsame]
      exact h
    · rw [hreset]
      exact takesOrders_of_reset (storeCheck_reset .restart x s.eng.cat s.eng.ssc.flash).1
  case freeze => exact freeze_takesOrders h
  all_goals refine finish_takesOrders ?_
  case syncPulse => exact listening_worked.syncPulse hl
  case frame => exact listening_worked.frame hl
  case hclkLoss => exact listening_worked.hclkLoss hl
  case secondsPulse => exact listening_worked.takePulse hl
  case localSecond => exact listening_worked.localSecond hl
  case windowEnd => exact listening_worked.closeWindow hl
  case lossTimerExpiry => exact listening_worked.loseSession (listening_worked.closeWindow hl)
  case retryDue =>
    split
    · exact listening_worked.lamps _ _ hl
    · exact hl
  case readComplete => exact listening_worked.readComplete hl
  case programComplete => exact listening_worked.programComplete hl
  case eraseComplete => exact listening_worked.eraseComplete hl
  case storeOpTimeout => exact listening_worked.opTimeout hl
  case catalogueWriteComplete => exact listening_worked.writeDone hl
  case enterService => exact listening_worked.enterService hl
  case deliveryRecipient =>
    split
    · exact listening_worked.recipient _ _ hl
    · exact hl
  case sweepExamination =>
    split
    · exact listening_worked.examination hl
    · exact hl

/-- An order that comes where none can be taken waits, or is an overrun (R200, R202). -/
theorem deliverOrder_blocked {s : State} (hc : s.carries = true) (hb : s.eng.canTake = false) (code tag : Byte) (ps : List Byte) :
    s.deliverOrder code tag ps = s.onEng (fun e => e.goodPacket (code :: tag :: ps)) := by
  unfold State.deliverOrder
  rw [if_neg (by rw [hc]; decide)]
  refine takeOrders_blocked ?_ _
  show (s.eng.goodPacket (code :: tag :: ps)).canTake = false
  obtain ⟨heq, -, ⟨qs, hq⟩, -, hh, hr⟩ := goodPacket_receiving (code :: tag :: ps) s.eng
  unfold Engine.canTake at hb ⊢
  rw [hh, hr, hq, show (s.eng.goodPacket (code :: tag :: ps)).ssc = s.eng.ssc by rw [heq]]
  simp only [Bool.and_eq_false_iff, decide_eq_false_iff_not] at hb ⊢
  rcases hb with ((hb | hb) | hb) | hb
  · exact .inl (.inl (.inl hb))
  · exact .inl (.inl (.inr hb))
  · refine .inl (.inr fun hlt => hb (lt_of_le_of_lt ?_ hlt))
    simp
  · exact .inr hb

theorem losc_takesOrders {s : State} (h : s.eng.takesOrders) : s.losc.eng.takesOrders := by
  obtain ⟨hl, hn⟩ := (takesOrders_iff _).1 h
  refine (takesOrders_iff _).2 ⟨(losc_within s.eng).listening hl rfl, hn.imp id (fun hb => ?_)⟩
  have hs : s.losc.eng.ssc.service = s.eng.ssc.service :=
    ((losc_within s.eng).same s .service (not_mem_of_partsApart (ps := [.service]) rfl (List.mem_singleton_self _))).1
  unfold Engine.canTake at hb ⊢
  rw [hs]
  exact hb

/-- Settles O18: what waits is kept by the blocks' work, and orders are taken until none can be. -/
theorem ordersWaitOrOverrun : Obligations.OrdersWaitOrOverrun := by
  refine ⟨fun c body s hb => ?_, takesOrders_of_reset rfl, fun s t h hst => ?_⟩
  · obtain ⟨code, tag, ps, rfl, hexec⟩ := exec_of_orderBody hb
    rw [hexec]
    refine ⟨fun hc => ?_, fun hc ht hlen => ?_, fun hc ht hlen => ⟨_, congrArg _ (deliverOrder_blocked hc ht code tag ps), ?_⟩⟩
    · unfold State.deliverOrder
      rw [if_pos (by rw [hc]; rfl)]
    · rw [deliverOrder_blocked hc ht]
      simp only [State.onEng, goodPacket_placed hlen]
    · have hover : s.eng.goodPacket (code :: tag :: ps) = s.eng.overrun := if_neg (Nat.not_lt.2 hlen)
      obtain ⟨f, o, n, -, ho⟩ := overrun_eq s.eng
      rw [← hover] at ho
      refine ⟨congrArg (fun e => e.mgc.overruns) ho, congrArg (fun e => e.mgc.inbox) ho, congrArg (fun e => e.mgc.gateOpen) ho, ?_⟩
      refine ⟨rfl, fun p hp => ?_⟩
      cases p
      case outbox | flags => simp at hp
      all_goals simp [State.samePart, ho]
  · unfold step at hst
    split at hst
    · cases hst
      exact losc_takesOrders h
    case h_2 rest _ => exact exec_takesOrders _ (s := { s with pending := rest }) h hst

/-! ## The order processor's own checks (R202) -/

/-- An order that arrives at a calm part which may take it, and that is refused, leaves its answer and nothing else. -/
theorem deliverOrder_refused {s : State} (hc : s.carries = true) (hcalm : s.calm) (hh : s.eng.mgc.handling = false) (hr : s.eng.mgc.restart = .none)
    (ho : s.eng.mgc.outbox.length < 16) {code tag : Byte} {ps : List Byte} {r : Result} (hj : s.taken.judgeOrder code ps = Reply.refuse r s.taken) :
    s.deliverOrder code tag ps = s.withAnswer tag r [] := by
  have hf : s.eng.ssc.service ≠ .frozen := fun k => by simp [State.carries, k] at hc
  have hin := hcalm.2
  have htake : (s.onEng (fun e => e.modMgc (fun g => { g with inbox := [code :: tag :: ps] }))).takeOrder = s.withAnswer tag r [] := by
    have hcan : (s.onEng (fun e => e.modMgc (fun g => { g with inbox := [code :: tag :: ps] }))).eng.canTake = true := by
      simp [Engine.canTake, hh, hr, hf, ho]
    have ht : ((s.onEng (fun e => e.modMgc (fun g => { g with inbox := [code :: tag :: ps] }))).onEng (fun e => e.modMgc Mgc.takeHead)) = s.taken := by
      simp [State.taken, State.onEng, Engine.modMgc, Mgc.takeHead, hin]
    have he : (s.taken.eng.placeAnswer (answerPacket tag r [])).atRest := hcalm.1
    unfold State.takeOrder
    rw [show (s.onEng (fun e => e.modMgc (fun g => { g with inbox := [code :: tag :: ps] }))).eng.mgc.inbox = [code :: tag :: ps] from rfl]
    dsimp only
    rw [if_pos hcan, ht, hj]
    simp only [Reply.place, Reply.refuse, State.onEng, Bool.false_eq_true, if_false, settle_atRest he]
    simp [State.withAnswer, State.taken, State.onEng, Engine.modMgc, Engine.placeAnswer, hh]
  rw [deliver_calm hc hin rfl, State.takeOrders, htake]
  exact takeOrders_none (s := s.withAnswer tag r []) hin 7

theorem ofCode_none {code : Byte} (h : code ∉ orderCodes) : Order.ofCode code = none := by
  unfold Order.ofCode
  split
  case h_36 => rfl
  all_goals
    rename_i hc
    have hcode := congrArg (BitVec.ofNat 8) hc
    rw [BitVec.ofNat_toNat, BitVec.setWidth_eq] at hcode
    exact absurd (by simp [hcode, orderCodes]) h

theorem inStarting_ofCode {code : Byte} {o : Order} (ho : Order.ofCode code = some o) (h50 : code ≠ 0x50) (h49 : code ≠ 0x49) :
    o.inStarting = false := by
  unfold Order.ofCode at ho
  split at ho
  case h_28 hc => exact absurd (BitVec.eq_of_toNat_eq hc) h49
  case h_30 hc => exact absurd (BitVec.eq_of_toNat_eq hc) h50
  case h_36 => cases ho
  all_goals
    cases ho
    rfl

/-- Settles O19. -/
theorem ordersAreCheckedFirst : Obligations.OrdersAreCheckedFirst := by
  intro c code tag ps s hb hc hcalm hh hr ho
  obtain ⟨code', tag', ps', heq, hexec⟩ := exec_of_orderBody hb
  cases heq
  rw [hexec]
  refine ⟨fun hcode => ?_, fun o hord hlen => ?_, fun o hord hlen hs h50 h49 => ?_⟩
  · refine congrArg _ (deliverOrder_refused hc hcalm hh hr ho ?_)
    unfold State.judgeOrder
    rw [ofCode_none hcode]
  · refine congrArg _ (deliverOrder_refused hc hcalm hh hr ho ?_)
    unfold State.judgeOrder
    rw [hord]
    exact if_pos hlen
  · refine congrArg _ (deliverOrder_refused hc hcalm hh hr ho ?_)
    have hst : o.inStarting = false := inStarting_ofCode hord h50 h49
    unfold State.judgeOrder
    rw [hord]
    dsimp only
    rw [if_neg (not_not.2 hlen), if_pos (by simp [hst, State.taken, hs])]

end Sys2Proof.Machine

namespace Sys2Proof.Machine

/-! Proofs about section 11: the outbox byte by byte, and the RESTART that its answer brings. -/

/-! ## The bytes that leave -/

/-- A byte that is not its packet's last leaves the packet at the head (R203). -/
theorem mgmtOut_more {e : Engine} {p : List Byte} {q : List (List Byte)} (he : e.mgc.outbox = p :: q) (h : e.mgc.handed + 1 < p.length) :
    e.mgmtOut = (p.getD e.mgc.handed 0xFF, e.modMgc (fun g => { g with handed := g.handed + 1 })) := by
  unfold Engine.mgmtOut
  rw [he]
  dsimp only
  rw [if_neg (by omega)]

/-- With its last byte the packet leaves (R203). -/
theorem mgmtOut_last {e : Engine} {p : List Byte} {q : List (List Byte)} (he : e.mgc.outbox = p :: q) (h : p.length ≤ e.mgc.handed + 1) :
    e.mgmtOut = (p.getD e.mgc.handed 0xFF, e.packetLeft) := by
  unfold Engine.mgmtOut
  rw [he]
  dsimp only
  rw [if_pos h]

theorem packetLeft_none {e : Engine} (h : e.mgc.restart = .none) :
    e.packetLeft = e.modMgc (fun g => { g with outbox := g.outbox.tail, handed := 0 }) := by
  unfold Engine.packetLeft
  rw [h]

theorem packetLeft_nearer {e : Engine} {n : Nat} (h : e.mgc.restart = .answering n) (hn : 2 ≤ n) :
    e.packetLeft = e.modMgc (fun g => { g with outbox := g.outbox.tail, handed := 0, restart := .answering (n - 1) }) := by
  unfold Engine.packetLeft
  rw [h]
  exact if_neg (by omega)

/-- The answer of a RESTART has left: the reset is due, and what waits is dropped (R88, R208). -/
theorem packetLeft_due {e : Engine} {n : Nat} (h : e.mgc.restart = .answering n) (hn : n ≤ 1) :
    e.packetLeft = { e.modMgc (fun g => { g with outbox := [], handed := 0, restart := .due, inbox := [], handling := false }) with
      catQueue := haltQueue e.catQueue } := by
  unfold Engine.packetLeft
  rw [h]
  exact if_pos hn

/-- A quiet frame in the terms of its two outbound management bytes. -/
theorem exec_quiet_frame {s : State} {hrx : List Byte} (hq : s.quietFrame hrx) {o0 o1 : Byte} {e0 e1 : Engine} (k0 : s.eng.mgmtOut = (o0, e0))
    (k1 : e0.mgmtOut = (o1, e1)) (r0 : e0.mgc.rx = none) (r1 : e1.mgc.rx = none) (hi : e1.slotsIn = []) (ho : e1.slotsOut = [])
    (hrest : e1.atRest) (hin : e1.mgc.inbox = []) : exec (.frame hrx) s = .next
      { s with hwi := { s.hwi with frameBegun := false, htx := o0 :: o1 :: 0xFF :: List.replicate 125 0x00 }, eng := e1 } := by
  obtain ⟨⟨-, hb, hsync, hf, hw, -, h0, h1⟩, hno⟩ := hq
  show Host.Outcome.next (s.frame hrx).finish = _
  rw [frame_silent hb (carries_of hsync hf) hw hno h0 h1 k0 k1 r0 r1 hi ho, finish_rest]
  · exact hrest
  · exact .inl hin

/-- Settles O11: each management byte by whether it is its packet's last. -/
theorem packetsLeaveByteByByte : Obligations.PacketsLeaveByteByByte := by
  intro s hrx hq hi ho hr n gives
  obtain ⟨⟨⟨hrest, hin⟩, -, -, -, -, hrx0, -, -⟩, -⟩ := id hq
  refine ⟨fun he => ?_, fun p q he => ⟨fun hlt => ?_, fun hlt => ?_, fun hlt hq0 => ?_, fun hlt r rest hqr h2 => ?_⟩⟩
  · have hsame : s.eng.modMgc (fun g => { g with outbox := [], handed := n }) = s.eng := by
      show { s.eng with mgc := { s.eng.mgc with outbox := [], handed := s.eng.mgc.handed } } = s.eng
      rw [← he]
    show _ = _
    rw [hsame]
    exact exec_quiet_frame hq (mgmtOut_empty he) (mgmtOut_empty he) hrx0 hrx0 hi ho hrest hin
  · have h1 : (s.eng.modMgc (fun g => { g with handed := g.handed + 1 })).mgmtOut = (p.getD (n + 1) 0xFF, s.eng.modMgc (fun g => { g with outbox := p :: q, handed := n + 2 })) := by
      rw [mgmtOut_more (e := s.eng.modMgc (fun g => { g with handed := g.handed + 1 })) he hlt]
      refine congrArg (Prod.mk _) ?_
      show { s.eng with mgc := { s.eng.mgc with handed := s.eng.mgc.handed + 1 + 1 } } = _
      rw [Engine.modMgc, ← he]
    exact exec_quiet_frame hq (mgmtOut_more he (by omega)) h1 hrx0 hrx0 hi ho hrest hin
  · have h1 : (s.eng.modMgc (fun g => { g with handed := g.handed + 1 })).mgmtOut = (p.getD (n + 1) 0xFF, s.eng.modMgc (fun g => { g with outbox := q, handed := 0 })) := by
      rw [mgmtOut_last (e := s.eng.modMgc (fun g => { g with handed := g.handed + 1 })) he (le_of_eq hlt.symm),
        packetLeft_none (e := s.eng.modMgc (fun g => { g with handed := g.handed + 1 })) hr]
      refine congrArg (Prod.mk _) ?_
      show { s.eng with mgc := { s.eng.mgc with handed := 0, outbox := s.eng.mgc.outbox.tail } } = _
      rw [he]
      rfl
    exact exec_quiet_frame hq (mgmtOut_more he (by omega)) h1 hrx0 hrx0 hi ho hrest hin
  · have h0 : s.eng.mgmtOut = (p.getD n 0xFF, s.eng.modMgc (fun g => { g with outbox := [], handed := 0 })) := by
      rw [mgmtOut_last he (le_of_eq hlt.symm), packetLeft_none hr, Engine.modMgc, he, hq0]
      rfl
    exact exec_quiet_frame hq h0 (mgmtOut_empty rfl) hrx0 hrx0 hi ho hrest hin
  · have h0 : s.eng.mgmtOut = (p.getD n 0xFF, s.eng.modMgc (fun g => { g with outbox := q, handed := 0 })) := by
      rw [mgmtOut_last he (le_of_eq hlt.symm), packetLeft_none hr, Engine.modMgc, he]
      rfl
    exact exec_quiet_frame hq h0 (mgmtOut_more (e := s.eng.modMgc (fun g => { g with outbox := q, handed := 0 })) hqr h2) hrx0 hrx0 hi ho hrest hin

/-! ## RESTART (R208) -/

/-- What a management byte that leaves behind an accepted RESTART keeps. -/
structure Engine.Leaving (e g : Engine) : Prop where
  rx : g.mgc.rx = e.mgc.rx
  restart : g.mgc.restart ≠ .none
  rest : e.atRest → g.atRest
  within : Engine.Within [.channel, .outbox, .writes] e g

theorem restartFallsDue_leaving (e : Engine) : e.Leaving e.restartFallsDue where
  rx := rfl
  restart := nofun
  rest := fun ⟨ha, hd, _⟩ => ⟨ha, hd, .inl (by simp [Engine.linkFree, Engine.halted, Engine.restartFallsDue])⟩
  within := by
    refine Engine.Within.trans (b := e.modMgc (fun g => { g with restart := .due, inbox := [], outbox := [], handed := 0, handling := false })) ?_ ?_
    · exact fun s => ⟨rfl, fun p hp => by
        cases p
        case channel | outbox => exact absurd (by simp) hp
        all_goals simp [State.samePart]⟩
    · exact (writes_within _ (haltQueue e.catQueue) e.asked).mono rfl

theorem modMgc_leaving {e : Engine} {f : Mgc → Mgc} (h : ∀ g, ∃ o n r, f g = { g with outbox := o, handed := n, restart := r } ∧
    (r = .due → g.restart = .due) ∧ (g.restart ≠ .none → r ≠ .none)) (hr : e.mgc.restart ≠ .none) (hd : e.mgc.restart = .due → (f e.mgc).restart = .due) :
    e.Leaving (e.modMgc f) := by
  obtain ⟨o, n, r, hf, hdue, hne⟩ := h e.mgc
  have heq : e.modMgc f = { e with mgc := { e.mgc with outbox := o, handed := n, restart := r } } := by rw [← hf]; rfl
  rw [hf] at hd
  rw [heq]
  refine ⟨rfl, hne hr, fun hrest => ?_, fun s => ⟨rfl, fun p hp => ?_⟩⟩
  · have hlink : ({ e with mgc := { e.mgc with outbox := o, handed := n, restart := r } } : Engine).linkFree = e.linkFree := by
      have : decide (r = .due) = decide (e.mgc.restart = .due) := by simp only [decide_eq_decide]; exact ⟨hdue, hd⟩
      simp only [Engine.linkFree, Engine.halted, this]
    unfold Engine.atRest
    rw [hlink]
    exact hrest
  · cases p
    case channel | outbox => exact absurd (by simp) hp
    all_goals simp [State.samePart]

theorem mgmtOut_leaving {e : Engine} (hr : e.mgc.restart ≠ .none) : e.Leaving e.mgmtOut.2 := by
  cases he : e.mgc.outbox with
  | nil =>
    rw [mgmtOut_empty he]
    exact ⟨rfl, hr, id, .refl _ e⟩
  | cons p q =>
    by_cases hl : p.length ≤ e.mgc.handed + 1
    · rw [mgmtOut_last he hl]
      cases hv : e.mgc.restart with
      | none => exact absurd hv hr
      | due =>
        have : e.packetLeft = e.modMgc (fun g => { g with outbox := g.outbox.tail, handed := 0 }) := by
          unfold Engine.packetLeft
          rw [hv]
        rw [this]
        exact modMgc_leaving (fun g => ⟨_, _, g.restart, rfl, id, id⟩) hr id
      | answering n =>
        by_cases hn : n ≤ 1
        · rw [packetLeft_due hv hn]
          exact restartFallsDue_leaving e
        · rw [packetLeft_nearer hv (by omega)]
          exact modMgc_leaving (fun g => ⟨_, _, .answering (n - 1), rfl, nofun, nofun⟩) hr (fun k => absurd (hv.symm.trans k) nofun)
    · rw [mgmtOut_more he (by omega)]
      exact modMgc_leaving (fun g => ⟨_, _, g.restart, rfl, id, id⟩) hr id

/-- A frame behind an accepted RESTART: the two management bytes leave, and nothing else happens. -/
theorem exec_frame_leaving {s : State} {hrx : List Byte} (hq : (s.onEng (fun e => e.modMgc (fun g => { g with inbox := [] }))).quietFrame hrx)
    (hi : s.eng.slotsIn = []) (ho : s.eng.slotsOut = []) (hr : s.eng.mgc.restart ≠ .none) :
    exec (.frame hrx) s = .next { s with
      hwi := { s.hwi with frameBegun := false, htx := s.eng.mgmtOut.1 :: s.eng.mgmtOut.2.mgmtOut.1 :: 0xFF :: List.replicate 125 0x00 },
      eng := s.eng.mgmtOut.2.mgmtOut.2 } ∧
    Engine.Within [.channel, .outbox, .writes] s.eng s.eng.mgmtOut.2.mgmtOut.2 := by
  obtain ⟨⟨⟨hrest, -⟩, hb, hsync, hf, hw, hrx0, h0, h1⟩, hno⟩ := hq
  have hrest : s.eng.atRest := hrest
  have hl0 := mgmtOut_leaving hr
  have hl1 := mgmtOut_leaving hl0.restart
  have hwithin := hl0.within.trans hl1.within
  refine ⟨?_, hwithin⟩
  have hslots := hwithin.same s .slots (not_mem_of_partsApart (ps := [.slots]) rfl (List.mem_singleton_self _))
  show Host.Outcome.next (s.frame hrx).finish = _
  rw [frame_silent (s := s) (o0 := s.eng.mgmtOut.1) (e0 := s.eng.mgmtOut.2) (o1 := s.eng.mgmtOut.2.mgmtOut.1) (e1 := s.eng.mgmtOut.2.mgmtOut.2) hb (carries_of hsync hf) hw hno h0 h1 rfl rfl (hl0.rx.trans hrx0) (hl1.rx.trans (hl0.rx.trans hrx0)) (hslots.1.trans hi)
    (hslots.2.trans ho), finish_rest]
  · exact hl1.rest (hl0.rest hrest)
  · right
    simp [Engine.canTake, hl1.restart]

/-- An accepted RESTART is answered, its answer standing behind what leaves first. -/
theorem exec_restart {s : State} (h : s.accepting) (tag : Byte) : exec (.restart tag []) s = .next ((s.withAnswer tag .done []).onEng
    (fun e => e.modMgc (fun g => { g with restart := .answering (s.eng.mgc.outbox.length + 1) }))) := by
  have hrun := deliverOrder_run h (o := .restart) (code := 0x55) rfl tag (ps := []) rfl
  obtain ⟨-, ⟨hr, -⟩, -, hh, hre, -⟩ := h
  refine congrArg Host.Outcome.next (hrun.trans ?_)
  have hhalt : ((Order.run .restart [] s.taken).state.eng.placeAnswer (answerPacket tag .done [])).halted = s.eng.halted := by
    show (decide (s.eng.ssc.service = .frozen) || decide (Restart.answering _ = .due)) = (decide (s.eng.ssc.service = .frozen) || decide (s.eng.mgc.restart = .due))
    rw [hre]
    rfl
  have he : ((Order.run .restart [] s.taken).state.eng.placeAnswer (answerPacket tag .done [])).atRest := by
    have hlink : ((Order.run .restart [] s.taken).state.eng.placeAnswer (answerPacket tag .done [])).linkFree = s.eng.linkFree := by
      unfold Engine.linkFree
      rw [hhalt]
      rfl
    unfold Engine.atRest
    rw [hlink]
    exact hr
  show State.onEng (fun e => (e.placeAnswer (answerPacket tag .done [])).settle) (Order.run .restart [] s.taken).state = _
  unfold State.onEng
  dsimp only
  rw [settle_atRest he]
  simp [Order.run, orderRestart, Reply.done, State.withAnswer, State.taken, State.onEng, Engine.modMgc, Engine.placeAnswer, hh]

/-- A RESTART that takes effect runs the store check over a part that has been reset (R88, R187). -/
theorem restartReset_ready {s : State} (sel : Selects) (hr : s.restartReady = true) (hd : s.hwi.pulseDue = false) : s.restartReset sel =
    { hwi := Hwi.reset, cal := s.cal.restarted s.hwi.divider, pending := s.pending,
      eng := (Engine.reset s.eng.cat s.eng.ssc.flash).storeCheck .restart sel } := by
  unfold State.restartReset
  rw [if_neg (by rw [hr]; nofun), takePulse_none hd]

theorem restarted_fields (c : Cal) (d : Nat) : (c.restarted d).source = .losc ∧ (c.restarted d).sweep.running = false ∧ (c.restarted d).valid = c.valid ∧
    (c.restarted d).dayNumber = c.dayNumber ∧ (c.restarted d).secondOfDay = c.secondOfDay ∧
    (c.restarted d).subCount = if c.source = .highway then 1000 * d else c.subCount := by
  refine ⟨restarted_source c d, ?_⟩
  unfold Cal.restarted
  dsimp only
  split <;> exact ⟨rfl, rfl, rfl, rfl, rfl⟩

theorem restartReady_iff (s : State) : s.restartReady = true ↔ s.eng.mgc.restart = .due ∧ s.eng.ssc.link = .idle ∧ s.eng.catQueue = [] := by
  simp [State.restartReady, and_assoc]

/-- Settles O22. -/
theorem restartFollowsItsAnswer : Obligations.RestartFollowsItsAnswer := by
  intro s tag sel
  refine ⟨fun h => exec_restart h tag, fun hrx n p q hq hi ho hr he => ?_, fun hnot => ?_, fun hdue hlink hcat hd => ?_⟩
  · obtain ⟨hex, hwithin⟩ := exec_frame_leaving hq hi ho (by rw [hr]; nofun)
    refine ⟨_, s.eng.mgmtOut.2.mgmtOut.1, hex, ?_, fun h1 => ?_, fun h2 => ?_, fun hn hl => ?_, fun hn hl => ?_,
      hwithin.keepsBut_of rfl (.inl (by simp)) (.inr rfl) rfl⟩
    · have hbyte : s.eng.mgmtOut.1 = p.getD s.eng.mgc.handed 0xFF := by
        unfold Engine.mgmtOut
        rw [he]
      rw [hbyte]
    · rw [mgmtOut_more he h1]
      unfold Engine.mgmtOut
      rw [show (s.eng.modMgc (fun g => { g with handed := g.handed + 1 })).mgc.outbox = p :: q from he]
      rfl
    · rw [mgmtOut_more he (by omega), mgmtOut_more (e := s.eng.modMgc (fun g => { g with handed := g.handed + 1 })) he h2]
      exact ⟨hr, rfl, he, rfl, rfl⟩
    · obtain hl | ⟨hl, hnext⟩ := hl
      · rw [mgmtOut_more he (by omega), mgmtOut_last (e := s.eng.modMgc (fun g => { g with handed := g.handed + 1 })) he (le_of_eq hl.symm),
          packetLeft_nearer (e := s.eng.modMgc (fun g => { g with handed := g.handed + 1 })) hr hn]
        exact ⟨rfl, rfl, congrArg List.tail he, rfl, fun _ => rfl, fun k => by omega⟩
      · rw [mgmtOut_last he (le_of_eq hl.symm), packetLeft_nearer hr hn]
        have hout : (s.eng.modMgc (fun g => { g with outbox := g.outbox.tail, handed := 0, restart := .answering (n - 1) })).mgc.outbox = q := congrArg List.tail he
        cases q with
        | nil =>
          rw [mgmtOut_empty hout]
          exact ⟨rfl, rfl, hout, rfl, fun _ => rfl, fun _ => ⟨rfl, rfl⟩⟩
        | cons r rest =>
          rw [mgmtOut_more hout (hnext r rfl)]
          exact ⟨rfl, rfl, hout, rfl, fun k => by omega, fun _ => ⟨rfl, rfl⟩⟩
    · obtain hl | hl := hl
      · rw [mgmtOut_more he (by omega), mgmtOut_last (e := s.eng.modMgc (fun g => { g with handed := g.handed + 1 })) he (le_of_eq hl.symm),
          packetLeft_due (e := s.eng.modMgc (fun g => { g with handed := g.handed + 1 })) hr hn]
        exact ⟨rfl, rfl, rfl, rfl, rfl, fun k => by omega⟩
      · rw [mgmtOut_last he (le_of_eq hl.symm), packetLeft_due hr hn, mgmtOut_empty rfl]
        exact ⟨rfl, rfl, rfl, rfl, rfl, fun _ => rfl⟩
  · show Host.Outcome.next (s.restartReset sel) = _
    unfold State.restartReset
    rw [if_pos]
    have : ¬ s.restartReady = true := fun k => by
      obtain ⟨h1, h2, h3⟩ := (restartReady_iff s).1 k
      obtain h | h | h := hnot
      · exact h h1
      · exact h h2
      · exact h h3
    simpa using this
  · refine ⟨_, congrArg Host.Outcome.next (restartReset_ready sel ((restartReady_iff s).2 ⟨hdue, hlink, hcat⟩) hd), ?_⟩
    obtain ⟨hm, hs, -, -, hdle, hlmp, hcat', hsvc, hdev, hread, hprog, hlink', hlow, hflash⟩ :=
      storeCheck_spec .restart sel (Engine.reset s.eng.cat s.eng.ssc.flash) _ rfl rfl rfl
    obtain ⟨h1, h2, h3, h4, h5, h6⟩ := restarted_fields s.cal s.hwi.divider
    exact ⟨rfl, hm, hs, hlmp, hdle, hsvc, hlink', hread, hprog, hlow, hflash, hcat', hdev, h1, h2, h3, h4, h5, h6, rfl⟩

end Sys2Proof.Machine

namespace Sys2Proof.Machine

/-! Proofs about sections 10 and 11: the orders of the clock and of the part settings. -/

/-! ## Orders carried out -/

/-- An accepted order that its owner answers over an untouched part (R202). -/
theorem order_answered {s : State} (h : s.accepting) {code : Byte} {o : Order} (ho : Order.ofCode code = some o) (tag : Byte) {ps : List Byte}
    (hl : ps.length + 2 = o.bodyLength) {r : Result} {d : List Byte}
    (hr : o.run ps s.taken = { result := r, data := d, state := s.taken, waits := false }) :
    s.deliverOrder code tag ps = s.withAnswer tag r d := by
  rw [deliverOrder_run h ho tag hl, hr]
  exact place_unchanged h tag r d

/-- A checked order that a check refuses is answered over the part as it was. -/
theorem checked_refused {cs : List (Bool × Result)} {s : State} {act : Reply} {r : Result} (hc : firstRefusal cs = some r) :
    Reply.checked cs s act = { result := r, data := [], state := s, waits := false } := by
  unfold Reply.checked
  rw [hc]
  rfl

theorem withAnswer_within (tag : Byte) (r : Result) (d : List Byte) (s : State) :
    Engine.Within [.outbox] s.eng (s.withAnswer tag r d).eng := fun s0 => ⟨rfl, fun p hp => by
  cases p
  case outbox => exact absurd (.head _) hp
  all_goals simp [State.samePart, State.withAnswer, Engine.modMgc]⟩

/-- An answer placed and the writes made one sequence, over work that leaves the receiver, the inbox and the RESTART as they were. -/
theorem concluded_within {s : State} (hh : s.eng.mgc.handling = false) {ps : List Part} (hps : Part.channel ∉ ps) {e : Engine}
    (k : Engine.Within ps s.taken.eng e) (tag : Byte) (r : Result) (d : List Byte) :
    Engine.Within (.outbox :: .writes :: ps) s.eng (e.concluded tag r d) := fun s0 => ⟨rfl, fun p hp => by
  have hpp : p ∉ ps := fun hmem => hp (List.mem_cons_of_mem _ (List.mem_cons_of_mem _ hmem))
  have hsame := k.same s0 p hpp
  cases p
  case outbox | writes => exact absurd (by simp) hp
  case channel =>
    obtain ⟨hrx, hin, -, hre⟩ := hsame
    exact ⟨hrx, hin, hh.symm, hre⟩
  all_goals exact hsame⟩

theorem concluded_answered (tag : Byte) (r : Result) (d : List Byte) (s : State) (e : Engine) :
    ({ s with eng := e.concluded tag r d } : State).answered tag r d := by
  simp [State.answered, Engine.concluded]

theorem concluded_answered_of {d d' : List Byte} (hd : d = d') (tag : Byte) (r : Result) (s : State) (e : Engine) :
    ({ s with eng := e.concluded tag r d } : State).answered tag r d' := hd ▸ concluded_answered tag r d s e

/-- The one sequence an order leaves of the writes it asked for. -/
theorem concluded_catQueue {e : Engine} {ws : List CatWrite} (h : e.asked = ws) (hne : ws ≠ []) (tag : Byte) (r : Result) (d : List Byte) :
    (e.concluded tag r d).catQueue = e.catQueue ++ [{ writes := ws, after := .nothing }] := by
  subst h
  exact if_neg hne

theorem accepting_calm {s : State} (h : s.accepting) : s.calm := h.2.1

theorem accepting_asked {s : State} (h : s.accepting) : s.eng.asked = [] := h.2.1.1.1

theorem accepting_handling {s : State} (h : s.accepting) : s.eng.mgc.handling = false := h.2.2.2.1

theorem accepting_service {s : State} (h : s.accepting) : s.eng.ssc.service = .service := h.2.2.1

theorem accepting_live {s : State} (h : s.accepting) : s.eng.halted = false := by
  obtain ⟨-, -, hs, -, hr, -⟩ := h
  simp [Engine.halted, hs, hr]

/-- Work that leaves the store, the job queue and the RESTART as they were leaves nothing else to do behind an accepted order. -/
theorem order_concluded {s : State} (h : s.accepting) {code : Byte} {o : Order} (ho : Order.ofCode code = some o) (tag : Byte) {ps : List Byte}
    (hl : ps.length + 2 = o.bodyLength) {r : Result} {d : List Byte} {s' : State}
    (hr : o.run ps s.taken = { result := r, data := d, state := s', waits := false }) {qs : List Part}
    (k : Engine.Within qs s.taken.eng s'.eng)
    (hq : Part.dle ∉ qs ∧ Part.storeQueues ∉ qs ∧ Part.link ∉ qs ∧ Part.service ∉ qs ∧ Part.channel ∉ qs)
    (he : s'.eng.ssc.eraseQueue = s.eng.ssc.eraseQueue) :
    s.deliverOrder code tag ps = s'.onEng (Engine.concluded tag r d) := by
  obtain ⟨hdle, hqueues, hlink, hserv, hchan⟩ := hq
  have hd : s'.eng.dle = s.eng.dle := k.same s .dle hdle
  obtain ⟨hrq, hpq⟩ : s'.eng.ssc.readQueue = s.eng.ssc.readQueue ∧ s'.eng.ssc.progQueue = s.eng.ssc.progQueue := k.same s .storeQueues hqueues
  have hk : s'.eng.ssc.link = s.eng.ssc.link := (k.same s .link hlink).1
  have hs : s'.eng.ssc.service = s.eng.ssc.service := (k.same s .service hserv).1
  have hre : s'.eng.mgc.restart = s.eng.mgc.restart := (k.same s .channel hchan).2.2.2
  have hhalt : s'.eng.halted = s.eng.halted := by rw [Engine.halted, Engine.halted, hs, hre]
  obtain ⟨-, hdue, hrest⟩ := (accepting_calm h).1
  refine order_still h ho tag hl hr (hd ▸ hdue) ?_ (hhalt.trans (accepting_live h))
  rw [Engine.linkFree, hs, hk, hhalt, hrq, hpq, he]
  exact hrest

/-! ## The clock (R190, R191, R193) -/

theorem exec_readClock {s : State} (h : s.accepting) (tag : Byte) :
    exec (.readClock tag []) s = .next (s.withAnswer tag .done s.cal.clockBytes) :=
  congrArg _ (order_answered h (o := .readClock) rfl tag rfl rfl)

theorem orderSetClock_illegal {ps : List Byte} (s : State)
    (hd : dateLegal (num1 ps 0) (num1 ps 1) (num1 ps 2) (num1 ps 3) (num1 ps 4) (num1 ps 5) = false) :
    orderSetClock ps s = { result := .badField, data := [], state := s, waits := false } :=
  checked_refused (by simp [firstRefusal, hd])

theorem orderSetClock_legal {ps : List Byte} (s : State)
    (hd : dateLegal (num1 ps 0) (num1 ps 1) (num1 ps 2) (num1 ps 3) (num1 ps 4) (num1 ps 5) = true) :
    orderSetClock ps s = (let t := s.setClock (num1 ps 0) (num1 ps 1) (num1 ps 2) (num1 ps 3) (num1 ps 4) (num1 ps 5)
      Reply.done (be2 t.cal.dayNumber ++ be1 t.cal.dayOfWeek) t) :=
  checked_passes s _ (by simp [firstRefusal, hd])

/-- Setting the clock touches nothing that the taking of orders looks at. -/
theorem setClock_accepting {s : State} (h : s.accepting) (y mo d hr mi se : Nat) : (s.setClock y mo d hr mi se).accepting := h

theorem exec_setClock {s : State} (h : s.accepting) (tag : Byte) {ps : List Byte} (hl : ps.length = 6)
    (hd : dateLegal (num1 ps 0) (num1 ps 1) (num1 ps 2) (num1 ps 3) (num1 ps 4) (num1 ps 5) = true) :
    exec (.setClock tag ps) s = .next (let t := s.setClock (num1 ps 0) (num1 ps 1) (num1 ps 2) (num1 ps 3) (num1 ps 4) (num1 ps 5)
      t.withAnswer tag .done (be2 t.cal.dayNumber ++ be1 t.cal.dayOfWeek)) := by
  refine congrArg _ ((deliverOrder_run h (o := .setClock) rfl tag (congrArg (· + 2) hl)).trans ?_)
  show (orderSetClock ps s.taken).place tag = _
  rw [orderSetClock_legal s.taken hd]
  exact place_unchanged (setClock_accepting h _ _ _ _ _ _) tag .done _

theorem exec_sweep_refused {s : State} (h : s.accepting) (tag : Byte) {r : Result}
    (hc : firstRefusal [(s.cal.sweep.running, .busy), (!s.cal.valid, .wrongState)] = some r) :
    exec (.sweep tag []) s = .next (s.withAnswer tag r []) :=
  congrArg _ (order_answered h (o := .sweep) rfl tag rfl (checked_refused hc))

theorem exec_sweep {s : State} (h : s.accepting) (tag : Byte) (hr : s.cal.sweep.running = false) (hv : s.cal.valid = true) :
    exec (.sweep tag []) s = .next (({ s with cal := s.cal.startSweep .order } : State).withAnswer tag .done []) := by
  refine congrArg _ ((deliverOrder_run h (o := .sweep) rfl tag rfl).trans ?_)
  have hpass : orderSweep [] s.taken = Reply.done [] { s.taken with cal := s.cal.startSweep .order } :=
    checked_passes s.taken _ (by simp [firstRefusal, State.taken, hr, hv])
  show (orderSweep [] s.taken).place tag = _
  rw [hpass]
  exact place_unchanged (s := { s with cal := s.cal.startSweep .order }) h tag .done []

/-- Settles O27: each order by its checks, over the part that the order leaves. -/
theorem clockOrdersSetReadAndSweep : Obligations.ClockOrdersSetReadAndSweep := by
  intro s tag ps h
  refine ⟨?_, fun hl hd => ?_, fun hl hd => ⟨_, exec_setClock h tag hl hd, rfl, rfl, rfl, ?_, rfl⟩, ?_, ?_, ?_⟩
  · rintro rfl
    exact exec_readClock h tag
  · exact congrArg _ (order_answered h (o := .setClock) rfl tag (congrArg (· + 2) hl) (orderSetClock_illegal s.taken hd))
  · exact Engine.Within.keepsBut_of (withAnswer_within tag .done _ s) rfl (.inl (by simp)) (.inl (by simp)) rfl
  · rintro rfl hr
    exact exec_sweep_refused h tag (by simp [firstRefusal, hr])
  · rintro rfl hr hv
    exact exec_sweep_refused h tag (by simp [firstRefusal, hr, hv])
  · rintro rfl hr hv
    exact exec_sweep h tag hr hv

/-! ## The part settings (R206) -/

theorem exec_readOptions {s : State} (h : s.accepting) (tag : Byte) :
    exec (.readOptions tag []) s = .next (s.withAnswer tag .done s.eng.tab.settings.bytes) :=
  congrArg _ (order_answered h (o := .readOptions) rfl tag rfl rfl)

/-- What a yes/no byte means (R202). -/
theorem yesNo_eq (ps : List Byte) (i : Nat) : yesNo ps i = if num1 ps i ≤ 1 then some (decide (num1 ps i = 1)) else none := by
  unfold yesNo
  split
  case h_1 h => simp [h]
  case h_2 h => simp [h]
  case h_3 h0 h1 =>
    refine (if_neg fun hle => ?_).symm
    rcases Nat.le_one_iff_eq_zero_or_eq_one.1 hle with hz | ho
    · exact h0 hz
    · exact h1 ho

theorem faultMode_ofCode_none {n : Nat} (h : 4 ≤ n) : FaultMode.ofCode n = none := by
  unfold FaultMode.ofCode
  split
  case h_5 => rfl
  all_goals omega

/-- The codes of the modes are 0 to 3 (11.8). -/
theorem faultMode_ofCode {n : Nat} (h : n ≤ 3) : ∃ m, FaultMode.ofCode n = some m ∧ m.code = n := by
  match n, h with
  | 0, _ => exact ⟨_, rfl, rfl⟩
  | 1, _ => exact ⟨_, rfl, rfl⟩
  | 2, _ => exact ⟨_, rfl, rfl⟩
  | 3, _ => exact ⟨_, rfl, rfl⟩

theorem settings_read_none {ps : List Byte} (h : 2 ≤ num1 ps 0 ∨ 4 ≤ num1 ps 3 ∨ 4 ≤ num1 ps 4 ∨ 4 ≤ num1 ps 5) : Settings.read ps = none := by
  unfold Settings.read
  rcases h with h | h | h | h
  · rw [yesNo_eq, if_neg (by omega)]
  · rw [faultMode_ofCode_none h]
    cases yesNo ps 0 <;> rfl
  · rw [faultMode_ofCode_none h]
    cases yesNo ps 0 <;> cases FaultMode.ofCode (num1 ps 3) <;> rfl
  · rw [faultMode_ofCode_none h]
    cases yesNo ps 0 <;> cases FaultMode.ofCode (num1 ps 3) <;> cases FaultMode.ofCode (num1 ps 4) <;> rfl

theorem settings_read_some {ps : List Byte} (h0 : num1 ps 0 ≤ 1) (h3 : num1 ps 3 ≤ 3) (h4 : num1 ps 4 ≤ 3) (h5 : num1 ps 5 ≤ 3) :
    ∃ mo ms mn : FaultMode, mo.code = num1 ps 3 ∧ ms.code = num1 ps 4 ∧ mn.code = num1 ps 5 ∧ Settings.read ps =
      some { noticesOn := decide (num1 ps 0 = 1), kindsOn := maskAt ps 1, modeOpen := mo, modeShort := ms, modeNoAnswer := mn,
             retryInterval := num1 ps 6, confirmCount := num1 ps 7, sweepHour := num1 ps 8, poolReserve := num2 ps 9, cueLevel := num1 ps 11,
             cueLength := num1 ps 12 } := by
  obtain ⟨mo, ho, hmo⟩ := faultMode_ofCode h3
  obtain ⟨ms, hs, hms⟩ := faultMode_ofCode h4
  obtain ⟨mn, hn, hmn⟩ := faultMode_ofCode h5
  refine ⟨mo, ms, mn, hmo, hms, hmn, ?_⟩
  unfold Settings.read
  rw [yesNo_eq, if_pos h0, ho, hs, hn]

/-- Numbers that differ in any field but the mask (R206). -/
theorem numbersDiffer_iff {x y : Settings} (hn : x.noticesOn = y.noticesOn) (h1 : x.modeOpen = y.modeOpen) (h2 : x.modeShort = y.modeShort)
    (h3 : x.modeNoAnswer = y.modeNoAnswer) : x.numbersDiffer y = decide (x.retryInterval ≠ y.retryInterval ∨ x.confirmCount ≠ y.confirmCount ∨
      x.sweepHour ≠ y.sweepHour ∨ x.poolReserve ≠ y.poolReserve ∨ x.cueLevel ≠ y.cueLevel ∨ x.cueLength ≠ y.cueLength) := by
  unfold Settings.numbersDiffer
  refine decide_eq_decide.mpr ?_
  obtain ⟨_, _, _, _, _, _, _, _, _, _, _⟩ := x
  obtain ⟨_, _, _, _, _, _, _, _, _, _, _⟩ := y
  simp only at hn h1 h2 h3
  subst hn h1 h2 h3
  simp only [ne_eq, Settings.mk.injEq, true_and]
  grind

/-- What an examination of the pool finds (R74). -/
theorem examinePool_poolLow {e : Engine} (h : e.ssc.service = .service) : e.examinePool.ssc.poolLow =
    if e.ssc.poolLow = true then decide (e.available < e.tab.settings.poolReserve + 256) else decide (e.available < e.tab.settings.poolReserve) := by
  unfold Engine.examinePool
  rw [if_neg (by rw [h]; decide)]
  cases hl : e.ssc.poolLow
  case false =>
    simp only [Bool.not_false, Bool.true_and, Bool.false_and, Bool.false_eq_true, if_false, decide_eq_true_eq]
    split
    case isTrue hlt => simp [Engine.raisePoolLow, Engine.raise, Engine.modSsc, hlt]
    case isFalse hlt => simp [hl, hlt]
  case true =>
    simp only [Bool.not_true, Bool.true_and, Bool.false_and, Bool.false_eq_true, if_false, if_true, decide_eq_true_eq]
    split
    case isTrue hle => simp [Engine.raisePoolLow, Engine.raise, Engine.modSsc, hle]
    case isFalse hle => simp [hl, Nat.lt_of_not_le hle]

/-- The part with settings put, and the pool examined where the reserve changes (R74, R206). -/
def Engine.withSettings (x : Settings) (e : Engine) : Engine :=
  if x.poolReserve = e.tab.settings.poolReserve then e.put (.settings x) else (e.put (.settings x)).examinePool

theorem withSettings_within (x : Settings) (e : Engine) : Engine.Within [.settings, .writes, .pool, .outbox, .flags] e (e.withSettings x) := by
  have hput : Engine.Within [.settings, .writes] e (e.put (.settings x)) := (put_within e _).mono rfl
  exact .ite (hput.mono rfl) ((hput.mono rfl).step (examinePool_within _) rfl)

theorem examinePool_tab (e : Engine) : e.examinePool.tab = e.tab ∧ e.examinePool.asked = e.asked ∧ e.examinePool.catQueue = e.catQueue ∧
    e.examinePool.ssc.eraseQueue = e.ssc.eraseQueue := by
  unfold Engine.examinePool
  split
  · exact ⟨rfl, rfl, rfl, rfl⟩
  · split
    · exact ⟨rfl, rfl, rfl, rfl⟩
    · split <;> exact ⟨rfl, rfl, rfl, rfl⟩

theorem withSettings_fields (x : Settings) (e : Engine) : (e.withSettings x).tab.settings = x ∧ (e.withSettings x).asked = e.asked ++ [.settings x] ∧
    (e.withSettings x).catQueue = e.catQueue ∧ (e.withSettings x).ssc.eraseQueue = e.ssc.eraseQueue := by
  unfold Engine.withSettings
  split
  · exact ⟨rfl, rfl, rfl, rfl⟩
  · obtain ⟨ht, ha, hc, he⟩ := examinePool_tab (e.put (.settings x))
    rw [ht, ha, hc, he]
    exact ⟨rfl, rfl, rfl, rfl⟩

theorem withSettings_same {x : Settings} {e : Engine} (h : x.poolReserve = e.tab.settings.poolReserve) : e.withSettings x = e.put (.settings x) :=
  if_pos h

section
variable {x : Settings} {e : Engine} (hne : x.poolReserve ≠ e.tab.settings.poolReserve) (hs : e.ssc.service = .service)
include hne hs

theorem withSettings_poolLow_set (hlow : e.ssc.poolLow = false) : (e.withSettings x).ssc.poolLow = true ↔ e.available < x.poolReserve := by
  unfold Engine.withSettings
  rw [if_neg hne, examinePool_poolLow (e := e.put (.settings x)) hs, if_neg (by simp [hlow]), decide_eq_true_iff]
  rfl

theorem withSettings_poolLow_clear (hlow : e.ssc.poolLow = true) :
    (e.withSettings x).ssc.poolLow = false ↔ x.poolReserve + 256 ≤ e.available := by
  unfold Engine.withSettings
  rw [if_neg hne, examinePool_poolLow (e := e.put (.settings x)) hs, if_pos (by simp [hlow]), decide_eq_false_iff_not]
  exact Nat.not_lt

end

theorem orderSetOptions_read {ps : List Byte} (s : State) {x : Settings} (hx : Settings.read ps = some x) :
    orderSetOptions ps s = Reply.done (yes1 (x.clamped.numbersDiffer x)) { s with eng := s.eng.withSettings x.clamped } := by
  unfold orderSetOptions Engine.withSettings
  rw [hx]

/-- SET OPTIONS of legal bytes: the settings are put, and the answer and the one catalogue write follow (R206). -/
theorem exec_setOptions {s : State} (h : s.accepting) (tag : Byte) {ps : List Byte} (hl : ps.length = 13) {x : Settings}
    (hx : Settings.read ps = some x) : exec (.setOptions tag ps) s =
      .next { s with eng := (s.taken.eng.withSettings x.clamped).concluded tag .done (yes1 (x.clamped.numbersDiffer x)) } := by
  refine congrArg _ ((order_concluded h (o := .setOptions) rfl tag (congrArg (· + 2) hl) (orderSetOptions_read s.taken hx)
    (withSettings_within x.clamped s.taken.eng) ?_ ?_).trans rfl)
  · simp
  · exact (withSettings_fields x.clamped s.taken.eng).2.2.2

/-- Settles O21: the bytes read field by field, the settings put, and the pool examined. -/
theorem setOptionsKeepsTheSettings : Obligations.SetOptionsKeepsTheSettings := by
  intro s tag ps h
  refine ⟨?_, fun hl hbad => ?_, fun hl h0 h3 h4 h5 => ?_⟩
  · rintro rfl
    exact exec_readOptions h tag
  · refine congrArg _ (order_answered h (o := .setOptions) rfl tag (congrArg (· + 2) hl) ?_)
    show orderSetOptions ps s.taken = _
    unfold orderSetOptions
    rw [settings_read_none hbad]
    rfl
  · obtain ⟨mo, ms, mn, hmo, hms, hmn, hread⟩ := settings_read_some h0 h3 h4 h5
    obtain ⟨htab, hasked, hqueue, -⟩ := withSettings_fields (Settings.clamped
      { noticesOn := decide (num1 ps 0 = 1), kindsOn := maskAt ps 1, modeOpen := mo, modeShort := ms, modeNoAnswer := mn,
        retryInterval := num1 ps 6, confirmCount := num1 ps 7, sweepHour := num1 ps 8, poolReserve := num2 ps 9, cueLevel := num1 ps 11,
        cueLength := num1 ps 12 }) s.taken.eng
    refine ⟨_, _, exec_setOptions h tag hl hread, htab, rfl, rfl, hmo, hms, hmn, rfl, rfl, ?_, ?_, ?_, ?_, ?_, ?_, ?_, ?_, ?_, ?_⟩
    · exact Nat.zero_max _
    · rfl
    · exact Nat.zero_max _
    · exact Nat.zero_max _
    · exact (concluded_catQueue (hasked.trans (congrArg (· ++ _) (accepting_asked (s := s) h))) (by simp) _ _ _).trans (congrArg (· ++ _) hqueue)
    · intro heq
      rw [withSettings_same (e := s.taken.eng) heq]
      exact ⟨rfl, rfl⟩
    · exact fun hne hlow => withSettings_poolLow_set (e := s.taken.eng) hne (accepting_service (s := s) h) hlow
    · exact fun hne hlow => withSettings_poolLow_clear (e := s.taken.eng) hne (accepting_service (s := s) h) hlow
    · refine concluded_answered_of ?_ _ _ s _
      exact congrArg yes1 (numbersDiffer_iff rfl rfl rfl rfl)
    · exact Engine.Within.keepsBut_of (concluded_within (accepting_handling h) (by simp) (withSettings_within _ s.taken.eng) tag .done _) rfl
        (.inr rfl) (.inr rfl) rfl

end Sys2Proof.Machine

namespace Sys2Proof.Machine

/-! Proofs about section 6: the fields of classes, and the orders that read and mark messages. -/

/-! ## Fields as bytes -/

theorem ofNat_toNat_lt {n : Nat} (h : n < 256) : (BitVec.ofNat 8 n).toNat = n := by
  rw [BitVec.toNat_ofNat]
  exact Nat.mod_eq_of_lt h

/-- A number below 65,536 is its two bytes. -/
theorem two_bytes {n : Nat} (h : n < 65536) : (BitVec.ofNat 8 (n / 256)).toNat * 256 + (BitVec.ofNat 8 n).toNat = n := by
  simp only [BitVec.toNat_ofNat]
  omega

theorem clamp_eq_self {lo hi x : Nat} (h : clamp lo hi x = x) (hlo : lo ≤ hi) : lo ≤ x ∧ x ≤ hi := by
  unfold clamp at h
  omega

theorem clamp_le {lo hi : Nat} (h : lo ≤ hi) (x : Nat) : clamp lo hi x ≤ hi := by
  unfold clamp
  omega

theorem clamp_clamp {lo hi : Nat} (h : lo ≤ hi) (x : Nat) : clamp lo hi (clamp lo hi x) = clamp lo hi x := by
  unfold clamp
  omega

theorem mailClass_read_bytes {c : MailClass} (h : c.clamped = c) : MailClass.read c.bytes 0 = c := by
  obtain ⟨c1, c2, c3, c4, c5, c6, c7, c8, c9, c10, c11, c12, c13, c14, c15⟩ := c
  simp only [MailClass.clamped, MailClass.mk.injEq] at h
  obtain ⟨h1, h2, h3, h4, h5, h6, h7, h8, h9, h10, h11, h12, h13, h14, h15⟩ := h
  have b1 := clamp_eq_self h1 (by decide)
  have b2 := clamp_eq_self h2 (by decide)
  have b3 := clamp_eq_self h3 (by decide)
  have b4 := clamp_eq_self h4 (by decide)
  have b5 := clamp_eq_self h5 (by decide)
  have b6 := clamp_eq_self h6 (by decide)
  have b7 := clamp_eq_self h7 (by decide)
  have b8 := clamp_eq_self h8 (by decide)
  have b9 := clamp_eq_self h9 (by decide)
  have b10 := clamp_eq_self h10 (by decide)
  have b11 := clamp_eq_self h11 (by decide)
  have b12 : c12 ≤ 3952 := h12 ▸ (Nat.min_le_left _ _).trans (clamp_le (by decide) _)
  have b13 := clamp_eq_self h13 (by decide)
  have b14 := clamp_eq_self h14 (by decide)
  have b15 := clamp_eq_self h15 (by decide)
  simp only [MailClass.read, MailClass.bytes, be1, be2, num2, num1, byteAt, List.cons_append, List.nil_append, List.getD_cons_succ, List.getD_cons_zero,
    Nat.zero_add, Nat.reduceAdd]
  rw [MailClass.mk.injEq]
  exact ⟨ofNat_toNat_lt (by omega), two_bytes (by omega), two_bytes (by omega), ofNat_toNat_lt (by omega), two_bytes (by omega),
    ofNat_toNat_lt (by omega), ofNat_toNat_lt (by omega), ofNat_toNat_lt (by omega), ofNat_toNat_lt (by omega), ofNat_toNat_lt (by omega),
    two_bytes (by omega), two_bytes (by omega), ofNat_toNat_lt (by omega), two_bytes (by omega), two_bytes (by omega)⟩

theorem mailClass_clamped_clamped (c : MailClass) : c.clamped.clamped = c.clamped := by
  simp only [MailClass.clamped, MailClass.mk.injEq]
  refine ⟨clamp_clamp (by decide) _, clamp_clamp (by decide) _, clamp_clamp (by decide) _, clamp_clamp (by decide) _, clamp_clamp (by decide) _,
    clamp_clamp (by decide) _, clamp_clamp (by decide) _, clamp_clamp (by decide) _, clamp_clamp (by decide) _, clamp_clamp (by decide) _,
    clamp_clamp (by decide) _, ?_, clamp_clamp (by decide) _, clamp_clamp (by decide) _, clamp_clamp (by decide) _⟩
  unfold clamp
  omega

theorem faultMode_ofCode_code (m : FaultMode) : FaultMode.ofCode m.code = some m := by
  cases m <;> rfl

theorem faultMode_code_lt (m : FaultMode) : m.code < 256 := by
  cases m <;> decide

theorem yesNo_yes1 (b : Bool) (ps : List Byte) : yesNo (yes1 b ++ ps) 0 = some b := by
  cases b <;> rfl

theorem settings_read_bytes {x : Settings} (h : x.clamped = x) : Settings.read x.bytes = some x := by
  obtain ⟨on, kinds, mo, ms, mn, ri, cc, sh, pr, cl, cn⟩ := x
  simp only [Settings.clamped, Settings.mk.injEq, true_and] at h
  obtain ⟨-, h1, h2, h3, h4, h5, h6⟩ := h
  have b1 := clamp_eq_self h1 (by decide)
  have b2 := clamp_eq_self h2 (by decide)
  have b3 := clamp_eq_self h3 (by decide)
  have b4 := clamp_eq_self h4 (by decide)
  have b5 := clamp_eq_self h5 (by decide)
  have b6 := clamp_eq_self h6 (by decide)
  have hk : kinds.toNat < 65536 := kinds.isLt
  have hon : yesNo (Settings.bytes ⟨on, kinds, mo, ms, mn, ri, cc, sh, pr, cl, cn⟩) 0 = some on := by
    simp only [Settings.bytes, List.append_assoc]
    exact yesNo_yes1 on _
  unfold Settings.read
  rw [hon]
  simp only [Settings.bytes, yes1, mask2, be1, be2, maskAt, num2, num1, byteAt, List.cons_append, List.nil_append, List.getD_cons_succ,
    List.getD_cons_zero, Nat.reduceAdd, ofNat_toNat_lt (faultMode_code_lt _), faultMode_ofCode_code]
  rw [Option.some_inj, Settings.mk.injEq]
  refine ⟨rfl, ?_, rfl, rfl, rfl, ofNat_toNat_lt (by omega), ofNat_toNat_lt (by omega), ofNat_toNat_lt (by omega), two_bytes (by omega),
    ofNat_toNat_lt (by omega), ofNat_toNat_lt (by omega)⟩
  rw [two_bytes hk]
  rw [BitVec.ofNat_toNat, BitVec.setWidth_eq]

/-- Settles O31: each field lies in the range its bytes can carry. -/
theorem classFieldsTravelWhole : Obligations.ClassFieldsTravelWhole :=
  ⟨fun _ => mailClass_read_bytes, mailClass_clamped_clamped, fun _ => settings_read_bytes, rfl, rfl⟩

/-! ## What lamp inputs are handed from (R127, R166) -/

/-- What the handing of lamp inputs reads stands in g as in e. -/
def Engine.SameInputs (e g : Engine) : Prop :=
  g.tab.mailboxes = e.tab.mailboxes ∧ g.tab.classes = e.tab.classes ∧ g.counters = e.counters ∧ g.ssc.service = e.ssc.service ∧ g.lmp = e.lmp

namespace Engine.SameInputs

variable {a b c e g : Engine}

theorem refl (e : Engine) : SameInputs e e := ⟨rfl, rfl, rfl, rfl, rfl⟩

theorem trans (h : SameInputs a b) (k : SameInputs b c) : SameInputs a c := by
  obtain ⟨hm, hc, hn, hs, hl⟩ := h
  obtain ⟨km, kc, kn, ks, kl⟩ := k
  exact ⟨km.trans hm, kc.trans hc, kn.trans hn, ks.trans hs, kl.trans hl⟩

theorem symm (h : SameInputs a b) : SameInputs b a := by
  obtain ⟨hm, hc, hn, hs, hl⟩ := h
  exact ⟨hm.symm, hc.symm, hn.symm, hs.symm, hl.symm⟩

theorem lamps (h : SameInputs a b) : b.lmp = a.lmp := h.2.2.2.2

/-- Work on other parts leaves what the handing reads. -/
theorem of_within {ps : List Part} (k : Within ps e g) (hm : Part.mailboxes ∉ ps) (hc : Part.classes ∉ ps) (hn : Part.counters ∉ ps)
    (hs : Part.service ∉ ps) (hl : Part.lmp ∉ ps) : SameInputs e g :=
  ⟨k.same State.reset .mailboxes hm, k.same State.reset .classes hc, k.same State.reset .counters hn, (k.same State.reset .service hs).1,
    k.same State.reset .lmp hl⟩

/-- The handing of a mailbox's lamp inputs changes the lamp unit, by what it reads alone. -/
theorem handInputs (h : SameInputs e g) (m : Nat) : SameInputs (e.handInputs m) (g.handInputs m) := by
  obtain ⟨hm, hc, hn, hs, hl⟩ := h
  have hbox : g.mailbox m = e.mailbox m := by rw [Engine.mailbox, hm, Engine.mailbox]
  have hcls : g.boxClass m = e.boxClass m := by rw [Engine.boxClass, Engine.boxClass, hbox, Engine.cls, Engine.cls, hc]
  have hcount : g.counter m = e.counter m := by rw [Engine.counter, hn, Engine.counter]
  have hfull : g.boxFull m = e.boxFull m := by rw [Engine.boxFull, Engine.boxFull, hcls, hcount]
  unfold Engine.handInputs
  rw [hbox, hcount, hfull, hs, hl]
  cases e.mailbox m with
  | none => exact ⟨hm, hc, hn, hs, hl⟩
  | some b =>
    dsimp only
    split
    · exact ⟨hm, hc, hn, hs, hl⟩
    · split
      · exact ⟨hm, hc, hn, hs, hl⟩
      · refine ⟨hm, hc, hn, hs, ?_⟩
        simp only [Engine.modLmp, hl]

theorem handAll (ms : List Nat) : ∀ {e g : Engine}, SameInputs e g → SameInputs (e.handAll ms) (g.handAll ms) := by
  induction ms with
  | nil => exact fun h => h
  | cons m ms ih => exact fun h => ih (h.handInputs m)

end Engine.SameInputs

/-- The lamp unit has changed by the handing of lamp inputs alone, where the handing was done over the lamp unit as it was, and what it reads has not changed
since. -/
theorem handsInputs_of {s t : State} {e : Engine} {boxes : List Nat} (hl : e.lmp = s.eng.lmp) (k : (e.handAll boxes).SameInputs t.eng) :
    s.handsInputs boxes t := by
  have hlamps := handAll_within e boxes
  have hback : e.SameInputs { t.eng with lmp := s.eng.lmp } := by
    obtain ⟨km, kc, kn, ks, -⟩ := k
    exact ⟨km.trans (hlamps.same s .mailboxes (by simp)), kc.trans (hlamps.same s .classes (by simp)),
      kn.trans (hlamps.same s .counters (by simp)), ks.trans (hlamps.same s .service (by simp)).1, hl.symm⟩
  exact k.lamps.trans (hback.handAll boxes).lamps.symm

theorem concluded_sameInputs (tag : Byte) (r : Result) (d : List Byte) (e : Engine) : e.SameInputs (e.concluded tag r d) := .refl e

/-! ## LIST (R137, R138) -/

/-- A record that stands in no entry or names another mailbox (R131). -/
theorem recordForeign_iff (m r : Nat) (s : State) : (recordForeign m r s).1 = true ↔ ∀ x, s.eng.record r = some x → x.mailbox ≠ m := by
  rw [recordForeign]
  cases h : s.eng.record r <;> simp

theorem recordForeign_own {m r : Nat} {s : State} {x : Record} (hx : s.eng.record r = some x) (hm : x.mailbox = m) : (recordForeign m r s).1 = false := by
  rw [Bool.eq_false_iff, Ne, recordForeign_iff]
  exact fun h => h x hx hm

/-- The checks of LIST, over a start that is no record's number or a record's. -/
def listChecks (m : Nat) (start : Option Nat) (format : Nat) (s : State) : List (Bool × Result) :=
  [(decide (4096 ≤ m) || start.any (fun r => decide (32768 ≤ r)) || decide (1 < format), .badField), boxLoaded m s,
    (start.any (fun r => (recordForeign m r s).1), .noSuch)]

/-- The data of a LIST that continues behind n entries. -/
def listData (rs : List Nat) (n : Nat) (entry : Nat → List Byte) : List Byte :=
  be1 (rs.take n).length ++ opt2 (rs.drop n).head? ++ (rs.take n).flatMap entry

/-- The lists are read from the message table and the mailboxes alone (R123). -/
theorem listFrom_congr {e g : Engine} (h : g.tab.records = e.tab.records) : ∀ (n : Nat) (r : Option Nat), g.listFrom n r = e.listFrom n r
  | 0, _ => rfl
  | _ + 1, none => rfl
  | n + 1, some r => by
    rw [Engine.listFrom, Engine.listFrom, Engine.record, h, listFrom_congr h n]
    rfl

theorem boxList_congr {e g : Engine} (h : g.tab.records = e.tab.records) (hb : g.tab.mailboxes = e.tab.mailboxes) (m : Nat) :
    g.boxList m = e.boxList m := by
  rw [Engine.boxList, Engine.boxList, listFrom_congr h, Engine.mailbox, Engine.mailbox, h, hb]

theorem listTail_congr {e g : Engine} (h : g.tab.records = e.tab.records) (hb : g.tab.mailboxes = e.tab.mailboxes) (m : Nat) (start : Option Nat) :
    g.listTail m start = e.listTail m start := by
  cases start with
  | none => exact boxList_congr h hb m
  | some r => rw [Engine.listTail, Engine.listTail, listFrom_congr h, h]

/-- The start a LIST names, none for the head (R137). -/
def listStart (n : Nat) : Option Nat := if n = 0xFFFF then none else some n

theorem listStart_head {n : Nat} (h : n = 0xFFFF) : listStart n = none := if_pos h

theorem listStart_record {n : Nat} (h : n ≠ 0xFFFF) : listStart n = some n := if_neg h

theorem orderList_eq (ps : List Byte) (s : State) : orderList ps s =
    Reply.checked (listChecks (num2 ps 0) (listStart (num2 ps 2)) (num1 ps 4) s) s
      (Reply.done (listData (s.eng.listTail (num2 ps 0) (listStart (num2 ps 2))) (if num1 ps 4 = 0 then 8 else 2)
        (fun r => if num1 ps 4 = 0 then s.eng.briefEntry r else s.eng.fullEntry r)) s) := rfl

theorem exec_list {s : State} (h : s.accepting) (tag : Byte) {ps : List Byte} (hl : ps.length = 5) {r : Result} {d : List Byte}
    (hr : orderList ps s.taken = { result := r, data := d, state := s.taken, waits := false }) : exec (.list tag ps) s = .next (s.withAnswer tag r d) :=
  congrArg _ (order_answered h (o := .list) rfl tag (congrArg (· + 2) hl) hr)

theorem boxLoaded_unloaded {m : Nat} {s : State} (h : s.eng.mailbox m = none) : (boxLoaded m s).1 = true := by
  rw [boxLoaded, h]
  rfl

theorem boxLoaded_loaded {m : Nat} {s : State} (h : s.eng.mailbox m ≠ none) : (boxLoaded m s).1 = false := by
  cases hb : s.eng.mailbox m with
  | none => exact absurd hb h
  | some b => rw [boxLoaded, hb]; rfl

/-- A check that finds nothing passes on to the next. -/
theorem firstRefusal_pass {c : Bool × Result} {cs : List (Bool × Result)} (h : c.1 = false) : firstRefusal (c :: cs) = firstRefusal cs := by
  obtain ⟨b, r⟩ := c
  subst h
  rfl

theorem checked_pass_first {c : Bool × Result} {cs : List (Bool × Result)} {s : State} {act : Reply} (h : c.1 = false) :
    Reply.checked (c :: cs) s act = Reply.checked cs s act := by
  unfold Reply.checked
  rw [firstRefusal_pass h]

/-- A check that applies refuses. -/
theorem firstRefusal_stop {c : Bool × Result} {cs : List (Bool × Result)} (h : c.1 = true) : firstRefusal (c :: cs) = some c.2 := by
  obtain ⟨b, r⟩ := c
  subst h
  rfl

section ListOrder
variable {m start format : Nat} {s : State}

theorem listChecks_range (h : 4096 ≤ m ∨ (32768 ≤ start ∧ start ≠ 0xFFFF) ∨ 1 < format) :
    firstRefusal (listChecks m (listStart start) format s) = some .badField := by
  refine firstRefusal_stop ?_
  rcases h with h | ⟨h, hne⟩ | h
  · simp [h]
  · simp [listStart_record hne, h]
  · simp [h]

theorem listChecks_in_range (hm : m < 4096) (hs : start < 32768 ∨ start = 0xFFFF) (hf : format ≤ 1) :
    firstRefusal (listChecks m (listStart start) format s) =
      firstRefusal [boxLoaded m s, ((listStart start).any (fun r => (recordForeign m r s).1), .noSuch)] := by
  refine firstRefusal_pass ?_
  have hstart : (listStart start).any (fun r => decide (32768 ≤ r)) = false := by
    rcases hs with hs | hs
    · rw [listStart_record (by omega)]
      simpa using hs
    · rw [listStart_head hs]
      rfl
  simp [hm, hf, hstart]

theorem listChecks_noSuch (hm : m < 4096) (hs : start < 32768 ∨ start = 0xFFFF) (hf : format ≤ 1)
    (h : s.eng.mailbox m = none ∨ (start ≠ 0xFFFF ∧ ∀ x, s.eng.record start = some x → x.mailbox ≠ m)) :
    firstRefusal (listChecks m (listStart start) format s) = some .noSuch := by
  rw [listChecks_in_range hm hs hf]
  by_cases hb : s.eng.mailbox m = none
  · exact firstRefusal_stop (boxLoaded_unloaded hb)
  · obtain ⟨hne, hx⟩ := h.resolve_left hb
    rw [firstRefusal_pass (boxLoaded_loaded hb), listStart_record hne]
    exact firstRefusal_stop ((recordForeign_iff m start s).2 hx)

theorem listChecks_pass (hm : m < 4096) (hb : s.eng.mailbox m ≠ none)
    (h : start = 0xFFFF ∨ (start < 32768 ∧ ∃ x, s.eng.record start = some x ∧ x.mailbox = m)) (hf : format ≤ 1) :
    firstRefusal (listChecks m (listStart start) format s) = none := by
  rw [listChecks_in_range hm (h.symm.imp (fun k => k.1) id) hf, firstRefusal_pass (boxLoaded_loaded hb)]
  refine firstRefusal_pass (c := (_, .noSuch)) ?_
  by_cases hne : start = 0xFFFF
  · rw [listStart_head hne]
    rfl
  · obtain ⟨-, x, hx, hxm⟩ := h.resolve_left hne
    rw [listStart_record hne]
    exact recordForeign_own hx hxm

theorem listTail_start : s.eng.listTail m (listStart start) =
    if start = 0xFFFF then s.eng.boxList m else s.eng.listFrom s.eng.tab.records.length (some start) := by
  unfold Engine.listTail listStart
  split
  case h_1 hn => rw [if_pos (by simpa using hn)]
  case h_2 r hr =>
    have hne : ¬ start = 0xFFFF := fun k => by simp [k] at hr
    rw [if_neg hne] at hr ⊢
    rw [Option.some.inj hr]

end ListOrder

/-- Settles O33: the checks in their order, and the entries from the start. -/
theorem listGivesEntriesInOrder : Obligations.ListGivesEntriesInOrder := by
  intro s tag ps h hl m start rs
  refine ⟨fun hbad => ?_, fun hm hs hf hno => ?_, fun hm hb hstart => ?_⟩
  · exact exec_list h tag hl ((orderList_eq ps s.taken).trans (checked_refused (listChecks_range hbad)))
  · exact exec_list h tag hl ((orderList_eq ps s.taken).trans (checked_refused (listChecks_noSuch hm hs hf hno)))
  · have hrs : s.taken.eng.listTail m (listStart start) = rs :=
      (listTail_congr (e := s.eng) (g := s.taken.eng) rfl rfl m (listStart start)).trans listTail_start
    refine ⟨fun hf => ?_, fun hf => ?_⟩
    · refine exec_list h tag hl ((orderList_eq ps s.taken).trans ?_)
      rw [checked_passes _ _ (listChecks_pass (s := s.taken) hm hb hstart (by omega)), hrs, hf]
      rfl
    · refine exec_list h tag hl ((orderList_eq ps s.taken).trans ?_)
      rw [checked_passes _ _ (listChecks_pass (s := s.taken) hm hb hstart (by omega)), hrs, hf]
      rfl

/-! ## MARK (R131) -/

/-- The checks of MARK and DELETE after the field checks: the mailbox and its record. -/
theorem recordChecks_noSuch {m r : Nat} {s : State} (h : s.eng.mailbox m = none ∨ ∀ x, s.eng.record r = some x → x.mailbox ≠ m) :
    firstRefusal (recordChecks m r s) = some .noSuch := by
  by_cases hb : s.eng.mailbox m = none
  · exact firstRefusal_stop (boxLoaded_unloaded hb)
  · exact (firstRefusal_pass (boxLoaded_loaded hb)).trans (firstRefusal_stop ((recordForeign_iff m r s).2 (h.resolve_left hb)))

theorem recordChecks_own {m r : Nat} {s : State} {x : Record} (hb : s.eng.mailbox m ≠ none) (hx : s.eng.record r = some x) (hm : x.mailbox = m) :
    firstRefusal (recordChecks m r s) = if x.state = .recording then some .wrongState else none := by
  refine (firstRefusal_pass (boxLoaded_loaded hb)).trans ((firstRefusal_pass (recordForeign_own hx hm)).trans ?_)
  rw [recordRecording, hx, Option.any_some, firstRefusal, firstRefusal]
  simp only [decide_eq_true_eq]

/-- A record after a change, and the others (R131). -/
theorem changeRecord_record {e : Engine} {r : Nat} {x : Record} (hx : e.record r = some x) (y : Record) (q : Nat) :
    (e.changeRecord r x y).record q = if q = r then some y else e.record q := by
  unfold Engine.changeRecord
  split
  case isTrue heq =>
    split
    case isTrue hq => rw [hq, hx, heq]
    case isFalse hq => rfl
  case isFalse hne =>
    dsimp only
    split
    case isTrue hs => exact record_putRecord e r (some y) q
    case isFalse hs =>
      have hlamps : (((e.put (.record r (some y))).modCounter x.mailbox (Counters.pass x.state y.state x.urgent)).handInputs x.mailbox).tab.records =
          (e.put (.record r (some y))).tab.records := (handInputs_within _ _).same State.reset .records (by simp)
      rw [Engine.record, hlamps]
      exact record_putRecord e r (some y) q

/-- A change of a record moves its mailbox's counters where its state changes (R125). -/
theorem changeRecord_counter {e : Engine} (r : Nat) (x y : Record) (n : Nat) : (e.changeRecord r x y).counter n =
    if n = x.mailbox ∧ y.state ≠ x.state then Counters.pass x.state y.state x.urgent (e.counter x.mailbox) else e.counter n := by
  unfold Engine.changeRecord
  split
  case isTrue heq => rw [if_neg (fun k => k.2 (congrArg Record.state heq.symm))]
  case isFalse hne =>
    dsimp only
    split
    case isTrue hs => exact (if_neg (fun k => k.2 hs.symm)).symm
    case isFalse hs =>
      have hlamps : (((e.put (.record r (some y))).modCounter x.mailbox (Counters.pass x.state y.state x.urgent)).handInputs x.mailbox).counters =
          ((e.put (.record r (some y))).modCounter x.mailbox (Counters.pass x.state y.state x.urgent)).counters :=
        (handInputs_within _ _).same State.reset .counters (by simp)
      have hne : y.state ≠ x.state := fun k => hs k.symm
      rw [Engine.counter, hlamps]
      simp only [hne, not_false_eq_true, and_true, ne_eq]
      exact counter_modCounter (e.put (.record r (some y))) x.mailbox _ n

/-- A change of a record that keeps its state hands no lamp inputs; any other hands its mailbox's (R127). -/
theorem changeRecord_lmp_same {e : Engine} (r : Nat) {x y : Record} (hs : y.state = x.state) : (e.changeRecord r x y).lmp = e.lmp := by
  unfold Engine.changeRecord
  split
  · rfl
  · rw [if_pos hs.symm]
    rfl

theorem changeRecord_hands {e : Engine} (r : Nat) {x y : Record} (hs : y.state ≠ x.state) :
    ∃ e1 : Engine, e1.lmp = e.lmp ∧ e.changeRecord r x y = e1.handAll [x.mailbox] := by
  unfold Engine.changeRecord
  rw [if_neg (fun k => hs (congrArg Record.state k.symm)), if_neg (fun k => hs k.symm)]
  exact ⟨(e.put (.record r (some y))).modCounter x.mailbox (Counters.pass x.state y.state x.urgent), rfl, rfl⟩

theorem mark_ofCode_isNone (n : Nat) : (Mark.ofCode n).isNone = decide (2 < n) := by
  unfold Mark.ofCode
  split
  case h_4 h0 h1 h2 =>
    refine (decide_eq_true ?_).symm
    by_contra hle
    have : n = 0 ∨ n = 1 ∨ n = 2 := by omega
    rcases this with k | k | k
    · exact h0 k
    · exact h1 k
    · exact h2 k
  all_goals rfl

/-- The record that a MARK leaves (R131). -/
def markedBy (now : Now) (code : Nat) (x : Record) : Record := x.marked now ((Mark.ofCode code).getD .heard)

theorem marked_fields (now : Now) (mk : Mark) (x : Record) :
    x.marked now mk = { x with state := (x.marked now mk).state, heardDay := (x.marked now mk).heardDay } := by
  obtain ⟨_, _, st, _, _, _, _, _, hd, _, _, _⟩ := x
  cases mk <;> cases st <;> rfl

theorem markRecord_eq {e : Engine} {r : Nat} {x : Record} (hx : e.record r = some x) (now : Now) (mk : Mark) :
    e.markRecord now r mk = e.changeRecord r x (x.marked now mk) := by
  unfold Engine.markRecord
  rw [hx]

theorem changeRecord_stateCode {e : Engine} {r : Nat} {x : Record} (hx : e.record r = some x) (y : Record) :
    (e.changeRecord r x y).stateCode r = y.state.code := by
  rw [Engine.stateCode, changeRecord_record hx, if_pos rfl]
  rfl

theorem orderMark_range {ps : List Byte} (s : State) (h : 4096 ≤ num2 ps 0 ∨ 32768 ≤ num2 ps 2 ∨ 2 < num1 ps 4) :
    orderMark ps s = { result := .badField, data := [], state := s, waits := false } := by
  refine checked_refused (firstRefusal_stop ?_)
  rw [mark_ofCode_isNone]
  rcases h with h | h | h <;> simp [h]

theorem orderMark_in_range {ps : List Byte} (s : State) (hm : num2 ps 0 < 4096) (hr : num2 ps 2 < 32768) (hk : num1 ps 4 ≤ 2) :
    orderMark ps s = Reply.checked (recordChecks (num2 ps 0) (num2 ps 2) s) s
      (let s1 := s.onEng (fun e => e.markRecord s.now (num2 ps 2) ((Mark.ofCode (num1 ps 4)).getD .heard));
        Reply.done (be1 (s1.eng.stateCode (num2 ps 2))) s1) := by
  have hpass : (decide (Config.mailboxes ≤ num2 ps 0) || decide (Config.records ≤ num2 ps 2) || (Mark.ofCode (num1 ps 4)).isNone) = false := by
    rw [mark_ofCode_isNone]
    simp [hm, hr, hk]
  exact checked_pass_first (c := (_, .badField)) hpass

/-- An accepted MARK of a mailbox's record. -/
theorem exec_mark {s : State} (h : s.accepting) (tag : Byte) {ps : List Byte} (hl : ps.length = 5) (hm : num2 ps 0 < 4096) (hr : num2 ps 2 < 32768)
    (hk : num1 ps 4 ≤ 2) (hb : s.eng.mailbox (num2 ps 0) ≠ none) {x : Record} (hx : s.eng.record (num2 ps 2) = some x) (hxm : x.mailbox = num2 ps 0)
    (hs : x.state ≠ .recording) :
    let y := markedBy s.now (num1 ps 4) x
    exec (.mark tag ps) s = .next { s with eng := (s.taken.eng.changeRecord (num2 ps 2) x y).concluded tag .done (be1 y.state.code) } := by
  intro y
  have hrun : Order.run .mark ps s.taken =
      { result := .done, data := be1 y.state.code, state := { s.taken with eng := s.taken.eng.changeRecord (num2 ps 2) x y }, waits := false } := by
    refine (orderMark_in_range s.taken hm hr hk).trans ?_
    rw [checked_passes s.taken _ ((recordChecks_own (s := s.taken) hb hx hxm).trans (if_neg hs))]
    simp only [State.onEng]
    rw [markRecord_eq (e := s.taken.eng) hx, changeRecord_stateCode (e := s.taken.eng) hx]
    rfl
  have hwork : Engine.Within [.records, .counters, .lmp, .writes] s.taken.eng (s.taken.eng.changeRecord (num2 ps 2) x y) := changeRecord_within _ _ _ _
  refine congrArg _ ((order_concluded h (o := .mark) rfl tag (congrArg (· + 2) hl) hrun hwork ?_ ?_).trans rfl)
  · simp
  · exact (hwork.same s .pool (by simp)).2.1

/-- The table of MARK, row by row (R131). -/
theorem markedBy_heard (now : Now) {x : Record} (hs : x.state = .new) :
    (markedBy now 0 x).state = .heard ∧ (markedBy now 0 x).heardDay = now.stamp := by
  unfold markedBy Mark.ofCode Record.marked
  rw [hs]
  exact ⟨rfl, rfl⟩

theorem markedBy_heard_again (now : Now) {x : Record} (hs : x.state ≠ .new) : markedBy now 0 x = x := by
  unfold markedBy Mark.ofCode Record.marked
  cases hst : x.state
  case new => exact absurd hst hs
  all_goals rfl

theorem or_stamp (hd stamp : Option Nat) : hd.or stamp = if hd = none then stamp else hd := by
  cases hd <;> rfl

theorem markedBy_saved (now : Now) {x : Record} (hr : x.state ≠ .recording) : (markedBy now 1 x).state = .saved ∧
    (x.state = .new → (markedBy now 1 x).heardDay = now.stamp) ∧
    (x.state ≠ .new → (markedBy now 1 x).heardDay = if x.heardDay = none then now.stamp else x.heardDay) := by
  rw [← or_stamp]
  unfold markedBy Mark.ofCode Record.marked
  cases hst : x.state
  case recording => exact absurd hst hr
  case new => exact ⟨rfl, fun _ => rfl, fun k => absurd rfl k⟩
  case heard => exact ⟨rfl, nofun, fun _ => rfl⟩
  case saved => exact ⟨rfl, nofun, fun _ => rfl⟩

theorem markedBy_new_again (now : Now) {x : Record} (hs : x.state = .new) : markedBy now 2 x = x := by
  unfold markedBy Mark.ofCode Record.marked
  rw [hs]
  rfl

theorem markedBy_new (now : Now) {x : Record} (hr : x.state ≠ .recording) (hs : x.state ≠ .new) :
    (markedBy now 2 x).state = .new ∧ (markedBy now 2 x).heardDay = none := by
  unfold markedBy Mark.ofCode Record.marked
  cases hst : x.state
  case new => exact absurd hst hs
  case recording => exact absurd hst hr
  all_goals exact ⟨rfl, rfl⟩

/-- Settles O34: the checks in their order, the table of marks, and the change of the record. -/
theorem markFollowsItsTable : Obligations.MarkFollowsItsTable := by
  intro s tag ps h hl m r stamp
  have hrefuse : ∀ {rs : Result}, orderMark ps s.taken = { result := rs, data := [], state := s.taken, waits := false } →
      exec (.mark tag ps) s = .next (s.withAnswer tag rs []) :=
    fun k => congrArg _ (order_answered h (o := .mark) rfl tag (congrArg (· + 2) hl) k)
  refine ⟨fun hbad => hrefuse (orderMark_range s.taken hbad), fun hm hr hk => ⟨fun hno => ?_, fun hb x hx hxm => ⟨fun hrec => ?_, fun hrec => ?_⟩⟩⟩
  · exact hrefuse ((orderMark_in_range s.taken hm hr hk).trans (checked_refused (recordChecks_noSuch (s := s.taken) hno)))
  · exact hrefuse ((orderMark_in_range s.taken hm hr hk).trans
      (checked_refused ((recordChecks_own (s := s.taken) hb hx hxm).trans (if_pos hrec))))
  · refine ⟨_, markedBy s.now (num1 ps 4) x, exec_mark h tag hl hm hr hk hb hx hxm hrec, ?_, marked_fields _ _ x, ?_, ?_, ?_, ?_, ?_, ?_, ?_, ?_, ?_, ?_⟩
    · exact changeRecord_record (e := s.taken.eng) hx _
    · exact fun h0 hs => h0 ▸ markedBy_heard s.now hs
    · exact fun h0 hs => h0 ▸ markedBy_heard_again s.now hs
    · exact fun h1 => h1 ▸ markedBy_saved s.now hrec
    · exact fun h2 hs => h2 ▸ markedBy_new_again s.now hs
    · exact fun h2 hs => h2 ▸ markedBy_new s.now hrec hs
    · intro n
      exact hxm ▸ changeRecord_counter (e := s.taken.eng) r x (markedBy s.now (num1 ps 4) x) n
    · exact fun hs => changeRecord_lmp_same (e := s.taken.eng) r hs
    · intro hs
      obtain ⟨e1, hlmp, he1⟩ := changeRecord_hands (e := s.taken.eng) r hs
      refine hxm ▸ handsInputs_of (e := e1) hlmp ?_
      rw [← he1]
      exact concluded_sameInputs tag .done (be1 (markedBy s.now (num1 ps 4) x).state.code) _
    · exact concluded_answered _ _ _ s _
    · exact Engine.Within.keepsBut_of (concluded_within (accepting_handling h) (by simp)
        (changeRecord_within s.taken.eng r x (markedBy s.now (num1 ps 4) x)) tag .done _) rfl (.inr rfl) (.inr rfl) rfl

end Sys2Proof.Machine

namespace Sys2Proof.Machine

/-! Proofs about sections 7 and 8: the choice of what is played, and the orders of the distribution lists. -/

/-! ## What an OPEN PLAY chooses (R136, R148) -/

/-- The first element that meets one test, or the first that meets another where none meets it. -/
theorem find?_or_find?_some {α : Type} {p q : α → Bool} {xs : List α} {r : α} (h : (xs.find? p).or (xs.find? q) = some r) :
    ∃ before after, xs = before ++ r :: after ∧
      ((p r = true ∧ ∀ x ∈ before, ¬ p x = true) ∨ (q r = true ∧ (∀ x ∈ xs, ¬ p x = true) ∧ ∀ x ∈ before, ¬ q x = true)) := by
  rcases Option.or_eq_some_iff.1 h with hp | ⟨hnone, hq⟩
  · obtain ⟨hr, before, after, hsplit, hbefore⟩ := List.find?_eq_some_iff_append.1 hp
    exact ⟨before, after, hsplit, .inl ⟨hr, fun x hx => by simpa using hbefore x hx⟩⟩
  · obtain ⟨hr, before, after, hsplit, hbefore⟩ := List.find?_eq_some_iff_append.1 hq
    exact ⟨before, after, hsplit, .inr ⟨hr, List.find?_eq_none.1 hnone, fun x hx => by simpa using hbefore x hx⟩⟩

theorem nextNew_none_iff (e : Engine) (m : Nat) : e.nextNew m = none ↔ ∀ q ∈ e.boxList m, ¬ ∃ x, e.record q = some x ∧ x.state = .new := by
  unfold Engine.nextNew
  simp only [Option.or_eq_none_iff, List.find?_eq_none, Option.any_eq_true, decide_eq_true_eq, Bool.and_eq_true]
  refine ⟨fun h => h.2, fun h => ⟨fun q hq => ?_, h⟩⟩
  rintro ⟨x, hx, hnew, -⟩
  exact h q hq ⟨x, hx, hnew⟩

theorem slot_filled_iff (x : Slot) : x.filled = true ↔ x.held ≠ none := by
  unfold Slot.filled
  cases x.held <;> simp

/-- Settles O39: the two searches of R136, and the rows of R148 in turn. -/
theorem openPlayChoosesItsTarget : Obligations.OpenPlayChoosesItsTarget := by
  refine ⟨fun e m => ⟨fun r hr => ?_, nextNew_none_iff e m⟩, fun e m b busyCall hb => ?_⟩
  · obtain ⟨before, after, hsplit, hfirst⟩ := find?_or_find?_some hr
    refine ⟨before, after, hsplit, ?_⟩
    simpa only [Option.any_eq_true, decide_eq_true_eq, Bool.and_eq_true] using hfirst
  · have hactive : ((e.mailbox m).map (·.fields.active)).getD .standard = b.fields.active := by
      rw [hb]
      rfl
    have hchoose : e.chooseGreeting m busyCall =
        if b.fields.active = .absent ∧ (e.slot m .absent).held ≠ none then some .absent
        else if busyCall = true ∧ (e.slot m .busy).held ≠ none then some .busy
        else if (e.slot m .standard).held ≠ none then some .standard
        else if (e.slot m .name).held ≠ none then some .name
        else none := by
      unfold Engine.chooseGreeting
      rw [hactive]
      simp only [Bool.and_eq_true, decide_eq_true_eq, slot_filled_iff]
    intro filled
    refine ⟨fun h => ?_, fun h => ⟨fun h2 => ?_, fun h2 => ⟨fun h3 => ?_, fun h3 => ⟨fun h4 => ?_, fun h4 => ?_⟩⟩⟩⟩
    · rw [hchoose, if_pos h]
    · rw [hchoose, if_neg h, if_pos h2]
    · rw [hchoose, if_neg h, if_neg h2, if_pos h3]
    · rw [hchoose, if_neg h, if_neg h2, if_neg h3, if_pos h4]
    · rw [hchoose, if_neg h, if_neg h2, if_neg h3, if_neg h4]

/-! ## LIST CLEAR and READ LIST (R155, R156) -/

theorem listMembers_congr {e g : Engine} (hm : g.tab.members = e.tab.members) (hl : g.tab.lists = e.tab.lists) (l : Nat) :
    g.listMembers l = e.listMembers l := by
  unfold Engine.listMembers Engine.listEntries
  rw [membersFrom_congr hm, Engine.list, Engine.list, hl]

theorem listEntries_congr {e g : Engine} (hm : g.tab.members = e.tab.members) (hl : g.tab.lists = e.tab.lists) (l : Nat) :
    g.listEntries l = e.listEntries l := by
  unfold Engine.listEntries
  rw [membersFrom_congr hm, Engine.list, Engine.list, hl]

theorem member_clearList (l : Nat) (e : Engine) (i : Nat) :
    Tab.find? (e.clearList l).tab.members i = if i ∈ (e.listEntries l).map (·.1) then none else Tab.find? e.tab.members i := by
  rw [clearList_tab]
  exact Tab.find?_foldl_erase i _ _

/-- The checks of LIST CLEAR. -/
theorem listClear_checks {l : Nat} {s : State} :
    firstRefusal [listRange l, listBusy l s] = if 64 ≤ l then some .badField else if s.eng.listInUse l = true then some .busy else none := by
  unfold firstRefusal firstRefusal firstRefusal listRange listBusy
  simp only [decide_eq_true_eq]

theorem orderListClear_refused {ps : List Byte} {s : State} {r : Result} (h : firstRefusal [listRange (num1 ps 0), listBusy (num1 ps 0) s] = some r) :
    orderListClear ps s = { result := r, data := [], state := s, waits := false } := checked_refused h

theorem orderListClear_empty {ps : List Byte} {s : State} (h : firstRefusal [listRange (num1 ps 0), listBusy (num1 ps 0) s] = none)
    (hc : (s.eng.list (num1 ps 0)).count = 0) : orderListClear ps s = Reply.done (be2 0 ++ be2 s.eng.freeEntries) s := by
  refine (checked_passes s _ h).trans ?_
  rw [if_pos hc, hc]

theorem orderListClear_done {ps : List Byte} {s : State} (h : firstRefusal [listRange (num1 ps 0), listBusy (num1 ps 0) s] = none)
    (hc : (s.eng.list (num1 ps 0)).count ≠ 0) : orderListClear ps s =
      Reply.done (be2 (s.eng.list (num1 ps 0)).count ++ be2 (s.eng.clearList (num1 ps 0)).freeEntries) { s with eng := s.eng.clearList (num1 ps 0) } := by
  refine (checked_passes s _ h).trans ?_
  rw [if_neg hc]
  rfl

theorem exec_listClear {s : State} (h : s.accepting) (tag : Byte) {ps : List Byte} (hl : ps.length = 1)
    (hpass : firstRefusal [listRange (num1 ps 0), listBusy (num1 ps 0) s.taken] = none) (hc : (s.eng.list (num1 ps 0)).count ≠ 0) :
    exec (.listClear tag ps) s = .next { s with eng := (s.taken.eng.clearList (num1 ps 0)).concluded tag .done (
      be2 (s.eng.list (num1 ps 0)).count ++ be2 (s.taken.eng.clearList (num1 ps 0)).freeEntries) } := by
  have hwork : Engine.Within [.lists, .members, .writes] s.taken.eng (s.taken.eng.clearList (num1 ps 0)) := clearList_within _ _
  refine congrArg _ ((order_concluded h (o := .listClear) rfl tag (congrArg (· + 2) hl) (orderListClear_done hpass hc) hwork ?_ ?_).trans rfl)
  · simp
  · exact (hwork.same s .pool (by simp)).2.1

/-- Settles O40: the checks in their order; the clearing is the model's, entry by entry. -/
theorem listClearEmptiesAndReadListReads : Obligations.ListClearEmptiesAndReadListReads := by
  intro s tag ps h l start members given
  have hclear : ∀ {r : Result} {d : List Byte}, ps.length = 1 →
      orderListClear ps s.taken = { result := r, data := d, state := s.taken, waits := false } →
      exec (.listClear tag ps) s = .next (s.withAnswer tag r d) :=
    fun hl k => congrArg _ (order_answered h (o := .listClear) rfl tag (congrArg (· + 2) hl) k)
  have hread : ∀ {r : Result} {d : List Byte}, ps.length = 3 →
      orderReadList ps s.taken = { result := r, data := d, state := s.taken, waits := false } →
      exec (.readList tag ps) s = .next (s.withAnswer tag r d) :=
    fun hl k => congrArg _ (order_answered h (o := .readList) rfl tag (congrArg (· + 2) hl) k)
  have hpass : l < 64 → s.eng.listInUse l = false → firstRefusal [listRange l, listBusy l s.taken] = none := fun hlt hu => by
    rw [listClear_checks, if_neg (Nat.not_le.2 hlt)]
    exact if_neg (Bool.eq_false_iff.1 hu)
  refine ⟨fun hl hbad => ?_, fun hl hlt hu => ?_, fun hl hlt hu hc => ?_, fun hl hlt hu hc => ?_, fun hl hbad => ?_, fun hl hlt hs => ?_⟩
  · exact hclear hl (orderListClear_refused (listClear_checks.trans (if_pos hbad)))
  · exact hclear hl (orderListClear_refused (listClear_checks.trans ((if_neg (Nat.not_le.2 hlt)).trans (if_pos hu))))
  · exact hclear hl (orderListClear_empty (hpass hlt hu) hc)
  · refine ⟨_, exec_listClear h tag hl (hpass hlt hu) hc, fun k => ?_, fun i => ?_, concluded_answered _ _ _ s _, ?_⟩
    · exact list_clearList l s.taken.eng k
    · have hentries : s.taken.eng.listEntries l = s.eng.listEntries l :=
        listEntries_congr (e := s.eng) (g := s.taken.eng) rfl rfl l
      exact hentries ▸ member_clearList l s.taken.eng i
    · exact Engine.Within.keepsBut_of (concluded_within (accepting_handling h) (by simp) (clearList_within s.taken.eng l) tag .done _) rfl
        (.inr rfl) (.inr rfl) rfl
  · refine hread hl (checked_refused (firstRefusal_stop ?_))
    rcases hbad with hbad | hbad
    · simp [show 64 ≤ num1 ps 0 from hbad]
    · simp [show 511 < num2 ps 1 from hbad]
  · refine hread hl ((checked_passes s.taken _ (firstRefusal_pass (c := (_, .badField)) (cs := []) ?_)).trans ?_)
    · simp [show num1 ps 0 < 64 from hlt, show num2 ps 1 ≤ 511 from hs]
    · have hmembers : s.taken.eng.listMembers l = members := listMembers_congr (e := s.eng) (g := s.taken.eng) rfl rfl l
      rw [show num1 ps 0 = l from rfl, show num2 ps 1 = start from rfl, hmembers]
      simp only [Bool.and_eq_true, decide_eq_true_eq]
      rfl

/-! ## LIST ADD (R154) -/

section AddMembers
variable {l m : Nat} {ms : List Nat} {c : AddCounts} {e : Engine}

theorem addMembers_present (h : m ∈ e.listMembers l) :
    e.addMembers l (m :: ms) c = e.addMembers l ms { c with present := c.present + 1 } := if_pos (by simpa using h)

theorem addMembers_added (h : m ∉ e.listMembers l) (hroom : (e.list l).count < 512 ∧ e.tab.members.length < 8192) :
    e.addMembers l (m :: ms) c = (e.addMember l m).addMembers l ms { c with added := c.added + 1 } := by
  have hfree : 0 < e.freeEntries := Nat.sub_pos_of_lt hroom.2
  exact (if_neg (by simpa using h)).trans (if_pos (by simpa using ⟨hroom.1, hfree⟩))

theorem addMembers_left (h : m ∉ e.listMembers l) (hroom : ¬ ((e.list l).count < 512 ∧ e.tab.members.length < 8192)) :
    e.addMembers l (m :: ms) c = ({ c with left := (m :: ms).length }, e) := by
  have hfull : ¬ ((e.list l).count < 512 ∧ 0 < e.freeEntries) := fun k => hroom ⟨k.1, Nat.lt_of_sub_pos k.2⟩
  exact (if_neg (by simpa using h)).trans (if_neg (by simpa using hfull))

end AddMembers

/-- What the numbers of a LIST ADD come to: they are added, present or left, and the list's count grows by those added; the other lists stand. -/
structure AddsUp (l : Nat) (ms : List Nat) (c : AddCounts) (e : Engine) (d : AddCounts) (g : Engine) : Prop where
  sum : d.added + d.present + d.left = c.added + c.present + ms.length
  left_le : d.left ≤ ms.length
  added_le : c.added ≤ d.added
  count : (g.list l).count + c.added = (e.list l).count + d.added
  others : ∀ k, k ≠ l → g.list k = e.list k

theorem addMembers_addsUp (l : Nat) : ∀ (ms : List Nat) (c : AddCounts) (e : Engine), c.left = 0 →
    AddsUp l ms c e (e.addMembers l ms c).1 (e.addMembers l ms c).2
  | [], c, e, hc => ⟨by simp [Engine.addMembers, hc], by simp [Engine.addMembers, hc], Nat.le_refl _, rfl, fun _ _ => rfl⟩
  | m :: ms, c, e, hc => by
    by_cases hm : m ∈ e.listMembers l
    · rw [addMembers_present hm]
      obtain ⟨hsum, hleft, hadded, hcount, hothers⟩ := addMembers_addsUp l ms { c with present := c.present + 1 } e hc
      exact ⟨by rw [hsum, List.length_cons]; dsimp only; omega, Nat.le_succ_of_le hleft, hadded, hcount, hothers⟩
    · by_cases hroom : (e.list l).count < 512 ∧ e.tab.members.length < 8192
      · rw [addMembers_added hm hroom]
        obtain ⟨hsum, hleft, hadded, hcount, hothers⟩ := addMembers_addsUp l ms { c with added := c.added + 1 } (e.addMember l m) hc
        have hl := list_addMember l m e l
        rw [if_pos rfl] at hl
        rw [hl] at hcount
        dsimp only at hsum hadded hcount
        refine ⟨by rw [hsum, List.length_cons]; omega, Nat.le_succ_of_le hleft, Nat.le_of_succ_le hadded, by omega, fun k hk => ?_⟩
        rw [hothers k hk, list_addMember, if_neg hk]
      · rw [addMembers_left hm hroom]
        exact ⟨rfl, Nat.le_refl _, Nat.le_refl _, rfl, fun _ _ => rfl⟩

/-- Numbers that are members already are counted, and nothing changes. -/
theorem addMembers_all_present (l : Nat) : ∀ (ms : List Nat) (c : AddCounts) (e : Engine), (∀ m ∈ ms, m ∈ e.listMembers l) →
    e.addMembers l ms c = ({ c with present := c.present + ms.length }, e)
  | [], _, _, _ => rfl
  | m :: ms, c, e, h => by
    rw [addMembers_present (h m (.head _)), addMembers_all_present l ms _ e (fun k hk => h k (.tail _ hk))]
    simp only [List.length_cons, Prod.mk.injEq, AddCounts.mk.injEq, true_and, and_true]
    omega

/-- The members that a LIST ADD of a whole list appends: the numbers processed that were none of them, each once, in the order given. -/
def newMembers (ms : List Nat) (left : Nat) (members : List Nat) : List Nat :=
  ((ms.take (ms.length - left)).filter (fun m => decide (m ∉ members))).eraseDups

theorem newMembers_present {m : Nat} {ms members : List Nat} {left : Nat} (h : m ∈ members) (hle : left ≤ ms.length) :
    newMembers (m :: ms) left members = newMembers ms left members := by
  unfold newMembers
  rw [List.length_cons, Nat.succ_sub hle, List.take_succ_cons, List.filter_cons_of_neg (by simpa using h)]

theorem newMembers_added {m : Nat} {ms members : List Nat} {left : Nat} (h : m ∉ members) (hle : left ≤ ms.length) :
    newMembers (m :: ms) left members = m :: newMembers ms left (members ++ [m]) := by
  unfold newMembers
  rw [List.length_cons, Nat.succ_sub hle, List.take_succ_cons, List.filter_cons_of_pos (by simpa using h), List.eraseDups_cons, List.filter_filter]
  congr 2
  refine List.filter_congr fun x _ => ?_
  by_cases hx : x ∈ members <;> by_cases hxm : x = m <;> simp [hx, hxm]

theorem addMembers_members (l : Nat) : ∀ (ms : List Nat) (c : AddCounts) (e : Engine), c.left = 0 → (∃ es, e.ListsAre es) →
    ((newMembers ms (e.addMembers l ms c).1.left (e.listMembers l)).length + c.added = (e.addMembers l ms c).1.added ∧
      (e.addMembers l ms c).2.listMembers l = e.listMembers l ++ newMembers ms (e.addMembers l ms c).1.left (e.listMembers l)) ∧
    ∀ k, k ≠ l → (e.addMembers l ms c).2.listMembers k = e.listMembers k
  | [], c, e, _, _ => by simp [Engine.addMembers, newMembers]
  | m :: ms, c, e, hc, hes => by
    by_cases hm : m ∈ e.listMembers l
    · have hle := (addMembers_addsUp l ms { c with present := c.present + 1 } e hc).left_le
      rw [addMembers_present hm, newMembers_present hm hle]
      exact addMembers_members l ms { c with present := c.present + 1 } e hc hes
    · by_cases hroom : (e.list l).count < 512 ∧ e.tab.members.length < 8192
      · have hle := (addMembers_addsUp l ms { c with added := c.added + 1 } (e.addMember l m) hc).left_le
        obtain ⟨es, hes⟩ := hes
        obtain ⟨⟨hlen, happ⟩, hoth⟩ := addMembers_members l ms { c with added := c.added + 1 } (e.addMember l m) hc
          ⟨_, addMember_listsAre hes hm hroom.1⟩
        have hmem := listMembers_addMember hes l m l
        rw [if_pos rfl] at hmem
        rw [hmem] at hlen happ
        rw [addMembers_added hm hroom, newMembers_added hm hle]
        refine ⟨⟨by rw [← hlen, List.length_cons]; dsimp only; omega, by rw [happ, List.append_assoc, List.singleton_append]⟩, fun k hk => ?_⟩
        rw [hoth k hk, listMembers_addMember hes, if_neg hk]
      · rw [addMembers_left hm hroom]
        have hnone : newMembers (m :: ms) (m :: ms).length (e.listMembers l) = [] := by
          unfold newMembers
          rw [Nat.sub_self]
          rfl
        dsimp only
        rw [hnone]
        exact ⟨⟨Nat.zero_add _, (List.append_nil _).symm⟩, fun _ _ => rfl⟩

/-- The checks of LIST ADD. -/
def listAddChecks (l n : Nat) (ms : List Nat) (s : State) : List (Bool × Result) :=
  [(decide (64 ≤ l) || decide (n = 0) || decide (16 < n) || ms.any (fun m => decide (4096 ≤ m)), .badField), listBusy l s]

theorem listAddChecks_range {l n : Nat} {ms : List Nat} {s : State} (h : ¬ (l < 64 ∧ 1 ≤ n ∧ n ≤ 16 ∧ ∀ m ∈ ms, m < 4096)) :
    firstRefusal (listAddChecks l n ms s) = some .badField := by
  refine firstRefusal_stop ?_
  by_contra hno
  simp only [Bool.or_eq_true, decide_eq_true_eq, List.any_eq_true, not_or, not_exists, not_and, Nat.not_le, Nat.not_lt] at hno
  obtain ⟨⟨⟨hl, hn⟩, hn16⟩, hms⟩ := hno
  exact h ⟨hl, Nat.pos_of_ne_zero hn, hn16, fun m hm => hms m hm⟩

theorem listAddChecks_in_range {l n : Nat} {ms : List Nat} {s : State} (h : l < 64 ∧ 1 ≤ n ∧ n ≤ 16 ∧ ∀ m ∈ ms, m < 4096) :
    firstRefusal (listAddChecks l n ms s) = if s.eng.listInUse l = true then some .busy else none := by
  obtain ⟨hl, hn, hn16, hms⟩ := h
  refine firstRefusal_pass ?_
  have hany : ms.any (fun m => decide (4096 ≤ m)) = false := by
    rw [Bool.eq_false_iff, Ne, List.any_eq_true]
    rintro ⟨m, hm, hle⟩
    exact absurd (hms m hm) (by simpa using hle)
  rw [hany]
  simp [hl, hn16, Nat.ne_of_gt hn]

/-- The part after the members of a LIST ADD, its counts and its answer's data. -/
def Engine.adding (l : Nat) (ms : List Nat) (e : Engine) : AddCounts × Engine := e.addMembers l ms { added := 0, present := 0, left := 0 }

def addData (l : Nat) (d : AddCounts) (g : Engine) : List Byte :=
  be1 d.added ++ be1 d.present ++ be1 d.left ++ be2 (g.list l).count ++ be2 (8192 - g.tab.members.length)

theorem exec_listAdd {s : State} (h : s.accepting) (tag : Byte) {ps : List Byte} (hl : ps.length = 34)
    (hpass : firstRefusal (listAddChecks (num1 ps 0) (num1 ps 1) (addNumbers ps (num1 ps 1)) s.taken) = none) :
    let d := (s.taken.eng.adding (num1 ps 0) (addNumbers ps (num1 ps 1))).1
    let g := (s.taken.eng.adding (num1 ps 0) (addNumbers ps (num1 ps 1))).2
    exec (.listAdd tag ps) s = .next { s with eng := g.concluded tag (if d.left = 0 then .done else .full) (addData (num1 ps 0) d g) } := by
  intro d g
  have hwork : Engine.Within [.lists, .members, .writes] s.taken.eng g := addMembers_within _ _ _ _
  refine congrArg _ ((order_concluded h (o := .listAdd) rfl tag (congrArg (· + 2) hl) (checked_passes s.taken _ hpass) hwork ?_ ?_).trans rfl)
  · simp
  · exact (hwork.same s .pool (by simp)).2.1

theorem listMembers_concluded (e : Engine) (tag : Byte) (r : Result) (d : List Byte) (k : Nat) :
    (e.concluded tag r d).listMembers k = e.listMembers k := listMembers_congr (e := e) (g := e.concluded tag r d) rfl rfl k

/-- Settles O41: the numbers one by one, over a member area shared out among the lists. -/
theorem listAddCountsWhatItAdds : Obligations.ListAddCountsWhatItAdds := by
  intro s tag ps h hl l n ms legal room
  have hrefuse : ∀ {r : Result}, firstRefusal (listAddChecks l n ms s.taken) = some r → exec (.listAdd tag ps) s = .next (s.withAnswer tag r []) :=
    fun k => congrArg _ (order_answered h (o := .listAdd) rfl tag (congrArg (· + 2) hl) (checked_refused k))
  refine ⟨fun hbad => hrefuse (listAddChecks_range hbad), fun hok hu => hrefuse ((listAddChecks_in_range hok).trans (if_pos hu)), fun hok hu => ?_⟩
  have hpass : firstRefusal (listAddChecks l n ms s.taken) = none := (listAddChecks_in_range hok).trans (if_neg (Bool.eq_false_iff.1 hu))
  have hmembers : ∀ k, s.taken.eng.listMembers k = s.eng.listMembers k := fun k =>
    listMembers_congr (e := s.eng) (g := s.taken.eng) rfl rfl k
  have hms : ms.length = n := by simp [ms]
  have hfirst : ∃ rest, ms = num2 ps 2 :: rest := by
    obtain ⟨k, hk⟩ := Nat.exists_eq_add_of_le' hok.2.1
    exact ⟨_, by simp only [ms, show n = k + 1 from hk, List.range_succ_eq_map, List.map_cons]; rfl⟩
  have hadds := addMembers_addsUp l ms { added := 0, present := 0, left := 0 } s.taken.eng rfl
  obtain ⟨hsum, hleft, -, hcount, hothers⟩ := hadds
  refine ⟨_, (s.taken.eng.adding l ms).1.added, (s.taken.eng.adding l ms).1.present, (s.taken.eng.adding l ms).1.left, exec_listAdd h tag hl hpass,
    ?_, hcount, hothers, concluded_answered _ _ _ s _, fun hall => ?_, fun hnew hroom => ?_, fun hnew hroom => ?_, fun hmem => ?_, ?_⟩
  · exact hsum.trans (by rw [hms]; exact Nat.zero_add n)
  · have := addMembers_all_present l ms { added := 0, present := 0, left := 0 } s.taken.eng (fun m hm => hmembers l ▸ hall m hm)
    rw [Engine.adding, this, hms]
    exact Nat.zero_add n
  · obtain ⟨rest, hrest⟩ := hfirst
    rw [Engine.adding, hrest, addMembers_added (e := s.taken.eng) (hmembers l ▸ hnew) hroom]
    exact (addMembers_addsUp l rest { added := 1, present := 0, left := 0 } _ rfl).added_le
  · obtain ⟨rest, hrest⟩ := hfirst
    have hl0 : s.taken.eng.adding l ms = ({ added := 0, present := 0, left := ms.length }, s.taken.eng) := by
      rw [Engine.adding, hrest, addMembers_left (e := s.taken.eng) (hmembers l ▸ hnew) hroom]
    refine ⟨by rw [hl0]; exact hms, ?_⟩
    show (s.taken.eng.adding l ms).2.tab = _
    rw [hl0]
    rfl
  · have hwhole := (membered_iff s.taken.eng).1 (membered_congr (e := s.eng) Iff.rfl rfl rfl hmem) (.inl (accepting_service (s := s) h))
    obtain ⟨⟨hlen, happ⟩, hoth⟩ := addMembers_members l ms { added := 0, present := 0, left := 0 } s.taken.eng rfl hwhole
    rw [hmembers l] at hlen happ
    have hdata := listMembers_concluded (s.taken.eng.adding l ms).2 tag (if (s.taken.eng.adding l ms).1.left = 0 then .done else .full)
      (addData l (s.taken.eng.adding l ms).1 (s.taken.eng.adding l ms).2)
    rw [← hms]
    exact ⟨hlen, (hdata l).trans happ, fun k hk => (hdata k).trans ((hoth k hk).trans (hmembers k))⟩
  · exact Engine.Within.keepsBut_of (concluded_within (accepting_handling h) (by simp) (addMembers_within l ms _ s.taken.eng) tag _ _) rfl
      (.inr rfl) (.inr rfl) rfl

end Sys2Proof.Machine

namespace Sys2Proof.Machine

/-! Proofs about section 6: LOAD MAILBOX and READ MAILBOX. -/

/-! ## The fields of LOAD MAILBOX (R119) -/

/-- A lamp address of three bytes lies in range. -/
def lampInRange (ps : List Byte) (i : Nat) : Prop := num1 ps i ≤ 15 ∧ num1 ps (i + 1) ≤ 31 ∧ num1 ps (i + 2) ≤ 31

def lampNumber (ps : List Byte) (i : Nat) : Nat := num1 ps i * 1024 + num1 ps (i + 1) * 32 + num1 ps (i + 2)

theorem lampAt_some {ps : List Byte} {i : Nat} (h : lampInRange ps i) : lampAt ps i = some (lampNumber ps i) := by
  obtain ⟨h0, h1, h2⟩ := h
  exact if_pos (by simp [h0, h1, h2])

theorem lampAt_none {ps : List Byte} {i : Nat} (h : ¬ lampInRange ps i) : lampAt ps i = none := by
  refine if_neg fun k => h ?_
  simpa [lampInRange, and_assoc] using k

theorem lampsAt_some {ps : List Byte} : ∀ (n i : Nat), (∀ k, k < n → lampInRange ps (i + 3 * k)) →
    lampsAt ps i n = some ((List.range n).map (fun k => lampNumber ps (i + 3 * k)))
  | 0, _, _ => rfl
  | n + 1, i, h => by
    have hrest := lampsAt_some n (i + 3) (fun k hk => (show i + 3 + 3 * k = i + 3 * (k + 1) by omega) ▸ h (k + 1) (by omega))
    rw [lampsAt, lampAt_some (i := i) (h 0 (Nat.succ_pos n)), hrest, List.range_succ_eq_map, List.map_cons, List.map_map]
    dsimp only
    rw [Option.some_inj, List.cons.injEq]
    refine ⟨rfl, List.map_congr_left fun k _ => ?_⟩
    rw [Function.comp_apply, show i + 3 * k.succ = i + 3 + 3 * k by omega]

theorem lampsAt_none {ps : List Byte} : ∀ (n i k : Nat), k < n → ¬ lampInRange ps (i + 3 * k) → lampsAt ps i n = none
  | n + 1, i, 0, _, h => by rw [lampsAt, lampAt_none (i := i) h]
  | n + 1, i, k + 1, hk, h => by
    rw [lampsAt, lampsAt_none n (i + 3) k (by omega) (by rwa [show i + 3 + 3 * k = i + 3 * (k + 1) by omega])]
    cases lampAt ps i <;> rfl

/-- The bytes of the lamp addresses of a LOAD MAILBOX. -/
theorem lampPlaces (i : Nat) : 11 + 3 * i + 1 = 12 + 3 * i ∧ 11 + 3 * i + 2 = 13 + 3 * i := by
  omega

theorem lampInRange_iff (ps : List Byte) (i : Nat) :
    lampInRange ps (11 + 3 * i) ↔ num1 ps (11 + 3 * i) ≤ 15 ∧ num1 ps (12 + 3 * i) ≤ 31 ∧ num1 ps (13 + 3 * i) ≤ 31 := by
  rw [lampInRange, (lampPlaces i).1, (lampPlaces i).2]

theorem lampNumber_eq (ps : List Byte) (i : Nat) :
    lampNumber ps (11 + 3 * i) = num1 ps (11 + 3 * i) * 1024 + num1 ps (12 + 3 * i) * 32 + num1 ps (13 + 3 * i) := by
  rw [lampNumber, (lampPlaces i).1, (lampPlaces i).2]

theorem greeting_ofCode_code (g : GreetingKind) : GreetingKind.ofCode g.code = some g := by
  cases g <;> rfl

/-- The greeting that a code names has that code (11.8). -/
theorem code_of_ofCode {n : Nat} {g : GreetingKind} (h : GreetingKind.ofCode n = some g) : g.code = n := by
  unfold GreetingKind.ofCode at h
  split at h <;> cases h <;> rfl

theorem greeting_ofCode {n : Nat} (h : n ≤ 3) : ∃ g, GreetingKind.ofCode n = some g ∧ g.code = n := by
  match n, h with
  | 0, _ => exact ⟨_, rfl, rfl⟩
  | 1, _ => exact ⟨_, rfl, rfl⟩
  | 2, _ => exact ⟨_, rfl, rfl⟩
  | 3, _ => exact ⟨_, rfl, rfl⟩

theorem greeting_eq_name {g : GreetingKind} : g = .name ↔ 2 < g.code := by
  cases g <;> decide

/-- The lamp list of a LOAD MAILBOX. -/
def givenLamps (ps : List Byte) : List Nat := (List.range (num1 ps 10)).map (fun i => lampNumber ps (11 + 3 * i))

/-- Every field of a LOAD MAILBOX has a meaning (R119). -/
structure BoxLegal (ps : List Byte) : Prop where
  extension : num3 ps 2 ≤ 9999999
  cls : num1 ps 5 ≤ 15
  enabled : num1 ps 6 ≤ 1
  accepts : num1 ps 7 ≤ 1
  lampsOn : num1 ps 8 ≤ 1
  active : num1 ps 9 ≤ 2
  count : num1 ps 10 ≤ 4
  lamps : ∀ i, i < num1 ps 10 → lampInRange ps (11 + 3 * i)
  once : (givenLamps ps).Nodup

theorem readBoxFields_some {ps : List Byte} (h : BoxLegal ps) : ∃ f, readBoxFields ps = some f ∧ f.extension = num3 ps 2 ∧ f.cls = num1 ps 5 ∧
    f.enabled = decide (num1 ps 6 = 1) ∧ f.accepts = decide (num1 ps 7 = 1) ∧ f.lampsOn = decide (num1 ps 8 = 1) ∧ f.active.code = num1 ps 9 ∧
    f.lamps = givenLamps ps := by
  obtain ⟨g, hg, hcode⟩ := greeting_ofCode (h.active.trans (by decide))
  have hname : g ≠ .name := fun k => by
    have hlt := greeting_eq_name.1 k
    have hle := h.active
    omega
  refine ⟨{ extension := num3 ps 2, cls := num1 ps 5, enabled := decide (num1 ps 6 = 1), accepts := decide (num1 ps 7 = 1),
            lampsOn := decide (num1 ps 8 = 1), active := g, lamps := givenLamps ps }, ?_, rfl, rfl, rfl, rfl, rfl, hcode, rfl⟩
  unfold readBoxFields
  rw [yesNo_eq, if_pos h.enabled, yesNo_eq, if_pos h.accepts, yesNo_eq, if_pos h.lampsOn, hg, lampsAt_some _ _ h.lamps]
  dsimp only
  rw [if_neg]
  · rfl
  · have hext : ¬ Config.extensionMax < num3 ps 2 := Nat.not_lt.2 h.extension
    have honce : ((List.range (num1 ps 10)).map (fun i => lampNumber ps (11 + 3 * i))).Nodup := h.once
    simp [hext, h.cls, hname, h.count, honce]

/-- Fields that are read are legal ones. -/
theorem boxLegal_of_read {ps : List Byte} {f : BoxFields} (h : readBoxFields ps = some f) : BoxLegal ps := by
  unfold readBoxFields at h
  split at h
  case h_2 => cases h
  case h_1 en ac lo g lamps hen hac hlo hg hlamps =>
    split at h
    case isTrue => cases h
    case isFalse hok =>
      simp only [Bool.or_eq_true, decide_eq_true_eq, Bool.not_eq_true', decide_eq_false_iff_not, not_or, Nat.not_lt, Decidable.not_not] at hok
      obtain ⟨⟨⟨⟨hext, hcls⟩, hname⟩, hcount⟩, honce⟩ := hok
      have hyes : ∀ {i b}, yesNo ps i = some b → num1 ps i ≤ 1 := fun {i b} k => by
        rw [yesNo_eq] at k
        by_contra hgt
        rw [if_neg hgt] at k
        cases k
      have hcode := code_of_ofCode hg
      have hrange : ∀ i, i < num1 ps 10 → lampInRange ps (11 + 3 * i) := fun i hi => by
        by_contra hno
        rw [lampsAt_none _ _ i hi hno] at hlamps
        cases hlamps
      have hgiven : givenLamps ps = lamps := Option.some.inj ((lampsAt_some _ _ hrange).symm.trans hlamps)
      refine ⟨hext, hcls, hyes hen, hyes hac, hyes hlo, ?_, hcount, hrange, hgiven ▸ honce⟩
      have := mt greeting_eq_name.2 hname
      omega

theorem readBoxFields_none {ps : List Byte} (h : ¬ BoxLegal ps) : readBoxFields ps = none := by
  cases hr : readBoxFields ps with
  | none => rfl
  | some f => exact absurd (boxLegal_of_read hr) h

/-! ## LOAD MAILBOX (R120) -/

theorem loadMailbox_within (m : Nat) (f : BoxFields) (e : Engine) : Engine.Within [.mailboxes, .lmp, .writes] e (e.loadMailbox m f) := by
  have hput : Engine.Within [.mailboxes, .writes] e (e.put (.boxFields m f)) := (put_within e _).mono rfl
  exact ((hput.mono rfl).step (modLmp_within _ _) rfl).step (handInputs_within _ _) rfl

theorem loadMailbox_tab (m : Nat) (f : BoxFields) (e : Engine) : (e.loadMailbox m f).tab = (e.put (.boxFields m f)).tab ∧
    (e.loadMailbox m f).asked = e.asked ++ [.boxFields m f] ∧ (e.loadMailbox m f).catQueue = e.catQueue := by
  unfold Engine.loadMailbox
  extract_lets old
  generalize hg : (e.put (.boxFields m f)).modLmp (Lmp.listChange m old f.lamps) = g
  have hfields : g.tab = (e.put (.boxFields m f)).tab ∧ g.asked = e.asked ++ [.boxFields m f] ∧ g.catQueue = e.catQueue := hg ▸ ⟨rfl, rfl, rfl⟩
  have hhand : (g.handInputs m).tab = g.tab ∧ (g.handInputs m).asked = g.asked ∧ (g.handInputs m).catQueue = g.catQueue := by
    unfold Engine.handInputs
    split
    · exact ⟨rfl, rfl, rfl⟩
    · split
      · exact ⟨rfl, rfl, rfl⟩
      · dsimp only
        split <;> exact ⟨rfl, rfl, rfl⟩
  obtain ⟨ht, ha, hc⟩ := hfields
  obtain ⟨kt, ka, kc⟩ := hhand
  exact ⟨kt.trans ht, ka.trans ha, kc.trans hc⟩

/-- The lamp unit takes the change of the lamp list, and then the mailbox's lamp inputs. -/
theorem loadMailbox_lmp (m : Nat) (f : BoxFields) {e g : Engine} (k : (e.loadMailbox m f).SameInputs g) : g.lmp =
    (({ g with lmp := e.lmp.listChange m (((e.mailbox m).map (·.fields.lamps)).getD []) f.lamps } : Engine).handInputs m).lmp := by
  have htab := (loadMailbox_tab m f e).1
  have hwork := loadMailbox_within m f e
  obtain ⟨km, kc, kn, ks, kl⟩ := k
  have hback : ((e.put (.boxFields m f)).modLmp (Lmp.listChange m (((e.mailbox m).map (·.fields.lamps)).getD []) f.lamps)).SameInputs
      { g with lmp := e.lmp.listChange m (((e.mailbox m).map (·.fields.lamps)).getD []) f.lamps } :=
    ⟨km.trans (congrArg Catalogue.mailboxes htab), kc.trans (congrArg Catalogue.classes htab), kn.trans (hwork.same State.reset .counters (by simp)),
      ks.trans (hwork.same State.reset .service (by simp)).1, rfl⟩
  exact kl.trans (hback.handInputs m).lamps.symm

theorem orderLoadMailbox_bad {ps : List Byte} (s : State) (h : ¬ (num2 ps 0 < 4096 ∧ BoxLegal ps)) :
    orderLoadMailbox ps s = { result := .badField, data := [], state := s, waits := false } := by
  by_cases hm : num2 ps 0 < 4096
  · refine (checked_passes s _ (firstRefusal_pass (c := boxRange (num2 ps 0)) (cs := []) ?_)).trans ?_
    · exact decide_eq_false (Nat.not_le.2 hm)
    · rw [readBoxFields_none (fun k => h ⟨hm, k⟩)]
      rfl
  · exact checked_refused (firstRefusal_stop (c := boxRange (num2 ps 0)) (decide_eq_true (Nat.not_lt.1 hm)))

theorem orderLoadMailbox_done {ps : List Byte} (s : State) (hm : num2 ps 0 < 4096) {f : BoxFields} (hf : readBoxFields ps = some f) :
    orderLoadMailbox ps s = { result := .done, data := [], state := { s with eng := s.eng.loadMailbox (num2 ps 0) f }, waits := false } := by
  refine (checked_passes s _ (firstRefusal_pass (c := boxRange (num2 ps 0)) (cs := []) (decide_eq_false (Nat.not_le.2 hm)))).trans ?_
  rw [hf]
  rfl

theorem exec_loadMailbox {s : State} (h : s.accepting) (tag : Byte) {ps : List Byte} (hl : ps.length = 23) (hm : num2 ps 0 < 4096) {f : BoxFields}
    (hf : readBoxFields ps = some f) : exec (.loadMailbox tag ps) s =
      .next { s with eng := (s.taken.eng.loadMailbox (num2 ps 0) f).concluded tag .done [] } := by
  have hwork := loadMailbox_within (num2 ps 0) f s.taken.eng
  refine congrArg _ ((order_concluded h (o := .loadMailbox) rfl tag (congrArg (· + 2) hl) (orderLoadMailbox_done s.taken hm hf) hwork ?_ ?_).trans rfl)
  · simp
  · exact (hwork.same s .pool (by simp)).2.1

/-! ## READ MAILBOX (R121) -/

theorem orderReadMailbox_eq (ps : List Byte) (s : State) : orderReadMailbox ps s =
    if 4096 ≤ num2 ps 0 then { result := .badField, data := [], state := s, waits := false }
    else match s.eng.mailbox (num2 ps 0) with
      | none => { result := .noSuch, data := [], state := s, waits := false }
      | some b => { result := .done, data := boxBytes b (s.eng.counter (num2 ps 0)) (s.eng.boxFull (num2 ps 0)), state := s, waits := false } := by
  by_cases hm : 4096 ≤ num2 ps 0
  · rw [if_pos hm]
    exact checked_refused (firstRefusal_stop (c := boxRange (num2 ps 0)) (decide_eq_true hm))
  · rw [if_neg hm]
    refine (checked_passes s _ (firstRefusal_pass (c := boxRange (num2 ps 0)) (cs := []) (decide_eq_false hm))).trans ?_
    cases s.eng.mailbox (num2 ps 0) <;> rfl

/-- Settles O32: the fields read byte by byte, one catalogue write, and the lamp unit's two steps. -/
theorem loadMailboxStoresItsFields : Obligations.LoadMailboxStoresItsFields := by
  intro s tag ps h m lamps legal
  have hgiven : givenLamps ps = lamps := List.map_congr_left fun i _ => lampNumber_eq ps i
  have hlegal : legal ↔ (m < 4096 ∧ BoxLegal ps) := by
    constructor
    · rintro ⟨hm, h1, h2, h3, h4, h5, h6, h7, h8, h9⟩
      exact ⟨hm, h1, h2, h3, h4, h5, h6, h7, fun i hi => (lampInRange_iff ps i).2 (h8 i hi), hgiven ▸ h9⟩
    · rintro ⟨hm, h1, h2, h3, h4, h5, h6, h7, h8, h9⟩
      exact ⟨hm, h1, h2, h3, h4, h5, h6, h7, fun i hi => (lampInRange_iff ps i).1 (h8 i hi), hgiven ▸ h9⟩
  have hread : ∀ {r : Result} {d : List Byte}, ps.length = 2 →
      orderReadMailbox ps s.taken = { result := r, data := d, state := s.taken, waits := false } →
      exec (.readMailbox tag ps) s = .next (s.withAnswer tag r d) :=
    fun hl k => congrArg _ (order_answered h (o := .readMailbox) rfl tag (congrArg (· + 2) hl) k)
  refine ⟨fun hl hbad => ?_, fun hl hok => ?_, fun hl hm => ?_, fun hl hm hb => ?_, fun hl hm b hb => ?_⟩
  · exact congrArg _ (order_answered h (o := .loadMailbox) rfl tag (congrArg (· + 2) hl) (orderLoadMailbox_bad s.taken (fun k => hbad (hlegal.2 k))))
  · obtain ⟨hm, hbox⟩ := hlegal.1 hok
    obtain ⟨f, hf, hext, hcls, hen, hac, hlo, hactive, hlamps⟩ := readBoxFields_some hbox
    rw [hgiven] at hlamps
    obtain ⟨htab, hasked, hqueue⟩ := loadMailbox_tab m f s.taken.eng
    have hinputs := concluded_sameInputs tag .done [] (s.taken.eng.loadMailbox m f)
    refine ⟨_, f, exec_loadMailbox h tag hl hm hf, fun n => ?_, hext, hcls, hen, hac, hlo, hactive, hlamps, ?_, ?_, concluded_answered _ _ _ s _, ?_⟩
    · show Tab.find? (s.taken.eng.loadMailbox m f).tab.mailboxes n = _
      rw [htab]
      exact mailbox_putBoxFields s.taken.eng m f n
    · exact (concluded_catQueue (hasked.trans (congrArg (· ++ _) (accepting_asked (s := s) h))) (by simp) _ _ _).trans (congrArg (· ++ _) hqueue)
    · rw [← hlamps]
      exact loadMailbox_lmp (e := s.taken.eng) m f hinputs
    · exact Engine.Within.keepsBut_of (concluded_within (accepting_handling h) (by simp) (loadMailbox_within m f s.taken.eng) tag .done []) rfl
        (.inr rfl) (.inr rfl) rfl
  · exact hread hl ((orderReadMailbox_eq ps s.taken).trans (if_pos hm))
  · refine hread hl ((orderReadMailbox_eq ps s.taken).trans ((if_neg (Nat.not_le.2 hm)).trans ?_))
    rw [show s.taken.eng.mailbox (num2 ps 0) = none from hb]
  · refine hread hl ((orderReadMailbox_eq ps s.taken).trans ((if_neg (Nat.not_le.2 hm)).trans ?_))
    rw [show s.taken.eng.mailbox (num2 ps 0) = some b from hb]
    rfl

end Sys2Proof.Machine

namespace Sys2Proof.Machine

/-! Proofs about section 9: the lamp address table, the change queue, and the lamp orders. -/

/-! ## What is done at an address of the lamp table -/

/-- Examining an address finds it in service, last sent another pattern, and not queued (R171). -/
def LampEntry.joins (x : LampEntry) : Bool := x.inService && decide (x.lastSent ≠ some x.pattern) && !x.queued

theorem LampEntry.queued_self {x : LampEntry} (h : x.queued = true) : { x with queued := true } = x := by
  obtain ⟨_, _, _, _, _, _, _, _, _, _, _⟩ := x
  simp only at h
  rw [h]

/-- An operation at an address changes the address's entry in one way, appends the address to the change queue where its entry says so, and leaves the rest
of the lamp unit. -/
structure Lmp.Acts (op : Nat → Lmp → Lmp) (change : LampEntry → LampEntry) (queues : LampEntry → Bool) : Prop where
  entry : ∀ a l b, (op a l).entry b = if b = a then change (l.entry a) else l.entry b
  rest : ∀ a l, op a l = { l with table := (op a l).table, changeQueue := l.changeQueue ++ if queues (l.entry a) = true then [a] else [] }

namespace Lmp

theorem acts_modEntry (f : LampEntry → LampEntry) : Acts (fun a l => l.modEntry a f) f (fun _ => false) where
  entry a l b := lampEntry_modEntry a f l b
  rest a l := by
    rw [if_neg Bool.false_ne_true, List.append_nil]
    rfl

/-- An address is queued once (R171). -/
theorem acts_enqueue : Acts (fun a l => l.enqueue a) (fun x => { x with queued := true }) (fun x => !x.queued) where
  entry a l b := by
    unfold enqueue
    split
    case isTrue hq =>
      split
      case isTrue hb => rw [hb, LampEntry.queued_self hq]
      case isFalse => rfl
    case isFalse hq => exact lampEntry_modEntry a (fun x => { x with queued := true }) l b
  rest a l := by
    unfold enqueue
    split
    case isTrue hq => simp [hq]
    case isFalse hq => simp [hq, modEntry]

theorem acts_examine : Acts (fun a l => l.examine a) (fun x => { x with queued := x.queued || x.joins }) LampEntry.joins where
  entry a l b := by
    unfold examine LampEntry.joins
    dsimp only
    cases hx : (l.entry a).inService && decide ((l.entry a).lastSent ≠ some (l.entry a).pattern)
    case true =>
      rw [if_pos rfl, acts_enqueue.entry, Bool.true_and]
      cases (l.entry a).queued <;> rfl
    case false =>
      rw [if_neg Bool.false_ne_true, Bool.false_and, Bool.or_false]
      split
      case isTrue hb => rw [hb]
      case isFalse => rfl
  rest a l := by
    unfold examine LampEntry.joins
    dsimp only
    cases hx : (l.entry a).inService && decide ((l.entry a).lastSent ≠ some (l.entry a).pattern)
    case true =>
      rw [if_pos rfl, Bool.true_and]
      exact acts_enqueue.rest a l
    case false =>
      rw [if_neg Bool.false_ne_true, Bool.false_and, if_neg Bool.false_ne_true, List.append_nil]

/-- A change of the entry alone, and then another operation. -/
theorem Acts.after {op : Nat → Lmp → Lmp} {change : LampEntry → LampEntry} {queues : LampEntry → Bool} (h : Acts op change queues)
    (f : LampEntry → LampEntry) : Acts (fun a l => op a (l.modEntry a f)) (fun x => change (f x)) (fun x => queues (f x)) where
  entry a l b := by
    rw [h.entry, lampEntry_modEntry, if_pos rfl, lampEntry_modEntry]
    split <;> rfl
  rest a l := by
    have hrest := h.rest a (l.modEntry a f)
    rw [lampEntry_modEntry, if_pos rfl] at hrest
    exact hrest

end Lmp

/-! ## CLEAR FAULT, LAMP STATUS and the retry (R180, R182, R183) -/

theorem lampAt_three {ps : List Byte} : (num1 ps 0 ≤ 15 ∧ num1 ps 1 ≤ 31 ∧ num1 ps 2 ≤ 31) ↔ lampInRange ps 0 := Iff.rfl

theorem lmp_orders_refused {ps : List Byte} (s : State) (h : ¬ lampInRange ps 0) :
    orderClearFault ps s = { result := .badField, data := [], state := s, waits := false } ∧
      orderLampStatus ps s = { result := .badField, data := [], state := s, waits := false } := by
  unfold orderClearFault orderLampStatus
  rw [lampAt_none h]
  exact ⟨rfl, rfl⟩

theorem orderClearFault_eq {ps : List Byte} (s : State) (h : lampInRange ps 0) : orderClearFault ps s =
    Reply.done (be1 (s.eng.lamp (lampNumber ps 0)).fault.code) { s with eng := { s.eng with lmp := s.eng.lmp.clearFault (lampNumber ps 0) } } := by
  unfold orderClearFault
  rw [lampAt_some h]
  rfl

theorem orderLampStatus_eq {ps : List Byte} (s : State) (h : lampInRange ps 0) :
    orderLampStatus ps s = Reply.done (s.eng.lmp.statusBytes (lampNumber ps 0)) s := by
  unfold orderLampStatus
  rw [lampAt_some h]

/-- A fault that is neither LATCHED nor in RETRY_WAIT, or of an address without a reference, is not cleared. -/
theorem clearFault_none {a : Nat} {l : Lmp} (h : (l.entry a).refs = 0 ∨ (l.entry a).fault = .clear ∨ (l.entry a).fault = .suspect) : l.clearFault a = l := by
  unfold Lmp.clearFault
  dsimp only
  rcases h with h | h | h <;> simp [h]

theorem clearFault_some {a : Nat} {l : Lmp} (hr : 0 < (l.entry a).refs) (hf : (l.entry a).fault = .latched ∨ (l.entry a).fault = .retryWait) :
    l.clearFault a = (l.modEntry a (fun x => { x with fault := .clear, kind := none, confirm := 0, retryDue := none })).enqueue a := by
  unfold Lmp.clearFault
  dsimp only
  rcases hf with hf | hf <;> simp [hr, hf]

/-- The queue behind an address that joins it unless it stands there. -/
theorem queue_unless (x : LampEntry) (a : Nat) (q : List Nat) :
    q ++ (if (!x.queued) = true then [a] else []) = if x.queued = true then q else q ++ [a] := by
  cases x.queued <;> simp

/-- An operation that changes an entry, its place in the queue apart, and queues the address. -/
theorem enqueue_changed (f : LampEntry → LampEntry) (hf : ∀ x, (f x).queued = x.queued) (a : Nat) (l : Lmp) :
    (∀ b, ((l.modEntry a f).enqueue a).entry b = if b = a then { f (l.entry a) with queued := true } else l.entry b) ∧
      (l.modEntry a f).enqueue a = { l with table := ((l.modEntry a f).enqueue a).table, changeQueue := (
        if (l.entry a).queued = true then l.changeQueue else l.changeQueue ++ [a]) } := by
  refine ⟨fun b => (Lmp.acts_enqueue.after f).entry a l b, ?_⟩
  have hrest := (Lmp.acts_enqueue.after f).rest a l
  rw [hf, queue_unless] at hrest
  exact hrest

theorem exec_clearFault {s : State} (h : s.accepting) (tag : Byte) {ps : List Byte} (hl : ps.length = 3) (hr : lampInRange ps 0) :
    exec (.clearFault tag ps) s = .next { s with eng := ({ s.taken.eng with lmp := s.eng.lmp.clearFault (lampNumber ps 0) } : Engine).concluded tag .done (
      be1 (s.eng.lamp (lampNumber ps 0)).fault.code) } := by
  have hwork : Engine.Within [.lmp] s.taken.eng { s.taken.eng with lmp := s.eng.lmp.clearFault (lampNumber ps 0) } := lmp_within _ _
  refine congrArg _ ((order_concluded h (o := .clearFault) rfl tag (congrArg (· + 2) hl) (orderClearFault_eq s.taken hr) hwork ?_ rfl).trans rfl)
  simp

theorem concluded_unchanged {s : State} (h : s.accepting) (tag : Byte) (r : Result) (d : List Byte) :
    ({ s with eng := s.taken.eng.concluded tag r d } : State) = s.withAnswer tag r d := by
  have ha := accepting_asked h
  have hh := accepting_handling h
  simp [State.withAnswer, Engine.concluded, State.taken, State.onEng, Engine.modMgc, ha, hh]

/-- An answer placed over work that asks for no catalogue write. -/
theorem concluded_within_still {s : State} (hh : s.eng.mgc.handling = false) {ps : List Part} (hps : Part.channel ∉ ps ∧ Part.writes ∉ ps) {e : Engine}
    (k : Engine.Within ps s.taken.eng e) (ha : s.eng.asked = []) (tag : Byte) (r : Result) (d : List Byte) :
    Engine.Within (.outbox :: ps) s.eng (e.concluded tag r d) := fun s0 => ⟨rfl, fun p hp => by
  have hwrites : e.catQueue = s.eng.catQueue ∧ e.asked = s.eng.asked := k.same s .writes hps.2
  have hpp : p ∉ ps := fun hmem => hp (List.mem_cons_of_mem _ hmem)
  by_cases hw : p = .writes
  · subst hw
    exact ⟨(if_pos (hwrites.2.trans ha)).trans hwrites.1, ha.symm⟩
  · refine (concluded_within hh hps.1 k tag r d).same s0 p ?_
    simp only [List.mem_cons, not_or] at hp ⊢
    exact ⟨hp.1, hw, hpp⟩⟩

theorem retryDue_iff (a : Nat) (e : Engine) : e.retryDue a = true ↔
    e.ssc.service ≠ .frozen ∧ (e.lamp a).fault = .retryWait ∧ ∃ d, (e.lamp a).retryDue = some d ∧ d ≤ e.lmp.seconds := by
  unfold Engine.retryDue
  simp [and_assoc, Option.any_eq_true]

theorem exec_retryDue_not {s : State} (h : s.calm) {a : Nat} (hd : s.eng.retryDue a = false) : exec (.retryDue a) s = .next s := by
  show Host.Outcome.next (if s.eng.retryDue a = true then s.onEng (fun e => e.modLmp (Lmp.retry a)) else s).finish = _
  rw [if_neg (Bool.eq_false_iff.1 hd), finish_rest h.1 (.inl h.2)]

theorem exec_retryDue {s : State} (h : s.calm) {a : Nat} (hd : s.eng.retryDue a = true) :
    exec (.retryDue a) s = .next { s with eng := { s.eng with lmp := s.eng.lmp.retry a } } := by
  show Host.Outcome.next (if s.eng.retryDue a = true then s.onEng (fun e => e.modLmp (Lmp.retry a)) else s).finish = _
  rw [if_pos hd, finish_rest (u := s.onEng (fun e => e.modLmp (Lmp.retry a))) h.1 (.inl h.2)]
  rfl

/-- Settles O46: the orders by the address they name, and the retry by whether it is due. -/
theorem lampOrdersAndRetries : Obligations.LampOrdersAndRetries := by
  intro s tag ps a x l legal named queue
  refine ⟨fun h hl hno => ?_, fun h hl hn => ?_, fun h hl hn hno => ?_, fun h hl hn hr hf => ?_, fun h hno => ?_, fun h hs hf d hd hle => ?_⟩
  · obtain ⟨hclear, hstatus⟩ := lmp_orders_refused s.taken (mt lampAt_three.2 hno)
    exact ⟨congrArg _ (order_answered h (o := .clearFault) rfl tag (congrArg (· + 2) hl) hclear),
      congrArg _ (order_answered h (o := .lampStatus) rfl tag (congrArg (· + 2) hl) hstatus)⟩
  · obtain ⟨hr, ha⟩ := hn
    have hstatus := orderLampStatus_eq s.taken hr
    rw [show lampNumber ps 0 = a from ha.symm] at hstatus
    exact congrArg _ (order_answered h (o := .lampStatus) rfl tag (congrArg (· + 2) hl) hstatus)
  · obtain ⟨hr, ha⟩ := hn
    rw [exec_clearFault h tag hl hr, show lampNumber ps 0 = a from ha.symm, clearFault_none hno]
    exact congrArg _ (concluded_unchanged h tag .done _)
  · obtain ⟨hrange, ha⟩ := hn
    have hexec := exec_clearFault h tag hl hrange
    rw [show lampNumber ps 0 = a from ha.symm, clearFault_some hr hf] at hexec
    obtain ⟨hentry, hrest⟩ := enqueue_changed (fun x => { x with fault := .clear, kind := none, confirm := 0, retryDue := none }) (fun _ => rfl) a s.eng.lmp
    refine ⟨_, hexec, hentry, hrest, concluded_answered _ _ _ s _, ?_⟩
    exact Engine.Within.keepsBut_of (concluded_within_still (accepting_handling h) (by simp) (lmp_within s.taken.eng _) (accepting_asked (s := s) h)
      tag .done _) rfl (.inr rfl) (.inr rfl) rfl
  · refine exec_retryDue_not h (Bool.eq_false_iff.2 fun hd => ?_)
    obtain ⟨hs, hf, d, hd, hle⟩ := (retryDue_iff a s.eng).1 hd
    rcases hno with k | k | k
    · exact hs k
    · exact k hf
    · exact absurd hle (Nat.not_le.2 (k d hd))
  · obtain ⟨hentry, hrest⟩ := enqueue_changed (fun x => { x with fault := .suspect, retryDue := none }) (fun _ => rfl) a s.eng.lmp
    exact ⟨_, exec_retryDue h ((retryDue_iff a s.eng).2 ⟨hs, hf, d, hd, hle⟩), hentry, hrest,
      (lmp_within s.eng (s.eng.lmp.retry a)).keepsBut rfl rfl rfl⟩

end Sys2Proof.Machine

namespace Sys2Proof.Tab

variable {α : Type}

theorem pairwise_keys : ∀ {lo : Option Nat} {t : Tab α}, risingFrom lo t = true → (t.map (·.1)).Pairwise (· < ·)
  | _, [], _ => List.Pairwise.nil
  | _, (k, v) :: t, h => by
    obtain ⟨-, ht⟩ := risingFrom_cons.1 h
    refine List.pairwise_cons.2 ⟨fun j hj => ?_, pairwise_keys ht⟩
    obtain ⟨x, hx, rfl⟩ := List.mem_map.1 hj
    exact lt_of_mem_rising ht x hx

theorem risingFrom_set [DecidableEq α] {d : α} {n : Nat} {v : α} {t : Tab α} (h : risingFrom none t = true) : risingFrom none (set d n v t) = true := by
  unfold set
  split
  · exact risingFrom_erase n none t h
  · exact risingFrom_insert n v none t (fun _ hl => absurd hl (by simp)) h

end Sys2Proof.Tab

namespace Sys2Proof.Machine

/-! Proofs about section 9: what a cell position sends. -/

/-! ## The head of the change queue (R172) -/

def LampEntry.unqueued (x : LampEntry) : LampEntry := { x with queued := false }

theorem unqueued_pattern (x : LampEntry) : x.unqueued.pattern = x.pattern := rfl

theorem unqueued_inService (x : LampEntry) : x.unqueued.inService = x.inService := rfl

namespace Lmp

/-- The lamp unit with an address taken off the change queue. -/
def offQueue (a : Nat) (q : List Nat) (l : Lmp) : Lmp := { (l.modEntry a LampEntry.unqueued) with changeQueue := q }

theorem offQueue_entry (a : Nat) (q : List Nat) (l : Lmp) (b : Nat) :
    (l.offQueue a q).entry b = if b = a then (l.entry a).unqueued else l.entry b := lampEntry_modEntry a LampEntry.unqueued l b

theorem offQueue_inService (a : Nat) (q : List Nat) (l : Lmp) (b : Nat) : ((l.offQueue a q).entry b).inService = (l.entry b).inService := by
  rw [offQueue_entry]
  split
  case isTrue hb => rw [hb, unqueued_inService]
  case isFalse => rfl

theorem takeQueued_head {a : Nat} {q : List Nat} {l : Lmp} (h : (l.entry a).inService = true) : takeQueued (a :: q) l = (some a, l.offQueue a q) :=
  if_pos h

theorem takeQueued_skip {a : Nat} {q : List Nat} {l : Lmp} (h : (l.entry a).inService = false) :
    takeQueued (a :: q) l = takeQueued q (l.offQueue a q) := if_neg (Bool.eq_false_iff.1 h)

/-- Taking off the queue changes the table, and of an entry its place in the queue alone. -/
theorem takeQueued_rest : ∀ (q : List Nat) (l : Lmp), (takeQueued q l).2 =
    { l with table := (takeQueued q l).2.table, changeQueue := (takeQueued q l).2.changeQueue }
  | [], _ => rfl
  | a :: q, l => by
    cases h : (l.entry a).inService with
    | true => rw [takeQueued_head h]; rfl
    | false => rw [takeQueued_skip h, takeQueued_rest q (l.offQueue a q)]; rfl

theorem takeQueued_entry : ∀ (q : List Nat) (l : Lmp) (b : Nat),
    (takeQueued q l).2.entry b = l.entry b ∨ (takeQueued q l).2.entry b = (l.entry b).unqueued
  | [], _, _ => .inl rfl
  | a :: q, l, b => by
    have hoff : (l.offQueue a q).entry b = l.entry b ∨ (l.offQueue a q).entry b = (l.entry b).unqueued := by
      rw [offQueue_entry]
      split
      case isTrue hb => exact .inr (by rw [hb])
      case isFalse => exact .inl rfl
    cases h : (l.entry a).inService with
    | true => rw [takeQueued_head h]; exact hoff
    | false =>
      rw [takeQueued_skip h]
      rcases takeQueued_entry q (l.offQueue a q) b with ih | ih <;> rcases hoff with ho | ho
      · exact .inl (ih.trans ho)
      · exact .inr (ih.trans ho)
      · exact .inr (ih.trans (congrArg LampEntry.unqueued ho))
      · exact .inr (ih.trans ((congrArg LampEntry.unqueued ho).trans rfl))

theorem takeQueued_rising : ∀ (q : List Nat) (l : Lmp), Tab.risingFrom none l.table = true → Tab.risingFrom none (takeQueued q l).2.table = true
  | [], _, h => h
  | a :: q, l, h => by
    have hoff : Tab.risingFrom none (l.offQueue a q).table = true := Tab.risingFrom_set h
    cases hs : (l.entry a).inService with
    | true => rw [takeQueued_head hs]; exact hoff
    | false => rw [takeQueued_skip hs]; exact takeQueued_rising q _ hoff

/-- The superframe count has no part in what is taken. -/
theorem takeQueued_superframe (f : Nat) : ∀ (q : List Nat) (l : Lmp),
    takeQueued q { l with superframe := f } = ((takeQueued q l).1, { (takeQueued q l).2 with superframe := f })
  | [], _ => rfl
  | a :: q, l => by
    have hentry : ({ l with superframe := f } : Lmp).entry a = l.entry a := rfl
    cases h : (l.entry a).inService with
    | true => rw [takeQueued_head h, takeQueued_head (hentry ▸ h)]; rfl
    | false => rw [takeQueued_skip h, takeQueued_skip (hentry ▸ h)]; exact takeQueued_superframe f q (l.offQueue a q)

/-- Entries taken off the queue once more are as they were. -/
theorem unqueued_of_mem {c : Nat} {q as : List Nat} {l : Lmp} {b : Nat} :
    (if b ∈ as then ((l.offQueue c q).entry b).unqueued else (l.offQueue c q).entry b) =
      if b ∈ c :: as then (l.entry b).unqueued else l.entry b := by
  rw [offQueue_entry]
  by_cases hc : b = c
  · subst hc
    rw [if_pos rfl, if_pos (List.mem_cons_self)]
    split <;> rfl
  · rw [if_neg hc]
    simp only [List.mem_cons, hc, false_or]

/-- The first address in service is taken, and those before it are dropped (R172). -/
theorem takeQueued_found {a : Nat} {after : List Nat} : ∀ (before : List Nat) (l : Lmp), (∀ b ∈ before, (l.entry b).inService = false) →
    (l.entry a).inService = true → (takeQueued (before ++ a :: after) l).1 = some a ∧
      (takeQueued (before ++ a :: after) l).2.changeQueue = after ∧
      ∀ b, (takeQueued (before ++ a :: after) l).2.entry b = if b ∈ before ++ [a] then (l.entry b).unqueued else l.entry b
  | [], l, _, ha => by
    rw [List.nil_append, takeQueued_head ha]
    refine ⟨rfl, rfl, fun b => (offQueue_entry a after l b).trans ?_⟩
    rw [List.nil_append]
    by_cases hb : b = a
    · rw [if_pos hb, if_pos (List.mem_singleton.2 hb), hb]
    · rw [if_neg hb, if_neg (fun k => hb (List.mem_singleton.1 k))]
  | c :: before, l, hb, ha => by
    rw [List.cons_append, takeQueued_skip (hb c (.head _))]
    obtain ⟨h1, h2, h3⟩ := takeQueued_found (a := a) (after := after) before (l.offQueue c (before ++ a :: after))
      (fun b hm => (offQueue_inService c _ l b).trans (hb b (.tail _ hm))) ((offQueue_inService c _ l a).trans ha)
    exact ⟨h1, h2, fun b => (h3 b).trans unqueued_of_mem⟩

/-- Where no address queued is in service, all are dropped and none is taken. -/
theorem takeQueued_none : ∀ (q : List Nat) (l : Lmp), (∀ b ∈ q, (l.entry b).inService = false) → (takeQueued q l).1 = none ∧
    (takeQueued q l).2.changeQueue = [] ∧ ∀ b, (takeQueued q l).2.entry b = if b ∈ q then (l.entry b).unqueued else l.entry b
  | [], _, _ => ⟨rfl, rfl, fun _ => rfl⟩
  | c :: q, l, hb => by
    rw [takeQueued_skip (hb c (.head _))]
    obtain ⟨h1, h2, h3⟩ := takeQueued_none q (l.offQueue c q) (fun b hm => (offQueue_inService c _ l b).trans (hb b (.tail _ hm)))
    exact ⟨h1, h2, fun b => (h3 b).trans unqueued_of_mem⟩

/-! ## The refresh sweep (R173) -/

/-- The addresses that the sweep may take, rising. -/
def sweepKeys (l : Lmp) : List Nat := (l.table.filter (fun x => x.2.eligible)).map (·.1)

theorem sweepKeys_pairwise {l : Lmp} (h : Tab.risingFrom none l.table = true) : l.sweepKeys.Pairwise (· < ·) :=
  (Tab.pairwise_keys h).sublist (List.filter_sublist.map _)

theorem mem_sweepKeys {l : Lmp} (h : Tab.risingFrom none l.table = true) {a : Nat} : a ∈ l.sweepKeys ↔ (l.entry a).eligible = true := by
  unfold sweepKeys
  simp only [List.mem_map, List.mem_filter]
  constructor
  · rintro ⟨x, ⟨hx, he⟩, rfl⟩
    rw [entry, Tab.get, Tab.find?_of_mem h x hx]
    exact he
  · intro he
    rw [entry, Tab.get] at he
    cases hf : Tab.find? l.table a with
    | none =>
      rw [hf] at he
      cases he
    | some x =>
      rw [hf] at he
      exact ⟨(a, x), ⟨Tab.mem_of_find? hf, he⟩, rfl⟩

theorem sweepNext_eq (l : Lmp) : l.sweepNext = (l.sweepKeys.find? (fun a => decide (l.sweepPointer < a))).or l.sweepKeys.head? := rfl

theorem sweepNext_none {l : Lmp} (h : Tab.risingFrom none l.table = true) (hn : l.sweepNext = none) (b : Nat) : (l.entry b).eligible = false := by
  rw [sweepNext_eq, Option.or_eq_none_iff, List.head?_eq_none_iff] at hn
  rw [Bool.eq_false_iff, Ne, ← mem_sweepKeys h, hn.2]
  exact List.not_mem_nil

/-- The next eligible address behind the pointer, or, where there is none, the first (R173). -/
theorem sweepNext_some {l : Lmp} (h : Tab.risingFrom none l.table = true) {a : Nat} (hn : l.sweepNext = some a) : (l.entry a).eligible = true ∧
    ((l.sweepPointer < a ∧ ∀ b, (l.entry b).eligible = true → l.sweepPointer < b → a ≤ b) ∨
      (a ≤ l.sweepPointer ∧ ∀ b, (l.entry b).eligible = true → b ≤ l.sweepPointer ∧ a ≤ b)) := by
  have hpair := sweepKeys_pairwise h
  rw [sweepNext_eq] at hn
  simp only [← mem_sweepKeys h]
  rcases Option.or_eq_some_iff.1 hn with hf | ⟨hnone, hhead⟩
  · obtain ⟨hlt, before, after, hsplit, hbefore⟩ := List.find?_eq_some_iff_append.1 hf
    refine ⟨by rw [hsplit]; simp, .inl ⟨by simpa using hlt, fun b hb hpb => ?_⟩⟩
    rw [hsplit] at hb hpair
    rcases List.mem_append.1 hb with hb | hb
    · exact absurd hpb (by simpa using hbefore b hb)
    · rcases List.mem_cons.1 hb with rfl | hb
      · exact Nat.le_refl _
      · exact Nat.le_of_lt ((List.pairwise_cons.1 (List.pairwise_append.1 hpair).2.1).1 b hb)
  · obtain ⟨after, hsplit⟩ := List.head?_eq_some_iff.1 hhead
    have hle : ∀ b ∈ l.sweepKeys, b ≤ l.sweepPointer := fun b hb => by simpa using List.find?_eq_none.1 hnone b hb
    have ha : a ∈ l.sweepKeys := by rw [hsplit]; exact List.mem_cons_self
    refine ⟨ha, .inr ⟨hle a ha, fun b hb => ⟨hle b hb, ?_⟩⟩⟩
    rw [hsplit] at hb hpair
    rcases List.mem_cons.1 hb with rfl | hb
    · exact Nat.le_refl _
    · exact Nat.le_of_lt ((List.pairwise_cons.1 hpair).1 b hb)

/-! ## The choice of a cell position (R172 to R174) -/

theorem choose_queued {l : Lmp} {a : Nat} (h : (takeQueued l.changeQueue l).1 = some a) : l.choose = (some a, (takeQueued l.changeQueue l).2) := by
  unfold choose
  generalize takeQueued l.changeQueue l = r at h ⊢
  obtain ⟨c, l1⟩ := r
  cases h
  rfl

theorem choose_swept {l : Lmp} (h : (takeQueued l.changeQueue l).1 = none) : l.choose =
    match (takeQueued l.changeQueue l).2.sweepNext with
    | some a => (some a, { (takeQueued l.changeQueue l).2 with sweepPointer := a })
    | none => (none, (takeQueued l.changeQueue l).2) := by
  unfold choose
  generalize takeQueued l.changeQueue l = r at h ⊢
  obtain ⟨c, l1⟩ := r
  cases h
  rfl

/-- A choice changes the table, the queue and the pointer, and of an entry its place in the queue alone. -/
theorem choose_rest (l : Lmp) : l.choose.2 =
    { l with table := l.choose.2.table, changeQueue := l.choose.2.changeQueue, sweepPointer := l.choose.2.sweepPointer } := by
  have hrest := takeQueued_rest l.changeQueue l
  cases h : (takeQueued l.changeQueue l).1 with
  | some a => rw [choose_queued h, hrest]
  | none =>
    rw [choose_swept h]
    cases (takeQueued l.changeQueue l).2.sweepNext <;> (dsimp only; rw [hrest])

theorem choose_entry (l : Lmp) (b : Nat) : l.choose.2.entry b = l.entry b ∨ l.choose.2.entry b = (l.entry b).unqueued := by
  have hentry := takeQueued_entry l.changeQueue l b
  cases h : (takeQueued l.changeQueue l).1 with
  | some a => rw [choose_queued h]; exact hentry
  | none =>
    rw [choose_swept h]
    cases (takeQueued l.changeQueue l).2.sweepNext <;> exact hentry

theorem choose_pattern (l : Lmp) (b : Nat) : (l.choose.2.entry b).pattern = (l.entry b).pattern := by
  rcases choose_entry l b with h | h <;> rw [h]
  rfl

theorem choose_superframe (f : Nat) (l : Lmp) : ({ l with superframe := f } : Lmp).choose = (l.choose.1, { l.choose.2 with superframe := f }) := by
  have hq := takeQueued_superframe f l.changeQueue l
  cases h : (takeQueued l.changeQueue l).1 with
  | some a =>
    have h' : (takeQueued l.changeQueue { l with superframe := f }).1 = some a := by rw [hq]; exact h
    rw [choose_queued h, choose_queued (l := { l with superframe := f }) h', hq]
  | none =>
    have h' : (takeQueued l.changeQueue { l with superframe := f }).1 = none := by rw [hq]; exact h
    rw [choose_swept h, choose_swept (l := { l with superframe := f }) h', hq]
    dsimp only
    have hnext : ({ (takeQueued l.changeQueue l).2 with superframe := f } : Lmp).sweepNext = (takeQueued l.changeQueue l).2.sweepNext := rfl
    rw [hnext]
    cases (takeQueued l.changeQueue l).2.sweepNext <;> rfl

end Lmp

end Sys2Proof.Machine

namespace Sys2Proof.Machine

/-! Proofs about section 9: lamp cells, their answers, and the faults of lamp addresses. -/

namespace Lmp

/-! ## A cell position (R174) -/

/-- The superframe count that a cell position works in. -/
def frameCount (pos : Nat) (l : Lmp) : Nat := l.superframe + if pos = 0 then 1 else 0

/-- What the outbound cell carries. -/
def cellBytes (l : Lmp) : Option Nat → List Byte
  | none => [0xFF, 0xFF, 0xFF, 0xFF]
  | some a => lampCommand a (l.entry a).pattern

theorem cellPosition_eq (pos : Nat) (l : Lmp) : l.cellPosition pos =
    match l.choose with
    | (some a, l1) => { (l1.modEntry a (fun x => { x with lastSent := some (l1.entry a).pattern })) with
        superframe := l.frameCount pos, outCell := lampCommand a (l1.entry a).pattern,
        awaiting := l1.awaiting ++ [{ position := pos, superframe := l.frameCount pos, sent := some (a, (l1.entry a).pattern) }] }
    | (none, l1) => { l1 with superframe := l.frameCount pos, outCell := [0xFF, 0xFF, 0xFF, 0xFF],
                              awaiting := l1.awaiting ++ [{ position := pos, superframe := l.frameCount pos, sent := none }] } := by
  have hl0 : (if pos = 0 then { l with superframe := l.superframe + 1 } else l) = { l with superframe := l.frameCount pos } := by
    unfold frameCount
    split <;> rfl
  unfold cellPosition
  rw [hl0]
  dsimp only
  rw [choose_superframe (l.frameCount pos) l]
  obtain ⟨c, l1⟩ := l.choose
  cases c <;> rfl

/-- A cell position leaves its awaiting entry and its cell, and notes the pattern sent. -/
theorem cellPosition_spec (pos : Nat) (l : Lmp) :
    l.cellPosition pos = { l.choose.2 with
      superframe := l.frameCount pos, table := (l.cellPosition pos).table, outCell := (l.cellPosition pos).outCell,
      awaiting := l.awaiting ++ [{ position := pos, superframe := l.frameCount pos, sent := l.choose.1.map (fun a => (a, (l.entry a).pattern)) }] } ∧
    (l.cellPosition pos).outCell = l.cellBytes l.choose.1 ∧
    ∀ b, (l.cellPosition pos).entry b = if l.choose.1 = some b then { l.choose.2.entry b with lastSent := some (l.entry b).pattern } else l.choose.2.entry b := by
  have hawait : l.choose.2.awaiting = l.awaiting := by rw [choose_rest]
  have hpattern := choose_pattern l
  rw [cellPosition_eq]
  generalize l.choose = r at hawait hpattern ⊢
  obtain ⟨c, l1⟩ := r
  dsimp only at hawait hpattern
  cases c with
  | none =>
    dsimp only [Option.map_none]
    rw [hawait]
    exact ⟨rfl, rfl, fun b => rfl⟩
  | some a =>
    dsimp only [Option.map_some]
    rw [hawait, hpattern a]
    refine ⟨rfl, rfl, fun b => ?_⟩
    refine (lampEntry_modEntry a (fun x => { x with lastSent := some (l.entry a).pattern }) l1 b).trans ?_
    by_cases hb : b = a
    · rw [if_pos hb, if_pos (by rw [hb]), hb]
    · rw [if_neg hb, if_neg (fun k => hb (Option.some.inj k).symm)]

/-! ## The outbound byte (R174) -/

theorem outByte_begins {n : Nat} (hn : n % 4 = 0) (l : Lmp) : ∃ b bs, (l.cellPosition (n / 4)).outCell = b :: bs ∧
    l.outByte n = (b, { l.cellPosition (n / 4) with outCell := bs }) := by
  have hcell := (cellPosition_spec (n / 4) l).2.1
  obtain ⟨b, bs, hb⟩ : ∃ b bs, (l.cellPosition (n / 4)).outCell = b :: bs := by
    rw [hcell]
    cases l.choose.1 <;> exact ⟨_, _, rfl⟩
  refine ⟨b, bs, hb, ?_⟩
  unfold outByte
  rw [if_pos hn]
  dsimp only
  rw [hb]

theorem outByte_idle {n : Nat} (hn : n % 4 ≠ 0) {l : Lmp} (h : l.outCell = []) : l.outByte n = (0xFF, l) := by
  unfold outByte
  rw [if_neg hn]
  dsimp only
  rw [h]

theorem outByte_next {n : Nat} (hn : n % 4 ≠ 0) {l : Lmp} {b : Byte} {bs : List Byte} (h : l.outCell = b :: bs) :
    l.outByte n = (b, { l with outCell := bs }) := by
  unfold outByte
  rw [if_neg hn]
  dsimp only
  rw [h]

/-! ## A restart indication (R176) -/

/-- An address dropped by a restart: nothing was last sent to it, and it is examined. -/
def dropSent (a : Nat) (l : Lmp) : Lmp := (l.modEntry a (fun x => { x with lastSent := none })).examine a

/-- Its examination finds it in service and not queued. -/
def rejoins (x : LampEntry) : Bool := x.inService && !x.queued

theorem joins_of_unsent (x : LampEntry) : LampEntry.joins { x with lastSent := none } = rejoins x := by
  have hsent : decide ((none : Option Pattern) ≠ some ({ x with lastSent := none } : LampEntry).pattern) = true := rfl
  unfold LampEntry.joins rejoins
  rw [hsent, Bool.and_true]
  rfl

theorem acts_dropSent : Acts dropSent (fun x => { x with lastSent := none, queued := x.queued || rejoins x }) rejoins where
  entry a l b := by
    refine (acts_examine.after (fun x => { x with lastSent := none })).entry a l b |>.trans ?_
    rw [joins_of_unsent]
  rest a l := by
    have hrest := (acts_examine.after (fun x => { x with lastSent := none })).rest a l
    rw [joins_of_unsent] at hrest
    exact hrest

/-- The addresses dropped join the change queue once, where they are examined in service and not queued. -/
theorem foldl_dropSent : ∀ (as : List Nat) (l : Lmp), ∃ joined : List Nat, joined.Nodup ∧ joined.Sublist as ∧
    (∀ a, a ∈ joined ↔ a ∈ as ∧ rejoins (l.entry a) = true) ∧
    as.foldl (fun l a => l.dropSent a) l =
      { l with table := (as.foldl (fun l a => dropSent a l) l).table, changeQueue := l.changeQueue ++ joined } ∧
    ∀ a, (as.foldl (fun l a => dropSent a l) l).entry a =
      if a ∈ as then { l.entry a with lastSent := none, queued := (l.entry a).queued || rejoins (l.entry a) } else l.entry a
  | [], l => ⟨[], List.nodup_nil, List.Sublist.refl _, by simp, by simp, by simp⟩
  | c :: as, l => by
    obtain ⟨joined, hnodup, hsub, hmem, hrest, hentry⟩ := foldl_dropSent as (dropSent c l)
    have hc := acts_dropSent.entry c l
    have hqueue := acts_dropSent.rest c l
    have hafter : rejoins ((dropSent c l).entry c) = false := by
      rw [hc, if_pos rfl]
      unfold rejoins
      show ((l.entry c).inService && !((l.entry c).queued || ((l.entry c).inService && !(l.entry c).queued))) = false
      cases (l.entry c).inService <;> cases (l.entry c).queued <;> rfl
    have hother : ∀ {a}, a ≠ c → (dropSent c l).entry a = l.entry a := fun ha => (hc _).trans (if_neg ha)
    have hnot : c ∉ joined := fun hin => by
      have := ((hmem c).1 hin).2
      rw [hafter] at this
      cases this
    refine ⟨(if rejoins (l.entry c) = true then [c] else []) ++ joined, ?_, ?_, fun a => ?_, ?_, fun a => ?_⟩
    · split
      · exact List.nodup_cons.2 ⟨hnot, hnodup⟩
      · exact hnodup
    · split
      · exact hsub.cons_cons c
      · exact hsub.cons c
    · by_cases ha : a = c
      · subst ha
        split
        case isTrue hj => simp [hj]
        case isFalse hj => simp [hj, hnot]
      · have hin : a ∈ (if rejoins (l.entry c) = true then [c] else []) ++ joined ↔ a ∈ joined := by
          split <;> simp [ha]
        rw [hin, hmem, hother ha, List.mem_cons]
        simp [ha]
    · rw [List.foldl_cons, hrest, hqueue]
      simp only [List.append_assoc]
    · rw [List.foldl_cons, hentry]
      by_cases ha : a = c
      · subst ha
        rw [if_pos (List.mem_cons_self), hafter, Bool.or_false, hc, if_pos rfl]
        split <;> rfl
      · rw [hother ha]
        simp only [List.mem_cons, ha, false_or]

theorem restart_spec (l : Lmp) :
    let dropped := l.awaiting.filterMap (fun w => w.sent.map (·.1))
    ∃ joined : List Nat, joined.Nodup ∧ joined.Sublist dropped ∧ (∀ a, a ∈ joined ↔ a ∈ dropped ∧ rejoins (l.entry a) = true) ∧
      l.restart = { l with awaiting := [], outCell := [], inCell := none, superframe := 0, table := l.restart.table,
                           changeQueue := l.changeQueue ++ joined } ∧
      ∀ a, l.restart.entry a = if a ∈ dropped then { l.entry a with lastSent := none, queued := (l.entry a).queued || rejoins (l.entry a) } else l.entry a :=
  foldl_dropSent (l.awaiting.filterMap (fun w => w.sent.map (·.1))) { l with awaiting := [], outCell := [], inCell := none, superframe := 0 }

end Lmp

/-! ## The judgement of a cell (R175) -/

/-- An awaiting entry is the one that a cell of a position answers: of one superframe before. -/
def Awaiting.answeredAt (pos superframe : Nat) (w : Awaiting) : Bool := w.position = pos && w.superframe + 1 = superframe

theorem judge_nothing {e : Engine} {pos : Nat} {cell : List Byte} (h : ∀ w ∈ e.lmp.awaiting, w.answeredAt pos e.lmp.superframe = false) :
    e.judge pos cell = e := by
  have hfind : e.lmp.awaiting.find? (Awaiting.answeredAt pos e.lmp.superframe) = none := List.find?_eq_none.2 fun w hw => by simp [h w hw]
  have hfilter : e.lmp.awaiting.filter (fun w => !w.answeredAt pos e.lmp.superframe) = e.lmp.awaiting :=
    List.filter_eq_self.2 fun w hw => by rw [h w hw]; rfl
  unfold Engine.judge
  show (match e.lmp.awaiting.find? (Awaiting.answeredAt pos e.lmp.superframe) with
    | none => e.modLmp (fun l => { l with awaiting := l.awaiting.filter (fun w => !w.answeredAt pos e.lmp.superframe) })
    | some w => _) = e
  rw [hfind]
  unfold Engine.modLmp
  dsimp only
  rw [hfilter]

/-- The verdict on a cell for an awaiting entry, over the part with the entry gone. -/
def Engine.verdict (cell : List Byte) (w : Awaiting) (e : Engine) : Engine :=
  match w.sent with
  | none => e
  | some (a, _) =>
    if (e.lamp a).refs = 0 || !(e.lamp a).inService then e
    else match judgeCell a cell with
      | none => e.lampOk a
      | some k => e.lampBad a k

theorem judge_entry {e : Engine} {pos : Nat} {cell : List Byte} {before after : List Awaiting} {w : Awaiting}
    (h : e.lmp.awaiting = before ++ w :: after) (hw : w.answeredAt pos e.lmp.superframe = true)
    (ho : ∀ v ∈ before ++ after, v.answeredAt pos e.lmp.superframe = false) :
    e.judge pos cell = ({ e with lmp := { e.lmp with awaiting := before ++ after } } : Engine).verdict cell w := by
  have hbefore : ∀ v ∈ before, v.answeredAt pos e.lmp.superframe = false := fun v hv => ho v (List.mem_append_left _ hv)
  have hafter : ∀ v ∈ after, v.answeredAt pos e.lmp.superframe = false := fun v hv => ho v (List.mem_append_right _ hv)
  have hfind : e.lmp.awaiting.find? (Awaiting.answeredAt pos e.lmp.superframe) = some w := by
    rw [h]
    exact List.find?_eq_some_iff_append.2 ⟨hw, before, after, rfl, fun v hv => by rw [hbefore v hv]; rfl⟩
  have hfilter : e.lmp.awaiting.filter (fun w => !w.answeredAt pos e.lmp.superframe) = before ++ after := by
    rw [h, List.filter_append, List.filter_cons_of_neg (by rw [hw]; decide), List.filter_eq_self.2 (fun v hv => by rw [hbefore v hv]; rfl),
      List.filter_eq_self.2 (fun v hv => by rw [hafter v hv]; rfl)]
  unfold Engine.judge
  show (match e.lmp.awaiting.find? (Awaiting.answeredAt pos e.lmp.superframe) with
    | none => _
    | some v => Engine.verdict cell v (e.modLmp (fun l => { l with awaiting := l.awaiting.filter (fun w => !w.answeredAt pos e.lmp.superframe) }))) = _
  rw [hfind]
  unfold Engine.modLmp
  dsimp only
  rw [hfilter]

/-- A cell answers for an address: it is not idle, and carries the address's number. -/
def cellAnswers (a : Nat) (cell : List Byte) : Prop :=
  cell ≠ [0xFF, 0xFF, 0xFF, 0xFF] ∧ (cell.getD 1 0).toNat * 256 + (cell.getD 2 0).toNat = a

theorem judgeCell_answers {a : Nat} {cell : List Byte} (h : cellAnswers a cell) : judgeCell a cell =
    match (cell.getD 3 0).toNat with
    | 0 => none
    | 1 => some .openCircuit
    | 2 => some .short
    | _ => some .noAnswer := by
  unfold judgeCell
  rw [if_neg h.1, if_neg (not_not.2 h.2)] <;> rfl

theorem judgeCell_silent {a : Nat} {cell : List Byte} (h : ¬ cellAnswers a cell ∨ 2 < (cell.getD 3 0).toNat) : judgeCell a cell = some .noAnswer := by
  unfold judgeCell
  split
  · rfl
  · split
    · rfl
    · rename_i h1 h2
      have hlt := h.resolve_left (not_not.2 ⟨h1, not_not.1 h2⟩)
      split
      case h_4 => rfl
      all_goals omega

theorem verdict_answered {e : Engine} {cell : List Byte} {w : Awaiting} {a : Nat} {p : Pattern} (hs : w.sent = some (a, p)) (hr : 0 < (e.lamp a).refs)
    (hi : (e.lamp a).inService = true) : e.verdict cell w = match judgeCell a cell with
      | none => e.lampOk a
      | some k => e.lampBad a k := by
  unfold Engine.verdict
  rw [hs]
  dsimp only
  rw [if_neg (by simp [hi, Nat.ne_of_gt hr])]

theorem verdict_out {e : Engine} {cell : List Byte} {w : Awaiting} {a : Nat} {p : Pattern} (hs : w.sent = some (a, p))
    (h : (e.lamp a).refs = 0 ∨ (e.lamp a).inService = false) : e.verdict cell w = e := by
  unfold Engine.verdict
  rw [hs]
  dsimp only
  rw [if_pos]
  rcases h with h | h <;> simp [h]

theorem verdict_idle {e : Engine} {cell : List Byte} {w : Awaiting} (hs : w.sent = none) : e.verdict cell w = e := by
  unfold Engine.verdict
  rw [hs]

/-! ## The inbound byte (R175) -/

theorem lampByte_begins {n : Nat} (hn : n % 4 = 0) (b : Byte) (e : Engine) : e.lampByte n b = { e with lmp := { e.lmp with inCell := some [b] } } := by
  unfold Engine.lampByte
  rw [if_pos hn, if_neg (by omega)]
  rfl

theorem lampByte_goes_on {n : Nat} (h0 : n % 4 ≠ 0) (h3 : n % 4 ≠ 3) (b : Byte) (e : Engine) :
    e.lampByte n b = { e with lmp := { e.lmp with inCell := e.lmp.inCell.map (· ++ [b]) } } := by
  unfold Engine.lampByte
  rw [if_neg h0, if_neg h3]
  rfl

theorem lampByte_none {n : Nat} (hn : n % 4 ≠ 0) (b : Byte) {e : Engine} (hc : e.lmp.inCell = none) : e.lampByte n b = e := by
  have hsame : ({ e with lmp := { e.lmp with inCell := none } } : Engine) = e := by rw [← hc]
  by_cases h3 : n % 4 = 3
  · unfold Engine.lampByte
    rw [if_neg hn, if_pos h3, hc]
    exact hsame
  · rw [lampByte_goes_on hn h3, hc]
    exact hsame

theorem lampByte_ends {n : Nat} (hn : n % 4 = 3) (b : Byte) {e : Engine} {bs : List Byte} (hc : e.lmp.inCell = some bs) (hl : bs.length = 3) :
    e.lampByte n b = ({ e with lmp := { e.lmp with inCell := none } } : Engine).judge (n / 4) (bs ++ [b]) := by
  unfold Engine.lampByte
  rw [if_neg (show ¬ n % 4 = 0 by omega), if_pos hn, hc]
  dsimp only [Option.map_some]
  rw [if_pos (by simp [hl])]
  rfl

/-- An aligned frame on which nothing else arrives or leaves: its lamp bytes (R7). -/
theorem exec_lamp_frame {s : State} {hrx : List Byte} {n : Nat} (h : s.calmFrame hrx) (hn : s.hwi.frameNo = some n) (ho : s.eng.mgc.outbox = [])
    (hi : s.eng.slotsIn = []) (hso : s.eng.slotsOut = []) : exec (.frame hrx) s = .next
      { s with hwi := { s.hwi with frameBegun := false, htx := [0xFF, 0xFF, (s.eng.lmp.outByte n).1] ++ List.replicate 125 0x00 },
               eng := ({ s.eng with lmp := (s.eng.lmp.outByte n).2 } : Engine).lampByte n (hrx.getD 2 0xFF) } := by
  obtain ⟨hcalm, hb, hsync, hf, hw, hrx0, h0, h1⟩ := h
  have hline : s.eng.Line (({ s.eng with lmp := (s.eng.lmp.outByte n).2 } : Engine).lampByte n (hrx.getD 2 0xFF)) := lampFrame_line (some n) (hrx.getD 2 0xFF) s.eng
  have hslots := hline.slots
  have htraffic := traffic_unbound (o1 := 0xFF) (e1 := s.eng) s.now (some n) hrx (mgmtOut_empty ho) (by rw [mgmtIn_hunt hrx0 h0]; exact mgmtOut_empty ho)
    (by rw [mgmtIn_hunt hrx0 h1]; rfl) (hslots.1.trans hi) (hslots.2.trans hso)
  have hframe := frame_begun hrx hb (carries_of hsync hf) hw
  rw [hn, htraffic] at hframe
  show Host.Outcome.next (s.frame hrx).finish = _
  rw [hframe]
  exact congrArg Host.Outcome.next (finish_line hcalm hline)

/-! ## Confirmation (R177 to R179) -/

theorem lamp_modLmp (a : Nat) (f : LampEntry → LampEntry) (e : Engine) (b : Nat) :
    (e.modLmp (Lmp.modEntry a f)).lamp b = if b = a then f (e.lamp a) else e.lamp b := lampEntry_modEntry a f e.lmp b

theorem raise_lamp (k : NoticeKind) (d : List Byte) (e : Engine) (b : Nat) : (e.raise k d).lamp b = e.lamp b := rfl

theorem raise_flags (k : NoticeKind) (d : List Byte) (e : Engine) : (e.raise k d).mgc.flags = e.mgc.flags ||| k.bit := rfl

theorem lampOk_spec (a : Nat) (e : Engine) :
    (e.lampOk a).lamp a = { e.lamp a with fault := .clear, kind := none, confirm := 0, reported := none } ∧
      (e.lampOk a).mgc.flags = if (e.lamp a).reported = none then e.mgc.flags else e.mgc.flags ||| NoticeKind.lampCleared.bit := by
  have hentry := lamp_modLmp a (fun x => { x with confirm := 0, kind := none, fault := .clear, reported := none }) e a
  rw [if_pos rfl] at hentry
  unfold Engine.lampOk
  dsimp only
  cases (e.lamp a).reported with
  | none => exact ⟨hentry, rfl⟩
  | some k => exact ⟨hentry, rfl⟩

/-- The confirm count that a fault answer leaves (R178). -/
def confirmAfter (k : FaultKind) (x : LampEntry) : Nat := if x.fault = .clear ∨ x.kind ≠ some k then 1 else min 4 (x.confirm + 1)

/-- The part with a fault answer counted, not yet confirmed. -/
def Engine.suspected (a : Nat) (k : FaultKind) (e : Engine) : Engine :=
  e.modLmp (Lmp.modEntry a (fun x => { x with fault := .suspect, kind := some k, confirm := confirmAfter k (e.lamp a) }))

theorem suspected_lamp (a : Nat) (k : FaultKind) (e : Engine) (b : Nat) : (e.suspected a k).lamp b =
    if b = a then { e.lamp a with fault := .suspect, kind := some k, confirm := confirmAfter k (e.lamp a) } else e.lamp b :=
  lamp_modLmp a (fun x => { x with fault := .suspect, kind := some k, confirm := confirmAfter k (e.lamp a) }) e b

theorem lampBad_eq (a : Nat) (k : FaultKind) (e : Engine) : e.lampBad a k =
    if e.tab.settings.confirmCount ≤ confirmAfter k (e.lamp a) then (e.suspected a k).lampConfirmed a k else e.suspected a k := by
  have hcount : (if ((e.lamp a).fault = .clear || (e.lamp a).kind ≠ some k) = true then 1 else min 4 ((e.lamp a).confirm + 1)) = confirmAfter k (e.lamp a) := by
    unfold confirmAfter
    simp only [Bool.or_eq_true, decide_eq_true_eq]
  unfold Engine.lampBad Engine.suspected
  dsimp only
  rw [hcount]

/-- The entry that a confirmed fault leaves, and whether it is told, by the mode of its kind (R179). -/
def LampEntry.confirmed (k : FaultKind) (mode : FaultMode) (retryAt : Nat) (x : LampEntry) : LampEntry :=
  match mode with
  | .latch => { x with fault := .latched, reported := some k }
  | .retry => { x with fault := .retryWait, retryDue := some retryAt, reported := some k }
  | .report => { x with fault := .clear, confirm := 0, kind := none, reported := some k }
  | .ignore => { x with fault := .clear, confirm := 0, kind := none }

def FaultMode.tells (mode : FaultMode) (k : FaultKind) (reported : Option FaultKind) : Bool :=
  match mode with
  | .latch => true
  | .retry | .report => decide (reported ≠ some k)
  | .ignore => false

theorem lampConfirmed_spec (a : Nat) (k : FaultKind) (e : Engine) :
    (∀ b, (e.lampConfirmed a k).lamp b = if b = a then (e.lamp a).confirmed k (e.tab.settings.mode k) (e.lmp.seconds + e.tab.settings.retryInterval) else e.lamp b) ∧
      (e.lampConfirmed a k).mgc.flags =
        if (e.tab.settings.mode k).tells k (e.lamp a).reported = true then e.mgc.flags ||| NoticeKind.lampFault.bit else e.mgc.flags := by
  unfold Engine.lampConfirmed LampEntry.confirmed FaultMode.tells Engine.raiseLampFault
  dsimp only
  cases e.tab.settings.mode k with
  | latch => exact ⟨lamp_modLmp a (fun x => { x with fault := .latched, reported := some k }) e, rfl⟩
  | retry =>
    have hentry := lamp_modLmp a (fun x => { x with fault := .retryWait, retryDue := some (e.lmp.seconds + e.tab.settings.retryInterval), reported := some k }) e
    dsimp only
    by_cases hr : (e.lamp a).reported = some k
    · rw [if_pos hr, if_neg (by simp [hr])]
      exact ⟨hentry, rfl⟩
    · rw [if_neg hr, if_pos (by simp [hr])]
      exact ⟨hentry, rfl⟩
  | report =>
    have hentry := lamp_modLmp a (fun x => { x with fault := .clear, confirm := 0, kind := none, reported := some k }) e
    dsimp only
    by_cases hr : (e.lamp a).reported = some k
    · rw [if_pos hr, if_neg (by simp [hr])]
      exact ⟨hentry, rfl⟩
    · rw [if_neg hr, if_pos (by simp [hr])]
      exact ⟨hentry, rfl⟩
  | ignore => exact ⟨lamp_modLmp a (fun x => { x with fault := .clear, confirm := 0, kind := none }) e, rfl⟩

section LampBad
variable {e : Engine} {a : Nat} {k : FaultKind}

theorem lampBad_unconfirmed (h : ¬ e.tab.settings.confirmCount ≤ confirmAfter k (e.lamp a)) : e.lampBad a k = e.suspected a k :=
  (lampBad_eq a k e).trans (if_neg h)

theorem lampBad_confirmed (h : e.tab.settings.confirmCount ≤ confirmAfter k (e.lamp a)) {mode : FaultMode} (hm : e.tab.settings.mode k = mode) :
    (e.lampBad a k).lamp a = LampEntry.confirmed k mode (e.lmp.seconds + e.tab.settings.retryInterval)
        { e.lamp a with fault := .suspect, kind := some k, confirm := confirmAfter k (e.lamp a) } ∧
      (e.lampBad a k).mgc.flags = if mode.tells k (e.lamp a).reported = true then e.mgc.flags ||| NoticeKind.lampFault.bit else e.mgc.flags := by
  obtain ⟨hentry, htold⟩ := lampConfirmed_spec a k (e.suspected a k)
  have hlamp := suspected_lamp a k e a
  rw [if_pos rfl] at hlamp
  have hentry' := hentry a
  rw [if_pos rfl, hlamp, show (e.suspected a k).tab.settings.mode k = mode from hm] at hentry'
  rw [hlamp, show (e.suspected a k).tab.settings.mode k = mode from hm] at htold
  rw [lampBad_eq, if_pos h]
  exact ⟨hentry', htold⟩

theorem lampBad_others {b : Nat} (hb : b ≠ a) : (e.lampBad a k).lamp b = e.lamp b := by
  have hsusp : (e.suspected a k).lamp b = e.lamp b := (suspected_lamp a k e b).trans (if_neg hb)
  rw [lampBad_eq]
  split
  · exact ((lampConfirmed_spec a k (e.suspected a k)).1 b).trans ((if_neg hb).trans hsusp)
  · exact hsusp

end LampBad

/-! ## The statement, part by part -/

theorem rejoins_eq (l : Lmp) (a : Nat) : Lmp.rejoins (l.entry a) = ((l.entry a).inService && !(l.entry a).queued) := rfl

theorem eligible_iff (x : LampEntry) : x.eligible = true ↔ 0 < x.refs ∧ x.inService = true ∧ x.queued = false := by
  unfold LampEntry.eligible
  simp [and_assoc]

/-- The head of the queue that is in service is chosen. -/
theorem choose_found {l : Lmp} {before after : List Nat} {a : Nat} (hq : l.changeQueue = before ++ a :: after)
    (hb : ∀ b ∈ before, (l.entry b).inService = false) (ha : (l.entry a).inService = true) :
    l.choose.1 = some a ∧ l.choose.2 = { l with changeQueue := after, table := l.choose.2.table } ∧
      ∀ b, l.choose.2.entry b = if b ∈ before ++ [a] then { l.entry b with queued := false } else l.entry b := by
  obtain ⟨h1, h2, h3⟩ := Lmp.takeQueued_found before l hb ha (after := after)
  have hrest := Lmp.takeQueued_rest l.changeQueue l
  rw [hq] at hrest
  have hchoose := Lmp.choose_queued (l := l) (a := a) (by rw [hq]; exact h1)
  rw [hq] at hchoose
  rw [hchoose]
  refine ⟨rfl, ?_, h3⟩
  dsimp only
  rw [hrest, h2]

/-- With no address queued in service, the refresh sweep chooses. -/
theorem choose_sweeps {l : Lmp} (hout : ∀ b ∈ l.changeQueue, (l.entry b).inService = false) (hr : Tab.risingFrom none l.table = true) :
    (∀ b, l.choose.2.entry b = if b ∈ l.changeQueue then { l.entry b with queued := false } else l.entry b) ∧
    (l.choose.1 = none → l.choose.2 = { l with changeQueue := [], table := l.choose.2.table } ∧ ∀ b, (l.entry b).eligible = false) ∧
    (∀ a, l.choose.1 = some a → l.choose.2 = { l with changeQueue := [], table := l.choose.2.table, sweepPointer := a } ∧
      (l.entry a).eligible = true ∧
      ((l.sweepPointer < a ∧ ∀ b, (l.entry b).eligible = true → l.sweepPointer < b → a ≤ b) ∨
        (a ≤ l.sweepPointer ∧ ∀ b, (l.entry b).eligible = true → b ≤ l.sweepPointer ∧ a ≤ b))) := by
  obtain ⟨h1, h2, h3⟩ := Lmp.takeQueued_none l.changeQueue l hout
  have hrest := Lmp.takeQueued_rest l.changeQueue l
  have hrising := Lmp.takeQueued_rising l.changeQueue l hr
  have hchoose := Lmp.choose_swept h1
  generalize (Lmp.takeQueued l.changeQueue l).2 = l1 at h2 h3 hrest hrising hchoose
  rw [h2] at hrest
  have hpointer : l1.sweepPointer = l.sweepPointer := by rw [hrest]
  have heligible : ∀ b, (l1.entry b).eligible = (l.entry b).eligible := fun b => by
    rw [h3]
    split
    case isTrue hb =>
      have hs := hout b hb
      simp [LampEntry.eligible, unqueued_inService, hs]
    case isFalse => rfl
  rw [hchoose]
  cases hn : l1.sweepNext with
  | none =>
    refine ⟨h3, fun _ => ⟨hrest, fun b => ?_⟩, fun a ha => (Option.some_ne_none a ha.symm).elim⟩
    rw [← heligible]
    exact Lmp.sweepNext_none hrising hn b
  | some a =>
    refine ⟨h3, fun ha => (Option.some_ne_none a ha).elim, fun b hb => ?_⟩
    cases hb
    have hnext := Lmp.sweepNext_some hrising hn
    simp only [heligible, hpointer] at hnext
    refine ⟨?_, hnext⟩
    dsimp only
    rw [hrest]

theorem answeredAt_iff (pos superframe : Nat) (w : Awaiting) : w.answeredAt pos superframe = true ↔ w.position = pos ∧ w.superframe + 1 = superframe := by
  unfold Awaiting.answeredAt
  simp

theorem answeredAt_false {pos superframe : Nat} {w : Awaiting} (h : ¬ (w.position = pos ∧ w.superframe + 1 = superframe)) :
    w.answeredAt pos superframe = false := Bool.eq_false_iff.2 (mt (answeredAt_iff pos superframe w).1 h)

/-- Settles O48, part by part: the choice of a cell, its bytes, the judgement of an answer, the restart, the frame, and the modes of a fault. -/
theorem lampFaultsFollowTheirMode : Obligations.LampFaultsFollowTheirMode := by
  refine ⟨fun l pos => ?_, fun l n => ⟨fun hn => Lmp.outByte_begins hn l, fun hn h => Lmp.outByte_idle hn h, fun hn b bs h => Lmp.outByte_next hn h⟩,
    fun e pos cell _ => ?_, fun e n b => ⟨fun hn => lampByte_begins hn b e, fun hn hc => lampByte_none hn b hc, fun bs hc => ⟨fun hn => ?_, fun hn hl =>
      lampByte_ends hn b hc hl⟩⟩, Lmp.restart_spec, fun s hrx n h hn ho hi hso => exec_lamp_frame h hn ho hi hso, fun e a k => ?_⟩
  · intro c l1 eligible f l2
    obtain ⟨hcell, hbytes, hentry⟩ := Lmp.cellPosition_spec pos l
    refine ⟨fun before a after hq hb ha => choose_found hq hb ha, fun hout hr => ?_, hcell, ?_, hentry⟩
    · obtain ⟨hentries, hnone, hsome⟩ := choose_sweeps hout hr
      simp only [eligible_iff] at hsome
      refine ⟨hentries, fun hc => ⟨(hnone hc).1, fun b hb => ?_⟩, hsome⟩
      exact absurd ((eligible_iff _).2 hb) (Bool.eq_false_iff.1 ((hnone hc).2 b))
    · rw [hbytes]
      show l.cellBytes c = _
      cases c <;> rfl
  · intro mine
    refine ⟨fun h => judge_nothing fun w hw => answeredAt_false (h w hw), fun before w after hq hw ho => ?_⟩
    have hjudge := judge_entry (cell := cell) hq ((answeredAt_iff _ _ w).2 hw) (fun v hv => answeredAt_false (ho v hv))
    rw [hjudge]
    refine ⟨verdict_idle, fun a p hs h => verdict_out hs h, fun a p hs hr hi => ?_⟩
    rw [verdict_answered (e := { e with lmp := { e.lmp with awaiting := before ++ after } }) hs hr hi]
    refine ⟨fun ha h => ?_, fun ha h => ?_, fun ha h => ?_, fun h => ?_⟩
    · rw [judgeCell_answers ha, h]
      rfl
    · rw [judgeCell_answers ha, h]
      rfl
    · rw [judgeCell_answers ha, h]
      rfl
    · rw [judgeCell_silent h]
  · rw [lampByte_goes_on (by omega) (by omega), hc]
    rfl
  · intro x count y mode told confirmed
    have hmode : e.tab.settings.mode k = mode := by cases k <;> rfl
    refine ⟨fun b hb => lampBad_others hb, fun hno => ?_, fun hyes hm => ?_, fun hyes hm => ?_, fun hyes hm => ?_, fun hyes hm => ?_, lampOk_spec a e⟩
    · have hbad := lampBad_unconfirmed (k := k) hno
      have hlamp := suspected_lamp a k e a
      rw [if_pos rfl] at hlamp
      exact ⟨(congrArg (fun g : Engine => g.lamp a) hbad).trans hlamp, (congrArg (fun g : Engine => g.mgc.flags) hbad).trans rfl⟩
    · exact lampBad_confirmed hyes (hmode.trans hm)
    · obtain ⟨hy, ht⟩ := lampBad_confirmed hyes (hmode.trans hm)
      refine ⟨hy, ht.trans ?_⟩
      by_cases hr : (e.lamp a).reported = some k <;> simp [FaultMode.tells, hr, x]
    · obtain ⟨hy, ht⟩ := lampBad_confirmed hyes (hmode.trans hm)
      refine ⟨hy, ht.trans ?_⟩
      by_cases hr : (e.lamp a).reported = some k <;> simp [FaultMode.tells, hr, x]
    · exact lampBad_confirmed hyes (hmode.trans hm)

end Sys2Proof.Machine

namespace Sys2Proof.Machine

/-! Proofs about sections 4 and 5: segments that go DIRTY, bodies that are released, and an order that leaves the arbiter an erase. -/

/-- A part that is not among those of some work stands. -/
theorem Engine.Within.keeps {ps : List Part} {e g : Engine} (h : Engine.Within ps e g) (p : Part) (hp : decide (p ∈ ps) = false) :
    State.samePart { State.reset with eng := e } { State.reset with eng := g } p := h.same State.reset p (of_decide_eq_false hp)

/-! ## Segments that go DIRTY (R68 to R72) -/

/-- A map entry gone DIRTY. -/
def SegEntry.dirtied (g : SegEntry) : SegEntry := { g with state := .dirty, body := none, next := none }

theorem examinePool_ssc (e : Engine) : e.examinePool.ssc = { e.ssc with poolLow := e.examinePool.ssc.poolLow } := by
  unfold Engine.examinePool
  split
  · rfl
  · split
    · rfl
    · split <;> rfl

theorem segment_putDirty (i : Nat) (e : Engine) (j : Nat) : (e.putDirty i).segment j = if j = i then (e.segment i).dirtied else e.segment j :=
  segment_putSegment e i _ j

theorem segment_joinDirty (i : Nat) (e : Engine) (j : Nat) : (e.joinDirty i).segment j = if j = i then (e.segment i).dirtied else e.segment j := by
  rw [Engine.segment, Engine.joinDirty, (examinePool_tab _).1]
  exact segment_putDirty i e j

theorem joinDirty_ssc (i : Nat) (e : Engine) : (e.joinDirty i).ssc.eraseQueue = Run.push i e.ssc.eraseQueue ∧
    (e.joinDirty i).ssc.freeList = e.ssc.freeList := by
  unfold Engine.joinDirty
  rw [examinePool_ssc]
  exact ⟨rfl, rfl⟩

/-- The DATA segments of a list go DIRTY in the map. -/
theorem segment_makeAllDirty : ∀ (is : List Nat) (e : Engine) (j : Nat), (e.makeAllDirty is).segment j =
    if j ∈ is ∧ (e.segment j).state = .data then (e.segment j).dirtied else e.segment j
  | [], e, j => by simp [Engine.makeAllDirty]
  | i :: is, e, j => by
    have hmake : (e.makeDirty i).segment j = if j = i ∧ (e.segment j).state = .data then (e.segment j).dirtied else e.segment j := by
      unfold Engine.makeDirty
      by_cases hs : (e.segment i).state = .data
      · rw [if_pos hs, segment_joinDirty]
        by_cases hj : j = i
        · rw [if_pos hj, if_pos ⟨hj, hj ▸ hs⟩, hj]
        · rw [if_neg hj, if_neg (fun k => hj k.1)]
      · rw [if_neg hs, if_neg]
        rintro ⟨rfl, hd⟩
        exact hs hd
    show ((e.makeDirty i).makeAllDirty is).segment j = _
    rw [segment_makeAllDirty is, hmake]
    by_cases hj : j = i ∧ (e.segment j).state = .data
    · have hdirty : ¬ (e.segment j).dirtied.state = .data := by simp [SegEntry.dirtied]
      rw [if_pos hj, if_neg (fun k => hdirty k.2), if_pos ⟨hj.1 ▸ List.mem_cons_self, hj.2⟩]
    · rw [if_neg hj]
      by_cases hd : (e.segment j).state = .data
      · have hne : j ≠ i := fun k => hj ⟨k, hd⟩
        simp [hne, hd]
      · simp [hd]

/-- They join the erase queue's tail, in order (R72). -/
theorem makeAllDirty_ssc : ∀ (is : List Nat) (e : Engine), is.Nodup → (e.makeAllDirty is).ssc.eraseQueue =
    (is.filter (fun i => decide ((e.segment i).state = .data))).foldl (fun q i => Run.push i q) e.ssc.eraseQueue ∧
      (e.makeAllDirty is).ssc.freeList = e.ssc.freeList
  | [], e, _ => ⟨rfl, rfl⟩
  | i :: is, e, h => by
    obtain ⟨hi, his⟩ := List.nodup_cons.1 h
    obtain ⟨hq, hf⟩ := makeAllDirty_ssc is (e.makeDirty i) his
    have hsame : ∀ j ∈ is, ((e.makeDirty i).segment j).state = (e.segment j).state := fun j hj => by
      have hne : j ≠ i := fun k => hi (k ▸ hj)
      unfold Engine.makeDirty
      split
      · rw [segment_joinDirty, if_neg hne]
      · rfl
    have hfilter : is.filter (fun j => decide (((e.makeDirty i).segment j).state = .data)) = is.filter (fun j => decide ((e.segment j).state = .data)) :=
      List.filter_congr fun j hj => by rw [hsame j hj]
    show ((e.makeDirty i).makeAllDirty is).ssc.eraseQueue = _ ∧ ((e.makeDirty i).makeAllDirty is).ssc.freeList = _
    rw [hq, hf, hfilter]
    unfold Engine.makeDirty
    by_cases hs : (e.segment i).state = .data
    · rw [if_pos hs, List.filter_cons_of_pos (by simpa using hs), List.foldl_cons, (joinDirty_ssc i e).1, (joinDirty_ssc i e).2]
      exact ⟨rfl, rfl⟩
    · rw [if_neg hs, List.filter_cons_of_neg (by simpa using hs)]
      exact ⟨rfl, rfl⟩

/-! ## Chains -/

theorem chainFrom_congr {e g : Engine} (h : g.tab.segments = e.tab.segments) : ∀ (n : Nat) (i : Option Nat), g.chainFrom n i = e.chainFrom n i
  | 0, _ => rfl
  | _ + 1, none => rfl
  | n + 1, some i => by
    rw [Engine.chainFrom, Engine.chainFrom, Engine.segment, Engine.segment, h, chainFrom_congr h n]

/-- The chain of a body is read from the map and from the body's ends. -/
theorem chain_congr {e g : Engine} (h : g.tab.segments = e.tab.segments) {b : Nat}
    (hb : (g.body b).map (fun x => (x.count, x.first)) = (e.body b).map (fun x => (x.count, x.first))) : g.chain b = e.chain b := by
  unfold Engine.chain
  cases hg : g.body b with
  | none => cases he : e.body b with
    | none => rfl
    | some x => simp [hg, he] at hb
  | some y => cases he : e.body b with
    | none => simp [hg, he] at hb
    | some x =>
      simp only [hg, he, Option.map_some, Option.some.injEq, Prod.mk.injEq] at hb
      dsimp only
      rw [hb.1, hb.2, chainFrom_congr h]

theorem extent_congr {e g : Engine} {b : Nat} (hb : g.body b = e.body b) (hh : g.hold b = e.hold b) : g.extent b = e.extent b := by
  unfold Engine.extent
  rw [hb, hh]

/-! ## The release of a body (R105 to R108) -/

theorem releases_release (e : Engine) (b : Nat) : e.releases (e.release b) b := by
  refine ⟨?_, fun i => ?_, fun hn => (makeAllDirty_ssc (e.chain b) e hn).1⟩
  · exact (body_putBody _ b none b).trans (if_pos rfl)
  · refine (segment_makeAllDirty (e.chain b) e i).trans ?_
    simp only [decide_eq_true_eq]
    rfl

/-- What else a release does: no other body, no other hold, and the free list as it was. -/
theorem release_others (e : Engine) (b : Nat) : (∀ c, (e.release b).body c = if c = b then none else e.body c) ∧
    (∀ c, (e.release b).hold c = if c = b then BodyHold.zero else e.hold c) ∧
    ((e.chain b).Nodup → (e.release b).ssc.freeList = e.ssc.freeList) := by
  have hdirty := makeAllDirty_within e (e.chain b)
  refine ⟨fun c => ?_, fun c => ?_, fun hn => (makeAllDirty_ssc (e.chain b) e hn).2⟩
  · refine (body_putBody (e.makeAllDirty (e.chain b)) b none c).trans ?_
    rw [Engine.body, hdirty.keeps .bodies rfl]
    rfl
  · refine (hold_modHold ((e.makeAllDirty (e.chain b)).put (.body b none)) b _ c).trans ?_
    have hholds : ((e.makeAllDirty (e.chain b)).put (.body b none)).holds = e.holds := hdirty.keeps .holds rfl
    rw [Engine.hold, hholds]
    rfl

theorem body_modShare (b : Nat) (f : Nat → Nat) (e : Engine) (c : Nat) :
    (e.modShare b f).body c = if c = b then (e.body b).map (fun x => { x with share := f x.share }) else e.body c := by
  unfold Engine.modShare
  cases hb : e.body b with
  | none =>
    dsimp only
    split
    case isTrue hc => rw [hc, hb]; rfl
    case isFalse => rfl
  | some x => exact body_putBody e b _ c

theorem chain_modShare (b : Nat) (f : Nat → Nat) (e : Engine) : (e.modShare b f).chain b = e.chain b := by
  refine chain_congr ((modShare_within e b f).keeps .segments rfl) ?_
  rw [body_modShare, if_pos rfl, Option.map_map]
  rfl

/-- A body is held by its shares, its pins or its readers (R105 to R107). -/
def Engine.heldBy (e : Engine) (b : Nat) (y : Body) : Prop := 0 < y.share ∨ 0 < (e.hold b).pins ∨ 0 < (e.hold b).readers

theorem releaseIfUnheld_held {e : Engine} {b : Nat} {y : Body} (hb : e.body b = some y) (h : e.heldBy b y) : e.releaseIfUnheld b = e := by
  unfold Engine.releaseIfUnheld
  rw [hb]
  dsimp only
  rw [if_neg]
  rcases h with h | h | h <;> simp [Nat.ne_of_gt h]

theorem releaseIfUnheld_unheld {e : Engine} {b : Nat} {y : Body} (hb : e.body b = some y) (h : ¬ e.heldBy b y) (hf : e.ssc.service ≠ .frozen) :
    e.releaseIfUnheld b = e.release b := by
  unfold Engine.heldBy at h
  simp only [not_or, Nat.not_lt, Nat.le_zero] at h
  obtain ⟨hs, hp, hr⟩ := h
  unfold Engine.releaseIfUnheld
  rw [hb]
  dsimp only
  rw [if_pos (by simp [hs, hp, hr, hf])]

theorem heldBy_modShare (e : Engine) (b : Nat) (y : Body) : (e.modShare b (· - 1)).heldBy b { y with share := y.share - 1 } ↔
    1 < y.share ∨ 0 < (e.hold b).pins ∨ 0 < (e.hold b).readers := by
  have hholds : (e.modShare b (· - 1)).hold b = e.hold b :=
    congrArg (fun t => Tab.get BodyHold.zero t b) ((modShare_within e b (· - 1)).keeps .holds rfl)
  unfold Engine.heldBy
  rw [hholds]
  exact or_congr_left Nat.sub_pos_iff_lt

section DropShare
variable {e : Engine} {b : Nat} {y : Body} (hb : e.body b = some y)
include hb

theorem body_of_modShare (f : Nat → Nat) : (e.modShare b f).body b = some { y with share := f y.share } := by
  rw [body_modShare, if_pos rfl, hb]
  rfl

theorem dropShare_held (h : 1 < y.share ∨ 0 < (e.hold b).pins ∨ 0 < (e.hold b).readers) : e.dropShare b = e.modShare b (· - 1) :=
  releaseIfUnheld_held (body_of_modShare hb _) ((heldBy_modShare e b y).2 h)

theorem dropShare_unheld (h : ¬ (1 < y.share ∨ 0 < (e.hold b).pins ∨ 0 < (e.hold b).readers)) (hf : e.ssc.service ≠ .frozen) :
    e.dropShare b = (e.modShare b (· - 1)).release b :=
  releaseIfUnheld_unheld (body_of_modShare hb _) (mt (heldBy_modShare e b y).1 h)
    (((modShare_within e b (· - 1)).keeps .service rfl).1.symm ▸ hf)

/-- A share given up with nothing else holding the body releases it. -/
theorem dropShare_releases (h : ¬ (1 < y.share ∨ 0 < (e.hold b).pins ∨ 0 < (e.hold b).readers)) (hf : e.ssc.service ≠ .frozen) :
    e.releases (e.dropShare b) b ∧ (∀ c, (e.dropShare b).body c = if c = b then none else e.body c) ∧
      (e.dropShare b).hold b = BodyHold.zero ∧ ((e.chain b).Nodup → (e.dropShare b).ssc.freeList = e.ssc.freeList) := by
  rw [dropShare_unheld hb h hf]
  have hchain := chain_modShare b (· - 1) e
  have hsegments : (e.modShare b (· - 1)).tab.segments = e.tab.segments := (modShare_within e b (· - 1)).keeps .segments rfl
  have hseg : ∀ i, (e.modShare b (· - 1)).segment i = e.segment i := fun i => congrArg (fun t => Tab.get SegEntry.blank t i) hsegments
  obtain ⟨hfreed, -, hpool⟩ : (e.modShare b (· - 1)).ssc.freeList = e.ssc.freeList ∧ _ ∧ _ :=
    ⟨((modShare_within e b (· - 1)).keeps .pool rfl).1, trivial, ((modShare_within e b (· - 1)).keeps .pool rfl).2.1⟩
  obtain ⟨hnone, hmap, hqueue⟩ := releases_release (e.modShare b (· - 1)) b
  obtain ⟨hbodies, hholds, hfree⟩ := release_others (e.modShare b (· - 1)) b
  rw [hchain] at hmap hqueue hfree
  simp only [hseg] at hmap hqueue
  rw [hpool] at hqueue
  rw [hfreed] at hfree
  refine ⟨⟨hnone, hmap, hqueue⟩, fun c => (hbodies c).trans ?_, (hholds b).trans (if_pos rfl), hfree⟩
  split
  · rfl
  · rename_i hc
    rw [body_modShare, if_neg hc]

end DropShare

/-! ## An order whose work leaves the arbiter at most an erase -/

theorem startNext_within {e : Engine} (h : e.linkFree = false ∨ e.ssc.readQueue = []) : Engine.Within [.link] e e.startNext := by
  unfold Engine.startNext
  rcases h with h | h
  · rw [h]
    exact .refl _ _
  · split
    · exact .refl _ _
    · rw [if_neg (by simp [h])]
      exact .ite (startErase_within e) (.refl _ _)

/-- Work that leaves the store's queues and link, the jobs and the RESTART as they were: behind an accepted order the writes become one sequence, and the
arbiter chooses an erase or nothing (R77, R80). -/
theorem order_started {s : State} (h : s.accepting) {code : Byte} {o : Order} (ho : Order.ofCode code = some o) (tag : Byte) {ps : List Byte}
    (hl : ps.length + 2 = o.bodyLength) {r : Result} {d : List Byte} {s' : State}
    (hr : o.run ps s.taken = { result := r, data := d, state := s', waits := false }) {qs : List Part}
    (k : Engine.Within qs s.taken.eng s'.eng)
    (hq : Part.dle ∉ qs ∧ Part.storeQueues ∉ qs ∧ Part.link ∉ qs ∧ Part.service ∉ qs ∧ Part.channel ∉ qs) :
    s.deliverOrder code tag ps = s'.onEng (fun e => (e.concluded tag r d).startNext) ∧
      Engine.Within [.link] (s'.eng.concluded tag r d) (s'.eng.concluded tag r d).startNext := by
  obtain ⟨hdle, hqueues, hlink, hserv, hchan⟩ := hq
  have hd : s'.eng.dle = s.eng.dle := k.same s .dle hdle
  obtain ⟨hrq, hpq⟩ : s'.eng.ssc.readQueue = s.eng.ssc.readQueue ∧ s'.eng.ssc.progQueue = s.eng.ssc.progQueue := k.same s .storeQueues hqueues
  have hk : s'.eng.ssc.link = s.eng.ssc.link := (k.same s .link hlink).1
  have hs : s'.eng.ssc.service = s.eng.ssc.service := (k.same s .service hserv).1
  have hre : s'.eng.mgc.restart = s.eng.mgc.restart := (k.same s .channel hchan).2.2.2
  have hhalt : s'.eng.halted = s.eng.halted := by rw [Engine.halted, Engine.halted, hs, hre]
  have hfree : s'.eng.linkFree = s.eng.linkFree := by rw [Engine.linkFree, Engine.linkFree, hs, hk, hhalt]
  obtain ⟨-, hdue, hrest⟩ := (accepting_calm h).1
  have hidle : s'.eng.linkFree = false ∨ (s'.eng.ssc.progQueue = [] ∧ s'.eng.ssc.readQueue = []) := by
    rw [hfree, hpq, hrq]
    exact hrest.imp id (fun x => ⟨x.1, x.2.1⟩)
  have hplace : (s'.eng.placeAnswer (answerPacket tag r d)).halted = false := hhalt.trans (accepting_live h)
  refine ⟨?_, startNext_within (hidle.imp id (fun x => x.2))⟩
  rw [deliverOrder_run h ho tag hl, hr]
  simp only [Reply.place, Bool.false_eq_true, if_false, State.onEng]
  rw [settle_quiet (e := s'.eng.placeAnswer (answerPacket tag r d)) (hd ▸ hdue) (hidle.imp id (fun x => x.1)), flush_nothing_live hplace]
  rfl

/-- Work within some parts, an answer and the writes made one sequence, and an erase that may start. -/
theorem started_within {s : State} (hh : s.eng.mgc.handling = false) {ps : List Part} (hps : Part.channel ∉ ps) {e : Engine}
    (k : Engine.Within ps s.taken.eng e) {tag : Byte} {r : Result} {d : List Byte}
    (hl : Engine.Within [.link] (e.concluded tag r d) (e.concluded tag r d).startNext) :
    Engine.Within (.link :: .outbox :: .writes :: ps) s.eng (e.concluded tag r d).startNext :=
  ((concluded_within hh hps k tag r d).mono (List.all_eq_true.2 fun p hp => decide_eq_true (List.mem_cons_of_mem _ hp))).trans
    (hl.mono (List.all_eq_true.2 fun p hp => decide_eq_true (by rw [List.mem_singleton.1 hp]; exact List.mem_cons_self)))

theorem started_answered {s : State} {e : Engine} {tag : Byte} {r : Result} {d : List Byte}
    (hl : Engine.Within [.link] (e.concluded tag r d) (e.concluded tag r d).startNext) :
    ({ s with eng := (e.concluded tag r d).startNext } : State).answered tag r d := by
  have houtbox : (e.concluded tag r d).startNext.mgc.outbox = (e.concluded tag r d).mgc.outbox := (hl.same s .outbox (by simp)).1
  show answerPacket tag r d ∈ (e.concluded tag r d).startNext.mgc.outbox
  rw [houtbox]
  simp [Engine.concluded]

end Sys2Proof.Machine

namespace Sys2Proof.Machine

/-! Proofs about section 6: a record freed. -/

/-! ## What the catalogue reads as after the links of a list are written (R123) -/

/-- A listed entry changed, and nothing where the key is not listed. -/
def tabModify {α : Type} (p : Nat) (f : α → α) (t : Tab α) : Tab α := (Tab.find? t p).elim t (fun x => Tab.insert p (f x) t)

theorem find?_tabModify {α : Type} (p : Nat) (f : α → α) (t : Tab α) (q : Nat) :
    Tab.find? (tabModify p f t) q = if q = p then (Tab.find? t q).map f else Tab.find? t q := by
  unfold tabModify
  cases hp : Tab.find? t p with
  | none =>
    dsimp only [Option.elim]
    split
    case isTrue hq => rw [hq, hp]; rfl
    case isFalse => rfl
  | some x =>
    refine (Tab.find?_insert _ _ _ _).trans ?_
    split
    case isTrue hq => rw [hq, hp]; rfl
    case isFalse => rfl

section
variable (e : Engine)

theorem record_putRecordNext (p : Nat) (n : Option Nat) (q : Nat) :
    (e.put (.recordNext p n)).record q = if q = p then (e.record q).map (fun y => { y with next := n }) else e.record q := by
  have htab : (e.put (.recordNext p n)).tab.records = tabModify p (fun y : Record => { y with next := n }) e.tab.records := by
    simp only [Engine.put, CatWrite.apply, tabModify]
    cases Tab.find? e.tab.records p <;> rfl
  rw [Engine.record, htab, find?_tabModify]
  rfl

theorem record_putRecordPrev (p : Nat) (n : Option Nat) (q : Nat) :
    (e.put (.recordPrev p n)).record q = if q = p then (e.record q).map (fun y => { y with prev := n }) else e.record q := by
  have htab : (e.put (.recordPrev p n)).tab.records = tabModify p (fun y : Record => { y with prev := n }) e.tab.records := by
    simp only [Engine.put, CatWrite.apply, tabModify]
    cases Tab.find? e.tab.records p <;> rfl
  rw [Engine.record, htab, find?_tabModify]
  rfl

theorem mailbox_putBoxHead (m : Nat) (r : Option Nat) (n : Nat) :
    (e.put (.boxHead m r)).mailbox n = if n = m then (e.mailbox n).map (fun b => { b with head := r }) else e.mailbox n := by
  have htab : (e.put (.boxHead m r)).tab.mailboxes = tabModify m (fun b : Mailbox => { b with head := r }) e.tab.mailboxes := by
    simp only [Engine.put, CatWrite.apply, tabModify]
    cases Tab.find? e.tab.mailboxes m <;> rfl
  rw [Engine.mailbox, htab, find?_tabModify]
  rfl

theorem mailbox_putBoxTail (m : Nat) (r : Option Nat) (n : Nat) :
    (e.put (.boxTail m r)).mailbox n = if n = m then (e.mailbox n).map (fun b => { b with tail := r }) else e.mailbox n := by
  have htab : (e.put (.boxTail m r)).tab.mailboxes = tabModify m (fun b : Mailbox => { b with tail := r }) e.tab.mailboxes := by
    simp only [Engine.put, CatWrite.apply, tabModify]
    cases Tab.find? e.tab.mailboxes m <;> rfl
  rw [Engine.mailbox, htab, find?_tabModify]
  rfl

end

theorem record_congr {e g : Engine} (h : g.tab.records = e.tab.records) (q : Nat) : g.record q = e.record q := by
  rw [Engine.record, h, Engine.record]

theorem mailbox_congr {e g : Engine} (h : g.tab.mailboxes = e.tab.mailboxes) (n : Nat) : g.mailbox n = e.mailbox n := by
  rw [Engine.mailbox, h, Engine.mailbox]

/-- The next of the record before, or the head of the list, passes to the record behind. -/
def Engine.linkPast (x : Record) (e : Engine) : Engine :=
  match x.prev with
  | some p => e.put (.recordNext p x.next)
  | none => e.put (.boxHead x.mailbox x.next)

/-- The prev of the record behind, or the tail of the list, passes to the record before. -/
def Engine.linkBack (x : Record) (e : Engine) : Engine :=
  match x.next with
  | some n => e.put (.recordPrev n x.prev)
  | none => e.put (.boxTail x.mailbox x.prev)

theorem unlinkRecord_eq (r : Nat) (x : Record) (e : Engine) : e.unlinkRecord r x = ((e.linkPast x).linkBack x).put (.record r none) := rfl

theorem linkPast_record (x : Record) (e : Engine) (q : Nat) :
    (e.linkPast x).record q = (e.record q).map (fun y => { y with next := if x.prev = some q then x.next else y.next }) := by
  unfold Engine.linkPast
  cases hp : x.prev with
  | none =>
    dsimp only
    rw [record_congr ((put_within e (.boxHead x.mailbox x.next)).keeps .records rfl)]
    simp
  | some p =>
    refine (record_putRecordNext e p x.next q).trans ?_
    by_cases hq : q = p
    · simp [hq]
    · have hne : ¬ some p = some q := fun k => hq (Option.some.inj k).symm
      simp [hq, hne]

theorem linkBack_record (x : Record) (e : Engine) (q : Nat) :
    (e.linkBack x).record q = (e.record q).map (fun y => { y with prev := if x.next = some q then x.prev else y.prev }) := by
  unfold Engine.linkBack
  cases hp : x.next with
  | none =>
    dsimp only
    rw [record_congr ((put_within e (.boxTail x.mailbox x.prev)).keeps .records rfl)]
    simp
  | some p =>
    refine (record_putRecordPrev e p x.prev q).trans ?_
    by_cases hq : q = p
    · simp [hq]
    · have hne : ¬ some p = some q := fun k => hq (Option.some.inj k).symm
      simp [hq, hne]

theorem linkPast_mailbox (x : Record) (e : Engine) (n : Nat) : (e.linkPast x).mailbox n =
    (e.mailbox n).map (fun b => if n = x.mailbox then { b with head := if x.prev = none then x.next else b.head } else b) := by
  unfold Engine.linkPast
  cases hp : x.prev with
  | none =>
    refine (mailbox_putBoxHead e x.mailbox x.next n).trans ?_
    by_cases hn : n = x.mailbox <;> simp [hn]
  | some p =>
    dsimp only
    rw [mailbox_congr ((put_within e (.recordNext p x.next)).keeps .mailboxes rfl)]
    simp

theorem linkBack_mailbox (x : Record) (e : Engine) (n : Nat) : (e.linkBack x).mailbox n =
    (e.mailbox n).map (fun b => if n = x.mailbox then { b with tail := if x.next = none then x.prev else b.tail } else b) := by
  unfold Engine.linkBack
  cases hp : x.next with
  | none =>
    refine (mailbox_putBoxTail e x.mailbox x.prev n).trans ?_
    by_cases hn : n = x.mailbox <;> simp [hn]
  | some p =>
    dsimp only
    rw [mailbox_congr ((put_within e (.recordPrev p x.prev)).keeps .mailboxes rfl)]
    simp

/-- A record leaves the table, and its neighbours are linked to one another (R123). -/
theorem unlinkRecord_record (r : Nat) (x : Record) (e : Engine) (q : Nat) : (e.unlinkRecord r x).record q = if q = r then none else
    (e.record q).map (fun y => { y with prev := if x.next = some q then x.prev else y.prev, next := if x.prev = some q then x.next else y.next }) := by
  rw [unlinkRecord_eq, record_putRecord, linkBack_record, linkPast_record, Option.map_map]
  rfl

/-- Its list's ends pass to its neighbours. -/
theorem unlinkRecord_mailbox (r : Nat) (x : Record) (e : Engine) (n : Nat) : (e.unlinkRecord r x).mailbox n =
    (e.mailbox n).map (fun b => if n = x.mailbox then
      { b with head := if x.prev = none then x.next else b.head, tail := if x.next = none then x.prev else b.tail } else b) := by
  have hput : (((e.linkPast x).linkBack x).put (.record r none)).mailbox n = ((e.linkPast x).linkBack x).mailbox n := rfl
  rw [unlinkRecord_eq, hput, linkBack_mailbox, linkPast_mailbox, Option.map_map]
  congr 1
  funext b
  by_cases hn : n = x.mailbox <;> simp [hn]

/-! ## Sessions that lose their target (R45, R133) -/

/-- Sessions taken one by one, each once, as they are listed. -/
theorem session_clearEach (r : Nat) : ∀ (t : Tab Session) (e : Engine), (t.map (·.1)).Nodup → (∀ kx ∈ t, e.session kx.1 = kx.2) → ∀ k,
    (t.foldl (fun e kx => if kx.2.target = .record r then e.modSession kx.1 (fun x => { x with target := .none }) else e) e).session k =
      if k ∈ t.map (·.1) ∧ (e.session k).target = .record r then { e.session k with target := .none } else e.session k
  | [], _, _, _, k => by simp
  | kx :: t, e, hn, ht, k => by
    obtain ⟨hk, hn⟩ := List.nodup_cons.1 hn
    have hhead : e.session kx.1 = kx.2 := ht kx List.mem_cons_self
    have hstep : ∀ j, (if kx.2.target = .record r then e.modSession kx.1 (fun x => { x with target := .none }) else e).session j =
        if j = kx.1 ∧ (e.session j).target = .record r then { e.session j with target := .none } else e.session j := fun j => by
      by_cases htarget : kx.2.target = .record r
      · rw [if_pos htarget, session_modSession]
        by_cases hj : j = kx.1
        · subst hj
          rw [if_pos rfl, if_pos ⟨rfl, hhead ▸ htarget⟩]
        · rw [if_neg hj, if_neg (fun c : _ ∧ _ => hj c.1)]
      · rw [if_neg htarget, if_neg]
        rintro ⟨rfl, hr⟩
        exact htarget (hhead ▸ hr)
    rw [List.foldl_cons, session_clearEach r t _ hn (fun y hy => ?_) k]
    · rw [hstep]
      by_cases hkx : k = kx.1
      · subst hkx
        rw [if_neg (fun c => hk c.1)]
        simp only [List.map_cons, List.mem_cons, true_or, true_and]
      · simp only [hkx, false_and, if_false, List.map_cons, List.mem_cons, false_or]
    · have hne : y.1 ≠ kx.1 := fun c => hk (List.mem_map.2 ⟨y, hy, c⟩)
      rw [hstep, if_neg (fun c => hne c.1)]
      exact ht y (List.mem_cons_of_mem _ hy)

theorem session_clearTargets {e : Engine} (h : Tab.risingFrom none e.sessions = true) (r k : Nat) : (e.clearTargets r).session k =
    if (e.session k).target = .record r then { e.session k with target := .none } else e.session k := by
  refine (session_clearEach r e.sessions e (Tab.keys_nodup h) (fun kx hkx => ?_) k).trans ?_
  · rw [Engine.session, Tab.get, Tab.find?_of_mem h kx hkx]
    rfl
  · by_cases hk : k ∈ e.sessions.map (·.1)
    · simp only [hk, true_and]
    · have hreset : e.session k = Session.reset := by
        rw [Engine.session, Tab.get, Tab.find?_eq_none_iff.2 hk]
        rfl
      have htarget : ¬ (e.session k).target = .record r := by
        rw [hreset]
        exact Target.noConfusion
      rw [if_neg (fun c => hk c.1), if_neg htarget]

/-! ## Counters and charge (R125, R126) -/

theorem leave_charged (st : RecState) (u : Bool) (c : Counters) : (c.leave st u).charged = c.charged := by
  cases st <;> rfl

theorem counter_charge (m : Nat) (f : Nat → Nat) (e : Engine) (n : Nat) :
    (e.charge m f).counter n = if n = m then { e.counter m with charged := f (e.counter m).charged } else e.counter n :=
  counter_modCounter e m _ n

/-! ## A record freed (R133) -/

/-- The parts that a record's detachment leaves. -/
theorem detachRecord_counter (r : Nat) (x : Record) (e : Engine) (n : Nat) : (e.detachRecord r x).counter n = if n = x.mailbox then
    { (e.counter n).leave x.state x.urgent with charged := (e.counter n).charged - e.extent x.body } else e.counter n := by
  have hclear : ∀ g : Engine, (g.clearTargets r).counter n = g.counter n := fun g =>
    congrArg (fun t => Tab.get Counters.zero t n) ((clearTargets_within g r).keeps .counters rfl)
  have hunlink : ∀ j, (e.unlinkRecord r x).counter j = e.counter j := fun j =>
    congrArg (fun t => Tab.get Counters.zero t j) ((unlinkRecord_within e r x).keeps .counters rfl)
  unfold Engine.detachRecord
  rw [hclear, counter_charge]
  by_cases hn : n = x.mailbox
  · rw [if_pos hn, if_pos hn, hn, counter_modCounter, if_pos rfl, leave_charged, hunlink]
  · rw [if_neg hn, if_neg hn, counter_modCounter, if_neg hn, hunlink]

theorem detachRecord_record (r : Nat) (x : Record) (e : Engine) (q : Nat) : (e.detachRecord r x).record q = (e.unlinkRecord r x).record q :=
  record_congr ((clearTargets_within _ r).keeps .records rfl) q

theorem detachRecord_mailbox (r : Nat) (x : Record) (e : Engine) (n : Nat) : (e.detachRecord r x).mailbox n = (e.unlinkRecord r x).mailbox n :=
  mailbox_congr ((clearTargets_within _ r).keeps .mailboxes rfl) n

theorem detachRecord_session {e : Engine} (h : Tab.risingFrom none e.sessions = true) (r : Nat) (x : Record) (k : Nat) :
    (e.detachRecord r x).session k = if (e.session k).target = .record r then { e.session k with target := .none } else e.session k := by
  have hsame : (((e.unlinkRecord r x).modCounter x.mailbox (Counters.leave x.state x.urgent)).charge x.mailbox (· - e.extent x.body)).sessions = e.sessions :=
    (unlinkRecord_within e r x).keeps .sessions rfl
  have hses : ∀ j, (((e.unlinkRecord r x).modCounter x.mailbox (Counters.leave x.state x.urgent)).charge x.mailbox (· - e.extent x.body)).session j =
      e.session j := fun j => congrArg (fun t => Tab.get Session.reset t j) hsame
  unfold Engine.detachRecord
  rw [session_clearTargets (by rw [hsame]; exact h), hses]

/-- What a freed record leaves reads the same in parts that stand as these. -/
structure Engine.SameContent (e g : Engine) : Prop where
  tab : g.tab = e.tab
  sessions : g.sessions = e.sessions
  holds : g.holds = e.holds
  counters : g.counters = e.counters
  lmp : g.lmp = e.lmp
  service : g.ssc.service = e.ssc.service
  freeList : g.ssc.freeList = e.ssc.freeList
  eraseQueue : g.ssc.eraseQueue = e.ssc.eraseQueue
  poolLow : g.ssc.poolLow = e.ssc.poolLow

namespace Engine.SameContent

variable {a b c e g : Engine}

theorem refl (e : Engine) : e.SameContent e := ⟨rfl, rfl, rfl, rfl, rfl, rfl, rfl, rfl, rfl⟩

theorem trans (h : SameContent a b) (k : SameContent b c) : SameContent a c :=
  ⟨k.tab.trans h.tab, k.sessions.trans h.sessions, k.holds.trans h.holds, k.counters.trans h.counters, k.lmp.trans h.lmp, k.service.trans h.service,
    k.freeList.trans h.freeList, k.eraseQueue.trans h.eraseQueue, k.poolLow.trans h.poolLow⟩

theorem inputs (h : SameContent e g) : e.SameInputs g := ⟨congrArg _ h.tab, congrArg _ h.tab, h.counters, h.service, h.lmp⟩

theorem record (h : SameContent e g) (q : Nat) : g.record q = e.record q := record_congr (congrArg _ h.tab) q

theorem mailbox (h : SameContent e g) (n : Nat) : g.mailbox n = e.mailbox n := mailbox_congr (congrArg _ h.tab) n

theorem counter (h : SameContent e g) (n : Nat) : g.counter n = e.counter n := by rw [Engine.counter, h.counters, Engine.counter]

theorem session (h : SameContent e g) (k : Nat) : g.session k = e.session k := by rw [Engine.session, h.sessions, Engine.session]

theorem body (h : SameContent e g) (b : Nat) : g.body b = e.body b := by rw [Engine.body, h.tab, Engine.body]

theorem hold (h : SameContent e g) (b : Nat) : g.hold b = e.hold b := by rw [Engine.hold, h.holds, Engine.hold]

theorem segment (h : SameContent e g) (i : Nat) : g.segment i = e.segment i := by rw [Engine.segment, h.tab, Engine.segment]

theorem chain (h : SameContent e g) (b : Nat) : g.chain b = e.chain b := chain_congr (congrArg _ h.tab) (by rw [h.body])

theorem extent (h : SameContent e g) (b : Nat) : g.extent b = e.extent b := extent_congr (h.body b) (h.hold b)

end Engine.SameContent

/-- The release that a record's body may bring, over the part with the record detached. -/
theorem freeRecord_eq {e : Engine} {r : Nat} {x : Record} (hx : e.record r = some x) :
    e.freeRecord r = ((e.detachRecord r x).dropShare x.body).handAll [x.mailbox] := by
  unfold Engine.freeRecord Engine.freeRecordQuietly
  rw [hx]
  rfl

/-- A record freed in SERVICE, from parts that stand as e to parts that stand as it leaves them (R133). -/
theorem freesRecord_of {s t : State} {e : Engine} {r : Nat} {x : Record} (hs : s.eng.SameContent e) (hx : s.eng.record r = some x)
    (hf : s.eng.ssc.service ≠ .frozen) (ht : (e.freeRecord r).SameContent t.eng) : s.freesRecord t r x := by
  have hxe : e.record r = some x := (hs.record r).trans hx
  have hdetach := detachRecord_within e r x
  have hbody : ∀ b, (e.detachRecord r x).body b = s.eng.body b := fun b =>
    (congrArg (fun t => Tab.find? t b) (hdetach.keeps .bodies rfl)).trans (hs.body b)
  have hhold : ∀ b, (e.detachRecord r x).hold b = s.eng.hold b := fun b =>
    (congrArg (fun t => Tab.get BodyHold.zero t b) (hdetach.keeps .holds rfl)).trans (hs.hold b)
  have hsegments : (e.detachRecord r x).tab.segments = e.tab.segments := hdetach.keeps .segments rfl
  have hsegment : ∀ i, (e.detachRecord r x).segment i = s.eng.segment i := fun i =>
    (congrArg (fun t => Tab.get SegEntry.blank t i) hsegments).trans (hs.segment i)
  have hchain : (e.detachRecord r x).chain x.body = s.eng.chain x.body :=
    (chain_congr hsegments (by rw [hbody, hs.body])).trans (hs.chain x.body)
  have hpool := hdetach.keeps .pool rfl
  have hservice : (e.detachRecord r x).ssc.service = s.eng.ssc.service := (hdetach.keeps .service rfl).1.trans hs.service
  have hdrop := dropShare_within (e.detachRecord r x) x.body
  have hhand := handAll_within ((e.detachRecord r x).dropShare x.body) [x.mailbox]
  rw [freeRecord_eq hxe] at ht
  have hlate : Engine.Within (.lmp :: releaseParts) (e.detachRecord r x) (((e.detachRecord r x).dropShare x.body).handAll [x.mailbox]) :=
    (hdrop.mono rfl).step hhand rfl
  refine ⟨fun q => ?_, fun n => ?_, fun n => ?_, ?_, fun hrising k => ?_, fun y hy => ?_⟩
  · rw [ht.record, record_congr (hlate.keeps .records rfl), detachRecord_record, unlinkRecord_record, hs.record]
  · rw [ht.mailbox, mailbox_congr (hlate.keeps .mailboxes rfl), detachRecord_mailbox, unlinkRecord_mailbox, hs.mailbox]
  · have hcounter : (((e.detachRecord r x).dropShare x.body).handAll [x.mailbox]).counter n = (e.detachRecord r x).counter n :=
      congrArg (fun t => Tab.get Counters.zero t n) (hlate.keeps .counters rfl)
    rw [ht.counter, hcounter, detachRecord_counter, hs.counter, hs.extent]
  · have hlmp : ((e.detachRecord r x).dropShare x.body).lmp = s.eng.lmp :=
      (hdrop.keeps .lmp rfl).trans ((hdetach.keeps .lmp rfl).trans hs.lmp)
    exact handsInputs_of hlmp ht.inputs
  · have hsession : (((e.detachRecord r x).dropShare x.body).handAll [x.mailbox]).session k = (e.detachRecord r x).session k :=
      congrArg (fun t => Tab.get Session.reset t k) (hlate.keeps .sessions rfl)
    rw [ht.session, hsession, detachRecord_session (by rw [hs.sessions]; exact hrising), hs.session]
  · have hyd : (e.detachRecord r x).body x.body = some y := (hbody x.body).trans hy
    have hlmpBody : ∀ b, (((e.detachRecord r x).dropShare x.body).handAll [x.mailbox]).body b = ((e.detachRecord r x).dropShare x.body).body b := fun b =>
      congrArg (fun t => Tab.find? t b) (hhand.keeps .bodies rfl)
    have hlmpHold : (((e.detachRecord r x).dropShare x.body).handAll [x.mailbox]).hold x.body = ((e.detachRecord r x).dropShare x.body).hold x.body :=
      congrArg (fun t => Tab.get BodyHold.zero t x.body) (hhand.keeps .holds rfl)
    have hlmpSegment : ∀ i, (((e.detachRecord r x).dropShare x.body).handAll [x.mailbox]).segment i =
        ((e.detachRecord r x).dropShare x.body).segment i := fun i =>
      congrArg (fun t => Tab.get SegEntry.blank t i) (hhand.keeps .segments rfl)
    have hlmpPool := hhand.keeps .pool rfl
    refine ⟨fun hheld => ?_, fun hunheld hn => ?_⟩
    · rw [← hhold] at hheld
      have hkeep := dropShare_held hyd hheld
      rw [hkeep] at ht
      have hshare := modShare_within (e.detachRecord r x) x.body (· - 1)
      have hhand' := handAll_within ((e.detachRecord r x).modShare x.body (· - 1)) [x.mailbox]
      have hall : Engine.Within [.lmp, .bodies, .writes, .records, .mailboxes, .counters, .sessions] e
          (((e.detachRecord r x).modShare x.body (· - 1)).handAll [x.mailbox]) :=
        ((hdetach.mono rfl).step hshare rfl).step hhand' rfl
      obtain ⟨hfree, herase, hlow⟩ := hall.keeps .pool rfl
      refine ⟨fun b => ?_, ⟨?_, ?_, ?_⟩, ?_, ?_⟩
      · rw [ht.body, show (((e.detachRecord r x).modShare x.body (· - 1)).handAll [x.mailbox]).body b =
          ((e.detachRecord r x).modShare x.body (· - 1)).body b from congrArg (fun t => Tab.find? t b) (hhand'.keeps .bodies rfl),
          body_modShare, hyd, hbody]
        rfl
      · exact ht.freeList.trans (hfree.trans hs.freeList)
      · exact ht.eraseQueue.trans (herase.trans hs.eraseQueue)
      · exact ht.poolLow.trans (hlow.trans hs.poolLow)
      · exact (congrArg _ ht.tab).trans ((hall.keeps .segments rfl).trans (congrArg _ hs.tab))
      · exact ht.holds.trans ((hall.keeps .holds rfl).trans hs.holds)
    · rw [← hhold] at hunheld
      obtain ⟨⟨-, hmap, hqueue⟩, hbodies, hzero, hfree⟩ := dropShare_releases hyd hunheld (hservice ▸ hf)
      rw [hchain] at hmap hqueue hfree
      simp only [hsegment] at hmap hqueue
      refine ⟨fun b => ?_, ?_, fun i => ?_, ?_, ?_⟩
      · rw [ht.body, hlmpBody, hbodies, hbody]
      · rw [ht.hold, hlmpHold, hzero]
        rfl
      · rw [ht.segment, hlmpSegment, hmap]
        simp only [List.mem_filter]
      · rw [ht.eraseQueue, hlmpPool.2.1, hqueue hn, hpool.2.1, hs.eraseQueue]
      · rw [ht.freeList, hlmpPool.1, hfree hn, hpool.1, hs.freeList]

end Sys2Proof.Machine

namespace Sys2Proof.Machine

/-! Proofs about sections 6 and 9: lamp inputs handed, and LOAD CLASS and DELETE. -/

/-! ## Addresses taken one by one (R167, R170, R171) -/

/-- Two steps that change the table and append to the queue. -/
theorem Lmp.queued_trans {l l1 l2 : Lmp} {q1 q2 : List Nat} (h1 : l1 = { l with table := l1.table, changeQueue := l.changeQueue ++ q1 })
    (h2 : l2 = { l1 with table := l2.table, changeQueue := l1.changeQueue ++ q2 }) :
    l2 = { l with table := l2.table, changeQueue := l.changeQueue ++ (q1 ++ q2) } := by
  generalize l2.table = t2 at h2 ⊢
  generalize l1.table = t1 at h1
  rw [h2, h1]
  simp only [List.append_assoc]

/-- An operation at each of several addresses, each once. -/
theorem Lmp.Acts.foldl {op : Nat → Lmp → Lmp} {change : LampEntry → LampEntry} {queues : LampEntry → Bool} (h : Lmp.Acts op change queues) :
    ∀ (as : List Nat) (l : Lmp), as.Nodup →
      (∀ b, (as.foldl (fun l a => op a l) l).entry b = if b ∈ as then change (l.entry b) else l.entry b) ∧
      as.foldl (fun l a => op a l) l = { l with table := (as.foldl (fun l a => op a l) l).table,
                                                changeQueue := l.changeQueue ++ as.filter (fun a => queues (l.entry a)) }
  | [], l, _ => ⟨fun b => by simp, by simp⟩
  | c :: as, l, hn => by
    obtain ⟨hc, hn⟩ := List.nodup_cons.1 hn
    obtain ⟨hentry, hrest⟩ := h.foldl as (op c l) hn
    have hother : ∀ {a}, a ≠ c → (op c l).entry a = l.entry a := fun ha => (h.entry c l _).trans (if_neg ha)
    have hfilter : as.filter (fun a => queues ((op c l).entry a)) = as.filter (fun a => queues (l.entry a)) :=
      List.filter_congr fun a ha => by rw [hother (fun k => hc (k ▸ ha))]
    refine ⟨fun b => ?_, ?_⟩
    · rw [List.foldl_cons, hentry]
      by_cases hb : b = c
      · subst hb
        rw [if_neg hc, if_pos List.mem_cons_self, h.entry, if_pos rfl]
      · rw [hother hb]
        simp only [List.mem_cons, hb, false_or]
    · rw [hfilter] at hrest
      refine (Lmp.queued_trans (h.rest c l) hrest).trans ?_
      rw [List.filter_cons]
      cases queues (l.entry c) <;> rfl

/-! ## Lamp inputs (R127, R166, R167) -/

theorem handInputs_none {e : Engine} {m : Nat} (h : e.mailbox m = none ∨ e.ssc.service = .frozen) : e.handInputs m = e := by
  unfold Engine.handInputs
  cases hm : e.mailbox m with
  | none => rfl
  | some b =>
    have hf : e.ssc.service = .frozen := h.resolve_left (by simp [hm])
    dsimp only
    rw [if_pos hf]

/-- The pattern that a mailbox's lamp inputs give (R166). -/
def Engine.inputPattern (e : Engine) (m : Nat) (b : Mailbox) : Pattern :=
  lampPattern b.fields.enabled b.fields.lampsOn (e.counter m).new (e.counter m).urgent (e.boxFull m)

/-- The lamp unit with a mailbox moved to a new pattern at each address of its lamp list. -/
def Lmp.moved (m : Nat) (old new : Pattern) (lamps : List Nat) (l : Lmp) : Lmp :=
  { (lamps.foldl (fun l a => l.move old new a) l) with
      patterns := Tab.set Pattern.off m new (lamps.foldl (fun l a => l.move old new a) l).patterns }

theorem handInputs_eq {e : Engine} {m : Nat} {b : Mailbox} (hb : e.mailbox m = some b) (hf : e.ssc.service ≠ .frozen) : e.handInputs m =
    if Tab.get Pattern.off e.lmp.patterns m = e.inputPattern m b then e
    else { e with lmp := e.lmp.moved m (Tab.get Pattern.off e.lmp.patterns m) (e.inputPattern m b) b.fields.lamps } := by
  unfold Engine.handInputs
  rw [hb]
  dsimp only
  rw [if_neg hf]
  rfl

/-- The entry of an address that a mailbox moves at. -/
def LampEntry.movedBy (old new : Pattern) (x : LampEntry) : LampEntry := (x.modCount old (· - 1)).modCount new (· + 1)

theorem acts_move (old new : Pattern) : Lmp.Acts (fun a l => l.move old new a)
    (fun x => { x.movedBy old new with queued := (x.movedBy old new).queued || (x.movedBy old new).joins }) (fun x => (x.movedBy old new).joins) :=
  Lmp.acts_examine.after (LampEntry.movedBy old new)

theorem moved_spec {lamps : List Nat} (hn : lamps.Nodup) (m : Nat) (old new : Pattern) (l : Lmp) :
    let moved := fun a => (l.entry a).movedBy old new
    let l1 := l.moved m old new lamps
    (∀ n, Tab.get Pattern.off l1.patterns n = if n = m then new else Tab.get Pattern.off l.patterns n) ∧
      (∀ a, l1.entry a = if a ∈ lamps then { moved a with queued := (moved a).queued || (moved a).joins } else l.entry a) ∧
      l1.changeQueue = l.changeQueue ++ lamps.filter (fun a => (moved a).joins) ∧
      l1 = { l with patterns := l1.patterns, table := l1.table, changeQueue := l1.changeQueue } := by
  intro moved l1
  obtain ⟨hentry, hrest⟩ := (acts_move old new).foldl lamps l hn
  have hpatterns : (lamps.foldl (fun l a => l.move old new a) l).patterns = l.patterns := by rw [hrest]
  have hqueue : (lamps.foldl (fun l a => l.move old new a) l).changeQueue = l.changeQueue ++ lamps.filter (fun a => (moved a).joins) := by rw [hrest]
  refine ⟨fun n => ?_, hentry, hqueue, ?_⟩
  · show Tab.get Pattern.off (Tab.set Pattern.off m new (lamps.foldl (fun l a => l.move old new a) l).patterns) n = _
    rw [Tab.get_set, hpatterns]
  · show ({ (lamps.foldl (fun l a => l.move old new a) l) with
      patterns := Tab.set Pattern.off m new (lamps.foldl (fun l a => l.move old new a) l).patterns } : Lmp) = _
    conv_lhs => rw [hrest]
    rw [← hqueue]
    show _ = ({ l with patterns := Tab.set Pattern.off m new (lamps.foldl (fun l a => l.move old new a) l).patterns,
                       table := (lamps.foldl (fun l a => l.move old new a) l).table,
                       changeQueue := (lamps.foldl (fun l a => l.move old new a) l).changeQueue } : Lmp)
    rw [hpatterns]

/-! ## A change of a lamp list (R170) -/

/-- The entry of an address that leaves a mailbox's lamp list, and of one that joins it. -/
def LampEntry.left (p : Pattern) (x : LampEntry) : LampEntry := ({ x with refs := x.refs - 1 }.modCount p (· - 1)).unreferenced

def LampEntry.joined (p : Pattern) (x : LampEntry) : LampEntry := { x with refs := x.refs + 1 }.modCount p (· + 1)

theorem listChange_spec {l : Lmp} {m : Nat} {old new : List Nat} (ho : old.Nodup) (hn : new.Nodup) :
    let p := Tab.get Pattern.off l.patterns m
    let leaving := old.filter (fun a => !new.contains a)
    let joining := new.filter (fun a => !old.contains a)
    let moved := fun a => if a ∈ leaving then (l.entry a).left p else if a ∈ joining then (l.entry a).joined p else l.entry a
    l.listChange m old new = { l with table := (l.listChange m old new).table,
                                      changeQueue := l.changeQueue ++ (leaving ++ joining).filter (fun a => (moved a).joins) } ∧
      (∀ a, (l.listChange m old new).entry a = if a ∈ leaving ++ joining then { moved a with queued := (moved a).queued || (moved a).joins } else l.entry a) := by
  intro p leaving joining moved
  have hleaving : leaving.Nodup := ho.filter _
  have hjoining : joining.Nodup := hn.filter _
  have hapart : ∀ {a}, a ∈ leaving → a ∉ joining := fun {a} hl hj => by
    obtain ⟨hold, -⟩ := List.mem_filter.1 hl
    obtain ⟨-, hnot⟩ := List.mem_filter.1 hj
    simp [hold] at hnot
  have hboth : (leaving ++ joining).Nodup :=
    List.nodup_append.2 ⟨hleaving, hjoining, fun a ha b hb hab => hapart ha (hab ▸ hb)⟩
  obtain ⟨hentry1, hrest1⟩ := (Lmp.acts_modEntry (LampEntry.left p)).foldl leaving l hleaving
  generalize hl1 : leaving.foldl (fun l a => l.modEntry a (LampEntry.left p)) l = l1 at hentry1 hrest1
  obtain ⟨hentry2, hrest2⟩ := (Lmp.acts_modEntry (LampEntry.joined p)).foldl joining l1 hjoining
  generalize hl2 : joining.foldl (fun l a => l.modEntry a (LampEntry.joined p)) l1 = l2 at hentry2 hrest2
  obtain ⟨hentry3, hrest3⟩ := Lmp.acts_examine.foldl (leaving ++ joining) l2 hboth
  have hlist : l.listChange m old new = (leaving ++ joining).foldl (fun l a => l.examine a) l2 := by
    rw [← hl2, ← hl1]
    rfl
  rw [← hlist] at hentry3 hrest3
  have hmoved : ∀ a, l2.entry a = moved a := fun a => by
    rw [hentry2, hentry1]
    show _ = if a ∈ leaving then (l.entry a).left p else if a ∈ joining then (l.entry a).joined p else l.entry a
    by_cases hl : a ∈ leaving
    · rw [if_neg (hapart hl), if_pos hl, if_pos hl]
    · rw [if_neg hl, if_neg hl]
  have hsame : l2 = { l with table := l2.table } := by
    rw [List.filter_false, List.append_nil] at hrest1 hrest2
    rw [hrest2, hrest1]
  have hqueue : l2.changeQueue = l.changeQueue := by rw [hsame]
  refine ⟨?_, fun a => ?_⟩
  · simp only [hmoved, hqueue] at hrest3
    rw [hrest3, hsame]
  · rw [hentry3, hmoved]
    split
    · rfl
    · rename_i hnot
      rw [List.mem_append, not_or] at hnot
      exact (if_neg hnot.1).trans (if_neg hnot.2)

/-! ## LOAD CLASS (R115, R116) -/

theorem num1_lt (ps : List Byte) (i : Nat) : num1 ps i < 256 := (byteAt ps i).isLt

theorem num2_lt (ps : List Byte) (i : Nat) : num2 ps i < 65536 := by
  have h0 := num1_lt ps i
  have h1 := num1_lt ps (i + 1)
  unfold num2
  omega

theorem clamp_top {lo hi x : Nat} (h : x ≤ hi) : clamp lo hi x = max lo x := by
  unfold clamp
  rw [Nat.min_eq_right h]

theorem clamp_zero (hi x : Nat) : clamp 0 hi x = min hi x := Nat.zero_max _

theorem orderLoadClass_range {ps : List Byte} (s : State) (h : 15 < num1 ps 0) :
    orderLoadClass ps s = { result := .badField, data := [], state := s, waits := false } :=
  checked_refused (firstRefusal_stop (c := (decide (15 < num1 ps 0), .badField)) (decide_eq_true h))

/-- A class stored, and the lamp inputs of its mailboxes handed. -/
def Engine.withClass (k : Nat) (c : MailClass) (e : Engine) : Engine := (e.put (.cls k c)).handAll (e.classBoxes k)

theorem withClass_within (k : Nat) (c : MailClass) (e : Engine) : Engine.Within [.classes, .lmp, .writes] e (e.withClass k c) := by
  have hput : Engine.Within [.classes, .writes] e (e.put (.cls k c)) := (put_within e _).mono rfl
  exact (hput.mono rfl).step (handAll_within _ _) rfl

theorem orderLoadClass_done {ps : List Byte} (s : State) (h : num1 ps 0 ≤ 15) : orderLoadClass ps s =
    { result := .done, data := yes1 (decide ((MailClass.read ps 1).clamped ≠ MailClass.read ps 1)),
      state := { s with eng := s.eng.withClass (num1 ps 0) (MailClass.read ps 1).clamped }, waits := false } :=
  checked_passes s _ (firstRefusal_pass (c := (decide (15 < num1 ps 0), .badField)) (cs := []) (decide_eq_false (Nat.not_lt.2 h)))

theorem exec_loadClass {s : State} (h : s.accepting) (tag : Byte) {ps : List Byte} (hl : ps.length = 23) (hk : num1 ps 0 ≤ 15) :
    exec (.loadClass tag ps) s = .next { s with eng := (s.taken.eng.withClass (num1 ps 0) (MailClass.read ps 1).clamped).concluded tag .done (
      yes1 (decide ((MailClass.read ps 1).clamped ≠ MailClass.read ps 1))) } := by
  have hwork := withClass_within (num1 ps 0) (MailClass.read ps 1).clamped s.taken.eng
  refine congrArg _ ((order_concluded h (o := .loadClass) rfl tag (congrArg (· + 2) hl) (orderLoadClass_done s.taken hk) hwork ?_ ?_).trans rfl)
  · simp
  · exact (hwork.keeps .pool rfl).2.1

/-- The writes asked for and the sequences made stand through the handing of lamp inputs. -/
theorem handAll_writes (ms : List Nat) (e : Engine) : (e.handAll ms).asked = e.asked ∧ (e.handAll ms).catQueue = e.catQueue :=
  (handAll_within e ms).keeps .writes rfl |>.symm

/-! ## DELETE (R134) -/

theorem orderDelete_range {ps : List Byte} (s : State) (h : 4096 ≤ num2 ps 0 ∨ 32768 ≤ num2 ps 2) :
    orderDelete ps s = { result := .badField, data := [], state := s, waits := false } := by
  refine checked_refused (firstRefusal_stop ?_)
  rcases h with h | h <;> simp [h]

theorem orderDelete_in_range {ps : List Byte} (s : State) (hm : num2 ps 0 < 4096) (hr : num2 ps 2 < 32768) :
    orderDelete ps s = Reply.checked (recordChecks (num2 ps 0) (num2 ps 2) s) s
      (Reply.done [] (s.onEng (fun e => e.freeRecord (num2 ps 2)))) := by
  refine checked_pass_first (c := (decide (Config.mailboxes ≤ num2 ps 0) || decide (Config.records ≤ num2 ps 2), .badField)) ?_
  simp [hm, hr]

theorem startNext_content {e : Engine} (h : Engine.Within [.link] e e.startNext) : e.SameContent e.startNext := by
  obtain ⟨hfree, herase, hlow⟩ := h.keeps .pool rfl
  have htab : e.startNext.tab = e.tab := by
    unfold Engine.startNext Engine.startRead Engine.startErase
    (repeat' split) <;> rfl
  exact ⟨htab, h.keeps .sessions rfl, h.keeps .holds rfl, h.keeps .counters rfl, h.keeps .lmp rfl, (h.keeps .service rfl).1, hfree, herase, hlow⟩

theorem taken_content (s : State) : s.eng.SameContent s.taken.eng := ⟨rfl, rfl, rfl, rfl, rfl, rfl, rfl, rfl, rfl⟩

theorem concluded_content (tag : Byte) (r : Result) (d : List Byte) (e : Engine) : e.SameContent (e.concluded tag r d) :=
  ⟨rfl, rfl, rfl, rfl, rfl, rfl, rfl, rfl, rfl⟩

/-- The part after an accepted order whose work frees records, an answer placed and an erase perhaps started. -/
def State.startedAs (s : State) (e : Engine) (tag : Byte) (r : Result) (d : List Byte) : State := { s with eng := (e.concluded tag r d).startNext }

theorem started_content {s : State} {e : Engine} {tag : Byte} {r : Result} {d : List Byte}
    (h : Engine.Within [.link] (e.concluded tag r d) (e.concluded tag r d).startNext) : e.SameContent (s.startedAs e tag r d).eng :=
  (concluded_content tag r d e).trans (startNext_content h)

/-- An accepted DELETE of a mailbox's record. -/
theorem exec_delete {s : State} (h : s.accepting) (tag : Byte) {ps : List Byte} (hl : ps.length = 4) (hm : num2 ps 0 < 4096) (hr : num2 ps 2 < 32768)
    (hb : s.eng.mailbox (num2 ps 0) ≠ none) {x : Record} (hx : s.eng.record (num2 ps 2) = some x) (hxm : x.mailbox = num2 ps 0) (hs : x.state ≠ .recording) :
    let g := s.taken.eng.freeRecord (num2 ps 2)
    exec (.delete tag ps) s = .next (s.startedAs g tag .done []) ∧ Engine.Within [.link] (g.concluded tag .done []) (g.concluded tag .done []).startNext := by
  intro g
  have hrun : Order.run .delete ps s.taken = { result := .done, data := [], state := { s.taken with eng := g }, waits := false } := by
    refine (orderDelete_in_range s.taken hm hr).trans ?_
    rw [checked_passes s.taken _ ((recordChecks_own (s := s.taken) hb hx hxm).trans (if_neg hs))]
    rfl
  have hwork : Engine.Within freeParts s.taken.eng g := freeRecord_within _ _
  obtain ⟨hdeliver, hlink⟩ := order_started h (code := 0x22) (o := .delete) rfl tag (congrArg (· + 2) hl) hrun hwork (by simp [freeParts])
  exact ⟨congrArg _ (hdeliver.trans rfl), hlink⟩

/-- A record freed whose body something else holds releases nothing and raises nothing. -/
theorem freeRecord_held_within {e : Engine} {r : Nat} {x : Record} (hx : e.record r = some x) {y : Body} (hy : e.body x.body = some y)
    (h : 1 < y.share ∨ 0 < (e.hold x.body).pins ∨ 0 < (e.hold x.body).readers) :
    Engine.Within [.lmp, .bodies, .writes, .records, .mailboxes, .counters, .sessions] e (e.freeRecord r) := by
  have hdetach := detachRecord_within e r x
  have hyd : (e.detachRecord r x).body x.body = some y := (congrArg (fun t => Tab.find? t x.body) (hdetach.keeps .bodies rfl)).trans hy
  have hhold : (e.detachRecord r x).hold x.body = e.hold x.body := congrArg (fun t => Tab.get BodyHold.zero t x.body) (hdetach.keeps .holds rfl)
  rw [freeRecord_eq hx, dropShare_held hyd (hhold ▸ h)]
  exact ((hdetach.mono rfl).step (modShare_within _ _ _) rfl).step (handAll_within _ _) rfl

theorem withClass_fields (k : Nat) (c : MailClass) (e : Engine) : (∀ j, (e.withClass k c).cls j = if j = k then c else e.cls j) ∧
    (e.withClass k c).asked = e.asked ++ [.cls k c] ∧ (e.withClass k c).catQueue = e.catQueue := by
  obtain ⟨hasked, hqueue⟩ := handAll_writes (e.classBoxes k) (e.put (.cls k c))
  refine ⟨fun j => ?_, hasked, hqueue⟩
  have hclasses : (e.withClass k c).tab.classes = (e.put (.cls k c)).tab.classes := (handAll_within _ _).keeps .classes rfl
  rw [Engine.cls, hclasses]
  exact cls_putCls e k c j

/-- Settles O30, part by part: the class, the handing of lamp inputs, the change of a lamp list, and the record freed. -/
theorem loadClassAndDeleteHandTheLampInputs : Obligations.LoadClassAndDeleteHandTheLampInputs := by
  refine ⟨fun s tag ps h hl => ⟨fun hk => ?_, fun hk => ?_⟩, fun e m h => handInputs_none h, fun e m b hb hf hn => ?_,
    fun l m old new ho hn => listChange_spec ho hn, fun s tag ps h hl => ?_⟩
  · exact congrArg _ (order_answered h (o := .loadClass) rfl tag (congrArg (· + 2) hl) (orderLoadClass_range s.taken hk))
  · have hexec := exec_loadClass h tag hl hk
    obtain ⟨hcls, hasked, hqueue⟩ := withClass_fields (num1 ps 0) (MailClass.read ps 1).clamped s.taken.eng
    have h1 := fun i => Nat.le_of_lt_succ (num1_lt ps i)
    have h2 := fun i => Nat.le_of_lt_succ (num2_lt ps i)
    refine ⟨_, (MailClass.read ps 1).clamped, hexec, hcls, clamp_top (h1 1), clamp_top (h2 2), rfl, clamp_zero _ _, rfl, rfl, rfl, clamp_zero _ _,
      clamp_zero _ _, ?_, clamp_zero _ _, ?_, ?_, clamp_zero _ _, clamp_zero _ _, ?_, ?_, concluded_answered _ _ _ s _, ?_⟩
    · exact (clamp_top (h1 13)).trans (Nat.zero_max _)
    · show min (clamp 0 3952 (num2 ps 16)) (clamp 0 3952 (num2 ps 14)) = _
      rw [clamp_zero, clamp_zero]
    · exact (clamp_top (h1 18)).trans (Nat.zero_max _)
    · exact (concluded_catQueue (hasked.trans (congrArg (· ++ _) (accepting_asked (s := s) h))) (by simp) _ _ _).trans (congrArg (· ++ _) hqueue)
    · exact handsInputs_of (e := s.taken.eng.put (.cls (num1 ps 0) (MailClass.read ps 1).clamped)) rfl (concluded_sameInputs tag .done _ _)
    · exact Engine.Within.keepsBut_of (concluded_within (accepting_handling h) (by simp)
        (withClass_within (num1 ps 0) (MailClass.read ps 1).clamped s.taken.eng) tag .done _) rfl (.inr rfl) (.inr rfl) rfl
  · intro p q moved joins l
    have hq : e.inputPattern m b = q := by
      show lampPattern _ _ _ _ (e.boxFull m) = lampPattern _ _ _ _ _
      rw [Bool.decide_or]
      rfl
    have hand := handInputs_eq hb hf
    rw [hq] at hand
    refine ⟨fun hpq => hand.trans (if_pos hpq), fun hpq => ?_⟩
    have hl : l = e.lmp.moved m p q b.fields.lamps := by
      show (e.handInputs m).lmp = _
      rw [hand, if_neg hpq]
    obtain ⟨hpatterns, hentry, hqueue, hrest⟩ := moved_spec hn m p q e.lmp
    rw [hand, if_neg hpq, hl]
    refine ⟨?_, hpatterns, hentry, hqueue⟩
    rw [← hrest]
  · intro m r
    have hrefuse : ∀ {rs : Result}, orderDelete ps s.taken = { result := rs, data := [], state := s.taken, waits := false } →
        exec (.delete tag ps) s = .next (s.withAnswer tag rs []) :=
      fun k => congrArg _ (order_answered h (o := .delete) rfl tag (congrArg (· + 2) hl) k)
    refine ⟨fun hbad => hrefuse (orderDelete_range s.taken hbad), fun hm hr => ⟨fun hno => ?_, fun hb x hx hxm => ⟨fun hrec => ?_, fun hrec => ?_⟩⟩⟩
    · exact hrefuse ((orderDelete_in_range s.taken hm hr).trans (checked_refused (recordChecks_noSuch (s := s.taken) hno)))
    · exact hrefuse ((orderDelete_in_range s.taken hm hr).trans
        (checked_refused ((recordChecks_own (s := s.taken) hb hx hxm).trans (if_pos hrec))))
    · obtain ⟨hexec, hlink⟩ := exec_delete h tag hl hm hr hb hx hxm hrec
      refine ⟨_, hexec, ?_, fun y hy hheld => ?_, started_answered hlink, ?_⟩
      · refine freesRecord_of (taken_content s) hx ?_ (started_content hlink)
        rw [accepting_service h]
        exact Service.noConfusion
      · exact (started_within (accepting_handling h) (by simp) (freeRecord_held_within (e := s.taken.eng) hx hy hheld) hlink).same s .flags (by simp)
      · exact Engine.Within.keepsBut_of (started_within (accepting_handling h) (by simp [freeParts]) (freeRecord_within s.taken.eng r) hlink) rfl
          (.inr rfl) (.inr rfl) rfl

end Sys2Proof.Machine

namespace Sys2Proof.Machine

/-! Proofs about section 10: the examinations of the sweep. -/

/-! ## What follows a command's own work -/

/-- Work that leaves the jobs, the store's queues and link, the service state and the receiver's side as they were. -/
def leavesTheRest (ps : List Part) : Bool := [Part.dle, .storeQueues, .link, .service, .channel].all (fun p => decide (p ∉ ps))

theorem not_mem_of_leaves {ps : List Part} (h : leavesTheRest ps = true) {p : Part} (hp : p ∈ [Part.dle, .storeQueues, .link, .service, .channel]) :
    decide (p ∈ ps) = false := by
  have := List.all_eq_true.1 h p hp
  simpa using this

section Finish
variable {s t : State} {ps : List Part} (h : s.calm) (k : Engine.Within ps s.eng t.eng) (hps : leavesTheRest ps = true)
include h k hps

theorem calm_due : t.eng.dle.due = none := by
  have hd : t.eng.dle = s.eng.dle := k.keeps .dle (not_mem_of_leaves hps (by simp))
  rw [hd]
  exact h.1.2.1

theorem calm_inbox : t.eng.mgc.inbox = [] := by
  obtain ⟨-, hi, -, -⟩ := k.keeps .channel (not_mem_of_leaves hps (by simp))
  exact hi.trans h.2

omit h in
theorem calm_linkFree : t.eng.linkFree = s.eng.linkFree := by
  obtain ⟨-, -, -, hr⟩ := k.keeps .channel (not_mem_of_leaves hps (by simp))
  obtain ⟨hs, -, -⟩ := k.keeps .service (not_mem_of_leaves hps (by simp))
  obtain ⟨hl, -⟩ := k.keeps .link (not_mem_of_leaves hps (by simp))
  have hs' : t.eng.ssc.service = s.eng.ssc.service := hs
  have hl' : t.eng.ssc.link = s.eng.ssc.link := hl
  have hr' : t.eng.mgc.restart = s.eng.mgc.restart := hr
  rw [Engine.linkFree, Engine.linkFree, Engine.halted, Engine.halted, hs', hl', hr']

theorem calm_queues : t.eng.linkFree = false ∨ (t.eng.ssc.progQueue = [] ∧ t.eng.ssc.readQueue = []) := by
  obtain ⟨hr, hp⟩ := k.keeps .storeQueues (not_mem_of_leaves hps (by simp))
  have hr' : t.eng.ssc.readQueue = s.eng.ssc.readQueue := hr
  have hp' : t.eng.ssc.progQueue = s.eng.ssc.progQueue := hp
  rw [calm_linkFree k hps, hr', hp']
  exact h.1.2.2.imp id (fun x => ⟨x.1, x.2.1⟩)

/-- Behind work on the pool the writes become one sequence, and the arbiter chooses an erase or nothing (R77, R80). -/
theorem finish_started : t.finish = t.onEng (fun e => (e.flush .nothing).startNext) ∧
    Engine.Within [.link] (t.eng.flush .nothing) (t.eng.flush .nothing).startNext := by
  refine ⟨?_, startNext_within ?_⟩
  · rw [finish_settle (calm_inbox h k hps), State.onEng, settle_quiet (calm_due h k hps) ((calm_queues h k hps).imp id (fun x => x.1))]
    rfl
  · rw [flush_linkFree, flush_ssc]
    exact (calm_queues h k hps).imp id (fun x => x.2)

/-- Behind work that leaves the pool as it was, the writes become one sequence and nothing more. -/
theorem finish_written (hpool : decide (Part.pool ∈ ps) = false) : t.finish = t.onEng (Engine.flush .nothing) := by
  obtain ⟨hr, hp⟩ := k.keeps .storeQueues (not_mem_of_leaves hps (by simp))
  obtain ⟨-, he, -⟩ := k.keeps .pool hpool
  have hr' : t.eng.ssc.readQueue = s.eng.ssc.readQueue := hr
  have hp' : t.eng.ssc.progQueue = s.eng.ssc.progQueue := hp
  have he' : t.eng.ssc.eraseQueue = s.eng.ssc.eraseQueue := he
  rw [finish_settle (calm_inbox h k hps), State.onEng, settle_still (calm_due h k hps)]
  · rfl
  · rw [calm_linkFree k hps, hr', hp', he']
    exact h.1.2.2

/-- Behind work that asks for no write either, nothing follows. -/
theorem finish_nothing (hpool : decide (Part.pool ∈ ps) = false) (hw : decide (Part.writes ∈ ps) = false) : t.finish = t := by
  obtain ⟨-, ha⟩ := k.keeps .writes hw
  have ha' : t.eng.asked = [] := Eq.trans ha h.1.1
  rw [finish_written h k hps hpool, State.onEng, flush_none ha']

end Finish

theorem flush_content (t : Then) (e : Engine) : e.SameContent (e.flush t) := by
  unfold Engine.flush
  (repeat' split) <;> exact ⟨rfl, rfl, rfl, rfl, rfl, rfl, rfl, rfl, rfl⟩

theorem raise_content (k : NoticeKind) (d : List Byte) (e : Engine) : e.SameContent (e.raise k d) := ⟨rfl, rfl, rfl, rfl, rfl, rfl, rfl, rfl, rfl⟩

/-! ## One examination (R194) -/

/-- What the entry at the pointer brings: the part after, and what the deleted and the stamped counts grow by. -/
def State.examined (s : State) : Engine × Nat × Nat := s.eng.examineEntry s.cal.sweep.pointer s.cal.dayNumber

/-- The sweep's fields after an examination. -/
def State.sweptTo (s : State) : Sweep :=
  { s.cal.sweep with running := decide (s.cal.sweep.pointer + 1 ≠ 32768), pointer := s.cal.sweep.pointer + 1,
                     deleted := s.cal.sweep.deleted + s.examined.2.1, stamped := s.cal.sweep.stamped + s.examined.2.2 }

theorem examination_invalid {s : State} (h : s.cal.valid = false) : s.examination = s.endSweep 1 := by
  unfold State.examination
  rw [if_pos (by rw [h]; rfl)]

/-- An examination of a running sweep under a valid clock: its counts and its pointer, and SWEEP_DONE past the last entry. -/
theorem examination_valid {s : State} (h : s.cal.valid = true) (hr : s.cal.sweep.running = true) :
    s.examination.cal = { s.cal with sweep := s.sweptTo } ∧ s.examination.hwi = s.hwi ∧ s.examination.pending = s.pending ∧
      Engine.Within [.outbox, .flags] s.examined.1 s.examination.eng ∧ s.examined.1.SameContent s.examination.eng ∧
      (s.cal.sweep.pointer + 1 = 32768 → s.examination.flagged .sweepDone) := by
  unfold State.examination
  rw [if_neg (by rw [h]; decide)]
  dsimp only
  by_cases hp : s.cal.sweep.pointer + 1 = Config.records
  · rw [if_pos hp]
    refine ⟨?_, rfl, rfl, raise_within _ _ _, raise_content _ _ _, fun _ => raise_flagged _ _ _⟩
    have hp' : s.cal.sweep.pointer + 1 = 32768 := hp
    show ({ s.cal with sweep := _ } : Cal) = { s.cal with sweep := s.sweptTo }
    unfold State.sweptTo
    rw [decide_eq_false (not_not.2 hp')]
    rfl
  · rw [if_neg hp]
    refine ⟨?_, rfl, rfl, .refl _ _, .refl _, fun k => absurd k hp⟩
    have hp' : s.cal.sweep.pointer + 1 ≠ 32768 := hp
    show ({ s.cal with sweep := _ } : Cal) = { s.cal with sweep := s.sweptTo }
    unfold State.sweptTo
    rw [decide_eq_true hp', ← hr]
    rfl

theorem examineEntry_passes {e : Engine} {r today : Nat} (h : e.record r = none ∨ ∃ x, e.record r = some x ∧ (x.state = .recording ∨ x.state = .new)) :
    e.examineEntry r today = (e, 0, 0) := by
  unfold Engine.examineEntry
  rcases h with h | ⟨x, hx, hs⟩
  · rw [h]
  · rw [hx]
    dsimp only
    rcases hs with hs | hs <;> rw [hs] <;> rfl

section
variable {e : Engine} {r today : Nat} {x : Record} (hx : e.record r = some x) (hs : x.state = .heard ∨ x.state = .saved)
include hx hs

theorem examineEntry_stamps (hd : x.heardDay = none) :
    e.examineEntry r today = (e.put (.record r (some { x with heardDay := some today })), 0, 1) := by
  unfold Engine.examineEntry
  rw [hx]
  dsimp only
  rw [if_pos (by simpa using hs), hd]

theorem examineEntry_judges {d : Nat} (hd : x.heardDay = some d) :
    e.examineEntry r today = if e.expired x d today = true then (e.freeRecord r, 1, 0) else (e, 0, 0) := by
  unfold Engine.examineEntry
  rw [hx]
  dsimp only
  rw [if_pos (by simpa using hs), hd]

end

theorem exec_sweepExamination {s : State} (hs : s.eng.ssc.service = .service) (hr : s.eng.mgc.restart ≠ .due) (hrun : s.cal.sweep.running = true) :
    exec .sweepExamination s = .next s.examination.finish := by
  show Host.Outcome.next (if s.cal.sweep.running && s.eng.serving then s.examination else s).finish = _
  have hserving : s.eng.serving = true := by simp [Engine.serving, Engine.halted, hs, hr]
  rw [if_pos (by rw [hrun, hserving]; rfl)]

/-! ## The table's rows -/

section Valid
variable {s : State} (hcalm : s.calm) (hv : s.cal.valid = true) (hr : s.cal.sweep.running = true)
include hv hr

/-- An examination under a valid clock changes what its entry's row changes, the sweep, and the notices. -/
theorem examination_within {ps qs : List Part} (h : Engine.Within ps s.eng s.examined.1) (hsub : partsIn (.outbox :: .flags :: ps) qs = true) :
    Engine.Within qs s.eng s.examination.eng := by
  obtain ⟨-, -, -, k, -, -⟩ := examination_valid hv hr
  rw [partsIn, List.all_cons, List.all_cons, Bool.and_eq_true, Bool.and_eq_true] at hsub
  obtain ⟨ho, hf, hps⟩ := hsub
  exact (h.mono hps).step k (by rw [partsIn, List.all_cons, List.all_cons, ho, hf]; rfl)

theorem examination_keepsBut {ps : List Part} {f : Engine → Engine} (h : Engine.Within ps s.eng (f s.examination.eng)) {qs : List Part}
    (hsub : partsIn ps qs = true) (hc : Part.cal ∈ qs) (ht : s.examination.finish = s.examination.onEng f) : s.keepsBut qs s.examination.finish := by
  obtain ⟨-, hhwi, hpending, -, -, -⟩ := examination_valid hv hr
  rw [ht]
  exact h.keepsBut_of hsub (.inr hhwi) (.inl hc) hpending

include hcalm

/-- What follows any examination. -/
theorem examination_started : s.examination.finish = s.examination.onEng (fun e => (e.flush .nothing).startNext) ∧
    Engine.Within [.link] (s.examination.eng.flush .nothing) (s.examination.eng.flush .nothing).startNext :=
  finish_started hcalm (examination_within hv hr (examineEntry_within _ _ _) (qs := freeParts) rfl) rfl

theorem examination_finish_cal : s.examination.finish.cal = { s.cal with sweep := s.sweptTo } := by
  obtain ⟨hcal, -⟩ := examination_valid hv hr
  rw [(examination_started hcalm hv hr).1]
  exact hcal

theorem examination_counts {e : Engine} {del stamp : Nat} (h : s.examined = (e, del, stamp)) :
    s.examination.finish.cal.sweep.deleted = s.cal.sweep.deleted + del ∧ s.examination.finish.cal.sweep.stamped = s.cal.sweep.stamped + stamp := by
  rw [examination_finish_cal hcalm hv hr]
  exact ⟨congrArg (fun z : Engine × Nat × Nat => s.cal.sweep.deleted + z.2.1) h, congrArg (fun z : Engine × Nat × Nat => s.cal.sweep.stamped + z.2.2) h⟩

theorem examination_finish_flagged (h : s.cal.sweep.pointer + 1 = 32768) : s.examination.finish.flagged .sweepDone := by
  obtain ⟨-, -, -, -, -, hflag⟩ := examination_valid hv hr
  obtain ⟨hfinish, hlink⟩ := examination_started hcalm hv hr
  have hflags : s.examination.finish.eng.mgc.flags = s.examination.eng.mgc.flags := by
    rw [hfinish]
    exact (((flush_within _ _).mono rfl).step (ps := [.writes, .link]) hlink rfl).keeps .flags rfl |>.1
  rw [State.flagged, hflags]
  exact hflag h

/-- A row that leaves the entry as it was. -/
theorem examination_kept (h : s.examined = (s.eng, 0, 0)) : s.examination.finish.cal.sweep.deleted = s.cal.sweep.deleted ∧
    s.examination.finish.cal.sweep.stamped = s.cal.sweep.stamped ∧ s.keepsBut [.cal, .outbox, .flags] s.examination.finish := by
  have hwithin : Engine.Within [.outbox, .flags] s.eng s.examination.eng :=
    examination_within hv hr (ps := []) (by rw [h]; exact .refl _ _) rfl
  obtain ⟨hdeleted, hstamped⟩ := examination_counts hcalm hv hr h
  exact ⟨hdeleted, hstamped,
    examination_keepsBut hv hr (f := id) (ps := [.outbox, .flags]) hwithin rfl (by simp) (finish_nothing hcalm hwithin rfl rfl rfl)⟩

/-- The row of a record with no heard day: a stamp. -/
theorem examination_stamped {x : Record} (hx : s.eng.record s.cal.sweep.pointer = some x) (hs : x.state = .heard ∨ x.state = .saved)
    (hd : x.heardDay = none) : s.examination.finish.eng.record s.cal.sweep.pointer = some { x with heardDay := some s.cal.dayNumber } ∧
    s.examination.finish.cal.sweep.stamped = s.cal.sweep.stamped + 1 ∧ s.examination.finish.cal.sweep.deleted = s.cal.sweep.deleted ∧
    s.keepsBut [.cal, .outbox, .flags, .records, .writes] s.examination.finish := by
  have h : s.examined = _ := examineEntry_stamps hx hs hd
  have hput : Engine.Within [.records, .writes] s.eng s.examined.1 := by
    rw [h]
    exact (put_within _ _).mono rfl
  have hwithin : Engine.Within [.outbox, .flags, .records, .writes] s.eng s.examination.eng := examination_within hv hr hput rfl
  have hfinish := finish_written hcalm hwithin rfl rfl
  obtain ⟨hdeleted, hstamped⟩ := examination_counts hcalm hv hr h
  refine ⟨?_, hstamped, hdeleted, examination_keepsBut hv hr (hwithin.step (flush_within _ .nothing) rfl) rfl (by simp) hfinish⟩
  obtain ⟨-, -, -, -, hsame, -⟩ := examination_valid hv hr
  rw [hfinish]
  refine ((hsame.trans (flush_content .nothing _)).record _).trans ?_
  rw [h]
  exact (record_putRecord _ _ _ _).trans (if_pos rfl)

/-- The row of a record past its retention: freed (R133). -/
theorem examination_freed (hf : s.eng.ssc.service ≠ .frozen) {x : Record} (hx : s.eng.record s.cal.sweep.pointer = some x)
    (h : s.examined = (s.eng.freeRecord s.cal.sweep.pointer, 1, 0)) : s.freesRecord s.examination.finish s.cal.sweep.pointer x ∧
    s.examination.finish.cal.sweep.deleted = s.cal.sweep.deleted + 1 ∧ s.examination.finish.cal.sweep.stamped = s.cal.sweep.stamped ∧
    s.keepsBut [.cal, .sessions, .pool, .link, .holds, .counters, .lmp, .outbox, .flags, .segments, .bodies, .mailboxes, .records, .writes]
      s.examination.finish := by
  obtain ⟨-, -, -, -, hsame, -⟩ := examination_valid hv hr
  obtain ⟨hfinish, hlink⟩ := examination_started hcalm hv hr
  have hwithin : Engine.Within freeParts s.eng s.examination.eng := examination_within hv hr (examineEntry_within _ _ _) rfl
  obtain ⟨hdeleted, hstamped⟩ := examination_counts hcalm hv hr h
  refine ⟨freesRecord_of (.refl _) hx hf ?_, hdeleted, hstamped, examination_keepsBut hv hr (ps := .link :: freeParts)
    (((hwithin.mono rfl).step (flush_within _ .nothing) rfl).step hlink rfl) rfl (by simp) hfinish⟩
  rw [h] at hsame
  rw [hfinish]
  exact hsame.trans ((flush_content .nothing _).trans (startNext_content hlink))

end Valid

/-- A clock gone invalid ends the sweep (R196). -/
theorem examination_ended {s : State} (hcalm : s.calm) (hv : s.cal.valid = false) : s.examination.finish = s.endSweep 1 := by
  rw [examination_invalid hv]
  have hraise : Engine.Within [.outbox, .flags] s.eng (s.endSweep 1).eng := raise_within _ _ _
  exact finish_nothing hcalm hraise rfl rfl rfl

theorem expired_iff (e : Engine) (x : Record) (d today : Nat) : e.expired x d today = true ↔
    0 < (if x.state = .saved then (e.boxClass x.mailbox).savedRetention else (e.boxClass x.mailbox).heardRetention) ∧
      d + (if x.state = .saved then (e.boxClass x.mailbox).savedRetention else (e.boxClass x.mailbox).heardRetention) < today := by
  unfold Engine.expired
  rw [Bool.and_eq_true, decide_eq_true_iff, decide_eq_true_iff]

/-- Settles O28, row by row. -/
theorem examinationsFollowTheTable : Obligations.ExaminationsFollowTheTable := by
  intro s hcalm hs hrestart hr p today
  have hf : s.eng.ssc.service ≠ .frozen := by
    rw [hs]
    exact Service.noConfusion
  refine ⟨_, exec_sweepExamination hs hrestart hr, fun hv => ?_, fun hv => ⟨examination_finish_flagged hcalm hv hr, ?_⟩,
    fun hv hp => examination_kept hcalm hv hr (examineEntry_passes hp), fun hv x hx hst hd => examination_stamped hcalm hv hr hx hst hd,
    fun hv x d hx hst hd => ⟨fun hold => ?_, fun hyoung => ?_⟩⟩
  · rw [examination_ended hcalm hv]
    have hraise : Engine.Within [.outbox, .flags] s.eng (s.endSweep 1).eng := raise_within _ _ _
    exact ⟨rfl, raise_flagged _ _ _, hraise.keepsBut_of rfl (.inr rfl) (.inl (by simp)) rfl⟩
  · rw [examination_finish_cal hcalm hv hr]
    rfl
  · exact examination_freed hcalm hv hr hf hx ((examineEntry_judges hx hst hd).trans (if_pos ((expired_iff _ _ _ _).2 hold)))
  · exact examination_kept hcalm hv hr ((examineEntry_judges hx hst hd).trans (if_neg fun k => hyoung ((expired_iff _ _ _ _).1 k)))

end Sys2Proof.Machine

namespace Sys2Proof.Machine

/-! Proofs about sections 6 and 7: PURGE, and the greeting orders. -/

/-! ## Records freed one after another, no lamp inputs handed (R133, R135) -/

/-- What the freeing of records changes before the lamp inputs are handed. -/
def quietParts : List Part := [.sessions, .pool, .holds, .counters, .outbox, .flags, .segments, .bodies, .mailboxes, .records, .writes]

theorem freeRecordQuietly_quiet (e : Engine) (r : Nat) : Engine.Within quietParts e (e.freeRecordQuietly r) := by
  unfold Engine.freeRecordQuietly
  split
  · exact .refl _ _
  · exact ((detachRecord_within e r _).mono (qs := quietParts) rfl).step (dropShare_within _ _) rfl

theorem freeBox_quiet (e : Engine) (m : Nat) : Engine.Within quietParts e (e.freeBox m) := .foldl (fun e r => freeRecordQuietly_quiet e r) _ e

/-- A record freed leaves its entry free, and every entry that was free. -/
theorem freeRecordQuietly_free (e : Engine) (r q : Nat) (h : q = r ∨ e.record q = none) : (e.freeRecordQuietly r).record q = none := by
  unfold Engine.freeRecordQuietly
  cases hx : e.record r with
  | none =>
    rcases h with rfl | h
    · exact hx
    · exact h
  | some x =>
    refine (record_congr ((dropShare_within _ _).keeps .records rfl) q).trans ?_
    rw [detachRecord_record, unlinkRecord_record]
    rcases h with rfl | h
    · rw [if_pos rfl]
    · rw [h, Option.map_none, ite_self]

theorem freeRecords_free : ∀ (rs : List Nat) (e : Engine) (q : Nat), (q ∈ rs ∨ e.record q = none) →
    (rs.foldl (fun e r => e.freeRecordQuietly r) e).record q = none
  | [], _, _, h => h.resolve_left List.not_mem_nil
  | r :: rs, e, q, h => freeRecords_free rs _ q (by
      rcases h with h | h
      · rcases List.mem_cons.1 h with rfl | h
        · exact .inr (freeRecordQuietly_free e q q (.inl rfl))
        · exact .inl h
      · exact .inr (freeRecordQuietly_free e r q (.inr h)))

/-! ## Slots emptied (R149, R150) -/

theorem dropShare_slot (e : Engine) (b n : Nat) (h : GreetingKind) : (e.dropShare b).slot n h = e.slot n h :=
  congrArg (fun t => Tab.get Slot.empty t (slotKey n h)) ((dropShare_within e b).keeps .greetings rfl)

theorem emptySlot_slot (e : Engine) (m : Nat) (g : GreetingKind) (n : Nat) (h : GreetingKind) :
    (e.emptySlot m g).slot n h = if n = m ∧ h = g then { e.slot m g with held := none } else e.slot n h := by
  unfold Engine.emptySlot
  dsimp only
  split
  next hheld =>
    split
    next hk =>
      obtain ⟨rfl, rfl⟩ := hk
      rw [← hheld]
    next => rfl
  next => rw [dropShare_slot, slot_putSlot]

theorem emptySlots_held (e : Engine) (m : Nat) (g : GreetingKind) : ((e.emptySlots m).slot m g).held = none := by
  unfold Engine.emptySlots GreetingKind.all
  simp only [List.foldl_cons, List.foldl_nil, emptySlot_slot]
  cases g <;> rfl

/-! ## An accepted order whose work may leave an erase to start -/

theorem order_startedAs {s : State} (h : s.accepting) {code : Byte} {o : Order} (ho : Order.ofCode code = some o) (tag : Byte) {ps : List Byte}
    (hl : ps.length + 2 = o.bodyLength) {r : Result} {d : List Byte} {e : Engine}
    (hr : o.run ps s.taken = { result := r, data := d, state := { s.taken with eng := e }, waits := false }) {qs : List Part}
    (k : Engine.Within qs s.taken.eng e)
    (hq : Part.dle ∉ qs ∧ Part.storeQueues ∉ qs ∧ Part.link ∉ qs ∧ Part.service ∉ qs ∧ Part.channel ∉ qs) :
    s.deliverOrder code tag ps = s.startedAs e tag r d ∧ Engine.Within [.link] (e.concluded tag r d) (e.concluded tag r d).startNext := by
  obtain ⟨hdeliver, hlink⟩ := order_started h ho tag hl hr k hq
  exact ⟨hdeliver.trans rfl, hlink⟩

/-! ## PURGE (R135) -/

section
variable {m : Nat} {s : State} {rest : List (Bool × Result)}

theorem boxChecks_range (h : 4096 ≤ m) : firstRefusal (boxRange m :: rest) = some .badField := firstRefusal_stop (decide_eq_true h)

theorem boxChecks_noSuch (hm : m < 4096) (hb : s.eng.mailbox m = none) : firstRefusal (boxRange m :: boxLoaded m s :: rest) = some .noSuch :=
  (firstRefusal_pass (decide_eq_false (Nat.not_le.2 hm))).trans (firstRefusal_stop (boxLoaded_unloaded hb))

theorem boxChecks_pass (hm : m < 4096) (hb : s.eng.mailbox m ≠ none) : firstRefusal (boxRange m :: boxLoaded m s :: rest) = firstRefusal rest :=
  (firstRefusal_pass (decide_eq_false (Nat.not_le.2 hm))).trans (firstRefusal_pass (boxLoaded_loaded hb))

end

theorem mem_greetingAll (g : GreetingKind) : g ∈ GreetingKind.all := by cases g <;> simp [GreetingKind.all]

theorem jobWriting_iff (e : Engine) (m : Nat) : e.jobWriting m = true ↔ ∃ j q, e.dle.queue = j :: q ∧ j.current = some m := by
  unfold Engine.jobWriting
  cases e.dle.queue <;> simp

theorem purgeBusy_iff (e : Engine) (m : Nat) : e.purgeBusy m = true ↔
    (∃ r ∈ e.boxList m, ∃ x, e.record r = some x ∧ x.state = .recording) ∨ (∃ g, (e.slot m g).staged ≠ none) ∨
      ∃ j q, e.dle.queue = j :: q ∧ j.current = some m := by
  unfold Engine.purgeBusy
  rw [Bool.or_eq_true, Bool.or_eq_true, jobWriting_iff, List.any_eq_true, List.any_eq_true, or_assoc]
  refine or_congr ?_ (or_congr ?_ .rfl)
  · simp only [Option.any_eq_true, decide_eq_true_eq]
  · simp only [mem_greetingAll, true_and, Slot.busy, Option.isSome_iff_ne_none]

theorem purgeBusy_taken (s : State) (m : Nat) : s.taken.eng.purgeBusy m = s.eng.purgeBusy m := by
  have hlist : s.taken.eng.boxList m = s.eng.boxList m := boxList_congr (e := s.eng) (g := s.taken.eng) rfl rfl m
  unfold Engine.purgeBusy
  rw [hlist]
  rfl

/-- What a PURGE changes. -/
def purgeParts : List Part := [.sessions, .pool, .holds, .counters, .lmp, .outbox, .flags, .segments, .bodies, .mailboxes, .records, .greetings, .writes]

theorem purgeBox_within (e : Engine) (m : Nat) : Engine.Within purgeParts e (e.purgeBox m) :=
  (((freeBox_quiet e m).mono (qs := purgeParts) rfl).step (handInputs_within _ _) rfl).step (emptySlots_within _ _) rfl

theorem purgeBox_free {e : Engine} {m r : Nat} (h : r ∈ e.boxList m) : (e.purgeBox m).record r = none := by
  have hlate : Engine.Within (.lmp :: slotParts) (e.freeBox m) (e.purgeBox m) :=
    ((handInputs_within (e.freeBox m) m).mono rfl).step (emptySlots_within _ _) rfl
  exact (record_congr (hlate.keeps .records rfl) r).trans (freeRecords_free _ e r (.inl h))

section Purge
variable {s : State} {ps : List Byte}

theorem orderPurge_refused {r : Result} {s : State}
    (h : firstRefusal [boxRange (num2 ps 0), boxLoaded (num2 ps 0) s, (s.eng.purgeBusy (num2 ps 0), .busy)] = some r) :
    orderPurge ps s = { result := r, data := [], state := s, waits := false } := checked_refused h

theorem orderPurge_done {s : State} (hm : num2 ps 0 < 4096) (hb : s.eng.mailbox (num2 ps 0) ≠ none) (h : s.eng.purgeBusy (num2 ps 0) = false) :
    orderPurge ps s = { result := .done, data := [], state := s.onEng (fun e => e.purgeBox (num2 ps 0)), waits := false } :=
  checked_passes s _ ((boxChecks_pass hm hb).trans (firstRefusal_pass (c := (s.eng.purgeBusy (num2 ps 0), .busy)) (cs := []) h))

variable (h : s.accepting) (tag : Byte) (hl : ps.length = 2)
include h hl

theorem exec_purge_refused {r : Result}
    (k : firstRefusal [boxRange (num2 ps 0), boxLoaded (num2 ps 0) s.taken, (s.taken.eng.purgeBusy (num2 ps 0), .busy)] = some r) :
    exec (.purge tag ps) s = .next (s.withAnswer tag r []) :=
  congrArg _ (order_answered h (o := .purge) rfl tag (congrArg (· + 2) hl) (orderPurge_refused k))

theorem exec_purge (hm : num2 ps 0 < 4096) (hb : s.eng.mailbox (num2 ps 0) ≠ none) (hfree : s.eng.purgeBusy (num2 ps 0) = false) :
    exec (.purge tag ps) s = .next (s.startedAs (s.taken.eng.purgeBox (num2 ps 0)) tag .done []) ∧
      Engine.Within [.link] ((s.taken.eng.purgeBox (num2 ps 0)).concluded tag .done [])
        ((s.taken.eng.purgeBox (num2 ps 0)).concluded tag .done []).startNext := by
  obtain ⟨hdeliver, hlink⟩ := order_startedAs h (code := 0x23) (o := .purge) rfl tag (congrArg (· + 2) hl)
    (orderPurge_done (s := s.taken) hm hb ((purgeBusy_taken s _).trans hfree)) (purgeBox_within s.taken.eng (num2 ps 0)) (by simp [purgeParts])
  exact ⟨congrArg _ hdeliver, hlink⟩

end Purge

theorem purgeBox_inputs (e : Engine) (m : Nat) : ((e.freeBox m).handAll [m]).SameInputs (e.purgeBox m) :=
  .of_within (emptySlots_within _ m) (by simp [slotParts]) (by simp [slotParts]) (by simp [slotParts]) (by simp [slotParts]) (by simp [slotParts])

/-- What a PURGE leaves, its answer placed and an erase perhaps started. -/
theorem purged {s : State} (h : s.accepting) {m : Nat} {tag : Byte} {g : Engine} (hwork : Engine.Within purgeParts s.taken.eng g)
    (hlink : Engine.Within [.link] (g.concluded tag .done []) (g.concluded tag .done []).startNext)
    (hgone : ∀ r ∈ s.eng.boxList m, g.record r = none) (hheld : ∀ k, (g.slot m k).held = none) (hinputs : ((s.taken.eng.freeBox m).handAll [m]).SameInputs g) :
    (∀ r ∈ s.eng.boxList m, (s.startedAs g tag .done []).eng.record r = none) ∧ (∀ k, ((s.startedAs g tag .done []).eng.slot m k).held = none) ∧
      s.handsInputs [m] (s.startedAs g tag .done []) ∧ (s.startedAs g tag .done []).answered tag .done [] ∧
      s.keepsBut [.sessions, .pool, .link, .holds, .counters, .lmp, .outbox, .flags, .segments, .bodies, .mailboxes, .records, .greetings, .writes]
        (s.startedAs g tag .done []) := by
  have hsame : g.SameContent (s.startedAs g tag .done []).eng := started_content hlink
  refine ⟨fun r hr => (hsame.record r).trans (hgone r hr), fun k => ?_, ?_, started_answered hlink,
    (started_within (accepting_handling h) (by simp [purgeParts]) hwork hlink).keepsBut_of rfl (.inr rfl) (.inr rfl) rfl⟩
  · exact (congrArg (fun t : Catalogue => (Tab.get Slot.empty t.slots (slotKey m k)).held) hsame.tab).trans (hheld k)
  · exact handsInputs_of (e := s.taken.eng.freeBox m) ((freeBox_quiet s.taken.eng m).keeps .lmp rfl) (hinputs.trans hsame.inputs)

/-- Settles O37: the records freed head first, the lamp inputs handed once, and the slots emptied. -/
theorem purgeEmptiesTheMailbox : Obligations.PurgeEmptiesTheMailbox := by
  intro s tag ps h hl m busy
  have hbusy : s.taken.eng.purgeBusy m = true ↔ busy := by
    rw [purgeBusy_taken]
    exact purgeBusy_iff _ _
  refine ⟨fun hm => exec_purge_refused h tag hl (boxChecks_range hm), fun hm hb => exec_purge_refused h tag hl (boxChecks_noSuch (s := s.taken) hm hb),
    fun hm hb k => exec_purge_refused h tag hl ((boxChecks_pass (s := s.taken) hm hb).trans (firstRefusal_stop (hbusy.2 k))), fun hm hb k => ?_⟩
  have hfree : s.eng.purgeBusy m = false := (purgeBusy_taken s m).symm.trans (Bool.eq_false_iff.2 fun hk => k (hbusy.1 hk))
  have hwork : Engine.Within purgeParts s.taken.eng (s.taken.eng.purgeBox m) := purgeBox_within _ m
  have hheld := emptySlots_held ((s.taken.eng.freeBox m).handInputs m) m
  have hgone : ∀ r ∈ s.eng.boxList m, (s.taken.eng.purgeBox m).record r = none := fun r hr =>
    have hlist : s.taken.eng.boxList m = s.eng.boxList m := boxList_congr (e := s.eng) (g := s.taken.eng) rfl rfl m
    purgeBox_free (hlist ▸ hr)
  have hinputs := purgeBox_inputs s.taken.eng m
  obtain ⟨hexec, hlink⟩ := exec_purge h tag hl hm hb hfree
  generalize hg : s.taken.eng.purgeBox m = g at *
  exact ⟨_, hexec, purged h hwork hlink hgone (hg ▸ hheld) hinputs⟩

end Sys2Proof.Machine

namespace Sys2Proof.Machine

/-! Proofs about section 7: SELECT GREETING and ERASE GREETING. -/

/-! ## The active greeting (R147) -/

theorem setActive_within (m : Nat) (g : GreetingKind) (e : Engine) : Engine.Within [.mailboxes, .writes] e (e.setActive m g) := by
  unfold Engine.setActive
  split
  · exact .refl _ _
  · split
    · exact .refl _ _
    · exact (put_within _ _).mono rfl

theorem setActive_mailbox {m : Nat} {b : Mailbox} {e : Engine} (hb : e.mailbox m = some b) (g : GreetingKind) (n : Nat) :
    (e.setActive m g).mailbox n = if n = m then some { b with fields := { b.fields with active := g } } else e.mailbox n := by
  unfold Engine.setActive
  rw [hb]
  dsimp only
  by_cases hg : b.fields.active = g
  · rw [if_pos hg, ← hg]
    by_cases hn : n = m
    · rw [if_pos hn, hn, hb]
    · rw [if_neg hn]
  · rw [if_neg hg, mailbox_putBoxFields, hb]
    rfl

/-! ## The checks of the two orders -/

section Checks
variable {s : State} {ps : List Byte} {m : Nat} {top : Nat} {rest : List (Bool × Result)}

theorem greetingChecks_range (h : 4096 ≤ m ∨ top < num1 ps 2) :
    firstRefusal ((decide (Config.mailboxes ≤ m) || decide (top < num1 ps 2), .badField) :: rest) = some .badField :=
  firstRefusal_stop (by rcases h with h | h <;> simp [h])

theorem greetingChecks_in_range (hm : m < 4096) (hg : num1 ps 2 ≤ top) :
    firstRefusal ((decide (Config.mailboxes ≤ m) || decide (top < num1 ps 2), .badField) :: rest) = firstRefusal rest :=
  firstRefusal_pass (by simp [hm, hg])

theorem greetingChecks_noSuch (hm : m < 4096) (hg : num1 ps 2 ≤ top) (hb : s.eng.mailbox m = none) :
    firstRefusal ((decide (Config.mailboxes ≤ m) || decide (top < num1 ps 2), .badField) :: boxLoaded m s :: rest) = some .noSuch :=
  (greetingChecks_in_range hm hg).trans (firstRefusal_stop (boxLoaded_unloaded hb))

theorem greetingChecks_pass (hm : m < 4096) (hg : num1 ps 2 ≤ top) (hb : s.eng.mailbox m ≠ none) :
    firstRefusal ((decide (Config.mailboxes ≤ m) || decide (top < num1 ps 2), .badField) :: boxLoaded m s :: rest) = firstRefusal rest :=
  (greetingChecks_in_range hm hg).trans (firstRefusal_pass (boxLoaded_loaded hb))

end Checks

/-- What SELECT GREETING answers. -/
def Engine.greetingBytes (m : Nat) (g : GreetingKind) (e : Engine) : List Byte :=
  be1 g.code ++ e.slotBytes m .standard ++ e.slotBytes m .busy ++ e.slotBytes m .absent ++ e.slotBytes m .name

theorem greetingBytes_eq (m : Nat) (g : GreetingKind) (e : Engine) :
    be1 g.code ++ GreetingKind.all.flatMap (fun k => e.slotBytes m k) = e.greetingBytes m g := by
  simp [GreetingKind.all, Engine.greetingBytes]

section Orders
variable {s : State} (h : s.accepting) (tag : Byte) {ps : List Byte} (hl : ps.length = 3)
include h hl

/-! ## SELECT GREETING -/

theorem exec_selectGreeting_refused {r : Result} (k : firstRefusal
    [(decide (Config.mailboxes ≤ num2 ps 0) || decide (2 < num1 ps 2), .badField), boxLoaded (num2 ps 0) s.taken] = some r) :
    exec (.selectGreeting tag ps) s = .next (s.withAnswer tag r []) :=
  congrArg _ (order_answered h (o := .selectGreeting) rfl tag (congrArg (· + 2) hl) (checked_refused k))

theorem exec_selectGreeting {m : Nat} (hm : num2 ps 0 = m) (hr : m < 4096) (hb : s.eng.mailbox m ≠ none) {g : GreetingKind} (hg : g.code = num1 ps 2)
    (hn : g ≠ .name) : exec (.selectGreeting tag ps) s =
      .next { s with eng := (s.taken.eng.setActive m g).concluded tag .done (s.eng.greetingBytes m g) } := by
  have hcode : num1 ps 2 ≤ 2 := hg ▸ Nat.le_of_not_lt fun k => hn (greeting_eq_name.2 k)
  have hofCode : GreetingKind.ofCode (num1 ps 2) = some g := hg ▸ greeting_ofCode_code g
  have hrun : Order.run .selectGreeting ps s.taken =
      { result := .done, data := s.taken.eng.greetingBytes m g, state := { s.taken with eng := s.taken.eng.setActive m g }, waits := false } := by
    rw [← greetingBytes_eq]
    show orderSelectGreeting ps s.taken = _
    unfold orderSelectGreeting
    rw [hofCode, hm]
    exact checked_passes s.taken _ ((greetingChecks_in_range hr hcode).trans (firstRefusal_pass (boxLoaded_loaded (s := s.taken) hb)))
  have hwork := setActive_within m g s.taken.eng
  exact congrArg _ ((order_concluded h (o := .selectGreeting) rfl tag (congrArg (· + 2) hl) hrun hwork (by simp) (hwork.keeps .pool rfl).2.1).trans rfl)

/-! ## ERASE GREETING -/

theorem exec_eraseGreeting_refused {r : Result} (k : firstRefusal
    [(decide (Config.mailboxes ≤ num2 ps 0) || decide (3 < num1 ps 2), .badField), boxLoaded (num2 ps 0) s.taken,
      ((s.taken.eng.slot (num2 ps 0) ((GreetingKind.ofCode (num1 ps 2)).getD .standard)).busy, .busy)] = some r) :
    exec (.eraseGreeting tag ps) s = .next (s.withAnswer tag r []) :=
  congrArg _ (order_answered h (o := .eraseGreeting) rfl tag (congrArg (· + 2) hl) (checked_refused k))

/-- What ERASE GREETING answers. -/
def Engine.erasedBytes (m : Nat) (g : GreetingKind) (e : Engine) : List Byte := yes1 (e.slot m g).filled ++ be2 (e.slotTenths (e.slot m g))

section Erase
variable {m : Nat} (hm : num2 ps 0 = m) (hr : m < 4096) (hb : s.eng.mailbox m ≠ none) {g : GreetingKind} (hg : g.code = num1 ps 2)
include hm hr hb hg

omit h hl in
theorem eraseGreeting_run (hs : (s.eng.slot m g).staged = none) : Order.run .eraseGreeting ps s.taken =
    { result := .done, data := s.eng.erasedBytes m g, state := { s.taken with eng := s.taken.eng.emptySlot m g }, waits := false } := by
  have hcode : num1 ps 2 ≤ 3 := by
    rw [← hg]
    cases g <;> decide
  have hofCode : GreetingKind.ofCode (num1 ps 2) = some g := hg ▸ greeting_ofCode_code g
  have hbusy : (s.taken.eng.slot m g).busy = false := by
    have hs' : (s.taken.eng.slot m g).staged = none := hs
    rw [Slot.busy, hs']
    rfl
  show orderEraseGreeting ps s.taken = _
  unfold orderEraseGreeting
  rw [hofCode, hm]
  exact checked_passes s.taken _ ((greetingChecks_pass (s := s.taken) hr hcode hb).trans (firstRefusal_pass hbusy))

theorem exec_eraseGreeting_busy (hs : (s.eng.slot m g).staged ≠ none) : exec (.eraseGreeting tag ps) s = .next (s.withAnswer tag .busy []) := by
  have hcode : num1 ps 2 ≤ 3 := by
    rw [← hg]
    cases g <;> decide
  have hofCode : GreetingKind.ofCode (num1 ps 2) = some g := hg ▸ greeting_ofCode_code g
  refine exec_eraseGreeting_refused h tag hl ?_
  rw [hofCode, hm]
  exact (greetingChecks_pass (s := s.taken) hr hcode hb).trans (firstRefusal_stop (Option.isSome_iff_ne_none.2 hs))

/-- A slot that holds nothing stays as it is. -/
theorem exec_eraseGreeting_empty (hs : (s.eng.slot m g).staged = none) (hheld : (s.eng.slot m g).held = none) :
    exec (.eraseGreeting tag ps) s = .next (s.withAnswer tag .done (s.eng.erasedBytes m g)) := by
  have hsame : s.taken.eng.emptySlot m g = s.taken.eng := by
    have hheld' : (s.taken.eng.slot m g).held = none := hheld
    unfold Engine.emptySlot
    dsimp only
    rw [hheld']
  have hrun := eraseGreeting_run hm hr hb hg hs
  rw [hsame] at hrun
  exact congrArg _ (order_answered h (o := .eraseGreeting) rfl tag (congrArg (· + 2) hl) hrun)

theorem exec_eraseGreeting (hs : (s.eng.slot m g).staged = none) :
    exec (.eraseGreeting tag ps) s = .next (s.startedAs (s.taken.eng.emptySlot m g) tag .done (s.eng.erasedBytes m g)) ∧
      Engine.Within [.link] ((s.taken.eng.emptySlot m g).concluded tag .done (s.eng.erasedBytes m g))
        ((s.taken.eng.emptySlot m g).concluded tag .done (s.eng.erasedBytes m g)).startNext := by
  obtain ⟨hdeliver, hlink⟩ := order_startedAs h (code := 0x31) (o := .eraseGreeting) rfl tag (congrArg (· + 2) hl)
    (eraseGreeting_run hm hr hb hg hs) (emptySlot_within s.taken.eng m g) (by simp [slotParts])
  exact ⟨congrArg _ hdeliver, hlink⟩

end Erase

end Orders

/-- What an ERASE GREETING leaves, its answer placed and an erase perhaps started. -/
theorem greetingErased {s : State} (h : s.accepting) {m : Nat} {g : GreetingKind} {tag : Byte} {d : List Byte}
    (hlink : Engine.Within [.link] ((s.taken.eng.emptySlot m g).concluded tag .done d) ((s.taken.eng.emptySlot m g).concluded tag .done d).startNext) :
    let t := s.startedAs (s.taken.eng.emptySlot m g) tag .done d
    (t.eng.slot m g).held = none ∧ (∀ n k, (n ≠ m ∨ k ≠ g) → t.eng.slot n k = s.eng.slot n k) ∧ t.answered tag .done d ∧
      s.keepsBut [.pool, .link, .holds, .outbox, .flags, .segments, .bodies, .greetings, .writes] t := by
  intro t
  have hsame : (s.taken.eng.emptySlot m g).SameContent t.eng := started_content hlink
  have hslot : ∀ n k, t.eng.slot n k = if n = m ∧ k = g then { s.eng.slot m g with held := none } else s.eng.slot n k := fun n k =>
    (congrArg (fun t : Catalogue => Tab.get Slot.empty t.slots (slotKey n k)) hsame.tab).trans (emptySlot_slot s.taken.eng m g n k)
  refine ⟨?_, fun n k hne => ?_, started_answered hlink,
    (started_within (accepting_handling h) (by simp [slotParts]) (emptySlot_within s.taken.eng m g) hlink).keepsBut_of rfl (.inr rfl) (.inr rfl) rfl⟩
  · rw [hslot, if_pos ⟨rfl, rfl⟩]
  · rw [hslot, if_neg]
    rintro ⟨rfl, rfl⟩
    simp at hne

/-- Settles O38. -/
theorem greetingOrdersSetAndEmptySlots : Obligations.GreetingOrdersSetAndEmptySlots := by
  intro s tag ps h hl m
  refine ⟨fun hbad => exec_selectGreeting_refused h tag hl (greetingChecks_range hbad),
    fun hbad => exec_eraseGreeting_refused h tag hl (greetingChecks_range hbad),
    fun hr hb => ⟨fun hg => exec_selectGreeting_refused h tag hl (greetingChecks_noSuch (s := s.taken) hr hg hb),
      fun hg => exec_eraseGreeting_refused h tag hl (greetingChecks_noSuch (s := s.taken) hr hg hb)⟩,
    fun hr b hb g hg => ?_⟩
  have hloaded : s.eng.mailbox m ≠ none := by simp [hb]
  refine ⟨fun hn => ?_, exec_eraseGreeting_busy h tag hl rfl hr hloaded hg, fun hs => ?_⟩
  · exact ⟨_, exec_selectGreeting h tag hl rfl hr hloaded hg hn, setActive_mailbox (e := s.taken.eng) hb g, concluded_answered _ _ _ s _,
      Engine.Within.keepsBut_of (concluded_within (accepting_handling h) (by simp) (setActive_within m g s.taken.eng) tag .done _) rfl
        (.inr rfl) (.inr rfl) rfl⟩
  · obtain ⟨hexec, hlink⟩ := exec_eraseGreeting h tag hl rfl hr hloaded hg hs
    obtain ⟨hheld, hothers, hanswer, hkeeps⟩ := greetingErased h hlink
    refine ⟨_, hexec, hheld, hothers, hanswer, fun hempty => ?_, hkeeps⟩
    have hsame := hexec.symm.trans (exec_eraseGreeting_empty h tag hl rfl hr hloaded hg hs hempty)
    rw [Host.Outcome.next.inj hsame]
    exact (withAnswer_within tag .done _ s).keepsBut_of rfl (.inr rfl) (.inr rfl) rfl

end Sys2Proof.Machine

namespace Sys2Proof.Machine

/-! Proofs about section 8: jobs that end as the part settles, DELIVER and CANCEL DELIVERY. -/

/-! ## Settling where jobs may end (R164) -/

/-- The part after its jobs have ended: the writes one sequence, and an erase perhaps started. -/
def Engine.jobsEnded (e : Engine) : Engine := ((e.endJobs 5).flush .nothing).startNext

theorem Engine.Within.linkFree {ps : List Part} {e g : Engine} (h : Engine.Within ps e g)
    (hps : ([Part.link, .service, .channel].all (fun p => decide (p ∉ ps))) = true) : g.linkFree = e.linkFree := by
  have hout : ∀ p ∈ [Part.link, .service, .channel], decide (p ∈ ps) = false := fun p hp => by
    have := List.all_eq_true.1 hps p hp
    simpa using this
  obtain ⟨hs, -, -⟩ := h.keeps .service (hout _ (by simp))
  obtain ⟨hl, -⟩ := h.keeps .link (hout _ (by simp))
  obtain ⟨-, -, -, hr⟩ := h.keeps .channel (hout _ (by simp))
  have hs' : g.ssc.service = e.ssc.service := hs
  have hl' : g.ssc.link = e.ssc.link := hl
  have hr' : g.mgc.restart = e.mgc.restart := hr
  rw [Engine.linkFree, Engine.linkFree, Engine.halted, Engine.halted, hs', hl', hr']

/-- What ending jobs and making their writes a sequence can change. -/
def jobParts : List Part := .dle :: releaseParts

theorem endedJobs_within (e : Engine) : Engine.Within jobParts e ((e.endJobs 5).flush .nothing) :=
  (endJobs_within 5 e).step (flush_within _ _) rfl

section Settle
variable {e : Engine} (hl : e.linkFree = false ∨ (e.ssc.progQueue = [] ∧ e.ssc.readQueue = []))
include hl

theorem jobsEnded_link : ((e.endJobs 5).flush .nothing).linkFree = false ∨
    (((e.endJobs 5).flush .nothing).ssc.progQueue = [] ∧ ((e.endJobs 5).flush .nothing).ssc.readQueue = []) := by
  obtain ⟨hr, hp⟩ := (endedJobs_within e).keeps .storeQueues rfl
  have hr' : ((e.endJobs 5).flush .nothing).ssc.readQueue = e.ssc.readQueue := hr
  have hp' : ((e.endJobs 5).flush .nothing).ssc.progQueue = e.ssc.progQueue := hp
  rw [(endedJobs_within e).linkFree rfl, hr', hp']
  exact hl

theorem jobsEnded_within : Engine.Within (.link :: jobParts) e e.jobsEnded :=
  ((endedJobs_within e).mono rfl).step (startNext_within ((jobsEnded_link hl).imp id (fun x => x.2))) rfl

theorem settle_jobs (ha : e.asked = []) : e.settle = e.jobsEnded := by
  unfold Engine.settle Engine.jobsEnded
  rw [flush_none ha]
  show Engine.arbitrate (((e.endJobs 5).flush .nothing).ssc.progQueue.length + 1) ((e.endJobs 5).flush .nothing) = _
  have hlink := jobsEnded_link hl
  generalize (e.endJobs 5).flush .nothing = g at hlink ⊢
  rcases hlink with hlink | ⟨hp, hr⟩
  · simp [Engine.arbitrate, Engine.startNext, hlink]
  · simp [Engine.arbitrate, Engine.startNext, hp, hr]

theorem jobsEnded_notes (ha : e.asked = []) : e.Notes e.jobsEnded := settle_jobs hl ha ▸ settle_notes e

end Settle

/-- An accepted order whose work may bring jobs to their end: the answer is placed, and then they end. -/
theorem order_ended {s : State} (h : s.accepting) {code : Byte} {o : Order} (ho : Order.ofCode code = some o) (tag : Byte) {ps : List Byte}
    (hl : ps.length + 2 = o.bodyLength) {r : Result} {d : List Byte} {e : Engine}
    (hr : o.run ps s.taken = { result := r, data := d, state := { s.taken with eng := e }, waits := false }) {qs : List Part}
    (k : Engine.Within qs s.taken.eng e)
    (hq : ([Part.storeQueues, .link, .service, .channel].all (fun p => decide (p ∉ qs))) = true) :
    s.deliverOrder code tag ps = { s with eng := (e.concluded tag r d).jobsEnded } ∧
      ((e.concluded tag r d).linkFree = false ∨ ((e.concluded tag r d).ssc.progQueue = [] ∧ (e.concluded tag r d).ssc.readQueue = [])) := by
  have hout : ∀ p ∈ [Part.storeQueues, .link, .service, .channel], decide (p ∈ qs) = false := fun p hp => by
    have := List.all_eq_true.1 hq p hp
    simpa using this
  have hfree : e.linkFree = s.taken.eng.linkFree := k.linkFree (List.all_eq_true.2 fun p hp => List.all_eq_true.1 hq p (List.mem_cons_of_mem _ hp))
  obtain ⟨hrq, hpq⟩ := k.keeps .storeQueues (hout _ (by simp))
  obtain ⟨-, -, hcalm⟩ := (accepting_calm h).1
  have hlive : (e.placeAnswer (answerPacket tag r d)).halted = false := by
    obtain ⟨-, -, -, hre⟩ := k.keeps .channel (hout _ (by simp))
    obtain ⟨hs, -, -⟩ := k.keeps .service (hout _ (by simp))
    have hre' : e.mgc.restart = s.eng.mgc.restart := hre
    have hs' : e.ssc.service = s.eng.ssc.service := hs
    have hlive := accepting_live h
    show e.halted = false
    rw [Engine.halted] at hlive ⊢
    rw [hs', hre', hlive]
  have hlink : (e.concluded tag r d).linkFree = false ∨ ((e.concluded tag r d).ssc.progQueue = [] ∧ (e.concluded tag r d).ssc.readQueue = []) := by
    have hrq' : (e.concluded tag r d).ssc.readQueue = s.eng.ssc.readQueue := hrq
    have hpq' : (e.concluded tag r d).ssc.progQueue = s.eng.ssc.progQueue := hpq
    have hfree' : (e.concluded tag r d).linkFree = s.eng.linkFree := hfree
    rw [hrq', hpq', hfree']
    exact hcalm.imp id (fun ⟨hp, hr, _⟩ => ⟨hp, hr⟩)
  refine ⟨?_, hlink⟩
  have hplace : (e.placeAnswer (answerPacket tag r d)).settle = (e.concluded tag r d).jobsEnded := by
    rw [← settle_jobs hlink rfl]
    have hflush : (e.placeAnswer (answerPacket tag r d)).flush .nothing = e.concluded tag r d := (flush_nothing_live hlive).trans rfl
    unfold Engine.settle
    rw [hflush, flush_none (e := e.concluded tag r d) rfl]
  rw [deliverOrder_run h ho tag hl, hr]
  simp only [Reply.place, Bool.false_eq_true, if_false, State.onEng]
  rw [hplace]
  rfl

/-! ## Which job is due -/

theorem job_unfinished {j : Job} (h : j.cancel = false) (hp : j.nextPos < j.recipients) : j.finished = false := by
  unfold Job.finished
  rw [h, decide_eq_false (Nat.not_le.2 hp), Bool.or_self, Bool.and_false]

theorem due_none_iff {d : Dle} {j : Job} {q : List Job} (h : d.queue = j :: q) : d.due = none ↔ j.finished = false ∧ ∀ i ∈ q, i.cancel = false := by
  unfold Dle.due
  rw [h]
  cases hj : j.finished
  · simp [hj]
  · simp [hj]

theorem due_empty {d : Dle} (h : d.queue = []) : d.due = none := by
  unfold Dle.due
  rw [h]

/-! ## Jobs that end -/

theorem endJobs_due {e : Engine} {j : Job} (n : Nat) (hlive : e.halted = false) (hd : e.dle.due = some j) :
    e.endJobs (n + 1) = (e.endJob j).endJobs n := by
  rw [Engine.endJobs, if_neg (by simp [hlive]), hd]

theorem endJob_dle (j : Job) (e : Engine) : (e.endJob j).dle = { e.dle with queue := e.dle.queue.filter (fun i => i.number ≠ j.number) } := by
  have hpin : ∀ g : Engine, (g.dropPin j.body).dle = g.dle := fun g => (dropPin_within g j.body).keeps .dle rfl
  show ((e.modDle (fun d => { d with queue := d.queue.filter (fun i => i.number ≠ j.number) })).dropPin j.body).dle = _
  rw [hpin]
  rfl

theorem endJob_queue (j : Job) (e : Engine) : (e.endJob j).dle.queue = e.dle.queue.filter (fun i => i.number ≠ j.number) :=
  congrArg Dle.queue (endJob_dle j e)

theorem endJob_flagged (j : Job) (e : Engine) : (e.endJob j).mgc.flags &&& NoticeKind.deliveryDone.bit = NoticeKind.deliveryDone.bit :=
  raise_flagged _ _ _

theorem endJobs_queue_sub : ∀ (n : Nat) (e : Engine), ∀ i ∈ (e.endJobs n).dle.queue, i ∈ e.dle.queue
  | 0, _, _, h => h
  | n + 1, e, i, h => by
    unfold Engine.endJobs at h
    split at h
    · exact h
    · split at h
      · exact h
      · have := endJobs_queue_sub n _ i h
        rw [endJob_queue] at this
        exact (List.mem_filter.1 this).1

theorem startNext_dle {e : Engine} (h : Engine.Within [.link] e e.startNext) : e.startNext.dle = e.dle := h.keeps .dle rfl

section Ended
variable {e : Engine} {j : Job} (hl : e.linkFree = false ∨ (e.ssc.progQueue = [] ∧ e.ssc.readQueue = [])) (ha : e.asked = [])
  (hlive : e.halted = false) (hd : e.dle.due = some j)
include hl

theorem jobsEnded_dle : e.jobsEnded.dle = (e.endJobs 5).dle :=
  (startNext_dle (startNext_within ((jobsEnded_link hl).imp id (fun x => x.2)))).trans (flush_dle _ _)

include hlive hd

/-- A job that is due ends, and with it every job of its number. -/
theorem jobsEnded_gone : ∀ i ∈ e.jobsEnded.dle.queue, i ∈ e.dle.queue ∧ i.number ≠ j.number := fun i hi => by
  rw [jobsEnded_dle hl, endJobs_due 4 hlive hd] at hi
  have := endJobs_queue_sub 4 _ i hi
  rw [endJob_queue] at this
  simpa using this

theorem jobsEnded_flagged : e.jobsEnded.mgc.flags &&& NoticeKind.deliveryDone.bit = NoticeKind.deliveryDone.bit := by
  have hflags : e.jobsEnded.mgc.flags = (e.endJobs 5).mgc.flags :=
    ((((flush_within (e.endJobs 5) .nothing).mono (qs := [.link, .writes]) rfl).step
      (startNext_within ((jobsEnded_link hl).imp id (fun x => x.2))) rfl).keeps .flags rfl).1
  rw [hflags, endJobs_due 4 hlive hd]
  exact ((notes_loose (e.endJob j)).served.endJobs 4 (.refl _)).flagged (endJob_flagged j e)

/-- Where the jobs that stay are not due, one end is all. -/
theorem jobsEnded_once (hrest : ({ e.dle with queue := e.dle.queue.filter (fun i => i.number ≠ j.number) } : Dle).due = none) :
    e.jobsEnded.dle = { e.dle with queue := e.dle.queue.filter (fun i => i.number ≠ j.number) } := by
  rw [jobsEnded_dle hl, endJobs_due 4 hlive hd, endJobs_none ((endJob_dle j e).symm ▸ hrest), endJob_dle]

end Ended

end Sys2Proof.Machine

namespace Sys2Proof.Machine

/-! Proofs about section 8: DELIVER and CANCEL DELIVERY. -/

/-! ## The checks of DELIVER (R159) -/

/-- The fields of a DELIVER are in their ranges. -/
def deliverLegal (ps : List Byte) : Prop :=
  num2 ps 0 < 4096 ∧ num2 ps 2 < 32768 ∧ ((num1 ps 4 = 0 ∧ num2 ps 5 < 64) ∨ (num1 ps 4 = 1 ∧ num2 ps 5 < 4096)) ∧ num1 ps 7 ≤ 1 ∧ num1 ps 8 ≤ 1

theorem jobTarget_eq (kind n : Nat) : jobTarget kind n =
    if (kind = 0 ∧ n < 64) ∨ (kind = 1 ∧ n < 4096) then some (if kind = 0 then .list n else .mailbox n) else none := by
  unfold jobTarget
  split
  · by_cases hn : n < 64 <;> simp [hn]
  · by_cases hn : n < 4096 <;> simp [hn]
  · rename_i h0 h1
    rw [if_neg]
    rintro (⟨rfl, -⟩ | ⟨rfl, -⟩)
    · exact h0 rfl
    · exact h1 rfl

/-- The first check of a DELIVER. -/
def deliverRange (ps : List Byte) : Bool × Result :=
  (decide (Config.mailboxes ≤ num2 ps 0) || decide (Config.records ≤ num2 ps 2) || (jobTarget (num1 ps 4) (num2 ps 5)).isNone ||
    (yesNo ps 7).isNone || (yesNo ps 8).isNone, .badField)

theorem yesNo_isNone (ps : List Byte) (i : Nat) : (yesNo ps i).isNone = decide (1 < num1 ps i) := by
  rw [yesNo_eq]
  by_cases h : num1 ps i ≤ 1
  · rw [if_pos h, decide_eq_false (Nat.not_lt.2 h)]
    rfl
  · rw [if_neg h, decide_eq_true (Nat.not_le.1 h)]
    rfl

theorem jobTarget_isNone (kind n : Nat) : (jobTarget kind n).isNone = !decide ((kind = 0 ∧ n < 64) ∨ (kind = 1 ∧ n < 4096)) := by
  rw [jobTarget_eq]
  by_cases h : (kind = 0 ∧ n < 64) ∨ (kind = 1 ∧ n < 4096)
  · rw [if_pos h, decide_eq_true h]
    rfl
  · rw [if_neg h, decide_eq_false h]
    rfl

theorem deliverRange_false (ps : List Byte) : (deliverRange ps).1 = false ↔ deliverLegal ps := by
  have h1 : Config.mailboxes = 4096 := rfl
  have h2 : Config.records = 32768 := rfl
  unfold deliverRange deliverLegal
  simp only [yesNo_isNone, jobTarget_isNone, h1, h2, Bool.or_eq_false_iff, Bool.not_eq_false', decide_eq_false_iff_not, decide_eq_true_eq, Nat.not_le,
    Nat.not_lt, and_assoc]

section Orders
variable {s : State} (h : s.accepting) (tag : Byte) {ps : List Byte}
include h

theorem exec_deliver_refused (hl : ps.length = 9) {r : Result} (k : firstRefusal [deliverRange ps, boxLoaded (num2 ps 0) s.taken,
    recordForeign (num2 ps 0) (num2 ps 2) s.taken, recordRecording (num2 ps 2) s.taken,
    (decide (Config.jobs ≤ s.taken.eng.dle.queue.length), .busy)] = some r) : exec (.deliver tag ps) s = .next (s.withAnswer tag r []) :=
  congrArg _ (order_answered h (o := .deliver) rfl tag (congrArg (· + 2) hl) (checked_refused k))

end Orders

section Checks
variable {s : State} {ps : List Byte} (hlegal : deliverLegal ps)
include hlegal

theorem deliverChecks_noSuch (h : s.eng.mailbox (num2 ps 0) = none ∨ ∀ x, s.eng.record (num2 ps 2) = some x → x.mailbox ≠ num2 ps 0)
    {rest : List (Bool × Result)} :
    firstRefusal (deliverRange ps :: boxLoaded (num2 ps 0) s :: recordForeign (num2 ps 0) (num2 ps 2) s :: rest) = some .noSuch := by
  refine (firstRefusal_pass ((deliverRange_false ps).2 hlegal)).trans ?_
  by_cases hb : s.eng.mailbox (num2 ps 0) = none
  · exact firstRefusal_stop (boxLoaded_unloaded hb)
  · exact (firstRefusal_pass (boxLoaded_loaded hb)).trans (firstRefusal_stop ((recordForeign_iff _ _ s).2 (h.resolve_left hb)))

variable (hb : s.eng.mailbox (num2 ps 0) ≠ none) {x : Record} (hx : s.eng.record (num2 ps 2) = some x) (hm : x.mailbox = num2 ps 0)
include hb hx hm

theorem deliverChecks_own {rest : List (Bool × Result)} : firstRefusal (deliverRange ps :: boxLoaded (num2 ps 0) s ::
    recordForeign (num2 ps 0) (num2 ps 2) s :: recordRecording (num2 ps 2) s :: rest) =
      if x.state = .recording then some .wrongState else firstRefusal rest := by
  refine (firstRefusal_pass ((deliverRange_false ps).2 hlegal)).trans ((firstRefusal_pass (boxLoaded_loaded hb)).trans
    ((firstRefusal_pass (recordForeign_own hx hm)).trans ?_))
  by_cases hs : x.state = .recording
  · rw [if_pos hs]
    exact firstRefusal_stop (by simp [recordRecording, hx, hs])
  · rw [if_neg hs]
    exact firstRefusal_pass (by simp [recordRecording, hx, hs])

end Checks

/-! ## The job that a DELIVER queues -/

/-- The job of an accepted DELIVER. -/
def Engine.deliveredJob (ps : List Byte) (x : Record) (e : Engine) : Job :=
  e.newJob (num2 ps 0) (num2 ps 2) x (if num1 ps 4 = 0 then .list (num2 ps 5) else .mailbox (num2 ps 5)) (decide (num1 ps 7 = 1)) (decide (num1 ps 8 = 1))

/-- What an accepted DELIVER answers. -/
def Engine.deliverBytes (j : Job) (e : Engine) : List Byte := be2 j.number ++ be2 j.recipients ++ be1 e.dle.queue.length

theorem orderDeliver_done {s : State} {ps : List Byte} (hlegal : deliverLegal ps) (hb : s.eng.mailbox (num2 ps 0) ≠ none) {x : Record}
    (hx : s.eng.record (num2 ps 2) = some x) (hm : x.mailbox = num2 ps 0) (hs : x.state ≠ .recording) (hq : s.eng.dle.queue.length < 4) :
    orderDeliver ps s = { result := .done, data := s.eng.deliverBytes (s.eng.deliveredJob ps x),
                          state := { s with eng := s.eng.acceptJob (s.eng.deliveredJob ps x) }, waits := false } := by
  obtain ⟨-, -, htarget, hu, hk⟩ := id hlegal
  have hpass : firstRefusal [deliverRange ps, boxLoaded (num2 ps 0) s, recordForeign (num2 ps 0) (num2 ps 2) s, recordRecording (num2 ps 2) s,
      (decide (Config.jobs ≤ s.eng.dle.queue.length), .busy)] = none := by
    rw [deliverChecks_own hlegal hb hx hm, if_neg hs]
    exact firstRefusal_pass (decide_eq_false (Nat.not_le.2 hq))
  refine (checked_passes s _ hpass).trans ?_
  rw [hx, jobTarget_eq, if_pos htarget, yesNo_eq, if_pos hu, yesNo_eq, if_pos hk]
  rfl

section Accepted
variable {s : State} (h : s.accepting) (tag : Byte) {ps : List Byte} (hl : ps.length = 9) {j : Job}
  (hrun : Order.run .deliver ps s.taken =
    { result := .done, data := s.eng.deliverBytes j, state := { s.taken with eng := s.taken.eng.acceptJob j }, waits := false })
include h hl hrun

/-- A job that need not end at once waits or runs. -/
theorem exec_deliver_queued (hc : j.cancel = false) (hn : j.finished = false ∨ s.eng.dle.queue ≠ []) :
    exec (.deliver tag ps) s = .next { s with eng := (s.taken.eng.acceptJob j).concluded tag .done (s.eng.deliverBytes j) } := by
  obtain ⟨-, hdue, hrest⟩ := (accepting_calm h).1
  have hqueue : (s.taken.eng.acceptJob j).dle.queue = s.eng.dle.queue ++ [j] := rfl
  refine congrArg _ ((order_still h (o := .deliver) rfl tag (congrArg (· + 2) hl) hrun ?_ hrest (accepting_live (s := s) h)).trans rfl)
  cases hq : s.eng.dle.queue with
  | nil =>
    rw [hq, List.nil_append] at hqueue
    exact (due_none_iff hqueue).2 ⟨hn.resolve_right (fun k => k hq), fun i hi => absurd hi List.not_mem_nil⟩
  | cons i q =>
    rw [hq, List.cons_append] at hqueue
    obtain ⟨hi, hq⟩ := (due_none_iff hq).1 hdue
    refine (due_none_iff hqueue).2 ⟨hi, fun i' hi' => ?_⟩
    rcases List.mem_append.1 hi' with hi' | hi'
    · exact hq i' hi'
    · rw [List.mem_singleton.1 hi', hc]

/-- A job over an empty list ends at once where none is ahead of it (R164). -/
theorem exec_deliver_ended (hf : j.finished = true) (hq : s.eng.dle.queue = []) :
    ∃ t, exec (.deliver tag ps) s = .next t ∧ t.eng.dle = { queue := [], nextNumber := nextJobNumber s.eng.dle.nextNumber } ∧
      t.answered tag .done (s.eng.deliverBytes j) ∧ t.flagged .deliveryDone := by
  obtain ⟨hdeliver, hlink⟩ := order_ended h (code := 0x3B) (o := .deliver) rfl tag (congrArg (· + 2) hl) hrun (acceptJob_within s.taken.eng j) rfl
  generalize hg : (s.taken.eng.acceptJob j).concluded tag .done (s.eng.deliverBytes j) = g at hdeliver hlink
  have hdle : g.dle = { queue := [j], nextNumber := nextJobNumber s.eng.dle.nextNumber } := by
    rw [← hg]
    show ({ queue := s.eng.dle.queue ++ [j], nextNumber := nextJobNumber s.eng.dle.nextNumber } : Dle) = _
    rw [hq, List.nil_append]
  have hanswer : answerPacket tag .done (s.eng.deliverBytes j) ∈ g.mgc.outbox := hg ▸ concluded_answered tag .done _ s _
  have hasked : g.asked = [] := hg ▸ rfl
  have hlive : g.halted = false := hg ▸ accepting_live (s := s) h
  have hdue : g.dle.due = some j := by
    unfold Dle.due
    rw [hdle]
    exact if_pos hf
  have hempty : [j].filter (fun i => i.number ≠ j.number) = [] := by simp
  refine ⟨{ s with eng := g.jobsEnded }, congrArg _ hdeliver, ?_, (jobsEnded_notes hlink hasked).mem hanswer, jobsEnded_flagged hlink hlive hdue⟩
  have honce := jobsEnded_once hlink hlive hdue (by rw [hdle]; exact due_empty hempty)
  rw [hdle, hempty] at honce
  exact honce

end Accepted

theorem newJob_finished {e : Engine} {m r : Nat} {x : Record} {t : JobTarget} {u k : Bool} :
    (e.newJob m r x t u k).finished = decide ((e.newJob m r x t u k).recipients = 0) := by
  show (true && (false || decide ((e.newJob m r x t u k).recipients ≤ 0))) = _
  rw [Bool.true_and, Bool.false_or]
  simp only [Nat.le_zero]

/-- Settles O43. -/
theorem deliverQueuesAJob : Obligations.DeliverQueuesAJob := by
  intro s tag ps h hl m r n legal
  have hjobs : Config.jobs = 4 := rfl
  refine ⟨fun hbad => exec_deliver_refused h tag hl (firstRefusal_stop (Bool.not_eq_false _ ▸ fun k => hbad ((deliverRange_false ps).1 k))),
    fun hlegal hno => exec_deliver_refused h tag hl (deliverChecks_noSuch (s := s.taken) hlegal hno), fun hlegal hb x hx hm => ⟨fun hs => ?_, fun hs hq => ?_,
    fun hs hq => ?_⟩⟩
  · exact exec_deliver_refused h tag hl ((deliverChecks_own (s := s.taken) hlegal hb hx hm).trans (if_pos hs))
  · exact exec_deliver_refused h tag hl (((deliverChecks_own (s := s.taken) hlegal hb hx hm).trans (if_neg hs)).trans
      (firstRefusal_stop (decide_eq_true hq)))
  · have hrun : Order.run .deliver ps s.taken =
        { result := .done, data := s.eng.deliverBytes (s.eng.deliveredJob ps x),
          state := { s.taken with eng := s.taken.eng.acceptJob (s.eng.deliveredJob ps x) }, waits := false } :=
      orderDeliver_done (s := s.taken) hlegal hb hx hm hs hq
    have hfin : (s.eng.deliveredJob ps x).finished = decide ((s.eng.deliveredJob ps x).recipients = 0) := newJob_finished
    have hrecipients : (s.eng.deliveredJob ps x).recipients = if num1 ps 4 = 0 then (s.eng.list n).count else 1 := by
      unfold Engine.deliveredJob Engine.newJob
      by_cases hk : num1 ps 4 = 0
      · simp only [hk, if_true]
        rfl
      · simp only [hk, if_false]
    by_cases hend : (s.eng.deliveredJob ps x).recipients = 0 ∧ s.eng.dle.queue = []
    · obtain ⟨hzero, hempty⟩ := hend
      obtain ⟨t, hexec, hdle, hanswer, hflag⟩ := exec_deliver_ended h tag hl hrun (hfin.trans (decide_eq_true hzero)) hempty
      refine ⟨t, s.eng.deliveredJob ps x, hexec, rfl, rfl, rfl, rfl, rfl, rfl, rfl, hrecipients, rfl, rfl, rfl, rfl, rfl, rfl, rfl, ?_, hanswer,
        fun hor => ?_, fun _ _ => ⟨?_, hflag⟩⟩
      · rw [hdle]
        rfl
      · rcases hor with hpos | hne
        · exact absurd hzero (Nat.pos_iff_ne_zero.1 hpos)
        · exact absurd hempty hne
      · rw [hdle]
    · have hexec := exec_deliver_queued h tag hl hrun rfl (by
        rw [hfin, decide_eq_false_iff_not]
        exact not_and_or.1 hend)
      refine ⟨_, s.eng.deliveredJob ps x, hexec, rfl, rfl, rfl, rfl, rfl, rfl, rfl, hrecipients, rfl, rfl, rfl, rfl, rfl, rfl, rfl, rfl,
        concluded_answered tag .done _ s _, fun _ => ⟨rfl, fun b => ?_, ?_⟩, fun hz hq0 => absurd ⟨hz, hq0⟩ hend⟩
      · refine (hold_modHold s.eng x.body (fun k => { k with pins := k.pins + 1 }) b).trans ?_
        by_cases hbody : b = x.body
        · rw [if_pos hbody, if_pos hbody, hbody]
        · rw [if_neg hbody, if_neg hbody]
      · exact Engine.Within.keepsBut_of (concluded_within_still (accepting_handling h) (by simp) (acceptJob_within s.taken.eng _) (accepting_asked (s := s) h)
        tag .done _) rfl (.inr rfl) (.inr rfl) rfl

end Sys2Proof.Machine

namespace Sys2Proof.Machine

/-! Proofs about section 8: CANCEL DELIVERY. -/

/-- A job asked to cancel, by its number. -/
def Job.askedToCancel (n : Nat) (j : Job) : Job := if j.number = n then { j with cancel := true } else j

theorem askedToCancel_number (n : Nat) (j : Job) : (j.askedToCancel n).number = j.number := by
  unfold Job.askedToCancel
  split <;> rfl

theorem askedToCancel_other {n : Nat} {j : Job} (h : j.number ≠ n) : j.askedToCancel n = j := if_neg h

theorem askedToCancel_cancel {n : Nat} {j : Job} (h : j.number = n) : (j.askedToCancel n).cancel = true := by
  unfold Job.askedToCancel
  rw [if_pos h]

theorem cancelJob_queue (n : Nat) (e : Engine) : (e.cancelJob n).dle.queue = e.dle.queue.map (Job.askedToCancel n) := rfl

/-- The jobs of other numbers stand as they stood. -/
theorem filter_askedToCancel (n : Nat) (q : List Job) :
    (q.map (Job.askedToCancel n)).filter (fun i => i.number ≠ n) = q.filter (fun i => i.number ≠ n) := by
  induction q with
  | nil => rfl
  | cons j q ih =>
    rw [List.map_cons, List.filter_cons, List.filter_cons, askedToCancel_number, ih]
    by_cases hj : j.number = n
    · simp [hj]
    · simp [hj, askedToCancel_other hj]

section Due
variable {d : Dle} {n : Nat} (hdue : d.due = none)
include hdue

/-- Where no job of the number is being written for, one of them is due to end, and no job of another number before it. -/
theorem cancelled_due (hsome : ∃ j ∈ d.queue, j.number = n) (hfree : ∀ j ∈ d.queue, j.number = n → j.current = none) :
    ∃ j, ({ d with queue := d.queue.map (Job.askedToCancel n) } : Dle).due = some j ∧ j.number = n := by
  obtain ⟨i, hi, hin⟩ := hsome
  cases hq : d.queue with
  | nil => simp [hq] at hi
  | cons j q =>
    rw [hq] at hi hfree
    obtain ⟨hj, hcancel⟩ := (due_none_iff hq).1 hdue
    by_cases hjn : j.number = n
    · refine ⟨j.askedToCancel n, if_pos ?_, (askedToCancel_number n j).trans hjn⟩
      unfold Job.finished Job.askedToCancel
      rw [if_pos hjn]
      simp [hfree j List.mem_cons_self hjn]
    · have hfind : ∃ k, (q.map (Job.askedToCancel n)).find? (·.cancel) = some k := by
        rw [← Option.isSome_iff_exists, List.find?_isSome]
        have hiq : i ∈ q := (List.mem_cons.1 hi).resolve_left (fun k => hjn (k ▸ hin))
        exact ⟨_, List.mem_map_of_mem hiq, askedToCancel_cancel hin⟩
      obtain ⟨k, hk⟩ := hfind
      refine ⟨k, ?_, ?_⟩
      · show (if (j.askedToCancel n).finished then _ else _) = _
        rw [askedToCancel_other hjn, hj]
        exact hk
      · obtain ⟨k', hk', rfl⟩ := List.mem_map.1 (List.mem_of_find?_eq_some hk)
        rw [askedToCancel_number]
        by_contra hkn
        have hc := List.find?_some hk
        rw [askedToCancel_other hkn, hcancel k' hk'] at hc
        exact Bool.noConfusion hc

/-- The jobs that stay are not due where each has a recipient left. -/
theorem others_due (hleft : ∀ j ∈ d.queue, j.nextPos < j.recipients) :
    ({ d with queue := d.queue.filter (fun i => i.number ≠ n) } : Dle).due = none := by
  cases hq : d.queue with
  | nil => rfl
  | cons j q =>
    rw [hq] at hleft
    obtain ⟨hj, hcancel⟩ := (due_none_iff hq).1 hdue
    have htail : ∀ i ∈ q.filter (fun i => i.number ≠ n), i ∈ q := fun i hi => (List.mem_filter.1 hi).1
    by_cases hjn : j.number = n
    · rw [List.filter_cons_of_neg (by simp [hjn])]
      cases hf : q.filter (fun i => i.number ≠ n) with
      | nil => rfl
      | cons i q' =>
        rw [hf] at htail
        refine (due_none_iff rfl).2 ⟨job_unfinished (hcancel i (htail i List.mem_cons_self)) (hleft i (List.mem_cons_of_mem _ (htail i List.mem_cons_self))),
          fun k hk => hcancel k (htail k (List.mem_cons_of_mem _ hk))⟩
    · rw [List.filter_cons_of_pos (by simp [hjn])]
      exact (due_none_iff rfl).2 ⟨hj, fun i hi => hcancel i (htail i hi)⟩

/-- A job being written for is not due, nor is any other. -/
theorem cancelled_writing_due {j : Job} {q : List Job} (hq : d.queue = j :: q) (hw : j.current ≠ none) :
    ({ d with queue := { j with cancel := true } :: q } : Dle).due = none := by
  obtain ⟨-, hcancel⟩ := (due_none_iff hq).1 hdue
  refine (due_none_iff rfl).2 ⟨?_, hcancel⟩
  unfold Job.finished
  cases hc : j.current with
  | none => exact absurd hc hw
  | some _ => rfl

end Due

section Orders
variable {s : State} (h : s.accepting) (tag : Byte) {ps : List Byte} (hl : ps.length = 2)
include h hl

theorem exec_cancelDelivery_refused {r : Result} (k : firstRefusal
    [(decide (num2 ps 0 = 0), .badField), (!s.taken.eng.dle.queue.any (fun j => j.number = num2 ps 0), .noSuch)] = some r) :
    exec (.cancelDelivery tag ps) s = .next (s.withAnswer tag r []) :=
  congrArg _ (order_answered h (o := .cancelDelivery) rfl tag (congrArg (· + 2) hl) (checked_refused k))

omit h hl in
theorem cancelDelivery_run {n : Nat} (hn : num2 ps 0 = n) (h0 : n ≠ 0) (hsome : ∃ j ∈ s.eng.dle.queue, j.number = n) :
    Order.run .cancelDelivery ps s.taken = { result := .done, data := [], state := { s.taken with eng := s.taken.eng.cancelJob n }, waits := false } := by
  show orderCancelDelivery ps s.taken = _
  unfold orderCancelDelivery
  rw [hn]
  refine checked_passes s.taken _ ((firstRefusal_pass (decide_eq_false h0)).trans (firstRefusal_pass ?_))
  obtain ⟨j, hj, hjn⟩ := hsome
  simp only [Bool.not_eq_false', List.any_eq_true]
  exact ⟨j, hj, decide_eq_true hjn⟩

theorem exec_cancelDelivery_ends {n : Nat} (hn : num2 ps 0 = n) (h0 : n ≠ 0) (hsome : ∃ j ∈ s.eng.dle.queue, j.number = n)
    (hfree : ∀ j ∈ s.eng.dle.queue, j.number = n → j.current = none) :
    ∃ t, exec (.cancelDelivery tag ps) s = .next t ∧ (∀ j ∈ t.eng.dle.queue, j.number ≠ n) ∧ t.flagged .deliveryDone ∧ t.answered tag .done [] ∧
      ((∀ j ∈ s.eng.dle.queue, j.nextPos < j.recipients) → t.eng.dle.queue = s.eng.dle.queue.filter (fun j => j.number ≠ n)) ∧
      s.keepsBut [.pool, .link, .holds, .dle, .outbox, .flags, .segments, .bodies, .writes] t := by
  have hdue := (accepting_calm h).1.2.1
  have hwork : Engine.Within [.dle] s.taken.eng (s.taken.eng.cancelJob n) := modDle_within _ _
  obtain ⟨hdeliver, hlink⟩ := order_ended h (code := 0x3C) (o := .cancelDelivery) rfl tag (congrArg (· + 2) hl)
    (cancelDelivery_run (s := s) hn h0 hsome) hwork rfl
  have hconcluded := concluded_within_still (accepting_handling h) (by simp) hwork (accepting_asked (s := s) h) tag .done []
  generalize hg : (s.taken.eng.cancelJob n).concluded tag .done [] = g at hdeliver hlink hconcluded
  have hdle : g.dle = { s.eng.dle with queue := s.eng.dle.queue.map (Job.askedToCancel n) } := hg ▸ rfl
  have hanswer : answerPacket tag .done [] ∈ g.mgc.outbox := hg ▸ concluded_answered tag .done _ s _
  have hasked : g.asked = [] := hg ▸ rfl
  have hlive : g.halted = false := hg ▸ accepting_live (s := s) h
  obtain ⟨j, hj, hjn⟩ := cancelled_due hdue hsome hfree
  rw [← hdle] at hj
  have hothers : g.dle.queue.filter (fun i => i.number ≠ j.number) = s.eng.dle.queue.filter (fun i => i.number ≠ n) := by
    rw [hdle, hjn]
    exact filter_askedToCancel n _
  refine ⟨{ s with eng := g.jobsEnded }, congrArg _ hdeliver, fun i hi => hjn ▸ (jobsEnded_gone hlink hlive hj i hi).2, jobsEnded_flagged hlink hlive hj,
    (jobsEnded_notes hlink hasked).mem hanswer, fun hleft => ?_, ?_⟩
  · have honce := jobsEnded_once hlink hlive hj (by rw [hothers, hdle]; exact others_due hdue hleft)
    rw [hothers] at honce
    exact congrArg Dle.queue honce
  · exact Engine.Within.keepsBut_of (ps := .link :: jobParts) ((hconcluded.mono rfl).step (jobsEnded_within hlink) rfl) rfl (.inr rfl) (.inr rfl) rfl

theorem exec_cancelDelivery_asks {n : Nat} (hn : num2 ps 0 = n) (h0 : n ≠ 0) {j : Job} {q : List Job} (hq : s.eng.dle.queue = j :: q) (hj : j.number = n)
    (hw : j.current ≠ none) (hothers : ∀ i ∈ q, i.number ≠ n) : ∃ t, exec (.cancelDelivery tag ps) s = .next t ∧
      t.eng.dle.queue = { j with cancel := true } :: q ∧ t.eng.dle.nextNumber = s.eng.dle.nextNumber ∧ t.answered tag .done [] ∧
      s.keepsBut [.dle, .outbox] t := by
  obtain ⟨-, hdue, hrest⟩ := (accepting_calm h).1
  have hqueue : s.eng.dle.queue.map (Job.askedToCancel n) = { j with cancel := true } :: q := by
    have hrest : q.map (Job.askedToCancel n) = q :=
      (List.map_congr_left (g := id) fun i hi => askedToCancel_other (hothers i hi)).trans (List.map_id q)
    rw [hq, List.map_cons, hrest]
    exact congrArg (· :: q) (if_pos hj)
  have hdle : (s.taken.eng.cancelJob n).dle = { s.eng.dle with queue := { j with cancel := true } :: q } :=
    congrArg (fun q => ({ s.eng.dle with queue := q } : Dle)) hqueue
  have hwork : Engine.Within [.dle] s.taken.eng (s.taken.eng.cancelJob n) := modDle_within _ _
  have hdeliver := order_still h (o := .cancelDelivery) (code := 0x3C) rfl tag (congrArg (· + 2) hl)
    (cancelDelivery_run (s := s) hn h0 ⟨j, hq ▸ List.mem_cons_self, hj⟩) (by rw [hdle]; exact cancelled_writing_due hdue hq hw) hrest
    (accepting_live (s := s) h)
  refine ⟨{ s with eng := (s.taken.eng.cancelJob n).concluded tag .done [] }, congrArg _ (hdeliver.trans rfl), congrArg Dle.queue hdle, rfl,
    concluded_answered tag .done _ s _, ?_⟩
  exact Engine.Within.keepsBut_of (concluded_within_still (accepting_handling h) (by simp) hwork (accepting_asked (s := s) h)
    tag .done _) rfl (.inr rfl) (.inr rfl) rfl

end Orders

/-- Settles O44. -/
theorem cancelDeliveryEndsTheJob : Obligations.CancelDeliveryEndsTheJob := by
  intro s tag ps h hl n others
  refine ⟨fun h0 => exec_cancelDelivery_refused h tag hl (firstRefusal_stop (decide_eq_true h0)), fun h0 hno => ?_,
    fun h0 hsome hfree => exec_cancelDelivery_ends h tag hl rfl h0 hsome hfree,
    fun h0 j q hq hj hw ho => exec_cancelDelivery_asks h tag hl rfl h0 hq hj hw ho⟩
  refine exec_cancelDelivery_refused h tag hl ((firstRefusal_pass (decide_eq_false h0)).trans (firstRefusal_stop ?_))
  simp only [Bool.not_eq_true', List.any_eq_false, decide_eq_true_eq]
  exact hno

end Sys2Proof.Machine

namespace Sys2Proof.Machine

/-! Proofs about section 8: the recipients of a running job. -/

/-! ## The judgement of a recipient (R129, R161) -/

/-- The reason a recipient is skipped for, if any. -/
def Engine.judgement (e : Engine) (j : Job) (m : Nat) : Option SkipReason :=
  if m = j.sourceBox && j.skipSource then some .sourceBox else e.copyRefusal m j.extent

section Judgement
variable {e : Engine} {j : Job} {m : Nat}

theorem judgement_own (h : m = j.sourceBox ∧ j.skipSource = true) : e.judgement j m = some .sourceBox :=
  if_pos (by simp [h.1, h.2])

variable (hown : ¬ (m = j.sourceBox ∧ j.skipSource = true))
include hown

theorem judgement_refusal : e.judgement j m = e.copyRefusal m j.extent := if_neg (by simpa using hown)

theorem judgement_off (h : ∀ b, e.mailbox m = some b → b.fields.enabled = false) : e.judgement j m = some .disabled := by
  rw [judgement_refusal hown, Engine.copyRefusal]
  cases hb : e.mailbox m with
  | none => rfl
  | some b => simp [h b hb]

variable (hoff : ¬ ∀ b, e.mailbox m = some b → b.fields.enabled = false)
include hoff

omit hown in
/-- A mailbox that is not off is loaded and enabled. -/
theorem enabled_of_not_off : ∃ b, e.mailbox m = some b ∧ b.fields.enabled = true := by
  simpa using hoff

theorem judgement_shut (h : ∀ b, e.mailbox m = some b → b.fields.accepts = false) : e.judgement j m = some .notAccepting := by
  obtain ⟨b, hb, hen⟩ := enabled_of_not_off hoff
  rw [judgement_refusal hown, Engine.copyRefusal, hb]
  simp [hen, h b hb]

variable (hshut : ¬ ∀ b, e.mailbox m = some b → b.fields.accepts = false)
include hshut

/-- Past the mailbox's own fields, the limits of its class and of the record table judge. -/
theorem judgement_limits : e.judgement j m = if (e.boxClass m).maxMessages ≤ (e.counter m).total then some .full
    else if (e.boxClass m).quota < (e.counter m).charged + j.extent then some .quota
    else if 32768 ≤ e.freeRecordNo then some .tableFull else none := by
  obtain ⟨b, hb, hen⟩ := enabled_of_not_off hoff
  obtain ⟨b', hb', hacc⟩ : ∃ b, e.mailbox m = some b ∧ b.fields.accepts = true := by simpa using hshut
  obtain rfl : b' = b := Option.some.inj (hb'.symm.trans hb)
  have hrecords : Config.records = 32768 := rfl
  rw [judgement_refusal hown, Engine.copyRefusal, hb]
  simp [hen, hacc, Engine.recordTableFull, hrecords]

end Judgement

/-! ## A copy made (R129) -/

section Copy
variable (now : Now) (m b n source : Nat) (u : Bool) (c : Option Nat) (e : Engine)

/-- A copy up to the lamp inputs. -/
def Engine.copied : Engine :=
  (((e.appendRecord e.freeRecordNo (Record.copy now m b source u c)).modShare b (· + 1)).modCounter m (Counters.join .new u)).charge m (· + n)

theorem makeCopy_eq : e.makeCopy now m b n source u c = (e.copied now m b n source u c).handInputs m := rfl

theorem record_putBoxHead (k : Nat) (h : Option Nat) (r : Nat) : (e.put (.boxHead k h)).record r = e.record r :=
  record_congr ((put_within e (.boxHead k h)).keeps .records rfl) r

theorem record_putBoxTail (k : Nat) (h : Option Nat) (r : Nat) : (e.put (.boxTail k h)).record r = e.record r :=
  record_congr ((put_within e (.boxTail k h)).keeps .records rfl) r

/-- A record appended stands in its entry, linked. -/
theorem appendRecord_new (r : Nat) (x : Record) : ∃ p q, (e.appendRecord r x).record r = some { x with prev := p, next := q } := by
  unfold Engine.appendRecord
  dsimp only
  rw [record_putBoxTail]
  cases (e.mailbox x.mailbox).bind (·.tail) with
  | none =>
    dsimp only
    rw [record_putBoxHead, record_putRecord, if_pos rfl]
    exact ⟨_, _, rfl⟩
  | some t =>
    dsimp only
    rw [record_putRecordNext, record_putRecord, if_pos rfl]
    by_cases hr : r = t
    · exact ⟨_, _, if_pos hr⟩
    · exact ⟨_, _, if_neg hr⟩

theorem appendRecord_asked (r : Nat) (x : Record) : ∃ ws, ws ≠ [] ∧ (e.appendRecord r x).asked = e.asked ++ ws ∧ (e.appendRecord r x).catQueue = e.catQueue := by
  unfold Engine.appendRecord
  dsimp only
  cases (e.mailbox x.mailbox).bind (·.tail) with
  | none => exact ⟨_, List.cons_ne_nil _ _, (List.append_assoc _ _ _).trans (List.append_assoc _ _ _), rfl⟩
  | some t => exact ⟨_, List.cons_ne_nil _ _, (List.append_assoc _ _ _).trans (List.append_assoc _ _ _), rfl⟩

theorem modShare_asked (f : Nat → Nat) : ∃ ws, (e.modShare b f).asked = e.asked ++ ws ∧ (e.modShare b f).catQueue = e.catQueue := by
  unfold Engine.modShare
  cases e.body b with
  | none => exact ⟨[], (List.append_nil _).symm, rfl⟩
  | some x => exact ⟨_, rfl, rfl⟩

theorem makeCopy_asked : ∃ ws, ws ≠ [] ∧ (e.makeCopy now m b n source u c).asked = e.asked ++ ws ∧
    (e.makeCopy now m b n source u c).catQueue = e.catQueue := by
  obtain ⟨ws, hne, hasked, hqueue⟩ := appendRecord_asked e e.freeRecordNo (Record.copy now m b source u c)
  obtain ⟨vs, hasked', hqueue'⟩ := modShare_asked b (e.appendRecord e.freeRecordNo (Record.copy now m b source u c)) (· + 1)
  obtain ⟨hkeepq, hkeepa⟩ := (handInputs_within (e.copied now m b n source u c) m).keeps .writes rfl
  refine ⟨ws ++ vs, by simp [hne], ?_, ?_⟩
  · refine Eq.trans hkeepa (hasked'.trans ?_)
    rw [hasked, List.append_assoc]
  · exact Eq.trans hkeepq (hqueue'.trans hqueue)

theorem makeCopy_record : ∃ p q, (e.makeCopy now m b n source u c).record e.freeRecordNo =
    some { Record.copy now m b source u c with prev := p, next := q } := by
  obtain ⟨p, q, hnew⟩ := appendRecord_new e e.freeRecordNo (Record.copy now m b source u c)
  have hlate : Engine.Within [.bodies, .writes, .counters, .lmp] (e.appendRecord e.freeRecordNo (Record.copy now m b source u c))
      (e.makeCopy now m b n source u c) :=
    ((((modShare_within _ b _).mono rfl).step (modCounter_within _ _ _) rfl).step (charge_within _ _ _) rfl).step (handInputs_within _ _) rfl
  exact ⟨p, q, (record_congr (hlate.keeps .records rfl) _).trans hnew⟩

theorem makeCopy_body {x : Body} (hx : e.body b = some x) : (e.makeCopy now m b n source u c).body b = some { x with share := x.share + 1 } := by
  have hearly : Engine.Within [.records, .mailboxes, .writes] e (e.appendRecord e.freeRecordNo (Record.copy now m b source u c)) := appendRecord_within _ _ _
  have hbody : (e.appendRecord e.freeRecordNo (Record.copy now m b source u c)).body b = some x :=
    (congrArg (fun t => Tab.find? t b) (hearly.keeps .bodies rfl)).trans hx
  have hlate : Engine.Within [.counters, .lmp] ((e.appendRecord e.freeRecordNo (Record.copy now m b source u c)).modShare b (· + 1))
      (e.makeCopy now m b n source u c) :=
    (((modCounter_within _ m _).mono rfl).step (charge_within _ _ _) rfl).step (handInputs_within _ _) rfl
  refine (congrArg (fun t => Tab.find? t b) (hlate.keeps .bodies rfl)).trans ((body_modShare b _ _ b).trans ?_)
  rw [if_pos rfl, hbody]
  rfl

theorem makeCopy_counter : (e.makeCopy now m b n source u c).counter m =
    { e.counter m with new := (e.counter m).new + 1, urgent := (e.counter m).urgent + (if u then 1 else 0), total := (e.counter m).total + 1,
                       charged := (e.counter m).charged + n } := by
  have hearly : Engine.Within [.records, .mailboxes, .bodies, .writes] e
      ((e.appendRecord e.freeRecordNo (Record.copy now m b source u c)).modShare b (· + 1)) :=
    ((appendRecord_within _ _ _).mono rfl).step (modShare_within _ _ _) rfl
  have hcounter : ((e.appendRecord e.freeRecordNo (Record.copy now m b source u c)).modShare b (· + 1)).counter m = e.counter m :=
    congrArg (fun t => Tab.get Counters.zero t m) (hearly.keeps .counters rfl)
  have hlate : (e.makeCopy now m b n source u c).counter m = (e.copied now m b n source u c).counter m :=
    congrArg (fun t => Tab.get Counters.zero t m) ((handInputs_within _ m).keeps .counters rfl)
  rw [hlate, Engine.copied, counter_charge, if_pos rfl, counter_modCounter, if_pos rfl, hcounter]
  cases u <;> rfl

theorem copied_lmp : (e.copied now m b n source u c).lmp = e.lmp := by
  have hwithin : Engine.Within [.records, .mailboxes, .bodies, .writes, .counters] e (e.copied now m b n source u c) :=
    ((((appendRecord_within e _ _).mono rfl).step (modShare_within _ _ _) rfl).step (modCounter_within _ _ _) rfl).step (charge_within _ _ _) rfl
  exact hwithin.keeps .lmp rfl

end Copy

/-! ## A recipient taken (R160) -/

section Taken
variable {s : State} {j : Job} {q : List Job} {m : Nat} (hcalm : s.calm) (hs : s.eng.ssc.service = .service) (hr : s.eng.mgc.restart ≠ .due)
  (hq : s.eng.dle.queue = j :: q) (hcur : j.current = none) (hc : j.cancel = false) (hpos : j.nextPos < j.recipients)
  (hm : j.target = .mailbox m ∨ ∃ l, j.target = .list l ∧ (s.eng.listMembers l)[j.nextPos]? = some m)

/-- A job past a skipped recipient. -/
def Job.skipped (r : SkipReason) (j : Job) : Job := { j with nextPos := j.nextPos + 1, skips := j.skips.add r }

/-- A job writing to a recipient. -/
def Job.copying (m : Nat) (j : Job) : Job := { j with nextPos := j.nextPos + 1, current := some m, delivered := j.delivered + 1 }

/-- The part with its job queue begun by another job. -/
def Engine.withRunning (j : Job) (q : List Job) (e : Engine) : Engine := { e with dle := { e.dle with queue := j :: q } }

section
include hq hcur hc hpos hm

theorem takeRecipient_eq : s.eng.takeRecipient s.now = match s.eng.judgement j m with
    | some r => s.eng.modRunning (Job.skipped r)
    | none => ((s.eng.makeCopy s.now m j.body j.extent j.sourceBox j.urgent j.caller).modRunning (Job.copying m)).flush .copied := by
  have hat : s.eng.recipientAt j = some m := by
    unfold Engine.recipientAt
    rcases hm with hm | ⟨l, hm, hl⟩
    · rw [hm]
    · rw [hm]
      exact hl
  unfold Engine.takeRecipient
  rw [hq]
  dsimp only
  rw [if_neg (by simp [hcur, hc, hpos]), hat]
  dsimp only
  show (match s.eng.judgement j m with | some r => _ | none => _) = _
  cases s.eng.judgement j m <;> rfl

end

include hs hr in
theorem exec_deliveryRecipient : exec .deliveryRecipient s = .next (s.onEng (fun e => e.takeRecipient s.now)).finish := by
  show Host.Outcome.next (if s.eng.serving then s.onEng (fun e => e.takeRecipient s.now) else s).finish = _
  have hserving : s.eng.serving = true := by simp [Engine.serving, Engine.halted, hs, hr]
  rw [if_pos hserving]

theorem modRunning_eq {e : Engine} (hq : e.dle.queue = j :: q) (f : Job → Job) : e.modRunning f = e.withRunning (f j) q := by
  unfold Engine.modRunning Engine.modDle Engine.withRunning
  dsimp only
  rw [hq]

include hcalm hq

/-- The jobs behind the running one are not cancelled. -/
theorem calm_behind : ∀ i ∈ q, i.cancel = false := ((due_none_iff hq).1 hcalm.1.2.1).2

theorem calm_withRunning {i : Job} (hi : i.finished = false) : (s.onEng (fun e => e.withRunning i q)).calm :=
  ⟨⟨hcalm.1.1, (due_none_iff rfl).2 ⟨hi, calm_behind hcalm hq⟩, hcalm.1.2.2⟩, hcalm.2⟩

omit hq in
/-- The running job ends where its last recipient was skipped. -/
theorem finish_ended (hlive : s.eng.halted = false) {i : Job} (hi : i.finished = true) :
    (s.onEng (fun e => e.withRunning i q)).finish.flagged .deliveryDone ∧
      ∀ k ∈ (s.onEng (fun e => e.withRunning i q)).finish.eng.dle.queue, k.number ≠ i.number := by
  obtain ⟨⟨hasked, -, hrest⟩, hinbox⟩ := hcalm
  have hlink : (s.eng.withRunning i q).linkFree = false ∨
      ((s.eng.withRunning i q).ssc.progQueue = [] ∧ (s.eng.withRunning i q).ssc.readQueue = []) := hrest.imp id (fun ⟨hp, hr, _⟩ => ⟨hp, hr⟩)
  have hdue : (s.eng.withRunning i q).dle.due = some i := if_pos hi
  rw [finish_settle (s := s.onEng (fun e => e.withRunning i q)) hinbox, State.onEng, State.onEng, settle_jobs (e := s.eng.withRunning i q) hlink hasked]
  exact ⟨jobsEnded_flagged (e := s.eng.withRunning i q) hlink hlive hdue,
    fun k hk => (jobsEnded_gone (e := s.eng.withRunning i q) hlink hlive hdue k hk).2⟩

end Taken

/-! ## A copy made for a running job -/

section Copying
variable {s : State} {j : Job} {q : List Job} {m : Nat}

/-- The part with a copy made, the job writing to its recipient. -/
def State.copyMade (j : Job) (m : Nat) (s : State) : Engine :=
  ((s.eng.makeCopy s.now m j.body j.extent j.sourceBox j.urgent j.caller).modRunning (Job.copying m)).flush .copied

theorem copyMade_within : Engine.Within [.counters, .dle, .lmp, .bodies, .mailboxes, .records, .writes] s.eng (s.copyMade j m) :=
  (((makeCopy_within s.eng s.now m j.body j.extent j.sourceBox j.urgent j.caller).mono rfl).step (modDle_within _ _) rfl).step (flush_within _ _) rfl

theorem copyMade_content : (s.eng.makeCopy s.now m j.body j.extent j.sourceBox j.urgent j.caller).SameContent (s.copyMade j m) :=
  Engine.SameContent.trans (b := (s.eng.makeCopy s.now m j.body j.extent j.sourceBox j.urgent j.caller).modRunning (Job.copying m))
    ⟨rfl, rfl, rfl, rfl, rfl, rfl, rfl, rfl, rfl⟩ (flush_content _ _)

theorem copyMade_queue (hq : s.eng.dle.queue = j :: q) : (s.copyMade j m).dle.queue = j.copying m :: q := by
  have hdle : (s.eng.makeCopy s.now m j.body j.extent j.sourceBox j.urgent j.caller).dle = s.eng.dle := (makeCopy_within _ _ _ _ _ _ _ _).keeps .dle rfl
  have hqueue : (s.eng.makeCopy s.now m j.body j.extent j.sourceBox j.urgent j.caller).dle.queue = j :: q := hdle ▸ hq
  unfold State.copyMade
  rw [flush_dle, modRunning_eq hqueue]
  rfl

theorem copyMade_writes (hlive : s.eng.halted = false) (ha : s.eng.asked = []) : (s.copyMade j m).asked = [] ∧
    ∃ ws, (s.copyMade j m).catQueue = s.eng.catQueue ++ [{ writes := ws, after := .copied }] := by
  obtain ⟨ws, hne, hasked, hqueue⟩ := makeCopy_asked s.now m j.body j.extent j.sourceBox j.urgent j.caller s.eng
  rw [ha, List.nil_append] at hasked
  have hwithin := makeCopy_within s.eng s.now m j.body j.extent j.sourceBox j.urgent j.caller
  have hhalted : (s.eng.makeCopy s.now m j.body j.extent j.sourceBox j.urgent j.caller).halted = false := by
    obtain ⟨-, -, -, hre⟩ := hwithin.keeps .channel rfl
    obtain ⟨hs, -, -⟩ := hwithin.keeps .service rfl
    have hre' : (s.eng.makeCopy s.now m j.body j.extent j.sourceBox j.urgent j.caller).mgc.restart = s.eng.mgc.restart := hre
    have hs' : (s.eng.makeCopy s.now m j.body j.extent j.sourceBox j.urgent j.caller).ssc.service = s.eng.ssc.service := hs
    rw [Engine.halted] at hlive ⊢
    rw [hs', hre', hlive]
  unfold State.copyMade Engine.flush
  generalize hg : (s.eng.makeCopy s.now m j.body j.extent j.sourceBox j.urgent j.caller).modRunning (Job.copying m) = g
  have hga : g.asked = ws := hg ▸ hasked
  have hgq : g.catQueue = s.eng.catQueue := hg ▸ hqueue
  have hgh : g.halted = false := hg ▸ hhalted
  rw [if_neg (by rw [hga]; exact hne), if_neg (by simp [hgh]), hgq, hga]
  exact ⟨rfl, ws, rfl⟩

theorem copyMade_calm (hcalm : s.calm) (hlive : s.eng.halted = false) (hq : s.eng.dle.queue = j :: q) : (s.onEng (fun _ => s.copyMade j m)).calm := by
  have hwithin : Engine.Within [.counters, .dle, .lmp, .bodies, .mailboxes, .records, .writes] s.eng (s.copyMade j m) := copyMade_within
  obtain ⟨hrq, hpq⟩ := hwithin.keeps .storeQueues rfl
  obtain ⟨-, heq, -⟩ := hwithin.keeps .pool rfl
  obtain ⟨-, hinbox, -, -⟩ := hwithin.keeps .channel rfl
  have hrq' : (s.copyMade j m).ssc.readQueue = s.eng.ssc.readQueue := hrq
  have hpq' : (s.copyMade j m).ssc.progQueue = s.eng.ssc.progQueue := hpq
  have heq' : (s.copyMade j m).ssc.eraseQueue = s.eng.ssc.eraseQueue := heq
  refine ⟨⟨(copyMade_writes hlive hcalm.1.1).1, (due_none_iff (copyMade_queue hq)).2 ⟨rfl, calm_behind hcalm hq⟩, ?_⟩, hinbox.trans hcalm.2⟩
  show (s.copyMade j m).linkFree = false ∨ _
  rw [hwithin.linkFree rfl]
  exact hcalm.1.2.2.imp id (fun ⟨hp, hr, he⟩ => ⟨hpq'.trans hp, hrq'.trans hr, heq'.trans he⟩)

theorem copyMade_hands : s.handsInputs [m] (s.onEng (fun _ => s.copyMade j m)) :=
  handsInputs_of (e := s.eng.copied s.now m j.body j.extent j.sourceBox j.urgent j.caller) (copied_lmp _ _ _ _ _ _ _ _)
    (copyMade_content (s := s) (j := j) (m := m)).inputs

end Copying

/-- Settles O45: the judgement reason by reason, and the copy field by field. -/
theorem recipientsAreJudgedInTurn : Obligations.RecipientsAreJudgedInTurn := by
  intro s j q m hcalm hs hr hq hcur hc hpos hm box c k own off shut full overQuota table
  have hlive : s.eng.halted = false := by simp [Engine.halted, hs, hr]
  have htake := takeRecipient_eq hq hcur hc hpos hm
  refine ⟨_, exec_deliveryRecipient hs hr, fun r hreason => ?_, fun hown hoff hshut hfull hquota htable => ?_⟩
  · have hjudged : s.eng.judgement j m = some r := by
      rcases hreason with ⟨rfl, h⟩ | ⟨rfl, h, h1⟩ | ⟨rfl, h, h1, h2⟩ | ⟨rfl, h, h1, h2, h3⟩ | ⟨rfl, h, h1, h2, h3, h4⟩ | ⟨rfl, h, h1, h2, h3, h4, h5⟩
      · exact judgement_own h
      · exact judgement_off h h1
      · exact judgement_shut h h1 h2
      · exact (judgement_limits h h1 h2).trans (if_pos h3)
      · exact (judgement_limits h h1 h2).trans ((if_neg h3).trans (if_pos h4))
      · exact (judgement_limits h h1 h2).trans ((if_neg h3).trans ((if_neg h4).trans (if_pos h5)))
    rw [hjudged] at htake
    have hstate : s.onEng (fun e => e.takeRecipient s.now) = s.onEng (fun e => e.withRunning (j.skipped r) q) :=
      congrArg (fun e => ({ s with eng := e } : State)) (htake.trans (modRunning_eq hq (Job.skipped r)))
    rw [hstate]
    refine ⟨fun hmore => ?_, fun hlast => ?_⟩
    · exact finish_calm (calm_withRunning hcalm hq (job_unfinished (j := j.skipped r) hc hmore))
    · refine finish_ended hcalm hlive (i := j.skipped r) ?_
      unfold Job.finished Job.skipped
      simp [hcur, hlast]
  · have hjudged : s.eng.judgement j m = none :=
      (judgement_limits hown hoff hshut).trans ((if_neg hfull).trans ((if_neg hquota).trans (if_neg htable)))
    rw [hjudged] at htake
    have hstate : s.onEng (fun e => e.takeRecipient s.now) = s.onEng (fun _ => s.copyMade j m) := congrArg (fun e => ({ s with eng := e } : State)) htake
    rw [hstate, finish_calm (copyMade_calm hcalm hlive hq)]
    have hsame : (s.eng.makeCopy s.now m j.body j.extent j.sourceBox j.urgent j.caller).SameContent (s.copyMade j m) := copyMade_content
    obtain ⟨p, n, hrecord⟩ := makeCopy_record s.now m j.body j.extent j.sourceBox j.urgent j.caller s.eng
    refine ⟨copyMade_queue hq, ⟨_, (hsame.record _).trans hrecord, rfl, rfl, rfl, rfl, rfl, rfl, rfl, rfl, rfl, rfl⟩, fun x hx => ?_, ?_,
      (copyMade_writes hlive hcalm.1.1).2, copyMade_hands, ?_⟩
    · exact (hsame.body _).trans (makeCopy_body _ _ _ _ _ _ _ _ hx)
    · exact (hsame.counter _).trans (makeCopy_counter _ _ _ _ _ _ _ _)
    · exact (copyMade_within (s := s) (j := j) (m := m)).keepsBut_of rfl (.inr rfl) (.inr rfl) rfl

end Sys2Proof.Machine

namespace Sys2Proof.Machine

/-! Proofs about section 4: the pool through every step. -/

/-! ## Work on the pool (R69 to R72) -/

/-- From a to b the pool is worked on in its own terms: it stays a pool, an ALLOCATED segment stays ALLOCATED, the erase queue keeps its head, and the link,
the size of the store and the catalogue memory stand. -/
structure Engine.PoolWork (a b : Engine) : Prop where
  pool : ∀ n, a.HasPool n → b.HasPool n
  allocated : ∀ i, (a.segment i).state = .allocated → (b.segment i).state = .allocated
  head : ∀ i, Run.head? a.ssc.eraseQueue = some i → Run.head? b.ssc.eraseQueue = some i
  link : b.ssc.link = a.ssc.link
  total : b.segmentTotal = a.segmentTotal
  cat : b.cat = a.cat
  walked : b.walked → a.walked

theorem segment_congr {e g : Engine} (h : g.tab.segments = e.tab.segments) (i : Nat) : g.segment i = e.segment i := by rw [Engine.segment, h, Engine.segment]

theorem total_congr {e g : Engine} (h : g.tab.signature = e.tab.signature) : g.segmentTotal = e.segmentTotal := by
  unfold Engine.segmentTotal
  rw [h]

namespace Engine.PoolWork

variable {a b c e : Engine}

theorem refl (a : Engine) : PoolWork a a := ⟨fun _ h => h, fun _ h => h, fun _ h => h, rfl, rfl, rfl, fun h => h⟩

theorem trans (h : PoolWork a b) (k : PoolWork b c) : PoolWork a c :=
  ⟨fun n x => k.pool n (h.pool n x), fun i x => k.allocated i (h.allocated i x), fun i x => k.head i (h.head i x), k.link.trans h.link,
    k.total.trans h.total, k.cat.trans h.cat, fun w => h.walked (k.walked w)⟩

theorem ite {p : Prop} [Decidable p] (h : PoolWork a b) (k : PoolWork a c) : PoolWork a (if p then b else c) := ite_kept h k

theorem foldl {α : Type} {g : Engine → α → Engine} (hg : ∀ e x, PoolWork e (g e x)) (l : List α) (e : Engine) : PoolWork e (l.foldl g e) :=
  foldl_kept (P := PoolWork e) (fun b x h => h.trans (hg b x)) l (refl e)

/-- Work elsewhere leaves the pool. -/
theorem of_within {ps : List Part} (h : Within ps a b) (hps : partsApart [.segments, .pool, .link, .service, .signature, .catalogue] ps = true) :
    PoolWork a b := by
  have hout : ∀ p ∈ [Part.segments, .pool, .link, .service, .signature, .catalogue], p ∉ ps := fun p hp => not_mem_of_partsApart hps hp
  have hsegments : b.tab.segments = a.tab.segments := h.same State.reset .segments (hout _ (by simp))
  have hsignature : b.tab.signature = a.tab.signature := h.same State.reset .signature (hout _ (by simp))
  obtain ⟨hfree, herase, -⟩ := h.same State.reset .pool (hout _ (by simp))
  have hfree' : b.ssc.freeList = a.ssc.freeList := hfree
  have herase' : b.ssc.eraseQueue = a.ssc.eraseQueue := herase
  refine ⟨fun n k => ?_, fun i hi => by rw [segment_congr hsegments, hi], fun i hi => by rw [herase', hi], (h.same State.reset .link (hout _ (by simp))).1,
    total_congr hsignature, h.same State.reset .catalogue (hout _ (by simp)),
    (h.walked (partsApart_of_subset hps (by simp))).1⟩
  unfold Engine.HasPool at k ⊢
  rw [hsegments, hfree', herase']
  exact k

/-- Work on the pool keeps its invariant. -/
theorem pooled (h : PoolWork a b) (k : a.pooled) : b.pooled := by
  rw [pooled_iff] at k ⊢
  obtain ⟨hcat, hwalk⟩ := k
  refine ⟨h.cat ▸ hcat, fun w => ?_⟩
  obtain ⟨hpool, hprogram, herase⟩ := hwalk (h.walked w)
  refine ⟨?_, fun r i v hl => h.allocated i (hprogram r i v (h.link ▸ hl)), fun i hl => h.head i (herase i (h.link ▸ hl))⟩
  rw [h.total]
  exact h.pool _ hpool

end Engine.PoolWork

/-! ## Segments that go DIRTY -/

theorem Run.head?_push (i : Nat) : ∀ (q : List Run) (j : Nat), Run.head? q = some j → Run.head? (Run.push i q) = some j
  | [r], j, h => by
    unfold Run.push
    split <;> exact h
  | _ :: _ :: _, _, h => h

/-- A DATA segment joins the erase queue's tail. -/
theorem makeDirty_work (e : Engine) (i : Nat) : e.PoolWork (e.makeDirty i) := by
  have hwithin := makeDirty_within e i
  by_cases hs : (e.segment i).state = .data
  · have hjoin : e.makeDirty i = e.joinDirty i := if_pos hs
    obtain ⟨hl, -⟩ := hwithin.keeps .link rfl
    have hmade : (e.joinDirty i).tab.segments = (e.putDirty i).tab.segments :=
      ((examinePool_within ((e.putDirty i).modSsc (fun c => { c with eraseQueue := Run.push i c.eraseQueue }))).keeps .segments rfl)
    have hqueue : (e.joinDirty i).ssc.eraseQueue = Run.push i e.ssc.eraseQueue :=
      congrArg Ssc.eraseQueue (examinePool_ssc _)
    refine ⟨fun n h => makeDirty_pool h, fun j hj => ?_, fun j hj => ?_, hl, total_congr (hwithin.keeps .signature rfl),
      hwithin.keeps .catalogue rfl, (hwithin.walked rfl).1⟩
    · rw [hjoin, segment_congr hmade, Engine.putDirty, segment_putSegment, if_neg]
      · exact hj
      · rintro rfl
        rw [hs] at hj
        exact SegState.noConfusion hj
    · rw [hjoin, hqueue]
      exact Run.head?_push i _ j hj
  · have hsame : e.makeDirty i = e := if_neg hs
    rw [hsame]
    exact .refl e

theorem makeAllDirty_work (e : Engine) (is : List Nat) : e.PoolWork (e.makeAllDirty is) := .foldl makeDirty_work is e

section Works
variable (e : Engine)

theorem release_work (b : Nat) : e.PoolWork (e.release b) :=
  (makeAllDirty_work e _).trans (.of_within (ps := [.bodies, .writes, .holds]) (((put_within _ _).mono rfl).step (modHold_within _ _ _) rfl) rfl)

theorem releaseIfUnheld_work (b : Nat) : e.PoolWork (e.releaseIfUnheld b) := by
  unfold Engine.releaseIfUnheld
  split
  · exact .refl _
  · exact .ite (release_work e b) (.refl _)

theorem dropShare_work (b : Nat) : e.PoolWork (e.dropShare b) := (Engine.PoolWork.of_within (modShare_within e b _) rfl).trans (releaseIfUnheld_work _ b)

theorem dropPin_work (b : Nat) : e.PoolWork (e.dropPin b) := (Engine.PoolWork.of_within (modHold_within e b _) rfl).trans (releaseIfUnheld_work _ b)

theorem dropReader_work (b : Nat) : e.PoolWork (e.dropReader b) := (Engine.PoolWork.of_within (modHold_within e b _) rfl).trans (releaseIfUnheld_work _ b)

theorem freeRecordQuietly_work (r : Nat) : e.PoolWork (e.freeRecordQuietly r) := by
  unfold Engine.freeRecordQuietly
  split
  · exact .refl _
  · exact (Engine.PoolWork.of_within (detachRecord_within e r _) rfl).trans (dropShare_work _ _)

theorem freeRecord_work (r : Nat) : e.PoolWork (e.freeRecord r) := by
  unfold Engine.freeRecord
  split
  · exact .refl _
  · exact (freeRecordQuietly_work e r).trans (.of_within (handInputs_within _ _) rfl)

theorem putSlot_work (m : Nat) (g : GreetingKind) (x : Slot) : e.PoolWork (e.putSlot m g x) := .of_within (putSlot_within e m g x) rfl

theorem abandonGreeting_work (m : Nat) (g : GreetingKind) : e.PoolWork (e.abandonGreeting m g) := by
  unfold Engine.abandonGreeting
  dsimp only
  split
  · exact putSlot_work e m g _
  · exact (putSlot_work e m g _).trans (dropShare_work _ _)

theorem replaceGreeting_work (m : Nat) (g : GreetingKind) : e.PoolWork (e.replaceGreeting m g) := by
  unfold Engine.replaceGreeting
  dsimp only
  split
  · exact putSlot_work e m g _
  · exact (putSlot_work e m g _).trans (dropShare_work _ _)

theorem emptySlot_work (m : Nat) (g : GreetingKind) : e.PoolWork (e.emptySlot m g) := by
  unfold Engine.emptySlot
  dsimp only
  split
  · exact .refl _
  · exact (putSlot_work e m g _).trans (dropShare_work _ _)

theorem endJob_work (j : Job) : e.PoolWork (e.endJob j) :=
  ((Engine.PoolWork.of_within (modDle_within e _) rfl).trans (dropPin_work _ _)).trans (.of_within (raise_within _ _ _) rfl)

theorem examineEntry_work (r day : Nat) : e.PoolWork (e.examineEntry r day).1 := by
  unfold Engine.examineEntry
  split
  · exact .refl _
  · split
    · split
      · exact .of_within (ps := [.records, .writes]) ((put_within _ _).mono rfl) rfl
      · split
        · exact freeRecord_work e r
        · exact .refl _
    · exact .refl _

/-- A segment written with its state as it is. -/
theorem putSegment_work (i : Nat) {g : SegEntry} (h : g.state = (e.segment i).state) : e.PoolWork (e.put (.segment i g)) := by
  have hwithin : Engine.Within [.segments, .writes] e (e.put (.segment i g)) := (put_within e _).mono rfl
  have hstate : ∀ j, ((e.put (.segment i g)).segment j).state = (e.segment j).state := fun j => by
    rw [segment_putSegment]
    by_cases hj : j = i
    · rw [if_pos hj, hj, h]
    · rw [if_neg hj]
  exact ⟨fun n k => Pool.congr k (risingFrom_set i g k.rising) hstate, fun j hj => (hstate j).trans hj, fun j hj => hj, rfl, rfl, rfl,
    (hwithin.walked rfl).1⟩

theorem cutChain_work (b first last : Nat) : e.PoolWork (e.cutChain b first last) := by
  unfold Engine.cutChain
  split
  · exact .refl _
  · extract_lets chain head kept tail e1
    have h1 : e.PoolWork e1 := by
      unfold e1
      split
      · exact .ite (.refl _) (putSegment_work e _ rfl)
      · exact .refl _
    refine .ite (.refl _) (h1.trans (.of_within (ps := [.bodies, .writes]) ?_ rfl))
    exact ((put_within e1 _).mono rfl).step (flush_within _ _) rfl

end Works

theorem examinePool_work (e : Engine) : e.PoolWork e.examinePool := by
  have hwithin := examinePool_within e
  have hssc := examinePool_ssc e
  have hqueue : e.examinePool.ssc.eraseQueue = e.ssc.eraseQueue := by rw [hssc]
  exact ⟨fun n h => examinePool_pool h, fun i hi => by rw [segment_congr (hwithin.keeps .segments rfl), hi], fun i hi => by rw [hqueue, hi],
    by rw [hssc], total_congr (hwithin.keeps .signature rfl), hwithin.keeps .catalogue rfl, (hwithin.walked rfl).1⟩

/-! ## The store link's work -/

section Link
variable {e : Engine} (h : e.pooled)
include h

/-- The link changes to an operation that names no segment. -/
theorem pooled_link {l : Link} {n : Nat} (hp : ∀ r i w, l ≠ .allocating r i w ∧ l ≠ .programming r i w) (he : ∀ i, l ≠ .erasing i) :
    (e.modSsc (fun c => { c with link := l, opTimer := n })).pooled := by
  rw [pooled_iff] at h ⊢
  exact ⟨h.1, fun w => ⟨(h.2 w).1, fun r i v k => absurd k (not_or.2 (hp r i v)), fun i k => absurd k (he i)⟩⟩

/-- A result recorded: the link names no segment, over a pool. -/
theorem pooled_recordResult {g : Engine} (hcat : g.cat = e.cat) (hw : g.walked → e.walked) (hg : e.walked → g.HasPool g.segmentTotal) :
    g.recordResult.pooled := by
  have hpool : (g.modSsc (fun c => { c with link := .recording })).pooled := by
    rw [pooled_iff] at h ⊢
    exact ⟨hcat ▸ h.1, fun w => ⟨hg (hw w), fun r i v k => by rcases k with k | k <;> exact Link.noConfusion k, fun i k => Link.noConfusion k⟩⟩
  exact (Engine.PoolWork.of_within (flush_within _ _) rfl).pooled hpool

theorem examinePool_pooled : e.examinePool.pooled := (examinePool_work e).pooled h

theorem startErase_pooled : e.startErase.pooled := by
  unfold Engine.startErase
  cases hi : Run.head? e.ssc.eraseQueue with
  | none => exact h
  | some i =>
    rw [pooled_iff] at h ⊢
    refine ⟨h.1, fun w => ⟨(h.2 w).1, fun r j v k => by rcases k with k | k <;> exact Link.noConfusion k, fun j k => ?_⟩⟩
    obtain rfl : i = j := Link.erasing.inj k
    exact hi

theorem startRead_pooled : e.startRead.pooled := by
  unfold Engine.startRead
  split
  · exact h
  · next r q _ =>
    have hlink := pooled_link h (l := .reading r 1) (n := 0) (fun _ _ _ => ⟨Link.noConfusion, Link.noConfusion⟩) (fun _ => Link.noConfusion)
    exact (Engine.PoolWork.of_within (queues_within _ q e.ssc.progQueue) rfl).pooled hlink

theorem startProgram_pooled {r : ProgReq} {i : Nat} {is : List Nat} (hf : e.ssc.freeList = i :: is) : (e.startProgram r i).pooled := by
  have hpool : ∀ n, e.HasPool n → (e.startProgram r i).HasPool n := fun n k => startProgram_pool k hf
  have hwithin := startProgram_within e r i
  have hlink : (e.startProgram r i).ssc.link = .allocating r i true := by
    unfold Engine.startProgram
    dsimp only
    rw [examinePool_ssc, flush_ssc]
    rfl
  have hstate : ((e.startProgram r i).segment i).state = .allocated := by
    have hlate : ∀ g : Engine, ((g.flush .allocated).examinePool).tab.segments = g.tab.segments := fun g =>
      (((flush_within g .allocated).mono (qs := [.writes, .pool, .outbox, .flags]) rfl).step (examinePool_within _) rfl).keeps .segments rfl
    unfold Engine.startProgram
    dsimp only
    rw [segment_congr (hlate _), segment_putSegment, if_pos rfl]
  have htotal : (e.startProgram r i).segmentTotal = e.segmentTotal :=
    total_congr (hwithin.keeps .signature rfl)
  have hcat : (e.startProgram r i).cat = e.cat := hwithin.keeps .catalogue rfl
  rw [pooled_iff] at h ⊢
  refine ⟨hcat ▸ h.1, fun w => ⟨?_, fun r' j v k => ?_, fun j k => ?_⟩⟩
  · rw [htotal]
    exact hpool _ (h.2 ((hwithin.walked rfl).1 w)).1
  · rw [hlink] at k
    rcases k with k | k
    · obtain ⟨-, rfl, -⟩ := Link.allocating.inj k
      exact hstate
    · exact Link.noConfusion k
  · rw [hlink] at k
    exact Link.noConfusion k

omit h in
/-- An ALLOCATED segment placed elsewhere than in the pool's two lists. -/
theorem place_pool {i : Nat} {g : SegEntry} {n : Nat} (k : e.HasPool n) (ha : (e.segment i).state = .allocated) (hge : g.state ≠ .erased)
    (hgd : g.state ≠ .dirty) : (e.put (.segment i g)).HasPool n := by
  have he : (e.segment i).state ≠ .erased := by rw [ha]; exact SegState.noConfusion
  have hd : (e.segment i).state ≠ .dirty := by rw [ha]; exact SegState.noConfusion
  exact Pool.place k he hd hge hgd

theorem hasPool_of_pooled (hw : e.walked) : e.HasPool e.segmentTotal := by
  rw [pooled_iff] at h
  exact (h.2 hw).1

section Programming
variable {r : ProgReq} {i : Nat} {w : Bool} (hl : e.ssc.link = .programming r i w)
include hl

theorem programming_allocated (hw : e.walked) : (e.segment i).state = .allocated := by
  rw [pooled_iff] at h
  exact (h.2 hw).2.1 r i w (.inr hl)

theorem linkSegment_pooled (b : Nat) : (e.linkSegment b i).recordResult.pooled := by
  have hwithin := linkSegment_within e b i
  refine pooled_recordResult h (hwithin.keeps .catalogue rfl) (hwithin.walked rfl).1 (fun hw => ?_)
  have htotal : (e.linkSegment b i).segmentTotal = e.segmentTotal :=
    total_congr (hwithin.keeps .signature rfl)
  rw [htotal]
  have ha := programming_allocated h hl hw
  unfold Engine.linkSegment
  split
  · exact hasPool_of_pooled h hw
  · extract_lets e1 e2
    have h1 : e1.HasPool e.segmentTotal := place_pool (hasPool_of_pooled h hw) ha SegState.noConfusion SegState.noConfusion
    have h2 : e2.HasPool e.segmentTotal := by
      unfold e2
      split
      · exact h1
      · exact (putSegment_work e1 _ (g := { e1.segment _ with next := some i }) rfl).pool _ h1
    exact h2

theorem unlinked_pooled : (e.joinDirty i).recordResult.pooled := by
  have hwithin := joinDirty_within e i
  refine pooled_recordResult h (hwithin.keeps .catalogue rfl) (hwithin.walked rfl).1 (fun hw => ?_)
  have htotal : (e.joinDirty i).segmentTotal = e.segmentTotal :=
    total_congr (hwithin.keeps .signature rfl)
  have ha := programming_allocated h hl hw
  rw [htotal]
  exact joinDirty_pool (hasPool_of_pooled h hw) (by rw [ha]; exact SegState.noConfusion) (by rw [ha]; exact SegState.noConfusion)

theorem retired_pooled (n : Nat) : (e.put (.segment i { state := .retired, body := none, next := none, eraseFailures := n })).recordResult.pooled :=
  pooled_recordResult h rfl (fun hw => hw) (fun hw =>
    place_pool (hasPool_of_pooled h hw) (programming_allocated h hl hw) SegState.noConfusion SegState.noConfusion)

end Programming

end Link

end Sys2Proof.Machine

namespace Sys2Proof.Machine

/-! Proofs about section 4: the pool through every command, and as the store check builds it. -/

/-! ## The catalogue memory's map -/

theorem risingFrom_filter {α : Type} (f : Nat × α → Bool) : ∀ (lo : Option Nat) (t : Tab α), Tab.risingFrom lo t = true → Tab.risingFrom lo (t.filter f) = true
  | _, [], _ => rfl
  | lo, (k, v) :: t, h => by
    obtain ⟨hk, ht⟩ := Tab.risingFrom_cons.1 h
    rw [List.filter_cons]
    split
    · exact Tab.risingFrom_cons.2 ⟨hk, risingFrom_filter f _ t ht⟩
    · refine Tab.risingFrom_weaken (fun n hn => ?_) _ (risingFrom_filter f _ t ht)
      cases lo with
      | none => rfl
      | some l =>
        have h1 : l < k := by simpa [Tab.above] using hk
        have h2 : k < n := by simpa [Tab.above] using hn
        simp only [Tab.above, decide_eq_true_eq]
        omega

/-- A write leaves the map's entries rising. -/
theorem apply_segments_rising (w : CatWrite) {c : Catalogue} (h : Tab.risingFrom none c.segments = true) :
    Tab.risingFrom none (w.apply c).segments = true := by
  cases w
  case segment i g => exact risingFrom_set i g h
  case cutMap n => exact risingFrom_filter _ _ _ h
  case blank => rfl
  case boxHead m r | boxTail m r =>
    unfold CatWrite.apply
    dsimp only
    split <;> exact h
  case recordPrev r p | recordNext r p =>
    unfold CatWrite.apply
    dsimp only
    split <;> exact h
  all_goals exact h

/-! ## The pool through the store's operations -/

section Kept
variable {e : Engine} (h : e.pooled)
include h

theorem erased_pooled {i : Nat} (hl : e.ssc.link = .erasing i) : (e.eraseDone i).pooled := by
  refine pooled_recordResult h rfl (fun hw => hw) (fun hw => ?_)
  have hhead : Run.head? e.ssc.eraseQueue = some i := by
    rw [pooled_iff] at h
    exact (h.2 hw).2.2 i hl
  exact Pool.erased (g := { state := .erased, body := none, next := none, eraseFailures := 0 }) (hasPool_of_pooled h hw) hhead rfl

theorem eraseFailed_pooled {i : Nat} {c : StoreCause} (hl : e.ssc.link = .erasing i) : (e.eraseFailed i c).pooled := by
  have hhead : e.walked → Run.head? e.ssc.eraseQueue = some i := fun hw => by
    rw [pooled_iff] at h
    exact (h.2 hw).2.2 i hl
  unfold Engine.eraseFailed
  split
  · exact pooled_recordResult h rfl (fun hw => hw) (fun hw =>
      Pool.requeued (g := { state := .dirty, body := none, next := none, eraseFailures := 1 }) (hasPool_of_pooled h hw) (hhead hw) rfl)
  · refine examinePool_pooled ((Engine.PoolWork.of_within (raise_within _ _ _) rfl).pooled (pooled_recordResult h rfl (fun hw => hw) (fun hw => ?_)))
    exact Pool.drop (g := { state := .retired, body := none, next := none, eraseFailures := (e.segment i).eraseFailures }) (hasPool_of_pooled h hw)
      (hhead hw) SegState.noConfusion SegState.noConfusion

/-- The write in flight reaches the catalogue memory. -/
theorem write_pooled (w : CatWrite) : ({ e with cat := w.apply e.cat } : Engine).pooled := ⟨apply_segments_rising w h.1, h.2⟩

/-- A program that is no longer wanted stays in the link's hands. -/
theorem unwant_pooled (k : Nat) (t : ProgReq → Bool) : (e.unwant k t).pooled := by
  rw [pooled_iff] at h ⊢
  refine ⟨h.1, fun w => ?_⟩
  obtain ⟨hpool, hp, he⟩ := h.2 w
  have hlink : (e.unwant k t).ssc.link = match e.ssc.link with
      | .allocating r s w => .allocating r s (w && !(r.session = k && t r))
      | .programming r s w => .programming r s (w && !(r.session = k && t r))
      | l => l := rfl
  refine ⟨hpool, fun r i v hl => ?_, fun i hl => ?_⟩
  · rw [hlink] at hl
    cases hlk : e.ssc.link with
    | allocating r' i' v' | programming r' i' v' =>
      rw [hlk] at hl
      have hri : r' = r ∧ i' = i := by rcases hl with hl | hl <;> cases hl; exact ⟨rfl, rfl⟩
      obtain ⟨rfl, rfl⟩ := hri
      exact hp r' i' v' (by rw [hlk]; simp)
    | idle | reading _ _ | erasing _ | recording =>
      rw [hlk] at hl
      rcases hl with hl | hl <;> exact Link.noConfusion hl
  · rw [hlink] at hl
    cases hlk : e.ssc.link with
    | erasing i' =>
      rw [hlk] at hl
      exact he i (hlk.trans hl)
    | allocating _ _ _ | programming _ _ _ | idle | reading _ _ | recording =>
      rw [hlk] at hl
      exact Link.noConfusion hl

theorem issue_pooled {r : ProgReq} {i : Nat} {w : Bool} (hl : e.ssc.link = .allocating r i w) :
    (e.modSsc (fun c => { c with link := .programming r i w, opTimer := 0 })).pooled := by
  rw [pooled_iff] at h ⊢
  refine ⟨h.1, fun hw => ⟨(h.2 hw).1, fun r' j v k => ?_, fun j k => Link.noConfusion k⟩⟩
  rcases k with k | k
  · exact Link.noConfusion k
  · obtain ⟨-, rfl, -⟩ := Link.programming.inj k
    exact (h.2 hw).2.1 r i w (.inl hl)

theorem pooled_of_walked {g : Engine} (hw : g.walked → e.walked) (ht : g.tab = e.tab) (hc : g.cat = e.cat) (hl : g.ssc.link = e.ssc.link)
    (hf : g.ssc.freeList = e.ssc.freeList) (hq : g.ssc.eraseQueue = e.ssc.eraseQueue) : g.pooled := by
  rw [pooled_iff] at h ⊢
  refine ⟨hc ▸ h.1, fun w => ?_⟩
  obtain ⟨hpool, hp, he⟩ := h.2 (hw w)
  refine ⟨?_, fun r i v k => ?_, fun i k => ?_⟩
  · rw [ht, hf, hq, total_congr (congrArg Catalogue.signature ht)]
    exact hpool
  · rw [segment_congr (congrArg Catalogue.segments ht)]
    exact hp r i v (hl ▸ k)
  · rw [hq]
    exact he i (hl ▸ k)

/-- One LOSC period with no command leaves the pool and the link. -/
theorem losc_pooled : ({ e with sessions := e.sessions.map (fun kx => (kx.1, kx.2.losc)), ssc := e.ssc.losc } : Engine).pooled := by
  have hssc : e.ssc.losc.link = e.ssc.link ∧ e.ssc.losc.freeList = e.ssc.freeList ∧ e.ssc.losc.eraseQueue = e.ssc.eraseQueue ∧
      e.ssc.losc.service = e.ssc.service ∧ e.ssc.losc.start = e.ssc.start := by
    unfold Ssc.losc
    split <;> exact ⟨rfl, rfl, rfl, rfl, rfl⟩
  obtain ⟨hl, hf, hq, hs, ht⟩ := hssc
  exact pooled_of_walked h (fun hw => hw.imp (fun k => hs ▸ k) (fun k => ht ▸ k)) rfl rfl hl hf hq

end Kept

/-- What the part does outside a check keeps the pool. -/
theorem pooled_worked : Engine.Worked Engine.pooled where
  session k f e h := (Engine.PoolWork.of_within (modSession_within e k f) rfl).pooled h
  slots i o e h := (Engine.PoolWork.of_within (slots_within e i o) rfl).pooled h
  programs q e h := (Engine.PoolWork.of_within (queues_within e e.ssc.readQueue q) rfl).pooled h
  reads q e h := (Engine.PoolWork.of_within (queues_within e q e.ssc.progQueue) rfl).pooled h
  unwant k t e h := unwant_pooled h k t
  begun b f e h := (Engine.PoolWork.of_within (modHold_within e b _) rfl).pooled h
  charge m f e h := (Engine.PoolWork.of_within (charge_within e m f) rfl).pooled h
  lamps f e h := (Engine.PoolWork.of_within (modLmp_within e f) rfl).pooled h
  raise k d e h := (Engine.PoolWork.of_within (raise_within e k d) rfl).pooled h
  cut b f l e h := (cutChain_work e b f l).pooled h
  seals b o n e h := (Engine.PoolWork.of_within (sealBody_within e b o n) rfl).pooled h
  free r e h := (freeRecord_work e r).pooled h
  abandon m g e h := (abandonGreeting_work e m g).pooled h
  sealed r c e h := (Engine.PoolWork.of_within (recordSealed_within e r c) rfl).pooled h
  replace m g e h := (replaceGreeting_work e m g).pooled h
  reader b e h := (dropReader_work e b).pooled h
  target now c n x e h := (Engine.PoolWork.of_within (playTarget_within e now c n x) rfl).pooled h
  flush t e h := (Engine.PoolWork.of_within (flush_within e t) rfl).pooled h
  job j e _ h := (endJob_work e j).pooled h
  erase e h := startErase_pooled h
  read e h := startRead_pooled h
  program r i is e hf h := startProgram_pooled h hf
  channel f e _ h := (Engine.PoolWork.of_within (modMgc_within e f) rfl).pooled h
  byteIn b e h := (Engine.PoolWork.of_within (rxByte_receiving b e).within rfl).pooled h
  packetIn c g ps e h := (Engine.PoolWork.of_within (goodPacket_receiving (c :: g :: ps) e).within rfl).pooled h
  queue q a e h := (Engine.PoolWork.of_within (writes_within e q a) rfl).pooled h
  write w e h := write_pooled h w
  dirty is e h := (makeAllDirty_work e is).pooled h
  pool e h := examinePool_pooled h
  idle e h := pooled_link h (l := .idle) (n := e.ssc.opTimer) (fun _ _ _ => ⟨Link.noConfusion, Link.noConfusion⟩) (fun _ => Link.noConfusion)
  retry r n e h := pooled_link h (l := .reading r n) (n := 0) (fun _ _ _ => ⟨Link.noConfusion, Link.noConfusion⟩) (fun _ => Link.noConfusion)
  issue r i w e hl h := issue_pooled h hl
  stored t e h := (Engine.PoolWork.of_within (flash_within e t) rfl).pooled h
  linked r i w e hl h := linkSegment_pooled h hl r.body
  unlinked r i w e hl h := unlinked_pooled h hl
  retired r i w n e hl h := retired_pooled h hl n
  erased i e hl h := erased_pooled h hl
  kept i c e hl h := eraseFailed_pooled h hl
  losc e h := losc_pooled h
  recipient now e h := (Engine.PoolWork.of_within (takeRecipient_within e now) rfl).pooled h
  copied e h := (Engine.PoolWork.of_within (modDle_within e _) rfl).pooled h
  examine r day e h := (examineEntry_work e r day).pooled h
  service p e hp h := pooled_of_walked h (fun _ => .inr (by rw [hp]; exact nofun)) rfl rfl rfl rfl rfl
  freeze e h := pooled_of_walked h (fun hw => absurd hw (fun hw => hw.elim nofun (fun h => h rfl))) rfl rfl rfl rfl rfl
  format e hs h := pooled_of_walked h (fun _ => .inl hs) rfl rfl rfl rfl rfl
  create q now e _ _ h := (Engine.PoolWork.of_within (target_within e q now _) rfl).pooled h
  listen b e h := (Engine.PoolWork.of_within (modHold_within e b _) rfl).pooled h
  accept r x j e _ _ h := (Engine.PoolWork.of_within (acceptJob_within e j) rfl).pooled h
  cancel n e h := (Engine.PoolWork.of_within (modDle_within e _) rfl).pooled h
  clear l e h := (Engine.PoolWork.of_within (clearList_within e l) rfl).pooled h
  add l m e _ _ _ h := (Engine.PoolWork.of_within (addMember_within e l m) rfl).pooled h
  cls k c e h := (Engine.PoolWork.of_within (put_within e (.cls k c)) rfl).pooled h
  settings x e h := (Engine.PoolWork.of_within (put_within e (.settings x)) rfl).pooled h
  fields m f e h := (Engine.PoolWork.of_within (put_within e (.boxFields m f)) rfl).pooled h
  mark now r mk e h := (Engine.PoolWork.of_within (markRecord_within e now r mk) rfl).pooled h
  slot m g e h := (emptySlot_work e m g).pooled h
  quietly r e h := (freeRecordQuietly_work e r).pooled h

end Sys2Proof.Machine

namespace Sys2Proof.Machine

/-! Proofs about section 4.6: the pool as the store check builds it. -/

/-! ## The erase queue built from the map (R72, R92) -/

theorem mem_run (a n i : Nat) : i ∈ (List.range n).map (fun k => a + k) ↔ a ≤ i ∧ i < a + n := by
  rw [List.mem_map]
  constructor
  · rintro ⟨k, hk, rfl⟩
    rw [List.mem_range] at hk
    omega
  · rintro ⟨h1, h2⟩
    exact ⟨i - a, List.mem_range.2 (by omega), by omega⟩

theorem run_nodup (a n : Nat) : ((List.range n).map (fun k => a + k)).Nodup :=
  List.nodup_range.map fun _ _ hab => Nat.add_left_cancel hab

/-- The segments of a run that may be empty. -/
theorem segments_gap (lo i : Nat) : Run.segments (if lo < i then [{ start := lo, count := i - lo }] else []) = (List.range (i - lo)).map (fun k => lo + k) := by
  by_cases h : lo < i
  · rw [if_pos h]
    simp [Run.segments]
  · have hz : i - lo = 0 := by omega
    rw [if_neg h, hz]
    rfl

theorem segments_append (p q : List Run) : Run.segments (p ++ q) = Run.segments p ++ Run.segments q := List.flatMap_append

theorem gapRuns_positive (total : Nat) : ∀ (is : List Nat) (lo : Nat), ∀ r ∈ gapRuns total lo is, 0 < r.count
  | [], lo, r, h => by
    unfold gapRuns at h
    split at h
    · rw [List.mem_singleton.1 h]
      simpa using by assumption
    · exact absurd h List.not_mem_nil
  | i :: is, lo, r, h => by
    unfold gapRuns at h
    rcases List.mem_append.1 h with h | h
    · split at h
      · rw [List.mem_singleton.1 h]
        simpa using by assumption
      · exact absurd h List.not_mem_nil
    · exact gapRuns_positive total is _ r h

/-- The runs name the segments up to the total that the list does not, and perhaps some past it below a listed one. -/
theorem gapRuns_segments (total : Nat) : ∀ (is : List Nat) (lo : Nat), is.Pairwise (· < ·) → (∀ i ∈ is, lo ≤ i) →
    (Run.segments (gapRuns total lo is)).Nodup ∧ (∀ i ∈ Run.segments (gapRuns total lo is), lo ≤ i ∧ i ∉ is) ∧
      ∀ i, lo ≤ i → i < total → i ∉ is → i ∈ Run.segments (gapRuns total lo is)
  | [], lo, _, _ => by
    have hgap : Run.segments (gapRuns total lo []) = (List.range (total - lo)).map (fun k => lo + k) := by
      unfold gapRuns
      exact segments_gap lo total
    rw [hgap]
    refine ⟨run_nodup _ _, fun i hi => ⟨((mem_run _ _ _).1 hi).1, List.not_mem_nil⟩, fun i h1 h2 _ => (mem_run _ _ _).2 ⟨h1, by omega⟩⟩
  | k :: is, lo, hs, hlo => by
    obtain ⟨hk, hs⟩ := List.pairwise_cons.1 hs
    obtain ⟨hnodup, hin, hall⟩ := gapRuns_segments total is (k + 1) hs (fun i hi => hk i hi)
    have hgap : Run.segments (gapRuns total lo (k :: is)) =
        (List.range (k - lo)).map (fun j => lo + j) ++ Run.segments (gapRuns total (k + 1) is) := by
      rw [← segments_gap lo k, ← segments_append]
      rfl
    rw [hgap]
    refine ⟨List.nodup_append.2 ⟨run_nodup _ _, hnodup, fun a ha b hb hab => ?_⟩, fun i hi => ?_, fun i h1 h2 h3 => ?_⟩
    · have h1 := ((mem_run _ _ _).1 ha).2
      have h2 := (hin b hb).1
      have h3 := hlo k List.mem_cons_self
      omega
    · rcases List.mem_append.1 hi with hi | hi
      · obtain ⟨h1, h2⟩ := (mem_run _ _ _).1 hi
        refine ⟨h1, fun hm => ?_⟩
        rcases List.mem_cons.1 hm with rfl | hm
        · omega
        · have := hk i hm
          omega
      · obtain ⟨h1, h2⟩ := hin i hi
        have hlok := hlo k List.mem_cons_self
        refine ⟨by omega, fun hm => ?_⟩
        rcases List.mem_cons.1 hm with rfl | hm
        · omega
        · exact h2 hm
    · obtain ⟨hik, his⟩ := not_or.1 (fun h => h3 (List.mem_cons.2 h))
      rcases Nat.lt_or_gt_of_ne hik with hlt | hgt
      · exact List.mem_append_left _ ((mem_run _ _ _).2 ⟨h1, by omega⟩)
      · exact List.mem_append_right _ (hall i hgt h2 his)

/-! ## The lists built (R71, R72) -/

theorem mem_stateKeys {t : Tab SegEntry} (h : Tab.risingFrom none t = true) (f : SegEntry → Bool) (i : Nat) :
    i ∈ (t.filter (fun x => f x.2)).map (·.1) ↔ ∃ g, Tab.find? t i = some g ∧ f g = true := by
  rw [List.mem_map]
  constructor
  · rintro ⟨⟨j, g⟩, hj, rfl⟩
    obtain ⟨hmem, hf⟩ := List.mem_filter.1 hj
    exact ⟨g, Tab.find?_of_mem h _ hmem, hf⟩
  · rintro ⟨g, hg, hf⟩
    exact ⟨(i, g), List.mem_filter.2 ⟨Tab.mem_of_find? hg, hf⟩, rfl⟩

theorem rising_pairwise {α : Type} : ∀ (lo : Option Nat) (t : Tab α), Tab.risingFrom lo t = true → (t.map (·.1)).Pairwise (· < ·)
  | _, [], _ => List.Pairwise.nil
  | _, (k, _) :: t, h => by
    obtain ⟨-, ht⟩ := Tab.risingFrom_cons.1 h
    refine List.pairwise_cons.2 ⟨fun j hj => ?_, rising_pairwise _ t ht⟩
    obtain ⟨x, hx, rfl⟩ := List.mem_map.1 hj
    exact Tab.lt_of_mem_rising ht x hx

theorem segment_state (e : Engine) (i : Nat) : (e.segment i).state = ((Tab.find? e.tab.segments i).map (·.state)).getD .dirty := by
  unfold Engine.segment Tab.get
  cases Tab.find? e.tab.segments i <;> rfl

/-- Over a map with rising entries the two lists are a pool. -/
theorem buildLists_pool {e : Engine} (h : Tab.risingFrom none e.tab.segments = true) : e.buildLists.HasPool e.segmentTotal := by
  have hnot := rising_pairwise none _ (risingFrom_filter (fun x => decide (x.2.state ≠ .dirty)) none _ h)
  have herased := rising_pairwise none _ (risingFrom_filter (fun x => decide (x.2.state = .erased)) none _ h)
  obtain ⟨hnodup, hin, hall⟩ := gapRuns_segments e.segmentTotal _ 0 hnot (fun i _ => Nat.zero_le i)
  have hfree : ∀ i, i ∈ (e.tab.segments.filter (fun x => decide (x.2.state = .erased))).map (·.1) ↔ (e.segment i).state = .erased := fun i => by
    rw [mem_stateKeys h (fun g => decide (g.state = .erased)), segment_state]
    cases Tab.find? e.tab.segments i <;> simp
  have hdirty : ∀ i, i ∈ (e.tab.segments.filter (fun x => decide (x.2.state ≠ .dirty))).map (·.1) ↔ (e.segment i).state ≠ .dirty := fun i => by
    rw [mem_stateKeys h (fun g => decide (g.state ≠ .dirty)), segment_state]
    cases Tab.find? e.tab.segments i <;> simp
  refine ⟨h, herased.imp (fun k => Nat.ne_of_lt k), hfree, hnodup, gapRuns_positive _ _ _, fun i hi => ?_, fun i hi hs => ?_⟩
  · exact not_not.1 (fun k => (hin i hi).2 ((hdirty i).2 k))
  · exact hall i (Nat.zero_le i) hi (fun k => (hdirty i).1 k hs)

/-! ## What the catalogue writes of the check keep -/

section Puts
variable {P : Engine → Prop} (hput : ∀ w e, P e → P (e.put w)) {e : Engine}
include hput

theorem dropRecords_kept (h : P e) : P e.dropRecords :=
  foldl_kept (fun _ _ h => hput _ _ (hput _ _ h)) _ (foldl_kept (fun _ _ h => hput _ _ h) _ h)

theorem fitMap_kept (c : Nat) (h : P e) : P (e.fitMap c) := by
  unfold Engine.fitMap
  split
  · exact hput _ _ (hput _ _ h)
  · refine ite_kept (hput _ _ h) (ite_kept (hput _ _ ?_) h)
    exact foldl_kept (fun _ _ h => hput _ _ h) _ (foldl_kept (fun _ _ h => hput _ _ h) _
      (dropRecords_kept hput (foldl_kept (fun _ _ h => hput _ _ h) _ (hput _ _ h))))

theorem clampSettings_kept (h : P e) : P e.clampSettings := ite_kept h (hput _ _ h)

theorem dirtyAllocated_kept (h : P e) : P e.dirtyAllocated := foldl_kept (fun _ _ h => hput _ _ h) _ h

end Puts

/-- The map rises, the link is idle and the catalogue memory stands. -/
def Engine.mapReady (c : Catalogue) (e : Engine) : Prop := Tab.risingFrom none e.tab.segments = true ∧ e.ssc.link = .idle ∧ e.cat = c

theorem put_mapReady {c : Catalogue} (w : CatWrite) (e : Engine) (h : e.mapReady c) : (e.put w).mapReady c := ⟨apply_segments_rising w h.1, h.2⟩

theorem buildLists_pooled {e : Engine} {c : Catalogue} (hc : Tab.risingFrom none c.segments = true) (h : e.mapReady c) : e.buildLists.pooled := by
  obtain ⟨hrise, hlink, hcat⟩ := h
  have hlink' : e.buildLists.ssc.link = .idle := hlink
  rw [pooled_iff]
  refine ⟨?_, fun _ => ⟨buildLists_pool hrise, fun r i v k => ?_, fun i k => ?_⟩⟩
  · show Tab.risingFrom none e.cat.segments = true
    rw [hcat, hc]
  · rw [hlink'] at k
    rcases k with k | k <;> exact Link.noConfusion k
  · rw [hlink'] at k
    exact Link.noConfusion k

/-! ## The steps behind the lists -/

section Steps
variable (e : Engine)

theorem walk_work : e.dirtyAllocated.buildLists.PoolWork e.walk := by
  unfold Engine.walk
  extract_lets e1 e2 chained data
  have h2 : e1.PoolWork e2 := .of_within (Engine.Within.foldl (fun e b => fitOpenBody_within e b) _ e1) rfl
  exact h2.trans (makeAllDirty_work _ _)

theorem modReport_work (f : StartReport → StartReport) : e.PoolWork (e.modReport f) := by
  refine ⟨fun _ h => h, fun _ h => h, fun _ h => h, rfl, rfl, rfl, fun hw => hw.imp id (fun h k => h ?_)⟩
  show e.ssc.start.map f = none
  rw [k]
  rfl

theorem reconcile_work (b : Nat) : e.PoolWork (e.reconcile b) := by
  unfold Engine.reconcile
  split
  · refine .ite (.of_within (recordSealed_within e _ _) rfl) (.ite ?_ ?_)
    · exact ((Engine.PoolWork.of_within (sealBody_within e _ _ _) rfl).trans (.of_within (recordSealed_within _ _ _) rfl)).trans (modReport_work _ _)
    · exact (((Engine.PoolWork.of_within (detachRecord_within e _ _) rfl).trans (.of_within (modShare_within _ _ _) rfl)).trans
        (.of_within (handInputs_within _ _) rfl)).trans (modReport_work _ _)
  · exact .refl _

theorem releaseAtStart_work (b : Nat) : e.PoolWork (e.releaseAtStart b) := by
  unfold Engine.releaseAtStart
  split
  · exact .refl _
  · refine .ite (.refl _) (((makeAllDirty_work e (e.reached b)).trans (.of_within (ps := [.bodies, .writes, .holds]) ?_ rfl)).trans (modReport_work _ _))
    exact ((put_within _ _).mono rfl).step (modHold_within _ _ _) rfl

theorem checkSteps_work : e.clampSettings.dirtyAllocated.buildLists.PoolWork e.checkSteps := by
  have h1 : e.clampSettings.walk.PoolWork e.repaired := by
    have hrepair : Engine.Within [.lists, .members, .writes, .records, .mailboxes, .holds, .counters] e.clampSettings.walk e.repaired := by
      have hlists := (repairLists_within e.clampSettings.walk).mono (qs := [.lists, .members, .writes, .records, .mailboxes, .holds, .counters]) rfl
      exact ((hlists.trans ((repairBoxes_within _ _).mono rfl)).step (openExtents_within _) rfl).step (recount_within _) rfl
    exact .of_within hrepair rfl
  have h2 : e.repaired.PoolWork e.repaired.reconciled := by
    unfold Engine.reconciled
    extract_lets e3
    have h3 : e.repaired.PoolWork e3 := (Engine.PoolWork.foldl (fun e b => reconcile_work e b) _ _).trans (.of_within (clearStagings_within _) rfl)
    exact h3.trans (.of_within (Engine.Within.foldl (fun e b => fitShare_within e b) _ e3) rfl)
  have h3 : e.repaired.reconciled.PoolWork e.repaired.reconciled.released := .foldl (fun e b => releaseAtStart_work e b) _ _
  rw [checkSteps_eq]
  exact (walk_work _).trans (h1.trans (h2.trans h3))

end Steps

/-! ## A reset -/

theorem storeCheck_pooled (cause : StartCause) (x : Selects) {e : Engine} {c : Catalogue} (hc : Tab.risingFrom none c.segments = true) (h : e.mapReady c)
    (hw : ¬ e.walked) : (e.storeCheck cause x).pooled := by
  obtain ⟨hrise, hlink, hcat⟩ := h
  obtain ⟨e1, -, hwithin, -, heq⟩ := storeCheck_eq e cause x
  rw [heq]
  split
  · refine ⟨?_, fun k => absurd k hw⟩
    show Tab.risingFrom none e.cat.segments = true
    rw [hcat, hc]
  · have h1 : e1.mapReady c := ⟨(hwithin.keeps .segments rfl : e1.tab.segments = e.tab.segments) ▸ hrise,
      ((hwithin.keeps .link rfl).1 : e1.ssc.link = e.ssc.link).trans hlink, (hwithin.keeps .catalogue rfl : e1.cat = e.cat).trans hcat⟩
    have h2 : (e1.fitMap (countSelects x)).clampSettings.dirtyAllocated.mapReady c :=
      dirtyAllocated_kept put_mapReady (clampSettings_kept put_mapReady (fitMap_kept put_mapReady _ h1))
    have h3 := (checkSteps_work _).pooled (buildLists_pooled hc h2)
    exact (Engine.PoolWork.of_within ((flush_within _ .nothing).mono (qs := [.writes, .lmp]) rfl |>.step (modLmp_within _ (fun _ => e.lmp)) rfl) rfl).pooled h3

theorem reset_not_walked (cat : Catalogue) (flash : Tab Samples) : ¬ (Engine.reset cat flash).walked := fun hw => hw.elim nofun (fun h => h rfl)

/-- What a reset does to a property of the blocks: it is kept where the store check brings it and where the part is not walked. -/
theorem reset_step {P : Engine → Prop} (hP : Engine.Worked P) {s t : State} (h : P s.eng) (hfrozen : P { Engine.reset s.eng.cat s.eng.ssc.flash with
      ssc := { (Engine.reset s.eng.cat s.eng.ssc.flash).ssc with service := .frozen } })
    (hcheck : (∃ c ∈ s.pending.head?, resets c = true) → ∀ cause x, P ((Engine.reset s.eng.cat s.eng.ssc.flash).storeCheck cause x))
    (hst : step s = .next t) : P t.eng := by
  refine hP.step h (fun c rest hp hc hex => ?_) hst
  have hnext : ∃ c ∈ s.pending.head?, resets c = true := ⟨c, by rw [hp]; rfl, hc⟩
  cases c <;> cases hc
  case powerOn x low =>
    cases hex
    cases low
    · exact hcheck hnext _ x
    · exact hfrozen
  case restartReset x =>
    cases hex
    rcases restartReset_eng x { s with pending := rest } with he | he
    · rw [he]
      exact h
    · rw [he]
      exact hcheck hnext _ x

/-- Every step keeps the pool. -/
theorem step_pooled {s t : State} (h : s.eng.pooled) (hst : step s = .next t) : t.eng.pooled :=
  reset_step pooled_worked h ⟨h.1, fun hw => absurd hw (fun hw => hw.elim nofun (fun h => h rfl))⟩
    (fun _ cause x => storeCheck_pooled cause x h.1 ⟨h.1, rfl, rfl⟩ (reset_not_walked _ _)) hst

end Sys2Proof.Machine

namespace Sys2Proof.Machine

/-! Proofs about section 6: the counters are the numbers of the records (R125). -/

/-! ## Counting the entries of a table -/

/-- How many entries of a table a test names. -/
def numberOf {α : Type} (q : α → Bool) (t : Tab α) : Nat := (t.filter (fun x => q x.2)).length

/-- What an entry adds to a count. -/
def weight {α : Type} (q : α → Bool) (o : Option α) : Nat := (o.any q).toNat

section Count
variable {α : Type} {t t' : Tab α} (q : α → Bool)

/-- The keys of the entries that a test names. -/
def namedBy (q : α → Bool) (t : Tab α) : List Nat := (t.filter (fun x => q x.2)).map (·.1)

theorem count_eq_named (t : Tab α) : numberOf q t = (namedBy q t).length := by rw [numberOf, namedBy, List.length_map]

theorem named_nodup (h : Tab.risingFrom none t = true) : (namedBy q t).Nodup := Tab.keys_nodup (risingFrom_filter _ none t h)

theorem mem_named (h : Tab.risingFrom none t = true) (n : Nat) : n ∈ namedBy q t ↔ (Tab.find? t n).any q = true := by
  unfold namedBy
  rw [List.mem_map]
  constructor
  · rintro ⟨x, hx, rfl⟩
    obtain ⟨hmem, hq⟩ := List.mem_filter.1 hx
    rw [Tab.find?_of_mem h x hmem]
    exact hq
  · intro hn
    obtain ⟨v, hv, hq⟩ := (Option.any_eq_true _ _).1 hn
    exact ⟨(n, v), List.mem_filter.2 ⟨Tab.mem_of_find? hv, hq⟩, rfl⟩

/-- Tables that a test finds alike at every key have its count. -/
theorem count_congr (h : Tab.risingFrom none t = true) (h' : Tab.risingFrom none t' = true) (k : ∀ n, (Tab.find? t' n).any q = (Tab.find? t n).any q) :
    numberOf q t' = numberOf q t := by
  rw [count_eq_named, count_eq_named]
  exact ((List.perm_ext_iff_of_nodup (named_nodup q h') (named_nodup q h)).2 (fun n => by rw [mem_named q h', mem_named q h, k])).length_eq

/-- An entry counts for its weight. -/
theorem count_erase (h : Tab.risingFrom none t = true) (n : Nat) : numberOf q t = numberOf q (Tab.erase n t) + weight q (Tab.find? t n) := by
  have he := Tab.risingFrom_erase n none t h
  have hmem : ∀ m, m ∈ namedBy q (Tab.erase n t) ↔ m ≠ n ∧ m ∈ namedBy q t := fun m => by
    rw [mem_named q he, mem_named q h, Tab.find?_erase]
    by_cases hm : m = n <;> simp [hm]
  unfold weight
  rw [count_eq_named, count_eq_named]
  cases hw : (Tab.find? t n).any q with
  | true =>
    have hperm : (namedBy q t).Perm (n :: namedBy q (Tab.erase n t)) := by
      refine (List.perm_ext_iff_of_nodup (named_nodup q h) (List.nodup_cons.2 ⟨fun k => ((hmem n).1 k).1 rfl, named_nodup q he⟩)).2 (fun m => ?_)
      rw [List.mem_cons, hmem]
      by_cases hm : m = n
      · simp only [hm, true_or, iff_true]
        exact (mem_named q h n).2 hw
      · simp [hm]
    exact hperm.length_eq
  | false =>
    have hperm : (namedBy q t).Perm (namedBy q (Tab.erase n t)) := by
      refine (List.perm_ext_iff_of_nodup (named_nodup q h) (named_nodup q he)).2 (fun m => ?_)
      rw [hmem]
      refine ⟨fun k => ⟨?_, k⟩, fun k => k.2⟩
      rintro rfl
      rw [mem_named q h, hw] at k
      exact Bool.noConfusion k
    exact hperm.length_eq

/-- Tables alike but for one key differ in a count by that key's weights. -/
theorem count_differs (h : Tab.risingFrom none t = true) (h' : Tab.risingFrom none t' = true) (r : Nat)
    (k : ∀ n, n ≠ r → (Tab.find? t' n).any q = (Tab.find? t n).any q) :
    numberOf q t' + weight q (Tab.find? t r) = numberOf q t + weight q (Tab.find? t' r) := by
  have hsame : numberOf q (Tab.erase r t') = numberOf q (Tab.erase r t) :=
    count_congr q (Tab.risingFrom_erase r none t h) (Tab.risingFrom_erase r none t' h') (fun n => by
      rw [Tab.find?_erase, Tab.find?_erase]
      by_cases hn : n = r
      · simp [hn]
      · rw [if_neg hn, if_neg hn, k n hn])
  rw [count_erase q h r, count_erase q h' r, hsame]
  omega

end Count

/-! ## A mailbox's counters (R125) -/

/-- The counters are the counts that a test of state and urgency names. -/
def Counters.tallied (c : Counters) (T : (RecState → Bool → Bool) → Nat) : Prop :=
  c.new = T (fun s _ => decide (s = .new)) ∧ c.urgent = T (fun s u => decide (s = .new) && u) ∧ c.heard = T (fun s _ => decide (s = .heard)) ∧
    c.saved = T (fun s _ => decide (s = .saved)) ∧ c.recording = T (fun s _ => decide (s = .recording)) ∧ c.total = T (fun _ _ => true)

section Tallied
variable {c : Counters} {T T' : (RecState → Bool → Bool) → Nat}

theorem tallied_congr (h : c.tallied T) (k : ∀ f, T' f = T f) : c.tallied T' := by
  unfold Counters.tallied at h ⊢
  simp only [k]
  exact h

theorem tallied_charged (h : c.tallied T) (n : Nat) : ({ c with charged := n } : Counters).tallied T := h

theorem join_tallied (h : c.tallied T) (s : RecState) (u : Bool) (k : ∀ f, T' f = T f + (f s u).toNat) : (Counters.join s u c).tallied T' := by
  obtain ⟨h1, h2, h3, h4, h5, h6⟩ := h
  unfold Counters.tallied Counters.join Counters.modState
  cases s <;> cases u <;> simp [k, h1, h2, h3, h4, h5, h6]

theorem leave_tallied (h : c.tallied T) (s : RecState) (u : Bool) (k : ∀ f, T' f + (f s u).toNat = T f) : (Counters.leave s u c).tallied T' := by
  obtain ⟨h1, h2, h3, h4, h5, h6⟩ := h
  have k : ∀ f, T f = T' f + (f s u).toNat := fun f => (k f).symm
  unfold Counters.tallied Counters.leave Counters.modState
  cases s <;> cases u <;> simp [k, h1, h2, h3, h4, h5, h6]

theorem pass_tallied (h : c.tallied T) {s s' : RecState} (hs : s ≠ s') (u : Bool) (k : ∀ f, T' f + (f s u).toNat = T f + (f s' u).toNat) :
    (Counters.pass s s' u c).tallied T' := by
  obtain ⟨h1, h2, h3, h4, h5, h6⟩ := h
  have k1 := k (fun s _ => decide (s = .new))
  have k2 := k (fun s u => decide (s = .new) && u)
  have k3 := k (fun s _ => decide (s = .heard))
  have k4 := k (fun s _ => decide (s = .saved))
  have k5 := k (fun s _ => decide (s = .recording))
  have k6 := k (fun _ _ => true)
  unfold Counters.tallied Counters.pass Counters.modState
  cases s <;> cases s' <;> cases u <;> simp at hs k1 k2 k3 k4 k5 k6 ⊢ <;> omega

end Tallied

/-! ## The records of a mailbox -/

/-- The test of a record by its mailbox, its state and its urgency. -/
def recordTest (m : Nat) (f : RecState → Bool → Bool) (x : Record) : Bool := decide (x.mailbox = m) && f x.state x.urgent

/-- How many records of a mailbox a test of state and urgency names. -/
def Engine.tallyOf (e : Engine) (m : Nat) (f : RecState → Bool → Bool) : Nat := numberOf (recordTest m f) e.tab.records

/-- The counters are the numbers of the records. -/
def Engine.HasCounts (e : Engine) : Prop := Tab.risingFrom none e.tab.records = true ∧ ∀ m, (e.counter m).tallied (e.tallyOf m)

theorem counted_iff (e : Engine) : e.counted ↔ Tab.risingFrom none e.cat.records = true ∧ (e.walked → e.HasCounts) := Iff.rfl

/-- What the counters look at in a record. -/
def Record.core (x : Record) : Nat × RecState × Bool := (x.mailbox, x.state, x.urgent)

theorem recordTest_core {x y : Record} (h : x.core = y.core) (m : Nat) (f : RecState → Bool → Bool) : recordTest m f x = recordTest m f y := by
  obtain ⟨hm, hs, hu⟩ : x.mailbox = y.mailbox ∧ x.state = y.state ∧ x.urgent = y.urgent := by simpa [Record.core] using h
  rw [recordTest, recordTest, hm, hs, hu]

theorem any_core {o o' : Option Record} (h : o'.map Record.core = o.map Record.core) (m : Nat) (f : RecState → Bool → Bool) :
    o'.any (recordTest m f) = o.any (recordTest m f) := by
  cases o <;> cases o' <;> simp at h ⊢
  exact recordTest_core h m f

theorem weight_some (m : Nat) (f : RecState → Bool → Bool) (x : Record) : weight (recordTest m f) (some x) = if m = x.mailbox then (f x.state x.urgent).toNat else 0 := by
  unfold weight recordTest
  by_cases hm : m = x.mailbox
  · simp [hm]
  · simp [hm, Ne.symm hm]

/-- Tables of records alike but for one entry. -/
structure AlikeBut (r : Nat) (e g : Engine) : Prop where
  rising : Tab.risingFrom none g.tab.records = true
  others : ∀ q, q ≠ r → (g.record q).map Record.core = (e.record q).map Record.core

theorem AlikeBut.tally {r : Nat} {e g : Engine} (k : AlikeBut r e g) (h : Tab.risingFrom none e.tab.records = true) (m : Nat) (f : RecState → Bool → Bool) :
    g.tallyOf m f + weight (recordTest m f) (e.record r) = e.tallyOf m f + weight (recordTest m f) (g.record r) :=
  count_differs (recordTest m f) h k.rising r (fun n hn => any_core (k.others n hn) m f)

section Moves
variable {e g : Engine} {r : Nat} (h : e.HasCounts) (k : AlikeBut r e g)
include h k

/-- A record joins, and its mailbox's counters with it. -/
theorem hasCounts_join {x y : Record} (he : e.record r = none) (hg : g.record r = some y) (hy : y.core = x.core)
    (hc : ∀ m, (g.counter m).tallied = (if m = x.mailbox then Counters.join x.state x.urgent (e.counter m) else e.counter m).tallied) : g.HasCounts := by
  obtain ⟨hrise, hcounts⟩ := h
  refine ⟨k.rising, fun m => ?_⟩
  have htally : ∀ f, g.tallyOf m f = e.tallyOf m f + if m = x.mailbox then (f x.state x.urgent).toNat else 0 := fun f => by
    have := k.tally hrise m f
    rw [he, hg, show weight (recordTest m f) (none : Option Record) = 0 from rfl, Nat.add_zero,
      show weight (recordTest m f) (some y) = weight (recordTest m f) (some x) from congrArg Bool.toNat (recordTest_core hy m f), weight_some] at this
    exact this
  rw [hc]
  by_cases hm : m = x.mailbox
  · rw [if_pos hm]
    exact join_tallied (hcounts m) _ _ (fun f => by rw [htally, if_pos hm])
  · rw [if_neg hm]
    exact tallied_congr (hcounts m) (fun f => by rw [htally, if_neg hm, Nat.add_zero])

/-- A record leaves, and its mailbox's counters with it. -/
theorem hasCounts_leave {x : Record} (he : e.record r = some x) (hg : g.record r = none)
    (hc : ∀ m, (g.counter m).tallied = (if m = x.mailbox then Counters.leave x.state x.urgent (e.counter m) else e.counter m).tallied) : g.HasCounts := by
  obtain ⟨hrise, hcounts⟩ := h
  refine ⟨k.rising, fun m => ?_⟩
  have htally : ∀ f, g.tallyOf m f + (if m = x.mailbox then (f x.state x.urgent).toNat else 0) = e.tallyOf m f := fun f => by
    have := k.tally hrise m f
    rw [he, hg, weight_some, show weight (recordTest m f) (none : Option Record) = 0 from rfl, Nat.add_zero] at this
    exact this
  rw [hc]
  by_cases hm : m = x.mailbox
  · rw [if_pos hm]
    exact leave_tallied (hcounts m) _ _ (fun f => by rw [← htally, if_pos hm])
  · rw [if_neg hm]
    exact tallied_congr (hcounts m) (fun f => by rw [← htally, if_neg hm, Nat.add_zero])

/-- A record passes from one state to another, or none, and its mailbox's counters with it. -/
theorem hasCounts_pass {x y : Record} (he : e.record r = some x) (hg : g.record r = some y) (hm : y.mailbox = x.mailbox) (hu : y.urgent = x.urgent)
    (hc : ∀ m, (g.counter m).tallied =
      (if m = x.mailbox ∧ y.state ≠ x.state then Counters.pass x.state y.state x.urgent (e.counter m) else e.counter m).tallied) : g.HasCounts := by
  obtain ⟨hrise, hcounts⟩ := h
  refine ⟨k.rising, fun m => ?_⟩
  have htally : ∀ f, g.tallyOf m f + (if m = x.mailbox then (f x.state x.urgent).toNat else 0) =
      e.tallyOf m f + (if m = x.mailbox then (f y.state x.urgent).toNat else 0) := fun f => by
    have := k.tally hrise m f
    rw [he, hg, weight_some, weight_some, hm, hu] at this
    exact this
  rw [hc]
  by_cases hbox : m = x.mailbox
  · by_cases hs : y.state = x.state
    · rw [if_neg (fun k => k.2 hs)]
      refine tallied_congr (hcounts m) (fun f => ?_)
      have := htally f
      rw [hs] at this
      exact Nat.add_right_cancel this
    · rw [if_pos ⟨hbox, hs⟩]
      exact pass_tallied (hcounts m) (Ne.symm hs) _ (fun f => by
        have := htally f
        rwa [if_pos hbox, if_pos hbox] at this)
  · rw [if_neg (fun k => hbox k.1)]
    exact tallied_congr (hcounts m) (fun f => by
      have := htally f
      rwa [if_neg hbox, if_neg hbox] at this)

end Moves

/-! ## The tables' order under writes -/

/-- A write leaves the records' entries rising. -/
theorem apply_records_rising (w : CatWrite) {c : Catalogue} (h : Tab.risingFrom none c.records = true) :
    Tab.risingFrom none (w.apply c).records = true := by
  cases w
  case record r v => exact Tab.risingFrom_put h
  case blank => rfl
  case boxHead m r | boxTail m r =>
    unfold CatWrite.apply
    dsimp only
    split <;> exact h
  case recordPrev r p | recordNext r p =>
    unfold CatWrite.apply
    dsimp only
    split
    · exact h
    · exact Tab.risingFrom_insert r _ none _ (by simp) h
  all_goals exact h

/-- The records rise. -/
def Engine.recordsRise (e : Engine) : Prop := Tab.risingFrom none e.tab.records = true

theorem put_recordsRise (w : CatWrite) (e : Engine) (h : e.recordsRise) : (e.put w).recordsRise := apply_records_rising w h

theorem Engine.Within.recordsRise {ps : List Part} {e g : Engine} (h : Engine.Within ps e g) (hps : decide (Part.records ∈ ps) = false)
    (k : e.recordsRise) : g.recordsRise := by
  have hrecords : g.tab.records = e.tab.records := h.keeps .records hps
  rw [Engine.recordsRise, hrecords]
  exact k

theorem unlinkRecord_rise {e : Engine} (r : Nat) (x : Record) (h : e.recordsRise) : (e.unlinkRecord r x).recordsRise := by
  have h1 : (e.linkPast x).recordsRise := by
    unfold Engine.linkPast
    split <;> exact put_recordsRise _ _ h
  have h2 : ((e.linkPast x).linkBack x).recordsRise := by
    unfold Engine.linkBack
    split <;> exact put_recordsRise _ _ h1
  exact put_recordsRise _ _ h2

theorem appendRecord_rise {e : Engine} (r : Nat) (x : Record) (h : e.recordsRise) : (e.appendRecord r x).recordsRise := by
  unfold Engine.appendRecord
  dsimp only
  split <;> exact put_recordsRise _ _ (put_recordsRise _ _ (put_recordsRise _ _ h))

/-! ## The work on records -/

theorem appendRecord_others (e : Engine) {r q : Nat} (x : Record) (hq : q ≠ r) :
    ((e.appendRecord r x).record q).map Record.core = (e.record q).map Record.core := by
  unfold Engine.appendRecord
  dsimp only
  rw [record_putBoxTail]
  cases (e.mailbox x.mailbox).bind (·.tail) with
  | none =>
    dsimp only
    rw [record_putBoxHead, record_putRecord, if_neg hq]
  | some t =>
    dsimp only
    rw [record_putRecordNext, record_putRecord, if_neg hq]
    by_cases ht : q = t
    · rw [if_pos ht, Option.map_map]
      rfl
    · rw [if_neg ht]

theorem appendRecord_alike {e : Engine} (h : e.recordsRise) (r : Nat) (x : Record) : AlikeBut r e (e.appendRecord r x) :=
  ⟨appendRecord_rise r x h, fun _ hq => appendRecord_others e x hq⟩

theorem unlinkRecord_alike {e : Engine} (h : e.recordsRise) (r : Nat) (x : Record) : AlikeBut r e (e.unlinkRecord r x) :=
  ⟨unlinkRecord_rise r x h, fun q hq => by rw [unlinkRecord_record, if_neg hq, Option.map_map]; rfl⟩

theorem AlikeBut.within {r : Nat} {e f g : Engine} (h : AlikeBut r e f) {ps : List Part} (k : Engine.Within ps f g) (hps : decide (Part.records ∈ ps) = false) :
    AlikeBut r e g :=
  ⟨k.recordsRise hps h.rising, fun q hq => by rw [record_congr (k.keeps .records hps)]; exact h.others q hq⟩

/-- Work outside the records and the counters leaves the counts. -/
theorem Engine.HasCounts.within {e g : Engine} {ps : List Part} (h : e.HasCounts) (k : Engine.Within ps e g)
    (hps : partsApart [.records, .counters] ps = true) : g.HasCounts := by
  have hrecords : g.tab.records = e.tab.records := k.same State.reset .records (not_mem_of_partsApart hps (by simp))
  have hcounters : g.counters = e.counters := k.same State.reset .counters (not_mem_of_partsApart hps (by simp))
  refine ⟨hrecords ▸ h.1, fun m => ?_⟩
  have hcounter : g.counter m = e.counter m := by rw [Engine.counter, hcounters, Engine.counter]
  rw [hcounter]
  exact tallied_congr (h.2 m) (fun f => by rw [Engine.tallyOf, hrecords, Engine.tallyOf])

/-- A charge moved leaves the counts. -/
theorem charge_tallied (m : Nat) (f : Nat → Nat) (e : Engine) (n : Nat) : ((e.charge m f).counter n).tallied = (e.counter n).tallied := by
  rw [counter_charge]
  by_cases hn : n = m
  · rw [if_pos hn, hn]
    rfl
  · rw [if_neg hn]

theorem charge_hasCounts {e : Engine} (h : e.HasCounts) (m : Nat) (f : Nat → Nat) : (e.charge m f).HasCounts :=
  ⟨h.1, fun n => by rw [charge_tallied]; exact h.2 n⟩

section Records
variable {e : Engine} (h : e.HasCounts)
include h

theorem detachRecord_hasCounts {r : Nat} {x : Record} (hx : e.record r = some x) : (e.detachRecord r x).HasCounts := by
  have halike : AlikeBut r e (e.detachRecord r x) := by
    have h1 := unlinkRecord_alike (r := r) (x := x) h.1
    exact h1.within (ps := [.counters, .sessions])
      ((((modCounter_within _ _ _).mono rfl).step (charge_within _ _ _) rfl).step (clearTargets_within _ _) rfl) rfl
  refine hasCounts_leave h halike hx ?_ (fun m => ?_)
  · rw [detachRecord_record, unlinkRecord_record, if_pos rfl]
  · rw [detachRecord_counter]
    by_cases hm : m = x.mailbox
    · rw [if_pos hm, if_pos hm, hm]
      rfl
    · rw [if_neg hm, if_neg hm]

theorem freeRecordQuietly_hasCounts (r : Nat) : (e.freeRecordQuietly r).HasCounts := by
  unfold Engine.freeRecordQuietly
  split
  · exact h
  · next x hx => exact (detachRecord_hasCounts h hx).within (dropShare_within _ _) rfl

theorem freeRecord_hasCounts (r : Nat) : (e.freeRecord r).HasCounts := by
  unfold Engine.freeRecord
  split
  · exact h
  · exact (freeRecordQuietly_hasCounts h r).within (handInputs_within _ _) rfl

theorem changeRecord_hasCounts {r : Nat} {x y : Record} (hx : e.record r = some x) (hm : y.mailbox = x.mailbox) (hu : y.urgent = x.urgent) :
    (e.changeRecord r x y).HasCounts := by
  have hrise : (e.changeRecord r x y).recordsRise := by
    unfold Engine.changeRecord
    refine ite_kept h.1 (ite_kept (put_recordsRise _ _ h.1) ?_)
    exact (((modCounter_within (e.put (.record r (some y))) x.mailbox _).mono (qs := [.counters, .lmp]) rfl).step (handInputs_within _ _) rfl).recordsRise rfl
      (put_recordsRise _ _ h.1)
  refine hasCounts_pass h (r := r) (x := x) (y := y) ⟨hrise, fun q hq => ?_⟩ hx ?_ hm hu (fun m => ?_)
  · rw [changeRecord_record hx, if_neg hq]
  · rw [changeRecord_record hx, if_pos rfl]
  · rw [changeRecord_counter]
    by_cases hbox : m = x.mailbox ∧ y.state ≠ x.state
    · rw [if_pos hbox, if_pos hbox, hbox.1]
    · rw [if_neg hbox, if_neg hbox]

/-- A record joins the table at a free entry. -/
theorem appendRecord_hasCounts {r : Nat} {x : Record} (hr : e.record r = none) {g : Engine} {ps : List Part}
    (k : Engine.Within ps (e.appendRecord r x) g) (hps : decide (Part.records ∈ ps) = false)
    (hc : ∀ m, (g.counter m).tallied = (if m = x.mailbox then Counters.join x.state x.urgent (e.counter m) else e.counter m).tallied) : g.HasCounts := by
  obtain ⟨p, n, hnew⟩ := appendRecord_new e r x
  exact hasCounts_join h ((appendRecord_alike h.1 r x).within k hps) hr ((record_congr (k.keeps .records hps) r).trans hnew) rfl hc

end Records

end Sys2Proof.Machine

namespace Sys2Proof.Machine

/-! Proofs about section 6: the counters through every step (R125). -/

/-! ## The work of the blocks -/

/-- The counters' invariant, kept where the counts are and the catalogue memory stands. -/
theorem counted_of {e g : Engine} (h : e.counted) (hcat : g.cat = e.cat) (hw : g.walked → e.walked) (k : e.HasCounts → g.HasCounts) : g.counted :=
  ⟨hcat ▸ h.1, fun w => k (h.2 (hw w))⟩

theorem Engine.Within.counted {ps : List Part} {e g : Engine} (k : Engine.Within ps e g) (h : e.counted)
    (hps : partsApart [.records, .counters, .service, .catalogue] ps = true) : g.counted :=
  counted_of h (k.same State.reset .catalogue (not_mem_of_partsApart hps (by simp))) (k.walked (partsApart_of_subset hps (by simp))).1
    (fun hc => hc.within k (partsApart_of_subset hps (by simp)))

/-- Work on the records that leaves the service state and the catalogue memory. -/
theorem Engine.Within.counted_work {ps : List Part} {e g : Engine} (k : Engine.Within ps e g) (h : e.counted)
    (hps : partsApart [.service, .catalogue] ps = true) (hc : e.HasCounts → g.HasCounts) : g.counted :=
  counted_of h (k.same State.reset .catalogue (not_mem_of_partsApart hps (by simp))) (k.walked (partsApart_of_subset hps (by simp))).1 hc

theorem playedToEnd_core (now : Now) (x : Record) : (x.playedToEnd now).mailbox = x.mailbox ∧ (x.playedToEnd now).urgent = x.urgent := by
  unfold Record.playedToEnd
  dsimp only
  split <;> exact ⟨rfl, rfl⟩

theorem marked_core (now : Now) (mk : Mark) (x : Record) : (x.marked now mk).mailbox = x.mailbox ∧ (x.marked now mk).urgent = x.urgent := by
  unfold Record.marked
  split <;> exact ⟨rfl, rfl⟩

section Works
variable {e : Engine} (h : e.HasCounts)
include h

theorem recordSealed_hasCounts (r : Nat) (c : Bool) : (e.recordSealed r c).HasCounts := by
  unfold Engine.recordSealed
  split
  · exact h
  · next x hx => exact changeRecord_hasCounts h hx rfl rfl

theorem playTarget_hasCounts (now : Now) (c : Cause) (n : Nat) (x : Session) : (e.playTarget now c n x).HasCounts := by
  unfold Engine.playTarget
  split
  · split
    · exact h
    · next y hy =>
      exact ite_kept (changeRecord_hasCounts h hy (playedToEnd_core now y).1 (playedToEnd_core now y).2) (ite_kept (changeRecord_hasCounts h hy rfl rfl) h)
  · exact h

theorem markRecord_hasCounts (now : Now) (r : Nat) (mk : Mark) : (e.markRecord now r mk).HasCounts := by
  unfold Engine.markRecord
  split
  · exact h
  · next x hx => exact changeRecord_hasCounts h hx (marked_core now mk x).1 (marked_core now mk x).2

theorem examineEntry_hasCounts (r day : Nat) : (e.examineEntry r day).1.HasCounts := by
  unfold Engine.examineEntry
  split
  · exact h
  · next x hx =>
    split
    · split
      · refine hasCounts_pass h (r := r) (x := x) (y := { x with heardDay := some day }) ⟨put_recordsRise _ _ h.1, fun q hq => ?_⟩ hx ?_ rfl rfl (fun m => ?_)
        · rw [record_putRecord, if_neg hq]
        · rw [record_putRecord, if_pos rfl]
        · rw [if_neg (fun k => k.2 rfl)]
          rfl
      · split
        · exact freeRecord_hasCounts h r
        · exact h
    · exact h

theorem freeRecordNo_free : e.record e.freeRecordNo = none := Tab.find?_lowestFree h.1

theorem makeCopy_hasCounts (now : Now) (m b n src : Nat) (u : Bool) (c : Option Nat) : (e.makeCopy now m b n src u c).HasCounts := by
  have hearly : Engine.Within [.bodies, .writes] (e.appendRecord e.freeRecordNo (Record.copy now m b src u c))
      ((e.appendRecord e.freeRecordNo (Record.copy now m b src u c)).modShare b (· + 1)) := modShare_within _ _ _
  have hcounters : ∀ k, ((e.appendRecord e.freeRecordNo (Record.copy now m b src u c)).modShare b (· + 1)).counter k = e.counter k := fun k =>
    congrArg (fun t => Tab.get Counters.zero t k)
      ((((appendRecord_within e _ _).mono (qs := [.records, .mailboxes, .bodies, .writes]) rfl).step hearly rfl).keeps .counters rfl)
  have hcopied : (e.copied now m b n src u c).HasCounts := by
    refine appendRecord_hasCounts h (x := Record.copy now m b src u c) (freeRecordNo_free h) (ps := [.bodies, .writes, .counters])
      (((hearly.mono rfl).step (modCounter_within _ _ _) rfl).step (charge_within _ _ _) rfl) rfl (fun k => ?_)
    rw [Engine.copied, charge_tallied, counter_modCounter, hcounters, hcounters]
    by_cases hk : k = m
    · subst hk
      rfl
    · exact congrArg Counters.tallied ((if_neg hk).trans (if_neg hk).symm)
  exact hcopied.within (handInputs_within _ m) rfl

theorem takeRecipient_hasCounts (now : Now) : (e.takeRecipient now).HasCounts := by
  unfold Engine.takeRecipient
  split
  · exact h
  · refine ite_kept h ?_
    split
    · exact h
    · dsimp only
      split
      · exact h.within (modDle_within _ _) rfl
      · exact ((makeCopy_hasCounts h _ _ _ _ _ _ _).within (modDle_within _ _) rfl).within (flush_within _ _) rfl

theorem target_hasCounts (q : OpenRecord) (now : Now) (b : Nat) : (q.target now b e).2.HasCounts := by
  have hbody := createBody_within e b
  have h1 : (e.createBody b).HasCounts := h.within hbody rfl
  unfold OpenRecord.target
  dsimp only
  split
  · have hfree : (e.createBody b).record e.freeRecordNo = none := (record_congr (hbody.keeps .records rfl) _).trans (freeRecordNo_free h)
    refine appendRecord_hasCounts h1 (x := Record.recording now q.mailbox b (q.urgent.getD false) q.caller) hfree (ps := [.counters])
      (modCounter_within _ _ _) rfl (fun k => ?_)
    have hcounter : ∀ k, ((e.createBody b).appendRecord e.freeRecordNo (Record.recording now q.mailbox b (q.urgent.getD false) q.caller)).counter k =
        (e.createBody b).counter k := fun k => congrArg (fun t => Tab.get Counters.zero t k) ((appendRecord_within _ _ _).keeps .counters rfl)
    rw [counter_modCounter, hcounter, hcounter]
    by_cases hk : k = q.mailbox
    · subst hk
      rfl
    · exact congrArg Counters.tallied ((if_neg hk).trans (if_neg hk).symm)
  · exact h1.within (putSlot_within _ _ _ _) rfl

end Works

/-- What the part does outside a check keeps the counters true. -/
theorem counted_worked : Engine.Worked Engine.counted where
  session k f e h := (modSession_within e k f).counted h rfl
  slots i o e h := (slots_within e i o).counted h rfl
  programs q e h := (queues_within e e.ssc.readQueue q).counted h rfl
  reads q e h := (queues_within e q e.ssc.progQueue).counted h rfl
  unwant k t e h := (unwant_within e k t).counted h rfl
  begun b f e h := (modHold_within e b _).counted h rfl
  charge m f e h := (charge_within e m f).counted_work h rfl (fun k => charge_hasCounts k m f)
  lamps f e h := (modLmp_within e f).counted h rfl
  raise k d e h := (raise_within e k d).counted h rfl
  cut b f l e h := (cutChain_within e b f l).counted h rfl
  seals b o n e h := (sealBody_within e b o n).counted h rfl
  free r e h := (freeRecord_within e r).counted_work h rfl (fun k => freeRecord_hasCounts k r)
  abandon m g e h := (abandonGreeting_within e m g).counted h rfl
  sealed r c e h := (recordSealed_within e r c).counted_work h rfl (fun k => recordSealed_hasCounts k r c)
  replace m g e h := (replaceGreeting_within e m g).counted h rfl
  reader b e h := (dropReader_within e b).counted h rfl
  target now c n x e h := (playTarget_within e now c n x).counted_work h rfl (fun k => playTarget_hasCounts k now c n x)
  flush t e h := (flush_within e t).counted h rfl
  job j e _ h := (endJob_within e j).counted h rfl
  erase e h := (startErase_within e).counted h rfl
  read e h := (startRead_within e).counted h rfl
  program r i is e _ h := (startProgram_within e r i).counted h rfl
  channel f e _ h := (modMgc_within e f).counted h rfl
  byteIn b e h := (rxByte_receiving b e).within.counted h rfl
  packetIn c g ps e h := (goodPacket_receiving (c :: g :: ps) e).within.counted h rfl
  queue q a e h := (writes_within e q a).counted h rfl
  write w e h := ⟨apply_records_rising w h.1, h.2⟩
  dirty is e h := (makeAllDirty_within e is).counted h rfl
  pool e h := (examinePool_within e).counted h rfl
  idle e h := (link_within e .idle e.ssc.opTimer).counted h rfl
  retry r n e h := (link_within e (.reading r n) 0).counted h rfl
  issue r i w e _ h := (link_within e (.programming r i w) 0).counted h rfl
  stored t e h := (flash_within e t).counted h rfl
  linked r i w e _ h := (recordResult_within _).counted ((linkSegment_within e r.body i).counted h rfl) rfl
  unlinked r i w e _ h := (recordResult_within _).counted ((joinDirty_within e i).counted h rfl) rfl
  retired r i w n e _ h := (recordResult_within _).counted ((put_within e _).counted h rfl) rfl
  erased i e _ h := (eraseDone_within e i).counted h rfl
  kept i c e _ h := (eraseFailed_within e i c).counted h rfl
  losc e h := (losc_within e).counted h rfl
  recipient now e h := (takeRecipient_within e now).counted_work h rfl (fun k => takeRecipient_hasCounts k now)
  copied e h := (modDle_within e _).counted h rfl
  examine r day e h := (examineEntry_within e r day).counted_work h rfl (fun k => examineEntry_hasCounts k r day)
  service p e hp h := counted_of h rfl (fun _ => .inr (by rw [hp]; exact nofun)) (fun k => k)
  freeze e h := counted_of h rfl (fun hw => absurd hw (fun hw => hw.elim nofun (fun h => h rfl))) (fun k => k)
  format e hs h := counted_of h rfl (fun _ => .inl hs) (fun k => k)
  create q now e _ _ h := (target_within e q now _).counted_work h rfl (fun k => target_hasCounts k q now _)
  listen b e h := (modHold_within e b _).counted h rfl
  accept r x j e _ _ h := (acceptJob_within e j).counted h rfl
  cancel n e h := (modDle_within e _).counted h rfl
  clear l e h := (clearList_within e l).counted h rfl
  add l m e _ _ _ h := (addMember_within e l m).counted h rfl
  cls k c e h := (put_within e (.cls k c)).counted h rfl
  settings x e h := (put_within e (.settings x)).counted h rfl
  fields m f e h := (put_within e (.boxFields m f)).counted h rfl
  mark now r mk e h := (markRecord_within e now r mk).counted_work h rfl (fun k => markRecord_hasCounts k now r mk)
  slot m g e h := (emptySlot_within e m g).counted h rfl
  quietly r e h := (freeRecordQuietly_within e r).counted_work h rfl (fun k => freeRecordQuietly_hasCounts k r)

end Sys2Proof.Machine

namespace Sys2Proof.Machine

/-! Proofs about section 4.6: the counters as the store check makes them (R93). -/

/-! ## The steps of the check over the records -/

section Puts
variable {P : Engine → Prop} (hput : ∀ w e, P e → P (e.put w))
include hput

theorem fitPrevs_kept : ∀ (rs : List Nat) (p : Option Nat) {e : Engine}, P e → P (e.fitPrevs p rs)
  | [], _, _, h => h
  | r :: rs, _, _, h => fitPrevs_kept rs (some r) (ite_kept h (hput _ _ h))

theorem fitEnds_kept {e : Engine} (m : Nat) (kept : List Nat) (h : P e) : P (e.fitEnds m kept) := by
  unfold Engine.fitEnds
  split
  · exact h
  · dsimp only
    exact ite_kept (ite_kept (hput _ _ h) h) (hput _ _ (ite_kept (hput _ _ h) h))

theorem fitBox_kept {e : Engine} (m : Nat) (kept : List Nat) (h : P e) : P (e.fitBox m kept) := by
  unfold Engine.fitBox
  dsimp only
  have h1 := fitPrevs_kept hput kept none h
  refine fitEnds_kept hput m kept ?_
  split
  · exact h1
  · exact ite_kept h1 (hput _ _ h1)

theorem appendRecord_kept {e : Engine} (r : Nat) (x : Record) (h : P e) : P (e.appendRecord r x) := by
  unfold Engine.appendRecord
  dsimp only
  split <;> exact hput _ _ (hput _ _ (hput _ _ h))

theorem appendAgain_kept {e : Engine} (r : Nat) (h : P e) : P (e.appendAgain r) := by
  unfold Engine.appendAgain
  split
  · exact h
  · exact appendRecord_kept hput _ _ h

theorem repairBox_kept {e : Engine} (m : Nat) (h : P e) : P (e.repairBox m) :=
  foldl_kept (fun _ _ h => appendAgain_kept hput _ h) _ (fitBox_kept hput m _ h)

end Puts

/-! ## The recount (R125) -/

/-- The counters are the numbers of the records counted so far. -/
def Engine.countedSo (p : Tab Record) (e : Engine) : Prop := ∀ m, (e.counter m).tallied (fun f => numberOf (recordTest m f) p)

theorem numberOf_snoc (q : Record → Bool) (p : Tab Record) (x : Nat × Record) : numberOf q (p ++ [x]) = numberOf q p + weight q (some x.2) := by
  unfold numberOf weight
  rw [List.filter_append, List.length_append, List.filter_singleton]
  cases hq : q x.2 <;> simp [hq]

theorem recount_step {p : Tab Record} {e : Engine} (h : e.countedSo p) (x : Nat × Record) (n : Nat → Nat) :
    ((e.modCounter x.2.mailbox (Counters.join x.2.state x.2.urgent)).charge x.2.mailbox n).countedSo (p ++ [x]) := fun m => by
  rw [charge_tallied, counter_modCounter]
  by_cases hm : m = x.2.mailbox
  · rw [if_pos hm, ← hm]
    exact join_tallied (h m) _ _ (fun f => by rw [numberOf_snoc, weight_some, if_pos hm])
  · rw [if_neg hm]
    exact tallied_congr (h m) (fun f => by rw [numberOf_snoc, weight_some, if_neg hm, Nat.add_zero])

theorem recount_fold : ∀ (l p : Tab Record) {e : Engine}, e.countedSo p →
    (l.foldl (fun e x => (e.modCounter x.2.mailbox (Counters.join x.2.state x.2.urgent)).charge x.2.mailbox (· + e.extent x.2.body)) e).countedSo (p ++ l)
  | [], p, _, h => by
    rw [List.append_nil]
    exact h
  | x :: l, p, e, h => by
    have := recount_fold l (p ++ [x]) (recount_step h x (· + e.extent x.2.body))
    rw [List.append_assoc] at this
    exact this

theorem recount_hasCounts {e : Engine} (h : e.recordsRise) (hc : e.counters = []) : e.recount.HasCounts := by
  have hrecords : e.recount.tab.records = e.tab.records := (recount_within e).keeps .records rfl
  have hzero : e.countedSo [] := fun m => by
    have hcounter : e.counter m = Counters.zero := by
      rw [Engine.counter, hc]
      rfl
    rw [hcounter]
    exact ⟨rfl, rfl, rfl, rfl, rfl, rfl⟩
  refine ⟨by rw [hrecords]; exact h, fun m => ?_⟩
  exact tallied_congr (recount_fold e.tab.records [] hzero m) (fun f => by rw [Engine.tallyOf, hrecords, List.nil_append])

/-! ## The reconciliation -/

theorem recordingOf_record {e : Engine} (h : e.recordsRise) {b r : Nat} {y : Record} (hr : e.recordingOf b = some (r, y)) :
    e.record r = some y ∧ y.body = b ∧ y.state = .recording := by
  unfold Engine.recordingOf at hr
  have hmem := List.mem_of_find?_eq_some hr
  have htest := List.find?_some hr
  simp only [Bool.and_eq_true, decide_eq_true_eq] at htest
  exact ⟨Tab.find?_of_mem h _ hmem, htest⟩

theorem reconcile_hasCounts {e : Engine} (h : e.HasCounts) (b : Nat) : (e.reconcile b).HasCounts := by
  unfold Engine.reconcile
  split
  · next x r y hb hr =>
    obtain ⟨hy, -, -⟩ := recordingOf_record h.1 hr
    refine ite_kept (recordSealed_hasCounts h r false) (ite_kept ?_ ?_)
    · exact (recordSealed_hasCounts (h.within (sealBody_within e b 0 _) rfl) r true).within (modReport_within _ _) rfl
    · exact (((detachRecord_hasCounts h hy).within (modShare_within _ _ _) rfl).within (handInputs_within _ _) rfl).within (modReport_within _ _) rfl
  · exact h

/-- The check makes the counters from the records it finds, and keeps them to its end. -/
theorem checkSteps_hasCounts {e : Engine} (h : e.recordsRise) (hc : e.counters = []) : e.checkSteps.HasCounts := by
  have hwalk : Engine.Within (.settings :: .lists :: .members :: walkParts) e e.clampSettings.walk.repairLists :=
    (((clampSettings_within e).mono rfl).trans ((walk_within _).mono rfl)).trans ((repairLists_within _).mono rfl)
  have hboxes : ∀ ms : List Nat, (ms.foldl (fun e m => e.repairBox m) e.clampSettings.walk.repairLists).recordsRise := fun ms =>
    foldl_kept (fun _ m h => repairBox_kept put_recordsRise m h) ms (hwalk.recordsRise rfl h)
  have hrepaired : e.repaired.HasCounts := by
    refine recount_hasCounts ((openExtents_within _).recordsRise rfl (hboxes _)) ?_
    have hlate : Engine.Within [.records, .mailboxes, .writes, .holds] e.clampSettings.walk.repairLists
        (e.clampSettings.walk.repairLists.loadedBoxes.foldl (fun e m => e.repairBox m) e.clampSettings.walk.repairLists).openExtents :=
      ((repairBoxes_within _ _).mono rfl).step (openExtents_within _) rfl
    exact (hlate.keeps .counters rfl : _ = e.clampSettings.walk.repairLists.counters).trans
      ((hwalk.keeps .counters rfl : _ = e.counters).trans hc)
  have hreconciled : e.repaired.reconciled.HasCounts := by
    unfold Engine.reconciled
    dsimp only
    have h1 := foldl_kept (P := Engine.HasCounts) (fun _ b h => reconcile_hasCounts h b) e.repaired.bodiesInUse hrepaired
    exact foldl_kept (P := Engine.HasCounts) (fun _ b h => h.within (fitShare_within _ b) rfl) _ (h1.within (clearStagings_within _) rfl)
  rw [checkSteps_eq]
  exact hreconciled.within (released_within _) rfl

/-! ## A reset -/

/-- The records rise, the counters are 0 and the catalogue memory stands. -/
def Engine.tableReady (c : Catalogue) (e : Engine) : Prop := e.recordsRise ∧ e.counters = [] ∧ e.cat = c

theorem put_tableReady {c : Catalogue} (w : CatWrite) (e : Engine) (h : e.tableReady c) : (e.put w).tableReady c := ⟨put_recordsRise w e h.1, h.2⟩

/-- The parts that the steps of a check can change. -/
def checkParts : List Part := .settings :: .lists :: .members :: walkParts ++ lateParts

theorem checkSteps_within (e : Engine) : Engine.Within checkParts e e.checkSteps :=
  (((clampSettings_within e).mono rfl).trans (((walk_within _).mono rfl).trans ((repairLists_within _).mono rfl))).trans ((checkSteps_late e).mono rfl)

/-- A store check that runs brings what its steps bring over a fitted map. -/
theorem storeCheck_runs {P : Engine → Prop} (cause : StartCause) (x : Selects) {e : Engine} (hnone : P (e.modSsc (fun c => { c with devices := countSelects x })))
    (hrun : ∀ e1 : Engine, Engine.Within [.service] e e1 → P { (((e1.fitMap (countSelects x)).checkSteps).flush .nothing) with lmp := e.lmp }) :
    P (e.storeCheck cause x) := by
  obtain ⟨e1, -, hwithin, -, heq⟩ := storeCheck_eq e cause x
  rw [heq]
  split
  · exact hnone
  · exact hrun e1 hwithin

/-- The writes of a check made one sequence, the lamp unit as before. -/
theorem checkEnd_within (l : Lmp) (g : Engine) : Engine.Within [.writes, .lmp] g { (g.flush .nothing) with lmp := l } :=
  ((flush_within g .nothing).mono rfl).step (modLmp_within _ (fun _ => l)) rfl

theorem checkSteps_counted {c : Catalogue} (hr : Tab.risingFrom none c.records = true) {g : Engine} (h : g.tableReady c) : g.checkSteps.counted := by
  obtain ⟨hrise, hcounters, hcat⟩ := h
  have hend : g.checkSteps.cat = c := ((checkSteps_within g).keeps .catalogue rfl : _ = g.cat).trans hcat
  exact ⟨by rw [hend]; exact hr, fun _ => checkSteps_hasCounts hrise hcounters⟩

theorem storeCheck_counted (cause : StartCause) (x : Selects) {e : Engine} (hr : Tab.risingFrom none e.cat.records = true) (h : e.tableReady e.cat)
    (hw : ¬ e.walked) : (e.storeCheck cause x).counted := by
  refine storeCheck_runs cause x ⟨hr, fun k => absurd k hw⟩ (fun e1 hwithin => ?_)
  have h1 : e1.tableReady e.cat := ⟨hwithin.recordsRise rfl h.1, (hwithin.keeps .counters rfl : e1.counters = e.counters).trans h.2.1,
    hwithin.keeps .catalogue rfl⟩
  have h2 := checkSteps_counted hr (fitMap_kept put_tableReady (countSelects x) h1)
  generalize (e1.fitMap (countSelects x)).checkSteps = g at h2
  exact (checkEnd_within e.lmp g).counted h2 rfl

/-- Every step keeps the counters true. -/
theorem step_counted {s t : State} (h : s.eng.counted) (hst : step s = .next t) : t.eng.counted :=
  reset_step counted_worked h ⟨h.1, fun hw => absurd hw (fun hw => hw.elim nofun (fun h => h rfl))⟩
    (fun _ cause x => storeCheck_counted cause x h.1 ⟨h.1, rfl, rfl⟩ (reset_not_walked _ _)) hst

end Sys2Proof.Machine

namespace Sys2Proof.Machine

/-! Proofs about section 2: where a release reports POOL_LOW twice, SESSION_END finds no place (R74, R204).

`Engine.notesEnd` keeps the place of an answer and of one other notice of the step. A release of more than 256 segments raises POOL_LOW twice where the
indication is clear and the available count is below the reserve: the first segment sets the indication, and a later one clears it. The two notices and
SESSION_END, with the answer's place, are then more than the three places that `Engine.notesEnd` promises. -/

/-! ## The part of the counterexamples -/

/-- A chain of 258 DATA segments of body 0. -/
def longChain : Tab SegEntry := (List.range 258).map (fun i => (i, { state := .data, body := some 0, next := some (i + 1), eraseFailures := 0 }))

/-- The settings: the notices on, and a reserve of two segments. -/
def noticing : Settings := { Settings.default with noticesOn := true, poolReserve := 2 }

/-- A part in SERVICE with 13 packets in its outbox, an empty pool, and the long chain the content of body 0, which is session 0's. -/
def crowded (x : Session) (share : Nat) : State :=
  let tab : Catalogue := { Catalogue.blank with
    signature := some 1, settings := noticing, segments := longChain,
    bodies := [(0, { Body.fresh with first := some 0, last := some 257, count := 258, share := share })], slots := [(0, { held := none, staged := some 0 })] }
  { State.reset with
    hwi := { Hwi.reset with sync := .locked },
    eng := { Engine.reset tab [] with
      ssc := { Ssc.reset [] with service := .service }, sessions := [(0, x)], mgc := { Mgc.reset with outbox := List.replicate 13 [] } } }

theorem crowded_accepting (x : Session) (share : Nat) : (crowded x share).accepting :=
  ⟨rfl, ⟨⟨rfl, rfl, .inr ⟨rfl, rfl, rfl⟩⟩, rfl⟩, rfl, rfl, rfl, show 13 < Config.outboxPlaces by decide⟩

theorem crowded_notesEnd (x : Session) (share : Nat) : (crowded x share).eng.notesEnd :=
  ⟨rfl, show noticing.kindsOn &&& NoticeKind.sessionEnd.bit ≠ 0 by decide, show 13 + 2 < Config.outboxPlaces by decide, rfl⟩

/-- The outbox after a command. -/
def sent : Host.Outcome State Fault Refusal → List (List Byte)
  | .next t => t.eng.mgc.outbox
  | _ => []

/-- Packets none of which is a SESSION_END. -/
def endsUnsent (ps : List (List Byte)) : Bool := ps.all (fun p => decide ((p.getD 2 0, p.getD 3 0) ≠ (2, 1)))

theorem not_mem_of_endsUnsent {ps : List (List Byte)} (h : endsUnsent ps = true) (d : List Byte) : noticePacket .sessionEnd d ∉ ps := fun hm => by
  have := List.all_eq_true.1 h _ hm
  simp [noticePacket, packet, be1, NoticeKind.code] at this

/-- No session has ended with a report where no SESSION_END has been sent. -/
theorem not_endsAs {c : Instr} {s t : State} (hsent : endsUnsent (sent (exec c s)) = true) (ht : exec c s = .next t) {e : Engine} (hn : e.notesEnd)
    {k : Nat} {z : Session} (hz : z.closing = false) : ¬ e.endsAs t.eng k z := fun h => by
  obtain ⟨-, hopen⟩ := h
  obtain ⟨-, hpacket, -⟩ := hopen hz
  rw [ht] at hsent
  exact not_mem_of_endsUnsent hsent _ (hpacket hn)

/-- A session that plays body 0, which has no sample. -/
def heardOut : Session := { Session.reset with kind := some .play, state := .playing, body := some 0 }

/-- A greeting recording into body 0 that has found no onset. -/
def unheard : Session :=
  { Session.reset with
    kind := some .recordGreeting, state := .waitOnset, body := some 0, target := .slot .standard, meter := some Meter.start,
    snap := some (MailClass.default.snapshot true) }

theorem stop_unsent : endsUnsent (sent (exec (.stop 0 [0]) (crowded heardOut 0))) = true := by decide +kernel

theorem seek_unsent : endsUnsent (sent (exec (.seek 0 [0, 0, 0]) (crowded heardOut 0))) = true := by decide +kernel

theorem discard_unsent : endsUnsent (sent (exec (.stop 0 [0]) (crowded unheard 1))) = true := by decide +kernel

/-! ## The statements -/

/-- Refutes O50: SEEK to the end of the body releases the long chain, and SESSION_END finds no place. -/
theorem not_openPlayAndItsOrdersMoveThePlaying : ¬ Obligations.OpenPlayAndItsOrdersMoveThePlaying := by
  unfold Obligations.OpenPlayAndItsOrdersMoveThePlaying
  intro h
  obtain ⟨-, -, -, -, -, -, hseek⟩ := h (crowded heardOut 0) 0 [0, 0, 0] (crowded_accepting _ _)
  obtain ⟨t, ht, hends, -⟩ := hseek rfl ⟨by decide, rfl⟩ (by decide +kernel)
  exact not_endsAs seek_unsent ht (crowded_notesEnd _ _) rfl hends

/-- Refutes O52: STOP of a playing releases the long chain, and SESSION_END finds no place. -/
theorem not_playingsEndStoppedOrLost : ¬ Obligations.PlayingsEndStoppedOrLost := by
  unfold Obligations.PlayingsEndStoppedOrLost
  intro h
  obtain ⟨hends, -⟩ := h (crowded heardOut 0) 0 [0] (.stop 0 [0]) 0
  obtain ⟨t, ht, hends, -⟩ := hends .stopped heardOut (.inl ⟨⟨crowded_accepting _ _, rfl, rfl, by decide⟩, .inl rfl, rfl, rfl⟩) rfl
  exact not_endsAs stop_unsent ht (crowded_notesEnd _ _) rfl hends

/-- Refutes O53: STOP of a take without an onset discards it and releases the long chain, and SESSION_END finds no place. -/
theorem not_stopsEndTakes : ¬ Obligations.StopsEndTakes := by
  unfold Obligations.StopsEndTakes
  intro h
  obtain ⟨hstops, -⟩ := h (crowded unheard 1) 0 [0] 0
  obtain ⟨t, ht, hends, -⟩ := hstops (.stop 0 [0]) .stopped unheard (.inl ⟨⟨crowded_accepting _ _, rfl, rfl, by decide⟩, rfl, rfl, rfl⟩) rfl
  obtain ⟨hdrops, -⟩ := hends Meter.start (MailClass.default.snapshot true) rfl rfl
  obtain ⟨⟨z, hz, -, hform⟩, -⟩ := hdrops rfl
  refine not_endsAs discard_unsent ht (crowded_notesEnd _ _) ?_ hz
  rw [hform]
  rfl

end Sys2Proof.Machine

namespace Sys2Proof.Machine

/-! Proofs about section 2: the orders on open sessions and the states that refuse them (R35 to R41). -/

/-! ## The checks of a session order (R35) -/

section Checks
variable {k : Nat} {s : State} {rest : List (Bool × Result)}

theorem sessionChecks_range (h : 48 ≤ k) : firstRefusal (sessionChecks k s ++ rest) = some .badField := firstRefusal_stop (decide_eq_true h)

theorem sessionChecks_in_range (h : k < 48) : firstRefusal (sessionChecks k s ++ rest) =
    firstRefusal ((decide ((s.eng.session k).state = .free), .noSuch) :: rest) := firstRefusal_pass (decide_eq_false (Nat.not_le.2 h))

theorem sessionChecks_free (h : k < 48) (hf : (s.eng.session k).state = .free) : firstRefusal (sessionChecks k s ++ rest) = some .noSuch :=
  (sessionChecks_in_range h).trans (firstRefusal_stop (decide_eq_true hf))

theorem sessionChecks_pass (h : k < 48) (hf : (s.eng.session k).state ≠ .free) : firstRefusal (sessionChecks k s ++ rest) = firstRefusal rest :=
  (sessionChecks_in_range h).trans (firstRefusal_pass (decide_eq_false hf))

end Checks

theorem playLive_not_free {st : SessState} (h : st.playLive = true) : st ≠ .free := by
  rintro rfl
  exact absurd h (by decide)

theorem recordLive_not_free {st : SessState} (h : st.recordLive = true) : st ≠ .free := by
  rintro rfl
  exact absurd h (by decide)

/-- What a session order checks behind the session's number and state: PAUSE, RESUME and SEEK want a playing. -/
def wantsPlaying (moving : Bool) (x : Session) : List (Bool × Result) := if moving then [(!x.state.playLive, .wrongState)] else []

/-- An order that makes the checks of a session order before its own act. -/
def Order.onSession (o : Order) (moving : Bool) : Prop :=
  ∀ ps s, ∃ act, o.run ps s = Reply.checked (sessionChecks (num1 ps 0) s ++ wantsPlaying moving (s.eng.session (num1 ps 0))) s act

theorem stop_onSession : Order.onSession .stop false := fun _ _ => ⟨_, rfl⟩
theorem cancel_onSession : Order.onSession .cancel false := fun _ _ => ⟨_, rfl⟩
theorem close_onSession : Order.onSession .close false := fun _ _ => ⟨_, rfl⟩
theorem pause_onSession : Order.onSession .pause true := fun _ _ => ⟨_, rfl⟩
theorem resume_onSession : Order.onSession .resume true := fun _ _ => ⟨_, rfl⟩
theorem seek_onSession : Order.onSession .seek true := fun _ _ => ⟨_, rfl⟩

section Orders
variable {s : State} (h : s.accepting) {code : Byte} {o : Order} (ho : Order.ofCode code = some o) (tag : Byte) {ps : List Byte}
  (hl : ps.length + 2 = o.bodyLength) {c : Instr} (hc : exec c s = .next (s.deliverOrder code tag ps))
include h ho hl hc

/-- A session order that a check refuses is answered over the part as it was. -/
theorem session_refused {moving : Bool} (hrun : o.onSession moving) {r : Result}
    (k : firstRefusal (sessionChecks (num1 ps 0) s ++ wantsPlaying moving (s.eng.session (num1 ps 0))) = some r) :
    exec c s = .next (s.withAnswer tag r []) := by
  obtain ⟨act, hact⟩ := hrun ps s.taken
  exact hc.trans (congrArg _ (order_answered h ho tag hl (hact.trans (checked_refused k))))

/-- The refusals of every session order (R35). -/
theorem session_refusals {moving : Bool} (hrun : o.onSession moving) :
    (48 ≤ num1 ps 0 → exec c s = .next (s.withAnswer tag .badField [])) ∧
      (num1 ps 0 < 48 → (s.eng.session (num1 ps 0)).state = .free → exec c s = .next (s.withAnswer tag .noSuch [])) :=
  ⟨fun hk => session_refused h ho tag hl hc hrun (sessionChecks_range hk),
    fun hk hf => session_refused h ho tag hl hc hrun (sessionChecks_free hk hf)⟩

/-- An order that moves a playing refuses a session that is not playing. -/
theorem session_wrongState (hrun : o.onSession true) (hk : num1 ps 0 < 48) (hf : (s.eng.session (num1 ps 0)).state ≠ .free)
    (hp : (s.eng.session (num1 ps 0)).state.playLive = false) : exec c s = .next (s.withAnswer tag .wrongState []) :=
  session_refused h ho tag hl hc hrun ((sessionChecks_pass hk hf).trans (firstRefusal_stop (by rw [hp]; rfl)))

end Orders

/-- An answer placed over work that asks for no write. -/
theorem silent_within {s : State} (h : s.accepting) {ps : List Part} (hps : Part.channel ∉ ps) {e : Engine} (k : Engine.Within ps s.taken.eng e)
    (hw : decide (Part.writes ∈ ps) = false) (tag : Byte) (r : Result) (d : List Byte) : Engine.Within (.outbox :: ps) s.eng (e.concluded tag r d) :=
  fun s0 => ⟨rfl, fun p hp => by
    obtain ⟨hqueue, hasked⟩ := k.keeps .writes hw
    have hasked' : e.asked = [] := (show e.asked = s.eng.asked from hasked).trans (accepting_asked h)
    by_cases hpw : p = .writes
    · subst hpw
      exact ⟨(if_pos hasked').trans hqueue, (accepting_asked h).symm⟩
    · exact (concluded_within (accepting_handling h) hps k tag r d s0).2 p (by simp_all)⟩

/-! ## A session freed (R17) -/

theorem session_releaseSlots (k : Nat) (e : Engine) (j : Nat) : (e.releaseSlots k).session j =
    if j = k then { e.session k with inSlot := none, outSlot := none } else e.session j := by
  unfold Engine.releaseSlots
  rw [session_modSession]
  rfl

theorem session_freeSession (k : Nat) (e : Engine) (j : Nat) : (e.freeSession k).session j =
    if j = k then Session.freeWith (e.session k).buf0.freed (e.session k).buf1.freed else e.session j := by
  unfold Engine.freeSession
  rw [session_modSession]
  by_cases hj : j = k
  · rw [if_pos hj, if_pos hj, session_releaseSlots, if_pos rfl]
  · rw [if_neg hj, if_neg hj, session_releaseSlots, if_neg hj]

/-! ## STOP and CANCEL of a session that has ended -/

section Ended
variable {s : State} {ps : List Byte} (hk : num1 ps 0 < 48)
include hk

theorem orderStop_pass (hf : (s.eng.session (num1 ps 0)).state ≠ .free) : orderStop ps s =
    Reply.done [] (s.onEng (fun e => e.stopSession s.now (num1 ps 0))) :=
  checked_passes s _ ((sessionChecks_pass (rest := []) hk hf).trans rfl)

theorem orderCancel_pass (hf : (s.eng.session (num1 ps 0)).state ≠ .free) : orderCancel ps s =
    Reply.done [] (s.onEng (fun e => e.cancelSession s.now (num1 ps 0))) :=
  checked_passes s _ ((sessionChecks_pass (rest := []) hk hf).trans rfl)

end Ended

theorem stopSession_idle {e : Engine} {k : Nat} (now : Now) (hr : (e.session k).state.recordLive = false) (hp : (e.session k).state.playLive = false) :
    e.stopSession now k = e := by
  unfold Engine.stopSession
  rw [if_neg (by rw [hr]; exact Bool.false_ne_true), if_neg (by rw [hp]; exact Bool.false_ne_true)]

theorem cancelSession_ended {e : Engine} {k : Nat} (now : Now) (h : (e.session k).state = .ended) : e.cancelSession now k = e := by
  unfold Engine.cancelSession
  rw [h]
  rfl

section Exec
variable {s : State} (h : s.accepting) (tag : Byte) {ps : List Byte} (hl : ps.length = 1) (hk : num1 ps 0 < 48)
include h hl hk

/-- STOP of a session that neither records nor plays. -/
theorem exec_stop_idle (hf : (s.eng.session (num1 ps 0)).state ≠ .free) (hr : (s.eng.session (num1 ps 0)).state.recordLive = false)
    (hp : (s.eng.session (num1 ps 0)).state.playLive = false) : exec (.stop tag ps) s = .next (s.withAnswer tag .done []) := by
  refine congrArg _ (order_answered h (o := .stop) rfl tag (congrArg (· + 2) hl) ((orderStop_pass (s := s.taken) hk hf).trans ?_))
  show Reply.done [] { s.taken with eng := s.taken.eng.stopSession s.taken.now (num1 ps 0) } = _
  rw [stopSession_idle (e := s.taken.eng) s.taken.now hr hp]
  rfl

theorem exec_cancel_ended (hst : (s.eng.session (num1 ps 0)).state = .ended) : exec (.cancel tag ps) s = .next (s.withAnswer tag .done []) := by
  have hf : (s.eng.session (num1 ps 0)).state ≠ .free := by rw [hst]; exact nofun
  refine congrArg _ (order_answered h (o := .cancel) rfl tag (congrArg (· + 2) hl) ((orderCancel_pass (s := s.taken) hk hf).trans ?_))
  show Reply.done [] { s.taken with eng := s.taken.eng.cancelSession s.taken.now (num1 ps 0) } = _
  rw [cancelSession_ended (e := s.taken.eng) s.taken.now hst]
  rfl

end Exec

/-! ## SESSION STATUS (R41) -/

section Status
variable {s : State} (h : s.accepting) (tag : Byte) {ps : List Byte} (hl : ps.length = 1)
include h hl

theorem exec_sessionStatus_refused (hk : 48 ≤ num1 ps 0) : exec (.sessionStatus tag ps) s = .next (s.withAnswer tag .badField []) :=
  congrArg _ (order_answered h (o := .sessionStatus) rfl tag (congrArg (· + 2) hl) (checked_refused (firstRefusal_stop (decide_eq_true hk))))

omit h hl in
theorem orderSessionStatus_pass (s : State) (hk : num1 ps 0 < 48) : orderSessionStatus ps s = Reply.done (s.eng.session (num1 ps 0)).statusBytes
    (if (s.eng.session (num1 ps 0)).state = .ended && (s.eng.session (num1 ps 0)).releaseOnReport then s.onEng (fun e => e.freeSession (num1 ps 0)) else s) :=
  checked_passes s _ (firstRefusal_pass (decide_eq_false (Nat.not_le.2 hk)))

theorem exec_sessionStatus_reported (hk : num1 ps 0 < 48)
    (hst : (s.eng.session (num1 ps 0)).state ≠ .ended ∨ (s.eng.session (num1 ps 0)).releaseOnReport = false) :
    exec (.sessionStatus tag ps) s = .next (s.withAnswer tag .done (s.eng.session (num1 ps 0)).statusBytes) := by
  refine congrArg _ (order_answered h (o := .sessionStatus) rfl tag (congrArg (· + 2) hl) ((orderSessionStatus_pass s.taken hk).trans ?_))
  have hkeep : (decide ((s.taken.eng.session (num1 ps 0)).state = .ended) && (s.taken.eng.session (num1 ps 0)).releaseOnReport) ≠ true := by
    show (decide ((s.eng.session (num1 ps 0)).state = .ended) && (s.eng.session (num1 ps 0)).releaseOnReport) ≠ true
    rcases hst with hst | hst <;> simp [hst]
  rw [if_neg hkeep]
  rfl

theorem exec_sessionStatus_frees (hk : num1 ps 0 < 48) (hst : (s.eng.session (num1 ps 0)).state = .ended)
    (hr : (s.eng.session (num1 ps 0)).releaseOnReport = true) : exec (.sessionStatus tag ps) s =
      .next { s with eng := (s.taken.eng.freeSession (num1 ps 0)).concluded tag .done (s.eng.session (num1 ps 0)).statusBytes } := by
  have hwork := freeSession_within s.taken.eng (num1 ps 0)
  have hfrees : (decide ((s.taken.eng.session (num1 ps 0)).state = .ended) && (s.taken.eng.session (num1 ps 0)).releaseOnReport) = true := by
    show (decide ((s.eng.session (num1 ps 0)).state = .ended) && (s.eng.session (num1 ps 0)).releaseOnReport) = true
    rw [hst, hr]
    rfl
  have hrun : Order.run .sessionStatus ps s.taken =
      { result := .done, data := (s.eng.session (num1 ps 0)).statusBytes, state := { s.taken with eng := s.taken.eng.freeSession (num1 ps 0) }, waits := false } := by
    refine (orderSessionStatus_pass s.taken hk).trans ?_
    rw [if_pos hfrees]
    rfl
  exact congrArg _ ((order_concluded h (o := .sessionStatus) rfl tag (congrArg (· + 2) hl) hrun hwork (by simp) (hwork.keeps .pool rfl).2.1).trans rfl)

end Status

/-- Settles O51, order by order. -/
theorem sessionOrdersRefuseByState : Obligations.SessionOrdersRefuseByState := by
  unfold Obligations.SessionOrdersRefuseByState
  intro s tag ps c h
  refine ⟨?_, ?_, ?_, ?_, ?_, ?_, ?_⟩
  · rintro (⟨(rfl | rfl | rfl) | rfl | rfl, hl⟩ | ⟨rfl, hl⟩)
    · exact session_refusals h (code := 0x12) rfl tag (congrArg (· + 2) hl) rfl stop_onSession
    · exact session_refusals h (code := 0x13) rfl tag (congrArg (· + 2) hl) rfl cancel_onSession
    · exact session_refusals h (code := 0x17) rfl tag (congrArg (· + 2) hl) rfl close_onSession
    · exact session_refusals h (code := 0x14) rfl tag (congrArg (· + 2) hl) rfl pause_onSession
    · exact session_refusals h (code := 0x15) rfl tag (congrArg (· + 2) hl) rfl resume_onSession
    · exact session_refusals h (code := 0x16) rfl tag (congrArg (· + 2) hl) rfl seek_onSession
  · rintro (⟨rfl | rfl, hl⟩ | ⟨rfl, hl⟩) hk hf hp
    · exact session_wrongState h (code := 0x14) rfl tag (congrArg (· + 2) hl) rfl pause_onSession hk hf hp
    · exact session_wrongState h (code := 0x15) rfl tag (congrArg (· + 2) hl) rfl resume_onSession hk hf hp
    · exact session_wrongState h (code := 0x16) rfl tag (congrArg (· + 2) hl) rfl seek_onSession hk hf hp
  · rintro (rfl | rfl) hl hk hst
    · exact exec_stop_idle h tag hl hk (by rw [hst]; exact nofun) (by rw [hst]; rfl) (by rw [hst]; rfl)
    · exact exec_cancel_ended h tag hl hk hst
  · rintro rfl hl hk hst
    exact exec_stop_idle h tag hl hk (by rw [hst]; exact nofun) (by rw [hst]; rfl) (by rw [hst]; rfl)
  · rintro rfl hl hk
    exact exec_sessionStatus_refused h tag hl hk
  · rintro rfl hl hk hst
    exact exec_sessionStatus_reported h tag hl hk hst
  · rintro rfl hl hk hst hr
    refine ⟨_, exec_sessionStatus_frees h tag hl hk hst hr, ?_, fun j hj => ?_, concluded_answered _ _ _ _ _, ?_⟩
    · show ((s.taken.eng.freeSession (num1 ps 0)).session (num1 ps 0)).state = .free
      rw [session_freeSession, if_pos rfl]
      rfl
    · show (s.taken.eng.freeSession (num1 ps 0)).session j = s.eng.session j
      rw [session_freeSession, if_neg hj]
      rfl
    · exact ((silent_within h (by simp) (freeSession_within s.taken.eng (num1 ps 0)) rfl tag .done _).mono rfl).keepsBut rfl rfl rfl

end Sys2Proof.Machine

namespace Sys2Proof.Machine

/-! Proofs about section 4: the completions of catalogue writes (R80). -/

/-! ## What follows work that leaves the store's queues and link -/

/-- The writes made one sequence, and an erase perhaps started. -/
def Engine.rested (e : Engine) : Engine := (e.flush .nothing).startNext

theorem finish_rested {s : State} {g : Engine} {ps : List Part} (h : s.calm) (k : Engine.Within ps s.eng g) (hps : leavesTheRest ps = true) :
    State.finish { s with eng := g } = { s with eng := g.rested } ∧ g.SameContent g.rested ∧ Engine.Within [.link, .writes] g g.rested := by
  obtain ⟨hfinish, hstart⟩ := finish_started (t := { s with eng := g }) h k hps
  exact ⟨hfinish, (flush_content _ _).trans (startNext_content hstart), ((flush_within _ _).mono rfl).step hstart rfl⟩

/-! ## One write completed -/

section WriteDone
variable {e : Engine} {q : List CatSeq} {a : Then}

theorem writeDone_none (h : e.catQueue = []) : e.writeDone = e := by
  unfold Engine.writeDone
  rw [h]

theorem writeDone_more {w v : CatWrite} {ws : List CatWrite} (h : e.catQueue = { writes := w :: v :: ws, after := a } :: q) :
    e.writeDone = { e with cat := w.apply e.cat, catQueue := requeue { writes := v :: ws, after := a } q } := by
  unfold Engine.writeDone
  rw [h]
  rfl

/-- The last write of a sequence brings what the sequence was for. -/
theorem writeDone_last {w : CatWrite} (h : e.catQueue = { writes := [w], after := a } :: q) :
    e.writeDone = Engine.afterSeq a { e with cat := w.apply e.cat, catQueue := q } := by
  unfold Engine.writeDone
  rw [h]
  rfl

end WriteDone

section Exec
variable {s : State} {q : List CatSeq} {a : Then} {w : CatWrite} (hq : s.eng.catQueue = { writes := [w], after := a } :: q)
include hq

/-- Where the sequence's purpose leaves a calm part, nothing follows. -/
theorem exec_writeComplete_calm {e : Engine} (he : Engine.afterSeq a { s.eng with cat := w.apply s.eng.cat, catQueue := q } = e)
    (hc : State.calm { s with eng := e }) : exec .catalogueWriteComplete s = .next { s with eng := e } := by
  have hdone : s.onEng Engine.writeDone = { s with eng := e } := by
    rw [State.onEng, writeDone_last hq, he]
  show Host.Outcome.next (s.onEng Engine.writeDone).finish = _
  rw [hdone, finish_calm hc]

end Exec

theorem afterSeq_allocated {e : Engine} {r : ProgReq} {i : Nat} {b : Bool} (h : e.ssc.link = .allocating r i b) :
    e.afterSeq .allocated = e.modSsc (fun c => { c with link := .programming r i b, opTimer := 0 }) := by
  unfold Engine.afterSeq
  simp only [h]

theorem afterSeq_recorded {e : Engine} (h : e.ssc.link = .recording) : e.afterSeq .recorded = e.freeLink := if_pos h

theorem afterSeq_copied {e : Engine} {j : Job} {js : List Job} (h : e.dle.queue = j :: js) :
    e.afterSeq .copied = { e with dle := { e.dle with queue := { j with current := none } :: js } } := by
  simp only [Engine.afterSeq, Engine.modRunning, Engine.modDle, h]

/-- A link that a program occupies stands still. -/
theorem atRest_of_busy {e : Engine} (ha : e.asked = []) (hd : e.dle.due = none) (hl : e.ssc.link ≠ .idle) : e.atRest :=
  ⟨ha, hd, .inl (by simp [Engine.linkFree, hl])⟩

/-- The segments a cut took out of a chain, handed to the SSC (R103). -/
theorem exec_writeComplete_cut {s : State} (h : s.calm) {q : List CatSeq} {w : CatWrite} {is : List Nat}
    (hq : s.eng.catQueue = { writes := [w], after := .cut is } :: q) (hn : is.Nodup) :
    let freed := is.filter (fun i => (s.eng.segment i).state = .data)
    ∃ t, exec .catalogueWriteComplete s = .next t ∧ t.eng.cat = w.apply s.eng.cat ∧
      (∀ i, t.eng.segment i = if i ∈ freed then { s.eng.segment i with state := .dirty, body := none, next := none } else s.eng.segment i) ∧
      t.eng.ssc.eraseQueue = freed.foldl (fun q i => Run.push i q) s.eng.ssc.eraseQueue ∧ t.eng.ssc.freeList = s.eng.ssc.freeList ∧
      s.keepsBut [.pool, .link, .outbox, .flags, .segments, .catalogue, .writes] t := by
  intro freed
  generalize hg : Engine.makeAllDirty is { s.eng with cat := w.apply s.eng.cat, catQueue := q } = g
  have hdone : s.eng.writeDone = g := (writeDone_last hq).trans hg
  have hdirty : Engine.Within dirtyParts { s.eng with cat := w.apply s.eng.cat, catQueue := q } g := hg ▸ makeAllDirty_within _ is
  have hwork : Engine.Within (.catalogue :: dirtyParts) s.eng g :=
    (((cat_within s.eng (w.apply s.eng.cat)).mono rfl).step (writes_within _ q s.eng.asked) rfl).step hdirty rfl
  obtain ⟨hfinish, hsame, hrest⟩ := finish_rested h hwork rfl
  obtain ⟨hqueue, hfree⟩ := makeAllDirty_ssc is { s.eng with cat := w.apply s.eng.cat, catQueue := q } hn
  rw [hg] at hqueue hfree
  refine ⟨{ s with eng := g.rested }, ?_, ?_, fun i => ?_, hsame.eraseQueue.trans hqueue, hsame.freeList.trans hfree,
    (hwork.mono rfl).trans (hrest.mono rfl) |>.keepsBut rfl rfl rfl⟩
  · show Host.Outcome.next (s.onEng Engine.writeDone).finish = _
    rw [State.onEng, hdone, hfinish]
  · exact (hrest.keeps .catalogue rfl).trans (hdirty.keeps .catalogue rfl)
  · show g.rested.segment i = _
    rw [hsame.segment, ← hg, segment_makeAllDirty]
    show (if i ∈ is ∧ (s.eng.segment i).state = .data then (s.eng.segment i).dirtied else s.eng.segment i) = _
    refine if_congr ?_ rfl rfl
    rw [List.mem_filter, decide_eq_true_eq]

/-- Settles O59, by what the sequence of the write is for. -/
theorem catalogueWritesCompleteInOrder : Obligations.CatalogueWritesCompleteInOrder := by
  unfold Obligations.CatalogueWritesCompleteInOrder
  intro s h
  refine ⟨fun hq => ?_, fun w v ws a q hq => ?_, fun w q hq => ?_, fun w p q hq => ?_, fun w q r i b hq hl => ?_,
    fun w q hq hl hprog hread herase => ?_, fun w q j js hq hj hcancel hpos => ?_, fun w q is hq hn => exec_writeComplete_cut h hq hn⟩
  · show Host.Outcome.next (s.onEng Engine.writeDone).finish = _
    rw [State.onEng, writeDone_none hq, finish_calm h]
  · show Host.Outcome.next (s.onEng Engine.writeDone).finish = _
    rw [State.onEng, writeDone_more hq]
    exact congrArg _ (finish_calm h)
  · exact exec_writeComplete_calm hq rfl h
  · exact exec_writeComplete_calm hq rfl h
  · refine exec_writeComplete_calm hq (afterSeq_allocated hl) ⟨atRest_of_busy h.1.1 h.1.2.1 nofun, h.2⟩
  · exact exec_writeComplete_calm hq (afterSeq_recorded hl) ⟨⟨h.1.1, h.1.2.1, .inr ⟨hprog, hread, herase⟩⟩, h.2⟩
  · obtain ⟨⟨hasked, hdue, hrest⟩, hin⟩ := h
    refine exec_writeComplete_calm hq (afterSeq_copied hj) ⟨⟨hasked, ?_, hrest⟩, hin⟩
    refine (due_none_iff (j := { j with current := none }) (q := js) rfl).2 ⟨job_unfinished hcancel hpos, ((due_none_iff hj).1 hdue).2⟩

end Sys2Proof.Machine

namespace Sys2Proof.Machine

/-! Proofs about section 4: the ends of erases (R79, R85). -/

/-! ## A result that waits to be recorded (R79) -/

section RecordResult
variable (e : Engine)

theorem recordResult_ssc : e.recordResult.ssc = { e.ssc with link := .recording } := flush_ssc _ _

theorem recordResult_asked : e.recordResult.asked = [] := flush_asked _ _

theorem recordResult_mgc : e.recordResult.mgc = e.mgc := flush_mgc _ _

theorem recordResult_dle : e.recordResult.dle = e.dle := flush_dle _ _

theorem flush_tab (t : Then) : (e.flush t).tab = e.tab := (flush_content t e).tab

theorem recordResult_tab : e.recordResult.tab = e.tab := flush_tab _ _

theorem recordResult_segment (j : Nat) : e.recordResult.segment j = e.segment j := by rw [Engine.segment, recordResult_tab, Engine.segment]

end RecordResult

/-- An operation's end whose result waits to be recorded leaves nothing else to do. -/
theorem finish_recording {s : State} {g : Engine} (hin : g.mgc.inbox = []) (ha : g.asked = []) (hd : g.dle.due = none) (hl : g.ssc.link = .recording) :
    State.finish { s with eng := g } = { s with eng := g } :=
  finish_calm ⟨atRest_of_busy ha hd (by rw [hl]; exact nofun), hin⟩

/-! ## What the end of an erase leaves (R85) -/

section Erase
variable (e : Engine) (i : Nat)

theorem eraseDone_ssc : (e.eraseDone i).ssc =
    { e.ssc with link := .recording, eraseQueue := Run.pop e.ssc.eraseQueue, freeList := e.ssc.freeList ++ [i], flash := Tab.erase i e.ssc.flash } :=
  recordResult_ssc _

theorem eraseDone_segment (j : Nat) : (e.eraseDone i).segment j =
    if j = i then { state := .erased, body := none, next := none, eraseFailures := 0 } else e.segment j :=
  (recordResult_segment _ j).trans (segment_putSegment e i _ j)

theorem eraseDone_ended : (e.eraseDone i).mgc = e.mgc ∧ (e.eraseDone i).asked = [] ∧ (e.eraseDone i).dle = e.dle :=
  ⟨recordResult_mgc _, recordResult_asked _, recordResult_dle _⟩

variable {e i} (c : StoreCause)

/-- An erase that fails the first time. -/
theorem eraseFailed_first (h : (e.segment i).eraseFailures = 0) : e.eraseFailed i c =
    ((e.put (.segment i { state := .dirty, body := none, next := none, eraseFailures := 1 })).modSsc
      (fun c => { c with eraseQueue := Run.push i (Run.pop c.eraseQueue) })).recordResult := if_pos h

/-- The part with a segment retired out of the erase queue, and the fault raised. -/
def Engine.erasedOut (e : Engine) (i : Nat) (c : StoreCause) : Engine :=
  ((e.put (.segment i { state := .retired, body := none, next := none, eraseFailures := (e.segment i).eraseFailures })).modSsc
    (fun c => { c with eraseQueue := Run.pop c.eraseQueue })).recordResult.raiseStoreFault .erase i c none

theorem eraseFailed_again (h : (e.segment i).eraseFailures ≠ 0) : e.eraseFailed i c = (e.erasedOut i c).examinePool := if_neg h

end Erase

/-- Examining the pool raises no flag's fall. -/
theorem examinePool_flags (e : Engine) : e.examinePool.mgc.flags = e.mgc.flags ∨ e.examinePool.mgc.flags = e.mgc.flags ||| NoticeKind.poolLow.bit := by
  unfold Engine.examinePool
  repeat' split
  · exact .inl rfl
  · exact .inr rfl
  · exact .inr rfl
  · exact .inl rfl

theorem examinePool_flagged {e : Engine} {k : NoticeKind} (h : e.mgc.flags &&& k.bit = k.bit) : e.examinePool.mgc.flags &&& k.bit = k.bit := by
  rw [and_bit_eq_bit_iff] at h ⊢
  rcases examinePool_flags e with hf | hf <;> simp [hf, h]

theorem examinePool_ended (e : Engine) : e.examinePool.mgc.inbox = e.mgc.inbox ∧ e.examinePool.asked = e.asked ∧ e.examinePool.dle = e.dle ∧
    e.examinePool.tab = e.tab := by
  obtain ⟨-, hin, -, -⟩ := (examinePool_within e).keeps .channel rfl
  exact ⟨hin, ((examinePool_within e).keeps .writes rfl).2, (examinePool_within e).keeps .dle rfl, by
    unfold Engine.examinePool
    (repeat' split) <;> rfl⟩

/-! ## The commands that end an erase -/

section Exec
variable {s : State} {i : Nat} (hin : s.eng.mgc.inbox = []) (hd : s.eng.dle.due = none) (hl : s.eng.ssc.link = .erasing i)
include hin hd hl

theorem exec_eraseComplete : exec (.eraseComplete true) s = .next { s with eng := s.eng.eraseDone i } := by
  have hdone : s.onEng (fun e => e.eraseComplete true) = { s with eng := s.eng.eraseDone i } := by
    rw [State.onEng, Engine.eraseComplete, hl]
    rfl
  obtain ⟨hmgc, hasked, hdle⟩ := eraseDone_ended s.eng i
  show Host.Outcome.next (s.onEng (fun e => e.eraseComplete true)).finish = _
  rw [hdone, finish_recording (hmgc ▸ hin) hasked (hdle ▸ hd) (congrArg Ssc.link (eraseDone_ssc s.eng i))]

omit hin hd in
/-- By device report or by time. -/
theorem eraseFails_by {c : Instr} (hc : c = .eraseComplete false ∨ c = .storeOpTimeout) :
    ∃ cause, exec c s = .next (State.finish { s with eng := s.eng.eraseFailed i cause }) := by
  rcases hc with rfl | rfl
  · refine ⟨.device, ?_⟩
    show Host.Outcome.next (s.onEng (fun e => e.eraseComplete false)).finish = _
    rw [State.onEng, Engine.eraseComplete, hl]
    rfl
  · refine ⟨.time, ?_⟩
    show Host.Outcome.next (s.onEng Engine.opTimeout).finish = _
    rw [State.onEng, Engine.opTimeout, hl]

theorem exec_eraseFails_first {c : Instr} (hc : c = .eraseComplete false ∨ c = .storeOpTimeout) (h0 : (s.eng.segment i).eraseFailures = 0) :
    ∃ t, exec c s = .next t ∧ t.eng.segment i = { state := .dirty, body := none, next := none, eraseFailures := 1 } ∧
      t.eng.ssc.eraseQueue = Run.push i (Run.pop s.eng.ssc.eraseQueue) ∧ t.eng.ssc.freeList = s.eng.ssc.freeList ∧
      t.eng.ssc.link = .recording ∧ (∀ j, j ≠ i → t.eng.segment j = s.eng.segment j) ∧ s.keepsBut [.pool, .link, .segments, .writes] t := by
  obtain ⟨cause, hexec⟩ := eraseFails_by hl hc
  rw [eraseFailed_first cause h0] at hexec
  generalize hg : ((s.eng.put (.segment i { state := .dirty, body := none, next := none, eraseFailures := 1 })).modSsc
      (fun c => { c with eraseQueue := Run.push i (Run.pop c.eraseQueue) })) = g at hexec
  have hssc : g.recordResult.ssc = { g.ssc with link := .recording } := recordResult_ssc g
  have hsegment : ∀ j, g.recordResult.segment j = if j = i then { state := .dirty, body := none, next := none, eraseFailures := 1 } else s.eng.segment j :=
    fun j => (recordResult_segment g j).trans (hg ▸ segment_putSegment s.eng i _ j)
  have hwork : Engine.Within [.pool, .link, .segments, .writes] s.eng g.recordResult := by
    refine Engine.Within.step (b := g) ?_ (recordResult_within g) rfl
    rw [← hg]
    exact ((put_within s.eng _).mono rfl).step (poolLists_within _ s.eng.ssc.freeList _ s.eng.ssc.poolLow) rfl
  refine ⟨{ s with eng := g.recordResult }, ?_, ?_, ?_, ?_, ?_, fun j hj => ?_, hwork.keepsBut rfl rfl rfl⟩
  · rw [hexec, finish_recording ((recordResult_mgc g) ▸ hg ▸ hin) (recordResult_asked g) ((recordResult_dle g) ▸ hg ▸ hd) (congrArg Ssc.link hssc)]
  · exact (hsegment i).trans (if_pos rfl)
  · exact (congrArg Ssc.eraseQueue hssc).trans (hg ▸ rfl)
  · exact (congrArg Ssc.freeList hssc).trans (hg ▸ rfl)
  · exact congrArg Ssc.link hssc
  · exact (hsegment j).trans (if_neg hj)

theorem exec_eraseFails_again {c : Instr} (hc : c = .eraseComplete false ∨ c = .storeOpTimeout) (h0 : (s.eng.segment i).eraseFailures ≠ 0) :
    ∃ t, exec c s = .next t ∧ (t.eng.segment i).state = .retired ∧
      t.eng.ssc.eraseQueue = Run.pop s.eng.ssc.eraseQueue ∧ t.eng.ssc.freeList = s.eng.ssc.freeList ∧ t.flagged .storeFault ∧
      t.eng.ssc.link = .recording ∧ (∀ j, j ≠ i → t.eng.segment j = s.eng.segment j) ∧
      s.keepsBut [.pool, .link, .segments, .outbox, .flags, .writes] t := by
  obtain ⟨cause, hexec⟩ := eraseFails_by hl hc
  rw [eraseFailed_again cause h0] at hexec
  have hssc : (s.eng.erasedOut i cause).ssc = { s.eng.ssc with link := .recording, eraseQueue := Run.pop s.eng.ssc.eraseQueue } := recordResult_ssc _
  have htab : (s.eng.erasedOut i cause).tab = (s.eng.put (.segment i
      { state := .retired, body := none, next := none, eraseFailures := (s.eng.segment i).eraseFailures })).tab := recordResult_tab _
  have hmgc : (s.eng.erasedOut i cause).mgc.inbox = s.eng.mgc.inbox := by
    show (Engine.recordResult _).mgc.inbox = _
    rw [recordResult_mgc]
    rfl
  have hasked : (s.eng.erasedOut i cause).asked = [] := recordResult_asked _
  have hdle : (s.eng.erasedOut i cause).dle = s.eng.dle := recordResult_dle _
  have hflag : (s.eng.erasedOut i cause).mgc.flags &&& NoticeKind.storeFault.bit = NoticeKind.storeFault.bit := raise_flagged _ _ _
  have hwork : Engine.Within [.pool, .link, .segments, .outbox, .flags, .writes] s.eng (s.eng.erasedOut i cause).examinePool := by
    unfold Engine.erasedOut
    exact (((((put_within s.eng _).mono rfl).step (poolLists_within _ s.eng.ssc.freeList _ s.eng.ssc.poolLow) rfl).step (recordResult_within _) rfl).step
      (raise_within _ _ _) rfl).step (examinePool_within _) rfl
  generalize s.eng.erasedOut i cause = g at *
  obtain ⟨hin', hasked', hdle', htab'⟩ := examinePool_ended g
  have hpool := examinePool_ssc g
  have hsegment : ∀ j, g.examinePool.segment j = if j = i then
      { state := .retired, body := none, next := none, eraseFailures := (s.eng.segment i).eraseFailures } else s.eng.segment j := fun j => by
    rw [Engine.segment, htab', htab]
    exact segment_putSegment s.eng i _ j
  have hlink : g.examinePool.ssc.link = .recording := (congrArg Ssc.link hpool).trans (congrArg Ssc.link hssc)
  refine ⟨{ s with eng := g.examinePool }, ?_, ?_, ?_, ?_, examinePool_flagged hflag, hlink, fun j hj => ?_, hwork.keepsBut rfl rfl rfl⟩
  · rw [hexec, finish_recording (hin'.trans (hmgc.trans hin)) (hasked'.trans hasked) (hdle' ▸ hdle ▸ hd) hlink]
  · exact congrArg SegEntry.state ((hsegment i).trans (if_pos rfl))
  · exact (congrArg Ssc.eraseQueue hpool).trans (congrArg Ssc.eraseQueue hssc)
  · show g.examinePool.ssc.freeList = _
    rw [hpool]
    show g.ssc.freeList = _
    rw [hssc]
  · exact (hsegment j).trans (if_neg hj)

end Exec

/-- Settles O58. -/
theorem erasesFollowTheirTable : Obligations.ErasesFollowTheirTable := by
  unfold Obligations.ErasesFollowTheirTable
  intro s i hin _ hd hl _
  have hssc := eraseDone_ssc s.eng i
  refine ⟨⟨_, exec_eraseComplete hin hd hl, ?_, ?_, ?_, ?_, fun j hj => ?_, ?_⟩, fun c hc =>
    ⟨fun h0 => exec_eraseFails_first hin hd hl hc h0, fun h0 => exec_eraseFails_again hin hd hl hc h0⟩⟩
  · exact (eraseDone_segment s.eng i i).trans (if_pos rfl)
  · exact congrArg Ssc.eraseQueue hssc
  · exact congrArg Ssc.freeList hssc
  · exact congrArg Ssc.link hssc
  · exact (eraseDone_segment s.eng i j).trans (if_neg hj)
  · have hwork : Engine.Within [.pool, .link, .flash, .segments, .writes] s.eng (s.eng.eraseDone i) :=
      ((((put_within s.eng _).mono rfl).step (poolLists_within _ (s.eng.ssc.freeList ++ [i]) (Run.pop s.eng.ssc.eraseQueue) s.eng.ssc.poolLow) rfl).step
        (flash_within _ (Tab.erase i s.eng.ssc.flash)) rfl).step (recordResult_within _) rfl
    exact hwork.keepsBut rfl rfl rfl

end Sys2Proof.Machine

namespace Sys2Proof.Machine

/-! Proofs about sections 1 and 2: the samples that record sessions receive in a frame (R10, R13, R23). -/

/-! ## The voice timeslots of a quiet frame (R7, R10) -/

/-- With an empty outbox and nothing arriving, the voice timeslots are all of a frame's traffic. -/
theorem traffic_voice {e : Engine} (now : Now) {hrx : List Byte} (ho : e.mgc.outbox = []) (hrx0 : e.mgc.rx = none) (h0 : hrx.getD 0 0xFF ≠ 0xC3)
    (h1 : hrx.getD 1 0xFF ≠ 0xC3) :
    e.traffic now none hrx = (List.replicate 3 0xFF ++ (List.range 125).map (fun i => e.voiceOut (i + 3)), e.voiceFrame now hrx) := by
  simp only [Engine.traffic, mgmtOut_empty ho, mgmtIn_hunt hrx0 h0, mgmtIn_hunt hrx0 h1, Engine.lampFrame]
  rfl

/-- The part after a quiet frame's traffic. -/
def State.voiced (hrx : List Byte) (s : State) : State :=
  { s with
    hwi := { s.hwi with frameBegun := false, htx := List.replicate 3 0xFF ++ (List.range 125).map (fun i => s.eng.voiceOut (i + 3)) },
    eng := s.eng.voiceFrame s.now hrx }

theorem exec_voice_frame {s : State} {hrx : List Byte} (h : s.quietFrame hrx) (ho : s.eng.mgc.outbox = []) :
    exec (.frame hrx) s = .next (s.voiced hrx).finish := by
  obtain ⟨⟨hcalm, hb, hsync, hf, hw, hrx0, h0, h1⟩, hn⟩ := h
  have hframe := frame_begun hrx hb (carries_of hsync hf) hw
  rw [hn, traffic_voice s.now ho hrx0 h0 h1] at hframe
  show Host.Outcome.next (s.frame hrx).finish = _
  rw [hframe]
  rfl

/-- A timeslot that one session alone can hold carries that session's value, and any other what a free one carries. -/
theorem voiceOut_single {e : Engine} {k : Nat} {out : Option Nat} (h : e.slotsOut = (out.map (fun n => (n, k))).toList) (t : Nat) :
    e.voiceOut t = if out = some t then encode (e.outValue k) else 0x00 := by
  unfold Engine.voiceOut
  rw [h]
  cases out with
  | none => rfl
  | some n =>
    by_cases ht : t = n
    · subst ht
      simp [Tab.find?]
    · have hn : ¬ (some n = some t) := fun hc => ht (Option.some.inj hc).symm
      simp [Tab.find?, ht, hn]

/-! ## What a record session gives and receives -/

/-- A record session that has taken a sample. -/
def Session.counted (v : Int) (x : Session) : Session :=
  { x with meter := x.meter.map (fun m => { m with sum := m.sum + v.natAbs }), cursor := x.cursor + 1, lossTimer := 0 }

section Receive
variable {x : Session} (h : x.state.recordLive = true) (v : Int)
include h

theorem receive_unfilled (hb : x.bufWith .filling = none) : x.receive v = x.counted v := by
  unfold Session.receive
  rw [if_pos h, hb]
  rfl

theorem receive_filled {b : Nat} (hb : x.bufWith .filling = some b) : x.receive v =
    (x.counted v).setBuf b { x.buf b with samples := Tab.set 0 (x.cursor % 2048) v (x.buf b).samples } := by
  unfold Session.receive
  rw [if_pos h, hb]
  by_cases hb0 : b = 0 <;> simp [Session.setBuf, Session.counted, hb0, Meter.add, Session.buf]

end Receive

theorem receive_lossTimer (v : Int) (x : Session) (h : x.state.recordLive = true) (n : Nat) : Session.receive v { x with lossTimer := n } = x.receive v := by
  have hlive : ({ x with lossTimer := n } : Session).state.recordLive = true := h
  cases hb : x.bufWith .filling with
  | none => rw [receive_unfilled h v hb, receive_unfilled hlive v hb, Session.counted, Session.counted]
  | some b =>
    rw [receive_filled h v hb, receive_filled hlive v hb]
    by_cases hb0 : b = 0 <;> simp [Session.setBuf, Session.counted, hb0, Session.buf]

theorem recordLive_not_playing {st : SessState} (h : st.recordLive = true) : st ≠ .playing := by
  rintro rfl
  exact absurd h (by decide)

/-- A value taken from a session that does not play restarts its loss timer alone (R10, R43). -/
theorem outTaken_idle {e : Engine} {k : Nat} (now : Now) (h : (e.session k).state ≠ .playing) :
    e.outTaken now k = e.modSession k (fun x => { x with lossTimer := 0 }) := by
  unfold Engine.outTaken
  dsimp only
  rw [session_modSession_self, if_neg h]

theorem outValue_recording {e : Engine} {k : Nat} (h : (e.session k).state.recordLive = true) :
    e.outValue k = if (e.session k).state = .cue then cueTone e.tab.settings.cueLevel (e.session k).cursor else 0 := by
  unfold Engine.outValue
  have hp := recordLive_not_playing h
  cases hst : (e.session k).state <;> simp_all

/-- A frame in which one record session receives, and perhaps gives (R10, R23). -/
theorem voiceFrame_recording {e : Engine} {ts k : Nat} {out : Option Nat} (now : Now) (hrx : List Byte) (hin : e.slotsIn = [(ts, k)])
    (hout : e.slotsOut = (out.map (fun n => (n, k))).toList) (h : (e.session k).state.recordLive = true) :
    Engine.Within [.sessions] e (e.voiceFrame now hrx) ∧
      ∀ j, (e.voiceFrame now hrx).session j = if j = k then (e.session k).receive (expand (hrx.getD ts 0)) else e.session j := by
  unfold Engine.voiceFrame
  rw [hout]
  cases out with
  | none =>
    simp only [Option.map_none, Option.toList_none, List.foldl_nil, hin, List.foldl_cons]
    exact ⟨modSession_within e k _, fun j => session_modSession e k _ j⟩
  | some n =>
    simp only [Option.map_some, Option.toList_some, List.foldl_nil, List.foldl_cons, outTaken_idle now (recordLive_not_playing h), Engine.modSession_slotsIn, hin]
    refine ⟨(modSession_within e k _).trans (modSession_within _ k _), fun j => ?_⟩
    rw [session_modSession, session_modSession_self, receive_lossTimer _ _ h]
    by_cases hj : j = k
    · rw [if_pos hj, if_pos hj]
    · rw [if_neg hj, if_neg hj, session_modSession_ne e hj]

/-- Settles O9. -/
theorem recordSessionsReceiveSamples : Obligations.RecordSessionsReceiveSamples := by
  unfold Obligations.RecordSessionsReceiveSamples
  intro s hrx ts k out h ho hin hout hlive x v given moved
  obtain ⟨hwork, hsession⟩ := voiceFrame_recording s.now hrx hin hout hlive
  have hcalm : s.calm := h.1.1
  have hfinish : (s.voiced hrx).finish = s.voiced hrx := finish_nothing hcalm (t := s.voiced hrx) hwork rfl rfl rfl
  have hk : (s.voiced hrx).eng.session k = x.receive v := (hsession k).trans (if_pos rfl)
  refine ⟨s.voiced hrx, hfinish ▸ exec_voice_frame h ho, fun hb => hk.trans (receive_unfilled hlive v hb), fun b hb => ?_,
    fun j hj => (hsession j).trans (if_neg hj), ?_, hwork.keepsBut_of rfl (.inl (by simp)) (.inr rfl) rfl⟩
  · refine ⟨_, hk.trans (receive_filled hlive v hb), Tab.get_set_self _ _ _ _, fun i hi => Tab.get_set_ne hi _ _ _⟩
  · have hvalue : (fun i => s.eng.voiceOut (i + 3)) = fun i => if out = some (i + 3) then encode given else 0x00 := funext fun i => by
      rw [voiceOut_single hout, outValue_recording hlive]
    rw [← hvalue]
    rfl

end Sys2Proof.Machine

namespace Sys2Proof.Machine

/-! Proofs about section 2: what a playing fetches (R30, R75). -/

/-! ## The idle buffers and the positions wanted (R30) -/

/-- The idle buffers, the lower first. -/
def Session.idles (x : Session) : List Nat := [0, 1].filter (fun b => decide ((x.buf b).role = .idle))

/-- The chain positions, from one on, that are to be fetched. -/
def Session.lacks (chain : List Nat) (pos : Nat) (x : Session) : List Nat := [pos, pos + 1].filter (fun p => decide (p < chain.length) && !x.covers p)

theorem fetches_eq (chain : List Nat) (offset : Nat) (x : Session) : x.fetches chain offset =
    if x.state.playLive = true then x.idles.zip (x.lacks chain (x.currentPos offset)) else [] := rfl

/-- A session with the read of a position begun into a buffer. -/
def Session.reads (b p : Nat) (x : Session) : Session := x.setBuf b { x.buf b with role := .reading, holds := p }

theorem fetching_cons (b p : Nat) (w : List (Nat × Nat)) (x : Session) : x.fetching ((b, p) :: w) = (x.reads b p).fetching w := rfl

/-- What a read begun leaves of a session. -/
theorem reads_rest (b p : Nat) (x : Session) : (x.reads b p).state = x.state ∧ (x.reads b p).cursor = x.cursor ∧ (x.reads b p).body = x.body := by
  unfold Session.reads Session.setBuf
  split <;> exact ⟨rfl, rfl, rfl⟩

theorem idles_eq (x : Session) : x.idles = (if x.buf0.role = .idle then [0] else []) ++ (if x.buf1.role = .idle then [1] else []) := by
  by_cases h0 : x.buf0.role = .idle <;> by_cases h1 : x.buf1.role = .idle <;> simp [Session.idles, Session.buf, h0, h1]

theorem bufWith_idle (x : Session) : x.bufWith .idle = x.idles.head? := by
  rw [idles_eq]
  unfold Session.bufWith
  by_cases h0 : x.buf0.role = .idle
  · simp [h0]
  · by_cases h1 : x.buf1.role = .idle <;> simp [h0, h1]

theorem find_lacks (chain : List Nat) (pos : Nat) (x : Session) :
    [pos, pos + 1].find? (fun p => decide (p < chain.length) && !x.covers p) = (x.lacks chain pos).head? := List.head?_filter.symm

section Reads
variable {x : Session} {b : Nat} {bs : List Nat} (hb : x.idles = b :: bs) (p : Nat)
include hb

theorem idles_cons : (b = 0 ∧ x.buf0.role = .idle) ∨ (b = 1 ∧ x.buf0.role ≠ .idle ∧ x.buf1.role = .idle) := by
  rw [idles_eq] at hb
  by_cases h0 : x.buf0.role = .idle
  · rw [if_pos h0] at hb
    exact .inl ⟨(List.cons.inj hb).1.symm, h0⟩
  · by_cases h1 : x.buf1.role = .idle
    · rw [if_neg h0, if_pos h1] at hb
      exact .inr ⟨(List.cons.inj hb).1.symm, h0, h1⟩
    · rw [if_neg h0, if_neg h1] at hb
      exact absurd hb (by simp)

theorem idles_reads : (x.reads b p).idles = bs := by
  rcases idles_cons hb with ⟨rfl, h0⟩ | ⟨rfl, h0, h1⟩
  · rw [idles_eq] at hb ⊢
    simpa [h0, Session.reads, Session.setBuf] using hb
  · rw [idles_eq] at hb ⊢
    simpa [h0, h1, Session.reads, Session.setBuf] using hb

theorem covers_reads (q : Nat) : (x.reads b p).covers q = (x.covers q || decide (q = p)) := by
  have hp : decide (p = q) = decide (q = p) := decide_eq_decide.2 eq_comm
  rcases idles_cons hb with ⟨rfl, h0⟩ | ⟨rfl, h0, h1⟩
  · simp [Session.covers, Session.reads, Session.setBuf, h0, hp, Bool.or_comm]
  · simp [Session.covers, Session.reads, Session.setBuf, h1, hp]

theorem lacks_reads {chain : List Nat} {pos : Nat} {ps : List Nat} (hp : x.lacks chain pos = p :: ps) : (x.reads b p).lacks chain pos = ps := by
  have hstep : (x.reads b p).lacks chain pos = (x.lacks chain pos).filter (fun q => !decide (q = p)) := by
    unfold Session.lacks
    rw [List.filter_filter]
    refine List.filter_congr fun q _ => ?_
    rw [covers_reads hb]
    cases x.covers q <;> cases decide (q = p) <;> simp
  have hnodup : (x.lacks chain pos).Nodup := (by simp : [pos, pos + 1].Nodup).filter _
  rw [hstep, hp]
  rw [hp] at hnodup
  obtain ⟨hnot, -⟩ := List.nodup_cons.1 hnodup
  rw [List.filter_cons_of_neg (by simp), List.filter_eq_self]
  intro q hq
  simp only [Bool.not_eq_true', decide_eq_false_iff_not]
  exact fun hc => hnot (hc ▸ hq)

end Reads

/-! ## One read asked for -/

/-- The read that a session asks for of a position. -/
def readOf (k : Nat) (chain : List Nat) (bp : Nat × Nat) : ReadReq := { session := k, buf := bp.1, segment := chain.getD bp.2 0 }

/-- The engine with one read asked for. -/
def Engine.asksRead (k : Nat) (chain : List Nat) (bp : Nat × Nat) (e : Engine) : Engine :=
  (e.modBuf k bp.1 (fun v => { v with role := .reading, holds := bp.2 })).modSsc (fun c => { c with readQueue := c.readQueue ++ [readOf k chain bp] })

theorem fetchOne_eq (k : Nat) (e : Engine) {x : Session} (hx : e.session k = x) {chain : List Nat} (hc : e.chain x.bodyNo = chain) :
    e.fetchOne k = ((x.fetches chain (e.offsetOf x.bodyNo)).head?.elim e (fun bp => e.asksRead k chain bp)) := by
  unfold Engine.fetchOne
  dsimp only
  rw [hx, hc, bufWith_idle, find_lacks, fetches_eq]
  by_cases hl : x.state.playLive = true
  · rw [if_pos hl, if_neg (by simp [hl])]
    generalize x.lacks chain (x.currentPos (e.offsetOf x.bodyNo)) = ps
    rcases x.idles with _ | ⟨b, bs⟩
    · rfl
    · rcases ps with _ | ⟨p, ps⟩ <;> rfl
  · rw [if_neg hl, if_pos (by simp [hl])]
    rfl

/-- A session once a read of it has been asked for. -/
theorem session_asksRead (k : Nat) (chain : List Nat) (bp : Nat × Nat) (e : Engine) (j : Nat) :
    (e.asksRead k chain bp).session j = if j = k then (e.session k).reads bp.1 bp.2 else e.session j :=
  session_modBuf e k bp.1 (fun v => { v with role := .reading, holds := bp.2 }) j

/-- Behind the first read of what a session fetches, it fetches the rest. -/
theorem fetches_reads {x : Session} {chain : List Nat} {offset : Nat} {bp : Nat × Nat} {w : List (Nat × Nat)} (h : x.fetches chain offset = bp :: w) :
    (x.reads bp.1 bp.2).fetches chain offset = w := by
  obtain ⟨hstate, hcursor, -⟩ := reads_rest bp.1 bp.2 x
  rw [fetches_eq] at h ⊢
  have hpos : (x.reads bp.1 bp.2).currentPos offset = x.currentPos offset := by rw [Session.currentPos, hcursor, Session.currentPos]
  rw [hstate, hpos]
  by_cases hl : x.state.playLive = true
  · rw [if_pos hl] at h ⊢
    rcases hi : x.idles with _ | ⟨b, bs⟩
    · rw [hi] at h
      exact absurd h (by simp)
    · rcases hp : x.lacks chain (x.currentPos offset) with _ | ⟨p, ps⟩
      · rw [hi, hp] at h
        exact absurd h (by simp)
      · rw [hi, hp, List.zip_cons_cons] at h
        obtain ⟨rfl, rfl⟩ := List.cons.inj h
        rw [idles_reads hi, lacks_reads hi _ hp]
  · rw [if_neg hl] at h
    exact absurd h (by simp)

/-- A session fetches at most two segments. -/
theorem fetches_length (x : Session) (chain : List Nat) (offset : Nat) : (x.fetches chain offset).length ≤ 2 := by
  rw [fetches_eq]
  split
  · rw [List.length_zip]
    exact Nat.le_trans (Nat.min_le_left _ _) (List.length_filter_le _ _)
  · exact Nat.zero_le _

/-! ## Everything that a session fetches (R30, R75) -/

theorem fetch_spec (k : Nat) {e : Engine} {x : Session} (hx : e.session k = x) {chain : List Nat} (hc : e.chain x.bodyNo = chain) {offset : Nat}
    (ho : e.offsetOf x.bodyNo = offset) :
    (e.fetch k).session k = x.fetching (x.fetches chain offset) ∧ (∀ j, j ≠ k → (e.fetch k).session j = e.session j) ∧
      (e.fetch k).ssc = { e.ssc with readQueue := e.ssc.readQueue ++ (x.fetches chain offset).map (readOf k chain) } := by
  have hone := fetchOne_eq k e hx hc
  rw [ho] at hone
  unfold Engine.fetch
  rw [hone]
  have hlen := fetches_length x chain offset
  rcases hw : x.fetches chain offset with _ | ⟨bp, w⟩
  · rw [List.head?_nil, Option.elim_none, hone, hw]
    refine ⟨hx, fun _ _ => rfl, ?_⟩
    rw [List.map_nil, List.append_nil]
    rfl
  · rw [List.head?_cons, Option.elim_some]
    obtain ⟨-, -, hbody⟩ := reads_rest bp.1 bp.2 x
    have hx1 : (e.asksRead k chain bp).session k = x.reads bp.1 bp.2 := by rw [session_asksRead, if_pos rfl, hx]
    have hbodyNo : (x.reads bp.1 bp.2).bodyNo = x.bodyNo := by rw [Session.bodyNo, hbody, Session.bodyNo]
    have htwo := fetchOne_eq k (e.asksRead k chain bp) hx1 (chain := chain) (by
      rw [hbodyNo]
      exact (chain_congr (e := e) (g := e.asksRead k chain bp) rfl rfl).trans hc)
    have hoff : (e.asksRead k chain bp).offsetOf (x.reads bp.1 bp.2).bodyNo = offset := by
      rw [hbodyNo]
      exact ho
    rw [hoff, fetches_reads hw] at htwo
    rw [htwo]
    have hothers : ∀ j, j ≠ k → (e.asksRead k chain bp).session j = e.session j := fun j hj => by rw [session_asksRead, if_neg hj]
    rcases w with _ | ⟨bq, w⟩
    · exact ⟨hx1, hothers, rfl⟩
    · rw [hw] at hlen
      have hnil : w = [] := List.eq_nil_of_length_eq_zero (Nat.le_zero.1 (Nat.le_of_add_le_add_right (b := 2) hlen))
      subst hnil
      rw [List.head?_cons, Option.elim_some]
      refine ⟨?_, fun j hj => ?_, ?_⟩
      · rw [session_asksRead, if_pos rfl, hx1]
        rfl
      · rw [session_asksRead, if_neg hj, hothers j hj]
      · show { e.ssc with readQueue := (e.ssc.readQueue ++ [readOf k chain bp]) ++ [readOf k chain bq] } = _
        rw [List.append_assoc]
        rfl

/-! ## The reads that the arbiter finds (R75, R77) -/

/-- Work that leaves the programs that wait, the link, the service state, the jobs and the channel: the writes become one sequence, and the arbiter starts
a read, an erase or nothing. -/
theorem finish_reading {s : State} {g : Engine} {ps : List Part} (h : s.calm) (k : Engine.Within ps s.eng g)
    (hps : partsApart [.dle, .link, .service, .channel] ps = true) (hp : g.ssc.progQueue = s.eng.ssc.progQueue) :
    State.finish { s with eng := g } = { s with eng := g.rested } ∧ g.linkFree = s.eng.linkFree := by
  have hout : ∀ p ∈ [Part.dle, .link, .service, .channel], decide (p ∈ ps) = false := fun p hm => decide_eq_false (not_mem_of_partsApart hps hm)
  have hdle : g.dle = s.eng.dle := k.keeps .dle (hout _ (by simp))
  obtain ⟨hlink, -⟩ : g.ssc.link = s.eng.ssc.link ∧ _ := k.keeps .link (hout _ (by simp))
  obtain ⟨hserv, -⟩ : g.ssc.service = s.eng.ssc.service ∧ _ := k.keeps .service (hout _ (by simp))
  obtain ⟨-, hin, -, hre⟩ : _ ∧ g.mgc.inbox = s.eng.mgc.inbox ∧ _ ∧ g.mgc.restart = s.eng.mgc.restart := k.keeps .channel (hout _ (by simp))
  have hfree : g.linkFree = s.eng.linkFree := by rw [Engine.linkFree, Engine.linkFree, Engine.halted, Engine.halted, hserv, hlink, hre]
  refine ⟨?_, hfree⟩
  rw [finish_settle (s := { s with eng := g }) (hin.trans h.2), State.onEng, settle_quiet (e := g) (by rw [hdle]; exact h.1.2.1)
    (by rw [hfree, hp]; exact h.1.2.2.imp id (fun x => x.1))]
  rfl

/-- What the arbiter does of the reads asked for, over a pool that stands (R77). -/
theorem rested_asks {s : State} {g : Engine} (h : s.calm) (hfree : g.linkFree = s.eng.linkFree) (hl : g.ssc.link = s.eng.ssc.link)
    (he : g.ssc.eraseQueue = s.eng.ssc.eraseQueue) {waiting reads : List ReadReq} (hr : g.ssc.readQueue = waiting ++ reads) :
    s.asks { s with eng := g.rested } waiting reads := by
  have hssc : (g.flush .nothing).ssc = g.ssc := flush_ssc _ _
  unfold State.asks Engine.rested Engine.startNext
  rw [flush_linkFree, hfree, hssc, hr, he]
  by_cases hf : s.eng.linkFree = true
  · obtain ⟨-, -, herase⟩ := h.1.2.2.resolve_left (by simp [hf])
    rw [if_pos hf, if_neg (by simp [hf]), herase]
    cases hq : waiting ++ reads with
    | nil =>
      rw [if_neg (by simp), if_neg (by simp)]
      exact ⟨(congrArg Ssc.readQueue hssc).trans (hr.trans hq), (congrArg Ssc.link hssc).trans hl⟩
    | cons r q =>
      rw [if_pos (by simp)]
      have hstart : (g.flush .nothing).startRead = (g.flush .nothing).modSsc (fun c => { c with readQueue := q, link := .reading r 1, opTimer := 0 }) := by
        unfold Engine.startRead
        rw [hssc, hr, hq]
      simp only [hstart, Engine.modSsc_ssc]
      exact ⟨trivial, trivial⟩
  · rw [if_neg hf, if_pos (by simpa using hf)]
    exact ⟨(congrArg Ssc.readQueue hssc).trans hr, (congrArg Ssc.link hssc).trans hl⟩

theorem startNext_parts (e : Engine) : Engine.Within [.link, .storeQueues] e e.startNext := by
  unfold Engine.startNext
  exact .ite (.refl _ _) (.ite ((startRead_within e).mono rfl) (.ite ((startErase_within e).mono rfl) (.refl _ _)))

theorem rested_parts (e : Engine) : Engine.Within [.link, .storeQueues, .writes] e e.rested :=
  ((flush_within e _).mono rfl).step (startNext_parts _) rfl

theorem rested_sessions (e : Engine) (j : Nat) : e.rested.session j = e.session j :=
  congrArg (fun t => Tab.get Session.reset t j) ((rested_parts e).keeps .sessions rfl)

end Sys2Proof.Machine

namespace Sys2Proof.Machine

/-! Proofs about sections 2 and 4: the ends of sessions, behind what a release of a body reports (R42, R74, R204). -/

/-! ## What the releases of segments report (R74) -/

theorem total_segments (q : List Run) : Run.total q = (Run.segments q).length := by
  have hsum : ∀ (q : List Run) (n : Nat), q.foldl (fun n r => n + r.count) n = n + (Run.segments q).length := by
    intro q
    induction q with
    | nil => exact fun n => rfl
    | cons r q ih =>
      intro n
      rw [List.foldl_cons, ih, Run.segments_cons, List.length_append, List.length_map, List.length_range, Nat.add_assoc]
  exact (hsum q 0).trans (Nat.zero_add _)

theorem total_push (i : Nat) (q : List Run) : Run.total (Run.push i q) = Run.total q + 1 := by
  rw [total_segments, total_segments, Run.segments_push, List.length_append, List.length_singleton]

/-- How many POOL_LOWs can follow while the available count rises: none, one that clears the indication, or one that sets it before that. -/
def Engine.lowDue (e : Engine) : Nat :=
  if e.ssc.poolLow = true then 1 else if e.available < e.tab.settings.poolReserve then 2 else 0

theorem lowDue_le (e : Engine) : e.lowDue ≤ 2 := by
  unfold Engine.lowDue
  split
  · exact Nat.le_succ 1
  · split
    · exact Nat.le_refl 2
    · exact Nat.zero_le 2

/-- From e to g POOL_LOWs have been raised, no more than were due, and nothing else has happened to the channel. -/
def Engine.Lows (e g : Engine) : Prop :=
  ∃ ps f, g.mgc = { e.mgc with outbox := e.mgc.outbox ++ ps, flags := e.mgc.flags ||| f } ∧ f &&& NoticeKind.sessionEnd.bit = 0 ∧
    ps.length + g.lowDue ≤ e.lowDue

namespace Engine.Lows
variable {a b c : Engine}

theorem of_rising (hmgc : b.mgc = a.mgc) (hlow : b.ssc.poolLow = a.ssc.poolLow) (hset : b.tab.settings = a.tab.settings)
    (havail : a.available ≤ b.available) : Lows a b := by
  refine ⟨[], 0, by rw [hmgc]; simp, by decide, ?_⟩
  rw [List.length_nil, Nat.zero_add]
  unfold Engine.lowDue
  rw [hlow, hset]
  split
  · exact Nat.le_refl _
  · by_cases h : b.available < a.tab.settings.poolReserve
    · rw [if_pos h, if_pos (Nat.lt_of_le_of_lt havail h)]
    · rw [if_neg h]
      exact Nat.zero_le _

theorem refl (a : Engine) : Lows a a := of_rising rfl rfl rfl (Nat.le_refl _)

theorem trans (h : Lows a b) (k : Lows b c) : Lows a c := by
  obtain ⟨ps, f, hmgc, hf, hn⟩ := h
  obtain ⟨qs, g, kmgc, hg, kn⟩ := k
  refine ⟨ps ++ qs, f ||| g, ?_, ?_, ?_⟩
  · rw [kmgc, hmgc]
    simp [BitVec.or_assoc]
  · rw [BitVec.and_comm, BitVec.and_or_distrib_left, BitVec.and_comm, hf, BitVec.and_comm, hg]
    rfl
  · rw [List.length_append, Nat.add_assoc]
    exact Nat.le_trans (Nat.add_le_add_left kn _) hn

theorem ite {p : Prop} [Decidable p] (h : Lows a b) (k : Lows a c) : Lows a (if p then b else c) := by
  split
  · exact h
  · exact k

/-- Work elsewhere reports nothing. -/
theorem quiet {ps : List Part} (h : Engine.Within ps a b) (hps : partsApart [.channel, .outbox, .flags, .pool, .settings] ps = true) : Lows a b := by
  have hout : ∀ p ∈ [Part.channel, .outbox, .flags, .pool, .settings], decide (p ∈ ps) = false :=
    fun p hm => decide_eq_false (not_mem_of_partsApart hps hm)
  obtain ⟨hfree, herase, hlow⟩ := h.keeps .pool (hout _ (by simp))
  have hfree' : b.ssc.freeList = a.ssc.freeList := hfree
  have herase' : b.ssc.eraseQueue = a.ssc.eraseQueue := herase
  obtain ⟨hrx, hin, hha, hre⟩ := h.keeps .channel (hout _ (by simp))
  obtain ⟨ho, hh⟩ := h.keeps .outbox (hout _ (by simp))
  obtain ⟨hfl, hle, hch, hov, hga, her⟩ := h.keeps .flags (hout _ (by simp))
  refine of_rising ?_ hlow (h.keeps .settings (hout _ (by simp))) ?_
  · exact show b.mgc = a.mgc from by
      rcases hb : b.mgc with ⟨⟩
      rcases ha : a.mgc with ⟨⟩
      simp_all
  · rw [Engine.available, Engine.available, hfree', herase']

end Engine.Lows

theorem raisePoolLow_mgc (d : Nat) (e : Engine) : ∃ ps, ps.length ≤ 1 ∧
    (e.raisePoolLow d).mgc = { e.mgc with outbox := e.mgc.outbox ++ ps, flags := e.mgc.flags ||| NoticeKind.poolLow.bit } := by
  unfold Engine.raisePoolLow
  rw [raise_eq, raise_outbox]
  by_cases hp : e.placesNotice .poolLow = true
  · exact ⟨[_], Nat.le_refl _, by rw [if_pos hp]⟩
  · exact ⟨[], Nat.zero_le _, by rw [if_neg hp, List.append_nil]⟩

theorem examinePool_lows (e : Engine) : e.Lows e.examinePool := by
  unfold Engine.examinePool
  split
  · exact .refl e
  · split
    · next h =>
      simp only [Bool.and_eq_true, Bool.not_eq_true', decide_eq_true_eq] at h
      obtain ⟨ps, hps, hmgc⟩ := raisePoolLow_mgc 0 (e.modSsc (fun c => { c with poolLow := true }))
      refine ⟨ps, _, hmgc, by decide, ?_⟩
      have hlow : e.lowDue = 2 := by simp [Engine.lowDue, h.1, h.2]
      rw [hlow]
      exact Nat.add_le_add hps (Nat.le_refl 1)
    · split
      · next h =>
        simp only [Bool.and_eq_true, decide_eq_true_eq] at h
        obtain ⟨ps, hps, hmgc⟩ := raisePoolLow_mgc 1 (e.modSsc (fun c => { c with poolLow := false }))
        refine ⟨ps, _, hmgc, by decide, ?_⟩
        have hlow : e.lowDue = 1 := if_pos h.1
        have hnone : ((e.modSsc (fun c => { c with poolLow := false })).raisePoolLow 1).lowDue = 0 :=
          (if_neg Bool.false_ne_true).trans (if_neg (Nat.not_lt.2 (Nat.le_trans (Nat.le_add_right _ _) h.2)))
        rw [hlow, hnone]
        exact hps
      · exact .refl e

theorem joinDirty_lows (i : Nat) (e : Engine) : e.Lows (e.joinDirty i) := by
  have hpush : e.Lows ((e.putDirty i).modSsc (fun c => { c with eraseQueue := Run.push i c.eraseQueue })) := by
    refine .of_rising rfl rfl rfl ?_
    show e.ssc.freeList.length + Run.total e.ssc.eraseQueue ≤ e.ssc.freeList.length + Run.total (Run.push i e.ssc.eraseQueue)
    rw [total_push]
    exact Nat.le_succ _
  exact hpush.trans (examinePool_lows _)

theorem makeAllDirty_lows : ∀ (is : List Nat) (e : Engine), e.Lows (e.makeAllDirty is)
  | [], e => .refl e
  | i :: is, e => (Engine.Lows.ite (joinDirty_lows i e) (.refl e)).trans (makeAllDirty_lows is (e.makeDirty i))

theorem release_lows (b : Nat) (e : Engine) : e.Lows (e.release b) :=
  (makeAllDirty_lows _ e).trans (.quiet (((put_within _ (.body b none)).mono (qs := [.bodies, .holds, .writes]) rfl).step (modHold_within _ b _) rfl) rfl)

theorem releaseIfUnheld_lows (b : Nat) (e : Engine) : e.Lows (e.releaseIfUnheld b) := by
  unfold Engine.releaseIfUnheld
  split
  · exact .refl e
  · exact .ite (release_lows b e) (.refl e)

theorem dropReader_lows (b : Nat) (e : Engine) : e.Lows (e.dropReader b) := (Engine.Lows.quiet (modHold_within e b _) rfl).trans (releaseIfUnheld_lows b _)

theorem dropShare_lows (b : Nat) (e : Engine) : e.Lows (e.dropShare b) := (Engine.Lows.quiet (modShare_within e b _) rfl).trans (releaseIfUnheld_lows b _)

/-! ## A session enters ENDED (R42) -/

/-- A session as it enters ENDED. -/
def Session.endedBy (c : Cause) (x : Session) : Session := { x with state := .ended, outcome := some c, endCause := none }

/-- A session that becomes FREE. -/
def Session.freed (x : Session) : Session := Session.freeWith x.buf0.freed x.buf1.freed

/-- A session that enters ENDED becomes FREE at once. -/
def Engine.freesEnded (x : Session) (e : Engine) : Bool := x.closing || (e.placesNotice .sessionEnd && x.releaseOnReport)

/-- A session that enters ENDED stands as ended or FREE, and the notice is raised unless it closes. -/
theorem enterEnded_eq (k : Nat) (c : Cause) (e : Engine) : e.enterEnded k c =
    (let e1 := e.modSession k (Session.endedBy c)
     let x := (e.session k).endedBy c
     let e2 := if x.closing then e1 else e1.raise .sessionEnd (x.endBytes k)
     if e.freesEnded x then e2.freeSession k else e2) := by
  unfold Engine.enterEnded
  dsimp only
  have hx : (e.modSession k (fun x => { x with state := .ended, outcome := some c, endCause := none })).session k = (e.session k).endedBy c :=
    session_modSession_self e k _
  rw [hx]
  unfold Engine.freesEnded
  by_cases hc : ((e.session k).endedBy c).closing = true
  · rw [if_pos hc, if_pos hc, hc, Bool.true_or]
    rfl
  · rw [if_neg hc, if_neg hc, Bool.eq_false_iff.2 hc, Bool.false_or]
    rfl

section Ended
variable (k : Nat) (c : Cause) (e : Engine)

theorem enterEnded_session (j : Nat) : (e.enterEnded k c).session j = if j = k then
    (if e.freesEnded (e.session k) then ((e.session k).endedBy c).freed else (e.session k).endedBy c) else e.session j := by
  have hone : ∀ g : Engine, g = e.modSession k (Session.endedBy c) ∨ g = (e.modSession k (Session.endedBy c)).raise .sessionEnd (((e.session k).endedBy c).endBytes k) →
      g.session j = if j = k then (e.session k).endedBy c else e.session j := by
    rintro g (rfl | rfl) <;> exact session_modSession e k _ j
  have hself : ∀ g : Engine, g = e.modSession k (Session.endedBy c) ∨ g = (e.modSession k (Session.endedBy c)).raise .sessionEnd (((e.session k).endedBy c).endBytes k) →
      g.session k = (e.session k).endedBy c := by
    rintro g (rfl | rfl) <;> exact session_modSession_self e k _
  rw [enterEnded_eq]
  dsimp only
  have hfrees : e.freesEnded ((e.session k).endedBy c) = e.freesEnded (e.session k) := rfl
  rw [hfrees]
  generalize hg : (if ((e.session k).endedBy c).closing then e.modSession k (Session.endedBy c) else
    (e.modSession k (Session.endedBy c)).raise .sessionEnd (((e.session k).endedBy c).endBytes k)) = g
  have hcase : g = e.modSession k (Session.endedBy c) ∨ g = (e.modSession k (Session.endedBy c)).raise .sessionEnd (((e.session k).endedBy c).endBytes k) := by
    rw [← hg]
    split
    · exact .inl rfl
    · exact .inr rfl
  by_cases hf : e.freesEnded (e.session k) = true
  · rw [if_pos hf, if_pos hf, session_freeSession, hself g hcase, hone g hcase]
    by_cases hj : j = k
    · rw [if_pos hj, if_pos hj]
      rfl
    · rw [if_neg hj, if_neg hj, if_neg hj]
  · rw [if_neg hf, if_neg hf, hone g hcase]

/-- The channel after a session's end. -/
theorem enterEnded_mgc : (e.enterEnded k c).mgc = if (e.session k).closing then e.mgc else
    (e.raise .sessionEnd (((e.session k).endedBy c).endBytes k)).mgc := by
  rw [enterEnded_eq]
  have hfree : ∀ g : Engine, (g.freeSession k).mgc = g.mgc := fun g => rfl
  dsimp only
  have hc : ((e.session k).endedBy c).closing = (e.session k).closing := rfl
  rw [hc]
  by_cases hcl : (e.session k).closing = true
  · rw [if_pos hcl, if_pos hcl]
    split <;> rfl
  · rw [if_neg hcl, if_neg hcl]
    split <;> rfl

end Ended

/-- The notice of a session's end that finds a place stands in the outbox. -/
theorem raise_placed {k : NoticeKind} {d : List Byte} {e : Engine} (h : e.placesNotice k = true) : noticePacket k d ∈ (e.raise k d).mgc.outbox := by
  rw [raise_outbox, if_pos h]
  exact List.mem_append_right _ (List.mem_singleton.2 rfl)

section Places
variable {e g : Engine} (h : e.Lows g) (hset : g.tab.settings = e.tab.settings) (hhalt : g.halted = e.halted)
include h hset hhalt

theorem places_of_notesEnd (hn : e.notesEnd) : g.placesNotice .sessionEnd = true := by
  obtain ⟨hon, hkinds, hroom, hlive⟩ := hn
  obtain ⟨ps, f, hmgc, -, hps⟩ := h
  have htaken : g.mgc.taken = e.mgc.taken + ps.length := by
    rw [hmgc, Mgc.taken, Mgc.taken, List.length_append]
    exact Nat.add_right_comm _ _ _
  have hle : ps.length ≤ 2 := Nat.le_trans (Nat.le_trans (Nat.le_add_right _ _) hps) (lowDue_le e)
  have hlt : g.mgc.taken < Config.outboxPlaces := by
    rw [htaken]
    exact Nat.lt_of_le_of_lt (Nat.add_le_add_left hle _) hroom
  simp only [Engine.placesNotice, hset, hon, hlt, hhalt, hlive, ne_eq, hkinds, not_false_eq_true, decide_true, Bool.and_true, Bool.not_false]

theorem not_places_of_mutesEnd (hm : e.mutesEnd) : g.placesNotice .sessionEnd = false := by
  obtain ⟨ps, f, hmgc, -, -⟩ := h
  unfold Engine.placesNotice
  rw [hset, hhalt]
  rcases hm with hm | hm | hm | hm
  · simp [hm]
  · simp [hm]
  · have htaken : Config.outboxPlaces ≤ g.mgc.taken := by
      rw [hmgc, Mgc.taken, List.length_append]
      exact Nat.le_trans hm (Nat.add_le_add_right (Nat.le_add_right _ _) _)
    simp [Nat.not_lt.2 htaken]
  · simp [hm]

/-- A session that enters ENDED behind the POOL_LOWs of a release ends as R42 and R40 say. -/
theorem enterEnded_endsAs (k : Nat) (c : Cause) : e.endsAs (g.enterEnded k c) k ((g.session k).endedBy c) := by
  have hself : (g.enterEnded k c).session k = if g.freesEnded (g.session k) then ((g.session k).endedBy c).freed else (g.session k).endedBy c :=
    (enterEnded_session k c g k).trans (if_pos rfl)
  refine ⟨fun hclosing => ?_, fun hopen => ?_⟩
  · have hcl : (g.session k).closing = true := hclosing
    obtain ⟨ps, f, hmgc, hf, -⟩ := h
    refine ⟨?_, ?_⟩
    · rw [hself, if_pos (by rw [Engine.freesEnded, hcl, Bool.true_or])]
      rfl
    · rw [enterEnded_mgc, if_pos hcl, hmgc]
      show (e.mgc.flags ||| f) &&& NoticeKind.sessionEnd.bit = _
      rw [BitVec.and_comm, BitVec.and_or_distrib_left, BitVec.and_comm _ f, hf, show (0 : BitVec 16) = 0#16 from rfl, BitVec.or_zero, BitVec.and_comm]
  · have hop : (g.session k).closing = false := hopen
    have hmgc : (g.enterEnded k c).mgc = (g.raise .sessionEnd (((g.session k).endedBy c).endBytes k)).mgc := by
      rw [enterEnded_mgc, if_neg (by rw [hop]; exact Bool.false_ne_true)]
    have hfrees : g.freesEnded (g.session k) = (g.placesNotice .sessionEnd && (g.session k).releaseOnReport) := by
      rw [Engine.freesEnded, hop, Bool.false_or]
    refine ⟨?_, fun hn => ?_, fun hr hn => ?_, fun hkeep => ?_⟩
    · rw [hmgc]
      exact raise_flagged _ _ _
    · rw [hmgc]
      exact raise_placed (places_of_notesEnd h hset hhalt hn)
    · rw [hself, hfrees, places_of_notesEnd h hset hhalt hn, Bool.true_and, if_pos (show (g.session k).releaseOnReport = true from hr)]
      rfl
    · have hstays : (g.placesNotice .sessionEnd && (g.session k).releaseOnReport) = false := by
        rcases hkeep with hr | hm
        · have hr' : (g.session k).releaseOnReport = false := hr
          rw [hr', Bool.and_false]
        · rw [not_places_of_mutesEnd h hset hhalt hm, Bool.false_and]
      rw [hself, hfrees, hstays]
      rfl

end Places

end Sys2Proof.Machine

namespace Sys2Proof.Machine

/-! Proofs about section 2: the end of a playing (R34, R132). -/

/-! ## Reads withdrawn (R34, R75) -/

/-- A session in which buffers alone have changed. -/
def Session.OnlyBufs (x y : Session) : Prop := ∃ b0 b1, y = { x with buf0 := b0, buf1 := b1 }

theorem Session.OnlyBufs.refl (x : Session) : x.OnlyBufs x := ⟨_, _, rfl⟩

theorem Session.OnlyBufs.trans {x y z : Session} (h : x.OnlyBufs y) (k : y.OnlyBufs z) : x.OnlyBufs z := by
  obtain ⟨b0, b1, rfl⟩ := h
  obtain ⟨c0, c1, rfl⟩ := k
  exact ⟨c0, c1, rfl⟩

theorem setBuf_onlyBufs (x : Session) (b : Nat) (v : Buffer) : x.OnlyBufs (x.setBuf b v) := by
  unfold Session.setBuf
  split
  · exact ⟨_, _, rfl⟩
  · exact ⟨_, _, rfl⟩

/-- From e to g buffers of one session alone have changed among the sessions. -/
def Engine.Rebuffers (k : Nat) (e g : Engine) : Prop := (e.session k).OnlyBufs (g.session k) ∧ ∀ j, j ≠ k → g.session j = e.session j

namespace Engine.Rebuffers
variable {k : Nat} {a b c : Engine}

theorem refl (k : Nat) (a : Engine) : Rebuffers k a a := ⟨.refl _, fun _ _ => rfl⟩

theorem trans (h : Rebuffers k a b) (g : Rebuffers k b c) : Rebuffers k a c := ⟨h.1.trans g.1, fun j hj => (g.2 j hj).trans (h.2 j hj)⟩

theorem modBuf (k n : Nat) (f : Buffer → Buffer) (a : Engine) : Rebuffers k a (a.modBuf k n f) := by
  refine ⟨?_, fun j hj => ?_⟩
  · rw [session_modBuf, if_pos rfl]
    exact setBuf_onlyBufs _ _ _
  · rw [session_modBuf, if_neg hj]

theorem foldl_modBuf {α : Type} (k : Nat) (n : α → Nat) (f : Buffer → Buffer) : ∀ (l : List α) (a : Engine),
    Rebuffers k a (l.foldl (fun e r => e.modBuf k (n r) f) a)
  | [], a => refl k a
  | r :: l, a => (modBuf k (n r) f a).trans (foldl_modBuf k n f l _)

theorem ite {p : Prop} [Decidable p] (h : Rebuffers k a b) (g : Rebuffers k a c) : Rebuffers k a (if p then b else c) := by
  split
  · exact h
  · exact g

end Engine.Rebuffers

theorem withdrawReads_rebuffers (k : Nat) (e : Engine) : e.Rebuffers k (e.withdrawReads k) := by
  unfold Engine.withdrawReads
  extract_lets out e1 e2
  have h2 : e.Rebuffers k e2 := Engine.Rebuffers.foldl_modBuf k (fun r : ReadReq => r.buf) Buffer.idled out e1
  split
  · exact .ite (h2.trans (.modBuf _ _ _ _)) h2
  · exact h2

theorem withdrawReads_progQueue (k : Nat) (e : Engine) : (e.withdrawReads k).ssc.progQueue = e.ssc.progQueue := by
  unfold Engine.withdrawReads
  extract_lets out e1 e2
  have hfold : ∀ (l : List ReadReq) (a : Engine), (l.foldl (fun e r => e.modBuf k r.buf Buffer.idled) a).ssc = a.ssc := by
    intro l
    induction l with
    | nil => exact fun _ => rfl
    | cons r l ih => exact fun a => ih _
  have h2 : e2.ssc.progQueue = e.ssc.progQueue :=
    show e2.ssc.progQueue = e1.ssc.progQueue from congrArg Ssc.progQueue (hfold out e1)
  split
  · split
    · exact h2
    · exact h2
  · exact h2

theorem dropPlayed_onlyBufs (x : Session) : x.OnlyBufs x.dropPlayed := ⟨_, _, rfl⟩

/-! ## The bindings released (R9) -/

/-- A table of bindings without the one a session holds. -/
def unbound (n : Option Nat) (t : Tab Nat) : Tab Nat := n.elim t (fun n => Tab.erase n t)

theorem releaseSlots_slots (k : Nat) (e : Engine) : (e.releaseSlots k).slotsIn = unbound (e.session k).inSlot e.slotsIn ∧
    (e.releaseSlots k).slotsOut = unbound (e.session k).outSlot e.slotsOut := by
  unfold Engine.releaseSlots unbound
  refine ⟨?_, ?_⟩
  · dsimp only [Engine.modSession_slotsIn]
    cases (e.session k).inSlot <;> rfl
  · dsimp only [Engine.modSession_slotsOut]
    cases (e.session k).outSlot <;> rfl

theorem find?_unbound (n : Option Nat) (t : Tab Nat) (i : Nat) : Tab.find? (unbound n t) i = if n = some i then none else Tab.find? t i := by
  cases n with
  | none => rfl
  | some n =>
    show Tab.find? (Tab.erase n t) i = _
    rw [Tab.find?_erase]
    by_cases hi : i = n
    · rw [if_pos hi, if_pos (hi ▸ rfl)]
    · rw [if_neg hi, if_neg (fun h => hi (Option.some.inj h).symm)]

/-- A session that holds no timeslot ends over the bindings as they are. -/
theorem enterEnded_slots (k : Nat) (c : Cause) (e : Engine) (hin : (e.session k).inSlot = none) (hout : (e.session k).outSlot = none) :
    (e.enterEnded k c).slotsIn = e.slotsIn ∧ (e.enterEnded k c).slotsOut = e.slotsOut := by
  rw [enterEnded_eq]
  dsimp only
  generalize hg : (if ((e.session k).endedBy c).closing then e.modSession k (Session.endedBy c) else
    (e.modSession k (Session.endedBy c)).raise .sessionEnd (((e.session k).endedBy c).endBytes k)) = g
  have hself : g.session k = (e.session k).endedBy c ∧ g.slotsIn = e.slotsIn ∧ g.slotsOut = e.slotsOut := by
    rw [← hg]
    split <;> exact ⟨session_modSession_self e k _, rfl, rfl⟩
  obtain ⟨hx, hsi, hso⟩ := hself
  split
  · obtain ⟨hri, hro⟩ := releaseSlots_slots k g
    rw [hx] at hri hro
    have hin' : ((e.session k).endedBy c).inSlot = none := hin
    have hout' : ((e.session k).endedBy c).outSlot = none := hout
    rw [hin'] at hri
    rw [hout'] at hro
    exact ⟨hri.trans hsi, hro.trans hso⟩
  · exact ⟨hsi, hso⟩

/-! ## A playing brought to its end -/

/-- The engine once a playing has let go of its reads, buffers and bindings. -/
def Engine.unread (k : Nat) (e : Engine) : Engine := ((e.withdrawReads k).modSession k Session.dropPlayed).releaseSlots k

/-- The engine once a playing has let go of its reader count too and had its effect on its target. -/
def Engine.playedOut (now : Now) (k : Nat) (c : Cause) (e : Engine) : Engine :=
  let x := (e.unread k).session k
  ((e.unread k).dropReader x.bodyNo).playTarget now c ((e.unread k).sampleCount x.bodyNo) x

theorem endPlay_eq (now : Now) (k : Nat) (c : Cause) (e : Engine) : e.endPlay now k c = (e.playedOut now k c).enterEnded k c := rfl

/-- The parts that a playing's end changes besides the sessions, the bindings and the queues. -/
def letGoParts : List Part := [.pool, .holds, .counters, .lmp, .outbox, .flags, .segments, .bodies, .records, .writes]

section PlayedOut
variable (now : Now) (k : Nat) (c : Cause) (e : Engine)

theorem unread_within : Engine.Within [.slots, .sessions, .storeQueues] e (e.unread k) :=
  (((withdrawReads_within e k).mono (qs := [.slots, .sessions, .storeQueues]) rfl).step (modSession_within _ _ _) rfl).step (releaseSlots_within _ _) rfl

theorem unread_session : (∃ b0 b1, (e.unread k).session k = { e.session k with inSlot := none, outSlot := none, buf0 := b0, buf1 := b1 }) ∧
    ∀ j, j ≠ k → (e.unread k).session j = e.session j := by
  obtain ⟨hk, hothers⟩ := withdrawReads_rebuffers k e
  refine ⟨?_, fun j hj => ?_⟩
  · obtain ⟨b0, b1, hb⟩ := hk.trans (dropPlayed_onlyBufs _)
    refine ⟨b0, b1, ?_⟩
    unfold Engine.unread
    rw [session_releaseSlots, if_pos rfl, session_modSession_self, hb]
  · unfold Engine.unread
    rw [session_releaseSlots, if_neg hj, session_modSession_ne _ hj, hothers j hj]

theorem unread_progQueue : (e.unread k).ssc.progQueue = e.ssc.progQueue := withdrawReads_progQueue k e

theorem unread_slots : (e.unread k).slotsIn = unbound (e.session k).inSlot e.slotsIn ∧ (e.unread k).slotsOut = unbound (e.session k).outSlot e.slotsOut := by
  obtain ⟨hi, ho⟩ := releaseSlots_slots k ((e.withdrawReads k).modSession k Session.dropPlayed)
  obtain ⟨b0, b1, hb⟩ := (withdrawReads_rebuffers k e).1
  obtain ⟨hsi, hso⟩ := (withdrawReads_within e k).keeps .slots rfl
  have hx : ((e.withdrawReads k).modSession k Session.dropPlayed).session k = Session.dropPlayed { e.session k with buf0 := b0, buf1 := b1 } := by
    rw [session_modSession_self, hb]
  rw [hx] at hi ho
  exact ⟨hi.trans (congrArg (unbound (e.session k).inSlot) hsi), ho.trans (congrArg (unbound (e.session k).outSlot) hso)⟩

theorem playedOut_within : Engine.Within letGoParts (e.unread k) (e.playedOut now k c) :=
  ((dropReader_within (e.unread k) _).mono (qs := letGoParts) rfl).step (playTarget_within _ _ _ _ _) rfl

theorem playedOut_lows : e.Lows (e.playedOut now k c) :=
  (Engine.Lows.quiet (unread_within k e) rfl).trans ((dropReader_lows _ _).trans (.quiet (playTarget_within _ _ _ _ _) rfl))

theorem playedOut_session (j : Nat) : (e.playedOut now k c).session j = (e.unread k).session j :=
  congrArg (fun t => Tab.get Session.reset t j) ((playedOut_within now k c e).keeps .sessions rfl)

/-- A playing that ends reports and stands as R42 and R40 say. -/
theorem endPlay_endsAs : ∃ b0 b1, e.endsAs (e.endPlay now k c) k
    { e.session k with state := .ended, outcome := some c, endCause := none, inSlot := none, outSlot := none, buf0 := b0, buf1 := b1 } := by
  obtain ⟨⟨b0, b1, hk⟩, -⟩ := unread_session k e
  have hwork := (unread_within k e).mono (qs := [.slots, .sessions, .storeQueues] ++ letGoParts) rfl |>.step (playedOut_within now k c e) rfl
  obtain ⟨hserv, -⟩ := hwork.keeps .service rfl
  obtain ⟨-, -, -, hre⟩ := hwork.keeps .channel rfl
  have hserv' : (e.playedOut now k c).ssc.service = e.ssc.service := hserv
  have hre' : (e.playedOut now k c).mgc.restart = e.mgc.restart := hre
  have hends := enterEnded_endsAs (playedOut_lows now k c e) (hwork.keeps .settings rfl) (by rw [Engine.halted, Engine.halted, hserv', hre']) k c
  rw [playedOut_session, hk] at hends
  exact ⟨b0, b1, hends⟩

theorem endPlay_others {j : Nat} (hj : j ≠ k) : (e.endPlay now k c).session j = e.session j := by
  rw [endPlay_eq, enterEnded_session, if_neg hj, playedOut_session, (unread_session k e).2 j hj]

theorem endPlay_slots : (e.endPlay now k c).slotsIn = unbound (e.session k).inSlot e.slotsIn ∧
    (e.endPlay now k c).slotsOut = unbound (e.session k).outSlot e.slotsOut := by
  obtain ⟨⟨b0, b1, hk⟩, -⟩ := unread_session k e
  obtain ⟨hsi, hso⟩ := (playedOut_within now k c e).keeps .slots rfl
  obtain ⟨hui, huo⟩ := unread_slots k e
  obtain ⟨hi, ho⟩ := enterEnded_slots k c (e.playedOut now k c) (by rw [playedOut_session, hk]) (by rw [playedOut_session, hk])
  exact ⟨hi.trans (Eq.trans hsi hui), ho.trans (Eq.trans hso huo)⟩

theorem endPlay_progQueue : (e.endPlay now k c).ssc.progQueue = e.ssc.progQueue := by
  obtain ⟨-, hprog⟩ := (playedOut_within now k c e).keeps .storeQueues rfl
  obtain ⟨-, hended⟩ := (enterEnded_within (e.playedOut now k c) k c).keeps .storeQueues rfl
  exact Eq.trans hended (Eq.trans hprog (unread_progQueue k e))

/-- The end of the body plays the target record to its end (R34, R132). -/
theorem endPlay_finished {r : Nat} {y : Record} (ht : (e.session k).target = .record r) (hy : e.record r = some y) (q : Nat) :
    (e.endPlay now k .finished).record q = if q = r then some (y.playedToEnd now) else e.record q := by
  obtain ⟨⟨b0, b1, hk⟩, -⟩ := unread_session k e
  have hrecords : ∀ q, ((e.unread k).dropReader ((e.unread k).session k).bodyNo).record q = e.record q := fun q => record_congr
    (((unread_within k e).mono (qs := [.slots, .sessions, .storeQueues] ++ letGoParts.erase .records) rfl |>.step (dropReader_within _ _) rfl).keeps .records rfl) q
  have htarget : ((e.unread k).session k).target = .record r := by
    rw [hk]
    exact ht
  have hended : (e.endPlay now k .finished).record q = (e.playedOut now k .finished).record q :=
    record_congr ((enterEnded_within (e.playedOut now k .finished) k .finished).keeps .records rfl) q
  have hplay : e.playedOut now k .finished = ((e.unread k).dropReader ((e.unread k).session k).bodyNo).changeRecord r y (y.playedToEnd now) := by
    show Engine.playTarget now .finished _ ((e.unread k).session k) _ = _
    unfold Engine.playTarget
    rw [htarget]
    dsimp only
    rw [hrecords, hy]
    rfl
  rw [hended, hplay, changeRecord_record ((hrecords r).trans hy), hrecords]

end PlayedOut

end Sys2Proof.Machine

namespace Sys2Proof.Machine

/-! Proofs about sections 1 and 2: the values that sessions give in a frame (R10, R30, R32 to R34). -/

/-! ## A value taken from a session (R10, R32) -/

/-- A session that has given the value at its cursor. -/
def Session.given (x : Session) : Session := { x with lossTimer := 0, cursor := x.cursor + 1 }

/-- The engine once session k has given the value at its cursor. -/
def Engine.givenBy (k : Nat) (e : Engine) : Engine :=
  (e.modSession k (fun x => { x with lossTimer := 0 })).modSession k (fun x => { x with cursor := x.cursor + 1 })

section Given
variable (k : Nat) (e : Engine)

theorem givenBy_within : Engine.Within [.sessions] e (e.givenBy k) := (modSession_within e k _).trans (modSession_within _ k _)

theorem givenBy_session (j : Nat) : (e.givenBy k).session j = if j = k then (e.session k).given else e.session j := by
  unfold Engine.givenBy
  rw [session_modSession, session_modSession_self]
  by_cases hj : j = k
  · rw [if_pos hj, if_pos hj]
    rfl
  · rw [if_neg hj, if_neg hj, session_modSession_ne e hj]

theorem givenBy_self : (e.givenBy k).session k = (e.session k).given := (givenBy_session k e k).trans (if_pos rfl)

variable {k e} (now : Now)

theorem outTaken_playing (h : (e.session k).state = .playing) : e.outTaken now k =
    if (e.session k).cursor + 1 = e.sampleCount (e.session k).bodyNo then (e.givenBy k).endPlay now k .finished
    else if ((e.session k).cursor + 1 + e.offsetOf (e.session k).bodyNo) % 2048 = 0 then ((e.givenBy k).modSession k Session.cross).fetch k
    else e.givenBy k := by
  unfold Engine.outTaken
  dsimp only
  rw [session_modSession_self, if_pos h]
  rfl

end Given

/-- A session that neither gives cue tone nor plays gives 0 (R10). -/
theorem outValue_idle {e : Engine} {k : Nat} (hc : (e.session k).state ≠ .cue) (hp : (e.session k).state ≠ .playing) : e.outValue k = 0 := by
  unfold Engine.outValue
  cases hst : (e.session k).state <;> simp_all

theorem outValue_cue {e : Engine} {k : Nat} (h : (e.session k).state = .cue) : e.outValue k = cueTone e.tab.settings.cueLevel (e.session k).cursor := by
  unfold Engine.outValue
  dsimp only
  rw [h]

theorem outValue_playing {e : Engine} {k b : Nat} (h : (e.session k).state = .playing) (hb : (e.session k).bufWith .playing = some b) :
    e.outValue k = Tab.get 0 ((e.session k).buf b).samples (((e.session k).cursor + e.offsetOf (e.session k).bodyNo) % 2048) := by
  unfold Engine.outValue
  dsimp only
  rw [h]
  dsimp only
  rw [hb]

/-! ## Crossing into the next segment (R32, R33) -/

section Cross
variable {x : Session} {b : Nat} (hb : x.bufWith .playing = some b)
include hb

/-- A session that leaves the segment it has played. -/
def Session.leftSegment (b : Nat) (x : Session) : Session := x.given.setBuf b (x.buf b).idled

theorem bufWith_spec : b ≤ 1 ∧ (x.buf b).role = .playing := by
  unfold Session.bufWith at hb
  split at hb
  · next h0 =>
    obtain rfl := Option.some.inj hb
    exact ⟨Nat.zero_le 1, h0⟩
  · split at hb
    · next h1 =>
      obtain rfl := Option.some.inj hb
      exact ⟨Nat.le_refl 1, h1⟩
    · exact absurd hb nofun

theorem cross_prefetched {o : Nat} (ho : (x.leftSegment b).bufWith .prefetched = some o) :
    x.given.cross = (x.leftSegment b).setBuf o { x.buf o with role := .playing } := by
  have hb' : x.given.bufWith .playing = some b := hb
  have hbuf : (x.leftSegment b).buf o = x.buf o := by
    obtain ⟨hb1, -⟩ := bufWith_spec hb
    unfold Session.bufWith Session.leftSegment at ho
    unfold Session.leftSegment
    rcases Nat.le_one_iff_eq_zero_or_eq_one.1 hb1 with rfl | rfl
    · by_cases ho0 : o = 0
      · subst ho0
        simp [Session.setBuf, Buffer.idled] at ho
      · simp [Session.buf, Session.setBuf, ho0, Session.given]
    · by_cases ho0 : o = 0
      · simp [Session.buf, Session.setBuf, ho0, Session.given]
      · simp [Session.setBuf, Buffer.idled] at ho
        exact absurd ho.2.symm ho0
  unfold Session.cross
  rw [hb']
  show (match (x.leftSegment b).bufWith .prefetched with
    | some o => (x.leftSegment b).setBuf o { (x.leftSegment b).buf o with role := .playing }
    | none => _) = _
  rw [ho]
  dsimp only
  rw [hbuf]

theorem cross_stalled (ho : (x.leftSegment b).bufWith .prefetched = none) :
    x.given.cross = { x.leftSegment b with state := .stalled, underruns := min 65535 (x.underruns + 1) } := by
  have hb' : x.given.bufWith .playing = some b := hb
  have hund : (x.leftSegment b).underruns = x.underruns := by
    unfold Session.leftSegment Session.setBuf
    split <;> rfl
  unfold Session.cross
  rw [hb']
  show (match (x.leftSegment b).bufWith .prefetched with
    | some o => _
    | none => { x.leftSegment b with state := .stalled, underruns := min 65535 ((x.leftSegment b).underruns + 1) }) = _
  rw [ho, hund]

end Cross

/-! ## The frame of one outbound session -/

theorem voiceFrame_giving {e : Engine} {ts k : Nat} (now : Now) (hrx : List Byte) (hin : e.slotsIn = []) (hout : e.slotsOut = [(ts, k)])
    (h : (e.outTaken now k).slotsIn = []) : e.voiceFrame now hrx = e.outTaken now k := by
  unfold Engine.voiceFrame
  rw [hout, List.foldl_cons, List.foldl_nil]
  dsimp only
  rw [h]
  rfl

section Frame
variable {s : State} {k : Nat} (hcalm : s.calm)

/-- A frame in which one session gives: the part after its traffic, the reads it asks for begun. -/
theorem exec_giving_frame {hrx : List Byte} {ts : Nat} (h : s.quietFrame hrx) (ho : s.eng.mgc.outbox = []) (hin : s.eng.slotsIn = [])
    (hout : s.eng.slotsOut = [(ts, k)]) {g : Engine} (hg : s.eng.outTaken s.now k = g) (hslots : g.slotsIn = []) :
    exec (.frame hrx) s = .next (State.finish { s.voiced hrx with eng := g }) := by
  rw [exec_voice_frame h ho]
  have hvoice := voiceFrame_giving s.now hrx hin hout (hg ▸ hslots)
  rw [hg] at hvoice
  show Host.Outcome.next (State.finish { s.voiced hrx with eng := s.eng.voiceFrame s.now hrx }) = _
  rw [hvoice]

/-- What the arbiter finds after work of a frame that leaves it alone: the part stands as the work left it. -/
theorem giving_silent {hrx : List Byte} {g : Engine} (hcalm : s.calm) (hwork : Engine.Within [.sessions] s.eng g) :
    State.finish { s.voiced hrx with eng := g } = { s.voiced hrx with eng := g } :=
  finish_nothing hcalm (t := { s.voiced hrx with eng := g }) hwork rfl rfl rfl

/-- A session that does not come to the end of a segment or of its body has its cursor moved on where it plays (R32). -/
theorem outTaken_midway {e : Engine} (now : Now)
    (hend : ¬ ((e.session k).state = .playing ∧ (e.session k).cursor + 1 = e.sampleCount (e.session k).bodyNo))
    (hcross : ¬ ((e.session k).state = .playing ∧ (e.session k).cursor + 1 ≠ e.sampleCount (e.session k).bodyNo ∧
      ((e.session k).cursor + 1 + e.offsetOf (e.session k).bodyNo) % 2048 = 0)) :
    Engine.Within [.sessions] e (e.outTaken now k) ∧ ∀ j, (e.outTaken now k).session j = if j = k then
      { e.session k with lossTimer := 0, cursor := if (e.session k).state = .playing then (e.session k).cursor + 1 else (e.session k).cursor } else e.session j := by
  by_cases hp : (e.session k).state = .playing
  · have hne : (e.session k).cursor + 1 ≠ e.sampleCount (e.session k).bodyNo := fun hc => hend ⟨hp, hc⟩
    rw [outTaken_playing now hp, if_neg hne, if_neg (fun hc => hcross ⟨hp, hne, hc⟩)]
    refine ⟨givenBy_within k e, fun j => ?_⟩
    rw [givenBy_session, if_pos hp]
    rfl
  · rw [outTaken_idle now hp]
    refine ⟨modSession_within e k _, fun j => ?_⟩
    rw [session_modSession, if_neg hp]

/-- A playing that has crossed into the next segment fetches (R30, R32, R33). -/
theorem crossed_fetches {hrx : List Byte} {y : Session} (hcalm : s.calm) (hy : (s.eng.session k).given.cross = y) {g : Engine}
    (hg : ((s.eng.givenBy k).modSession k Session.cross).fetch k = g) :
    State.finish { s.voiced hrx with eng := g } = { s.voiced hrx with eng := g.rested } ∧ s.fetchesAs { s.voiced hrx with eng := g.rested } k y s.eng.ssc.readQueue ∧
      (∀ j, j ≠ k → g.rested.session j = s.eng.session j) ∧ Engine.Within [.sessions, .storeQueues, .link] s.eng g.rested := by
  have hcrossed : Engine.Within [.sessions] s.eng ((s.eng.givenBy k).modSession k Session.cross) := (givenBy_within k s.eng).trans (modSession_within _ k _)
  have hself : ((s.eng.givenBy k).modSession k Session.cross).session k = y := by rw [session_modSession_self, givenBy_self, hy]
  have hothers : ∀ j, j ≠ k → ((s.eng.givenBy k).modSession k Session.cross).session j = s.eng.session j := fun j hj => by
    rw [session_modSession_ne _ hj, givenBy_session, if_neg hj]
  obtain ⟨hk, hjs, hssc⟩ := fetch_spec k hself (chain := s.eng.chain y.bodyNo) (chain_congr (e := s.eng) (g := (s.eng.givenBy k).modSession k Session.cross) rfl rfl) (offset := s.eng.offsetOf y.bodyNo) rfl
  have hwork : Engine.Within [.sessions, .storeQueues] s.eng g := hg ▸ (hcrossed.mono rfl).step (fetch_within _ k) rfl
  rw [hg] at hk hjs hssc
  have hprog : g.ssc.progQueue = s.eng.ssc.progQueue := by
    rw [hssc]
    rfl
  have hlink : g.ssc.link = s.eng.ssc.link ∧ g.ssc.eraseQueue = s.eng.ssc.eraseQueue := by
    rw [hssc]
    exact ⟨rfl, rfl⟩
  have hreads : g.ssc.readQueue = s.eng.ssc.readQueue ++ (y.fetches (s.eng.chain y.bodyNo) (s.eng.offsetOf y.bodyNo)).map (readOf k (s.eng.chain y.bodyNo)) := by
    rw [hssc]
    rfl
  obtain ⟨hfinish, hfree⟩ := finish_reading (s := { s.voiced hrx with eng := s.eng }) hcalm hwork rfl hprog
  obtain ⟨-, hasked⟩ : _ ∧ g.asked = s.eng.asked := hwork.keeps .writes rfl
  have hrested : g.rested = g.startNext := by rw [Engine.rested, flush_none (hasked.trans hcalm.1.1)]
  have hasks := rested_asks hcalm hfree hlink.1 hlink.2 hreads
  refine ⟨hfinish, ⟨?_, hasks⟩, fun j hj => ?_, ?_⟩
  · exact (rested_sessions g k).trans hk
  · rw [rested_sessions, hjs j hj, hothers j hj]
  · rw [hrested]
    exact (hwork.mono rfl).step (startNext_parts g) rfl

/-- A playing that has come to the end of its body (R34, R132). -/
theorem finished_rested {hrx : List Byte} (hcalm : s.calm) {g : Engine} (hg : (s.eng.givenBy k).endPlay s.now k .finished = g) :
    State.finish { s.voiced hrx with eng := g } = { s.voiced hrx with eng := g.rested } ∧ g.slotsOut = unbound (s.eng.session k).outSlot s.eng.slotsOut ∧
      Engine.Within (.link :: endPlayParts) s.eng g.rested := by
  have hwork : Engine.Within endPlayParts s.eng g := hg ▸ ((givenBy_within k s.eng).mono rfl).step (endPlay_within _ _ k _) rfl
  have hprog : g.ssc.progQueue = s.eng.ssc.progQueue := hg ▸ endPlay_progQueue _ k _ _
  obtain ⟨hfinish, -⟩ := finish_reading (s := { s.voiced hrx with eng := s.eng }) hcalm hwork rfl hprog
  refine ⟨hfinish, ?_, (hwork.mono rfl).step (rested_parts g) rfl⟩
  have hout := (endPlay_slots s.now k .finished (s.eng.givenBy k)).2
  rw [givenBy_self, hg] at hout
  exact hout

end Frame

/-! ## What stands after the end of the body (R34, R40, R42) -/

section Finished
variable {s : State} {k : Nat} {g : Engine} (hg : (s.eng.givenBy k).endPlay s.now k .finished = g)

include hg in
theorem finished_endsAs : ∃ b0 b1, (s.eng.givenBy k).endsAs g k { (s.eng.session k).given with
    state := .ended, outcome := some .finished, endCause := none, inSlot := none, outSlot := none, buf0 := b0, buf1 := b1 } := by
  obtain ⟨b0, b1, h⟩ := endPlay_endsAs s.now k .finished (s.eng.givenBy k)
  rw [givenBy_self, hg] at h
  exact ⟨b0, b1, h⟩

theorem finished_session {b0 b1 : Buffer} {z : Session} (hz : z = { (s.eng.session k).given with
      state := .ended, outcome := some .finished, endCause := none, inSlot := none, outSlot := none, buf0 := b0, buf1 := b1 })
    (hends : (s.eng.givenBy k).endsAs g k z) (ho : s.eng.mgc.outbox = []) (hclosing : (s.eng.session k).closing = false) :
    ((s.eng.session k).releaseOnReport = true → s.eng.placesNotice .sessionEnd = true → (g.session k).state = .free) ∧
      (((s.eng.session k).releaseOnReport = false ∨ s.eng.placesNotice .sessionEnd = false) → g.session k = z) ∧
      (g.session k).outSlot = none ∧ g.mgc.flags &&& NoticeKind.sessionEnd.bit = NoticeKind.sessionEnd.bit := by
  subst hz
  obtain ⟨-, hopen⟩ := hends
  obtain ⟨hflag, -, hfreed, hkept⟩ := hopen hclosing
  have htaken : s.eng.mgc.taken ≤ 1 := by
    rw [Mgc.taken, ho, List.length_nil, Nat.zero_add]
    split <;> simp
  have hnotes : s.eng.placesNotice .sessionEnd = true → (s.eng.givenBy k).notesEnd := fun h => by
    simp only [Engine.placesNotice, Bool.and_eq_true, decide_eq_true_eq, Bool.not_eq_true'] at h
    obtain ⟨⟨⟨hon, hkinds⟩, -⟩, hlive⟩ := h
    exact ⟨hon, hkinds, Nat.lt_of_le_of_lt (Nat.add_le_add_right htaken 2) (by decide), hlive⟩
  have hmutes : s.eng.placesNotice .sessionEnd = false → (s.eng.givenBy k).mutesEnd := fun h => by
    have hroom : s.eng.mgc.taken < Config.outboxPlaces := Nat.lt_of_le_of_lt htaken (by decide)
    simp only [Engine.placesNotice, hroom, decide_true, Bool.and_true, Bool.and_eq_false_iff, decide_eq_false_iff_not, ne_eq, Decidable.not_not,
      Bool.not_eq_false'] at h
    rcases h with (hon | hkinds) | hhalt
    · exact .inl hon
    · exact .inr (.inl hkinds)
    · exact .inr (.inr (.inr hhalt))
  refine ⟨fun hr hp => ?_, fun h => hkept (h.imp id hmutes), ?_, hflag⟩
  · rw [hfreed hr (hnotes hp)]
    rfl
  · by_cases hr : (s.eng.session k).releaseOnReport = true
    · by_cases hp : s.eng.placesNotice .sessionEnd = true
      · rw [hfreed hr (hnotes hp)]
        rfl
      · rw [hkept (.inr (hmutes (Bool.eq_false_iff.2 hp)))]
    · rw [hkept (.inl (Bool.eq_false_iff.2 hr))]

include hg in
/-- The records after the end of the body (R34, R132). -/
theorem finished_record {r : Nat} {y : Record} (ht : (s.eng.session k).target = .record r) (hy : s.eng.record r = some y) (q : Nat) :
    g.record q = if q = r then some (y.playedToEnd s.now) else s.eng.record q := by
  have h := endPlay_finished s.now k (s.eng.givenBy k) (r := r) (y := y) (by rw [givenBy_self]; exact ht) hy q
  rw [hg] at h
  exact h

end Finished

/-- A record played to its end, as R34 and R132 write it. -/
theorem playedToEnd_eq (s : State) (y : Record) : y.playedToEnd s.now = { y with
    resume := none
    state := if y.state = .new then .heard else y.state
    heardDay := if y.state = .new then (if s.cal.valid then some s.cal.dayNumber else none) else y.heardDay } := by
  unfold Record.playedToEnd
  by_cases hn : y.state = .new
  · simp only [hn, ↓reduceIte]
    rfl
  · simp only [hn, ↓reduceIte]

/-! ## The obligation -/

/-- Settles O10. -/
theorem sessionsGiveTheirValues : Obligations.SessionsGiveTheirValues := by
  unfold Obligations.SessionsGiveTheirValues
  intro s hrx ts k h ho hin hout x next atEnd crossing
  have hcalm : s.calm := h.1.1
  have hvalue : (fun i => s.eng.voiceOut (i + 3)) = fun i => if i + 3 = ts then encode (s.eng.outValue k) else 0x00 := funext fun i => by
    rw [voiceOut_single (out := some ts) hout]
    exact if_congr ⟨fun hi => (Option.some.inj hi).symm, fun hi => congrArg some hi.symm⟩ rfl rfl
  have hhwi : ∀ g : Engine, ({ s.voiced hrx with eng := g } : State).hwi.htx =
      List.replicate 3 0xFF ++ (List.range 125).map (fun i => if i + 3 = ts then encode (s.eng.outValue k) else 0x00) := fun g => by
    rw [← hvalue]
    rfl
  by_cases hend : atEnd
  · generalize hg : (s.eng.givenBy k).endPlay s.now k .finished = g
    obtain ⟨hfinish, hslots, hwork⟩ := finished_rested hcalm (hrx := hrx) hg
    obtain ⟨b0, b1, hends⟩ := finished_endsAs hg
    obtain ⟨hplay, hlast⟩ := hend
    have htaken : s.eng.outTaken s.now k = g := by rw [outTaken_playing s.now hplay, if_pos hlast, hg]
    have hin' : g.slotsIn = [] := by
      rw [← hg, (endPlay_slots _ k _ _).1, (givenBy_within k s.eng).keeps .slots rfl |>.1, hin]
      cases ((s.eng.givenBy k).session k).inSlot <;> rfl
    refine ⟨{ s.voiced hrx with eng := g.rested }, s.eng.outValue k, ?_, fun b hp hb => outValue_playing hp hb, outValue_cue, outValue_idle,
        hhwi _, rfl, fun j hj => ?_, fun hc => absurd ⟨hplay, hlast⟩ hc, fun hc => absurd hlast hc.2.1, fun _ hclosing => ?_⟩
    · rw [exec_giving_frame h ho hin hout htaken hin', hfinish]
    · rw [rested_sessions, ← hg, endPlay_others _ _ _ _ hj, givenBy_session, if_neg hj]
    · obtain ⟨hfreed, hkept, hslot, hflag⟩ := finished_session rfl hends ho hclosing
      obtain ⟨hflags, -⟩ : g.rested.mgc.flags = g.mgc.flags ∧ _ := (rested_parts g).keeps .flags rfl
      obtain ⟨-, hslotsOut⟩ : _ ∧ g.rested.slotsOut = g.slotsOut := (rested_parts g).keeps .slots rfl
      have hk : g.rested.session k = g.session k := rested_sessions g k
      refine ⟨fun hr hp => ?_, fun hstays => ?_, ?_, fun hx => ?_, ?_, fun r y ht hy q => ?_, hwork.keepsBut_of rfl (.inl (by simp)) (.inr rfl) rfl⟩
      · exact (congrArg Session.state hk).trans (hfreed hr hp)
      · show (g.rested.session k).state = .ended ∧ (g.rested.session k).outcome = some .finished ∧ (g.rested.session k).cursor = next
        rw [hk, hkept hstays]
        exact ⟨rfl, rfl, rfl⟩
      · exact (congrArg Session.outSlot hk).trans hslot
      · show g.rested.slotsOut = []
        rw [hslotsOut, hslots, show (s.eng.session k).outSlot = some ts from hx, hout]
        simp [unbound, Tab.erase]
      · show g.rested.mgc.flags &&& _ = _
        rw [hflags, hflag]
      · rw [← playedToEnd_eq]
        exact (record_congr (e := g) (g := g.rested) ((rested_parts g).keeps .records rfl) q).trans (finished_record hg ht hy q)
  · by_cases hcross : crossing
    · obtain ⟨hplay, hne, hmod⟩ := hcross
      generalize hg : ((s.eng.givenBy k).modSession k Session.cross).fetch k = g
      obtain ⟨hfinish, hfetches, hothers, hwork⟩ := crossed_fetches (hrx := hrx) hcalm rfl hg
      have htaken : s.eng.outTaken s.now k = g := by rw [outTaken_playing s.now hplay, if_neg hne, if_pos hmod, hg]
      have hin' : g.slotsIn = [] := by
        rw [← hg, (fetch_within _ k).keeps .slots rfl |>.1]
        exact hin
      refine ⟨{ s.voiced hrx with eng := g.rested }, s.eng.outValue k, ?_, fun b hp hb => outValue_playing hp hb, outValue_cue, outValue_idle,
        hhwi _, rfl, hothers, fun _ hc => absurd ⟨hplay, hne, hmod⟩ hc, fun _ b hb => ?_, fun hc => absurd hc hend⟩
      · rw [exec_giving_frame h ho hin hout htaken hin', hfinish]
      · refine ⟨fun o ho => ?_, fun ho => ?_, hwork.keepsBut_of rfl (.inl (by simp)) (.inr rfl) rfl⟩
        · rw [cross_prefetched hb ho] at hfetches
          exact hfetches
        · rw [cross_stalled hb ho] at hfetches
          exact hfetches
    · obtain ⟨hwork, hsessions⟩ := outTaken_midway (e := s.eng) (k := k) s.now hend hcross
      obtain ⟨hslots, -⟩ : _ ∧ (s.eng.outTaken s.now k).slotsOut = s.eng.slotsOut := hwork.keeps .slots rfl
      refine ⟨{ s.voiced hrx with eng := s.eng.outTaken s.now k }, s.eng.outValue k, ?_, fun b hp hb => outValue_playing hp hb, outValue_cue, outValue_idle,
        hhwi _, rfl, fun j hj => (hsessions j).trans (if_neg hj), fun _ _ => ⟨(hsessions k).trans (if_pos rfl),
          hwork.keepsBut_of rfl (.inl (by simp)) (.inr rfl) rfl⟩, fun hc => absurd hc hcross, fun hc => absurd hc hend⟩
      rw [exec_giving_frame h ho hin hout rfl (hslots.trans hin), giving_silent hcalm hwork]

end Sys2Proof.Machine

namespace Sys2Proof.Machine

/-! Proofs about section 6: the lists of the mailboxes (R123). -/

/-! ## Linked lists of entries -/

/-- The previous and the next of an entry in a list that begins behind p. -/
def linkOf (p : Option Nat) : List Nat → Nat → Option (Option Nat × Option Nat)
  | [], _ => none
  | r :: rs, q => if q = r then some (p, rs.head?) else linkOf (some r) rs q

theorem linkOf_notMem {q : Nat} : ∀ {rs : List Nat} {p : Option Nat}, q ∉ rs → linkOf p rs q = none
  | [], _, _ => rfl
  | r :: rs, p, h => by
    obtain ⟨hr, hrs⟩ := not_or.1 (mt List.mem_cons.2 h)
    rw [linkOf, if_neg hr, linkOf_notMem hrs]

theorem linkOf_mem {q : Nat} : ∀ {rs : List Nat} {p : Option Nat}, q ∈ rs → linkOf p rs q ≠ none
  | r :: rs, p, h => by
    rw [linkOf]
    by_cases hq : q = r
    · rw [if_pos hq]
      exact nofun
    · rw [if_neg hq]
      exact linkOf_mem ((List.mem_cons.1 h).resolve_left hq)

/-- A list before another: its last entry's next is the other's first. -/
theorem linkOf_append_left {ys : List Nat} {q : Nat} : ∀ {xs : List Nat} {p : Option Nat}, xs.Nodup → q ∈ xs →
    linkOf p (xs ++ ys) q = (linkOf p xs q).map (fun ab => (ab.1, if xs.getLast? = some q then ys.head? else ab.2))
  | [x], p, _, h => by
    obtain rfl := List.mem_singleton.1 h
    simp [linkOf]
  | x :: y :: xs, p, hn, h => by
    obtain ⟨hx, hn⟩ := List.nodup_cons.1 hn
    rw [List.cons_append, linkOf, linkOf, List.getLast?_cons_cons]
    by_cases hq : q = x
    · have hlast : (y :: xs).getLast? ≠ some q := fun hc => hx (hq ▸ List.mem_of_getLast? hc)
      rw [if_pos hq, if_pos hq, Option.map_some, if_neg hlast]
      rfl
    · rw [if_neg hq, if_neg hq]
      exact linkOf_append_left hn ((List.mem_cons.1 h).resolve_left hq)

/-- A list behind another: its first entry's previous is the other's last. -/
theorem linkOf_append_right {ys : List Nat} {q : Nat} : ∀ {xs : List Nat} {p : Option Nat}, q ∉ xs →
    linkOf p (xs ++ ys) q = linkOf (xs.getLast?.or p) ys q
  | [], p, _ => by simp
  | [x], p, h => by
    have hq : q ≠ x := fun hc => h (hc ▸ List.mem_singleton.2 rfl)
    rw [List.singleton_append, linkOf, if_neg hq]
    rfl
  | x :: y :: xs, p, h => by
    obtain ⟨hq, h⟩ := not_or.1 (mt List.mem_cons.2 h)
    rw [List.cons_append, linkOf, if_neg hq, linkOf_append_right h, List.getLast?_cons_cons]
    cases hl : (y :: xs).getLast? with
    | none => exact absurd hl (by simp)
    | some l => rfl

/-- A list that begins behind another entry. -/
theorem linkOf_behind {rs : List Nat} (hn : rs.Nodup) (p p' : Option Nat) (q : Nat) :
    linkOf p' rs q = (linkOf p rs q).map (fun ab => (if rs.head? = some q then p' else ab.1, ab.2)) := by
  cases rs with
  | nil => rfl
  | cons r rs =>
    obtain ⟨hr, -⟩ := List.nodup_cons.1 hn
    rw [linkOf, linkOf, List.head?_cons]
    by_cases hq : q = r
    · rw [if_pos hq, if_pos hq, hq]
      simp
    · have hne : (some r : Option Nat) ≠ some q := fun hc => hq (Option.some.inj hc).symm
      rw [if_neg hq, if_neg hq]
      simp [hne]

/-- The links of the entry that stands between two parts of a list. -/
theorem linkOf_between {before after : List Nat} {r : Nat} (h : r ∉ before) :
    linkOf none (before ++ r :: after) r = some (before.getLast?, after.head?) := by
  rw [linkOf_append_right h, linkOf, if_pos rfl, Option.or_none]

/-- The links after an entry has been appended. -/
theorem linkOf_snoc {rs : List Nat} (hn : rs.Nodup) {r : Nat} (hr : r ∉ rs) (q : Nat) : linkOf none (rs ++ [r]) q =
    if q = r then some (rs.getLast?, none) else (linkOf none rs q).map (fun ab => (ab.1, if rs.getLast? = some q then some r else ab.2)) := by
  by_cases hq : q = r
  · rw [if_pos hq, hq]
    exact linkOf_between hr
  · rw [if_neg hq]
    by_cases hmem : q ∈ rs
    · exact linkOf_append_left hn hmem
    · rw [linkOf_append_right hmem, linkOf_notMem hmem, linkOf, if_neg hq]
      rfl

/-- The links after an entry has been taken out. -/
theorem linkOf_without {before after : List Nat} {r : Nat} (hn : (before ++ r :: after).Nodup) (q : Nat) : linkOf none (before ++ after) q =
    if q = r then none else (linkOf none (before ++ r :: after) q).map (fun ab =>
      (if after.head? = some q then before.getLast? else ab.1, if before.getLast? = some q then after.head? else ab.2)) := by
  obtain ⟨hbefore, hafter, hapart⟩ := List.nodup_append.1 hn
  obtain ⟨hr, hafter⟩ := List.nodup_cons.1 hafter
  by_cases hq : q = r
  · have hnot : r ∉ before ++ after := fun hc => (List.mem_append.1 hc).elim (fun h => hapart r h r List.mem_cons_self rfl) hr
    rw [if_pos hq, hq, linkOf_notMem hnot]
  · rw [if_neg hq]
    by_cases hmem : q ∈ before
    · have hhead : after.head? ≠ some q := fun hc => hapart q hmem q (List.mem_cons_of_mem _ (List.mem_of_head? hc)) rfl
      rw [linkOf_append_left hbefore hmem, linkOf_append_left hbefore hmem, Option.map_map]
      refine congrArg (fun f => Option.map f _) (funext fun ab => ?_)
      simp only [Function.comp_apply, if_neg hhead]
      by_cases hlast : before.getLast? = some q
      · rw [if_pos hlast, if_pos hlast]
      · rw [if_neg hlast, if_neg hlast, if_neg hlast]
    · have hlast : before.getLast? ≠ some q := fun hc => hmem (List.mem_of_getLast? hc)
      rw [linkOf_append_right hmem, linkOf_append_right hmem, Option.or_none, linkOf, if_neg hq, linkOf_behind hafter (some r)]
      simp only [if_neg hlast]

/-! ## The list of a mailbox -/

namespace Engine

/-- The previous and the next of a record in the list of a mailbox that it names. -/
def linksIn (e : Engine) (m r : Nat) : Option (Option Nat × Option Nat) :=
  (e.record r).bind (fun y => if y.mailbox = m then some (y.prev, y.next) else none)

/-- The two ends of a loaded mailbox's list. -/
def endsOf (e : Engine) (m : Nat) : Option (Option Nat × Option Nat) := (e.mailbox m).map (fun b => (b.head, b.tail))

/-- Records linked, between the ends of a mailbox's list. -/
def Chained (e : Engine) (m : Nat) (rs : List Nat) : Prop :=
  rs.Nodup ∧ (∀ q ∈ rs, e.linksIn m q = linkOf none rs q) ∧ e.endsOf m = some (rs.head?, rs.getLast?)

/-- A mailbox's records are its list (R123). -/
def HasList (e : Engine) (m : Nat) (rs : List Nat) : Prop := e.Chained m rs ∧ ∀ q, q ∉ rs → e.linksIn m q = none

/-- The records that name a mailbox form its list, and where it is not loaded there are none. -/
def ListTrue (e : Engine) (m : Nat) : Prop := (∃ rs, e.HasList m rs) ∨ (e.endsOf m = none ∧ ∀ r, e.linksIn m r = none)

end Engine

theorem HasList.links {e : Engine} {m : Nat} {rs : List Nat} (h : e.HasList m rs) (q : Nat) : e.linksIn m q = linkOf none rs q := by
  obtain ⟨⟨-, hin, -⟩, hout⟩ := h
  by_cases hq : q ∈ rs
  · exact hin q hq
  · rw [hout q hq, linkOf_notMem hq]

theorem hasList_iff {e : Engine} {m : Nat} {rs : List Nat} : e.HasList m rs ↔ rs.Nodup ∧ (∀ q, e.linksIn m q = linkOf none rs q) ∧
    e.endsOf m = some (rs.head?, rs.getLast?) :=
  ⟨fun h => ⟨h.1.1, HasList.links h, h.1.2.2⟩, fun h => ⟨⟨h.1, fun q _ => h.2.1 q, h.2.2⟩, fun q hq => (h.2.1 q).trans (linkOf_notMem hq)⟩⟩

theorem linksIn_ne_none {e : Engine} {m r : Nat} : e.linksIn m r ≠ none ↔ e.recordOf m r := by
  unfold Engine.linksIn Engine.recordOf
  cases e.record r with
  | none => simp
  | some y => by_cases hy : y.mailbox = m <;> simp [hy]

theorem linksIn_some {e : Engine} {m r : Nat} {ab : Option Nat × Option Nat} : e.linksIn m r = some ab ↔
    ∃ y, e.record r = some y ∧ y.mailbox = m ∧ (y.prev, y.next) = ab := by
  unfold Engine.linksIn
  cases e.record r with
  | none => simp
  | some y => by_cases hy : y.mailbox = m <;> simp [hy]

theorem endsOf_ne_none {e : Engine} {m : Nat} : e.endsOf m ≠ none ↔ e.mailbox m ≠ none := by
  unfold Engine.endsOf
  cases e.mailbox m <;> simp

/-- A mailbox's list as the invariant writes it (R123). -/
theorem hasList_linkedAs {e : Engine} {m : Nat} {b : Mailbox} (hb : e.mailbox m = some b) (rs : List Nat) :
    e.HasList m rs ↔ rs.Nodup ∧ (∀ r, r ∈ rs ↔ e.recordOf m r) ∧ e.linkedAs b rs := by
  have hends : e.endsOf m = some (rs.head?, rs.getLast?) ↔ b.head = rs.head? ∧ b.tail = rs.getLast? := by simp [Engine.endsOf, hb]
  rw [hasList_iff, hends]
  constructor
  · rintro ⟨hn, hlinks, hhead, htail⟩
    refine ⟨hn, fun r => ?_, hhead, htail, fun before r after hsplit => ?_⟩
    · rw [← linksIn_ne_none, hlinks]
      by_cases hr : r ∈ rs
      · exact ⟨fun _ => linkOf_mem hr, fun _ => hr⟩
      · exact ⟨fun h => absurd h hr, fun h => absurd (linkOf_notMem hr) h⟩
    · have hnot : r ∉ before := fun hc => (List.nodup_append.1 (hsplit ▸ hn)).2.2 r hc r List.mem_cons_self rfl
      obtain ⟨y, hy, -, hpn⟩ := linksIn_some.1 ((hlinks r).trans (hsplit ▸ linkOf_between hnot))
      obtain ⟨hp, hx⟩ := Prod.mk.inj hpn
      exact ⟨y, hy, hp, hx⟩
  · rintro ⟨hn, hmem, hhead, htail, hsplits⟩
    refine ⟨hn, fun q => ?_, hhead, htail⟩
    by_cases hq : q ∈ rs
    · obtain ⟨before, after, hsplit⟩ := List.append_of_mem hq
      have hnot : q ∉ before := fun hc => (List.nodup_append.1 (hsplit ▸ hn)).2.2 q hc q List.mem_cons_self rfl
      obtain ⟨y, hy, hp, hx⟩ := hsplits before q after hsplit
      obtain ⟨z, hz, hm⟩ := (hmem q).1 hq
      obtain rfl := Option.some.inj (hy.symm.trans hz)
      rw [hsplit, linkOf_between hnot]
      exact linksIn_some.2 ⟨y, hy, hm, Prod.ext hp hx⟩
    · rw [linkOf_notMem hq]
      exact not_not.1 (fun hc => hq ((hmem q).2 (linksIn_ne_none.1 hc)))

/-- Every mailbox's records are its list. -/
def Engine.ListsTrue (e : Engine) : Prop := ∀ m, e.ListTrue m

/-- The lists' invariant, mailbox by mailbox. -/
theorem listed_iff (e : Engine) : e.listed ↔ (e.walked → e.ListsTrue) := by
  refine imp_congr_right fun _ => ⟨fun ⟨hload, hlists⟩ m => ?_, fun h => ⟨fun r y hy => ?_, fun m b hb => ?_⟩⟩
  · cases hm : e.mailbox m with
    | none =>
      refine .inr ⟨by rw [Engine.endsOf, hm]; rfl, fun r => not_not.1 (fun hc => ?_)⟩
      obtain ⟨y, hy, hym⟩ := linksIn_ne_none.1 hc
      exact hload r y hy (hym ▸ hm)
    | some b =>
      obtain ⟨rs, hrs⟩ := hlists m b hm
      exact .inl ⟨rs, (hasList_linkedAs hm rs).2 hrs⟩
  · rcases h y.mailbox with ⟨rs, ⟨-, -, hends⟩, -⟩ | ⟨-, hnone⟩
    · exact endsOf_ne_none.1 (by rw [hends]; exact nofun)
    · exact absurd (hnone r) (linksIn_ne_none.2 ⟨y, hy, rfl⟩)
  · rcases h m with ⟨rs, hrs⟩ | ⟨hends, -⟩
    · exact ⟨rs, (hasList_linkedAs hb rs).1 hrs⟩
    · exact absurd hends (endsOf_ne_none.2 (by rw [hb]; exact nofun))

/-! ## What leaves a mailbox's list -/

/-- The list of a mailbox stands where its records' links and its ends do. -/
theorem listTrue_congr {e g : Engine} {m : Nat} (hl : ∀ r, g.linksIn m r = e.linksIn m r) (he : g.endsOf m = e.endsOf m) (h : e.ListTrue m) :
    g.ListTrue m := by
  rcases h with ⟨rs, hrs⟩ | ⟨hends, hnone⟩
  · obtain ⟨hn, hlinks, hends⟩ := hasList_iff.1 hrs
    exact .inl ⟨rs, hasList_iff.2 ⟨hn, fun q => (hl q).trans (hlinks q), he.trans hends⟩⟩
  · exact .inr ⟨he.trans hends, fun r => (hl r).trans (hnone r)⟩

theorem linksIn_congr {e g : Engine} (h : g.tab.records = e.tab.records) (m r : Nat) : g.linksIn m r = e.linksIn m r := by
  rw [Engine.linksIn, record_congr h, Engine.linksIn]

theorem endsOf_congr {e g : Engine} (h : g.tab.mailboxes = e.tab.mailboxes) (m : Nat) : g.endsOf m = e.endsOf m := by
  rw [Engine.endsOf, mailbox_congr h, Engine.endsOf]

/-- What a list looks at in a record. -/
def Record.links (y : Record) : Nat × Option Nat × Option Nat := (y.mailbox, y.prev, y.next)

theorem linksIn_of {e g : Engine} {r : Nat} (h : (g.record r).map Record.links = (e.record r).map Record.links) (m : Nat) : g.linksIn m r = e.linksIn m r := by
  have hfun : ∀ o : Option Record, o.bind (fun y => if y.mailbox = m then some (y.prev, y.next) else none) =
      (o.map Record.links).bind (fun l => if l.1 = m then some l.2 else none) := fun o => by
    cases o with
    | none => rfl
    | some y => rfl
  rw [Engine.linksIn, hfun, h, ← hfun, Engine.linksIn]

theorem Engine.ListsTrue.within {e g : Engine} {ps : List Part} (h : e.ListsTrue) (k : Engine.Within ps e g)
    (hps : partsApart [.records, .mailboxes] ps = true) : g.ListsTrue := fun m =>
  listTrue_congr (linksIn_congr (k.same State.reset .records (not_mem_of_partsApart hps (by simp))) m)
    (endsOf_congr (k.same State.reset .mailboxes (not_mem_of_partsApart hps (by simp))) m) (h m)

end Sys2Proof.Machine

namespace Sys2Proof.Machine

/-! Proofs about section 6: records that join and leave a mailbox's list (R123, R133). -/

/-! ## A record appended -/

section Append
variable (r : Nat) (x : Record) (e : Engine)

/-- The record's writes: its own entry, the next of the last record or the mailbox's head, and the tail. -/
theorem appendRecord_record {r : Nat} {x : Record} {e : Engine} (h : (e.mailbox x.mailbox).bind (·.tail) ≠ some r) (q : Nat) : (e.appendRecord r x).record q =
    if q = r then some { x with prev := (e.mailbox x.mailbox).bind (·.tail), next := none } else
      (e.record q).map (fun y => { y with next := if (e.mailbox x.mailbox).bind (·.tail) = some q then some r else y.next }) := by
  unfold Engine.appendRecord
  dsimp only
  rw [record_putBoxTail]
  cases ht : (e.mailbox x.mailbox).bind (·.tail) with
  | none =>
    dsimp only
    rw [record_putBoxHead, record_putRecord]
    by_cases hq : q = r
    · rw [if_pos hq, if_pos hq]
    · rw [if_neg hq, if_neg hq]
      cases e.record q <;> simp
  | some t =>
    dsimp only
    have htr : r ≠ t := fun hc => h (hc ▸ ht)
    rw [record_putRecordNext, record_putRecord]
    by_cases hq : q = r
    · rw [if_neg (hq ▸ htr), if_pos hq, if_pos hq]
    · rw [if_neg hq, if_neg hq]
      by_cases hqt : q = t
      · rw [if_pos hqt, hqt]
        cases e.record t <;> simp
      · rw [if_neg hqt]
        have hne : ¬ t = q := fun hc => hqt hc.symm
        cases e.record q <;> simp [hne]

theorem appendRecord_endsOf (m : Nat) : (e.appendRecord r x).endsOf m =
    if m = x.mailbox then (e.endsOf m).map (fun ht => (if ht.2 = none then some r else ht.1, some r)) else e.endsOf m := by
  unfold Engine.appendRecord
  dsimp only
  have hput : ∀ g : Engine, ∀ t : Nat, (g.put (.recordNext t (some r))).mailbox m = g.mailbox m := fun g t =>
    mailbox_congr ((put_within g (.recordNext t (some r))).keeps .mailboxes rfl) m
  have hrecord : ∀ v : Option Record, (e.put (.record r v)).mailbox m = e.mailbox m := fun v =>
    mailbox_congr ((put_within e (.record r v)).keeps .mailboxes rfl) m
  unfold Engine.endsOf
  rw [mailbox_putBoxTail]
  by_cases hm : m = x.mailbox
  · subst hm
    rw [if_pos rfl, if_pos rfl]
    cases hb : e.mailbox x.mailbox with
    | none =>
      dsimp only [Option.bind_none]
      rw [mailbox_putBoxHead, hrecord, hb, if_pos rfl]
      rfl
    | some b =>
      cases ht : b.tail with
      | none =>
        simp only [Option.bind_some, ht]
        rw [mailbox_putBoxHead, hrecord, hb, if_pos rfl]
        simp [ht]
      | some t =>
        simp only [Option.bind_some, ht]
        rw [hput, hrecord, hb]
        simp [ht]
  · rw [if_neg hm, if_neg hm]
    cases (e.mailbox x.mailbox).bind (·.tail) with
    | none =>
      dsimp only
      rw [mailbox_putBoxHead, hrecord, if_neg hm]
    | some t =>
      dsimp only
      rw [hput, hrecord]

end Append

/-- The ends' second is the mailbox's tail. -/
theorem tail_endsOf (e : Engine) (m : Nat) : (e.mailbox m).bind (·.tail) = (e.endsOf m).bind (·.2) := by
  unfold Engine.endsOf
  cases e.mailbox m <;> rfl

theorem linksIn_map {e g : Engine} {q : Nat} {f : Option Nat → Option Nat} {p : Option Nat → Option Nat}
    (h : g.record q = (e.record q).map (fun y => { y with prev := p y.prev, next := f y.next })) (m : Nat) :
    g.linksIn m q = (e.linksIn m q).map (fun ab => (p ab.1, f ab.2)) := by
  unfold Engine.linksIn
  rw [h]
  cases e.record q with
  | none => rfl
  | some y => by_cases hy : y.mailbox = m <;> simp [hy]

section Appended
variable {e : Engine} {r : Nat} {x : Record} {rs : List Nat}

/-- A record that no list entry is joins its mailbox's list as the last (R123). -/
theorem appendRecord_chained (h : e.Chained x.mailbox rs) (hr : r ∉ rs) : (e.appendRecord r x).Chained x.mailbox (rs ++ [r]) ∧
    ∀ q, q ≠ r → q ∉ rs → (e.appendRecord r x).linksIn x.mailbox q = e.linksIn x.mailbox q := by
  obtain ⟨hn, hlinks, hends⟩ := h
  have htail : (e.mailbox x.mailbox).bind (·.tail) = rs.getLast? := by rw [tail_endsOf, hends, Option.bind_some]
  have hrecord := appendRecord_record (r := r) (x := x) (e := e) (by rw [htail]; exact fun hc => hr (List.mem_of_getLast? hc))
  rw [htail] at hrecord
  have hnew : (e.appendRecord r x).linksIn x.mailbox r = some (rs.getLast?, none) := by
    rw [Engine.linksIn, hrecord, if_pos rfl]
    simp
  have hold : ∀ q, q ≠ r → (e.appendRecord r x).linksIn x.mailbox q =
      (e.linksIn x.mailbox q).map (fun ab => (ab.1, if rs.getLast? = some q then some r else ab.2)) := fun q hq =>
    linksIn_map (p := id) (f := fun n => if rs.getLast? = some q then some r else n) (by rw [hrecord, if_neg hq]; rfl) _
  refine ⟨⟨?_, fun q hq => ?_, ?_⟩, fun q hq hmem => ?_⟩
  · exact List.nodup_append.2 ⟨hn, List.nodup_singleton r, fun a ha b hb => fun hab => hr (List.mem_singleton.1 hb ▸ hab ▸ ha)⟩
  · rw [linkOf_snoc hn hr]
    by_cases hqr : q = r
    · rw [if_pos hqr, hqr, hnew]
    · rw [if_neg hqr, hold q hqr, hlinks q ((List.mem_append.1 hq).resolve_right (fun hc => hqr (List.mem_singleton.1 hc)))]
  · rw [appendRecord_endsOf, if_pos rfl, hends]
    cases rs with
    | nil => rfl
    | cons a as =>
      have hlast : (a :: as).getLast? ≠ none := by simp
      rw [Option.map_some, if_neg hlast, List.getLast?_concat]
      rfl
  · have hlast : rs.getLast? ≠ some q := fun hc => hmem (List.mem_of_getLast? hc)
    rw [hold q hq]
    simp [hlast]

/-- The lists of the other mailboxes stand while a record joins one. -/
theorem appendRecord_elsewhere {n : Nat} (hm : n ≠ x.mailbox) (ht : ∀ q, (e.mailbox x.mailbox).bind (·.tail) = some q → e.linksIn n q = none ∧ q ≠ r)
    (hr : e.linksIn n r = none) : (∀ q, (e.appendRecord r x).linksIn n q = e.linksIn n q) ∧ (e.appendRecord r x).endsOf n = e.endsOf n := by
  have hrecord := appendRecord_record (r := r) (x := x) (e := e) (fun hc => (ht r hc).2 rfl)
  refine ⟨fun q => ?_, by rw [appendRecord_endsOf, if_neg hm]⟩
  by_cases hq : q = r
  · rw [hq, hr, Engine.linksIn, hrecord, if_pos rfl]
    exact if_neg (Ne.symm hm)
  · have hmap := linksIn_map (e := e) (g := e.appendRecord r x) (p := id) (f := fun a => if (e.mailbox x.mailbox).bind (·.tail) = some q then some r else a)
      (by rw [hrecord, if_neg hq]; rfl) n
    by_cases hlast : (e.mailbox x.mailbox).bind (·.tail) = some q
    · rw [hmap, (ht q hlast).1]
      rfl
    · rw [hmap]
      simp [hlast]

/-- A record names one mailbox. -/
theorem linksIn_apart {n m q : Nat} (hm : n ≠ m) (h : e.linksIn m q ≠ none) : e.linksIn n q = none := by
  obtain ⟨y, hy, hym⟩ := linksIn_ne_none.1 h
  unfold Engine.linksIn
  rw [hy]
  exact if_neg (fun hc => hm (hc.symm.trans hym))

/-- The lists stay true when a record joins at a free entry. -/
theorem appendRecord_lists (h : e.ListsTrue) (hr : e.record r = none) (hb : e.mailbox x.mailbox ≠ none) : (e.appendRecord r x).ListsTrue := by
  have hfree : ∀ n, e.linksIn n r = none := fun n => by rw [Engine.linksIn, hr]; rfl
  obtain ⟨rs, hchain, hout⟩ : ∃ rs, e.HasList x.mailbox rs := (h x.mailbox).resolve_right (fun hc => endsOf_ne_none.2 hb hc.1)
  have hnot : r ∉ rs := fun hc => linkOf_mem hc ((HasList.links ⟨hchain, hout⟩ r).symm.trans (hfree _))
  intro m
  by_cases hm : m = x.mailbox
  · subst hm
    obtain ⟨hchained, hothers⟩ := appendRecord_chained hchain hnot
    refine .inl ⟨rs ++ [r], hchained, fun q hq => ?_⟩
    obtain ⟨hqs, hqr⟩ := not_or.1 (mt List.mem_append.2 hq)
    rw [hothers q (fun hc => hqr (List.mem_singleton.2 hc)) hqs]
    exact hout q hqs
  · have htail : (e.mailbox x.mailbox).bind (·.tail) = rs.getLast? := by rw [tail_endsOf, hchain.2.2, Option.bind_some]
    obtain ⟨hlinks, hends⟩ := appendRecord_elsewhere (e := e) (r := r) (x := x) hm (fun q hq => by
      have hmem : q ∈ rs := List.mem_of_getLast? (htail.symm.trans hq)
      exact ⟨linksIn_apart hm (by rw [HasList.links ⟨hchain, hout⟩]; exact linkOf_mem hmem), fun hc => hnot (hc ▸ hmem)⟩) (hfree m)
    exact listTrue_congr hlinks hends (h m)

end Appended

/-! ## A record unlinked -/

section Unlink
variable {e : Engine} {r : Nat} {x : Record} (hx : e.record r = some x)

theorem unlinkRecord_endsOf (e : Engine) (r : Nat) (x : Record) (m : Nat) : (e.unlinkRecord r x).endsOf m = if m = x.mailbox then
    (e.endsOf m).map (fun ht => (if x.prev = none then x.next else ht.1, if x.next = none then x.prev else ht.2)) else e.endsOf m := by
  unfold Engine.endsOf
  rw [unlinkRecord_mailbox]
  by_cases hm : m = x.mailbox
  · rw [if_pos hm, Option.map_map, Option.map_map]
    refine congrArg (fun f => Option.map f _) (funext fun b => ?_)
    simp only [Function.comp_apply, if_pos hm]
  · rw [if_neg hm, Option.map_map]
    refine congrArg (fun f => Option.map f _) (funext fun b => ?_)
    simp only [Function.comp_apply, if_neg hm]

theorem unlinkRecord_linksIn (e : Engine) (r : Nat) (x : Record) (m q : Nat) : (e.unlinkRecord r x).linksIn m q = if q = r then none else
    (e.linksIn m q).map (fun ab => (if x.next = some q then x.prev else ab.1, if x.prev = some q then x.next else ab.2)) := by
  by_cases hq : q = r
  · rw [if_pos hq, Engine.linksIn, unlinkRecord_record, if_pos hq]
    rfl
  · rw [if_neg hq]
    exact linksIn_map (p := fun a => if x.next = some q then x.prev else a) (f := fun a => if x.prev = some q then x.next else a)
      (by rw [unlinkRecord_record, if_neg hq]) m

include hx

theorem unlinkRecord_lists (h : e.ListsTrue) : (e.unlinkRecord r x).ListsTrue := by
  have hself : e.linksIn x.mailbox r = some (x.prev, x.next) := linksIn_some.2 ⟨x, hx, rfl, rfl⟩
  obtain ⟨rs, hrs⟩ : ∃ rs, e.HasList x.mailbox rs := (h x.mailbox).resolve_right (fun hc => nomatch hself.symm.trans (hc.2 r))
  obtain ⟨hn, hlinks, hends⟩ := hasList_iff.1 hrs
  have hmem : r ∈ rs := not_not.1 (fun hc => nomatch hself.symm.trans ((hlinks r).trans (linkOf_notMem hc)))
  obtain ⟨before, after, hsplit⟩ := List.append_of_mem hmem
  subst hsplit
  have hnot : r ∉ before := fun hc => (List.nodup_append.1 hn).2.2 r hc r List.mem_cons_self rfl
  obtain ⟨hp, hx'⟩ : x.prev = before.getLast? ∧ x.next = after.head? := by
    have := hself.symm.trans ((hlinks r).trans (linkOf_between hnot))
    exact Prod.mk.inj (Option.some.inj this)
  intro m
  by_cases hm : m = x.mailbox
  · subst hm
    refine .inl ⟨before ++ after, hasList_iff.2 ⟨?_, fun q => ?_, ?_⟩⟩
    · exact hn.sublist ((List.sublist_append_right [r] after).append_left before)
    · rw [unlinkRecord_linksIn, hlinks, linkOf_without hn, hp, hx']
    · rw [unlinkRecord_endsOf, if_pos rfl, hends, hp, hx', Option.map_some]
      refine congrArg some (Prod.ext ?_ ?_)
      · cases before <;> simp
      · cases after with
        | nil => simp
        | cons a as => simp [List.getLast?_append]
  · have hnone : ∀ q, q ∈ before ++ r :: after → e.linksIn m q = none := fun q hq =>
      linksIn_apart hm (by rw [hlinks]; exact linkOf_mem hq)
    refine listTrue_congr (fun q => ?_) (by rw [unlinkRecord_endsOf, if_neg hm]) (h m)
    rw [unlinkRecord_linksIn]
    by_cases hq : q ∈ before ++ r :: after
    · rw [hnone q hq]
      simp
    · have hqr : q ≠ r := fun hc => hq (hc ▸ hmem)
      have hnext : x.next ≠ some q := fun hc => hq (List.mem_append_right _ (List.mem_cons_of_mem _ (List.mem_of_head? (hx'.symm.trans hc))))
      have hprev : x.prev ≠ some q := fun hc => hq (List.mem_append_left _ (List.mem_of_getLast? (hp.symm.trans hc)))
      rw [if_neg hqr]
      simp [hnext, hprev]

theorem detachRecord_lists (h : e.ListsTrue) : (e.detachRecord r x).ListsTrue := fun m =>
  listTrue_congr (fun q => by rw [Engine.linksIn, detachRecord_record, Engine.linksIn]) (by rw [Engine.endsOf, detachRecord_mailbox, Engine.endsOf])
    (unlinkRecord_lists hx h m)

end Unlink

/-! ## The work of the blocks -/

theorem put_lists {e : Engine} {r : Nat} {x y : Record} (hx : e.record r = some x) (hy : y.links = x.links) (h : e.ListsTrue) :
    (e.put (.record r (some y))).ListsTrue := fun m => by
  refine listTrue_congr (fun q => linksIn_of ?_ m) (endsOf_congr ((put_within e (.record r (some y))).keeps .mailboxes rfl) m) (h m)
  rw [record_putRecord]
  by_cases hq : q = r
  · rw [if_pos hq, hq, hx, Option.map_some, Option.map_some, hy]
  · rw [if_neg hq]

theorem playedToEnd_links (now : Now) (x : Record) : (x.playedToEnd now).links = x.links := by
  unfold Record.playedToEnd
  dsimp only
  split <;> rfl

theorem marked_links (now : Now) (mk : Mark) (x : Record) : (x.marked now mk).links = x.links := by
  unfold Record.marked
  split <;> rfl

section Works
variable {e : Engine} (h : e.ListsTrue)
include h

theorem changeRecord_lists {r : Nat} {x y : Record} (hx : e.record r = some x) (hy : y.links = x.links) : (e.changeRecord r x y).ListsTrue := by
  have h1 := put_lists hx hy h
  unfold Engine.changeRecord
  refine ite_kept h (ite_kept h1 ?_)
  exact h1.within (((modCounter_within (e.put (.record r (some y))) x.mailbox _).mono (qs := [.counters, .lmp]) rfl).step (handInputs_within _ _) rfl) rfl

theorem freeRecordQuietly_lists (r : Nat) : (e.freeRecordQuietly r).ListsTrue := by
  unfold Engine.freeRecordQuietly
  split
  · exact h
  · next x hx => exact (detachRecord_lists hx h).within (dropShare_within _ _) rfl

theorem freeRecord_lists (r : Nat) : (e.freeRecord r).ListsTrue := by
  unfold Engine.freeRecord
  split
  · exact h
  · exact (freeRecordQuietly_lists h r).within (handInputs_within _ _) rfl

theorem recordSealed_lists (r : Nat) (c : Bool) : (e.recordSealed r c).ListsTrue := by
  unfold Engine.recordSealed
  split
  · exact h
  · next x hx => exact changeRecord_lists h hx rfl

theorem playTarget_lists (now : Now) (c : Cause) (n : Nat) (x : Session) : (e.playTarget now c n x).ListsTrue := by
  unfold Engine.playTarget
  split
  · split
    · exact h
    · next y hy => exact ite_kept (changeRecord_lists h hy (playedToEnd_links now y)) (ite_kept (changeRecord_lists h hy rfl) h)
  · exact h

theorem markRecord_lists (now : Now) (r : Nat) (mk : Mark) : (e.markRecord now r mk).ListsTrue := by
  unfold Engine.markRecord
  split
  · exact h
  · next x hx => exact changeRecord_lists h hx (marked_links now mk x)

theorem examineEntry_lists (r day : Nat) : (e.examineEntry r day).1.ListsTrue := by
  unfold Engine.examineEntry
  split
  · exact h
  · next x hx =>
    split
    · split
      · exact put_lists hx rfl h
      · split
        · exact freeRecord_lists h r
        · exact h
    · exact h

theorem putBoxFields_lists (m : Nat) (f : BoxFields) : (e.put (.boxFields m f)).ListsTrue := fun n => by
  have hlinks : ∀ q, (e.put (.boxFields m f)).linksIn n q = e.linksIn n q := fun q =>
    linksIn_congr ((put_within e (.boxFields m f)).keeps .records rfl) n q
  have hends : (e.put (.boxFields m f)).endsOf n = if n = m then some ((e.mailbox m).bind (·.head), (e.mailbox m).bind (·.tail)) else e.endsOf n := by
    unfold Engine.endsOf
    rw [mailbox_putBoxFields]
    by_cases hn : n = m
    · rw [if_pos hn, if_pos hn]
      rfl
    · rw [if_neg hn, if_neg hn]
  by_cases hn : n = m
  · subst hn
    rw [if_pos rfl] at hends
    cases hb : e.mailbox n with
    | none =>
      rw [hb] at hends
      rcases h n with ⟨rs, ⟨-, -, hrs⟩, -⟩ | ⟨-, hnone⟩
      · exact absurd (show e.mailbox n ≠ none from endsOf_ne_none.1 (by rw [hrs]; exact nofun)) (by rw [hb]; exact fun hc => hc rfl)
      · exact .inl ⟨[], hasList_iff.2 ⟨List.nodup_nil, fun q => (hlinks q).trans (hnone q), hends⟩⟩
    | some b =>
      rw [hb] at hends
      refine listTrue_congr hlinks (hends.trans ?_) (h n)
      rw [Engine.endsOf, hb]
      rfl
  · exact listTrue_congr hlinks (hends.trans (if_neg hn)) (h n)

end Works

end Sys2Proof.Machine

namespace Sys2Proof.Machine

/-! Proofs about section 6: the lists of the mailboxes through every step (R123). -/

/-! ## Records that join -/

theorem Engine.Within.listsKept {ps : List Part} {e g : Engine} (k : Engine.Within ps e g) (h : e.walked → e.ListsTrue)
    (hps : partsApart [.records, .mailboxes, .service] ps = true) : g.walked → g.ListsTrue :=
  fun hw => (h ((k.walked (partsApart_of_subset hps (by simp))).1 hw)).within k (partsApart_of_subset hps (by simp))

theorem Engine.Within.listsWork {ps : List Part} {e g : Engine} (k : Engine.Within ps e g) (h : e.walked → e.ListsTrue)
    (hps : partsApart [.service] ps = true) (hl : e.walked → e.ListsTrue → g.ListsTrue) : g.walked → g.ListsTrue := fun hw =>
  have he := (k.walked (partsApart_of_subset hps (by simp))).1 hw
  hl he (h he)

theorem copyRefusal_loaded {e : Engine} {m n : Nat} (hr : e.copyRefusal m n = none) : e.mailbox m ≠ none := fun hc => by
  unfold Engine.copyRefusal at hr
  rw [hc] at hr
  exact nomatch hr

section Joins
variable {e : Engine} (h : e.ListsTrue) (hrise : e.recordsRise)
include h hrise

theorem makeCopy_lists (now : Now) {m : Nat} (b n src : Nat) (u : Bool) (c : Option Nat) (hb : e.mailbox m ≠ none) : (e.makeCopy now m b n src u c).ListsTrue := by
  have happend := appendRecord_lists (x := Record.copy now m b src u c) h (Tab.find?_lowestFree hrise) hb
  exact happend.within (((((modShare_within _ _ _).mono (qs := [.bodies, .writes, .counters, .lmp]) rfl).step (modCounter_within _ _ _) rfl).step
    (charge_within _ _ _) rfl).step (handInputs_within _ _) rfl) rfl

theorem takeRecipient_lists (now : Now) : (e.takeRecipient now).ListsTrue := by
  unfold Engine.takeRecipient
  split
  · exact h
  · next j _ _ =>
    refine ite_kept h ?_
    split
    · exact h
    · next m _ =>
      dsimp only
      split
      · exact h.within (modDle_within _ _) rfl
      · next hreason =>
        have hb : e.mailbox m ≠ none := by
          by_cases hs : (m = j.sourceBox && j.skipSource) = true
          · rw [if_pos hs] at hreason
            exact nomatch hreason
          · rw [if_neg hs] at hreason
            exact copyRefusal_loaded hreason
        exact ((makeCopy_lists h hrise now _ _ _ _ _ hb).within (modDle_within _ _) rfl).within (flush_within _ _) rfl

theorem target_lists (q : OpenRecord) (now : Now) {b : Nat} (hb : e.mailbox q.mailbox ≠ none) : (q.target now b e).2.ListsTrue := by
  have hbody := createBody_within e b
  have h1 : (e.createBody b).ListsTrue := h.within hbody rfl
  have hfree : (e.createBody b).record e.freeRecordNo = none := (record_congr (hbody.keeps .records rfl) _).trans (Tab.find?_lowestFree hrise)
  have hload : (e.createBody b).mailbox q.mailbox ≠ none := by
    rw [mailbox_congr (hbody.keeps .mailboxes rfl)]
    exact hb
  unfold OpenRecord.target
  dsimp only
  split
  · exact (appendRecord_lists (x := Record.recording now q.mailbox b (q.urgent.getD false) q.caller) h1 hfree hload).within (modCounter_within _ _ _) rfl
  · exact h1.within (putSlot_within _ _ _ _) rfl

end Joins

/-- What the part does outside a check keeps the lists true. -/
theorem lists_worked : Engine.Worked (fun e => e.counted ∧ (e.walked → e.ListsTrue)) where
  session k f e h := ⟨counted_worked.session k f e h.1, (modSession_within e k f).listsKept h.2 rfl⟩
  slots i o e h := ⟨counted_worked.slots i o e h.1, (slots_within e i o).listsKept h.2 rfl⟩
  programs q e h := ⟨counted_worked.programs q e h.1, (queues_within e e.ssc.readQueue q).listsKept h.2 rfl⟩
  reads q e h := ⟨counted_worked.reads q e h.1, (queues_within e q e.ssc.progQueue).listsKept h.2 rfl⟩
  unwant k t e h := ⟨counted_worked.unwant k t e h.1, (unwant_within e k t).listsKept h.2 rfl⟩
  begun b f e h := ⟨counted_worked.begun b f e h.1, (modHold_within e b _).listsKept h.2 rfl⟩
  charge m f e h := ⟨counted_worked.charge m f e h.1, (charge_within e m f).listsKept h.2 rfl⟩
  lamps f e h := ⟨counted_worked.lamps f e h.1, (modLmp_within e f).listsKept h.2 rfl⟩
  raise k d e h := ⟨counted_worked.raise k d e h.1, (raise_within e k d).listsKept h.2 rfl⟩
  cut b f l e h := ⟨counted_worked.cut b f l e h.1, (cutChain_within e b f l).listsKept h.2 rfl⟩
  seals b o n e h := ⟨counted_worked.seals b o n e h.1, (sealBody_within e b o n).listsKept h.2 rfl⟩
  free r e h := ⟨counted_worked.free r e h.1, (freeRecord_within e r).listsWork h.2 rfl (fun _ k => freeRecord_lists k r)⟩
  abandon m g e h := ⟨counted_worked.abandon m g e h.1, (abandonGreeting_within e m g).listsKept h.2 rfl⟩
  sealed r c e h := ⟨counted_worked.sealed r c e h.1, (recordSealed_within e r c).listsWork h.2 rfl (fun _ k => recordSealed_lists k r c)⟩
  replace m g e h := ⟨counted_worked.replace m g e h.1, (replaceGreeting_within e m g).listsKept h.2 rfl⟩
  reader b e h := ⟨counted_worked.reader b e h.1, (dropReader_within e b).listsKept h.2 rfl⟩
  target now c n x e h := ⟨counted_worked.target now c n x e h.1, (playTarget_within e now c n x).listsWork h.2 rfl (fun _ k => playTarget_lists k now c n x)⟩
  flush t e h := ⟨counted_worked.flush t e h.1, (flush_within e t).listsKept h.2 rfl⟩
  job j e h1 h := ⟨counted_worked.job j e h1 h.1, (endJob_within e j).listsKept h.2 rfl⟩
  erase e h := ⟨counted_worked.erase e h.1, (startErase_within e).listsKept h.2 rfl⟩
  read e h := ⟨counted_worked.read e h.1, (startRead_within e).listsKept h.2 rfl⟩
  program r i is e h1 h := ⟨counted_worked.program r i is e h1 h.1, (startProgram_within e r i).listsKept h.2 rfl⟩
  channel f e h1 h := ⟨counted_worked.channel f e h1 h.1, (modMgc_within e f).listsKept h.2 rfl⟩
  byteIn b e h := ⟨counted_worked.byteIn b e h.1, (rxByte_receiving b e).within.listsKept h.2 rfl⟩
  packetIn c g ps e h := ⟨counted_worked.packetIn c g ps e h.1, (goodPacket_receiving (c :: g :: ps) e).within.listsKept h.2 rfl⟩
  queue q a e h := ⟨counted_worked.queue q a e h.1, (writes_within e q a).listsKept h.2 rfl⟩
  write w e h := ⟨counted_worked.write w e h.1, h.2⟩
  dirty is e h := ⟨counted_worked.dirty is e h.1, (makeAllDirty_within e is).listsKept h.2 rfl⟩
  pool e h := ⟨counted_worked.pool e h.1, (examinePool_within e).listsKept h.2 rfl⟩
  idle e h := ⟨counted_worked.idle e h.1, (link_within e .idle e.ssc.opTimer).listsKept h.2 rfl⟩
  retry r n e h := ⟨counted_worked.retry r n e h.1, (link_within e (.reading r n) 0).listsKept h.2 rfl⟩
  issue r i w e h1 h := ⟨counted_worked.issue r i w e h1 h.1, (link_within e (.programming r i w) 0).listsKept h.2 rfl⟩
  stored t e h := ⟨counted_worked.stored t e h.1, (flash_within e t).listsKept h.2 rfl⟩
  linked r i w e h1 h := ⟨counted_worked.linked r i w e h1 h.1, (recordResult_within _).listsKept ((linkSegment_within e r.body i).listsKept h.2 rfl) rfl⟩
  unlinked r i w e h1 h := ⟨counted_worked.unlinked r i w e h1 h.1, (recordResult_within _).listsKept ((joinDirty_within e i).listsKept h.2 rfl) rfl⟩
  retired r i w n e h1 h := ⟨counted_worked.retired r i w n e h1 h.1, (recordResult_within _).listsKept ((put_within e _).listsKept h.2 rfl) rfl⟩
  erased i e h1 h := ⟨counted_worked.erased i e h1 h.1, (eraseDone_within e i).listsKept h.2 rfl⟩
  kept i c e h1 h := ⟨counted_worked.kept i c e h1 h.1, (eraseFailed_within e i c).listsKept h.2 rfl⟩
  losc e h := ⟨counted_worked.losc e h.1, (losc_within e).listsKept h.2 rfl⟩
  recipient now e h := ⟨counted_worked.recipient now e h.1, (takeRecipient_within e now).listsWork h.2 rfl (fun w k => takeRecipient_lists k (h.1.2 w).1 now)⟩
  copied e h := ⟨counted_worked.copied e h.1, (modDle_within e _).listsKept h.2 rfl⟩
  examine r day e h := ⟨counted_worked.examine r day e h.1, (examineEntry_within e r day).listsWork h.2 rfl (fun _ k => examineEntry_lists k r day)⟩
  service p e hp h := ⟨counted_worked.service p e hp h.1, fun _ => h.2 (.inr (by rw [hp]; exact nofun))⟩
  freeze e h := ⟨counted_worked.freeze e h.1, fun hw => absurd hw (fun hw => hw.elim nofun (fun h => h rfl))⟩
  format e hs h := ⟨counted_worked.format e hs h.1, fun _ => h.2 (.inl hs)⟩
  create q now e hb hs h := ⟨counted_worked.create q now e hb hs h.1, (target_within e q now _).listsWork h.2 rfl (fun w k => target_lists k (h.1.2 w).1 q now hb)⟩
  listen b e h := ⟨counted_worked.listen b e h.1, (modHold_within e b _).listsKept h.2 rfl⟩
  accept r x j e h1 h2 h := ⟨counted_worked.accept r x j e h1 h2 h.1, (acceptJob_within e j).listsKept h.2 rfl⟩
  cancel n e h := ⟨counted_worked.cancel n e h.1, (modDle_within e _).listsKept h.2 rfl⟩
  clear l e h := ⟨counted_worked.clear l e h.1, (clearList_within e l).listsKept h.2 rfl⟩
  add l m e h1 h2 h3 h := ⟨counted_worked.add l m e h1 h2 h3 h.1, (addMember_within e l m).listsKept h.2 rfl⟩
  cls k c e h := ⟨counted_worked.cls k c e h.1, (put_within e (.cls k c)).listsKept h.2 rfl⟩
  settings x e h := ⟨counted_worked.settings x e h.1, (put_within e (.settings x)).listsKept h.2 rfl⟩
  fields m f e h := ⟨counted_worked.fields m f e h.1, (put_within e (.boxFields m f)).listsWork h.2 rfl (fun _ k => putBoxFields_lists k m f)⟩
  mark now r mk e h := ⟨counted_worked.mark now r mk e h.1, (markRecord_within e now r mk).listsWork h.2 rfl (fun _ k => markRecord_lists k now r mk)⟩
  slot m g e h := ⟨counted_worked.slot m g e h.1, (emptySlot_within e m g).listsKept h.2 rfl⟩
  quietly r e h := ⟨counted_worked.quietly r e h.1, (freeRecordQuietly_within e r).listsWork h.2 rfl (fun _ k => freeRecordQuietly_lists k r)⟩

end Sys2Proof.Machine

namespace Sys2Proof.Machine

/-! Proofs about section 4.6: the mailbox lists as the store check repairs them (R139). -/

/-! ## One mailbox's list under repair -/

/-- From e to g only the links and the ends of one mailbox's list have changed, and its records still name it. -/
structure Engine.Relinks (m : Nat) (e g : Engine) : Prop where
  links : ∀ n, n ≠ m → ∀ q, g.linksIn n q = e.linksIn n q
  ends : ∀ n, n ≠ m → g.endsOf n = e.endsOf n
  names : ∀ q, g.linksIn m q ≠ none ↔ e.linksIn m q ≠ none
  loaded : g.endsOf m ≠ none ↔ e.endsOf m ≠ none

namespace Engine.Relinks
variable {m : Nat} {a b c : Engine}

theorem refl (m : Nat) (a : Engine) : Relinks m a a := ⟨fun _ _ _ => rfl, fun _ _ => rfl, fun _ => Iff.rfl, Iff.rfl⟩

theorem trans (h : Relinks m a b) (k : Relinks m b c) : Relinks m a c :=
  ⟨fun n hn q => (k.links n hn q).trans (h.links n hn q), fun n hn => (k.ends n hn).trans (h.ends n hn), fun q => (k.names q).trans (h.names q),
    k.loaded.trans h.loaded⟩

/-- The entry of a record that names the mailbox has its links changed. -/
theorem of_record {r : Nat} (hr : a.linksIn m r ≠ none) {f g : Option Nat → Option Nat}
    (hself : b.record r = (a.record r).map (fun y => { y with prev := f y.prev, next := g y.next }))
    (hothers : ∀ q, q ≠ r → b.record q = a.record q) (hbox : b.tab.mailboxes = a.tab.mailboxes) : Relinks m a b := by
  have hsame : ∀ n q, q ≠ r → b.linksIn n q = a.linksIn n q := fun n q hq => by rw [linksIn, hothers q hq, linksIn]
  have hmap := fun n => linksIn_map hself n
  refine ⟨fun n hn q => ?_, fun n _ => endsOf_congr hbox n, fun q => ?_, by rw [endsOf_congr hbox m]⟩
  · by_cases hq : q = r
    · rw [hq, hmap, linksIn_apart hn hr]
      rfl
    · exact hsame n q hq
  · by_cases hq : q = r
    · rw [hq, hmap]
      simp
    · rw [hsame m q hq]

end Engine.Relinks

/-! ## The walk of a list (R139) -/

/-- What a walk has kept of a mailbox's list: records of the mailbox, each once, each the next of the one before, and where the walk stands. -/
structure Engine.Walked (e : Engine) (m : Nat) (start : Option Nat) (kept : List Nat) (cur : Option Nat) : Prop where
  nodup : kept.Nodup
  first : kept.head?.or cur = start
  next : ∀ q ∈ kept, ∃ y ab, e.record q = some y ∧ y.mailbox = m ∧ linkOf none kept q = some ab ∧ y.next = if kept.getLast? = some q then cur else ab.2

theorem walked_nil (e : Engine) (m : Nat) (start : Option Nat) : e.Walked m start [] start := ⟨List.nodup_nil, rfl, fun _ h => nomatch h⟩

theorem Engine.Walked.snoc {e : Engine} {m : Nat} {start : Option Nat} {kept : List Nat} {r : Nat} (h : e.Walked m start kept (some r)) (hr : r ∉ kept)
    {y : Record} (hy : e.record r = some y) (hm : y.mailbox = m) : e.Walked m start (kept ++ [r]) y.next := by
  refine ⟨List.nodup_append.2 ⟨h.nodup, List.nodup_singleton r, fun a ha b hb hab => hr (List.mem_singleton.1 hb ▸ hab ▸ ha)⟩, ?_, fun q hq => ?_⟩
  · rw [← h.first]
    cases kept <;> rfl
  · rw [linkOf_snoc h.nodup hr, List.getLast?_concat]
    by_cases hqr : q = r
    · subst hqr
      exact ⟨y, _, hy, hm, if_pos rfl, (if_pos rfl).symm⟩
    · obtain ⟨z, ab, hz, hzm, hab, hnext⟩ := h.next q ((List.mem_append.1 hq).resolve_right (fun hc => hqr (List.mem_singleton.1 hc)))
      have hne : (some r : Option Nat) ≠ some q := fun hc => hqr (Option.some.inj hc).symm
      exact ⟨z, _, hz, hzm, by rw [if_neg hqr, hab, Option.map_some], by rw [if_neg hne, hnext]⟩

theorem keptRecords_walked {e : Engine} {m : Nat} {start : Option Nat} : ∀ (n : Nat) (cur : Option Nat) {kept : List Nat}, e.Walked m start kept cur →
    ∃ c, e.Walked m start (e.keptRecords m n cur kept) c
  | 0, cur, _, h => ⟨cur, h⟩
  | _ + 1, none, _, h => ⟨none, h⟩
  | n + 1, some r, kept, h => by
    unfold Engine.keptRecords
    cases hr : e.record r with
    | none => exact ⟨some r, h⟩
    | some x =>
      dsimp only
      by_cases hstop : (decide (x.mailbox ≠ m) || kept.contains r) = true
      · rw [if_pos hstop]
        exact ⟨some r, h⟩
      · rw [if_neg hstop]
        simp only [ne_eq, decide_not, Bool.or_eq_true, Bool.not_eq_true', decide_eq_false_iff_not, List.contains_iff_mem, not_or, not_not] at hstop
        exact keptRecords_walked n x.next (h.snoc hstop.2 hr hstop.1)

/-! ## The list cut to its walk -/

theorem fitPrev_record (r : Nat) (p : Option Nat) (e : Engine) (q : Nat) :
    (e.fitPrev r p).record q = if q = r then (e.record q).map (fun y => { y with prev := p }) else e.record q := by
  unfold Engine.fitPrev
  split
  · next h =>
    by_cases hq : q = r
    · subst hq
      rw [if_pos rfl]
      cases hr : e.record q with
      | none => rfl
      | some y =>
        rw [hr, Option.all_some, decide_eq_true_eq] at h
        subst h
        rfl
    · rw [if_neg hq]
  · exact record_putRecordPrev e r p q

theorem fitNext_record (r : Nat) (n : Option Nat) (e : Engine) (q : Nat) :
    (e.fitNext r n).record q = if q = r then (e.record q).map (fun y => { y with next := n }) else e.record q := by
  unfold Engine.fitNext
  split
  · next h =>
    by_cases hq : q = r
    · subst hq
      rw [if_pos rfl]
      cases hr : e.record q with
      | none => rfl
      | some y =>
        rw [hr, Option.all_some, decide_eq_true_eq] at h
        subst h
        rfl
    · rw [if_neg hq]
  · exact record_putRecordNext e r n q

theorem fitPrev_mailboxes (r : Nat) (p : Option Nat) (e : Engine) : (e.fitPrev r p).tab.mailboxes = e.tab.mailboxes := by
  unfold Engine.fitPrev
  split
  · rfl
  · exact (put_within e (.recordPrev r p)).keeps .mailboxes rfl

theorem fitNext_mailboxes (r : Nat) (p : Option Nat) (e : Engine) : (e.fitNext r p).tab.mailboxes = e.tab.mailboxes := by
  unfold Engine.fitNext
  split
  · rfl
  · exact (put_within e (.recordNext r p)).keeps .mailboxes rfl

theorem fitPrev_relinks {m r : Nat} (p : Option Nat) {e : Engine} (hr : e.linksIn m r ≠ none) : e.Relinks m (e.fitPrev r p) :=
  .of_record hr (f := fun _ => p) (g := id) (by rw [fitPrev_record, if_pos rfl]; rfl) (fun q hq => by rw [fitPrev_record, if_neg hq]) (fitPrev_mailboxes r p e)

theorem fitNext_relinks {m r : Nat} (p : Option Nat) {e : Engine} (hr : e.linksIn m r ≠ none) : e.Relinks m (e.fitNext r p) :=
  .of_record hr (f := id) (g := fun _ => p) (by rw [fitNext_record, if_pos rfl]; rfl) (fun q hq => by rw [fitNext_record, if_neg hq]) (fitNext_mailboxes r p e)

theorem fitPrevs_relinks {m : Nat} : ∀ (rs : List Nat) (p : Option Nat) {e : Engine}, (∀ q ∈ rs, e.linksIn m q ≠ none) → e.Relinks m (e.fitPrevs p rs)
  | [], _, _, _ => .refl _ _
  | r :: rs, p, e, h => by
    have h1 := fitPrev_relinks p (h r List.mem_cons_self)
    exact h1.trans (fitPrevs_relinks rs (some r) (fun q hq => (h1.names q).2 (h q (List.mem_cons_of_mem _ hq))))

theorem fitPrevs_record : ∀ {rs : List Nat} (p : Option Nat) (e : Engine), rs.Nodup → ∀ q, (e.fitPrevs p rs).record q =
    ((linkOf p rs q).map (fun ab => (e.record q).map (fun y => { y with prev := ab.1 }))).getD (e.record q)
  | [], _, _, _, _ => rfl
  | r :: rs, p, e, hn, q => by
    obtain ⟨hr, hn⟩ := List.nodup_cons.1 hn
    rw [Engine.fitPrevs, fitPrevs_record (some r) _ hn, fitPrev_record, linkOf]
    by_cases hq : q = r
    · rw [if_pos hq, if_pos hq, hq, linkOf_notMem hr]
      rfl
    · rw [if_neg hq, if_neg hq]

/-- The ends of a list set from what its walk has kept. -/
theorem fitEnds_endsOf {m : Nat} {kept : List Nat} {e : Engine} {hd tl : Option Nat} (h : e.endsOf m = some (hd, tl)) (hhead : kept ≠ [] → hd = kept.head?) (n : Nat) :
    (e.fitEnds m kept).endsOf n = if n = m then some (kept.head?, kept.getLast?) else e.endsOf n := by
  unfold Engine.fitEnds
  unfold Engine.endsOf at h
  cases hb : e.mailbox m with
  | none =>
    rw [hb] at h
    exact nomatch h
  | some b =>
    rw [hb] at h
    obtain ⟨hbh, hbt⟩ := Prod.mk.inj (Option.some.inj h)
    dsimp only
    have hfirst : ∀ n, (if (decide (kept = []) && b.head.isSome) = true then e.put (.boxHead m none) else e).mailbox n =
        if n = m then some { b with head := kept.head? } else e.mailbox n := fun n => by
      by_cases hk : kept = []
      · subst hk
        cases hbs : b.head with
        | none =>
          rw [if_neg (by simp)]
          by_cases hn : n = m
          · rw [if_pos hn, hn, hb, List.head?_nil, ← hbs]
          · rw [if_neg hn]
        | some a =>
          rw [if_pos (by simp), mailbox_putBoxHead]
          by_cases hn : n = m
          · rw [if_pos hn, if_pos hn, hn, hb]
            rfl
          · rw [if_neg hn, if_neg hn]
      · rw [if_neg (by simp [hk])]
        by_cases hn : n = m
        · rw [if_pos hn, hn, hb, ← hhead hk, ← hbh]
        · rw [if_neg hn]
    generalize (if (decide (kept = []) && b.head.isSome) = true then e.put (.boxHead m none) else e) = g at hfirst
    unfold Engine.endsOf
    by_cases htail : b.tail = kept.getLast?
    · rw [if_pos htail, hfirst]
      by_cases hn : n = m
      · rw [if_pos hn, if_pos hn, Option.map_some, htail]
      · rw [if_neg hn, if_neg hn]
    · rw [if_neg htail, mailbox_putBoxTail, hfirst]
      by_cases hn : n = m
      · rw [if_pos hn, if_pos hn, if_pos hn]
        rfl
      · rw [if_neg hn, if_neg hn, if_neg hn]

theorem fitEnds_records (m : Nat) (kept : List Nat) (e : Engine) : (e.fitEnds m kept).tab.records = e.tab.records := by
  have hhead : ∀ (g : Engine) v, (g.put (.boxHead m v)).tab.records = g.tab.records := fun g v => (put_within g (.boxHead m v)).keeps .records rfl
  have htail : ∀ (g : Engine) v, (g.put (.boxTail m v)).tab.records = g.tab.records := fun g v => (put_within g (.boxTail m v)).keeps .records rfl
  unfold Engine.fitEnds
  split
  · rfl
  · dsimp only
    split
    · split
      · exact hhead _ _
      · rfl
    · rw [htail]
      split
      · exact hhead _ _
      · rfl

/-- The next of the last record kept is written absent. -/
def Engine.fitLast (kept : List Nat) (e : Engine) : Engine :=
  match kept.getLast? with
  | none => e
  | some r => e.fitNext r none

theorem fitBox_eq (m : Nat) (kept : List Nat) (e : Engine) : e.fitBox m kept = ((e.fitPrevs none kept).fitLast kept).fitEnds m kept := rfl

theorem fitLast_record (kept : List Nat) (e : Engine) (q : Nat) :
    (e.fitLast kept).record q = (e.record q).map (fun y => { y with next := if kept.getLast? = some q then none else y.next }) := by
  unfold Engine.fitLast
  split
  · next h =>
    rw [h]
    cases e.record q <;> simp
  · next r h =>
    rw [fitNext_record, h]
    by_cases hq : q = r
    · rw [if_pos hq, hq]
      simp
    · have hne : ¬ r = q := fun hc => hq hc.symm
      rw [if_neg hq]
      cases e.record q <;> simp [hne]

/-- A mailbox's list cut to what its walk keeps is linked (R139). -/
theorem fitBox_chained {e : Engine} {m : Nat} {hd tl cur : Option Nat} {kept : List Nat} (hends : e.endsOf m = some (hd, tl)) (h : e.Walked m hd kept cur) :
    (e.fitBox m kept).Chained m kept ∧ e.Relinks m (e.fitBox m kept) := by
  have hnames : ∀ q ∈ kept, e.linksIn m q ≠ none := fun q hq => by
    obtain ⟨y, -, hy, hm, -⟩ := h.next q hq
    exact linksIn_ne_none.2 ⟨y, hy, hm⟩
  have h1 := fitPrevs_relinks kept none hnames
  have h2 : e.Relinks m ((e.fitPrevs none kept).fitLast kept) := by
    refine h1.trans ?_
    unfold Engine.fitLast
    split
    · exact .refl _ _
    · next r hr => exact fitNext_relinks none ((h1.names r).2 (hnames r (List.mem_of_getLast? hr)))
  have hmailboxes : ((e.fitPrevs none kept).fitLast kept).tab.mailboxes = e.tab.mailboxes := by
    have hprevs : ∀ (rs : List Nat) (p : Option Nat) (g : Engine), (g.fitPrevs p rs).tab.mailboxes = g.tab.mailboxes := by
      intro rs
      induction rs with
      | nil => exact fun _ _ => rfl
      | cons r rs ih => exact fun p g => (ih _ _).trans (fitPrev_mailboxes r p g)
    unfold Engine.fitLast
    split
    · exact hprevs _ _ _
    · exact (fitNext_mailboxes _ _ _).trans (hprevs _ _ _)
  have hends' := fitEnds_endsOf (e := (e.fitPrevs none kept).fitLast kept) (kept := kept) (by rw [endsOf_congr hmailboxes]; exact hends) (fun hk => by
    rw [← h.first]
    cases kept with
    | nil => exact absurd rfl hk
    | cons r rs => rfl)
  have hlinks := fun n q => linksIn_congr (fitEnds_records m kept ((e.fitPrevs none kept).fitLast kept)) n q
  rw [fitBox_eq]
  refine ⟨⟨h.nodup, fun q hq => ?_, (hends' m).trans (if_pos rfl)⟩, ?_⟩
  · obtain ⟨y, ab, hy, hm, hab, hnext⟩ := h.next q hq
    rw [hlinks, hab]
    refine linksIn_some.2 ⟨{ y with prev := ab.1, next := if kept.getLast? = some q then none else y.next }, ?_, hm, Prod.ext rfl ?_⟩
    · rw [fitLast_record, fitPrevs_record none e h.nodup, hab, hy]
      rfl
    · by_cases hlast : kept.getLast? = some q
      · obtain ⟨before, rfl⟩ := List.getLast?_eq_some_iff.1 hlast
        have hnot : q ∉ before := fun hc => (List.nodup_append.1 h.nodup).2.2 q hc q (List.mem_singleton.2 rfl) rfl
        rw [linkOf_between hnot] at hab
        rw [← Option.some.inj hab]
        exact if_pos hlast
      · rw [if_neg hlast] at hnext
        exact (if_neg hlast).trans hnext
  · refine h2.trans ⟨fun n _ q => hlinks n q, fun n hn => (hends' n).trans (if_neg hn), fun q => by rw [hlinks], ?_⟩
    rw [hends', if_pos rfl, endsOf_congr hmailboxes, hends]
    exact ⟨fun _ => nofun, fun _ => nofun⟩

end Sys2Proof.Machine

namespace Sys2Proof.Machine

/-! Proofs about section 4.6: the records that no list reaches, appended again (R139), and the lists through every step. -/

/-! ## Records appended again -/

section Again
variable {e : Engine} {m : Nat} {rs : List Nat} {r : Nat}

/-- A record that names the mailbox and stands behind no other joins its list as the last. -/
theorem appendAgain_chained (h : e.Chained m rs) (hr : r ∉ rs) (hm : e.linksIn m r ≠ none) : (e.appendAgain r).Chained m (rs ++ [r]) ∧
    e.Relinks m (e.appendAgain r) := by
  obtain ⟨x, hx, rfl⟩ := linksIn_ne_none.1 hm
  have heq : e.appendAgain r = e.appendRecord r x := by
    unfold Engine.appendAgain
    rw [hx]
  rw [heq]
  obtain ⟨hchained, hothers⟩ := appendRecord_chained h hr
  have htail : (e.mailbox x.mailbox).bind (·.tail) = rs.getLast? := by rw [tail_endsOf, h.2.2, Option.bind_some]
  have helse := fun n (hn : n ≠ x.mailbox) => appendRecord_elsewhere (e := e) (r := r) (x := x) hn (fun q hq => by
    have hmem : q ∈ rs := List.mem_of_getLast? (htail.symm.trans hq)
    exact ⟨linksIn_apart hn (by rw [h.2.1 q hmem]; exact linkOf_mem hmem), fun hc => hr (hc ▸ hmem)⟩) (linksIn_apart hn hm)
  refine ⟨hchained, fun n hn => (helse n hn).1, fun n hn => (helse n hn).2, fun q => ?_, ?_⟩
  · by_cases hq : q ∈ rs ++ [r]
    · refine ⟨fun _ => ?_, fun _ => by rw [hchained.2.1 q hq]; exact linkOf_mem hq⟩
      rcases List.mem_append.1 hq with hq | hq
      · rw [h.2.1 q hq]
        exact linkOf_mem hq
      · exact List.mem_singleton.1 hq ▸ hm
    · obtain ⟨hqs, hqr⟩ := not_or.1 (mt List.mem_append.2 hq)
      rw [hothers q (fun hc => hqr (List.mem_singleton.2 hc)) hqs]
  · rw [hchained.2.2, h.2.2]
    exact ⟨fun _ => nofun, fun _ => nofun⟩

theorem appendAgains_chained : ∀ {us rs : List Nat} {e : Engine}, e.Chained m rs → (rs ++ us).Nodup → (∀ u ∈ us, e.linksIn m u ≠ none) →
    (us.foldl (fun e r => e.appendAgain r) e).Chained m (rs ++ us) ∧ e.Relinks m (us.foldl (fun e r => e.appendAgain r) e)
  | [], rs, e, h, _, _ => by
    rw [List.append_nil]
    exact ⟨h, .refl _ _⟩
  | u :: us, rs, e, h, hn, hus => by
    have hu : u ∉ rs := fun hc => (List.nodup_append.1 hn).2.2 u hc u List.mem_cons_self rfl
    obtain ⟨hchained, hrelinks⟩ := appendAgain_chained h hu (hus u List.mem_cons_self)
    rw [← List.singleton_append, ← List.append_assoc] at hn
    obtain ⟨hall, hrest⟩ := appendAgains_chained hchained hn (fun v hv => (hrelinks.names v).2 (hus v (List.mem_cons_of_mem _ hv)))
    rw [List.append_assoc] at hall
    exact ⟨hall, hrelinks.trans hrest⟩

end Again

/-! ## The repair of a mailbox (R139) -/

theorem mem_unreached {e : Engine} (hrise : e.recordsRise) {m r : Nat} {kept : List Nat} : r ∈ e.unreached m kept ↔ e.linksIn m r ≠ none ∧ r ∉ kept := by
  unfold Engine.unreached
  rw [linksIn_ne_none]
  simp only [List.mem_map, List.mem_filter, Bool.and_eq_true, decide_eq_true_eq, Bool.not_eq_true', List.contains_eq_mem, decide_eq_false_iff_not]
  constructor
  · rintro ⟨⟨n, y⟩, ⟨hmem, hy, hnot⟩, rfl⟩
    exact ⟨⟨y, Tab.find?_of_mem hrise _ hmem, hy⟩, hnot⟩
  · rintro ⟨⟨y, hy, hm⟩, hnot⟩
    exact ⟨(r, y), ⟨Tab.mem_of_find? hy, hm, hnot⟩, rfl⟩

theorem nodup_unreached {e : Engine} (hrise : e.recordsRise) (m : Nat) (kept : List Nat) : (e.unreached m kept).Nodup :=
  Tab.keys_nodup (risingFrom_filter _ none _ hrise)

/-- A repair makes a loaded mailbox's records its list, and touches no other. -/
theorem repairBox_list {e : Engine} (hrise : e.recordsRise) {m : Nat} (hb : e.endsOf m ≠ none) : (∃ rs, (e.repairBox m).HasList m rs) ∧
    e.Relinks m (e.repairBox m) := by
  obtain ⟨⟨hd, tl⟩, hends⟩ := Option.ne_none_iff_exists'.1 hb
  have hhead : (e.mailbox m).bind (·.head) = hd := by
    unfold Engine.endsOf at hends
    cases hm : e.mailbox m with
    | none =>
      rw [hm] at hends
      exact nomatch hends
    | some b =>
      rw [hm] at hends
      exact (Prod.mk.inj (Option.some.inj hends)).1
  obtain ⟨cur, hwalk⟩ := keptRecords_walked e.tab.records.length hd (walked_nil e m hd)
  unfold Engine.repairBox
  dsimp only
  rw [hhead]
  generalize e.keptRecords m e.tab.records.length hd [] = kept at hwalk
  obtain ⟨hchained, hfit⟩ := fitBox_chained hends hwalk
  have hmem := fun r => mem_unreached hrise (m := m) (r := r) (kept := kept)
  have hn : (kept ++ e.unreached m kept).Nodup :=
    List.nodup_append.2 ⟨hwalk.nodup, nodup_unreached hrise m kept, fun a ha b hb hab => ((hmem b).1 hb).2 (hab ▸ ha)⟩
  obtain ⟨hall, hagain⟩ := appendAgains_chained hchained hn (fun u hu => (hfit.names u).2 ((hmem u).1 hu).1)
  have hrelinks := hfit.trans hagain
  refine ⟨⟨_, hall, fun q hq => not_not.1 (fun hc => hq ?_)⟩, hrelinks⟩
  have hnames := (hrelinks.names q).1 hc
  by_cases hk : q ∈ kept
  · exact List.mem_append_left _ hk
  · exact List.mem_append_right _ ((hmem q).2 ⟨hnames, hk⟩)

/-- Every record names a loaded mailbox. -/
def Engine.boxed (e : Engine) : Prop := ∀ m r, e.linksIn m r ≠ none → e.endsOf m ≠ none

theorem Engine.Relinks.boxed {m : Nat} {e g : Engine} (h : e.Relinks m g) (k : e.boxed) : g.boxed := fun n r hr => by
  by_cases hn : n = m
  · subst hn
    exact h.loaded.2 (k n r ((h.names r).1 hr))
  · rw [h.ends n hn]
    rw [h.links n hn] at hr
    exact k n r hr

theorem Engine.Relinks.listTrue {m n : Nat} {e g : Engine} (h : e.Relinks m g) (hn : n ≠ m) (k : e.ListTrue n) : g.ListTrue n :=
  listTrue_congr (h.links n hn) (h.ends n hn) k

/-- The repair of the loaded mailboxes makes every list true. -/
theorem repairBoxes_lists : ∀ (ms done : List Nat) {e : Engine}, e.recordsRise → e.boxed → (∀ m ∈ ms, e.endsOf m ≠ none) → (∀ n, e.endsOf n ≠ none → n ∈ done ∨ n ∈ ms) →
    (∀ n ∈ done, e.ListTrue n) → (ms.foldl (fun e m => e.repairBox m) e).ListsTrue
  | [], done, e, _, hbox, _, hall, hdone => fun n => by
    by_cases hn : e.endsOf n = none
    · exact .inr ⟨hn, fun r => not_not.1 (fun hc => hbox n r hc hn)⟩
    · exact hdone n ((hall n hn).resolve_right nofun)
  | m :: ms, done, e, hrise, hbox, hms, hall, hdone => by
    obtain ⟨hlist, hrelinks⟩ := repairBox_list hrise (hms m List.mem_cons_self)
    have hends : ∀ n, (e.repairBox m).endsOf n ≠ none ↔ e.endsOf n ≠ none := fun n => by
      by_cases hn : n = m
      · rw [hn]
        exact hrelinks.loaded
      · rw [hrelinks.ends n hn]
    refine repairBoxes_lists ms (m :: done) (repairBox_kept put_recordsRise m hrise) (hrelinks.boxed hbox)
      (fun n hn => (hends n).2 (hms n (List.mem_cons_of_mem _ hn))) (fun n hn => ?_) (fun n hn => ?_)
    · rcases hall n ((hends n).1 hn) with h | h
      · exact .inl (List.mem_cons_of_mem _ h)
      · exact (List.mem_cons.1 h).imp (fun hn => List.mem_cons.2 (.inl hn)) id
    · by_cases hnm : n = m
      · subst hnm
        exact .inl hlist
      · exact hrelinks.listTrue hnm (hdone n ((List.mem_cons.1 hn).resolve_left hnm))

/-! ## The check and the reset -/

theorem mem_loadedBoxes {e : Engine} {m : Nat} : m ∈ e.loadedBoxes ↔ e.endsOf m ≠ none := by
  rw [endsOf_ne_none, Engine.mailbox, ne_eq, Tab.find?_eq_none_iff, not_not]
  rfl

theorem Engine.boxed.within {e g : Engine} {ps : List Part} (h : e.boxed) (k : Engine.Within ps e g) (hps : partsApart [.records, .mailboxes] ps = true) :
    g.boxed := fun m r hr => by
  rw [linksIn_congr (k.same State.reset .records (not_mem_of_partsApart hps (by simp)))] at hr
  rw [endsOf_congr (k.same State.reset .mailboxes (not_mem_of_partsApart hps (by simp)))]
  exact h m r hr

theorem ListsTrue.boxed {e : Engine} (h : e.ListsTrue) : e.boxed := fun m r hr hc => by
  rcases h m with ⟨rs, ⟨-, -, hends⟩, -⟩ | ⟨-, hnone⟩
  · exact nomatch hc.symm.trans hends
  · exact hr (hnone r)

/-- The writes that leave every record with a loaded mailbox: all but those of a record in use. -/
def CatWrite.keepsBoxes : CatWrite → Bool
  | .record _ v => v.isNone
  | .boxFields _ _ => false
  | .recordPrev _ _ => false
  | .recordNext _ _ => false
  | _ => true

theorem put_boxed {w : CatWrite} (hw : w.keepsBoxes = true) {e : Engine} (h : e.boxed) : (e.put w).boxed := by
  cases w
  case record r v =>
    cases v with
    | some y => exact nomatch hw
    | none =>
      intro m q hq
      rw [endsOf_congr ((put_within e (.record r none)).keeps .mailboxes rfl)]
      refine h m q (fun hc => hq ?_)
      unfold Engine.linksIn at hc ⊢
      rw [record_putRecord]
      split
      · rfl
      · exact hc
  case blank => exact fun m q hq => absurd rfl hq
  case boxHead k v =>
    intro m q hq
    rw [linksIn_congr ((put_within e (.boxHead k v)).keeps .records rfl)] at hq
    have hm := endsOf_ne_none.1 (h m q hq)
    refine endsOf_ne_none.2 ?_
    rw [mailbox_putBoxHead]
    split
    · simpa using hm
    · exact hm
  case boxTail k v =>
    intro m q hq
    rw [linksIn_congr ((put_within e (.boxTail k v)).keeps .records rfl)] at hq
    have hm := endsOf_ne_none.1 (h m q hq)
    refine endsOf_ne_none.2 ?_
    rw [mailbox_putBoxTail]
    split
    · simpa using hm
    · exact hm
  case boxFields | recordPrev | recordNext => exact nomatch hw
  all_goals exact fun m q hq => h m q hq

theorem fitMap_boxed (c : Nat) {e : Engine} (h : e.boxed) : (e.fitMap c).boxed := by
  unfold Engine.fitMap
  split
  · exact put_boxed rfl (put_boxed rfl h)
  · refine ite_kept (put_boxed rfl h) (ite_kept (put_boxed rfl ?_) h)
    have hdirty : ∀ l : List Nat, (l.foldl (fun e i => e.putDirty i) (e.put (.cutMap (c * Config.deviceSegments)))).boxed := fun l =>
      foldl_kept (P := Engine.boxed) (fun _ _ h => put_boxed rfl h) l (put_boxed rfl h)
    refine foldl_kept (P := Engine.boxed) (fun _ _ h => put_boxed rfl h) _ (foldl_kept (P := Engine.boxed) (fun _ _ h => put_boxed rfl h) _ ?_)
    exact foldl_kept (P := Engine.boxed) (fun _ _ h => put_boxed rfl (put_boxed rfl h)) _
      (foldl_kept (P := Engine.boxed) (fun _ _ h => put_boxed rfl h) _ (hdirty _))

theorem changeRecord_rise {e : Engine} (h : e.recordsRise) (r : Nat) (x y : Record) : (e.changeRecord r x y).recordsRise := by
  unfold Engine.changeRecord
  refine ite_kept h (ite_kept (put_recordsRise _ _ h) ?_)
  exact (((modCounter_within (e.put (.record r (some y))) x.mailbox _).mono (qs := [.counters, .lmp]) rfl).step (handInputs_within _ _) rfl).recordsRise rfl
    (put_recordsRise _ _ h)

theorem recordSealed_rise {e : Engine} (h : e.recordsRise) (r : Nat) (c : Bool) : (e.recordSealed r c).recordsRise := by
  unfold Engine.recordSealed
  split
  · exact h
  · exact changeRecord_rise h _ _ _

theorem detachRecord_rise {e : Engine} (h : e.recordsRise) (r : Nat) (x : Record) : (e.detachRecord r x).recordsRise :=
  Engine.Within.recordsRise (e := e.unlinkRecord r x) (ps := [.counters, .sessions])
    ((((modCounter_within _ _ _).mono rfl).step (charge_within _ _ _) rfl).step (clearTargets_within _ _) rfl) rfl (unlinkRecord_rise r x h)

theorem reconcile_lists {e : Engine} (h : e.recordsRise ∧ e.ListsTrue) (b : Nat) : (e.reconcile b).recordsRise ∧ (e.reconcile b).ListsTrue := by
  obtain ⟨hrise, hlists⟩ := h
  unfold Engine.reconcile
  split
  · next x r y hb hr =>
    obtain ⟨hy, -, -⟩ := recordingOf_record hrise hr
    refine ite_kept (P := fun g => g.recordsRise ∧ g.ListsTrue) ⟨recordSealed_rise hrise r false, recordSealed_lists hlists r false⟩
      (ite_kept (P := fun g => g.recordsRise ∧ g.ListsTrue) ⟨?_, ?_⟩ ⟨?_, ?_⟩)
    · exact (modReport_within _ _).recordsRise rfl (recordSealed_rise ((sealBody_within e b 0 _).recordsRise rfl hrise) r true)
    · exact (recordSealed_lists (hlists.within (sealBody_within e b 0 _) rfl) r true).within (modReport_within _ _) rfl
    · exact (((modShare_within _ _ _).mono (qs := [.bodies, .writes, .lmp, .service]) rfl |>.step (handInputs_within _ _) rfl).step
        (modReport_within _ _) rfl).recordsRise rfl (detachRecord_rise hrise r y)
    · exact (((detachRecord_lists hy hlists).within (modShare_within _ _ _) rfl).within (handInputs_within _ _) rfl).within (modReport_within _ _) rfl
  · exact ⟨hrise, hlists⟩

/-- The check makes the lists true, and keeps them to its end. -/
theorem checkSteps_lists_true {e : Engine} (hrise : e.recordsRise) (h : e.boxed) : e.checkSteps.ListsTrue := by
  have hwalk : Engine.Within (.settings :: .lists :: .members :: walkParts) e e.clampSettings.walk.repairLists :=
    (((clampSettings_within e).mono rfl).trans ((walk_within _).mono rfl)).trans ((repairLists_within _).mono rfl)
  have hrepaired : e.repaired.recordsRise ∧ e.repaired.ListsTrue := by
    have hlate := fun g : Engine => ((openExtents_within g).mono (qs := [.holds, .counters]) rfl).step (recount_within _) rfl
    have hboxes := repairBoxes_lists e.clampSettings.walk.repairLists.loadedBoxes [] (hwalk.recordsRise rfl hrise) (h.within hwalk rfl)
      (fun m hm => mem_loadedBoxes.1 hm) (fun n hn => .inr (mem_loadedBoxes.2 hn)) (fun _ hn => nomatch hn)
    refine ⟨(hlate _).recordsRise rfl ?_, hboxes.within (hlate _) rfl⟩
    exact foldl_kept (fun _ m h => repairBox_kept put_recordsRise m h) _ (hwalk.recordsRise rfl hrise)
  have hreconciled : e.repaired.reconciled.ListsTrue := by
    unfold Engine.reconciled
    dsimp only
    have h1 := (foldl_kept (P := fun g : Engine => g.recordsRise ∧ g.ListsTrue) (fun _ b h => reconcile_lists h b) e.repaired.bodiesInUse hrepaired).2
    exact foldl_kept (P := Engine.ListsTrue) (fun _ b h => h.within (fitShare_within _ b) rfl) _ (h1.within (clearStagings_within _) rfl)
  rw [checkSteps_eq]
  exact hreconciled.within (released_within _) rfl

theorem closed_boxed {c : Catalogue} (h : c.closed) {e : Engine} (ht : e.tab = c) : e.boxed := fun m r hr => by
  obtain ⟨y, hy, hm⟩ := linksIn_ne_none.1 hr
  obtain ⟨-, -, -, -, hrecords, -⟩ := h
  refine endsOf_ne_none.2 ?_
  rw [← hm, Engine.mailbox, ht]
  exact (hrecords r y (by rw [← ht]; exact hy)).1

theorem storeCheck_lists (cause : StartCause) (x : Selects) {e : Engine} (hclosed : e.cat.closed) (ht : e.tab = e.cat) (hw : ¬ e.walked) :
    (e.storeCheck cause x).walked → (e.storeCheck cause x).ListsTrue := by
  refine storeCheck_runs (P := fun g => g.walked → g.ListsTrue) cause x (fun k => absurd k hw) (fun e1 hwithin _ => ?_)
  obtain ⟨hrise, -⟩ := id hclosed
  have hrise1 : e1.recordsRise := hwithin.recordsRise rfl (show Tab.risingFrom none e.tab.records = true by rw [ht]; exact hrise)
  have hbox : (e1.fitMap (countSelects x)).boxed := fitMap_boxed _ ((closed_boxed hclosed ht).within hwithin rfl)
  have hlists := checkSteps_lists_true (fitMap_kept put_recordsRise (countSelects x) hrise1) hbox
  generalize (e1.fitMap (countSelects x)).checkSteps = g at hlists
  exact hlists.within (checkEnd_within e.lmp g) rfl

/-- Every step but a reset over a catalogue memory that is not closed keeps the lists true. -/
theorem step_listed {s t : State} (hc : s.eng.counted) (h : s.eng.listed) (hsafe : s.safeNext) (hst : step s = .next t) : t.eng.listed := by
  refine (listed_iff _).2 (reset_step lists_worked ⟨hc, (listed_iff _).1 h⟩ ⟨⟨hc.1, ?_⟩, ?_⟩ (fun hnext cause x => ?_) hst).2
  · exact fun hw => absurd hw (fun hw => hw.elim nofun (fun h => h rfl))
  · exact fun hw => absurd hw (fun hw => hw.elim nofun (fun h => h rfl))
  · obtain ⟨c, hcmd, hr⟩ := hnext
    have hclosed := hsafe c hcmd hr
    exact ⟨storeCheck_counted cause x hc.1 ⟨hc.1, rfl, rfl⟩ (reset_not_walked _ _), storeCheck_lists cause x hclosed rfl (reset_not_walked _ _)⟩

end Sys2Proof.Machine

namespace Sys2Proof.Machine

/-! Proofs about section 5: the share counts are the numbers of the holders (R105, R106). -/

/-! ## Tables that read a default -/

theorem find?_set {α : Type} [DecidableEq α] (d : α) (n : Nat) (v : α) (t : Tab α) (m : Nat) :
    Tab.find? (Tab.set d n v t) m = if m = n then (if v = d then none else some v) else Tab.find? t m := by
  unfold Tab.set
  by_cases hv : v = d
  · rw [if_pos hv, Tab.find?_erase, if_pos hv]
  · rw [if_neg hv, Tab.find?_insert, if_neg hv]

theorem risingFrom_setTab {α : Type} [DecidableEq α] (d : α) (n : Nat) (v : α) {t : Tab α} (h : Tab.risingFrom none t = true) :
    Tab.risingFrom none (Tab.set d n v t) = true := by
  unfold Tab.set
  split
  · exact Tab.risingFrom_erase n none t h
  · exact Tab.risingFrom_insert n v none t (by simp) h

/-- An entry that reads as a test's blind spot weighs what it reads as. -/
theorem weight_get {α : Type} {d : α} (q : α → Bool) (hq : q d = false) (t : Tab α) (n : Nat) :
    weight q (Tab.find? t n) = (q (Tab.get d t n)).toNat := by
  unfold weight Tab.get
  cases Tab.find? t n with
  | none => rw [Option.getD_none, hq]; rfl
  | some v => rfl

theorem number_set {α : Type} [DecidableEq α] {d : α} (q : α → Bool) (hq : q d = false) {t : Tab α} (h : Tab.risingFrom none t = true) (n : Nat) (v : α) :
    numberOf q (Tab.set d n v t) + (q (Tab.get d t n)).toNat = numberOf q t + (q v).toNat := by
  have hdiff := count_differs q h (risingFrom_setTab d n v h) n (fun m hm => by rw [find?_set, if_neg hm])
  rw [weight_get q hq, weight_get q hq, Tab.get_set, if_pos rfl] at hdiff
  exact hdiff

/-! ## The holders of a body -/

def heldTest (b : Nat) (x : Slot) : Bool := decide (x.held = some b)

def stagedTest (b : Nat) (x : Slot) : Bool := decide (x.staged = some b)

def bodyTest (b : Nat) (x : Record) : Bool := decide (x.body = b)

theorem sharers_counted (e : Engine) (b : Nat) : e.sharers b =
    numberOf (bodyTest b) e.tab.records + numberOf (heldTest b) e.tab.slots + numberOf (stagedTest b) e.tab.slots := rfl

/-- The tables that name bodies rise. -/
def Engine.namingRise (e : Engine) : Prop :=
  e.recordsRise ∧ Tab.risingFrom none e.tab.slots = true ∧ Tab.risingFrom none e.tab.bodies = true

/-- Every share count is the number of holders and the shares owed, every holder names a body in use, and every job's body is in use with a pin for each
job. -/
structure Engine.SharesOwed (owed : Nat → Nat) (e : Engine) : Prop where
  rise : e.namingRise
  share : ∀ b x, e.body b = some x → x.share = e.sharers b + owed b
  named : ∀ b, 0 < e.sharers b → e.body b ≠ none
  pinned : ∀ j ∈ e.dle.queue, e.body j.body ≠ none ∧ (e.dle.queue.filter (fun i => decide (i.body = j.body))).length ≤ (e.hold j.body).pins

/-- No share is owed. -/
def noneOwed : Nat → Nat := fun _ => 0

/-- One share of a body is owed. -/
def oneOwed (b : Nat) : Nat → Nat := fun c => if c = b then 1 else 0

theorem shared_iff (e : Engine) : e.shared ↔ (e.walked → e.SharesOwed noneOwed) :=
  ⟨fun h w => let ⟨hr, hs, hb, a, c, d⟩ := h w; ⟨⟨hr, hs, hb⟩, a, c, d⟩, fun h w => let ⟨⟨hr, hs, hb⟩, a, c, d⟩ := h w; ⟨hr, hs, hb, a, c, d⟩⟩

section Congr
variable {e g : Engine} {owed : Nat → Nat} (h : e.SharesOwed owed)
include h

/-- Where the holders and the bodies' shares stand, and the jobs with their pins, so do the shares. -/
theorem Engine.SharesOwed.congr (hr : g.namingRise) (hsharers : ∀ b, g.sharers b = e.sharers b)
    (hbody : ∀ b, (g.body b).map (·.share) = (e.body b).map (·.share)) (hqueue : g.dle.queue = e.dle.queue)
    (hpins : ∀ b, (g.hold b).pins = (e.hold b).pins) : g.SharesOwed owed := by
  have hnone : ∀ b, g.body b ≠ none ↔ e.body b ≠ none := fun b => by
    have := hbody b
    cases hg : g.body b <;> cases he : e.body b <;> simp [hg, he] at this ⊢
  refine ⟨hr, fun b x hx => ?_, fun b hb => (hnone b).2 (h.named b (hsharers b ▸ hb)), ?_⟩
  · have hb := hbody b
    rw [hx] at hb
    obtain ⟨y, hy, hxy⟩ := Option.map_eq_some_iff.1 hb.symm
    have hshare : y.share = x.share := hxy
    rw [hsharers, ← h.share b y hy, hshare]
  · rw [hqueue]
    intro j hj
    rw [hpins]
    exact ⟨(hnone _).2 (h.pinned j hj).1, (h.pinned j hj).2⟩

/-- Work elsewhere leaves the shares. -/
theorem Engine.SharesOwed.within {ps : List Part} (k : Engine.Within ps e g) (hps : partsApart [.records, .greetings, .bodies, .dle, .holds] ps = true) :
    g.SharesOwed owed := by
  have hout : ∀ p ∈ [Part.records, .greetings, .bodies, .dle, .holds], p ∉ ps := fun p hp => not_mem_of_partsApart hps hp
  have hrecords : g.tab.records = e.tab.records := k.same State.reset .records (hout _ (by simp))
  have hslots : g.tab.slots = e.tab.slots := k.same State.reset .greetings (hout _ (by simp))
  have hbodies : g.tab.bodies = e.tab.bodies := k.same State.reset .bodies (hout _ (by simp))
  have hdle : g.dle = e.dle := k.same State.reset .dle (hout _ (by simp))
  have hholds : g.holds = e.holds := k.same State.reset .holds (hout _ (by simp))
  obtain ⟨hr, hs, hb⟩ := h.rise
  refine h.congr ⟨?_, by rw [hslots]; exact hs, by rw [hbodies]; exact hb⟩ (fun b => by rw [sharers_counted, hrecords, hslots, sharers_counted])
    (fun b => by rw [Engine.body, hbodies, Engine.body]) (by rw [hdle]) (fun b => by rw [Engine.hold, hholds, Engine.hold])
  rw [Engine.recordsRise, hrecords]
  exact hr

end Congr

/-! ## Bodies written -/

theorem putBody_bodiesRise {e : Engine} {b : Nat} {v : Option Body} (h : Tab.risingFrom none e.tab.bodies = true) :
    Tab.risingFrom none (e.put (.body b v)).tab.bodies = true :=
  (Tab.risingFrom_put h : Tab.risingFrom none (Tab.put b v e.tab.bodies) = true)

/-- The entry of a body in use written with its share as it is. -/
theorem putBody_shares {e : Engine} {owed : Nat → Nat} (h : e.SharesOwed owed) {b : Nat} {x y : Body} (hx : e.body b = some x) (hy : y.share = x.share) :
    (e.put (.body b (some y))).SharesOwed owed := by
  refine h.congr ⟨h.rise.1, h.rise.2.1, putBody_bodiesRise h.rise.2.2⟩ (fun _ => rfl) (fun c => ?_) rfl (fun _ => rfl)
  rw [body_putBody]
  by_cases hc : c = b
  · rw [if_pos hc, hc, hx]
    exact congrArg some hy
  · rw [if_neg hc]

theorem modHold_shares {e : Engine} {owed : Nat → Nat} (h : e.SharesOwed owed) (b : Nat) (f : BodyHold → BodyHold) (hf : ∀ x, (f x).pins = x.pins) :
    (e.modHold b f).SharesOwed owed := by
  refine h.congr h.rise (fun _ => rfl) (fun _ => rfl) rfl (fun c => ?_)
  rw [hold_modHold]
  by_cases hc : c = b
  · rw [if_pos hc, hf, hc]
  · rw [if_neg hc]

/-! ## A share or a pin let go (R105, R106, R108) -/

section Release
variable {e : Engine}

/-- A share that was owed is paid. -/
theorem modShare_pays {b : Nat} (h : e.SharesOwed (oneOwed b)) : (e.modShare b (· - 1)).SharesOwed noneOwed := by
  have hwithin := modShare_within e b (· - 1)
  have hsharers : ∀ c, (e.modShare b (· - 1)).sharers c = e.sharers c := fun c => by
    have hrecords : (e.modShare b (· - 1)).tab.records = e.tab.records := hwithin.keeps .records rfl
    have hslots : (e.modShare b (· - 1)).tab.slots = e.tab.slots := hwithin.keeps .greetings rfl
    rw [sharers_counted, hrecords, hslots, sharers_counted]
  have hnone : ∀ c, (e.modShare b (· - 1)).body c ≠ none ↔ e.body c ≠ none := fun c => by
    rw [body_modShare]
    by_cases hc : c = b
    · rw [if_pos hc, hc]
      simp
    · rw [if_neg hc]
  have hrise : (e.modShare b (· - 1)).namingRise := by
    unfold Engine.modShare
    split
    · exact h.rise
    · exact ⟨h.rise.1, h.rise.2.1, putBody_bodiesRise h.rise.2.2⟩
  have hdle : (e.modShare b (· - 1)).dle = e.dle := hwithin.keeps .dle rfl
  have hhold : ∀ c, (e.modShare b (· - 1)).hold c = e.hold c := fun c => congrArg (fun t => Tab.get BodyHold.zero t c) (hwithin.keeps .holds rfl)
  refine ⟨hrise, fun c x hx => ?_, fun c hc => (hnone c).2 (h.named c (hsharers c ▸ hc)), fun j hj => ?_⟩
  · rw [body_modShare] at hx
    rw [hsharers]
    by_cases hc : c = b
    · rw [if_pos hc] at hx
      obtain ⟨y, hy, rfl⟩ := Option.map_eq_some_iff.1 hx
      have := h.share b y hy
      rw [oneOwed, if_pos rfl] at this
      rw [hc]
      exact Nat.sub_eq_of_eq_add this
    · rw [if_neg hc] at hx
      have := h.share c x hx
      rwa [oneOwed, if_neg hc] at this
  · rw [hdle] at hj ⊢
    rw [hhold]
    exact ⟨(hnone _).2 (h.pinned j hj).1, (h.pinned j hj).2⟩

variable (h : e.SharesOwed noneOwed)
include h

/-- A body that nothing holds has no holder and no job. -/
theorem release_shares {b : Nat} {x : Body} (hx : e.body b = some x) (hs : x.share = 0) (hp : (e.hold b).pins = 0) : (e.release b).SharesOwed noneOwed := by
  have hzero : e.sharers b = 0 := by
    have := h.share b x hx
    rw [hs] at this
    exact (Nat.add_eq_zero_iff.1 this.symm).1
  have hdirty := makeAllDirty_within e (e.chain b)
  have hwithin := release_within e b
  have hbodies : (e.release b).tab.bodies = Tab.put b none e.tab.bodies := by
    show Tab.put b none (e.makeAllDirty (e.chain b)).tab.bodies = _
    rw [show (e.makeAllDirty (e.chain b)).tab.bodies = e.tab.bodies from hdirty.keeps .bodies rfl]
  have hbody : ∀ c, (e.release b).body c = if c = b then none else e.body c := fun c => by
    rw [Engine.body, hbodies, Tab.find?_put]
    rfl
  have hhold : ∀ c, c ≠ b → (e.release b).hold c = e.hold c := fun c hc => by
    refine (hold_modHold ((e.makeAllDirty (e.chain b)).put (.body b none)) b _ c).trans ((if_neg hc).trans ?_)
    exact congrArg (fun t => Tab.get BodyHold.zero t c) (hdirty.keeps .holds rfl)
  have hsharers : ∀ c, (e.release b).sharers c = e.sharers c := fun c => by
    have hrecords : (e.release b).tab.records = e.tab.records := hwithin.keeps .records rfl
    have hslots : (e.release b).tab.slots = e.tab.slots := hwithin.keeps .greetings rfl
    rw [sharers_counted, hrecords, hslots, sharers_counted]
  have hdle : (e.release b).dle = e.dle := hwithin.keeps .dle rfl
  refine ⟨⟨hwithin.recordsRise rfl h.rise.1, ?_, ?_⟩, fun c y hy => ?_, fun c hc => ?_, fun j hj => ?_⟩
  · rw [show (e.release b).tab.slots = e.tab.slots from hwithin.keeps .greetings rfl]
    exact h.rise.2.1
  · rw [hbodies]
    exact Tab.risingFrom_put h.rise.2.2
  · rw [hbody] at hy
    by_cases hc : c = b
    · rw [if_pos hc] at hy
      exact absurd hy nofun
    · rw [if_neg hc] at hy
      rw [hsharers]
      exact h.share c y hy
  · rw [hsharers] at hc
    have hcb : c ≠ b := fun k => by
      rw [k, hzero] at hc
      exact absurd hc (Nat.lt_irrefl 0)
    rw [hbody, if_neg hcb]
    exact h.named c hc
  · rw [hdle] at hj ⊢
    obtain ⟨hin, hle⟩ := h.pinned j hj
    have hjb : j.body ≠ b := fun k => by
      rw [k, hp] at hle
      have hmem : j ∈ e.dle.queue.filter (fun i => decide (i.body = b)) := List.mem_filter.2 ⟨hj, decide_eq_true k⟩
      exact absurd (List.length_pos_of_mem hmem) (Nat.not_lt.2 hle)
    rw [hbody, if_neg hjb, hhold _ hjb]
    exact ⟨hin, hle⟩

theorem releaseIfUnheld_shares (b : Nat) : (e.releaseIfUnheld b).SharesOwed noneOwed := by
  unfold Engine.releaseIfUnheld
  split
  · exact h
  · next x hx =>
    split
    · next hc =>
      simp only [Bool.and_eq_true, decide_eq_true_eq] at hc
      exact release_shares h hx hc.1.1.1 hc.1.1.2
    · exact h

theorem dropReader_shares (b : Nat) : (e.dropReader b).SharesOwed noneOwed := releaseIfUnheld_shares (modHold_shares h b (fun k => { k with readers := k.readers - 1 }) (fun _ => rfl)) b

omit h in
theorem dropShare_shares {b : Nat} (h : e.SharesOwed (oneOwed b)) : (e.dropShare b).SharesOwed noneOwed := releaseIfUnheld_shares (modShare_pays h) b

end Release

end Sys2Proof.Machine

namespace Sys2Proof.Machine

/-! Proofs about section 5: the share counts as holders come and go (R105, R106). -/

/-! ## Holders that come and go -/

section Changes
variable {e g : Engine} {owed owed' up : Nat → Nat}

/-- Holders that change with the shares: what is owed before and what the shares rise by is what is owed after and what the holders fall by. -/
theorem Engine.SharesOwed.changes (h : e.SharesOwed owed) (hr : g.namingRise)
    (hbody : ∀ c, (g.body c).map (·.share) = (e.body c).map (fun x => x.share + up c))
    (hsharers : ∀ c, g.sharers c + owed' c = e.sharers c + up c + owed c) (hnamed : ∀ c, 0 < g.sharers c → 0 < e.sharers c ∨ e.body c ≠ none)
    (hqueue : g.dle.queue = e.dle.queue) (hpins : ∀ c, (g.hold c).pins = (e.hold c).pins) : g.SharesOwed owed' := by
  have hnone : ∀ c, e.body c ≠ none → g.body c ≠ none := fun c hc hg => by
    have := hbody c
    rw [hg] at this
    cases he : e.body c with
    | none => exact hc he
    | some x =>
      rw [he] at this
      exact nomatch this
  refine ⟨hr, fun c y hy => ?_, fun c hc => hnone c ((hnamed c hc).elim (h.named c) id), ?_⟩
  · have hb := hbody c
    rw [hy] at hb
    obtain ⟨x, hx, hxy⟩ := Option.map_eq_some_iff.1 hb.symm
    have hshare : x.share + up c = y.share := hxy
    rw [← hshare, hsharers, h.share c x hx, Nat.add_right_comm]
  · rw [hqueue]
    intro j hj
    rw [hpins]
    exact ⟨hnone _ (h.pinned j hj).1, (h.pinned j hj).2⟩

end Changes

/-! ## Records -/

/-- The body that a record names. -/
def Record.names (b : Nat) (o : Option Record) : Nat := weight (bodyTest b) o

theorem names_some (b : Nat) (x : Record) : Record.names b (some x) = oneOwed x.body b := by
  unfold Record.names weight bodyTest oneOwed
  by_cases hb : x.body = b
  · simp [hb]
  · have hne : ¬ b = x.body := fun hc => hb hc.symm
    simp [hb, hne]

/-- Tables of records that name the same bodies but for one entry. -/
theorem sharers_records {e g : Engine} (he : e.recordsRise) (hg : g.recordsRise) (hslots : g.tab.slots = e.tab.slots) (r : Nat)
    (hothers : ∀ q, q ≠ r → (g.record q).map (·.body) = (e.record q).map (·.body)) (b : Nat) :
    g.sharers b + Record.names b (e.record r) = e.sharers b + Record.names b (g.record r) := by
  have hcount := count_differs (bodyTest b) he hg r (fun n hn => by
    have hany : ∀ o : Option Record, o.any (bodyTest b) = (o.map (·.body)).any (fun c => decide (c = b)) := fun o => by cases o <;> rfl
    have := hothers n hn
    unfold Engine.record at this
    rw [hany, this, ← hany])
  rw [sharers_counted, sharers_counted, hslots]
  unfold Record.names Engine.record
  omega

section Records
variable {e : Engine}

theorem recordsRise_naming {g : Engine} (h : e.namingRise) (hr : g.recordsRise) (hslots : g.tab.slots = e.tab.slots) (hbodies : g.tab.bodies = e.tab.bodies) :
    g.namingRise := ⟨hr, by rw [hslots]; exact h.2.1, by rw [hbodies]; exact h.2.2⟩

/-- Work on the records alone, among the tables of the holders: the shares owed are those of the body that an entry no longer names. -/
theorem records_shares {g : Engine} {owed owed' : Nat → Nat} {ps : List Part} (h : e.SharesOwed owed) (k : Engine.Within ps e g)
    (hps : partsApart [.greetings, .bodies, .dle, .holds] ps = true) (hr : g.recordsRise) (r : Nat)
    (hothers : ∀ q, q ≠ r → (g.record q).map (·.body) = (e.record q).map (·.body))
    (howed : ∀ c, Record.names c (g.record r) + owed' c = Record.names c (e.record r) + owed c)
    (hin : ∀ y, g.record r = some y → e.body y.body ≠ none) : g.SharesOwed owed' := by
  have hout : ∀ p ∈ [Part.greetings, .bodies, .dle, .holds], p ∉ ps := fun p hp => not_mem_of_partsApart hps hp
  have hslots : g.tab.slots = e.tab.slots := k.same State.reset .greetings (hout _ (by simp))
  have hbodies : g.tab.bodies = e.tab.bodies := k.same State.reset .bodies (hout _ (by simp))
  have hdle : g.dle = e.dle := k.same State.reset .dle (hout _ (by simp))
  have hholds : g.holds = e.holds := k.same State.reset .holds (hout _ (by simp))
  have hsharers := sharers_records h.rise.1 hr hslots r hothers
  refine h.changes (up := noneOwed) (recordsRise_naming h.rise hr hslots hbodies) (fun c => by rw [Engine.body, hbodies, Engine.body]; rfl) (fun c => ?_)
    (fun c hc => ?_) (by rw [hdle]) (fun c => by rw [Engine.hold, hholds, Engine.hold])
  · have h1 := hsharers c
    have h2 := howed c
    have h3 : noneOwed c = 0 := rfl
    omega
  · by_cases hz : 0 < e.sharers c
    · exact .inl hz
    · have h1 := hsharers c
      have hpos : 0 < Record.names c (g.record r) := by omega
      cases hg : g.record r with
      | none =>
        rw [hg] at hpos
        exact absurd hpos (Nat.lt_irrefl 0)
      | some y =>
        rw [hg, names_some, oneOwed] at hpos
        by_cases hcy : c = y.body
        · rw [hcy]
          exact .inr (hin y hg)
        · rw [if_neg hcy] at hpos
          exact absurd hpos (Nat.lt_irrefl 0)

variable (h : e.SharesOwed noneOwed)
include h

theorem record_inUse {r : Nat} {x : Record} (hx : e.record r = some x) : e.body x.body ≠ none := by
  refine h.named _ ?_
  have hmem : (r, x) ∈ e.tab.records := Tab.mem_of_find? hx
  have hpos : 0 < numberOf (bodyTest x.body) e.tab.records :=
    List.length_pos_of_mem (List.mem_filter.2 ⟨hmem, decide_eq_true rfl⟩)
  rw [sharers_counted]
  omega

/-- A record rewritten names the body it named. -/
theorem putRecord_shares {r : Nat} {x y : Record} (hx : e.record r = some x) (hy : y.body = x.body) : (e.put (.record r (some y))).SharesOwed noneOwed := by
  refine records_shares h (put_within e (.record r (some y))) rfl (put_recordsRise _ _ h.rise.1) r (fun q hq => by rw [record_putRecord, if_neg hq]) (fun c => ?_)
    (fun z hz => ?_)
  · rw [record_putRecord, if_pos rfl, hx, names_some, names_some, hy]
  · rw [record_putRecord, if_pos rfl] at hz
    rw [← Option.some.inj hz, hy]
    exact record_inUse h hx

theorem changeRecord_shares {r : Nat} {x y : Record} (hx : e.record r = some x) (hy : y.body = x.body) : (e.changeRecord r x y).SharesOwed noneOwed := by
  have h1 := putRecord_shares h hx hy
  unfold Engine.changeRecord
  refine ite_kept h (ite_kept h1 ?_)
  exact h1.within (((modCounter_within (e.put (.record r (some y))) x.mailbox _).mono (qs := [.counters, .lmp]) rfl).step (handInputs_within _ _) rfl) rfl

theorem detachRecord_shares {r : Nat} {x : Record} (hx : e.record r = some x) : (e.detachRecord r x).SharesOwed (oneOwed x.body) := by
  refine records_shares h (detachRecord_within e r x) rfl (detachRecord_rise h.rise.1 r x) r (fun q hq => ?_) (fun c => ?_) (fun z hz => ?_)
  · rw [detachRecord_record, unlinkRecord_record, if_neg hq, Option.map_map]
    rfl
  · rw [detachRecord_record, unlinkRecord_record, if_pos rfl, hx, names_some]
    show 0 + _ = _ + 0
    rw [Nat.zero_add, Nat.add_zero]
  · rw [detachRecord_record, unlinkRecord_record, if_pos rfl] at hz
    exact nomatch hz

theorem freeRecordQuietly_shares (r : Nat) : (e.freeRecordQuietly r).SharesOwed noneOwed := by
  unfold Engine.freeRecordQuietly
  split
  · exact h
  · next x hx => exact dropShare_shares (detachRecord_shares h hx)

theorem freeRecord_shares (r : Nat) : (e.freeRecord r).SharesOwed noneOwed := by
  unfold Engine.freeRecord
  split
  · exact h
  · exact (freeRecordQuietly_shares h r).within (handInputs_within _ _) rfl

theorem recordSealed_shares (r : Nat) (c : Bool) : (e.recordSealed r c).SharesOwed noneOwed := by
  unfold Engine.recordSealed
  split
  · exact h
  · next x hx => exact changeRecord_shares h hx rfl

omit h in
theorem playedToEnd_body (now : Now) (x : Record) : (x.playedToEnd now).body = x.body := by
  unfold Record.playedToEnd
  dsimp only
  split <;> rfl

omit h in
theorem marked_body (now : Now) (mk : Mark) (x : Record) : (x.marked now mk).body = x.body := by
  unfold Record.marked
  split <;> rfl

theorem playTarget_shares (now : Now) (c : Cause) (n : Nat) (x : Session) : (e.playTarget now c n x).SharesOwed noneOwed := by
  unfold Engine.playTarget
  split
  · split
    · exact h
    · next y hy => exact ite_kept (changeRecord_shares h hy (playedToEnd_body now y)) (ite_kept (changeRecord_shares h hy rfl) h)
  · exact h

theorem markRecord_shares (now : Now) (r : Nat) (mk : Mark) : (e.markRecord now r mk).SharesOwed noneOwed := by
  unfold Engine.markRecord
  split
  · exact h
  · next x hx => exact changeRecord_shares h hx (marked_body now mk x)

theorem examineEntry_shares (r day : Nat) : (e.examineEntry r day).1.SharesOwed noneOwed := by
  unfold Engine.examineEntry
  split
  · exact h
  · next x hx =>
    split
    · split
      · exact putRecord_shares h hx rfl
      · split
        · exact freeRecord_shares h r
        · exact h
    · exact h

end Records

/-! ## Greeting slots -/

/-- How many times a slot names a body. -/
def Slot.names (b : Nat) (x : Slot) : Nat := (heldTest b x).toNat + (stagedTest b x).toNat

theorem heldTest_names (b : Nat) (o : Option Nat) (st : Option Nat) : (heldTest b { held := o, staged := st }).toNat = o.elim 0 (fun c => oneOwed c b) := by
  unfold heldTest oneOwed
  cases o with
  | none => rfl
  | some c =>
    by_cases hb : c = b
    · simp [hb]
    · have hne : ¬ b = c := fun hc => hb hc.symm
      simp [hb, hne]

theorem stagedTest_names (b : Nat) (o : Option Nat) (st : Option Nat) : (stagedTest b { held := o, staged := st }).toNat = st.elim 0 (fun c => oneOwed c b) := by
  unfold stagedTest oneOwed
  cases st with
  | none => rfl
  | some c =>
    by_cases hb : c = b
    · simp [hb]
    · have hne : ¬ b = c := fun hc => hb hc.symm
      simp [hb, hne]

theorem slotNames_eq (b : Nat) (x : Slot) : x.names b = x.held.elim 0 (fun c => oneOwed c b) + x.staged.elim 0 (fun c => oneOwed c b) := by
  rw [Slot.names, ← heldTest_names b x.held x.staged, ← stagedTest_names b x.held x.staged]

section Slots
variable {e : Engine} {owed owed' : Nat → Nat}

theorem slotNames_inUse (h : e.namingRise) {m : Nat} {g : GreetingKind} {c : Nat} (hc : 0 < (e.slot m g).names c) : 0 < e.sharers c := by
  have h1 := number_set (heldTest c) (d := Slot.empty) rfl h.2.1 (slotKey m g) Slot.empty
  have h2 := number_set (stagedTest c) (d := Slot.empty) rfl h.2.1 (slotKey m g) Slot.empty
  have h3 : (heldTest c Slot.empty).toNat = 0 := rfl
  have h4 : (stagedTest c Slot.empty).toNat = 0 := rfl
  unfold Slot.names Engine.slot at hc
  rw [sharers_counted]
  omega

/-- A slot written: the shares owed are those of the bodies it no longer names. -/
theorem putSlot_shares (h : e.SharesOwed owed) (m : Nat) (g : GreetingKind) (x : Slot) (howed : ∀ c, x.names c + owed' c = (e.slot m g).names c + owed c)
    (hin : ∀ c, 0 < x.names c → 0 < (e.slot m g).names c ∨ e.body c ≠ none) : (e.putSlot m g x).SharesOwed owed' := by
  have hsharers : ∀ c, (e.putSlot m g x).sharers c + (e.slot m g).names c = e.sharers c + x.names c := fun c => by
    have h1 := number_set (heldTest c) (d := Slot.empty) rfl h.rise.2.1 (slotKey m g) x
    have h2 := number_set (stagedTest c) (d := Slot.empty) rfl h.rise.2.1 (slotKey m g) x
    rw [sharers_counted, sharers_counted]
    show numberOf (bodyTest c) e.tab.records + numberOf (heldTest c) (Tab.set Slot.empty (slotKey m g) x e.tab.slots) +
      numberOf (stagedTest c) (Tab.set Slot.empty (slotKey m g) x e.tab.slots) + _ = _
    unfold Slot.names Engine.slot
    omega
  refine h.changes (up := noneOwed) ⟨h.rise.1, risingFrom_setTab _ _ _ h.rise.2.1, h.rise.2.2⟩ (fun c => rfl) (fun c => ?_) (fun c hc => ?_) rfl (fun _ => rfl)
  · have h1 := hsharers c
    have h2 := howed c
    have h3 : noneOwed c = 0 := rfl
    omega
  · by_cases hz : 0 < e.sharers c
    · exact .inl hz
    · have h1 := hsharers c
      exact (hin c (by omega)).imp (slotNames_inUse h.rise) id

variable (h : e.SharesOwed noneOwed)
include h

theorem abandonGreeting_shares (m : Nat) (g : GreetingKind) : (e.abandonGreeting m g).SharesOwed noneOwed := by
  unfold Engine.abandonGreeting
  dsimp only
  have hslot := fun c => slotNames_eq c (e.slot m g)
  have hnew := fun c => slotNames_eq c { e.slot m g with staged := none }
  cases hst : (e.slot m g).staged with
  | none =>
    refine putSlot_shares h m g _ (fun c => ?_) (fun c hc => .inl ?_)
    · rw [hslot, hnew, hst]
    · rw [hnew] at hc
      rw [hslot, hst]
      exact hc
  | some b =>
    refine dropShare_shares (putSlot_shares h m g _ (fun c => ?_) (fun c hc => .inl ?_))
    · rw [hslot, hnew, hst]
      rfl
    · rw [hnew] at hc
      rw [hslot]
      exact Nat.lt_of_lt_of_le hc (Nat.add_le_add_left (Nat.zero_le _) _)

theorem replaceGreeting_shares (m : Nat) (g : GreetingKind) : (e.replaceGreeting m g).SharesOwed noneOwed := by
  unfold Engine.replaceGreeting
  dsimp only
  have hslot := fun c => slotNames_eq c (e.slot m g)
  have hnew := fun c => slotNames_eq c { held := (e.slot m g).staged, staged := none }
  have hin : ∀ c, 0 < Slot.names c { held := (e.slot m g).staged, staged := none } → 0 < (e.slot m g).names c := fun c hc => by
    rw [hnew] at hc
    rw [hslot]
    exact Nat.lt_of_lt_of_le hc (Nat.le_add_left _ _)
  cases hh : (e.slot m g).held with
  | none =>
    refine putSlot_shares h m g _ (fun c => ?_) (fun c hc => .inl (hin c hc))
    rw [hslot, hnew, hh]
    exact congrArg (· + _) (Nat.add_comm _ _)
  | some b =>
    refine dropShare_shares (putSlot_shares h m g _ (fun c => ?_) (fun c hc => .inl (hin c hc)))
    rw [hslot, hnew, hh]
    exact Nat.add_comm _ _

theorem emptySlot_shares (m : Nat) (g : GreetingKind) : (e.emptySlot m g).SharesOwed noneOwed := by
  unfold Engine.emptySlot
  dsimp only
  have hslot := fun c => slotNames_eq c (e.slot m g)
  have hnew := fun c => slotNames_eq c { e.slot m g with held := none }
  cases hh : (e.slot m g).held with
  | none => exact h
  | some b =>
    refine dropShare_shares (putSlot_shares h m g _ (fun c => ?_) (fun c hc => .inl ?_))
    · rw [hslot, hnew, hh]
      show 0 + _ + oneOwed b c = _
      rw [Nat.zero_add]
      exact Nat.add_comm _ _
    · rw [hnew] at hc
      rw [hslot]
      exact Nat.lt_of_lt_of_le hc (Nat.add_le_add_right (Nat.zero_le _) _)

end Slots

end Sys2Proof.Machine

namespace Sys2Proof.Machine

/-! Proofs about section 5: the share counts and the pins through what the blocks do (R105, R106). -/

/-! ## Bodies created and copied -/

/-- An append leaves every other record's body. -/
theorem appendRecord_bodies (e : Engine) {r q : Nat} (x : Record) (hq : q ≠ r) :
    ((e.appendRecord r x).record q).map (·.body) = (e.record q).map (·.body) := by
  unfold Engine.appendRecord
  dsimp only
  rw [record_putBoxTail]
  cases (e.mailbox x.mailbox).bind (·.tail) with
  | none =>
    dsimp only
    rw [record_putBoxHead, record_putRecord, if_neg hq]
  | some t =>
    dsimp only
    rw [record_putRecordNext, record_putRecord, if_neg hq]
    by_cases ht : q = t
    · rw [if_pos ht, Option.map_map]
      rfl
    · rw [if_neg ht]

section Create
variable {e : Engine} (h : e.SharesOwed noneOwed)
include h

theorem sharers_free {b : Nat} (hb : e.body b = none) : e.sharers b = 0 := by
  by_contra hc
  exact h.named b (Nat.pos_of_ne_zero hc) hb

/-- A new body owes its first share. -/
theorem createBody_shares {b : Nat} (hb : e.body b = none) : (e.createBody b).SharesOwed (oneOwed b) := by
  have hbody : ∀ c, (e.createBody b).body c = if c = b then some Body.fresh else e.body c := fun c => body_putBody e b (some Body.fresh) c
  have hhold : ∀ c, c ≠ b → (e.createBody b).hold c = e.hold c := fun c hc => (hold_modHold _ _ _ _).trans (if_neg hc)
  refine ⟨⟨h.rise.1, h.rise.2.1, putBody_bodiesRise h.rise.2.2⟩, fun c x hx => ?_, fun c hc => ?_, fun j hj => ?_⟩
  · rw [hbody] at hx
    show x.share = e.sharers c + oneOwed b c
    by_cases hc : c = b
    · rw [if_pos hc] at hx
      rw [← Option.some.inj hx, hc, sharers_free h hb, oneOwed, if_pos rfl]
      rfl
    · rw [if_neg hc] at hx
      rw [oneOwed, if_neg hc]
      exact h.share c x hx
  · rw [hbody]
    by_cases hcb : c = b
    · rw [if_pos hcb]
      exact nofun
    · rw [if_neg hcb]
      exact h.named c hc
  · obtain ⟨hin, hle⟩ := h.pinned j hj
    have hjb : j.body ≠ b := fun hc => hin (hc ▸ hb)
    rw [hbody, if_neg hjb, hhold _ hjb]
    exact ⟨hin, hle⟩

theorem freeBody_free : e.body e.freeBody = none := Tab.find?_lowestFree h.rise.2.2

/-- A recording's body has the record or the staging that it is made for. -/
theorem target_shares (q : OpenRecord) (now : Now) (hs : q.kind ≠ 0 → (e.slot q.mailbox q.slotKind).staged = none) :
    (q.target now e.freeBody e).2.SharesOwed noneOwed := by
  have h1 := createBody_shares h (freeBody_free h)
  have hin : (e.createBody e.freeBody).body e.freeBody ≠ none := by
    rw [show (e.createBody e.freeBody).body e.freeBody = some Body.fresh from (body_putBody e e.freeBody (some Body.fresh) e.freeBody).trans (if_pos rfl)]
    exact nofun
  unfold OpenRecord.target
  dsimp only
  generalize hx : Record.recording now q.mailbox e.freeBody (q.urgent.getD false) q.caller = x
  have hxb : x.body = e.freeBody := by rw [← hx]; rfl
  split
  · have hfree : (e.createBody e.freeBody).record e.freeRecordNo = none :=
      (record_congr ((createBody_within e e.freeBody).keeps .records rfl) _).trans (Tab.find?_lowestFree h.rise.1)
    obtain ⟨p, n, hnew⟩ := appendRecord_new (e.createBody e.freeBody) e.freeRecordNo x
    refine (records_shares (owed' := noneOwed) h1 (appendRecord_within _ _ _) rfl (appendRecord_rise _ _ h1.rise.1) e.freeRecordNo (fun r hr => ?_) (fun c => ?_)
      (fun y hy => ?_)).within (modCounter_within _ _ _) rfl
    · have := appendRecord_bodies (e.createBody e.freeBody) x hr
      exact this
    · rw [hnew, hfree, names_some]
      show oneOwed x.body c + 0 = 0 + _
      rw [hxb, Nat.zero_add, Nat.add_zero]
    · rw [hnew] at hy
      rw [← Option.some.inj hy]
      exact hxb ▸ hin
  · next hk =>
    have hslot : (e.createBody e.freeBody).slot q.mailbox q.slotKind = e.slot q.mailbox q.slotKind := rfl
    have hold := fun c => slotNames_eq c (e.slot q.mailbox q.slotKind)
    have hnew := fun c => slotNames_eq c { e.slot q.mailbox q.slotKind with staged := some e.freeBody }
    rw [hs hk] at hold
    rw [hslot]
    refine putSlot_shares h1 _ _ _ (fun c => ?_) (fun c hc => ?_)
    · rw [hslot, hold, hnew]
      rfl
    · rw [hslot, hold]
      rw [hnew] at hc
      by_cases hcb : c = e.freeBody
      · exact .inr (hcb ▸ hin)
      · have hz : (some e.freeBody).elim 0 (fun d => oneOwed d c) = 0 := if_neg hcb
        rw [hz] at hc
        exact .inl hc

/-- A copy takes a share of a body in use. -/
theorem makeCopy_shares (now : Now) (m n src : Nat) {b : Nat} (u : Bool) (c : Option Nat) (hb : e.body b ≠ none) :
    (e.makeCopy now m b n src u c).SharesOwed noneOwed := by
  have hfree : e.record e.freeRecordNo = none := Tab.find?_lowestFree h.rise.1
  obtain ⟨p, nx, hnew⟩ := appendRecord_new e e.freeRecordNo (Record.copy now m b src u c)
  have happend := appendRecord_within e e.freeRecordNo (Record.copy now m b src u c)
  have hrise := appendRecord_rise e.freeRecordNo (Record.copy now m b src u c) h.rise.1
  have hothers := fun r (hr : r ≠ e.freeRecordNo) => appendRecord_bodies e (Record.copy now m b src u c) hr
  generalize hg : e.appendRecord e.freeRecordNo (Record.copy now m b src u c) = g at happend hrise hothers hnew
  have hshare := modShare_within g b (· + 1)
  have hbody : ∀ d, g.body d = e.body d := fun d => congrArg (fun t => Tab.find? t d) (happend.keeps .bodies rfl)
  have hslots : g.tab.slots = e.tab.slots := happend.keeps .greetings rfl
  have hrecords : (g.modShare b (· + 1)).tab.records = g.tab.records := hshare.keeps .records rfl
  have hslots' : (g.modShare b (· + 1)).tab.slots = g.tab.slots := hshare.keeps .greetings rfl
  have hsharers : ∀ d, (g.modShare b (· + 1)).sharers d = g.sharers d := fun d => by rw [sharers_counted, hrecords, hslots', sharers_counted]
  have hcount : ∀ d, g.sharers d = e.sharers d + oneOwed b d := fun d => by
    have h1 := sharers_records h.rise.1 hrise hslots e.freeRecordNo hothers d
    rw [hfree, hnew, names_some] at h1
    exact h1
  have hcopied : (g.modShare b (· + 1)).SharesOwed noneOwed := by
    refine h.changes (up := oneOwed b) ⟨?_, by rw [hslots', hslots]; exact h.rise.2.1, ?_⟩ (fun d => ?_) (fun d => ?_) (fun d hd => ?_) ?_ (fun d => ?_)
    · exact hshare.recordsRise rfl hrise
    · have hbodies : Tab.risingFrom none g.tab.bodies = true := by
        rw [show g.tab.bodies = e.tab.bodies from happend.keeps .bodies rfl]
        exact h.rise.2.2
      unfold Engine.modShare
      split
      · exact hbodies
      · exact putBody_bodiesRise hbodies
    · rw [body_modShare, hbody, hbody]
      by_cases hd : d = b
      · rw [if_pos hd, hd, Option.map_map, oneOwed, if_pos rfl]
        rfl
      · rw [if_neg hd, oneOwed, if_neg hd]
        rfl
    · rw [hsharers, hcount]
    · rw [hsharers, hcount] at hd
      by_cases hdb : d = b
      · exact .inr (hdb ▸ hb)
      · rw [oneOwed, if_neg hdb] at hd
        exact .inl hd
    · exact congrArg Dle.queue ((hshare.keeps .dle rfl : (g.modShare b (· + 1)).dle = g.dle).trans (happend.keeps .dle rfl))
    · rw [Engine.hold, (hshare.keeps .holds rfl : (g.modShare b (· + 1)).holds = g.holds).trans (happend.keeps .holds rfl), Engine.hold]
  have hcharged := (hcopied.within (modCounter_within _ m (Counters.join .new u)) rfl).within (charge_within _ m (· + n)) rfl
  subst hg
  exact hcharged.within (handInputs_within _ m) rfl

end Create

/-! ## Jobs -/

section Jobs
variable {e : Engine} (h : e.SharesOwed noneOwed)
include h

/-- The job queue rewritten: each job stands by a job of its body, and no more of them name a body than pins it has. -/
theorem dle_shares {d : Dle} (hq : ∀ j ∈ d.queue, e.body j.body ≠ none ∧ (d.queue.filter (fun i => decide (i.body = j.body))).length ≤ (e.hold j.body).pins) :
    (e.modDle (fun _ => d)).SharesOwed noneOwed := ⟨h.rise, h.share, h.named, hq⟩

/-- The jobs rewritten with their bodies. -/
theorem jobs_shares {d : Dle} (hq : d.queue.map (·.body) = e.dle.queue.map (·.body)) : (e.modDle (fun _ => d)).SharesOwed noneOwed := by
  have hcount : ∀ b, (d.queue.filter (fun i => decide (i.body = b))).length = (e.dle.queue.filter (fun i => decide (i.body = b))).length := fun b => by
    have hmap : ∀ q : List Job, (q.filter (fun i => decide (i.body = b))).length = ((q.map (·.body)).filter (fun c => decide (c = b))).length := fun q => by
      rw [List.filter_map, List.length_map]
      rfl
    rw [hmap, hq, ← hmap]
  refine dle_shares h (fun j hj => ?_)
  obtain ⟨i, hi, hib⟩ : ∃ i ∈ e.dle.queue, i.body = j.body := by
    have hmem : j.body ∈ e.dle.queue.map (·.body) := hq ▸ List.mem_map_of_mem hj
    exact List.mem_map.1 hmem
  rw [hcount, ← hib]
  exact h.pinned i hi

theorem modRunning_shares {f : Job → Job} (hf : ∀ j, (f j).body = j.body) : (e.modRunning f).SharesOwed noneOwed := by
  refine jobs_shares (d := { e.dle with queue := match e.dle.queue with | [] => [] | j :: q => f j :: q }) h ?_
  cases hq : e.dle.queue with
  | nil => rfl
  | cons j q =>
    dsimp only
    rw [List.map_cons, List.map_cons, hf]

theorem cancelJob_shares (n : Nat) : (e.cancelJob n).SharesOwed noneOwed := by
  refine jobs_shares (d := { e.dle with queue := e.dle.queue.map (fun j => if j.number = n then { j with cancel := true } else j) }) h ?_
  show (e.dle.queue.map _).map _ = _
  rw [List.map_map]
  refine List.map_congr_left fun j _ => ?_
  show (if j.number = n then { j with cancel := true } else j).body = j.body
  split <;> rfl

theorem acceptJob_shares {j : Job} (hj : e.body j.body ≠ none) : (e.acceptJob j).SharesOwed noneOwed := by
  refine ⟨h.rise, h.share, h.named, fun i hi => ?_⟩
  have hhold : (e.acceptJob j).hold i.body = if i.body = j.body then { e.hold j.body with pins := (e.hold j.body).pins + 1 } else e.hold i.body :=
    hold_modHold _ _ _ _
  have hin : ∀ k : Job, k ∈ e.dle.queue ++ [j] → e.body k.body ≠ none := fun k hk => by
    rcases List.mem_append.1 hk with hk | hk
    · exact (h.pinned k hk).1
    · exact List.mem_singleton.1 hk ▸ hj
  refine ⟨hin i hi, ?_⟩
  show ((e.dle.queue ++ [j]).filter (fun k => decide (k.body = i.body))).length ≤ ((e.acceptJob j).hold i.body).pins
  rw [hhold, List.filter_append, List.length_append]
  have hle : ∀ b, (e.dle.queue.filter (fun k => decide (k.body = b))).length ≤ (e.hold b).pins := fun b => by
    rcases hf : e.dle.queue.filter (fun k => decide (k.body = b)) with _ | ⟨k, ks⟩
    · rw [hf]
      exact Nat.zero_le _
    · obtain ⟨hk, hkb⟩ := List.mem_filter.1 (show k ∈ e.dle.queue.filter (fun k => decide (k.body = b)) from hf ▸ List.mem_cons_self)
      rw [← of_decide_eq_true hkb]
      exact (h.pinned k hk).2
  by_cases hij : i.body = j.body
  · rw [if_pos hij, hij]
    exact Nat.add_le_add (hle j.body) (List.length_filter_le _ _)
  · have hnone : [j].filter (fun k => decide (k.body = i.body)) = [] := List.filter_eq_nil_iff.2 fun k hk => by
      simp [List.mem_singleton.1 hk, Ne.symm hij]
    rw [if_neg hij, hnone]
    exact hle i.body

theorem endJob_shares {j : Job} (hj : j ∈ e.dle.queue) : (e.endJob j).SharesOwed noneOwed := by
  unfold Engine.endJob Engine.dropPin
  refine Engine.SharesOwed.within ?_ (raise_within _ _ _) rfl
  refine releaseIfUnheld_shares (e := (e.modDle (fun d => { d with queue := d.queue.filter (fun k => k.number ≠ j.number) })).modHold j.body
    (fun x => { x with pins := x.pins - 1 })) ⟨h.rise, h.share, h.named, fun i hi => ?_⟩ _
  have hmem : i ∈ e.dle.queue.filter (fun k => k.number ≠ j.number) := hi
  obtain ⟨hiq, hne⟩ := List.mem_filter.1 hmem
  obtain ⟨hin, hle⟩ := h.pinned i hiq
  refine ⟨hin, ?_⟩
  generalize hg : (e.modDle (fun d => { d with queue := d.queue.filter (fun k => k.number ≠ j.number) })) = g
  have hhold : ∀ c, (g.modHold j.body (fun x => { x with pins := x.pins - 1 })).hold c = if c = j.body then { e.hold j.body with pins := (e.hold j.body).pins - 1 }
      else e.hold c := fun c => by
    subst hg
    exact hold_modHold _ _ _ _
  rw [hhold]
  show ((g.dle.queue).filter (fun k => decide (k.body = i.body))).length ≤ _
  subst hg
  show (((e.dle.queue.filter (fun k => k.number ≠ j.number))).filter (fun k => decide (k.body = i.body))).length ≤ _
  have hsub : (((e.dle.queue.filter (fun k => k.number ≠ j.number))).filter (fun k => decide (k.body = i.body))).Sublist
      (e.dle.queue.filter (fun k => decide (k.body = i.body))) := List.filter_sublist.filter _
  by_cases hij : i.body = j.body
  · rw [if_pos hij]
    have hlt : (((e.dle.queue.filter (fun k => k.number ≠ j.number))).filter (fun k => decide (k.body = i.body))).length <
        (e.dle.queue.filter (fun k => decide (k.body = i.body))).length := by
      refine Nat.lt_of_le_of_ne hsub.length_le (fun hc => ?_)
      have heq := hsub.eq_of_length hc
      have hmemj : j ∈ e.dle.queue.filter (fun k => decide (k.body = i.body)) := List.mem_filter.2 ⟨hj, decide_eq_true hij.symm⟩
      rw [← heq] at hmemj
      obtain ⟨hmemj, -⟩ := List.mem_filter.1 hmemj
      obtain ⟨-, hnum⟩ := List.mem_filter.1 hmemj
      simp at hnum
    rw [hij] at hle hlt ⊢
    exact Nat.le_sub_one_of_lt (Nat.lt_of_lt_of_le hlt hle)
  · rw [if_neg hij]
    exact Nat.le_trans hsub.length_le hle

theorem takeRecipient_shares (now : Now) : (e.takeRecipient now).SharesOwed noneOwed := by
  unfold Engine.takeRecipient
  split
  · exact h
  · next j q hq =>
    have hj : e.body j.body ≠ none := (h.pinned j (by rw [hq]; exact List.mem_cons_self)).1
    refine ite_kept h ?_
    split
    · exact h
    · dsimp only
      split
      · exact modRunning_shares h (fun _ => rfl)
      · refine Engine.SharesOwed.within ?_ (flush_within _ _) rfl
        exact modRunning_shares (makeCopy_shares h now _ _ _ _ _ hj) (fun _ => rfl)

end Jobs

end Sys2Proof.Machine

namespace Sys2Proof.Machine

/-! Proofs about section 5: the share counts through every step outside a check (R105, R106). -/

theorem Engine.Within.sharesKept {ps : List Part} {e g : Engine} (k : Engine.Within ps e g) (h : e.walked → e.SharesOwed noneOwed)
    (hps : partsApart [.records, .greetings, .bodies, .dle, .holds, .service] ps = true) : g.walked → g.SharesOwed noneOwed :=
  fun hw => (h ((k.walked (partsApart_of_subset hps (by simp))).1 hw)).within k (partsApart_of_subset hps (by simp))

theorem Engine.Within.sharesWork {ps : List Part} {e g : Engine} (k : Engine.Within ps e g) (h : e.walked → e.SharesOwed noneOwed)
    (hps : partsApart [.service] ps = true) (hl : e.SharesOwed noneOwed → g.SharesOwed noneOwed) : g.walked → g.SharesOwed noneOwed :=
  fun hw => hl (h ((k.walked (partsApart_of_subset hps (by simp))).1 hw))

section Bodies
variable {e : Engine} {owed : Nat → Nat} (h : e.SharesOwed owed)
include h

theorem sealBody_shares (b o n : Nat) : (e.sealBody b o n).SharesOwed owed := by
  unfold Engine.sealBody
  split
  · exact h
  · next x hx => exact modHold_shares (putBody_shares (y := { x with sealed := true, offset := some o, samples := some n }) h hx rfl) b (fun k => { k with begun := 0 }) (fun _ => rfl)

theorem linkSegment_shares (b i : Nat) : (e.linkSegment b i).SharesOwed owed := by
  unfold Engine.linkSegment
  split
  · exact h
  · next x hx =>
    dsimp only
    cases hl : x.last with
    | none =>
      have h1 := h.within (put_within e (.segment i { state := .data, body := some b, next := none, eraseFailures := (e.segment i).eraseFailures })) rfl
      exact putBody_shares h1 hx rfl
    | some l =>
      have h1 := h.within (put_within e (.segment i { state := .data, body := some b, next := none, eraseFailures := (e.segment i).eraseFailures })) rfl
      have h2 := fun v => h1.within (put_within _ (.segment l v)) rfl
      exact putBody_shares (h2 _) hx rfl

theorem cutChain_shares (b first last : Nat) : (e.cutChain b first last).SharesOwed owed := by
  unfold Engine.cutChain
  split
  · exact h
  · next x hx =>
    dsimp only
    refine ite_kept h (Engine.SharesOwed.within ?_ (flush_within _ _) rfl)
    split
    · split
      · exact putBody_shares h hx rfl
      · have h1 := fun l v => h.within (put_within e (.segment l v)) rfl
        exact putBody_shares (h1 _ _) hx rfl
    · exact putBody_shares h hx rfl

end Bodies

/-- The job due to end is in the queue. -/
theorem due_mem {d : Dle} {j : Job} (h : d.due = some j) : j ∈ d.queue := by
  unfold Dle.due at h
  split at h
  · exact nomatch h
  · next i q hq =>
    rw [hq]
    split at h
    · rw [← Option.some.inj h]
      exact List.mem_cons_self
    · exact List.mem_cons_of_mem _ (List.mem_of_find?_eq_some h)

/-- What the part does outside a check keeps the shares true. -/
theorem shares_worked : Engine.Worked (fun e => e.walked → e.SharesOwed noneOwed) where
  session k f e h := (modSession_within e k f).sharesKept h rfl
  slots i o e h := (slots_within e i o).sharesKept h rfl
  programs q e h := (queues_within e e.ssc.readQueue q).sharesKept h rfl
  reads q e h := (queues_within e q e.ssc.progQueue).sharesKept h rfl
  unwant k t e h := (unwant_within e k t).sharesKept h rfl
  begun b f e h := (modHold_within e b _).sharesWork h rfl (fun k => modHold_shares k b _ (fun _ => rfl))
  charge m f e h := (charge_within e m f).sharesKept h rfl
  lamps f e h := (modLmp_within e f).sharesKept h rfl
  raise k d e h := (raise_within e k d).sharesKept h rfl
  cut b f l e h := (cutChain_within e b f l).sharesWork h rfl (fun k => cutChain_shares k b f l)
  seals b o n e h := (sealBody_within e b o n).sharesWork h rfl (fun k => sealBody_shares k b o n)
  free r e h := (freeRecord_within e r).sharesWork h rfl (fun k => freeRecord_shares k r)
  abandon m g e h := (abandonGreeting_within e m g).sharesWork h rfl (fun k => abandonGreeting_shares k m g)
  sealed r c e h := (recordSealed_within e r c).sharesWork h rfl (fun k => recordSealed_shares k r c)
  replace m g e h := (replaceGreeting_within e m g).sharesWork h rfl (fun k => replaceGreeting_shares k m g)
  reader b e h := (dropReader_within e b).sharesWork h rfl (fun k => dropReader_shares k b)
  target now c n x e h := (playTarget_within e now c n x).sharesWork h rfl (fun k => playTarget_shares k now c n x)
  flush t e h := (flush_within e t).sharesKept h rfl
  job j e h1 h := (endJob_within e j).sharesWork h rfl (fun k => endJob_shares k (due_mem h1))
  erase e h := (startErase_within e).sharesKept h rfl
  read e h := (startRead_within e).sharesKept h rfl
  program r i is e _ h := (startProgram_within e r i).sharesKept h rfl
  channel f e _ h := (modMgc_within e f).sharesKept h rfl
  byteIn b e h := (rxByte_receiving b e).within.sharesKept h rfl
  packetIn c g ps e h := (goodPacket_receiving (c :: g :: ps) e).within.sharesKept h rfl
  queue q a e h := (writes_within e q a).sharesKept h rfl
  write w e h := (cat_within e _).sharesKept h rfl
  dirty is e h := (makeAllDirty_within e is).sharesKept h rfl
  pool e h := (examinePool_within e).sharesKept h rfl
  idle e h := (link_within e .idle e.ssc.opTimer).sharesKept h rfl
  retry r n e h := (link_within e (.reading r n) 0).sharesKept h rfl
  issue r i w e _ h := (link_within e (.programming r i w) 0).sharesKept h rfl
  stored t e h := (flash_within e t).sharesKept h rfl
  linked r i w e _ h := (recordResult_within _).sharesKept ((linkSegment_within e r.body i).sharesWork h rfl (fun k => linkSegment_shares k r.body i)) rfl
  unlinked r i w e _ h := (recordResult_within _).sharesKept ((joinDirty_within e i).sharesKept h rfl) rfl
  retired r i w n e _ h := (recordResult_within _).sharesKept ((put_within e _).sharesKept h rfl) rfl
  erased i e _ h := (eraseDone_within e i).sharesKept h rfl
  kept i c e _ h := (eraseFailed_within e i c).sharesKept h rfl
  losc e h := (losc_within e).sharesKept h rfl
  recipient now e h := (takeRecipient_within e now).sharesWork h rfl (fun k => takeRecipient_shares k now)
  copied e h := (modDle_within e _).sharesWork h rfl (fun k => modRunning_shares k (fun _ => rfl))
  examine r day e h := (examineEntry_within e r day).sharesWork h rfl (fun k => examineEntry_shares k r day)
  service p e hp h := fun _ =>
    have k := h (.inr (by rw [hp]; exact nofun))
    ⟨k.rise, k.share, k.named, k.pinned⟩
  freeze e h := fun hw => absurd hw (fun hw => hw.elim nofun (fun h => h rfl))
  format e hs h := fun _ =>
    have k := h (.inl hs)
    ⟨k.rise, k.share, k.named, k.pinned⟩
  create q now e _ hs h := (target_within e q now _).sharesWork h rfl (fun k => target_shares k q now hs)
  listen b e h := (modHold_within e b _).sharesWork h rfl (fun k => modHold_shares k b _ (fun _ => rfl))
  accept r x j e hx hjx h := (acceptJob_within e j).sharesWork h rfl (fun k => acceptJob_shares k (hjx ▸ record_inUse k hx))
  cancel n e h := (modDle_within e _).sharesWork h rfl (fun k => cancelJob_shares k n)
  clear l e h := (clearList_within e l).sharesKept h rfl
  add l m e _ _ _ h := (addMember_within e l m).sharesKept h rfl
  cls k c e h := (put_within e (.cls k c)).sharesKept h rfl
  settings x e h := (put_within e (.settings x)).sharesKept h rfl
  fields m f e h := (put_within e (.boxFields m f)).sharesKept h rfl
  mark now r mk e h := (markRecord_within e now r mk).sharesWork h rfl (fun k => markRecord_shares k now r mk)
  slot m g e h := (emptySlot_within e m g).sharesWork h rfl (fun k => emptySlot_shares k m g)
  quietly r e h := (freeRecordQuietly_within e r).sharesWork h rfl (fun k => freeRecordQuietly_shares k r)

end Sys2Proof.Machine

namespace Sys2Proof.Machine

/-! Proofs about section 4.6: the bodies that the holders name, through the first steps of the check (R89, R92, R94, R112). -/

/-! ## Holders that name bodies in use -/

/-- The tables rise, and records and held greetings name bodies in use. -/
structure Engine.HeldNamed (e : Engine) : Prop where
  rise : e.namingRise
  records : ∀ r y, e.record r = some y → e.body y.body ≠ none
  slots : ∀ k x b, Tab.find? e.tab.slots k = some x → x.held = some b → e.body b ≠ none

namespace Engine.HeldNamed
variable {e g : Engine}

theorem within {ps : List Part} (h : e.HeldNamed) (k : Within ps e g) (hps : partsApart [.records, .greetings, .bodies] ps = true) : g.HeldNamed := by
  have hout : ∀ p ∈ [Part.records, .greetings, .bodies], p ∉ ps := fun p hp => not_mem_of_partsApart hps hp
  have hrecords : g.tab.records = e.tab.records := k.same State.reset .records (hout _ (by simp))
  have hslots : g.tab.slots = e.tab.slots := k.same State.reset .greetings (hout _ (by simp))
  have hbodies : g.tab.bodies = e.tab.bodies := k.same State.reset .bodies (hout _ (by simp))
  have hbody : ∀ b, g.body b = e.body b := fun b => by rw [Engine.body, hbodies, Engine.body]
  refine ⟨⟨?_, by rw [hslots]; exact h.rise.2.1, by rw [hbodies]; exact h.rise.2.2⟩, fun r y hy => ?_, fun k x b hx hb => ?_⟩
  · rw [Engine.recordsRise, hrecords]
    exact h.rise.1
  · rw [hbody]
    exact h.records r y (by rw [← record_congr hrecords]; exact hy)
  · rw [hbody]
    exact h.slots k x b (by rw [← hslots]; exact hx) hb

/-- Records rewritten that name the bodies they named. -/
theorem rebodied {ps : List Part} (h : e.HeldNamed) (k : Within ps e g) (hps : partsApart [.greetings, .bodies] ps = true) (hr : g.recordsRise)
    (hsame : ∀ q y, g.record q = some y → ∃ x, e.record q = some x ∧ y.body = x.body) : g.HeldNamed := by
  have hslots : g.tab.slots = e.tab.slots := k.same State.reset .greetings (not_mem_of_partsApart hps (by simp))
  have hbodies : g.tab.bodies = e.tab.bodies := k.same State.reset .bodies (not_mem_of_partsApart hps (by simp))
  have hbody : ∀ b, g.body b = e.body b := fun b => by rw [Engine.body, hbodies, Engine.body]
  refine ⟨⟨hr, by rw [hslots]; exact h.rise.2.1, by rw [hbodies]; exact h.rise.2.2⟩, fun r y hy => ?_, fun k x b hx hb => ?_⟩
  · obtain ⟨x, hx, hxy⟩ := hsame r y hy
    rw [hbody, hxy]
    exact h.records r x hx
  · rw [hbody]
    exact h.slots k x b (by rw [← hslots]; exact hx) hb

/-- A body's entry written in use. -/
theorem putBody (h : e.HeldNamed) (b : Nat) (x : Body) : (e.put (.body b (some x))).HeldNamed := by
  have hbody : ∀ c, e.body c ≠ none → (e.put (.body b (some x))).body c ≠ none := fun c hc => by
    rw [body_putBody]
    split
    · exact nofun
    · exact hc
  exact ⟨⟨h.rise.1, h.rise.2.1, putBody_bodiesRise h.rise.2.2⟩, fun r y hy => hbody _ (h.records r y hy), fun k z c hz hc => hbody _ (h.slots k z c hz hc)⟩

end Engine.HeldNamed

/-! ## A map that is fitted (R89) -/

/-- No record is in use and every slot is empty. -/
def Engine.unheld (e : Engine) : Prop := e.namingRise ∧ (∀ r, e.record r = none) ∧ ∀ k, Tab.find? e.tab.slots k = none

theorem unheld_heldNamed {e : Engine} (h : e.unheld) : e.HeldNamed :=
  ⟨h.1, fun r _ hy => absurd ((h.2.1 r).symm.trans hy) nofun, fun k _ _ hx _ => absurd ((h.2.2 k).symm.trans hx) nofun⟩

theorem namingRise_within {e g : Engine} {ps : List Part} (h : e.namingRise) (k : Engine.Within ps e g)
    (hps : partsApart [.records, .greetings, .bodies] ps = true) : g.namingRise := by
  have hout : ∀ p ∈ [Part.records, .greetings, .bodies], p ∉ ps := fun p hp => not_mem_of_partsApart hps hp
  have hrecords : g.tab.records = e.tab.records := k.same State.reset .records (hout _ (by simp))
  have hslots : g.tab.slots = e.tab.slots := k.same State.reset .greetings (hout _ (by simp))
  have hbodies : g.tab.bodies = e.tab.bodies := k.same State.reset .bodies (hout _ (by simp))
  refine ⟨?_, by rw [hslots]; exact h.2.1, by rw [hbodies]; exact h.2.2⟩
  rw [Engine.recordsRise, hrecords]
  exact h.1

theorem put_namingRise (w : CatWrite) (e : Engine) (h : e.namingRise) : (e.put w).namingRise := by
  refine ⟨put_recordsRise w e h.1, ?_⟩
  cases w
  case slot k v => exact ⟨risingFrom_setTab _ _ _ h.2.1, h.2.2⟩
  case body b v => exact ⟨h.2.1, putBody_bodiesRise h.2.2⟩
  case blank => exact ⟨rfl, rfl⟩
  case boxHead m r | boxTail m r | recordPrev m r | recordNext m r =>
    unfold Engine.put CatWrite.apply
    dsimp only
    split <;> exact ⟨h.2.1, h.2.2⟩
  all_goals exact ⟨h.2.1, h.2.2⟩

/-- Entries erased one by one are gone. -/
theorem find?_foldl_erase {α : Type} : ∀ (ks : List Nat) (t : Tab α) (n : Nat), Tab.find? (ks.foldl (fun t k => Tab.erase k t) t) n =
    if n ∈ ks then none else Tab.find? t n
  | [], _, _ => rfl
  | k :: ks, t, n => by
    rw [List.foldl_cons, find?_foldl_erase ks, Tab.find?_erase]
    by_cases hn : n ∈ ks
    · rw [if_pos hn, if_pos (List.mem_cons_of_mem _ hn)]
    · rw [if_neg hn]
      by_cases hk : n = k
      · rw [if_pos hk, if_pos (hk ▸ List.mem_cons_self)]
      · rw [if_neg hk, if_neg (fun hc => (List.mem_cons.1 hc).elim hk hn)]

/-- Every entry erased leaves an empty table. -/
theorem find?_erase_all {α : Type} (t : Tab α) (n : Nat) : Tab.find? ((t.map (·.1)).foldl (fun t k => Tab.erase k t) t) n = none := by
  rw [find?_foldl_erase]
  by_cases hn : n ∈ t.map (·.1)
  · exact if_pos hn
  · rw [if_neg hn]
    exact Tab.find?_eq_none_iff.2 hn

theorem foldl_putRecord_records : ∀ (ks : List Nat) (e : Engine), (ks.foldl (fun e r => e.put (.record r none)) e).tab.records =
    ks.foldl (fun t k => Tab.erase k t) e.tab.records
  | [], _ => rfl
  | k :: ks, e => foldl_putRecord_records ks _

theorem foldl_putSlot_slots : ∀ (ks : List Nat) (e : Engine), (ks.foldl (fun e k => e.put (.slot k Slot.empty)) e).tab.slots =
    ks.foldl (fun t k => Tab.erase k t) e.tab.slots
  | [], _ => rfl
  | k :: ks, e => foldl_putSlot_slots ks _

theorem dropRecords_none {e : Engine} (h : e.namingRise) : e.dropRecords.namingRise ∧ ∀ r, e.dropRecords.record r = none := by
  unfold Engine.dropRecords
  extract_lets e1
  have h1 : e1.namingRise := foldl_kept (P := Engine.namingRise) (fun e _ h => put_namingRise _ e h) _ h
  have hrecords : ∀ r, e1.record r = none := fun r => by
    show Tab.find? ((e.tab.records.map (·.1)).foldl (fun e r => e.put (.record r none)) e).tab.records r = none
    rw [foldl_putRecord_records]
    exact find?_erase_all _ r
  have hends : Engine.Within [.mailboxes, .writes] e1 (e.loadedBoxes.foldl (fun e m => (e.put (.boxHead m none)).put (.boxTail m none)) e1) :=
    .foldl (fun e m => ((put_within e (.boxHead m none)).mono rfl).step (put_within _ (.boxTail m none)) rfl) _ e1
  exact ⟨namingRise_within h1 hends rfl, fun r => (record_congr (hends.keeps .records rfl) r).trans (hrecords r)⟩

theorem dropContent_unheld (is : List Nat) {e : Engine} (h : e.namingRise) : (e.dropContent is).unheld := by
  unfold Engine.dropContent
  extract_lets e1 e2
  obtain ⟨h1, hrecords⟩ : e1.namingRise ∧ ∀ r, e1.record r = none :=
    dropRecords_none (foldl_kept (P := Engine.namingRise) (fun e _ h => put_namingRise _ e h) is h)
  have h2 : e2.namingRise := foldl_kept (P := Engine.namingRise) (fun e _ h => put_namingRise _ e h) _ h1
  have hslots : Engine.Within [.greetings, .writes] e1 e2 := .foldl (fun e k => (put_within e (.slot k Slot.empty)).mono rfl) _ e1
  have hbodies : Engine.Within [.bodies, .writes] e2 ((e2.tab.bodies.map (·.1)).foldl (fun e b => e.put (.body b none)) e2) :=
    .foldl (fun e b => (put_within e (.body b none)).mono rfl) _ e2
  refine ⟨foldl_kept (P := Engine.namingRise) (fun e _ h => put_namingRise _ e h) _ h2, fun r => ?_, fun k => ?_⟩
  · rw [record_congr (hbodies.keeps .records rfl), record_congr (hslots.keeps .records rfl)]
    exact hrecords r
  · rw [show ((e2.tab.bodies.map (·.1)).foldl (fun e b => e.put (.body b none)) e2).tab.slots = e2.tab.slots from hbodies.keeps .greetings rfl]
    show Tab.find? ((e1.tab.slots.map (·.1)).foldl (fun e k => e.put (.slot k Slot.empty)) e1).tab.slots k = none
    rw [foldl_putSlot_slots]
    exact find?_erase_all _ k

theorem fitMap_heldNamed (c : Nat) {e : Engine} (h : e.HeldNamed) : (e.fitMap c).HeldNamed := by
  unfold Engine.fitMap
  split
  · have hblank : (e.put .blank).unheld := ⟨⟨rfl, rfl, rfl⟩, fun _ => rfl, fun _ => rfl⟩
    exact (unheld_heldNamed hblank).within (put_within _ (.signature (some c))) rfl
  · refine ite_kept (h.within (put_within _ (.signature (some c))) rfl) (ite_kept ?_ h)
    have hcut := dropContent_unheld ((e.bodiesInUse.flatMap (fun b => e.reached b)).filter (fun i => i < c * Config.deviceSegments))
      (put_namingRise (.cutMap (c * Config.deviceSegments)) e h.rise)
    exact (unheld_heldNamed hcut).within (put_within _ (.signature (some c))) rfl

/-! ## The walk and the repairs (R92, R139) -/

theorem fitOpenBody_heldNamed {e : Engine} (b : Nat) (h : e.HeldNamed) : (e.fitOpenBody b).HeldNamed := by
  unfold Engine.fitOpenBody
  split
  · exact h
  · dsimp only
    split
    · exact h
    · exact h.putBody _ _

theorem walk_heldNamed {e : Engine} (h : e.HeldNamed) : e.walk.HeldNamed := by
  unfold Engine.walk
  extract_lets e1 e2 chained data
  have h1 : e1.HeldNamed := h.within (((dirtyAllocated_within e).mono (qs := [.segments, .writes, .pool]) rfl).step (buildLists_within _) rfl) rfl
  have h2 : e2.HeldNamed := foldl_kept (P := Engine.HeldNamed) (fun _ b h => fitOpenBody_heldNamed b h) _ h1
  exact h2.within (makeAllDirty_within _ _) rfl

/-- From e to g every record names the body it named. -/
def Engine.SameBodies (e g : Engine) : Prop := ∀ q, (g.record q).map (·.body) = (e.record q).map (·.body)

namespace Engine.SameBodies
variable {a b c : Engine}

theorem refl (a : Engine) : SameBodies a a := fun _ => rfl

theorem trans (h : SameBodies a b) (k : SameBodies b c) : SameBodies a c := fun q => (k q).trans (h q)

theorem of_records (h : b.tab.records = a.tab.records) : SameBodies a b := fun q => by rw [record_congr h]

theorem foldl {α : Type} {f : Engine → α → Engine} (h : ∀ e x, SameBodies e (f e x)) : ∀ (l : List α) (e : Engine), SameBodies e (l.foldl f e)
  | [], e => refl e
  | x :: l, e => (h e x).trans (foldl h l _)

end Engine.SameBodies

theorem fitPrev_bodies (r : Nat) (p : Option Nat) (e : Engine) : e.SameBodies (e.fitPrev r p) := fun q => by
  rw [fitPrev_record]
  split
  · rw [Option.map_map]
    rfl
  · rfl

theorem fitPrevs_bodies : ∀ (rs : List Nat) (p : Option Nat) (e : Engine), e.SameBodies (e.fitPrevs p rs)
  | [], _, e => .refl e
  | r :: rs, p, e => (fitPrev_bodies r p e).trans (fitPrevs_bodies rs (some r) _)

theorem fitBox_bodies (m : Nat) (kept : List Nat) (e : Engine) : e.SameBodies (e.fitBox m kept) := by
  rw [fitBox_eq]
  have hlast : ∀ g : Engine, g.SameBodies (g.fitLast kept) := fun g q => by
    rw [fitLast_record, Option.map_map]
    rfl
  exact ((fitPrevs_bodies kept none e).trans (hlast _)).trans (.of_records (fitEnds_records m kept _))

theorem appendAgain_bodies (r : Nat) (e : Engine) : e.SameBodies (e.appendAgain r) := fun q => by
  unfold Engine.appendAgain
  split
  · rfl
  · next x hx =>
    by_cases hq : q = r
    · obtain ⟨p, n, hnew⟩ := appendRecord_new e r x
      rw [hq, hnew, hx]
      rfl
    · exact appendRecord_bodies e x hq

theorem repairBox_bodies (m : Nat) (e : Engine) : e.SameBodies (e.repairBox m) :=
  (fitBox_bodies m _ e).trans (.foldl (fun e r => appendAgain_bodies r e) _ _)

theorem repairBox_heldNamed {e : Engine} (m : Nat) (h : e.HeldNamed) : (e.repairBox m).HeldNamed := by
  refine h.rebodied (repairBox_within e m) rfl (repairBox_kept put_recordsRise m h.rise.1) (fun q y hy => ?_)
  have hsame := repairBox_bodies m e q
  rw [hy] at hsame
  obtain ⟨x, hx, hxy⟩ := Option.map_eq_some_iff.1 hsame.symm
  exact ⟨x, hx, hxy.symm⟩

theorem repaired_heldNamed {e : Engine} (h : e.HeldNamed) : e.repaired.HeldNamed := by
  have h1 : e.clampSettings.walk.repairLists.HeldNamed := (walk_heldNamed (h.within (clampSettings_within e) rfl)).within (repairLists_within _) rfl
  have h2 := foldl_kept (P := Engine.HeldNamed) (fun _ m h => repairBox_heldNamed m h) e.clampSettings.walk.repairLists.loadedBoxes h1
  exact (h2.within (openExtents_within _) rfl).within (recount_within _) rfl

end Sys2Proof.Machine

namespace Sys2Proof.Machine

/-! Proofs about section 4.6: the share counts as the check makes them (R94, R95, R112), and through every step. -/

/-! ## The bodies reconciled (R94) -/

theorem changeRecord_bodies {e : Engine} {r : Nat} {x y : Record} (hx : e.record r = some x) (hy : y.body = x.body) : e.SameBodies (e.changeRecord r x y) :=
  fun q => by
    rw [changeRecord_record hx]
    by_cases hq : q = r
    · rw [if_pos hq, hq, hx, Option.map_some, Option.map_some, hy]
    · rw [if_neg hq]

theorem recordSealed_bodies (r : Nat) (c : Bool) (e : Engine) : e.SameBodies (e.recordSealed r c) := by
  unfold Engine.recordSealed
  split
  · exact .refl e
  · next x hx => exact changeRecord_bodies hx rfl

section Reconcile
variable {e : Engine} (h : e.HeldNamed)
include h

theorem sameBodies_heldNamed {g : Engine} {ps : List Part} (k : Engine.Within ps e g) (hps : partsApart [.greetings, .bodies] ps = true) (hr : g.recordsRise)
    (hsame : e.SameBodies g) : g.HeldNamed := by
  refine h.rebodied k hps hr (fun q y hy => ?_)
  have hq := hsame q
  rw [hy] at hq
  obtain ⟨x, hx, hxy⟩ := Option.map_eq_some_iff.1 hq.symm
  exact ⟨x, hx, hxy.symm⟩

theorem recordSealed_heldNamed (r : Nat) (c : Bool) : (e.recordSealed r c).HeldNamed :=
  sameBodies_heldNamed h (recordSealed_within e r c) rfl (recordSealed_rise h.rise.1 r c) (recordSealed_bodies r c e)

theorem sealBody_heldNamed (b o n : Nat) : (e.sealBody b o n).HeldNamed := by
  unfold Engine.sealBody
  split
  · exact h
  · exact (h.putBody b _).within (modHold_within _ _ _) rfl

theorem modShare_heldNamed (b : Nat) (f : Nat → Nat) : (e.modShare b f).HeldNamed := by
  unfold Engine.modShare
  split
  · exact h
  · exact h.putBody b _

theorem detachRecord_heldNamed (r : Nat) (x : Record) : (e.detachRecord r x).HeldNamed := by
  refine h.rebodied (detachRecord_within e r x) rfl (detachRecord_rise h.rise.1 r x) (fun q y hy => ?_)
  rw [detachRecord_record, unlinkRecord_record] at hy
  by_cases hq : q = r
  · rw [if_pos hq] at hy
    exact absurd hy nofun
  · rw [if_neg hq] at hy
    obtain ⟨z, hz, rfl⟩ := Option.map_eq_some_iff.1 hy
    exact ⟨z, hz, rfl⟩

theorem reconcile_heldNamed (b : Nat) : (e.reconcile b).HeldNamed := by
  unfold Engine.reconcile
  split
  · refine ite_kept (recordSealed_heldNamed h _ _) (ite_kept ?_ ?_)
    · exact (recordSealed_heldNamed (sealBody_heldNamed h _ _ _) _ _).within (modReport_within _ _) rfl
    · exact ((modShare_heldNamed (detachRecord_heldNamed h _ _) _ _).within (handInputs_within _ _) rfl).within (modReport_within _ _) rfl
  · exact h

end Reconcile

/-! ## The stagings let go (R94, R151) -/

theorem clearStagings_fold : ∀ (l : Tab Slot) (e : Engine), (l.map (·.1)).Nodup → (∀ x ∈ l, Tab.get Slot.empty e.tab.slots x.1 = x.2) → ∀ k,
    Tab.get Slot.empty (l.foldl (fun e x => if x.2.staged.isSome then e.put (.slot x.1 { x.2 with staged := none }) else e) e).tab.slots k =
      if k ∈ l.map (·.1) then { Tab.get Slot.empty e.tab.slots k with staged := none } else Tab.get Slot.empty e.tab.slots k
  | [], _, _, _, _ => rfl
  | (a, v) :: l, e, hn, hl, k => by
    rw [List.map_cons] at hn ⊢
    obtain ⟨hx, hn⟩ := List.nodup_cons.1 hn
    have hself : Tab.get Slot.empty e.tab.slots a = v := hl (a, v) List.mem_cons_self
    have hstep : ∀ n, Tab.get Slot.empty (if v.staged.isSome then e.put (.slot a { v with staged := none }) else e).tab.slots n =
        if n = a then { Tab.get Slot.empty e.tab.slots n with staged := none } else Tab.get Slot.empty e.tab.slots n := fun n => by
      by_cases hst : v.staged.isSome = true
      · rw [if_pos hst]
        show Tab.get Slot.empty (Tab.set Slot.empty a { v with staged := none } e.tab.slots) n = _
        rw [Tab.get_set]
        by_cases hna : n = a
        · rw [if_pos hna, if_pos hna, hna, hself]
        · rw [if_neg hna, if_neg hna]
      · rw [if_neg hst]
        by_cases hna : n = a
        · have hnone : v.staged = none := by simpa using hst
          rw [if_pos hna, hna, hself, ← hnone]
        · rw [if_neg hna]
    have hrest : ∀ y ∈ l, y.1 ≠ a := fun y hy hc => hx (List.mem_map.2 ⟨y, hy, hc⟩)
    rw [List.foldl_cons, clearStagings_fold l _ hn (fun y hy => by rw [hstep, if_neg (hrest y hy)]; exact hl y (List.mem_cons_of_mem _ hy)), hstep]
    by_cases hk : k ∈ l.map (·.1)
    · have hka : k ≠ a := fun hc => hx (hc.symm ▸ hk)
      rw [if_pos hk, if_neg hka, if_pos (List.mem_cons_of_mem _ hk)]
    · rw [if_neg hk]
      by_cases hka : k = a
      · rw [if_pos hka, if_pos (List.mem_cons.2 (.inl hka))]
      · rw [if_neg hka, if_neg (fun hc => (List.mem_cons.1 hc).elim hka hk)]

theorem get_of_find? {α : Type} {d : α} {t : Tab α} {k : Nat} {v : α} (h : Tab.find? t k = some v) : Tab.get d t k = v := by
  unfold Tab.get
  rw [h]
  rfl

/-- No slot has a staged body, and the held ones stand. -/
theorem clearStagings_slots {e : Engine} (h : Tab.risingFrom none e.tab.slots = true) (k : Nat) :
    Tab.get Slot.empty e.clearStagings.tab.slots k = { Tab.get Slot.empty e.tab.slots k with staged := none } := by
  refine (clearStagings_fold e.tab.slots e (Tab.keys_nodup h) (fun x hx => get_of_find? (Tab.find?_of_mem h x hx)) k).trans ?_
  by_cases hk : k ∈ e.tab.slots.map (·.1)
  · exact if_pos hk
  · have hnone : Tab.get Slot.empty e.tab.slots k = Slot.empty := by
      unfold Tab.get
      rw [Tab.find?_eq_none_iff.2 hk]
      rfl
    rw [if_neg hk, hnone]
    rfl

/-- No greeting is being recorded. -/
def Engine.unstaged (e : Engine) : Prop := ∀ k x, Tab.find? e.tab.slots k = some x → x.staged = none

theorem clearStagings_unstaged {e : Engine} (h : e.HeldNamed) : e.clearStagings.HeldNamed ∧ e.clearStagings.unstaged := by
  have hslots := clearStagings_slots h.rise.2.1
  have hwithin := clearStagings_within e
  have hrecords : e.clearStagings.tab.records = e.tab.records := hwithin.keeps .records rfl
  have hbodies : e.clearStagings.tab.bodies = e.tab.bodies := hwithin.keeps .bodies rfl
  have hbody : ∀ b, e.clearStagings.body b = e.body b := fun b => by rw [Engine.body, hbodies, Engine.body]
  have hrise : e.clearStagings.namingRise := foldl_kept (P := Engine.namingRise) (fun g _ h => ite_kept (put_namingRise _ g h) h) _ h.rise
  refine ⟨⟨hrise, fun r y hy => ?_, fun k x b hx hb => ?_⟩, fun k x hx => ?_⟩
  · rw [hbody]
    exact h.records r y (by rw [← record_congr hrecords]; exact hy)
  · rw [hbody]
    have hget := hslots k
    rw [get_of_find? hx] at hget
    cases hf : Tab.find? e.tab.slots k with
    | none =>
      unfold Tab.get at hget
      rw [hf] at hget
      rw [hget] at hb
      exact absurd hb nofun
    | some y =>
      rw [get_of_find? hf] at hget
      rw [hget] at hb
      exact h.slots k y b hf hb
  · have hget := hslots k
    rw [get_of_find? hx] at hget
    rw [hget]

/-! ## The shares counted (R112) -/

theorem sharers_unstaged {e : Engine} (hrise : Tab.risingFrom none e.tab.slots = true) (h : e.unstaged) (b : Nat) : e.sharers b = e.holders b := by
  have hzero : e.tab.slots.filter (fun x => decide (x.2.staged = some b)) = [] := List.filter_eq_nil_iff.2 fun x hx => by
    rw [h x.1 x.2 (Tab.find?_of_mem hrise x hx)]
    simp
  unfold Engine.sharers Engine.holders
  rw [hzero]
  rfl

theorem holders_within {e g : Engine} {ps : List Part} (k : Engine.Within ps e g) (hps : partsApart [.records, .greetings] ps = true) (b : Nat) :
    g.holders b = e.holders b := by
  have hrecords : g.tab.records = e.tab.records := k.same State.reset .records (not_mem_of_partsApart hps (by simp))
  have hslots : g.tab.slots = e.tab.slots := k.same State.reset .greetings (not_mem_of_partsApart hps (by simp))
  rw [Engine.holders, hrecords, hslots, Engine.holders]

theorem fitShare_body (b : Nat) (e : Engine) (c : Nat) : (e.fitShare b).body c = if c = b then (e.body b).map (fun x => { x with share := e.holders b }) else e.body c := by
  unfold Engine.fitShare
  cases hb : e.body b with
  | none =>
    dsimp only
    by_cases hc : c = b
    · rw [if_pos hc, hc, hb]
      rfl
    · rw [if_neg hc]
  | some x =>
    dsimp only
    split
    · next hs =>
      by_cases hc : c = b
      · rw [if_pos hc, hc, hb, Option.map_some, ← hs]
      · rw [if_neg hc]
    · rw [body_putBody]
      by_cases hc : c = b
      · rw [if_pos hc, if_pos hc]
        rfl
      · rw [if_neg hc, if_neg hc]

theorem fitShare_heldNamed {e : Engine} (b : Nat) (h : e.HeldNamed) : (e.fitShare b).HeldNamed := by
  unfold Engine.fitShare
  split
  · exact h
  · exact ite_kept h (h.putBody b _)

theorem fitShares_none : ∀ (bs : List Nat) {e : Engine} {c : Nat}, e.body c = none → (bs.foldl (fun e b => e.fitShare b) e).body c = none
  | [], _, _, h => h
  | b :: bs, e, c, h => by
    refine fitShares_none bs ?_
    rw [fitShare_body]
    split
    · next hc =>
      rw [← hc, h]
      rfl
    · exact h

theorem fitShares_body : ∀ (bs : List Nat) (e : Engine) (c : Nat) (x : Body), (bs.foldl (fun e b => e.fitShare b) e).body c = some x → (c ∈ bs ∨ ∃ y, e.body c = some y ∧ y.share = e.holders c) →
    x.share = e.holders c
  | [], e, c, x, hx, hc => by
    obtain ⟨y, hy, hs⟩ := hc.resolve_left nofun
    rw [← Option.some.inj (hy.symm.trans hx), hs]
  | b :: bs, e, c, x, hx, hc => by
    have hholders : (e.fitShare b).holders c = e.holders c := holders_within (fitShare_within e b) rfl c
    have hrest := fitShares_body bs (e.fitShare b) c x hx
    rw [hholders] at hrest
    refine hrest ?_
    by_cases hcb : c = b
    · subst hcb
      by_cases hin : c ∈ bs
      · exact .inl hin
      · have hbody := fitShare_body c e c
        rw [if_pos rfl] at hbody
        cases hb : e.body c with
        | none =>
          rw [hb] at hbody
          exact absurd ((fitShares_none bs hbody).symm.trans hx) nofun
        | some y =>
          rw [hb] at hbody
          exact .inr ⟨_, hbody, rfl⟩
    · refine hc.imp (fun hm => (List.mem_cons.1 hm).resolve_left hcb) (fun hy => ?_)
      rw [fitShare_body, if_neg hcb]
      exact hy

/-- The bodies reconciled, the stagings let go and the shares counted: every share count is the number of holders. -/
theorem reconciled_shares {e : Engine} (h : e.HeldNamed) (hq : e.dle.queue = []) : e.reconciled.SharesOwed noneOwed ∧ e.reconciled.dle.queue = [] := by
  have hdle : e.reconciled.dle = e.dle := (reconciled_within e).keeps .dle rfl
  have hqueue : e.reconciled.dle.queue = [] := by rw [hdle, hq]
  refine ⟨?_, hqueue⟩
  unfold Engine.reconciled
  extract_lets e3
  obtain ⟨h3, hunstaged⟩ := clearStagings_unstaged (foldl_kept (P := Engine.HeldNamed) (fun _ b h => reconcile_heldNamed h b) e.bodiesInUse h)
  have h4 := foldl_kept (P := Engine.HeldNamed) (fun _ b h => fitShare_heldNamed b h) e3.bodiesInUse h3
  have hwithin : Engine.Within [.bodies, .writes] e3 (e3.bodiesInUse.foldl (fun e b => e.fitShare b) e3) := .foldl (fun e b => fitShare_within e b) _ e3
  have hshare := fitShares_body e3.bodiesInUse e3
  have hnone := fun c (hc : e3.body c = none) => fitShares_none e3.bodiesInUse hc
  have hnojob : (e3.bodiesInUse.foldl (fun e b => e.fitShare b) e3).dle.queue = [] := hqueue
  generalize e3.bodiesInUse.foldl (fun e b => e.fitShare b) e3 = g at h4 hwithin hshare hnone hnojob
  have hslots : g.tab.slots = e3.tab.slots := hwithin.keeps .greetings rfl
  have hsharers : ∀ b, g.sharers b = g.holders b := sharers_unstaged h4.rise.2.1 (fun k x hx => hunstaged k x (by rw [← hslots]; exact hx))
  refine ⟨h4.rise, fun b x hx => ?_, fun b hb => ?_, fun j hj => absurd hj (by rw [hnojob]; exact List.not_mem_nil)⟩
  · rw [hsharers, holders_within hwithin rfl]
    refine hshare b x hx (.inl ?_)
    by_contra hc
    exact absurd ((hnone b (Tab.find?_eq_none_iff.2 hc)).symm.trans hx) nofun
  · rw [hsharers] at hb
    unfold Engine.holders at hb
    rcases Nat.add_pos_iff_pos_or_pos.1 hb with hb | hb
    · obtain ⟨x, hx⟩ := List.exists_mem_of_length_pos hb
      obtain ⟨hmem, hxb⟩ := List.mem_filter.1 hx
      have := h4.records x.1 x.2 (Tab.find?_of_mem h4.rise.1 x hmem)
      rwa [of_decide_eq_true hxb] at this
    · obtain ⟨x, hx⟩ := List.exists_mem_of_length_pos hb
      obtain ⟨hmem, hxb⟩ := List.mem_filter.1 hx
      exact h4.slots x.1 x.2 b (Tab.find?_of_mem h4.rise.2.1 x hmem) (of_decide_eq_true hxb)

/-! ## The bodies without a share released (R95) -/

/-- A body that nothing names, written free where no job waits. -/
theorem dropBody_shares {e : Engine} (h : e.SharesOwed noneOwed) (hq : e.dle.queue = []) {b : Nat} {f : BodyHold → BodyHold} (hz : e.sharers b = 0) :
    ((e.put (.body b none)).modHold b f).SharesOwed noneOwed := by
  have hbody : ∀ c, ((e.put (.body b none)).modHold b f).body c = if c = b then none else e.body c := body_putBody e b none
  refine ⟨⟨h.rise.1, h.rise.2.1, putBody_bodiesRise h.rise.2.2⟩, fun c x hx => ?_, fun c hc => ?_, fun j hj => ?_⟩
  · rw [hbody] at hx
    split at hx
    · exact absurd hx nofun
    · exact h.share c x hx
  · have hcb : c ≠ b := fun k => by
      rw [k] at hc
      exact absurd hz (Nat.pos_iff_ne_zero.1 hc)
    rw [hbody, if_neg hcb]
    exact h.named c hc
  · have hj' : j ∈ e.dle.queue := hj
    rw [hq] at hj'
    exact absurd hj' List.not_mem_nil

theorem releaseAtStart_shares {e : Engine} (b : Nat) (h : e.SharesOwed noneOwed ∧ e.dle.queue = []) :
    (e.releaseAtStart b).SharesOwed noneOwed ∧ (e.releaseAtStart b).dle.queue = [] := by
  obtain ⟨h, hq⟩ := h
  have hdle : (e.releaseAtStart b).dle = e.dle := (releaseAtStart_within e b).keeps .dle rfl
  refine ⟨?_, by rw [hdle, hq]⟩
  unfold Engine.releaseAtStart
  split
  · exact h
  · next x hx =>
    split
    · exact h
    · next hs =>
      have hzero : e.sharers b = 0 := (Nat.add_eq_zero_iff.1 ((h.share b x hx).symm.trans (not_not.1 hs))).1
      have hdirty : (e.makeAllDirty (e.reached b)).SharesOwed noneOwed := h.within (makeAllDirty_within _ _) rfl
      have hdle' : (e.makeAllDirty (e.reached b)).dle = e.dle := (makeAllDirty_within e (e.reached b)).keeps .dle rfl
      have hsharers : (e.makeAllDirty (e.reached b)).sharers b = 0 := by
        rw [← hzero]
        unfold Engine.sharers
        rw [(makeAllDirty_within e (e.reached b)).keeps .records rfl, (makeAllDirty_within e (e.reached b)).keeps .greetings rfl]
      refine (dropBody_shares hdirty (by rw [hdle', hq]) hsharers).within (modReport_within _ _) rfl

theorem checkSteps_shares {e : Engine} (h : e.HeldNamed) (hq : e.dle.queue = []) : e.checkSteps.SharesOwed noneOwed := by
  rw [checkSteps_eq]
  have hrepaired : e.repaired.dle = e.dle := by
    have hwalk : Engine.Within (.settings :: .lists :: .members :: walkParts) e e.clampSettings.walk.repairLists :=
      (((clampSettings_within e).mono rfl).trans ((walk_within _).mono rfl)).trans ((repairLists_within _).mono rfl)
    have hlate : Engine.Within [.records, .mailboxes, .writes, .holds, .counters] e.clampSettings.walk.repairLists e.repaired :=
      (((repairBoxes_within _ _).mono rfl).step (openExtents_within _) rfl).step (recount_within _) rfl
    exact Eq.trans (hlate.keeps .dle rfl) (hwalk.keeps .dle rfl)
  obtain ⟨hshares, hqueue⟩ := reconciled_shares (repaired_heldNamed h) (by rw [hrepaired, hq])
  exact (foldl_kept (P := fun g : Engine => g.SharesOwed noneOwed ∧ g.dle.queue = []) (fun _ b h => releaseAtStart_shares b h) _ ⟨hshares, hqueue⟩).1

theorem closed_heldNamed {c : Catalogue} (h : c.closed) {e : Engine} (ht : e.tab = c) : e.HeldNamed := by
  subst ht
  obtain ⟨hr, hs, hb, -, hrecords, hslots⟩ := h
  exact ⟨⟨hr, hs, hb⟩, fun r y hy => (hrecords r y hy).2, hslots⟩

theorem storeCheck_shares (cause : StartCause) (x : Selects) {e : Engine} (hclosed : e.cat.closed) (ht : e.tab = e.cat) (hq : e.dle.queue = []) (hw : ¬ e.walked) :
    (e.storeCheck cause x).walked → (e.storeCheck cause x).SharesOwed noneOwed := by
  refine storeCheck_runs (P := fun g => g.walked → g.SharesOwed noneOwed) cause x (fun k => absurd k hw) (fun e1 hwithin _ => ?_)
  have h1 : (e1.fitMap (countSelects x)).HeldNamed := fitMap_heldNamed _ ((closed_heldNamed hclosed ht).within hwithin rfl)
  have hdle : (e1.fitMap (countSelects x)).dle.queue = [] := by
    rw [show (e1.fitMap (countSelects x)).dle = e1.dle from
      fitMap_kept (P := fun g : Engine => g.dle = e1.dle) (fun _ _ h => h) _ rfl, show e1.dle = e.dle from hwithin.keeps .dle rfl, hq]
  have hshares := checkSteps_shares h1 hdle
  generalize (e1.fitMap (countSelects x)).checkSteps = g at hshares
  exact hshares.within (checkEnd_within e.lmp g) rfl

/-- Every step but a reset over a catalogue memory that is not closed keeps the shares true. -/
theorem step_shared {s t : State} (h : s.eng.shared) (hsafe : s.safeNext) (hst : step s = .next t) : t.eng.shared := by
  refine (shared_iff _).2 (reset_step shares_worked ((shared_iff _).1 h) (fun hw => absurd hw (fun hw => hw.elim nofun (fun h => h rfl)))
    (fun hnext cause x => ?_) hst)
  obtain ⟨c, hcmd, hr⟩ := hnext
  exact storeCheck_shares cause x (hsafe c hcmd hr) rfl rfl (reset_not_walked _ _)

/-- Settles O35, part by part: the pool, the counters, the lists and the shares. -/
theorem everyStepKeepsThePoolTheListsAndTheSharesTrue : Obligations.EveryStepKeepsThePoolTheListsAndTheSharesTrue := by
  have hnot : ¬ State.reset.eng.walked := reset_not_walked _ _
  exact ⟨⟨⟨rfl, fun hw => absurd hw hnot⟩, ⟨rfl, fun hw => absurd hw hnot⟩, fun hw => absurd hw hnot, fun hw => absurd hw hnot⟩, fun _ _ => step_pooled,
    fun _ _ => step_counted, fun _ _ => step_listed, fun _ _ => step_shared⟩

end Sys2Proof.Machine

namespace Sys2Proof.Machine

/-! Proofs about sections 4.6 to 4.8: power-on and the entry to SERVICE (R87 to R93). -/

/-! ## Power-on (R88, R98) -/

/-- The engine of a store check as it begins, devices counted and the report opened. -/
def Engine.probed (cause : StartCause) (x : Selects) (e : Engine) : Engine :=
  (e.modSsc (fun c => { c with devices := countSelects x })).beginStart cause (e.fitClears (countSelects x))

theorem storeCheck_probed (cause : StartCause) (x : Selects) (e : Engine) (hc : countSelects x ≠ 0) :
    e.storeCheck cause x = { ((((e.probed cause x).fitMap (countSelects x)).checkSteps).flush .nothing) with lmp := e.lmp } := by
  unfold Engine.storeCheck
  dsimp only
  rw [if_neg hc]
  rfl

/-- The report of a start under way is of a cause, with its content cleared or not. -/
def Engine.reports (cause : StartCause) (cleared : Bool) (e : Engine) : Prop := ∃ p, e.ssc.start = some p ∧ p.cause = cause ∧ p.cleared = cleared

section Reports
variable {cause : StartCause} {cleared : Bool} {e : Engine} (h : e.reports cause cleared)
include h

theorem reports_within {g : Engine} {ps : List Part} (k : Engine.Within ps e g) (hps : decide (Part.service ∈ ps) = false) : g.reports cause cleared := by
  obtain ⟨-, -, hstart⟩ : _ ∧ _ ∧ g.ssc.start = e.ssc.start := k.keeps .service hps
  obtain ⟨p, hp, hrest⟩ := h
  exact ⟨p, hstart.trans hp, hrest⟩

theorem reports_modReport {f : StartReport → StartReport} (hf : ∀ p, (f p).cause = p.cause ∧ (f p).cleared = p.cleared) : (e.modReport f).reports cause cleared := by
  obtain ⟨p, hp, hcause, hcleared⟩ := h
  refine ⟨f p, ?_, (hf p).1.trans hcause, (hf p).2.trans hcleared⟩
  show e.ssc.start.map f = _
  rw [hp]
  rfl

theorem reconcile_reports (b : Nat) : (e.reconcile b).reports cause cleared := by
  unfold Engine.reconcile
  split
  · refine ite_kept (P := Engine.reports cause cleared) (reports_within h (recordSealed_within _ _ _) rfl) (ite_kept (P := Engine.reports cause cleared) ?_ ?_)
    · refine reports_modReport ?_ (fun _ => ⟨rfl, rfl⟩)
      exact reports_within (reports_within h (sealBody_within _ _ _ _) rfl) (recordSealed_within _ _ _) rfl
    · refine reports_modReport ?_ (fun _ => ⟨rfl, rfl⟩)
      exact reports_within (reports_within (reports_within h (detachRecord_within _ _ _) rfl) (modShare_within _ _ _) rfl) (handInputs_within _ _) rfl
  · exact h

theorem releaseAtStart_reports (b : Nat) : (e.releaseAtStart b).reports cause cleared := by
  unfold Engine.releaseAtStart
  split
  · exact h
  · refine ite_kept (P := Engine.reports cause cleared) h (reports_modReport ?_ (fun _ => ⟨rfl, rfl⟩))
    exact reports_within (reports_within (reports_within h (makeAllDirty_within _ _) rfl) (put_within _ _) rfl) (modHold_within _ _ _) rfl

theorem checkSteps_reports : e.checkSteps.reports cause cleared := by
  have hrepaired : Engine.Within [.settings, .lists, .members, .segments, .writes, .pool, .outbox, .flags, .bodies, .records, .mailboxes, .holds, .counters]
      e e.repaired :=
    (((((clampSettings_within e).mono rfl).trans ((walk_within _).mono rfl)).trans ((repairLists_within _).mono rfl)).trans
      ((repairBoxes_within _ _).mono rfl)).trans ((((openExtents_within _).mono (qs := [.holds, .counters]) rfl).step (recount_within _) rfl).mono rfl)
  rw [checkSteps_eq]
  refine foldl_kept (P := Engine.reports cause cleared) (fun _ b h => releaseAtStart_reports h b) _ ?_
  have h1 := foldl_kept (P := Engine.reports cause cleared) (fun _ b h => reconcile_reports h b) e.repaired.bodiesInUse (reports_within h hrepaired rfl)
  have h2 := reports_within h1 (clearStagings_within _) rfl
  exact foldl_kept (P := Engine.reports cause cleared) (fun _ b h => reports_within h (fitShare_within _ b) rfl) _ h2

end Reports

theorem fitMap_signature (c : Nat) (e : Engine) : (e.fitMap c).tab.signature = some c := by
  unfold Engine.fitMap
  split
  · rfl
  · next n hn =>
    split
    · rfl
    · split
      · rfl
      · next h1 h2 => rw [hn, Nat.le_antisymm (Nat.not_lt.1 h2) (Nat.not_lt.1 h1)]

/-- What the flush of a check leaves: the check's tables, and its writes as one sequence. -/
theorem flushed_after_check {a g t : Engine} {l : Lmp} (h : Engine.Checks a g) (hs : a.ssc.service = .starting) (hm : a.mgc = Mgc.reset)
    (hq : a.catQueue = []) (ht : t = { g.flush .nothing with lmp := l }) :
    t.tab = g.tab ∧ t.ssc = g.ssc ∧ t.holds = g.holds ∧ t.counters = g.counters ∧
      t.catQueue = (if g.asked = [] then [] else [{ writes := g.asked, after := .nothing }]) := by
  have hlive : g.halted = false := by
    rw [Engine.halted, h.service, h.mgc, hs, hm]
    rfl
  have hqueue : g.catQueue = [] := h.queue.trans hq
  subst ht
  refine ⟨flush_tab _ _, flush_ssc _ _, (flush_within g .nothing).keeps .holds rfl, (flush_within g .nothing).keeps .counters rfl, ?_⟩
  show (g.flush .nothing).catQueue = _
  unfold Engine.flush
  by_cases ha : g.asked = []
  · rw [if_pos ha, if_pos ha, hqueue]
  · rw [if_neg ha, if_neg ha, hlive]
    show g.catQueue ++ _ = _
    rw [hqueue]
    rfl

theorem checkSteps_signature (e : Engine) : e.checkSteps.tab.signature = e.tab.signature := by
  have h := checkSteps_within e
  generalize e.checkSteps = g at h
  exact h.keeps .signature rfl

/-- A fit of the map and the steps of the check, from an engine that begins a check. -/
theorem fitMap_checkSteps {cause : StartCause} {cleared : Bool} {a g : Engine} (c : Nat) (hs : a.ssc.service = .starting) (hn : a.sessions = [])
    (ha : a.reports cause cleared) (hg : (a.fitMap c).checkSteps = g) :
    Engine.Checks a g ∧ g.tab.signature = some c ∧ g.reports cause cleared := by
  have hfit := fitMap_checks c a hs hn
  have hsteps := checkSteps_checks (a.fitMap c) (hfit.service.trans hs) (hfit.sessions.trans hn)
  have hreports : (a.fitMap c).reports cause cleared :=
    fitMap_kept (P := Engine.reports cause cleared) (fun w e h => reports_within h (put_within e w) (by cases w <;> rfl)) c ha
  have hsig := checkSteps_signature (a.fitMap c)
  have hreported := checkSteps_reports hreports
  rw [fitMap_signature] at hsig
  rw [hg] at hsig hsteps hreported
  exact ⟨hfit.trans hsteps, hsig, hreported⟩

/-- POWER_ON with a device counted (R88 to R95). -/
theorem powerOn_checked (s : State) {x : Selects} (hc : countSelects x ≠ 0) {g : Engine}
    (hg : (((Engine.reset s.eng.cat s.eng.ssc.flash).probed .powerOn x).fitMap (countSelects x)).checkSteps = g) {t : Engine}
    (ht : t = (Engine.reset s.eng.cat s.eng.ssc.flash).storeCheck .powerOn x) :
    t.tab = g.tab ∧ t.tab.signature = some (countSelects x) ∧ t.ssc = g.ssc ∧ t.holds = g.holds ∧ t.counters = g.counters ∧
      t.catQueue = (if g.asked = [] then [] else [{ writes := g.asked, after := .nothing }]) ∧
      t.reports .powerOn (s.eng.cat.signature.all (fun n => decide (countSelects x < n))) := by
  obtain ⟨hchecks, hsig, hreports⟩ := fitMap_checkSteps (cause := .powerOn)
    (cleared := s.eng.cat.signature.all (fun n => decide (countSelects x < n))) (countSelects x) rfl rfl ⟨_, rfl, rfl, rfl⟩ hg
  rw [storeCheck_probed _ _ _ hc, hg] at ht
  obtain ⟨htab, hssc, hholds, hcounters, hqueue⟩ := flushed_after_check hchecks rfl rfl rfl ht
  refine ⟨htab, htab ▸ hsig, hssc, hholds, hcounters, hqueue, ?_⟩
  obtain ⟨p, hstart, hrest⟩ := hreports
  exact ⟨p, by rw [hssc, hstart], hrest⟩

end Sys2Proof.Machine

namespace Sys2Proof.Machine

/-! Proofs about section 4.6: the entry to SERVICE (R87, R93, R139). -/

/-! ## The lamp unit's references and patterns through the handing of lamp inputs (R166, R167, R171) -/

theorem examine_refs (a b : Nat) (l : Lmp) : ((l.examine a).entry b).refs = (l.entry b).refs := by
  rw [Lmp.acts_examine.entry a l b]
  split
  · next h => rw [h]
  · rfl

theorem examine_patterns (a : Nat) (l : Lmp) : (l.examine a).patterns = l.patterns := by
  rw [Lmp.acts_examine.rest a l]

theorem modCount_refs (p : Pattern) (f : Nat → Nat) (x : LampEntry) : (x.modCount p f).refs = x.refs := by
  cases p <;> rfl

theorem move_refs (old new : Pattern) (a b : Nat) (l : Lmp) : ((l.move old new a).entry b).refs = (l.entry b).refs := by
  refine (examine_refs a b _).trans ?_
  rw [lampEntry_modEntry]
  split
  · next h => rw [h, modCount_refs, modCount_refs]
  · rfl

theorem move_patterns (old new : Pattern) (a : Nat) (l : Lmp) : (l.move old new a).patterns = l.patterns := examine_patterns a _

/-- A field of the lamp unit that an operation at an address keeps, through the operation at each of several. -/
theorem lamps_kept {α : Type} {field : Lmp → α} {op : Lmp → Nat → Lmp} (h : ∀ l a, field (op l a) = field l) :
    ∀ (as : List Nat) (l : Lmp), field (as.foldl op l) = field l
  | [], _ => rfl
  | a :: as, l => (lamps_kept h as (op l a)).trans (h l a)

theorem moved_patterns (m : Nat) (old new : Pattern) (as : List Nat) (l : Lmp) : (l.moved m old new as).patterns = Tab.set Pattern.off m new l.patterns := by
  unfold Lmp.moved
  rw [lamps_kept (field := Lmp.patterns) (fun l a => move_patterns old new a l) as l]

theorem handInputs_refs (m b : Nat) (e : Engine) : ((e.handInputs m).lamp b).refs = (e.lamp b).refs := by
  cases hm : e.mailbox m with
  | none => rw [handInputs_none (.inl hm)]
  | some x =>
    by_cases hf : e.ssc.service = .frozen
    · rw [handInputs_none (.inr hf)]
    · rw [handInputs_eq hm hf]
      split
      · rfl
      · exact lamps_kept (field := fun l => (l.entry b).refs) (fun l a => move_refs _ _ a b l) x.fields.lamps e.lmp

theorem handAll_refs (b : Nat) : ∀ (ms : List Nat) (e : Engine), ((e.handAll ms).lamp b).refs = (e.lamp b).refs
  | [], _ => rfl
  | m :: ms, e => (handAll_refs b ms (e.handInputs m)).trans (handInputs_refs m b e)

theorem handInputs_pattern {e : Engine} {m : Nat} {b : Mailbox} (hb : e.mailbox m = some b) (hf : e.ssc.service ≠ .frozen) (n : Nat) :
    Tab.get Pattern.off (e.handInputs n).lmp.patterns m = if m = n then e.inputPattern m b else Tab.get Pattern.off e.lmp.patterns m := by
  cases hn : e.mailbox n with
  | none =>
    have hne : m ≠ n := fun h => by rw [h, hn] at hb; exact nomatch hb
    rw [handInputs_none (.inl hn), if_neg hne]
  | some x =>
    rw [handInputs_eq hn hf]
    split
    · next hsame =>
      split
      · next h =>
        subst h
        rw [hb] at hn
        cases hn
        exact hsame
      · rfl
    · show Tab.get Pattern.off (e.lmp.moved n _ (e.inputPattern n x) x.fields.lamps).patterns m = _
      rw [moved_patterns, Tab.get_set]
      split
      · next h =>
        subst h
        rw [hb] at hn
        cases hn
        rfl
      · rfl

/-- What the pattern of a mailbox is computed from stands while lamp inputs are handed. -/
theorem handInputs_reads (n m : Nat) (b : Mailbox) (e : Engine) : (e.handInputs n).mailbox m = e.mailbox m ∧
    (e.handInputs n).ssc.service = e.ssc.service ∧ (e.handInputs n).inputPattern m b = e.inputPattern m b := by
  unfold Engine.handInputs
  split
  · exact ⟨rfl, rfl, rfl⟩
  · split
    · exact ⟨rfl, rfl, rfl⟩
    · dsimp only
      split <;> exact ⟨rfl, rfl, rfl⟩

theorem handAll_pattern {m : Nat} {b : Mailbox} : ∀ {ms : List Nat} {e : Engine}, e.mailbox m = some b → e.ssc.service ≠ .frozen →
    Tab.get Pattern.off (e.handAll ms).lmp.patterns m = if m ∈ ms then e.inputPattern m b else Tab.get Pattern.off e.lmp.patterns m
  | [], _, _, _ => rfl
  | n :: ms, e, hb, hf => by
    obtain ⟨hbox, hservice, hpattern⟩ := handInputs_reads n m b e
    refine (handAll_pattern (ms := ms) (hbox.trans hb) (hservice.symm ▸ hf)).trans ?_
    rw [hpattern, handInputs_pattern hb hf n]
    by_cases hmem : m ∈ ms
    · rw [if_pos hmem, if_pos (List.mem_cons_of_mem _ hmem)]
    · by_cases hmn : m = n
      · rw [if_neg hmem, if_pos hmn, if_pos (by simp [hmn])]
      · rw [if_neg hmem, if_neg hmn, if_neg (by simp [hmn, hmem])]

/-! ## The references and the inputs that end a check (R93, R139, R185) -/

theorem refs_counted (b : Nat) : ∀ (as : List Nat) (l : Lmp),
    ((as.foldl (fun l a => l.modEntry a (fun x => { x with refs := x.refs + 1 })) l).entry b).refs = (l.entry b).refs + as.count b
  | [], _ => rfl
  | a :: as, l => by
    rw [List.foldl_cons, refs_counted b as, lampEntry_modEntry, List.count_cons]
    by_cases h : b = a
    · subst h
      simp
      omega
    · simp [h, Ne.symm h]

theorem patterns_counted (as : List Nat) (l : Lmp) : (as.foldl (fun l a => l.modEntry a (fun x => { x with refs := x.refs + 1 })) l).patterns = l.patterns :=
  lamps_kept (field := Lmp.patterns)
    (op := fun l a => l.modEntry a (fun x => { x with refs := x.refs + 1 })) (fun _ _ => rfl) as l

theorem handAtStart_refs (e : Engine) (b : Nat) : (e.handAtStart.lamp b).refs =
    (e.lamp b).refs + (e.tab.mailboxes.flatMap (fun x => x.2.fields.lamps)).count b := by
  unfold Engine.handAtStart
  extract_lets e1 used
  have hexamined : ((e1.modLmp (fun l => used.foldl (fun l a => l.examine a) l)).lamp b).refs = (e1.lamp b).refs :=
    lamps_kept (field := fun l => (l.entry b).refs) (fun l a => examine_refs a b l) used e1.lmp
  calc _ = (e1.lamp b).refs := hexamined
    _ = (e.countLamps.lamp b).refs := handAll_refs b _ _
    _ = _ := refs_counted b _ _

theorem handAtStart_pattern {e : Engine} {m : Nat} {b : Mailbox} (hb : e.mailbox m = some b) (hf : e.ssc.service ≠ .frozen) :
    Tab.get Pattern.off e.handAtStart.lmp.patterns m = e.inputPattern m b := by
  have hmem : m ∈ e.loadedBoxes := by
    refine Decidable.by_contra fun h => ?_
    rw [Engine.mailbox, Tab.find?_eq_none_iff.2 h] at hb
    exact nomatch hb
  have hhanded := handAll_pattern (ms := e.loadedBoxes) (e := e.countLamps) hb hf
  unfold Engine.handAtStart
  extract_lets e1 used
  have hexamined : (e1.modLmp (fun l => used.foldl (fun l a => l.examine a) l)).lmp.patterns = e1.lmp.patterns :=
    lamps_kept (field := Lmp.patterns) (fun l a => examine_patterns a l) used e1.lmp
  rw [hexamined]
  exact hhanded.trans (if_pos hmem)

theorem handAtStart_within (e : Engine) : Engine.Within [.lmp] e e.handAtStart := by
  unfold Engine.handAtStart Engine.countLamps
  exact ((((modLmp_within e _).trans (handAll_within _ _)).mono rfl).trans (modLmp_within _ _)).mono rfl

end Sys2Proof.Machine

namespace Sys2Proof.Machine

/-! Proofs about section 4.6: the entry to SERVICE (R87). -/

theorem enterService_idle {e : Engine} (h : e.ssc.start = none ∨ e.ssc.service ≠ .starting ∨ e.catQueue ≠ []) : e.enterService = e := by
  unfold Engine.enterService
  split
  · rfl
  · next p hp =>
    refine if_pos ?_
    rcases h with h | h | h
    · rw [hp] at h
      exact nomatch h
    · simp [h]
    · simp [h]

/-- The engine that the entry to SERVICE examines the pool of. -/
def Engine.entered (p : StartReport) (e : Engine) : Engine :=
  ((if p.cause = .format then e else e.handAtStart).modSsc (fun c => { c with service := .service, start := none })).raiseStartDone p

theorem enterService_ready {e : Engine} {p : StartReport} (hp : e.ssc.start = some p) (hs : e.ssc.service = .starting) (hq : e.catQueue = []) :
    e.enterService = (e.entered p).examinePool := by
  unfold Engine.enterService
  rw [hp]
  exact if_neg (by simp [hs, hq])

theorem entered_within (p : StartReport) (e : Engine) : Engine.Within [.service, .lmp, .outbox, .flags] e (e.entered p) := by
  have hhanded : Engine.Within [.lmp] e (if p.cause = .format then e else e.handAtStart) := .ite (.refl _ _) (handAtStart_within e)
  have hservice : ∀ g : Engine, Engine.Within [.service] g (g.modSsc (fun c => { c with service := .service, start := none })) := fun g s =>
    ⟨rfl, fun q hq => by
      cases q
      case service => exact absurd (.head _) hq
      all_goals simp [State.samePart]⟩
  exact ((hhanded.mono (qs := [.service, .lmp, .outbox, .flags]) rfl).step (hservice _) rfl).step (raise_within _ _ _) rfl

theorem startNext_moves (e : Engine) : Engine.Within [.storeQueues, .link] e e.startNext ∧ e.startNext.ssc.poolLow = e.ssc.poolLow ∧
    e.startNext.ssc.service = e.ssc.service ∧ e.startNext.ssc.start = e.ssc.start := by
  have herase : Engine.Within [.storeQueues, .link] e e.startErase ∧ e.startErase.ssc.poolLow = e.ssc.poolLow ∧
      e.startErase.ssc.service = e.ssc.service ∧ e.startErase.ssc.start = e.ssc.start := by
    refine ⟨(startErase_within e).mono rfl, ?_⟩
    unfold Engine.startErase
    split <;> exact ⟨rfl, rfl, rfl⟩
  have hread : Engine.Within [.storeQueues, .link] e e.startRead ∧ e.startRead.ssc.poolLow = e.ssc.poolLow ∧
      e.startRead.ssc.service = e.ssc.service ∧ e.startRead.ssc.start = e.ssc.start := by
    unfold Engine.startRead
    split
    · exact ⟨.refl _ _, rfl, rfl, rfl⟩
    · refine ⟨fun s => ⟨rfl, fun q hq => ?_⟩, rfl, rfl, rfl⟩
      cases q
      case storeQueues | link => exact absurd (by simp) hq
      all_goals simp [State.samePart]
  unfold Engine.startNext
  split
  · exact ⟨.refl _ _, rfl, rfl, rfl⟩
  · split
    · exact hread
    · split
      · exact herase
      · exact ⟨.refl _ _, rfl, rfl, rfl⟩

/-- The step that enters SERVICE settles to a free link's next operation alone. -/
theorem exec_enterService {s : State} {p : StartReport} (hc : s.calm) (hp : s.eng.ssc.start = some p) (hs : s.eng.ssc.service = .starting)
    (hq : s.eng.catQueue = []) (hprog : s.eng.ssc.progQueue = []) :
    exec .enterService s = .next { s with eng := (s.eng.entered p).examinePool.startNext } := by
  have hentered := ((entered_within p s.eng).mono (qs := [.service, .pool, .lmp, .outbox, .flags]) rfl).step (examinePool_within (s.eng.entered p)) rfl
  show Host.Outcome.next (s.onEng Engine.enterService).finish = _
  rw [show s.onEng Engine.enterService = { s with eng := (s.eng.entered p).examinePool } by
    rw [← enterService_ready hp hs hq]
    rfl]
  generalize (s.eng.entered p).examinePool = g at hentered
  obtain ⟨-, hin, -, -⟩ := hentered.keeps .channel rfl
  have hasked : g.asked = s.eng.asked := (hentered.keeps .writes rfl).2
  have hdle : g.dle = s.eng.dle := hentered.keeps .dle rfl
  have hqueue : g.ssc.progQueue = s.eng.ssc.progQueue := (hentered.keeps .storeQueues rfl).2
  obtain ⟨⟨hnone, hdue, -⟩, hempty⟩ := hc
  refine congrArg _ ((finish_settle (s := { s with eng := g }) (hin.trans hempty)).trans ?_)
  show ({ s with eng := g.settle } : State) = _
  rw [settle_quiet (hdle.symm ▸ hdue) (.inr (hqueue.trans hprog)), flush_none (hasked.trans hnone)]

/-- ENTER_SERVICE at the end of a check or a FORMAT (R87, R93, R139). -/
theorem enterService_enters {s : State} {p : StartReport} (hc : s.calm) (hp : s.eng.ssc.start = some p) (hs : s.eng.ssc.service = .starting)
    (hq : s.eng.catQueue = []) (hprog : s.eng.ssc.progQueue = []) : ∃ t, exec .enterService s = .next t ∧
      t.eng.ssc.service = .service ∧ t.eng.ssc.start = none ∧ t.flagged .startDone ∧
      (s.eng.ssc.poolLow = false → (t.eng.ssc.poolLow = true ↔ s.eng.available < s.eng.tab.settings.poolReserve)) ∧
      t.eng.lmp = (if p.cause = .format then s.eng else s.eng.handAtStart).lmp ∧
      s.keepsBut [.service, .pool, .storeQueues, .link, .lmp, .outbox, .flags] t := by
  have hpool : (s.eng.entered p).examinePool.ssc = { (s.eng.entered p).ssc with poolLow := (s.eng.entered p).examinePool.ssc.poolLow } :=
    examinePool_ssc _
  have hlow := examinePool_poolLow (e := s.eng.entered p) rfl
  have hflag : (s.eng.entered p).examinePool.mgc.flags &&& NoticeKind.startDone.bit = NoticeKind.startDone.bit :=
    examinePool_flagged (raise_flagged _ _ _)
  have hexamined := examinePool_within (s.eng.entered p)
  have hentered := entered_within p s.eng
  obtain ⟨hfree, herase, hwas⟩ := hentered.keeps .pool rfl
  have hsettings : (s.eng.entered p).tab.settings = s.eng.tab.settings := hentered.keeps .settings rfl
  have hlmp : (s.eng.entered p).lmp = (if p.cause = .format then s.eng else s.eng.handAtStart).lmp := rfl
  have hstarted : (s.eng.entered p).ssc.service = .service ∧ (s.eng.entered p).ssc.start = none := ⟨rfl, rfl⟩
  have hexec := exec_enterService hc hp hs hq hprog
  generalize s.eng.entered p = e at *
  generalize e.examinePool = g at *
  obtain ⟨hnext, hnextLow, hnextService, hnextStart⟩ := startNext_moves g
  refine ⟨_, hexec, ?_, ?_, ?_, fun hnot => ?_, ?_, ?_⟩
  · exact hnextService.trans ((congrArg Ssc.service hpool).trans hstarted.1)
  · exact hnextStart.trans ((congrArg Ssc.start hpool).trans hstarted.2)
  · show g.startNext.mgc.flags &&& _ = _
    rw [show g.startNext.mgc.flags = g.mgc.flags from (hnext.keeps .flags rfl).1]
    exact hflag
  · show g.startNext.ssc.poolLow = true ↔ _
    rw [hnextLow, hlow, show e.ssc.poolLow = false from hwas.trans hnot, if_neg Bool.false_ne_true, decide_eq_true_iff, hsettings]
    show e.ssc.freeList.length + Run.total e.ssc.eraseQueue < _ ↔ _
    rw [show e.ssc.freeList = s.eng.ssc.freeList from hfree, show e.ssc.eraseQueue = s.eng.ssc.eraseQueue from herase]
    rfl
  · exact (hnext.keeps .lmp rfl).trans ((hexamined.keeps .lmp rfl).trans hlmp)
  · exact Engine.Within.keepsBut_of (((hentered.mono (qs := [.service, .pool, .storeQueues, .link, .lmp, .outbox, .flags])
      rfl).step hexamined rfl).step hnext rfl) rfl (.inr rfl) (.inr rfl) rfl

end Sys2Proof.Machine

namespace Sys2Proof.Machine

/-! Proofs about section 4.6: FORMAT (R96, R113, R140, R150). -/

/-! ## A list walked from its head (R123) -/

theorem listFrom_chained {e : Engine} {rs : List Nat} (h : ∀ before r after, rs = before ++ r :: after → ∃ y, e.record r = some y ∧ y.next = after.head?) :
    ∀ (after : List Nat) (before : List Nat) (n : Nat), rs = before ++ after → after.length ≤ n → e.listFrom n after.head? = after
  | [], _, 0, _, _ => rfl
  | [], _, _ + 1, _, _ => rfl
  | r :: after, before, n + 1, hsplit, hn => by
    obtain ⟨y, hy, hnext⟩ := h before r after hsplit
    rw [List.head?_cons, Engine.listFrom, hy, Option.bind_some, hnext,
      listFrom_chained h after (before ++ [r]) n (by rw [hsplit, List.append_assoc]; rfl) (Nat.le_of_succ_le_succ hn)]

/-- A mailbox's list, walked, is its records. -/
theorem boxList_of_hasList {e : Engine} {m : Nat} {rs : List Nat} (h : e.HasList m rs) : e.boxList m = rs := by
  obtain ⟨b, hb⟩ := Option.ne_none_iff_exists'.1 (endsOf_ne_none.1 (by rw [h.1.2.2]; exact nofun) : e.mailbox m ≠ none)
  obtain ⟨hn, hmem, hhead, -, hsplits⟩ := (hasList_linkedAs hb rs).1 h
  have hkeys : rs ⊆ e.tab.records.map (·.1) := fun r hr => by
    obtain ⟨y, hy, -⟩ := (hmem r).1 hr
    refine Decidable.by_contra fun hc => ?_
    rw [Engine.record, Tab.find?_eq_none_iff.2 hc] at hy
    exact nomatch hy
  have hlength : rs.length ≤ e.tab.records.length := (hn.subperm hkeys).length_le.trans (List.length_map _).le
  rw [Engine.boxList, hb, Option.bind_some, hhead]
  exact listFrom_chained (fun before r after hs => by
    obtain ⟨y, hy, -, hnext⟩ := hsplits before r after hs
    exact ⟨y, hy, hnext⟩) rs [] _ rfl hlength

/-! ## The records of every mailbox freed -/

theorem freeRecordQuietly_mailbox (e : Engine) (r q : Nat) :
    (e.freeRecordQuietly r).record q = none ∨ ((e.freeRecordQuietly r).record q).map (·.mailbox) = (e.record q).map (·.mailbox) := by
  unfold Engine.freeRecordQuietly
  split
  · exact .inr rfl
  · next x hx =>
    rw [record_congr ((dropShare_within _ _).keeps .records rfl) q, detachRecord_record, unlinkRecord_record]
    split
    · exact .inl rfl
    · refine .inr ?_
      rw [Option.map_map]
      rfl

theorem freeRecords_mailbox (q : Nat) : ∀ (rs : List Nat) (e : Engine), (rs.foldl (fun e r => e.freeRecordQuietly r) e).record q = none ∨
    ((rs.foldl (fun e r => e.freeRecordQuietly r) e).record q).map (·.mailbox) = (e.record q).map (·.mailbox)
  | [], _ => .inr rfl
  | r :: rs, e => by
    rw [List.foldl_cons]
    rcases freeRecordQuietly_mailbox e r q with h | h
    · exact .inl (freeRecords_free rs _ q (.inr h))
    · exact (freeRecords_mailbox q rs (e.freeRecordQuietly r)).imp id (fun k => k.trans h)

theorem freeBox_lists {e : Engine} (h : e.ListsTrue) (m : Nat) : (e.freeBox m).ListsTrue :=
  foldl_kept (P := Engine.ListsTrue) (fun _ r h => freeRecordQuietly_lists h r) _ h

/-- The records of the mailboxes named are freed. -/
theorem freeBoxes_free (r : Nat) : ∀ (ms : List Nat) (e : Engine), e.ListsTrue → (∀ y, e.record r = some y → y.mailbox ∈ ms) →
    (ms.foldl (fun e m => e.freeBox m) e).record r = none
  | [], e, _, h => Option.eq_none_iff_forall_not_mem.2 fun y hy => absurd (h y hy) List.not_mem_nil
  | m :: ms, e, hlists, h => by
    refine freeBoxes_free r ms (e.freeBox m) (freeBox_lists hlists m) fun y hy => ?_
    rcases freeRecords_mailbox r (e.boxList m) e with hnone | hsame
    · rw [Engine.freeBox, hnone] at hy
      exact nomatch hy
    · have hmapped : ((e.freeBox m).record r).map (·.mailbox) = (e.record r).map (·.mailbox) := hsame
      rw [hy] at hmapped
      obtain ⟨x, hx, hxy⟩ := Option.map_eq_some_iff.1 hmapped.symm
      rcases List.mem_cons.1 (h x hx) with hm | hms
      · have hof : e.recordOf m r := ⟨x, hx, hm⟩
        rcases hlists m with ⟨rs, hrs⟩ | ⟨-, hnone⟩
        · have hmem : r ∈ e.boxList m := by
            rw [boxList_of_hasList hrs]
            exact not_not.1 (fun hc => linksIn_ne_none.2 hof (hrs.2 r hc))
          have hfreed : (e.freeBox m).record r = none := freeRecords_free _ e r (.inl hmem)
          rw [hfreed] at hy
          exact nomatch hy
        · exact absurd (hnone r) (linksIn_ne_none.2 hof)
      · exact (show x.mailbox = y.mailbox from hxy) ▸ hms

theorem freeBoxes_hasCounts {e : Engine} (h : e.HasCounts) (ms : List Nat) : (ms.foldl (fun e m => e.freeBox m) e).HasCounts :=
  foldl_kept (P := Engine.HasCounts) (fun _ m h => foldl_kept (P := Engine.HasCounts) (fun _ r h => freeRecordQuietly_hasCounts h r) _ h) ms h

/-- Where no record is left, the counters stand at 0. -/
theorem counters_zero {e : Engine} (h : e.HasCounts) (hr : ∀ r, e.record r = none) (m : Nat) : (e.counter m).tallied (fun _ => 0) := by
  have hnil : e.tab.records = [] := by
    refine List.eq_nil_iff_forall_not_mem.2 fun x hx => ?_
    exact Tab.find?_eq_none_iff.1 (hr x.1) (List.mem_map_of_mem hx)
  have hzero : e.tallyOf m = fun _ => 0 := by
    funext f
    rw [Engine.tallyOf, hnil]
    rfl
  exact hzero ▸ h.2 m

/-! ## Every slot of every mailbox emptied -/

theorem emptySlot_empty (e : Engine) (m : Nat) (g : GreetingKind) {n : Nat} {h : GreetingKind} (hn : (e.slot n h).held = none) :
    ((e.emptySlot m g).slot n h).held = none := by
  rw [emptySlot_slot]
  split
  · rfl
  · exact hn

theorem emptySlots_empty {n : Nat} {h : GreetingKind} : ∀ (ms : List Nat) (e : Engine), (n ∈ ms ∨ (e.slot n h).held = none) →
    ((ms.foldl (fun e m => e.emptySlots m) e).slot n h).held = none
  | [], _, hn => hn.resolve_left List.not_mem_nil
  | m :: ms, e, hn => by
    have hkept : (e.slot n h).held = none → ((e.emptySlots m).slot n h).held = none :=
      foldl_kept (P := fun e : Engine => (e.slot n h).held = none) (fun e g hn => emptySlot_empty e m g hn) GreetingKind.all
    refine emptySlots_empty ms (e.emptySlots m) ?_
    rcases hn with hn | hn
    · rcases List.mem_cons.1 hn with rfl | hn
      · exact .inr (emptySlots_held e n h)
      · exact .inl hn
    · exact .inr (hkept hn)

/-! ## FORMAT -/

/-- What clearing the content changes. -/
def formatParts : List Part :=
  [.sessions, .pool, .holds, .counters, .lmp, .outbox, .flags, .segments, .bodies, .mailboxes, .records, .greetings, .writes]

/-- The engine whose lamp inputs FORMAT hands: its records and slots are gone. -/
def Engine.cleared (e : Engine) : Engine := e.loadedBoxes.foldl (fun e m => e.emptySlots m) (e.loadedBoxes.foldl (fun e m => e.freeBox m) e)

theorem freeBoxes_quiet (ms : List Nat) (e : Engine) : Engine.Within quietParts e (ms.foldl (fun e m => e.freeBox m) e) :=
  .foldl (fun e m => freeBox_quiet e m) ms e

theorem emptyBoxes_within (ms : List Nat) (e : Engine) : Engine.Within slotParts e (ms.foldl (fun e m => e.emptySlots m) e) :=
  .foldl (fun e m => emptySlots_within e m) ms e

theorem cleared_within (e : Engine) : Engine.Within (formatParts.erase .lmp) e e.cleared :=
  ((freeBoxes_quiet _ e).mono rfl).step (emptyBoxes_within _ _) rfl

theorem formatContent_within (e : Engine) : Engine.Within formatParts e e.formatContent :=
  ((cleared_within e).mono rfl).step (handAll_within e.cleared _) rfl

theorem formatContent_record {e : Engine} (h : e.ListsTrue) (r : Nat) : e.formatContent.record r = none := by
  have hloaded : ∀ y, e.record r = some y → y.mailbox ∈ e.loadedBoxes := fun y hy => by
    refine mem_loadedBoxes.2 ?_
    rcases h y.mailbox with ⟨rs, ⟨-, -, hends⟩, -⟩ | ⟨-, hnone⟩
    · rw [hends]
      exact nofun
    · exact absurd (hnone r) (linksIn_ne_none.2 ⟨y, hy, rfl⟩)
  have hlate : Engine.Within (.lmp :: slotParts) (e.loadedBoxes.foldl (fun e m => e.freeBox m) e) e.formatContent :=
    ((emptyBoxes_within _ _).mono rfl).step (handAll_within _ _) rfl
  exact (record_congr (hlate.keeps .records rfl) r).trans (freeBoxes_free r _ e h hloaded)

theorem formatContent_counter {e : Engine} (h : e.ListsTrue) (k : e.HasCounts) (m : Nat) : (e.formatContent.counter m).tallied (fun _ => 0) := by
  have hlate : Engine.Within (.lmp :: slotParts) (e.loadedBoxes.foldl (fun e m => e.freeBox m) e) e.formatContent :=
    ((emptyBoxes_within _ _).mono rfl).step (handAll_within _ _) rfl
  exact counters_zero ((freeBoxes_hasCounts k e.loadedBoxes).within hlate rfl) (formatContent_record h) m

theorem formatContent_slot (e : Engine) {m : Nat} (g : GreetingKind) (h : m ∈ e.loadedBoxes) : (e.formatContent.slot m g).held = none := by
  have hslots : e.formatContent.tab.slots = e.cleared.tab.slots := (handAll_within e.cleared e.loadedBoxes).keeps .greetings rfl
  have hslot : e.formatContent.slot m g = e.cleared.slot m g := congrArg (fun t => Tab.get Slot.empty t (slotKey m g)) hslots
  rw [hslot]
  exact emptySlots_empty _ _ (.inl h)

theorem formatBusy_iff (s : State) : s.formatBusy = true ↔ 0 < s.eng.openSessions ∨ s.eng.dle.queue ≠ [] ∨ s.cal.sweep.running = true := by
  simp [State.formatBusy, or_assoc]

/-- The state in which FORMAT has done its work. -/
def State.formatted (s : State) (tag : Byte) : State := { s with eng := ((s.taken.eng.beginStart .format true).formatContent).concluded tag .done [] }

theorem exec_format_busy {s : State} (h : s.accepting) (tag : Byte) (hb : 0 < s.eng.openSessions ∨ s.eng.dle.queue ≠ [] ∨ s.cal.sweep.running = true) :
    exec (.format tag []) s = .next (s.withAnswer tag .busy []) :=
  congrArg _ (order_answered h (code := 0x54) (o := .format) rfl tag rfl (checked_refused (firstRefusal_stop ((formatBusy_iff s).2 hb))))

/-- An engine in STARTING grants its link to nothing new. -/
theorem linkFree_starting {e : Engine} (h : e.ssc.service = .starting) : e.linkFree = false := by
  simp [Engine.linkFree, h]

theorem exec_format {s : State} (h : s.accepting) (tag : Byte) (ho : s.eng.openSessions = 0) (hq : s.eng.dle.queue = [])
    (hr : s.cal.sweep.running = false) : exec (.format tag []) s = .next (s.formatted tag) := by
  have hfree : ¬ s.taken.formatBusy = true := fun hb => by
    rcases (formatBusy_iff s).1 hb with hb | hb | hb
    · omega
    · exact hb hq
    · rw [hr] at hb
      exact nomatch hb
  have hrun : Order.format.run [] s.taken = { result := .done, data := [], state := s.taken.onEng (fun e => (e.beginStart .format true).formatContent), waits := false } :=
    checked_passes s.taken _ (firstRefusal_pass (cs := []) (Bool.not_eq_true _ ▸ hfree))
  have hwork := formatContent_within (s.taken.eng.beginStart .format true)
  obtain ⟨hservice, -, -⟩ := hwork.keeps .service rfl
  have hstarting : ((s.taken.eng.beginStart .format true).formatContent).ssc.service = .starting := hservice
  have hdle : ((s.taken.eng.beginStart .format true).formatContent).dle = s.eng.dle := hwork.keeps .dle rfl
  obtain ⟨-, -, -, hrestart⟩ := hwork.keeps .channel rfl
  obtain ⟨-, -, -, -, hre, -⟩ := id h
  refine congrArg _ ((order_still h (code := 0x54) (o := .format) rfl tag rfl hrun ?_ (.inl (linkFree_starting hstarting)) ?_).trans rfl)
  · exact (congrArg Dle.due hdle).trans (accepting_calm h).1.2.1
  · have hnone : ((s.taken.eng.beginStart .format true).formatContent).mgc.restart = .none := hrestart.trans hre
    show Engine.halted ((s.taken.eng.beginStart .format true).formatContent) = false
    rw [Engine.halted, hstarting, hnone]
    rfl

end Sys2Proof.Machine

namespace Sys2Proof.Machine

/-! Proofs about sections 4.6 to 4.8: the freeze (R15, R44, R97). -/

/-! ## A session frozen (R44) -/

theorem releaseIfUnheld_frozen {e : Engine} (hf : e.ssc.service = .frozen) (b : Nat) : e.releaseIfUnheld b = e := by
  unfold Engine.releaseIfUnheld
  split
  · rfl
  · exact if_neg (by simp [hf])

/-- What a freeze leaves alone in each block. -/
def Engine.Frost (e g : Engine) : Prop :=
  g.ssc = e.ssc ∧ g.tab = e.tab ∧ g.catQueue = e.catQueue ∧ g.lmp = e.lmp ∧ g.mgc.outbox = e.mgc.outbox ∧ g.mgc.inbox = e.mgc.inbox

theorem Engine.Frost.refl (e : Engine) : e.Frost e := ⟨rfl, rfl, rfl, rfl, rfl, rfl⟩

theorem Engine.Frost.trans {e f g : Engine} (h : e.Frost f) (k : f.Frost g) : e.Frost g := by
  obtain ⟨h1, h2, h3, h4, h5, h6⟩ := h
  obtain ⟨k1, k2, k3, k4, k5, k6⟩ := k
  exact ⟨k1.trans h1, k2.trans h2, k3.trans h3, k4.trans h4, k5.trans h5, k6.trans h6⟩

/-- A session that a freeze ends (R44): its take and its place stand. -/
def Session.frozenTo (x y : Session) : Prop :=
  y.state = .ended ∧ y.outcome = some .frozen ∧ y.target = x.target ∧ y.trim = x.trim ∧ y.cursor = x.cursor ∧ y.meter = x.meter ∧ y.inSlot = none ∧
    y.outSlot = none

/-- A session whose slots are gone and whose buffers alone have changed. -/
def Session.unslotted (x y : Session) : Prop :=
  y.target = x.target ∧ y.trim = x.trim ∧ y.cursor = x.cursor ∧ y.meter = x.meter ∧ y.inSlot = none ∧ y.outSlot = none

theorem setBuf_unslotted {x y : Session} (h : x.unslotted y) (b : Nat) (v : Buffer) : x.unslotted (y.setBuf b v) := by
  unfold Session.setBuf
  split <;> exact h

/-- The engine in which a playing's buffers are dropped for the freeze. -/
def Engine.dropsPlaying (k : Nat) (x : Session) (e1 : Engine) : Engine :=
  let e2 := (e1.modSession k Session.dropPlayed).dropReader x.bodyNo
  match e2.ssc.link with
  | .reading r _ => if r.session = k then e2.modBuf k r.buf (fun b => { b with role := .stale }) else e2
  | _ => e2

theorem dropsPlaying_spec {e : Engine} (hf : e.ssc.service = .frozen) (k : Nat) (x z : Session) (hz : z.unslotted (e.session k)) :
    e.Frost (e.dropsPlaying k x) ∧ (∀ j, j ≠ k → (e.dropsPlaying k x).session j = e.session j) ∧ z.unslotted ((e.dropsPlaying k x).session k) ∧
      (e.dropsPlaying k x).mgc = e.mgc := by
  have hdrop : (e.modSession k Session.dropPlayed).dropReader x.bodyNo =
      (e.modSession k Session.dropPlayed).modHold x.bodyNo (fun h => { h with readers := h.readers - 1 }) :=
    releaseIfUnheld_frozen (e := (e.modSession k Session.dropPlayed).modHold x.bodyNo _) hf _
  unfold Engine.dropsPlaying
  rw [hdrop]
  generalize hg : (e.modSession k Session.dropPlayed).modHold x.bodyNo (fun h => { h with readers := h.readers - 1 }) = g
  have hfrost : e.Frost g := by
    subst hg
    exact ⟨rfl, rfl, rfl, rfl, rfl, rfl⟩
  have hothers : ∀ j, j ≠ k → g.session j = e.session j := fun j hj => by
    subst hg
    exact session_modSession_ne _ hj Session.dropPlayed
  have hself : z.unslotted (g.session k) := by
    subst hg
    show z.unslotted ((e.modSession k Session.dropPlayed).session k)
    rw [session_modSession_self]
    exact hz
  have hmgc : g.mgc = e.mgc := by
    subst hg
    rfl
  dsimp only
  split
  · split
    · refine ⟨hfrost, fun j hj => (session_modSession_ne _ hj _).trans (hothers j hj), ?_, hmgc⟩
      show z.unslotted ((g.modSession k _).session k)
      rw [session_modSession_self]
      exact setBuf_unslotted hself _ _
    · exact ⟨hfrost, hothers, hself, hmgc⟩
  · exact ⟨hfrost, hothers, hself, hmgc⟩

theorem freezeSession_idle {e : Engine} {k : Nat} (h : (e.session k).state = .free ∨ (e.session k).state = .ended) : e.freezeSession k = e := by
  unfold Engine.freezeSession
  exact if_pos (by simpa using h)

/-- The end of a session that is frozen, with its notice. -/
def Engine.frozenEnd (k : Nat) (e2 : Engine) : Engine :=
  let e3 := e2.modSession k (fun x => { x with state := .ended, outcome := some .frozen, endCause := none })
  e3.raise .sessionEnd ((e3.session k).endBytes k)

theorem frozenEnd_spec {e : Engine} (hf : e.ssc.service = .frozen) (k : Nat) (z : Session) (hz : z.unslotted (e.session k)) :
    e.Frost (e.frozenEnd k) ∧ (∀ j, j ≠ k → (e.frozenEnd k).session j = e.session j) ∧ z.frozenTo ((e.frozenEnd k).session k) ∧
      (e.frozenEnd k).mgc.flags = e.mgc.flags ||| NoticeKind.sessionEnd.bit := by
  unfold Engine.frozenEnd
  extract_lets e3
  have hsilent : e3.placesNotice .sessionEnd = false := by
    have hhalted : e3.halted = true := by simp [Engine.halted, show e3.ssc.service = .frozen from hf]
    simp [Engine.placesNotice, hhalted]
  have hoff : (e3.raise .sessionEnd ((e3.session k).endBytes k)).mgc.outbox = e.mgc.outbox := by
    show (if e3.placesNotice .sessionEnd then _ else _) = _
    rw [hsilent]
    rfl
  refine ⟨⟨rfl, rfl, rfl, rfl, hoff, rfl⟩, fun j hj => ?_, ?_, rfl⟩
  · show e3.session j = _
    exact session_modSession_ne _ hj _
  · show z.frozenTo (e3.session k)
    rw [show e3.session k = _ from session_modSession_self _ k _]
    exact ⟨rfl, rfl, hz⟩

theorem freezeSession_eq {e : Engine} {k : Nat} (h1 : (e.session k).state ≠ .free) (h2 : (e.session k).state ≠ .ended) : e.freezeSession k =
    (if (e.session k).state.playLive = true then (e.releaseSlots k).dropsPlaying k (e.session k) else e.releaseSlots k).frozenEnd k := by
  unfold Engine.freezeSession
  dsimp only
  rw [if_neg (by simp [h1, h2])]
  rfl

theorem freezeSession_live {e : Engine} {k : Nat} (hf : e.ssc.service = .frozen) (h1 : (e.session k).state ≠ .free) (h2 : (e.session k).state ≠ .ended) :
    e.Frost (e.freezeSession k) ∧ (∀ j, j ≠ k → (e.freezeSession k).session j = e.session j) ∧
      (e.session k).frozenTo ((e.freezeSession k).session k) ∧
      (e.freezeSession k).mgc.flags = e.mgc.flags ||| NoticeKind.sessionEnd.bit := by
  have hreleased : e.Frost (e.releaseSlots k) := ⟨rfl, rfl, rfl, rfl, rfl, rfl⟩
  have hself : (e.session k).unslotted ((e.releaseSlots k).session k) := by
    rw [session_releaseSlots, if_pos rfl]
    exact ⟨rfl, rfl, rfl, rfl, rfl, rfl⟩
  have hothers : ∀ j, j ≠ k → (e.releaseSlots k).session j = e.session j := fun j hj => by rw [session_releaseSlots, if_neg hj]
  have hmgc : (e.releaseSlots k).mgc = e.mgc := rfl
  have hservice : (e.releaseSlots k).ssc.service = .frozen := hf
  rw [freezeSession_eq h1 h2]
  generalize e.releaseSlots k = g at *
  obtain ⟨d, hd⟩ : ∃ d, d = if (e.session k).state.playLive = true then g.dropsPlaying k (e.session k) else g := ⟨_, rfl⟩
  rw [← hd]
  have hdropped : g.Frost d ∧ (∀ j, j ≠ k → d.session j = g.session j) ∧ (e.session k).unslotted (d.session k) ∧ d.mgc = g.mgc := by
    subst hd
    split
    · exact dropsPlaying_spec hservice k (e.session k) (e.session k) hself
    · exact ⟨.refl _, fun _ _ => rfl, hself, rfl⟩
  obtain ⟨hfrost, hother, hthis, hmgcd⟩ := hdropped
  have hserviced : d.ssc.service = .frozen := by
    rw [hfrost.1]
    exact hservice
  obtain ⟨hfrostEnd, hotherEnd, hend, hflag⟩ := frozenEnd_spec hserviced k (e.session k) hthis
  exact ⟨(hreleased.trans hfrost).trans hfrostEnd, fun j hj => (hotherEnd j hj).trans ((hother j hj).trans (hothers j hj)), hend,
    hflag.trans (by rw [hmgcd, hmgc])⟩

/-! ## Every session frozen -/

/-- A freeze of one session: a session of it that lives is ended, the others stand, and no flag falls. -/
theorem freezeSession_spec {e : Engine} (hf : e.ssc.service = .frozen) (k : Nat) : e.Frost (e.freezeSession k) ∧
    (∀ j, j ≠ k ∨ (e.session j).state = .free ∨ (e.session j).state = .ended → (e.freezeSession k).session j = e.session j) ∧
    ((e.session k).state ≠ .free → (e.session k).state ≠ .ended → (e.session k).frozenTo ((e.freezeSession k).session k) ∧
      (e.freezeSession k).mgc.flags &&& NoticeKind.sessionEnd.bit = NoticeKind.sessionEnd.bit) ∧
    (e.mgc.flags &&& NoticeKind.sessionEnd.bit = NoticeKind.sessionEnd.bit →
      (e.freezeSession k).mgc.flags &&& NoticeKind.sessionEnd.bit = NoticeKind.sessionEnd.bit) := by
  by_cases hidle : (e.session k).state = .free ∨ (e.session k).state = .ended
  · rw [freezeSession_idle hidle]
    exact ⟨.refl _, fun _ _ => rfl, fun h1 h2 => absurd hidle (not_or.2 ⟨h1, h2⟩), id⟩
  · obtain ⟨h1, h2⟩ := not_or.1 hidle
    obtain ⟨hfrost, hothers, hend, hflags⟩ := freezeSession_live hf h1 h2
    have hraised : (e.freezeSession k).mgc.flags &&& NoticeKind.sessionEnd.bit = NoticeKind.sessionEnd.bit := by
      rw [and_bit_eq_bit_iff, hflags]
      simp [NoticeKind.bit, NoticeKind.code]
    refine ⟨hfrost, fun j hj => hothers j ?_, fun _ _ => ⟨hend, hraised⟩, fun _ => hraised⟩
    rintro rfl
    exact hj.elim (fun h => h rfl) hidle

theorem freezeFold_spec (j : Nat) : ∀ (ks : List Nat) (e : Engine), e.ssc.service = .frozen →
    let g := ks.foldl (fun e k => e.freezeSession k) e
    e.Frost g ∧ (j ∉ ks ∨ (e.session j).state = .free ∨ (e.session j).state = .ended → g.session j = e.session j) ∧
      (j ∈ ks → (e.session j).state ≠ .free → (e.session j).state ≠ .ended → (e.session j).frozenTo (g.session j) ∧
        g.mgc.flags &&& NoticeKind.sessionEnd.bit = NoticeKind.sessionEnd.bit) ∧
      (e.mgc.flags &&& NoticeKind.sessionEnd.bit = NoticeKind.sessionEnd.bit → g.mgc.flags &&& NoticeKind.sessionEnd.bit = NoticeKind.sessionEnd.bit)
  | [], e, _ => ⟨.refl e, fun _ => rfl, fun h => absurd h List.not_mem_nil, id⟩
  | k :: ks, e, hf => by
    obtain ⟨hfrost, hothers, hend, hflag⟩ := freezeSession_spec hf k
    have hf' : (e.freezeSession k).ssc.service = .frozen := (congrArg Ssc.service hfrost.1).trans hf
    obtain ⟨hfrost', hothers', hend', hflag'⟩ := freezeFold_spec j ks (e.freezeSession k) hf'
    refine ⟨hfrost.trans hfrost', fun h => ?_, fun hmem h1 h2 => ?_, hflag' ∘ hflag⟩
    · have hsame : (e.freezeSession k).session j = e.session j :=
        hothers j (h.imp (fun h => fun hjk => h (hjk ▸ List.mem_cons_self)) id)
      exact (hothers' (by rw [hsame]; exact h.imp (fun h hc => h (List.mem_cons_of_mem _ hc)) id)).trans hsame
    · by_cases hjk : j = k
      · subst hjk
        obtain ⟨hended, hraised⟩ := hend h1 h2
        have hstays := hothers' (.inr (.inr hended.1))
        exact ⟨hstays ▸ hended, hflag' hraised⟩
      · have hsame : (e.freezeSession k).session j = e.session j := hothers j (.inl hjk)
        have hlater := hend' ((List.mem_cons.1 hmem).resolve_left hjk)
        rw [hsame] at hlater
        exact hlater h1 h2

/-- A context that lives stands in the table. -/
theorem session_listed {e : Engine} {k : Nat} (h : (e.session k).state ≠ .free) : k ∈ e.sessions.map (·.1) := by
  refine Decidable.by_contra fun hc => h ?_
  have hnone : Tab.find? e.sessions k = none := Tab.find?_eq_none_iff.2 hc
  show (Tab.get Session.reset e.sessions k).state = _
  rw [Tab.get, hnone]
  rfl

end Sys2Proof.Machine

namespace Sys2Proof.Machine

/-! Proofs about sections 4.6 to 4.8: the service states (R15, R44, R87 to R98). -/

/-- The engine that a FREEZE stops, its sessions not yet ended (R97). -/
def Engine.stopped (e : Engine) : Engine :=
  let e2 := (e.modSsc (fun c => { c with service := .frozen, start := none })).modMgc (fun g => { g with restart := .none })
  { e2 with catQueue := haltQueue e2.catQueue, lmp := { e2.lmp with outCell := [] } }

theorem freeze_live {s : State} (h : s.eng.ssc.service ≠ .frozen) : s.freeze = { s with eng := s.eng.stopped.freezeSessions } := by
  unfold State.freeze
  rw [if_neg h]
  rfl

theorem freeze_freezes {s : State} (h : s.eng.ssc.service ≠ .frozen) : ∃ t, exec .freeze s = .next t ∧ t.eng.ssc.service = .frozen ∧ t.hwi = s.hwi ∧
    t.cal = s.cal ∧ t.eng.ssc.progQueue = s.eng.ssc.progQueue ∧ t.eng.ssc.readQueue = s.eng.ssc.readQueue ∧ t.eng.ssc.link = s.eng.ssc.link ∧
    t.eng.mgc.outbox = s.eng.mgc.outbox ∧ t.eng.mgc.inbox = s.eng.mgc.inbox ∧ t.eng.tab = s.eng.tab ∧ t.eng.catQueue = haltQueue s.eng.catQueue ∧
    t.eng.lmp = { s.eng.lmp with outCell := [] } ∧
    ∀ k, ((s.eng.session k).state = .free ∨ (s.eng.session k).state = .ended → t.eng.session k = s.eng.session k) ∧
      ((s.eng.session k).state ≠ .free → (s.eng.session k).state ≠ .ended → (s.eng.session k).frozenTo (t.eng.session k) ∧ t.flagged .sessionEnd) := by
  have hfold := fun k => freezeFold_spec k (s.eng.stopped.sessions.map (·.1)) s.eng.stopped rfl
  obtain ⟨hssc, htab, hqueue, hlmp, houtbox, hinbox⟩ := (hfold 0).1
  have hsession : ∀ k, s.eng.stopped.session k = s.eng.session k := fun _ => rfl
  refine ⟨{ s with eng := s.eng.stopped.freezeSessions }, congrArg _ (freeze_live h), congrArg Ssc.service hssc, rfl, rfl,
    (congrArg Ssc.progQueue hssc).trans rfl, (congrArg Ssc.readQueue hssc).trans rfl, (congrArg Ssc.link hssc).trans rfl, houtbox, hinbox, htab, hqueue, hlmp, fun k => ⟨fun hk => ?_, fun h1 h2 => ?_⟩⟩
  · exact (hfold k).2.1 (.inr hk)
  · exact (hfold k).2.2.1 (session_listed (e := s.eng.stopped) h1) h1 h2

theorem powerOn_frozen (s : State) (sel : Selects) : ∃ t, exec (.powerOn sel true) s = .next t ∧
    t = { hwi := Hwi.reset, cal := Cal.reset, eng := t.eng, pending := s.pending } ∧
    t.eng.ssc = { Ssc.reset s.eng.ssc.flash with service := .frozen } ∧ t.eng.cat = s.eng.cat ∧ t.eng.catQueue = [] ∧ t.eng.sessions = [] ∧
    t.eng.mgc = Mgc.reset :=
  ⟨s.powerOn sel true, rfl, rfl, rfl, rfl, rfl, rfl, rfl⟩

/-- FORMAT, accepted (R96). -/
theorem format_clears {s : State} (h : s.accepting) (tag : Byte) (ho : s.eng.openSessions = 0) (hq : s.eng.dle.queue = [])
    (hr : s.cal.sweep.running = false) : ∃ t, exec (.format tag []) s = .next t ∧
      t.eng.ssc.service = .starting ∧
      t.eng.ssc.start = some { cause := .format, cleared := true, keptCut := 0, recordsReleased := 0, bodiesReleased := 0 } ∧ t.answered tag .done [] ∧
      (∀ m b g, (m, b) ∈ s.eng.tab.mailboxes → (t.eng.slot m g).held = none) ∧
      (s.eng.counted → s.eng.listed → (∀ r, t.eng.record r = none) ∧
        ∀ m, (t.eng.counter m).new = 0 ∧ (t.eng.counter m).urgent = 0 ∧ (t.eng.counter m).heard = 0 ∧ (t.eng.counter m).saved = 0 ∧
          (t.eng.counter m).recording = 0 ∧ (t.eng.counter m).total = 0) ∧
      s.handsInputs (s.eng.tab.mailboxes.map (·.1)) t ∧
      t.eng.tab.classes = s.eng.tab.classes ∧ t.eng.tab.lists = s.eng.tab.lists ∧ t.eng.tab.settings = s.eng.tab.settings ∧ t.hwi = s.hwi ∧ t.cal = s.cal := by
  obtain ⟨e0, he0⟩ : ∃ e0, e0 = s.taken.eng.beginStart .format true := ⟨_, rfl⟩
  have hwork := formatContent_within e0
  have hsame : e0.formatContent.SameContent (e0.formatContent.concluded tag .done []) := concluded_content tag .done [] _
  have ht : s.formatted tag = { s with eng := e0.formatContent.concluded tag .done [] } := by rw [he0, State.formatted]
  have hlmp : e0.cleared.lmp = e0.lmp := (cleared_within e0).keeps .lmp rfl
  obtain ⟨hservice, -, hstart⟩ := hwork.keeps .service rfl
  refine ⟨s.formatted tag, exec_format h tag ho hq hr, ?_, ?_, ?_, fun m b g hm => ?_, fun hcounted hlisted => ?_, ?_, ?_, ?_, ?_, rfl, rfl⟩
  · rw [ht]
    exact hservice.trans (by rw [he0]; rfl)
  · rw [ht]
    exact hstart.trans (by rw [he0]; rfl)
  · rw [ht]
    exact concluded_answered tag .done [] s _
  · rw [ht]
    have hmem : m ∈ e0.loadedBoxes := by
      rw [he0]
      exact List.mem_map.2 ⟨(m, b), hm, rfl⟩
    exact (congrArg (fun t : Catalogue => (Tab.get Slot.empty t.slots (slotKey m g)).held) hsame.tab).trans (formatContent_slot e0 g hmem)
  · have hwalked : s.eng.walked := .inl (accepting_service h)
    have hlists : e0.ListsTrue := by
      have hs := (listed_iff s.eng).1 hlisted hwalked
      rw [he0]
      exact fun m => listTrue_congr (e := s.eng) (fun _ => rfl) rfl (hs m)
    have hcounts : e0.HasCounts := by
      rw [he0]
      exact ((counted_iff s.eng).1 hcounted).2 hwalked
    rw [ht]
    refine ⟨fun r => (hsame.record r).trans (formatContent_record hlists r), fun m => ?_⟩
    have hcounter : ({ s with eng := e0.formatContent.concluded tag .done [] } : State).eng.counter m = e0.formatContent.counter m := rfl
    rw [hcounter]
    exact formatContent_counter hlists hcounts m
  · rw [ht]
    refine handsInputs_of (e := e0.cleared) (hlmp.trans (by rw [he0]; rfl)) ?_
    have hboxes : e0.loadedBoxes = s.eng.tab.mailboxes.map (·.1) := by
      rw [he0]
      rfl
    rw [← hboxes]
    exact hsame.inputs
  · rw [ht]
    exact (hwork.keeps .classes rfl).trans (by rw [he0]; rfl)
  · rw [ht]
    exact (hwork.keeps .lists rfl).trans (by rw [he0]; rfl)
  · rw [ht]
    exact (hwork.keeps .settings rfl).trans (by rw [he0]; rfl)

/-- POWER_ON with the power held (R88 to R95). -/
theorem powerOn_starts (s : State) (sel : Selects) : ∃ t, exec (.powerOn sel false) s = .next t ∧
    t = { hwi := Hwi.reset, cal := Cal.reset, eng := t.eng, pending := s.pending } ∧
    t.eng = (Engine.reset s.eng.cat s.eng.ssc.flash).storeCheck .powerOn sel :=
  ⟨s.powerOn sel false, rfl, rfl, rfl⟩

/-- Settles O60, command by command. -/
theorem serviceStatesFollowTheirRules : Obligations.ServiceStatesFollowTheirRules := by
  intro s
  refine ⟨powerOn_frozen s, fun sel => ?_, fun hc hidle => ?_, fun hc p hp hs hq hprog => ?_, fun tag h hb => exec_format_busy h tag hb,
    fun tag h ho hq hr => format_clears h tag ho hq hr, fun h => ?_, fun h => ?_⟩
  case refine_1 =>
    obtain ⟨t, hexec, hshape, heng⟩ := powerOn_starts s sel
    obtain ⟨hmgc, hsessions, hin, hout, hdle, hlmp, hcat, hservice, hdevices, hread, hprog, hlink, hlow, hflash⟩ :=
      storeCheck_spec .powerOn sel (Engine.reset s.eng.cat s.eng.ssc.flash) t.eng rfl rfl heng
    refine ⟨t, hexec, hshape, hservice, hdevices, hlink, hread, hprog, hlow, hflash, hcat, hsessions, hin, hout, hlmp, hdle, hmgc, fun h0 => ?_,
      fun c hc hne => ?_⟩
    · rw [heng, Engine.storeCheck]
      dsimp only
      rw [if_pos h0]
      exact ⟨rfl, rfl, rfl⟩
    · subst hc
      obtain ⟨htab, hsig, hssc, hholds, hcounters, hqueue, p, hstart, hcause, hcleared⟩ := powerOn_checked s hne rfl heng
      exact ⟨htab, hsig, hssc, hholds, hcounters, hqueue, p, hstart, hcause, hcleared⟩
  case refine_2 =>
    show Host.Outcome.next (s.onEng Engine.enterService).finish = _
    rw [State.onEng, enterService_idle hidle]
    exact congrArg _ (finish_calm hc)
  case refine_3 =>
    obtain ⟨t, hexec, hservice, hstart, hflag, hlow, hlmp, hkeeps⟩ := enterService_enters hc hp hs hq hprog
    refine ⟨t, hexec, hservice, hstart, hflag, hlow, fun hf => ?_, fun hf => ⟨fun a => ?_, fun m b hb => ?_⟩, hkeeps⟩
    · rw [hlmp, if_pos hf]
    · rw [Engine.lamp, hlmp, if_neg hf]
      exact handAtStart_refs s.eng a
    · rw [hlmp, if_neg hf]
      exact handAtStart_pattern hb (by rw [hs]; exact nofun)
  case refine_4 =>
    refine congrArg Host.Outcome.next ?_
    unfold State.freeze
    exact if_pos h
  case refine_5 =>
    obtain ⟨t, hexec, hservice, hhwi, hcal, hprog, hread, hlink, houtbox, hinbox, htab, hqueue, hlmp, hsessions⟩ := freeze_freezes h
    refine ⟨t, hexec, hservice, hhwi, hcal, hprog, hread, hlink, houtbox, hinbox, htab, hqueue, hlmp, fun _ k => ⟨(hsessions k).1, fun h1 h2 => ?_⟩⟩
    obtain ⟨⟨hended, hout, htarget, htrim, hcursor, hmeter, hinSlot, houtSlot⟩, hflag⟩ := (hsessions k).2 h1 h2
    exact ⟨hended, hout, htarget, htrim, hcursor, hmeter, hinSlot, houtSlot, hflag⟩

end Sys2Proof.Machine

namespace Sys2Proof.Machine

/-! Proofs about section 4.6: what the check's steps write, and the fit of the map (R89, R91). -/

/-! ## Work that only asks for writes -/

/-- From e to g the working tables and the writes asked for alone have changed. -/
def Engine.Asking (e g : Engine) : Prop := g = { e with tab := g.tab, asked := g.asked }

namespace Engine.Asking

theorem refl (e : Engine) : e.Asking e := rfl

theorem trans {e f g : Engine} (h : e.Asking f) (k : f.Asking g) : e.Asking g := by
  unfold Engine.Asking at h k ⊢
  rw [h] at k
  exact k

theorem put (w : CatWrite) (e : Engine) : e.Asking (e.put w) := rfl

theorem ite {p : Prop} [Decidable p] {e f g : Engine} (h : e.Asking f) (k : e.Asking g) : e.Asking (if p then f else g) := ite_kept h k

theorem foldl {α : Type} {op : Engine → α → Engine} (hop : ∀ (e : Engine) (x : α), e.Asking (op e x)) (l : List α) (e : Engine) : e.Asking (l.foldl op e) :=
  foldl_kept (P := fun g : Engine => e.Asking g) (fun g x h => h.trans (hop g x)) l (refl e)

end Engine.Asking

theorem catalogue_eq {c d : Catalogue} (h1 : c.signature = d.signature) (h2 : c.segments = d.segments) (h3 : c.bodies = d.bodies)
    (h4 : c.classes = d.classes) (h5 : c.mailboxes = d.mailboxes) (h6 : c.records = d.records) (h7 : c.slots = d.slots) (h8 : c.lists = d.lists)
    (h9 : c.members = d.members) (h10 : c.settings = d.settings) : c = d := by
  cases c
  cases d
  simp_all

/-! ## The content of a cut store (R89, R96) -/

theorem putDirtys_segment : ∀ (is : List Nat) (e : Engine) (j : Nat),
    (is.foldl (fun e i => e.putDirty i) e).segment j = if j ∈ is then (e.segment j).dirtied else e.segment j
  | [], _, _ => rfl
  | i :: is, e, j => by
    rw [List.foldl_cons, putDirtys_segment is, segment_putDirty]
    by_cases hmem : j ∈ is
    · rw [if_pos hmem, if_pos (List.mem_cons_of_mem _ hmem)]
      split
      · next h =>
        rw [h]
        rfl
      · rfl
    · rw [if_neg hmem]
      by_cases hj : j = i
      · rw [if_pos hj, if_pos (hj ▸ List.mem_cons_self), hj]
      · rw [if_neg hj, if_neg (fun h => (List.mem_cons.1 h).elim hj hmem)]

/-- A table of which every key is absent is empty. -/
theorem tab_nil {α : Type} {t : Tab α} (h : ∀ n, Tab.find? t n = none) : t = [] :=
  List.eq_nil_iff_forall_not_mem.2 fun x hx => Tab.find?_eq_none_iff.1 (h x.1) (List.mem_map_of_mem hx)

theorem foldl_putBody_bodies : ∀ (ks : List Nat) (e : Engine), (ks.foldl (fun e b => e.put (.body b none)) e).tab.bodies =
    ks.foldl (fun t k => Tab.erase k t) e.tab.bodies
  | [], _ => rfl
  | k :: ks, e => foldl_putBody_bodies ks _

/-- A mailbox with an empty list. -/
def Mailbox.unlisted (b : Mailbox) : Mailbox := { b with head := none, tail := none }

theorem dropEnds_mailbox (m : Nat) (e : Engine) (n : Nat) : ((e.put (.boxHead m none)).put (.boxTail m none)).mailbox n =
    if n = m then (e.mailbox n).map Mailbox.unlisted else e.mailbox n := by
  rw [mailbox_putBoxTail, mailbox_putBoxHead]
  cases e.mailbox n with
  | none => simp
  | some b => by_cases h : n = m <;> simp [h, Mailbox.unlisted]

theorem dropEnds_all : ∀ (ms : List Nat) (e : Engine) (n : Nat),
    (ms.foldl (fun e m => (e.put (.boxHead m none)).put (.boxTail m none)) e).mailbox n =
      if n ∈ ms then (e.mailbox n).map Mailbox.unlisted else e.mailbox n
  | [], _, _ => rfl
  | m :: ms, e, n => by
    rw [List.foldl_cons, dropEnds_all ms, dropEnds_mailbox]
    by_cases hmem : n ∈ ms
    · rw [if_pos hmem, if_pos (List.mem_cons_of_mem _ hmem)]
      split
      · rw [Option.map_map]
        rfl
      · rfl
    · rw [if_neg hmem]
      by_cases hn : n = m
      · rw [if_pos hn, if_pos (hn ▸ List.mem_cons_self)]
      · rw [if_neg hn, if_neg (fun h => (List.mem_cons.1 h).elim hn hmem)]

theorem dropRecords_spec (e : Engine) : e.Asking e.dropRecords ∧ e.dropRecords.tab.records = [] ∧
    ∀ m, e.dropRecords.mailbox m = (e.mailbox m).map Mailbox.unlisted := by
  unfold Engine.dropRecords
  extract_lets e1
  have h1 : e.Asking e1 := .foldl (fun e r => .put _ e) _ e
  have hrecords : e1.tab.records = [] := (foldl_putRecord_records _ e).trans (tab_nil (find?_erase_all _))
  have hboxes1 : e1.tab.mailboxes = e.tab.mailboxes :=
    foldl_kept (P := fun g : Engine => g.tab.mailboxes = e.tab.mailboxes) (g := fun e r => e.put (.record r none)) (fun _ _ h => h) _ rfl
  have hends : Engine.Within [.mailboxes, .writes] e1 (e.loadedBoxes.foldl (fun e m => (e.put (.boxHead m none)).put (.boxTail m none)) e1) :=
    .foldl (fun e m => ((put_within e (.boxHead m none)).mono rfl).step (put_within _ (.boxTail m none)) rfl) _ e1
  refine ⟨h1.trans (.foldl (fun e m => (Engine.Asking.put _ e).trans (.put _ _)) _ e1), (hends.keeps .records rfl).trans hrecords, fun m => ?_⟩
  rw [dropEnds_all, mailbox_congr hboxes1]
  split
  · rfl
  · next h =>
    have hnone : e.mailbox m = none := Tab.find?_eq_none_iff.2 h
    rw [hnone]
    rfl

theorem dropContent_spec (is : List Nat) (e : Engine) : e.Asking (e.dropContent is) ∧ (e.dropContent is).tab.bodies = [] ∧
    (e.dropContent is).tab.records = [] ∧ (e.dropContent is).tab.slots = [] ∧
    (∀ m, (e.dropContent is).mailbox m = (e.mailbox m).map Mailbox.unlisted) ∧
    ∀ j, (e.dropContent is).segment j = if j ∈ is then (e.segment j).dirtied else e.segment j := by
  unfold Engine.dropContent
  extract_lets e1 e2
  have hdirty : Engine.Within [.segments, .writes] e (is.foldl (fun e i => e.putDirty i) e) := .foldl (fun e i => putDirty_within e i) is e
  have hdrop := dropRecords_within (is.foldl (fun e i => e.putDirty i) e)
  obtain ⟨h1, hrecords, hboxes⟩ := dropRecords_spec (is.foldl (fun e i => e.putDirty i) e)
  have hslots : Engine.Within [.greetings, .writes] e1 e2 := .foldl (fun e k => (put_within e (.slot k Slot.empty)).mono rfl) _ e1
  have hbodies : Engine.Within [.bodies, .writes] e2 ((e2.tab.bodies.map (·.1)).foldl (fun e b => e.put (.body b none)) e2) :=
    .foldl (fun e b => (put_within e (.body b none)).mono rfl) _ e2
  have hempty : e2.tab.slots = [] := (foldl_putSlot_slots _ e1).trans (tab_nil (find?_erase_all _))
  refine ⟨?_, (foldl_putBody_bodies _ e2).trans (tab_nil (find?_erase_all _)), ?_, ?_, fun m => ?_, fun j => ?_⟩
  · have h0 : e.Asking (is.foldl (fun e i => e.putDirty i) e) := .foldl (fun e i => .put _ e) is e
    exact ((h0.trans h1).trans (.foldl (fun e k => .put _ e) _ e1)).trans (.foldl (fun e b => .put _ e) _ e2)
  · exact (hbodies.keeps .records rfl).trans ((hslots.keeps .records rfl).trans hrecords)
  · exact (hbodies.keeps .greetings rfl).trans hempty
  · rw [mailbox_congr (hbodies.keeps .mailboxes rfl), mailbox_congr (hslots.keeps .mailboxes rfl)]
    exact (hboxes m).trans (congrArg (Option.map Mailbox.unlisted) (mailbox_congr (hdirty.keeps .mailboxes rfl) m))
  · rw [segment_congr (hbodies.keeps .segments rfl), segment_congr (hslots.keeps .segments rfl)]
    exact (segment_congr (hdrop.keeps .segments rfl) j).trans (putDirtys_segment is e j)

theorem find?_below {α : Type} (n k : Nat) : ∀ t : Tab α, Tab.find? (t.filter (fun x => decide (x.1 < n))) k = if k < n then Tab.find? t k else none
  | [] => by simp [Tab.find?]
  | (a, v) :: t => by
    have ih := find?_below n k t
    rw [List.filter_cons]
    by_cases ha : a < n
    · rw [if_pos (decide_eq_true ha), Tab.find?, Tab.find?, ih]
      by_cases hk : k = a
      · rw [if_pos hk, if_pos hk, if_pos (hk ▸ ha)]
      · rw [if_neg hk, if_neg hk]
    · rw [if_neg (by simpa using ha), ih]
      by_cases hk : k < n
      · rw [if_pos hk, if_pos hk, Tab.find?, if_neg (by omega)]
      · rw [if_neg hk, if_neg hk]

theorem segment_cutMap (n : Nat) (e : Engine) (i : Nat) : (e.put (.cutMap n)).segment i = if i < n then e.segment i else SegEntry.blank := by
  show (Tab.find? (e.tab.segments.filter (fun x => decide (x.1 < n))) i).getD SegEntry.blank = _
  rw [find?_below]
  split <;> rfl

/-! ## The fit of the map -/

theorem fitMap_asking (c : Nat) (e : Engine) : e.Asking (e.fitMap c) := by
  unfold Engine.fitMap Engine.cutStore
  split
  · exact (Engine.Asking.put _ e).trans (.put _ _)
  · exact .ite (.put _ e) (.ite (((Engine.Asking.put _ e).trans (dropContent_spec _ _).1).trans (.put _ _)) (.refl e))

theorem fitMap_blank {c : Nat} {e : Engine} (h : e.tab.signature = none) : (e.fitMap c).tab = { Catalogue.blank with signature := some c } := by
  unfold Engine.fitMap
  rw [h]
  rfl

theorem fitMap_extends {c n : Nat} {e : Engine} (h : e.tab.signature = some n) (hn : n ≤ c) : (e.fitMap c).tab = { e.tab with signature := some c } := by
  unfold Engine.fitMap
  rw [h]
  dsimp only
  by_cases hlt : n < c
  · rw [if_pos hlt]
    rfl
  · rw [if_neg hlt, if_neg (Nat.not_lt.2 hn)]
    obtain rfl : n = c := by omega
    rw [← h]

/-- A segment stands in a chain of a body in use. -/
def Engine.chained (e : Engine) (i : Nat) : Prop := ∃ b ∈ e.bodiesInUse, i ∈ e.reached b

theorem fitMap_cuts {c n : Nat} {e : Engine} (h : e.tab.signature = some n) (hn : c < n) :
    (e.fitMap c).tab = { e.tab with signature := some c, segments := (e.fitMap c).tab.segments, bodies := [], records := [], slots := [],
                                    mailboxes := (e.fitMap c).tab.mailboxes } ∧
      (∀ m, (e.fitMap c).mailbox m = (e.mailbox m).map (fun b => { b with head := none, tail := none })) ∧
      ∀ i, (c * 262144 ≤ i → (e.fitMap c).segment i = SegEntry.blank) ∧
        (i < c * 262144 → e.chained i → (e.fitMap c).segment i = { e.segment i with state := .dirty, body := none, next := none }) ∧
        (i < c * 262144 → ¬ e.chained i → (e.fitMap c).segment i = e.segment i) := by
  obtain ⟨held, hheld⟩ : ∃ held, held = (e.bodiesInUse.flatMap (fun b => e.reached b)).filter (fun i => decide (i < c * Config.deviceSegments)) := ⟨_, rfl⟩
  have heq : e.fitMap c = ((e.put (.cutMap (c * Config.deviceSegments))).dropContent held).put (.signature (some c)) := by
    unfold Engine.fitMap Engine.cutStore
    rw [h]
    dsimp only
    rw [if_neg (Nat.not_lt.2 (Nat.le_of_lt hn)), if_pos hn, hheld]
  have hmem : ∀ i, i ∈ held ↔ e.chained i ∧ i < c * 262144 := fun i => by
    rw [hheld, List.mem_filter, List.mem_flatMap, decide_eq_true_iff]
    rfl
  have hcut := cutStore_within e (c * Config.deviceSegments)
  have hcutEq : e.cutStore (c * Config.deviceSegments) = (e.put (.cutMap (c * Config.deviceSegments))).dropContent held := by rw [hheld, Engine.cutStore]
  rw [hcutEq] at hcut
  obtain ⟨-, hbodies, hrecords, hslots, hboxes, hsegments⟩ := dropContent_spec held (e.put (.cutMap (c * Config.deviceSegments)))
  rw [heq]
  generalize (e.put (.cutMap (c * Config.deviceSegments))).dropContent held = g at *
  have hsegment : ∀ i, (g.put (.signature (some c))).segment i =
      if i ∈ held then ((e.put (.cutMap (c * Config.deviceSegments))).segment i).dirtied else (e.put (.cutMap (c * Config.deviceSegments))).segment i := hsegments
  refine ⟨catalogue_eq rfl rfl hbodies (hcut.keeps .classes rfl) rfl hrecords hslots (hcut.keeps .lists rfl) (hcut.keeps .members rfl)
    (hcut.keeps .settings rfl), hboxes, fun i => ⟨fun hi => ?_, fun hi hc => ?_, fun hi hc => ?_⟩⟩
  · rw [hsegment, if_neg (fun hc => absurd ((hmem i).1 hc).2 (Nat.not_lt.2 hi)), segment_cutMap]
    exact if_neg (Nat.not_lt.2 hi)
  · rw [hsegment, if_pos ((hmem i).2 ⟨hc, hi⟩), segment_cutMap]
    exact congrArg SegEntry.dirtied (if_pos hi)
  · rw [hsegment, if_neg (fun k => hc ((hmem i).1 k).1), segment_cutMap]
    exact if_pos hi

end Sys2Proof.Machine

namespace Sys2Proof.Machine

/-! Proofs about section 4.6: the chains that the walk follows (R92, R112). -/

/-- A DATA segment that names a body. -/
def Engine.named (e : Engine) (b i : Nat) : Prop := (e.segment i).state = .data ∧ (e.segment i).body = some b

/-- The segment behind a chain that begins at a segment. -/
def Engine.behind (e : Engine) (start : Option Nat) (c : List Nat) : Option Nat :=
  match c.getLast? with
  | none => start
  | some i => (e.segment i).next

theorem reachedFrom_named {e : Engine} {b i : Nat} (h : e.named b i) (n : Nat) :
    e.reachedFrom b (n + 1) (some i) = i :: e.reachedFrom b n (e.segment i).next := by
  obtain ⟨hs, hb⟩ := h
  rw [Engine.reachedFrom]
  exact if_pos (by simp [hs, hb])

theorem reachedFrom_unnamed {e : Engine} {b : Nat} {o : Option Nat} (h : ∀ i, o = some i → ¬ e.named b i) (n : Nat) : e.reachedFrom b n o = [] := by
  cases n with
  | zero => rfl
  | succ n =>
    cases o with
    | none => rfl
    | some i =>
      rw [Engine.reachedFrom]
      exact if_neg fun k => h i rfl (by simpa [Engine.named] using k)

theorem behind_cons (e : Engine) (o : Option Nat) (i : Nat) (c : List Nat) : e.behind o (i :: c) = e.behind (e.segment i).next c := by
  unfold Engine.behind
  cases c with
  | nil => rfl
  | cons j c => rw [List.getLast?_cons_cons, List.getLast?_eq_some_getLast (List.cons_ne_nil j c)]

/-- A chain as the walk reaches it: it begins at the start, follows each next, and stops at a segment that is not the body's, or for want of fuel. -/
theorem reachedFrom_spec (e : Engine) (b : Nat) : ∀ (n : Nat) (o : Option Nat),
    (∀ i ∈ e.reachedFrom b n o, e.named b i) ∧ (e.reachedFrom b n o ≠ [] → (e.reachedFrom b n o).head? = o) ∧
      (∀ before i j after, e.reachedFrom b n o = before ++ i :: j :: after → (e.segment i).next = some j) ∧
      ((e.reachedFrom b n o).length = n ∨ ∀ j, e.behind o (e.reachedFrom b n o) = some j → ¬ e.named b j)
  | 0, o => ⟨fun _ h => absurd h List.not_mem_nil, fun h => absurd rfl h, fun before _ _ _ h => absurd h (by simp [Engine.reachedFrom]), .inl rfl⟩
  | n + 1, o => by
    by_cases hstop : ∀ i, o = some i → ¬ e.named b i
    · rw [reachedFrom_unnamed hstop]
      exact ⟨fun _ h => absurd h List.not_mem_nil, fun h => absurd rfl h, fun before _ _ _ h => absurd h (by simp), .inr hstop⟩
    · obtain ⟨i, rfl, hi⟩ : ∃ i, o = some i ∧ e.named b i := by simpa using hstop
      obtain ⟨hall, hhead, hlinks, hend⟩ := reachedFrom_spec e b n (e.segment i).next
      rw [reachedFrom_named hi, behind_cons]
      refine ⟨fun j hj => ?_, fun _ => rfl, fun before k j after hsplit => ?_, hend.imp (congrArg (· + 1)) id⟩
      · rcases List.mem_cons.1 hj with rfl | hj
        · exact hi
        · exact hall j hj
      · cases before with
        | nil =>
          obtain ⟨rfl, htail⟩ := List.cons.inj hsplit
          rw [htail] at hhead
          exact (hhead (List.cons_ne_nil j after)).symm
        | cons a before => exact hlinks before k j after (List.cons.inj hsplit).2

/-- A DATA segment is one of those that the map lists. -/
theorem data_listed {e : Engine} {i : Nat} (h : (e.segment i).state = .data) :
    i ∈ (e.tab.segments.filter (fun x => x.2.state = .data)).map (·.1) := by
  have hfind : ∃ x, Tab.find? e.tab.segments i = some x ∧ x.state = .data := by
    unfold Engine.segment Tab.get at h
    cases hf : Tab.find? e.tab.segments i with
    | none => exact nomatch (show SegState.dirty = .data by rwa [hf] at h)
    | some x => exact ⟨x, rfl, by rwa [hf] at h⟩
  obtain ⟨x, hx, hs⟩ := hfind
  exact List.mem_map.2 ⟨(i, x), List.mem_filter.2 ⟨Tab.mem_of_find? hx, decide_eq_true hs⟩, rfl⟩

theorem reached_eq {e : Engine} {b : Nat} {x : Body} (h : e.body b = some x) : e.reached b = e.reachedFrom b (e.listedSegments .data) x.first := by
  unfold Engine.reached
  rw [h]

/-- The chain of a body, as the walk reaches it (R112). -/
theorem reached_spec {e : Engine} {b : Nat} {x : Body} (h : e.body b = some x) :
    (∀ i ∈ e.reached b, e.named b i) ∧ (e.reached b ≠ [] → (e.reached b).head? = x.first) ∧
      (e.reached b = [] → ∀ i, x.first = some i → ¬ e.named b i) ∧
      (∀ before i j after, e.reached b = before ++ i :: j :: after → (e.segment i).next = some j) ∧
      (∀ i j, (e.reached b).Nodup → (e.reached b).getLast? = some i → (e.segment i).next = some j → e.named b j → j ∈ e.reached b) := by
  obtain ⟨hall, hhead, hlinks, hend⟩ := reachedFrom_spec e b (e.listedSegments .data) x.first
  rw [← reached_eq h] at hall hhead hlinks hend
  refine ⟨hall, hhead, fun hnil i hi hnamed => ?_, hlinks, fun i j hn hlast hnext hj => Decidable.by_contra fun hc => ?_⟩
  · obtain ⟨n, hn⟩ : ∃ n, e.listedSegments .data = n + 1 := by
      refine ⟨e.listedSegments .data - 1, ?_⟩
      have hmem := data_listed hnamed.1
      have hpos := List.length_pos_of_mem hmem
      rw [List.length_map] at hpos
      have hpos' : 0 < e.listedSegments .data := hpos
      omega
    rw [reached_eq h, hn, hi, reachedFrom_named hnamed] at hnil
    exact nomatch hnil
  · rcases hend with hlength | hstop
    · have hsub : j :: e.reached b ⊆ (e.tab.segments.filter (fun x => x.2.state = .data)).map (·.1) := fun k hk => by
        rcases List.mem_cons.1 hk with rfl | hk
        · exact data_listed hj.1
        · exact data_listed (hall k hk).1
      have hle := ((List.nodup_cons.2 ⟨hc, hn⟩).subperm hsub).length_le
      rw [List.length_map, List.length_cons, hlength] at hle
      exact absurd hle (Nat.not_succ_le_self _)
    · refine hstop j ?_ hj
      rw [Engine.behind, hlast]
      exact hnext

end Sys2Proof.Machine

namespace Sys2Proof.Machine

/-! Proofs about section 4.6: the walk's lists of segments (R69, R72, R92). -/

/-! ## Lists in rising order -/

theorem mem_listedIn {e : Engine} (h : Tab.risingFrom none e.tab.segments = true) {st : SegState} (hst : st ≠ .dirty) (i : Nat) :
    i ∈ (e.tab.segments.filter (fun x => x.2.state = st)).map (·.1) ↔ (e.segment i).state = st := by
  rw [mem_stateKeys h (fun g => decide (g.state = st)), segment_state]
  cases Tab.find? e.tab.segments i with
  | none => simpa using hst.symm
  | some g => simp

theorem key_of_state {e : Engine} {i : Nat} (h : (e.segment i).state ≠ .dirty) : i ∈ e.tab.segments.map (·.1) := by
  refine Decidable.by_contra fun hc => h ?_
  rw [segment_state, Tab.find?_eq_none_iff.2 hc]
  rfl

/-- Two rising lists with the same members are one. -/
theorem rising_eq {p q : List Nat} (hp : p.Pairwise (· < ·)) (hq : q.Pairwise (· < ·)) (h : ∀ i, i ∈ p ↔ i ∈ q) : p = q :=
  hp.eq_of_mem_iff hq (fun {i} => h i)

/-- The listed segments of a state, over a map whose states agree with another's, are found among the other's keys. -/
theorem listedIn_eq {e g : Engine} (he : Tab.risingFrom none e.tab.segments = true) (hg : Tab.risingFrom none g.tab.segments = true) {st : SegState}
    (hst : st ≠ .dirty) (h : ∀ i, (g.segment i).state = st ↔ (e.segment i).state = st) :
    (g.tab.segments.filter (fun x => x.2.state = st)).map (·.1) = (e.tab.segments.map (·.1)).filter (fun i => (e.segment i).state = st) := by
  refine rising_eq (rising_pairwise none _ (risingFrom_filter _ none _ hg)) ((rising_pairwise none _ he).filter _) fun i => ?_
  rw [mem_listedIn hg hst, List.mem_filter, decide_eq_true_iff, h]
  exact ⟨fun hs => ⟨key_of_state (by rw [hs]; exact hst), hs⟩, fun hs => hs.2⟩

/-- The runs name, in rising order, the segments up to the total that a rising list below it does not. -/
theorem gapRuns_eq (total : Nat) : ∀ (is : List Nat) (lo : Nat), is.Pairwise (· < ·) → (∀ i ∈ is, lo ≤ i ∧ i < total) →
    (Run.segments (gapRuns total lo is)).Pairwise (· < ·) ∧ ∀ i ∈ Run.segments (gapRuns total lo is), i < total
  | [], lo, _, _ => by
    have hgap : Run.segments (gapRuns total lo []) = (List.range (total - lo)).map (fun k => lo + k) := by
      unfold gapRuns
      exact segments_gap lo total
    rw [hgap]
    refine ⟨List.pairwise_map.2 (List.pairwise_lt_range.imp fun h => Nat.add_lt_add_left h lo), fun i hi => ?_⟩
    have := (mem_run _ _ _).1 hi
    omega
  | k :: is, lo, hs, hlo => by
    obtain ⟨hk, hs⟩ := List.pairwise_cons.1 hs
    obtain ⟨hsorted, hbelow⟩ := gapRuns_eq total is (k + 1) hs (fun i hi => ⟨hk i hi, (hlo i (List.mem_cons_of_mem _ hi)).2⟩)
    obtain ⟨-, hin, -⟩ := gapRuns_segments total is (k + 1) hs (fun i hi => hk i hi)
    have hgap : Run.segments (gapRuns total lo (k :: is)) =
        (List.range (k - lo)).map (fun j => lo + j) ++ Run.segments (gapRuns total (k + 1) is) := by
      rw [← segments_gap lo k, ← segments_append]
      rfl
    have hktotal := (hlo k List.mem_cons_self).2
    rw [hgap]
    refine ⟨List.pairwise_append.2 ⟨List.pairwise_map.2 (List.pairwise_lt_range.imp fun h => Nat.add_lt_add_left h lo), hsorted, fun a ha b hb => ?_⟩,
      fun i hi => ?_⟩
    · have h1 := (mem_run _ _ _).1 ha
      have h2 := (hin b hb).1
      omega
    · rcases List.mem_append.1 hi with hi | hi
      · have := (mem_run _ _ _).1 hi
        omega
      · exact hbelow i hi

/-- The erase queue built from the map names the DIRTY segments in rising order (R92). -/
theorem buildLists_segments {e : Engine} (h : Tab.risingFrom none e.tab.segments = true) (hk : ∀ i ∈ e.tab.segments.map (·.1), i < e.segmentTotal) :
    Run.segments e.buildLists.ssc.eraseQueue = (List.range e.segmentTotal).filter (fun i => (e.segment i).state = .dirty) := by
  have hnot := rising_pairwise none _ (risingFrom_filter (fun x => decide (x.2.state ≠ .dirty)) none _ h)
  have hlisted : ∀ i ∈ (e.tab.segments.filter (fun x => decide (x.2.state ≠ .dirty))).map (·.1), 0 ≤ i ∧ i < e.segmentTotal := fun i hi => by
    obtain ⟨x, hx, rfl⟩ := List.mem_map.1 hi
    exact ⟨Nat.zero_le _, hk _ (List.mem_map_of_mem (List.mem_filter.1 hx).1)⟩
  have hdirty : ∀ i, i ∈ (e.tab.segments.filter (fun x => decide (x.2.state ≠ .dirty))).map (·.1) ↔ (e.segment i).state ≠ .dirty := fun i => by
    rw [mem_stateKeys h (fun g => decide (g.state ≠ .dirty)), segment_state]
    cases Tab.find? e.tab.segments i <;> simp
  obtain ⟨hsorted, hbelow⟩ := gapRuns_eq e.segmentTotal _ 0 hnot hlisted
  obtain ⟨-, hin, hall⟩ := gapRuns_segments e.segmentTotal _ 0 hnot (fun i _ => Nat.zero_le i)
  refine rising_eq hsorted (List.pairwise_lt_range.filter _) fun i => ?_
  rw [List.mem_filter, List.mem_range, decide_eq_true_iff]
  exact ⟨fun hi => ⟨hbelow i hi, not_not.1 (fun k => (hin i hi).2 ((hdirty i).2 k))⟩,
    fun hi => hall i (Nat.zero_le i) hi.1 (fun k => (hdirty i).1 k hi.2)⟩

/-! ## Segments let go while the part starts (R74, R92, R95) -/

theorem joinDirty_starting {e : Engine} (h : e.ssc.service = .starting) (i : Nat) :
    e.joinDirty i = (e.putDirty i).modSsc (fun c => { c with eraseQueue := Run.push i c.eraseQueue }) := by
  unfold Engine.joinDirty Engine.examinePool
  exact if_pos (by simp [show (e.putDirty i).ssc.service = .starting from h])

/-- From e to g the map, the bodies and the pool's two lists have changed, and the writes asked for. -/
def Engine.Walks (e g : Engine) : Prop :=
  g = { e with tab := { e.tab with segments := g.tab.segments, bodies := g.tab.bodies }, asked := g.asked,
               ssc := { e.ssc with freeList := g.ssc.freeList, eraseQueue := g.ssc.eraseQueue } }

namespace Engine.Walks

theorem refl (e : Engine) : e.Walks e := rfl

theorem trans {e f g : Engine} (h : e.Walks f) (k : f.Walks g) : e.Walks g := by
  unfold Engine.Walks at h k ⊢
  rw [h] at k
  exact k

theorem ite {p : Prop} [Decidable p] {e f g : Engine} (h : e.Walks f) (k : e.Walks g) : e.Walks (if p then f else g) := ite_kept h k

theorem foldl {α : Type} {op : Engine → α → Engine} (hop : ∀ (e : Engine) (x : α), e.Walks (op e x)) (l : List α) (e : Engine) : e.Walks (l.foldl op e) :=
  foldl_kept (P := fun g : Engine => e.Walks g) (fun g x h => h.trans (hop g x)) l (refl e)

theorem service {e g : Engine} (h : e.Walks g) : g.ssc.service = e.ssc.service := by
  unfold Engine.Walks at h
  rw [h]

end Engine.Walks

/-- What segments let go change while the part starts: the map and the erase queue, and the writes asked for. -/
theorem makeAllDirty_walks : ∀ (is : List Nat) (e : Engine), e.ssc.service = .starting → e.Walks (e.makeAllDirty is)
  | [], e, _ => .refl e
  | i :: is, e, h => by
    have hone : e.Walks (e.makeDirty i) := by
      unfold Engine.makeDirty
      refine .ite ?_ (.refl e)
      rw [joinDirty_starting h]
      exact rfl
    exact hone.trans (makeAllDirty_walks is (e.makeDirty i) (hone.service.trans h))

end Sys2Proof.Machine

namespace Sys2Proof.Machine

/-! Proofs about section 4.6: the walk (R92, R112). -/

/-! ## What the chains are read from -/

/-- Two maps with the same DATA segments. -/
def Engine.SameData (e g : Engine) : Prop :=
  (∀ i, (g.segment i).state = .data ↔ (e.segment i).state = .data) ∧ (∀ i, (e.segment i).state = .data → g.segment i = e.segment i) ∧
    g.listedSegments .data = e.listedSegments .data

theorem reachedFrom_sameData {e g : Engine} (h : e.SameData g) (b : Nat) : ∀ (n : Nat) (o : Option Nat), g.reachedFrom b n o = e.reachedFrom b n o
  | 0, _ => rfl
  | _ + 1, none => rfl
  | n + 1, some i => by
    rw [Engine.reachedFrom, Engine.reachedFrom]
    by_cases hs : (e.segment i).state = .data
    · rw [h.2.1 i hs, reachedFrom_sameData h b n]
    · have hg : ¬ (g.segment i).state = .data := fun k => hs ((h.1 i).1 k)
      simp [hs, hg]

theorem reached_sameData {e g : Engine} (h : e.SameData g) {b : Nat} (hb : g.body b = e.body b) : g.reached b = e.reached b := by
  unfold Engine.reached
  rw [hb]
  cases e.body b with
  | none => rfl
  | some x =>
    dsimp only
    rw [h.2.2, reachedFrom_sameData h]

theorem sameData_of_segments {e g : Engine} (h : g.tab.segments = e.tab.segments) : e.SameData g :=
  ⟨fun i => by rw [segment_congr h], fun i _ => segment_congr h i, by rw [Engine.listedSegments, h, Engine.listedSegments]⟩

/-! ## ALLOCATED segments (R92) -/

theorem putDirtys_keys {i : Nat} : ∀ (is : List Nat) (e : Engine), i ∉ is → Tab.find? e.tab.segments i = none →
    Tab.find? (is.foldl (fun e i => e.putDirty i) e).tab.segments i = none
  | [], _, _, h => h
  | j :: is, e, hmem, h => by
    obtain ⟨hne, hmem⟩ := not_or.1 (mt List.mem_cons.2 hmem)
    refine putDirtys_keys is (e.putDirty j) hmem ?_
    show Tab.find? (Tab.set SegEntry.blank j _ e.tab.segments) i = none
    unfold Tab.set
    split
    · rw [Tab.find?_erase, if_neg hne]
      exact h
    · rw [Tab.find?_insert, if_neg hne]
      exact h

/-- The map lists no segment that it did not. -/
theorem dirtyAllocated_keys {e : Engine} {i : Nat} (hi : i ∈ e.dirtyAllocated.tab.segments.map (·.1)) : i ∈ e.tab.segments.map (·.1) := by
  refine Decidable.by_contra fun hc => ?_
  have hnone := putDirtys_keys ((e.tab.segments.filter (fun x => x.2.state = .allocated)).map (·.1)) e (fun hm => hc ?_) (Tab.find?_eq_none_iff.2 hc)
  · exact Tab.find?_eq_none_iff.1 hnone hi
  · obtain ⟨x, hx, rfl⟩ := List.mem_map.1 hm
    exact List.mem_map_of_mem (List.mem_filter.1 hx).1

theorem segments_pushed : ∀ (is : List Nat) (q : List Run), Run.segments (is.foldl (fun q i => Run.push i q) q) = Run.segments q ++ is
  | [], q => (List.append_nil _).symm
  | i :: is, q => by
    rw [List.foldl_cons, segments_pushed is, Run.segments_push, List.append_assoc]
    rfl

section Allocated
variable {e : Engine} (h : Tab.risingFrom none e.tab.segments = true)
include h

theorem dirtyAllocated_rising : Tab.risingFrom none e.dirtyAllocated.tab.segments = true :=
  dirtyAllocated_kept (P := fun g : Engine => Tab.risingFrom none g.tab.segments = true) (fun w _ k => apply_segments_rising w k) h

theorem dirtyAllocated_segment (i : Nat) : e.dirtyAllocated.segment i =
    if (e.segment i).state = .allocated then (e.segment i).dirtied else e.segment i := by
  refine (putDirtys_segment _ e i).trans ?_
  by_cases hs : (e.segment i).state = .allocated
  · rw [if_pos hs, if_pos ((mem_listedIn h (st := .allocated) nofun i).2 hs)]
  · rw [if_neg hs, if_neg (mt (mem_listedIn h (st := .allocated) nofun i).1 hs)]

theorem dirtyAllocated_state {st : SegState} (hd : st ≠ .dirty) (ha : st ≠ .allocated) (i : Nat) :
    (e.dirtyAllocated.segment i).state = st ↔ (e.segment i).state = st := by
  rw [dirtyAllocated_segment h]
  split
  · next hs => exact ⟨fun k => absurd k.symm hd, fun k => absurd (k.symm.trans hs) ha⟩
  · exact Iff.rfl

theorem dirtyAllocated_sameData : e.SameData e.dirtyAllocated := by
  have hstate := fun i => dirtyAllocated_state h (st := .data) nofun nofun i
  refine ⟨hstate, fun i hs => ?_, ?_⟩
  · rw [dirtyAllocated_segment h, if_neg (by rw [hs]; exact nofun)]
  · have hlists := listedIn_eq h (dirtyAllocated_rising h) (st := .data) nofun hstate
    have hself := listedIn_eq h h (st := .data) nofun (fun _ => Iff.rfl)
    have hlength := congrArg List.length (hlists.trans hself.symm)
    rw [List.length_map, List.length_map] at hlength
    exact hlength

end Allocated

/-! ## OPEN bodies (R112) -/

/-- A body with its ends and its count as its chain gives them, where it is OPEN. -/
def Body.refit (c : List Nat) (x : Body) : Body := if x.sealed then x else { x with first := c.head?, last := c.getLast?, count := c.length }

theorem fitOpenBody_body (b : Nat) (e : Engine) (a : Nat) :
    (e.fitOpenBody b).body a = if a = b then (e.body a).map (Body.refit (e.reached b)) else e.body a := by
  unfold Engine.fitOpenBody
  by_cases ha : a = b
  · subst ha
    rw [if_pos rfl]
    cases hb : e.body a with
    | none => exact hb
    | some x =>
      dsimp only
      rw [Option.map_some, Body.refit]
      cases hs : x.sealed with
      | true =>
        rw [if_pos (by simp), if_pos rfl]
        exact hb
      | false =>
        rw [if_neg Bool.false_ne_true]
        split
        · next hy =>
          simp only [Bool.false_or, decide_eq_true_eq] at hy
          rw [hy]
          exact hb
        · rw [body_putBody, if_pos rfl]
  · rw [if_neg ha]
    split
    · rfl
    · dsimp only
      split
      · rfl
      · rw [body_putBody, if_neg ha]

theorem fitOpenBody_walks (b : Nat) (e : Engine) : e.Walks (e.fitOpenBody b) ∧ (e.fitOpenBody b).tab.segments = e.tab.segments := by
  unfold Engine.fitOpenBody
  split
  · exact ⟨.refl e, rfl⟩
  · dsimp only
    split
    · exact ⟨.refl e, rfl⟩
    · exact ⟨rfl, rfl⟩

/-- A body refitted is reached as it was. -/
theorem reached_refit {e g : Engine} (h : e.SameData g) {b : Nat} {c : List Nat} (hc : c = e.reached b)
    (hb : g.body b = (e.body b).map (Body.refit c)) : g.reached b = e.reached b := by
  cases hx : e.body b with
  | none => exact reached_sameData h (by rw [hb, hx]; rfl)
  | some x =>
    rw [hx, Option.map_some] at hb
    rw [reached_eq hb, h.2.2, reachedFrom_sameData h]
    cases hs : x.sealed with
    | true => rw [Body.refit, if_pos hs, ← reached_eq hx]
    | false =>
      have hfirst : (Body.refit c x).first = (e.reached b).head? := by
        rw [Body.refit, if_neg (by simp [hs]), hc]
      rw [hfirst]
      obtain ⟨-, hhead, -, -, -⟩ := reached_spec hx
      by_cases hnil : e.reached b = []
      · rw [hnil]
        exact reachedFrom_unnamed (fun i hi => nomatch (show (none : Option Nat) = some i from hi)) _
      · rw [hhead hnil, ← reached_eq hx]

theorem refit_twice (c : List Nat) (x : Body) : Body.refit c (Body.refit c x) = Body.refit c x := by
  unfold Body.refit
  cases hs : x.sealed <;> simp [hs]

theorem fitOpenBody_reached (b : Nat) (e : Engine) (a : Nat) : (e.fitOpenBody b).reached a = e.reached a := by
  have hsame := sameData_of_segments (fitOpenBody_walks b e).2
  by_cases ha : a = b
  · subst ha
    exact reached_refit hsame rfl ((fitOpenBody_body a e a).trans (if_pos rfl))
  · exact reached_sameData hsame ((fitOpenBody_body b e a).trans (if_neg ha))

theorem fitOpenBodies_spec : ∀ (bs : List Nat) (e : Engine),
    e.Walks (bs.foldl (fun e b => e.fitOpenBody b) e) ∧ (bs.foldl (fun e b => e.fitOpenBody b) e).tab.segments = e.tab.segments ∧
      (∀ a, (bs.foldl (fun e b => e.fitOpenBody b) e).reached a = e.reached a) ∧
      ∀ a, (bs.foldl (fun e b => e.fitOpenBody b) e).body a = if a ∈ bs then (e.body a).map (Body.refit (e.reached a)) else e.body a
  | [], e => ⟨.refl e, rfl, fun _ => rfl, fun _ => rfl⟩
  | b :: bs, e => by
    obtain ⟨hwalks, hsegments, hreached, hbody⟩ := fitOpenBodies_spec bs (e.fitOpenBody b)
    obtain ⟨hwalks1, hsegments1⟩ := fitOpenBody_walks b e
    refine ⟨hwalks1.trans hwalks, hsegments.trans hsegments1, fun a => (hreached a).trans (fitOpenBody_reached b e a), fun a => ?_⟩
    rw [List.foldl_cons, hbody, fitOpenBody_reached, fitOpenBody_body]
    by_cases hmem : a ∈ bs
    · rw [if_pos hmem, if_pos (List.mem_cons_of_mem _ hmem)]
      split
      · next ha =>
        rw [ha, Option.map_map]
        exact congrArg (fun f => Option.map f (e.body b)) (funext fun x => refit_twice _ x)
      · rfl
    · rw [if_neg hmem]
      by_cases ha : a = b
      · rw [if_pos ha, if_pos (ha ▸ List.mem_cons_self), ha]
      · rw [if_neg ha, if_neg (fun k => (List.mem_cons.1 k).elim ha hmem)]

/-! ## The walk -/

/-- The engine whose segments out of every chain the walk makes DIRTY. -/
def Engine.refitted (e : Engine) : Engine :=
  e.dirtyAllocated.buildLists.bodiesInUse.foldl (fun e b => e.fitOpenBody b) e.dirtyAllocated.buildLists

/-- The DATA segments that no chain reaches, in rising order. -/
def Engine.unchained (e : Engine) : List Nat :=
  (e.tab.segments.map (·.1)).filter (fun i => (e.segment i).state = .data && !e.bodiesInUse.any (fun b => (e.reached b).contains i))

section Walk
variable {e : Engine} (h : Tab.risingFrom none e.tab.segments = true)

theorem refitted_spec : e.Walks e.refitted ∧ e.refitted.tab.segments = e.dirtyAllocated.tab.segments ∧
    e.refitted.ssc = e.dirtyAllocated.buildLists.ssc ∧ (∀ a, e.refitted.body a = (e.body a).map (Body.refit (e.dirtyAllocated.buildLists.reached a))) ∧
    ∀ a, e.refitted.reached a = e.dirtyAllocated.buildLists.reached a := by
  obtain ⟨hwalks, hsegments, hreached, hbody⟩ := fitOpenBodies_spec e.dirtyAllocated.buildLists.bodiesInUse e.dirtyAllocated.buildLists
  have hdirty : e.Walks e.dirtyAllocated := .foldl (op := fun e i => e.putDirty i) (fun e i => rfl) _ e
  have hbuilt : e.dirtyAllocated.Walks e.dirtyAllocated.buildLists := rfl
  have hbodies : e.dirtyAllocated.tab.bodies = e.tab.bodies := (dirtyAllocated_within e).keeps .bodies rfl
  have hssc : e.refitted.ssc = e.dirtyAllocated.buildLists.ssc := by
    refine foldl_kept (P := fun g : Engine => g.ssc = e.dirtyAllocated.buildLists.ssc) (fun g b k => ?_) _ rfl
    unfold Engine.fitOpenBody
    split
    · exact k
    · exact ite_kept (P := fun g : Engine => g.ssc = e.dirtyAllocated.buildLists.ssc) k k
  refine ⟨(hdirty.trans hbuilt).trans hwalks, hsegments, hssc, fun a => (hbody a).trans ?_, hreached⟩
  have hof : e.dirtyAllocated.buildLists.body a = e.body a := congrArg (fun t => Tab.find? t a) hbodies
  split
  · rw [hof]
  · next hmem =>
    have hnone : e.dirtyAllocated.buildLists.body a = none := Tab.find?_eq_none_iff.2 hmem
    rw [hnone, ← hof, hnone]
    rfl

include h

theorem refitted_reached (a : Nat) : e.refitted.reached a = e.reached a := by
  obtain ⟨-, -, -, -, hreached⟩ := refitted_spec (e := e)
  refine (hreached a).trans ?_
  have hbodies : e.dirtyAllocated.tab.bodies = e.tab.bodies := (dirtyAllocated_within e).keeps .bodies rfl
  exact reached_sameData (e := e) (g := e.dirtyAllocated.buildLists) (dirtyAllocated_sameData h) (congrArg (fun t => Tab.find? t a) hbodies)

theorem refitted_chained (i : Nat) : i ∈ e.refitted.bodiesInUse.flatMap (fun b => e.refitted.reached b) ↔
    e.bodiesInUse.any (fun b => (e.reached b).contains i) = true := by
  obtain ⟨-, -, -, hbody, -⟩ := refitted_spec (e := e)
  have huse : ∀ b, b ∈ e.refitted.bodiesInUse ↔ b ∈ e.bodiesInUse := fun b => by
    have hof : ∀ g : Engine, b ∈ g.bodiesInUse ↔ g.body b ≠ none := fun g => by
      rw [Engine.body, ne_eq, Tab.find?_eq_none_iff, not_not]
      rfl
    rw [hof, hof, hbody]
    simp
  rw [List.mem_flatMap, List.any_eq_true]
  refine exists_congr fun b => and_congr (huse b) ?_
  rw [refitted_reached h, List.contains_iff_mem]

theorem walk_eq : e.walk = e.refitted.makeAllDirty e.unchained := by
  have hsegments : e.refitted.tab.segments = e.dirtyAllocated.tab.segments := (refitted_spec (e := e)).2.1
  have hlist : ((e.refitted.tab.segments.filter (fun x => x.2.state = .data)).map (·.1)).filter
      (fun i => !(e.refitted.bodiesInUse.flatMap (fun b => e.refitted.reached b)).contains i) = e.unchained := by
    rw [hsegments, listedIn_eq h (dirtyAllocated_rising h) (st := .data) nofun (dirtyAllocated_state h nofun nofun), List.filter_filter]
    refine List.filter_congr fun i _ => ?_
    have hchained : (e.refitted.bodiesInUse.flatMap (fun b => e.refitted.reached b)).contains i = e.bodiesInUse.any (fun b => (e.reached b).contains i) := by
      rw [Bool.eq_iff_iff, List.contains_iff_mem]
      exact refitted_chained h i
    rw [hchained, Bool.and_comm]
  rw [← hlist]
  rfl

theorem unchained_nodup : e.unchained.Nodup := ((rising_pairwise none _ h).imp fun k => Nat.ne_of_lt k).filter _

end Walk

theorem mem_unchained {e : Engine} {i : Nat} : i ∈ e.unchained ↔
    (e.segment i).state = .data ∧ e.bodiesInUse.any (fun b => (e.reached b).contains i) = false := by
  unfold Engine.unchained
  rw [List.mem_filter, Bool.and_eq_true, decide_eq_true_iff, Bool.not_eq_true']
  exact ⟨fun k => k.2, fun k => ⟨key_of_state (by rw [k.1]; exact nofun), k⟩⟩

/-- The walk, over a map with rising entries, in STARTING (R92, R112). -/
theorem walk_spec {e : Engine} (hs : e.ssc.service = .starting) (h : Tab.risingFrom none e.tab.segments = true) :
    e.Walks e.walk ∧
      (∀ i, e.walk.segment i = if (e.segment i).state = .allocated ∨ ((e.segment i).state = .data ∧
        e.bodiesInUse.any (fun b => (e.reached b).contains i) = false) then { e.segment i with state := .dirty, body := none, next := none } else e.segment i) ∧
      e.walk.ssc.freeList = (e.tab.segments.map (·.1)).filter (fun i => (e.segment i).state = .erased) ∧
      ((∀ i ∈ e.tab.segments.map (·.1), i < e.segmentTotal) → Run.segments e.walk.ssc.eraseQueue =
        (List.range e.segmentTotal).filter (fun i => (e.segment i).state = .dirty || (e.segment i).state = .allocated) ++ e.unchained) ∧
      ∀ b, e.walk.body b = (e.body b).map (fun x => if x.sealed then x else
        { x with first := (e.reached b).head?, last := (e.reached b).getLast?, count := (e.reached b).length }) := by
  obtain ⟨hwalks, hsegments, hssc, hbody, hreached⟩ := refitted_spec (e := e)
  have hsegment : ∀ i, e.refitted.segment i = if (e.segment i).state = .allocated then (e.segment i).dirtied else e.segment i := fun i =>
    (segment_congr hsegments i).trans (dirtyAllocated_segment h i)
  have hdata : ∀ i ∈ e.unchained, (e.refitted.segment i).state = .data := fun i hi => by
    obtain ⟨hd, -⟩ := mem_unchained.1 hi
    rw [hsegment, if_neg (by rw [hd]; exact nofun)]
    exact hd
  obtain ⟨hqueue, hfree⟩ := makeAllDirty_ssc e.unchained e.refitted (unchained_nodup h)
  rw [List.filter_eq_self.2 fun i hi => decide_eq_true (hdata i hi)] at hqueue
  have hdirtied := makeAllDirty_walks e.unchained e.refitted (hwalks.service.trans hs)
  rw [walk_eq h]
  refine ⟨hwalks.trans hdirtied, fun i => ?_, ?_, fun hk => ?_, fun b => ?_⟩
  · rw [segment_makeAllDirty, hsegment]
    by_cases ha : (e.segment i).state = .allocated
    · have hnot : i ∉ e.unchained := fun k => absurd (ha.symm.trans (mem_unchained.1 k).1) nofun
      rw [if_pos ha, if_neg (fun k => hnot k.1), if_pos (.inl ha)]
      rfl
    · rw [if_neg ha]
      by_cases hu : i ∈ e.unchained
      · rw [if_pos ⟨hu, (mem_unchained.1 hu).1⟩, if_pos (.inr (mem_unchained.1 hu))]
        rfl
      · rw [if_neg (fun k => hu k.1), if_neg (fun k => k.elim ha (fun k => hu (mem_unchained.2 k)))]
  · rw [hfree, hssc]
    exact listedIn_eq h (dirtyAllocated_rising h) (st := .erased) nofun (dirtyAllocated_state h nofun nofun)
  · have htotal : e.dirtyAllocated.segmentTotal = e.segmentTotal := total_congr ((dirtyAllocated_within e).keeps .signature rfl)
    have hkeys : ∀ i ∈ e.dirtyAllocated.tab.segments.map (·.1), i < e.dirtyAllocated.segmentTotal := fun i hi => by
      rw [htotal]
      exact hk i (dirtyAllocated_keys hi)
    rw [hqueue, segments_pushed, hssc, buildLists_segments (dirtyAllocated_rising h) hkeys, htotal]
    refine congrArg (· ++ e.unchained) (List.filter_congr fun i _ => ?_)
    rw [Bool.eq_iff_iff, Bool.or_eq_true, decide_eq_true_iff, decide_eq_true_iff, decide_eq_true_iff, dirtyAllocated_segment h]
    by_cases ha : (e.segment i).state = .allocated
    · rw [if_pos ha]
      exact ⟨fun _ => .inr ha, fun _ => rfl⟩
    · rw [if_neg ha]
      exact ⟨.inl, fun k => k.resolve_right ha⟩
  · have hbodies : (e.refitted.makeAllDirty e.unchained).tab.bodies = e.refitted.tab.bodies := (makeAllDirty_within _ _).keeps .bodies rfl
    refine (congrArg (fun t => Tab.find? t b) hbodies).trans ((hbody b).trans ?_)
    have hsame : e.dirtyAllocated.buildLists.reached b = e.reached b := (hreached b).symm.trans (refitted_reached h b)
    rw [hsame]
    rfl

end Sys2Proof.Machine

namespace Sys2Proof.Machine

/-! Proofs about section 4.6: the repair of the distribution lists (R157). -/

/-- Where a list's walk has stopped: no entry, a free one, or one of a mailbox already met. -/
def Engine.stopped_at (e : Engine) (kept : List (Nat × Nat)) (cur : Option Nat) : Prop :=
  ∀ j u, cur = some j → Tab.find? e.tab.members j = some u → u.mailbox ∈ kept.map (·.2)

theorem keptMembers_stops (e : Engine) (first : Option Nat) : ∀ (n : Nat) (cur : Option Nat) (kept : List (Nat × Nat)), e.Walking first kept cur →
    ∃ cur', e.Walking first (e.keptMembers n cur kept) cur' ∧
      ((e.keptMembers n cur kept).length = n + kept.length ∨ e.stopped_at (e.keptMembers n cur kept) cur')
  | 0, cur, kept, h => ⟨cur, h, .inl (Nat.zero_add _).symm⟩
  | n + 1, none, kept, h => ⟨none, h, .inr fun j u hj => nomatch hj⟩
  | n + 1, some i, kept, h => by
    unfold Engine.keptMembers
    split
    · next hfree => exact ⟨some i, h, .inr fun j u hj hu => by rw [← Option.some.inj hj, hfree] at hu; exact nomatch hu⟩
    · next v hv =>
      split
      · next hmet =>
        refine ⟨some i, h, .inr fun j u hj hu => ?_⟩
        rw [← Option.some.inj hj, hv] at hu
        obtain ⟨x, hx, hxm⟩ := List.any_eq_true.1 hmet
        exact List.mem_map.2 ⟨x, hx, Option.some.inj hu ▸ of_decide_eq_true hxm⟩
      · next hnew =>
        have hfresh : v.mailbox ∉ kept.map (·.2) := fun hm => hnew (by
          obtain ⟨x, hx, hxm⟩ := List.mem_map.1 hm
          exact List.any_eq_true.2 ⟨x, hx, decide_eq_true hxm⟩)
        obtain ⟨cur', hwalk, hend⟩ := keptMembers_stops e first n v.next _ (h.snoc hv hfresh)
        refine ⟨cur', hwalk, hend.imp (fun k => ?_) id⟩
        rw [k, List.length_append, List.length_singleton]
        omega

theorem memberLinks_suffix {e : Engine} {q : List Nat} : ∀ {p : List Nat}, e.memberLinks (p ++ q) → e.memberLinks q
  | [], h => h
  | _ :: _, h => memberLinks_suffix (memberLinks_cons.1 h).2

/-- The walk of a list (R157). -/
theorem walkList_spec (e : Engine) (l : Nat) : (e.walkList l).length ≤ 512 ∧ ((e.walkList l).map (·.2)).Nodup ∧
    (∀ p ∈ e.walkList l, ∃ v, Tab.find? e.tab.members p.1 = some v ∧ v.mailbox = p.2) ∧
    (e.walkList l ≠ [] → ((e.walkList l).map (·.1)).head? = (e.list l).first) ∧
    (e.walkList l = [] → ∀ i, (e.list l).first = some i → Tab.find? e.tab.members i = none) ∧
    (∀ before p q after, e.walkList l = before ++ p :: q :: after → ∃ v, Tab.find? e.tab.members p.1 = some v ∧ v.next = some q.1) ∧
    (∀ p v j u, (e.walkList l).length < 512 → (e.walkList l).getLast? = some p → Tab.find? e.tab.members p.1 = some v → v.next = some j →
      Tab.find? e.tab.members j = some u → u.mailbox ∈ (e.walkList l).map (·.2)) := by
  obtain ⟨-, -, hlength⟩ := walkList_walking e l
  obtain ⟨cur, hwalk, hend⟩ := keptMembers_stops e (e.list l).first Config.listMembers (e.list l).first []
    ⟨memberLinks_nil e, by simp, by simp, by simp, List.nodup_nil⟩
  have hw : e.keptMembers Config.listMembers (e.list l).first [] = e.walkList l := rfl
  rw [hw] at hwalk hend
  have hstop : (e.walkList l).length < 512 → e.stopped_at (e.walkList l) cur := fun hlt => hend.resolve_left (fun h => absurd h (Nat.ne_of_lt hlt))
  refine ⟨hlength, hwalk.once, hwalk.named, fun hne => ?_, fun hnil i hi => ?_, fun before p q after hsplit => ?_, fun p v j u hlt hlast hv hnext hu => ?_⟩
  · have hhead := hwalk.head
    rw [if_neg hne, Option.or_none] at hhead
    rw [List.head?_map]
    exact hhead
  · have hhead := hwalk.head
    have hlt : (e.walkList l).length < 512 := by
      rw [hnil]
      exact Nat.zero_lt_succ _
    rw [hnil, if_pos rfl] at hhead
    refine Option.eq_none_iff_forall_not_mem.2 fun u hu => ?_
    have hmem := hstop hlt i u (hhead.trans hi) hu
    rw [hnil] at hmem
    exact absurd hmem List.not_mem_nil
  · have hlinks := hwalk.links
    rw [hsplit, List.map_append] at hlinks
    obtain ⟨⟨v, hv, hnext⟩, -⟩ := memberLinks_cons.1 (memberLinks_suffix hlinks)
    exact ⟨v, hv, hnext (List.cons_ne_nil _ _)⟩
  · have hcur := hwalk.last p hlast
    rw [hv, Option.bind_some, hnext] at hcur
    exact hstop hlt j u hcur.symm hu

theorem repairLists_asking (e : Engine) : e.Asking e.repairLists := by
  have hfit : ∀ (e : Engine) (l : Nat), e.Asking (e.fitList l) := fun e l => by
    unfold Engine.fitList
    exact .ite (.refl e) (.put _ e)
  unfold Engine.repairLists
  exact (Engine.Asking.foldl hfit _ e).trans (.foldl (op := fun e i => e.put (.member i none)) (fun e i => .put _ e) _ _)

theorem repairLists_shape (e : Engine) : e.repairLists =
    { e with tab := { e.tab with lists := e.repairLists.tab.lists, members := e.repairLists.tab.members }, asked := e.repairLists.asked } := by
  have hwithin := repairLists_within e
  have htab : e.repairLists.tab = { e.tab with lists := e.repairLists.tab.lists, members := e.repairLists.tab.members } :=
    catalogue_eq (hwithin.keeps .signature rfl) (hwithin.keeps .segments rfl) (hwithin.keeps .bodies rfl) (hwithin.keeps .classes rfl)
      (hwithin.keeps .mailboxes rfl) (hwithin.keeps .records rfl) (hwithin.keeps .greetings rfl) rfl rfl (hwithin.keeps .settings rfl)
  rw [← htab]
  exact repairLists_asking e

/-- The repair of the distribution lists (R157). -/
theorem repairLists_spec (e : Engine) (l : Nat) : e.repairLists.list l =
    { first := ((e.walkList l).map (·.1)).head?, last := ((e.walkList l).map (·.1)).getLast?, count := (e.walkList l).length } := by
  rw [repairLists_list, Engine.fitted, Engine.keptEntries, List.length_map]

theorem repairLists_entries (e : Engine) (i : Nat) :
    ((∃ l, i ∈ (e.walkList l).map (·.1)) → Tab.find? e.repairLists.tab.members i = Tab.find? e.tab.members i) ∧
      ((∀ l, i ∉ (e.walkList l).map (·.1)) → Tab.find? e.repairLists.tab.members i = none) := by
  rw [repairLists_find]
  refine ⟨fun ⟨l, hl⟩ => if_pos (mem_reachedEntries e hl), fun h => if_neg fun hc => ?_⟩
  obtain ⟨x, hx, rfl⟩ := List.mem_map.1 hc
  obtain ⟨l, -, hl⟩ := List.mem_flatMap.1 hx
  exact h l (List.mem_map_of_mem hl)

end Sys2Proof.Machine

namespace Sys2Proof.Machine

/-! Proofs about section 4.6: the repair of a mailbox's list (R139). -/

/-! ## What the repair leaves of records and mailboxes -/

/-- A record without its place in a list. -/
def Record.unlinked (y : Record) : Record := { y with prev := none, next := none }

/-- From e to g the writes asked for change the links of records and the ends of lists alone. -/
structure Engine.Linking (e g : Engine) : Prop where
  asking : e.Asking g
  records : ∀ r, (g.record r).map Record.unlinked = (e.record r).map Record.unlinked
  boxes : ∀ n, (g.mailbox n).map (·.fields) = (e.mailbox n).map (·.fields)

namespace Engine.Linking

theorem refl (e : Engine) : e.Linking e := ⟨.refl e, fun _ => rfl, fun _ => rfl⟩

theorem trans {e f g : Engine} (h : e.Linking f) (k : f.Linking g) : e.Linking g :=
  ⟨h.asking.trans k.asking, fun r => (k.records r).trans (h.records r), fun n => (k.boxes n).trans (h.boxes n)⟩

theorem ite {p : Prop} [Decidable p] {e f g : Engine} (h : e.Linking f) (k : e.Linking g) : e.Linking (if p then f else g) := ite_kept h k

theorem foldl {α : Type} {op : Engine → α → Engine} (hop : ∀ (e : Engine) (x : α), e.Linking (op e x)) (l : List α) (e : Engine) :
    e.Linking (l.foldl op e) := foldl_kept (P := fun g : Engine => e.Linking g) (fun g x h => h.trans (hop g x)) l (refl e)

theorem putNext (e : Engine) (p : Nat) (n : Option Nat) : e.Linking (e.put (.recordNext p n)) := by
  refine ⟨.put _ e, fun r => ?_, fun m => by rw [mailbox_congr ((put_within e (.recordNext p n)).keeps .mailboxes rfl)]⟩
  rw [record_putRecordNext]
  split
  · rw [Option.map_map]
    rfl
  · rfl

theorem putPrev (e : Engine) (p : Nat) (n : Option Nat) : e.Linking (e.put (.recordPrev p n)) := by
  refine ⟨.put _ e, fun r => ?_, fun m => by rw [mailbox_congr ((put_within e (.recordPrev p n)).keeps .mailboxes rfl)]⟩
  rw [record_putRecordPrev]
  split
  · rw [Option.map_map]
    rfl
  · rfl

theorem putHead (e : Engine) (m : Nat) (r : Option Nat) : e.Linking (e.put (.boxHead m r)) := by
  refine ⟨.put _ e, fun q => by rw [record_congr ((put_within e (.boxHead m r)).keeps .records rfl)], fun n => ?_⟩
  rw [mailbox_putBoxHead]
  split
  · rw [Option.map_map]
    rfl
  · rfl

theorem putTail (e : Engine) (m : Nat) (r : Option Nat) : e.Linking (e.put (.boxTail m r)) := by
  refine ⟨.put _ e, fun q => by rw [record_congr ((put_within e (.boxTail m r)).keeps .records rfl)], fun n => ?_⟩
  rw [mailbox_putBoxTail]
  split
  · rw [Option.map_map]
    rfl
  · rfl

theorem fitPrevs : ∀ (rs : List Nat) (p : Option Nat) (e : Engine), e.Linking (e.fitPrevs p rs)
  | [], _, e => .refl e
  | r :: rs, p, e => (Engine.Linking.ite (.refl e) (putPrev e r p)).trans (fitPrevs rs (some r) (e.fitPrev r p))

theorem fitBox (m : Nat) (kept : List Nat) (e : Engine) : e.Linking (e.fitBox m kept) := by
  have hlast : ∀ e : Engine, e.Linking (e.fitLast kept) := fun e => by
    unfold Engine.fitLast
    split
    · exact .refl e
    · exact .ite (.refl e) (putNext e _ none)
  have hends : ∀ e : Engine, e.Linking (e.fitEnds m kept) := fun e => by
    unfold Engine.fitEnds
    split
    · exact .refl e
    · next b hb =>
      have hhead : e.Linking (if (decide (kept = []) && b.head.isSome) = true then e.put (.boxHead m none) else e) := .ite (putHead e m none) (.refl e)
      exact .ite hhead (hhead.trans (putTail _ m _))
  rw [fitBox_eq]
  exact ((fitPrevs kept none e).trans (hlast _)).trans (hends _)

theorem appendAgain (e : Engine) (r : Nat) : e.Linking (e.appendAgain r) := by
  unfold Engine.appendAgain
  cases hr : e.record r with
  | none => exact .refl e
  | some x =>
    dsimp only
    unfold Engine.appendRecord
    extract_lets tail e1 e2
    clear_value tail
    have h1 : e.Linking e1 := by
      refine ⟨.put _ e, fun q => ?_, fun n => by rw [mailbox_congr ((put_within e (.record r _)).keeps .mailboxes rfl)]⟩
      rw [record_putRecord]
      split
      · next hq =>
        rw [hq, hr]
        rfl
      · rfl
    have h2 : e1.Linking e2 := by
      show e1.Linking (match tail with | some t => _ | none => _)
      split
      · exact putNext e1 _ _
      · exact putHead e1 _ _
    exact (h1.trans h2).trans (putTail e2 _ _)

theorem repairBox (e : Engine) (m : Nat) : e.Linking (e.repairBox m) := (fitBox m _ e).trans (.foldl appendAgain _ _)

end Engine.Linking

/-! ## The walk of a mailbox's list -/

/-- Where a mailbox's walk has stopped: no record of the mailbox, or one it has kept. -/
def Engine.stopped_in (e : Engine) (m : Nat) (kept : List Nat) (cur : Option Nat) : Prop := ∀ r, cur = some r → e.recordOf m r → r ∈ kept

theorem keptRecords_stops {e : Engine} {m : Nat} {start : Option Nat} : ∀ (n : Nat) (cur : Option Nat) {kept : List Nat}, e.Walked m start kept cur →
    ∃ c, e.Walked m start (e.keptRecords m n cur kept) c ∧
      ((e.keptRecords m n cur kept).length = n + kept.length ∨ e.stopped_in m (e.keptRecords m n cur kept) c)
  | 0, cur, _, h => ⟨cur, h, .inl (Nat.zero_add _).symm⟩
  | _ + 1, none, _, h => ⟨none, h, .inr nofun⟩
  | n + 1, some r, kept, h => by
    unfold Engine.keptRecords
    cases hr : e.record r with
    | none =>
      refine ⟨some r, h, .inr fun q hq ⟨y, hy, _⟩ => ?_⟩
      rw [← Option.some.inj hq, hr] at hy
      exact nomatch hy
    | some x =>
      dsimp only
      by_cases hstop : (decide (x.mailbox ≠ m) || kept.contains r) = true
      · rw [if_pos hstop]
        refine ⟨some r, h, .inr fun q hq ⟨y, hy, hm⟩ => ?_⟩
        rw [← Option.some.inj hq, hr] at hy
        rw [Option.some.inj hy] at hstop
        simpa [hm, Option.some.inj hq] using hstop
      · rw [if_neg hstop]
        simp only [ne_eq, decide_not, Bool.or_eq_true, Bool.not_eq_true', decide_eq_false_iff_not, List.contains_iff_mem, not_or, not_not] at hstop
        obtain ⟨c, hwalk, hend⟩ := keptRecords_stops n x.next (h.snoc hstop.2 hr hstop.1)
        refine ⟨c, hwalk, hend.imp (fun k => ?_) id⟩
        rw [k, List.length_append, List.length_singleton]
        omega

/-- A walk that has taken as many steps as there are records has kept every record of the mailbox. -/
theorem walked_stopped {e : Engine} {m : Nat} {start cur : Option Nat} {kept : List Nat} (h : e.Walked m start kept cur)
    (hend : kept.length = e.tab.records.length ∨ e.stopped_in m kept cur) : e.stopped_in m kept cur := by
  refine hend.elim (fun hlength r hr hof => Decidable.by_contra fun hc => ?_) id
  have hkey : ∀ {q}, e.recordOf m q → q ∈ e.tab.records.map (·.1) := fun {q} ⟨y, hy, _⟩ => List.mem_map.2 ⟨_, Tab.mem_of_find? hy, rfl⟩
  have hsub : r :: kept ⊆ e.tab.records.map (·.1) := fun q hq => by
    rcases List.mem_cons.1 hq with rfl | hq
    · exact hkey hof
    · obtain ⟨y, -, hy, hm, -⟩ := h.next q hq
      exact hkey ⟨y, hy, hm⟩
  have hle := ((List.nodup_cons.2 ⟨hc, h.nodup⟩).subperm hsub).length_le
  rw [List.length_map, List.length_cons, hlength] at hle
  exact absurd hle (Nat.not_succ_le_self _)

/-! ## The repair -/

/-- A repaired mailbox's list is what its walk keeps, and behind it the mailbox's other records in rising number. -/
theorem repairBox_keeps {e : Engine} (hrise : e.recordsRise) {m : Nat} {b : Mailbox} (hb : e.mailbox m = some b) :
    ∃ kept rest cur, e.Walked m b.head kept cur ∧ e.stopped_in m kept cur ∧ rest.Pairwise (· < ·) ∧ (e.repairBox m).HasList m (kept ++ rest) ∧
      e.Relinks m (e.repairBox m) := by
  have hends : e.endsOf m = some (b.head, b.tail) := by
    rw [Engine.endsOf, hb]
    rfl
  obtain ⟨cur, hwalk, hend⟩ := keptRecords_stops e.tab.records.length b.head (walked_nil e m b.head)
  have hstop := walked_stopped hwalk hend
  have heq : e.repairBox m = (e.unreached m (e.keptRecords m e.tab.records.length b.head [])).foldl (fun e r => e.appendAgain r)
      (e.fitBox m (e.keptRecords m e.tab.records.length b.head [])) := by
    unfold Engine.repairBox
    rw [hb]
    rfl
  rw [heq]
  generalize e.keptRecords m e.tab.records.length b.head [] = kept at hwalk hstop
  obtain ⟨hchained, hfit⟩ := fitBox_chained hends hwalk
  have hmem := fun r => mem_unreached hrise (m := m) (r := r) (kept := kept)
  have hn : (kept ++ e.unreached m kept).Nodup :=
    List.nodup_append.2 ⟨hwalk.nodup, nodup_unreached hrise m kept, fun a ha b hb hab => ((hmem b).1 hb).2 (hab ▸ ha)⟩
  obtain ⟨hall, hagain⟩ := appendAgains_chained hchained hn (fun u hu => (hfit.names u).2 ((hmem u).1 hu).1)
  have hrelinks := hfit.trans hagain
  refine ⟨kept, e.unreached m kept, cur, hwalk, hstop, rising_pairwise none _ (risingFrom_filter _ none _ hrise),
    ⟨hall, fun q hq => not_not.1 (fun hc => hq ?_)⟩, hrelinks⟩
  have hnames := (hrelinks.names q).1 hc
  by_cases hk : q ∈ kept
  · exact List.mem_append_left _ hk
  · exact List.mem_append_right _ ((hmem q).2 ⟨hnames, hk⟩)

theorem record_of_unlinked {x y : Record} (h : x.unlinked = y.unlinked) (hp : x.prev = y.prev) (hn : x.next = y.next) : x = y := by
  cases x
  cases y
  simp_all [Record.unlinked]

/-- A record that names another mailbox, or none, stands. -/
theorem linking_record {e g : Engine} {m r : Nat} (h : e.Linking g) (k : e.Relinks m g) (hr : ¬ e.recordOf m r) : g.record r = e.record r := by
  have hbare := h.records r
  cases hx : e.record r with
  | none =>
    rw [hx, Option.map_none, Option.map_eq_none_iff] at hbare
    exact hbare
  | some x =>
    rw [hx, Option.map_some] at hbare
    obtain ⟨y, hy, hyx⟩ := Option.map_eq_some_iff.1 hbare
    have hbox : y.mailbox = x.mailbox := (congrArg Record.mailbox hyx :)
    have hne : x.mailbox ≠ m := fun hc => hr ⟨x, hx, hc⟩
    have hlinks := k.links x.mailbox hne r
    rw [Engine.linksIn, Engine.linksIn, hx, hy, Option.bind_some, Option.bind_some, if_pos hbox, if_pos rfl] at hlinks
    obtain ⟨hp, hn⟩ := Prod.mk.inj (Option.some.inj hlinks)
    rw [hy, record_of_unlinked hyx hp hn]

theorem linking_mailbox {e g : Engine} {m n : Nat} (h : e.Linking g) (k : e.Relinks m g) (hn : n ≠ m) : g.mailbox n = e.mailbox n := by
  have hfields := h.boxes n
  have hends := k.ends n hn
  unfold Engine.endsOf at hends
  cases hx : e.mailbox n with
  | none =>
    rw [hx, Option.map_none, Option.map_eq_none_iff] at hfields
    exact hfields
  | some x =>
    rw [hx, Option.map_some] at hfields hends
    obtain ⟨y, hy, hyx⟩ := Option.map_eq_some_iff.1 hfields
    rw [hy, Option.map_some] at hends
    obtain ⟨hhead, htail⟩ := Prod.mk.inj (Option.some.inj hends)
    rw [hy]
    cases x
    cases y
    simp_all

theorem repairBox_shape (e : Engine) (m : Nat) : e.repairBox m =
    { e with tab := { e.tab with records := (e.repairBox m).tab.records, mailboxes := (e.repairBox m).tab.mailboxes }, asked := (e.repairBox m).asked } := by
  have hwithin := repairBox_within e m
  have hasking := (Engine.Linking.repairBox e m).asking
  generalize e.repairBox m = g at *
  have htab : g.tab = { e.tab with records := g.tab.records, mailboxes := g.tab.mailboxes } :=
    catalogue_eq (hwithin.keeps .signature rfl) (hwithin.keeps .segments rfl) (hwithin.keeps .bodies rfl) (hwithin.keeps .classes rfl)
      rfl rfl (hwithin.keeps .greetings rfl) (hwithin.keeps .lists rfl) (hwithin.keeps .members rfl) (hwithin.keeps .settings rfl)
  rw [← htab]
  exact hasking

/-- The repair of a mailbox's list (R139). -/
theorem repairBox_spec {e : Engine} {m : Nat} {b : Mailbox} (hrise : e.recordsRise) (hb : e.mailbox m = some b) :
    ∃ (kept rest : List Nat) (b' : Mailbox), (kept ++ rest).Nodup ∧ (∀ r, r ∈ kept ++ rest ↔ e.recordOf m r) ∧ rest.Pairwise (· < ·) ∧
      (e.repairBox m).mailbox m = some b' ∧ b'.fields = b.fields ∧ (e.repairBox m).linkedAs b' (kept ++ rest) ∧
      (kept ≠ [] → kept.head? = b.head) ∧ (kept = [] → ∀ r, b.head = some r → ¬ e.recordOf m r) ∧
      (∀ before r q after, kept = before ++ r :: q :: after → ∃ y, e.record r = some y ∧ y.next = some q) ∧
      (∀ r y q, kept.getLast? = some r → e.record r = some y → y.next = some q → e.recordOf m q → q ∈ kept) := by
  obtain ⟨kept, rest, cur, hwalk, hstop, hrest, hlist, hrelinks⟩ := repairBox_keeps hrise hb
  have hfields := (Engine.Linking.repairBox e m).boxes m
  rw [hb, Option.map_some] at hfields
  obtain ⟨b', hb', hsame⟩ := Option.map_eq_some_iff.1 hfields
  obtain ⟨hn, hmem, hlinked⟩ := (hasList_linkedAs hb' _).1 hlist
  refine ⟨kept, rest, b', hn, fun r => (hmem r).trans ?_, hrest, hb', hsame, hlinked, fun hne => ?_, fun hnil r hr hof => ?_,
    fun before r q after hsplit => ?_, fun r y q hlast hy hnext hof => ?_⟩
  · rw [← linksIn_ne_none, ← linksIn_ne_none]
    exact hrelinks.names r
  · rw [← hwalk.first]
    cases kept with
    | nil => exact absurd rfl hne
    | cons a as => rfl
  · have hfirst := hwalk.first
    rw [hnil, List.head?_nil, Option.none_or] at hfirst
    have hin := hstop r (hfirst.trans hr) hof
    rw [hnil] at hin
    exact absurd hin List.not_mem_nil
  · have hin : r ∈ kept := by simp [hsplit]
    obtain ⟨y, ab, hy, -, hab, hnext⟩ := hwalk.next r hin
    have hnot : r ∉ before := fun hc => (List.nodup_append.1 (hsplit ▸ hwalk.nodup)).2.2 r hc r List.mem_cons_self rfl
    have hnotLast : kept.getLast? ≠ some r := fun hc => by
      rw [hsplit, List.getLast?_append, List.getLast?_cons_cons] at hc
      have hbehind : r ∈ q :: after := List.mem_of_getLast? (by simpa using hc)
      have hnodup := (List.nodup_append.1 (hsplit ▸ hwalk.nodup)).2.1
      exact (List.nodup_cons.1 hnodup).1 hbehind
    rw [hsplit, linkOf_between hnot] at hab
    rw [if_neg hnotLast, ← Option.some.inj hab] at hnext
    exact ⟨y, hy, hnext⟩
  · obtain ⟨z, ab, hz, -, -, hznext⟩ := hwalk.next r (List.mem_of_getLast? hlast)
    rw [if_pos hlast] at hznext
    obtain rfl := Option.some.inj (hy.symm.trans hz)
    exact hstop q (hznext.symm.trans hnext) hof

end Sys2Proof.Machine

namespace Sys2Proof.Machine

/-! Proofs about section 4.6: extents, counters and charges counted anew (R93, R101, R125, R126). -/

/-! ## Extents -/

/-- The count of an OPEN body is its extent, once its entry has been read. -/
theorem openExtents_begun {a : Nat} {x : Body} (hx : x.sealed = false) : ∀ (l : Tab Body) (e : Engine), (∀ y ∈ l, y.1 = a → y.2 = x) →
    (a ∈ l.map (·.1) ∨ (e.hold a).begun = x.count) →
    ((l.foldl (fun e x => if x.2.sealed then e else e.modHold x.1 (fun h => { h with begun := x.2.count })) e).hold a).begun = x.count
  | [], _, _, h => h.resolve_left List.not_mem_nil
  | y :: l, e, hl, h => by
    rw [List.foldl_cons]
    refine openExtents_begun hx l _ (fun z hz => hl z (List.mem_cons_of_mem _ hz)) ?_
    by_cases hy : y.1 = a
    · have hyx := hl y List.mem_cons_self hy
      refine .inr ?_
      rw [hyx, hx, if_neg Bool.false_ne_true, hold_modHold, if_pos hy.symm]
    · rcases h with h | h
      · exact .inl ((List.mem_cons.1 h).resolve_left (fun k => hy k.symm))
      · refine .inr ?_
        split
        · exact h
        · rw [hold_modHold, if_neg (fun k => hy k.symm)]
          exact h

theorem openExtents_extent {e : Engine} (h : Tab.risingFrom none e.tab.bodies = true) {b : Nat} {x : Body} (hx : e.body b = some x) :
    e.openExtents.extent b = x.count := by
  have hbody : e.openExtents.body b = some x := (congrArg (fun t => Tab.find? t b) ((openExtents_within e).keeps .bodies rfl)).trans hx
  rw [Engine.extent, hbody]
  dsimp only
  cases hs : x.sealed with
  | true => rfl
  | false =>
    rw [if_neg Bool.false_ne_true]
    refine openExtents_begun hs e.tab.bodies e (fun y hy hyb => ?_) (.inl (List.mem_map.2 ⟨_, Tab.mem_of_find? hx, rfl⟩))
    have hfind := Tab.find?_of_mem h y hy
    rw [hyb] at hfind
    exact Option.some.inj (hfind.symm.trans hx)

/-! ## Counters and charges -/

theorem join_charged (s : RecState) (u : Bool) (c : Counters) : (Counters.join s u c).charged = c.charged := by cases s <;> rfl

/-- The charge of a mailbox, its records' extents added one by one. -/
theorem recount_charged {ext : Nat → Nat} (m : Nat) : ∀ (l : Tab Record) (e : Engine), (∀ b, e.extent b = ext b) →
    ((l.foldl (fun e x => (e.modCounter x.2.mailbox (Counters.join x.2.state x.2.urgent)).charge x.2.mailbox (· + e.extent x.2.body)) e).counter m).charged =
      (e.counter m).charged + ((l.filter (fun x => decide (x.2.mailbox = m))).map (fun x => ext x.2.body)).sum
  | [], _, _ => rfl
  | x :: l, e, h => by
    have hext : ∀ b, ((e.modCounter x.2.mailbox (Counters.join x.2.state x.2.urgent)).charge x.2.mailbox (· + e.extent x.2.body)).extent b = ext b := h
    rw [List.foldl_cons, recount_charged m l _ hext, List.filter_cons, Engine.charge, counter_modCounter, counter_modCounter, counter_modCounter]
    by_cases hm : m = x.2.mailbox
    · rw [if_pos hm, if_pos rfl, if_pos (decide_eq_true hm.symm), List.map_cons, List.sum_cons, ← h, hm]
      dsimp only
      rw [join_charged, Nat.add_assoc]
    · rw [if_neg hm, if_neg hm, if_neg (by simpa using Ne.symm hm)]

theorem counters_eq {c : Counters} {T : (RecState → Bool → Bool) → Nat} (h : c.tallied T) :
    c = { new := T (fun s _ => decide (s = .new)), urgent := T (fun s u => decide (s = .new) && u), heard := T (fun s _ => decide (s = .heard)),
          saved := T (fun s _ => decide (s = .saved)), recording := T (fun s _ => decide (s = .recording)), total := T (fun _ _ => true),
          charged := c.charged } := by
  obtain ⟨h1, h2, h3, h4, h5, h6⟩ := h
  rw [← h1, ← h2, ← h3, ← h4, ← h5, ← h6]

/-- Extents and counters counted anew (R93). -/
theorem recount_spec {e : Engine} (h : Tab.risingFrom none e.tab.bodies = true) (hc : e.counters = []) :
    (∀ b x, e.body b = some x → e.openExtents.recount.extent b = x.count) ∧
      (∀ m, e.openExtents.recount.counter m =
        { new := e.tally m (fun x => decide (x.state = .new)), urgent := e.tally m (fun x => decide (x.state = .new) && x.urgent),
          heard := e.tally m (fun x => decide (x.state = .heard)), saved := e.tally m (fun x => decide (x.state = .saved)),
          recording := e.tally m (fun x => decide (x.state = .recording)), total := e.tally m (fun _ => true),
          charged := ((e.tab.records.filter (fun x => decide (x.2.mailbox = m))).map (fun x => e.openExtents.recount.extent x.2.body)).sum }) ∧
      e.openExtents.recount = { e with holds := e.openExtents.recount.holds, counters := e.openExtents.recount.counters } := by
  have hopen : e.openExtents = { e with holds := e.openExtents.holds } := by
    refine foldl_kept (P := fun g : Engine => g = { e with holds := g.holds }) (fun g x k => ?_) e.tab.bodies rfl
    refine ite_kept (P := fun g : Engine => g = { e with holds := g.holds }) k ?_
    rw [k]
    exact rfl
  have hcounted : e.openExtents.recount = { e.openExtents with counters := e.openExtents.recount.counters } := by
    refine foldl_kept (P := fun g : Engine => g = { e.openExtents with counters := g.counters }) (fun g x k => ?_) e.openExtents.tab.records rfl
    rw [k]
    exact rfl
  have hextent : ∀ b, e.openExtents.recount.extent b = e.openExtents.extent b := fun b => by
    rw [hcounted]
    rfl
  have hrecords : e.openExtents.tab.records = e.tab.records := by rw [hopen]
  have hzero : ∀ m, e.openExtents.counter m = Counters.zero := fun m => by
    rw [Engine.counter, show e.openExtents.counters = e.counters by rw [hopen], hc]
    rfl
  refine ⟨fun b x hx => (hextent b).trans (openExtents_extent h hx), fun m => ?_, ?_⟩
  · have htallied := recount_fold e.tab.records [] (e := e.openExtents) (fun m => by rw [hzero]; exact ⟨rfl, rfl, rfl, rfl, rfl, rfl⟩) m
    have hcharged := recount_charged m e.tab.records e.openExtents (fun b => (hextent b).symm)
    rw [hzero] at hcharged
    have hfold : e.openExtents.recount = e.tab.records.foldl (fun e x => (e.modCounter x.2.mailbox (Counters.join x.2.state x.2.urgent)).charge
        x.2.mailbox (· + e.extent x.2.body)) e.openExtents := by rw [Engine.recount, hrecords]
    rw [← hfold] at htallied hcharged
    rw [counters_eq htallied, hcharged]
    exact congrArg (fun n => ({ new := _, urgent := _, heard := _, saved := _, recording := _, total := _, charged := n } : Counters)) (Nat.zero_add _)
  · rw [hcounted, hopen]

end Sys2Proof.Machine

namespace Sys2Proof.Machine

/-! Proofs about section 4.6: stagings, shares, and bodies without a share (R95, R112, R151). -/

/-! ## Stagings (R151) -/

theorem clearStagings_slot {e : Engine} (h : Tab.risingFrom none e.tab.slots = true) (m : Nat) (g : GreetingKind) :
    e.clearStagings.slot m g = { e.slot m g with staged := none } := clearStagings_slots h (slotKey m g)

theorem clearStagings_shape (e : Engine) :
    e.clearStagings = { e with tab := { e.tab with slots := e.clearStagings.tab.slots }, asked := e.clearStagings.asked } := by
  unfold Engine.clearStagings
  refine foldl_kept (P := fun g : Engine => g = { e with tab := { e.tab with slots := g.tab.slots }, asked := g.asked }) (fun g x k => ?_) _ rfl
  refine ite_kept (P := fun g : Engine => g = { e with tab := { e.tab with slots := g.tab.slots }, asked := g.asked }) ?_ k
  rw [k]
  exact rfl

/-! ## Shares (R112) -/

theorem fitShare_share {e : Engine} {b : Nat} {x : Body} (hx : e.body b = some x) (a : Nat) :
    (e.fitShare b).body a = if a = b then some { x with share := e.holders b } else e.body a := by
  rw [fitShare_body, hx]
  rfl

/-! ## Bodies without a share (R95, R112) -/

theorem releaseAtStart_held {e : Engine} {b : Nat} {x : Body} (hx : e.body b = some x) (h : x.share ≠ 0) : e.releaseAtStart b = e := by
  unfold Engine.releaseAtStart
  rw [hx]
  exact if_pos h

theorem releaseAtStart_unheld {e : Engine} {b : Nat} {x : Body} (hx : e.body b = some x) (h : x.share = 0) : e.releaseAtStart b =
    (((e.makeAllDirty (e.reached b)).put (.body b none)).modHold b (fun _ => BodyHold.zero)).modReport
      (fun p => { p with bodiesReleased := p.bodiesReleased + 1 }) := by
  unfold Engine.releaseAtStart
  rw [hx]
  exact if_neg (not_not.2 h)

theorem releaseAtStart_spec {e : Engine} {b : Nat} {x : Body} (hx : e.body b = some x) (h : x.share = 0) (hs : e.ssc.service = .starting)
    (hn : (e.reached b).Nodup) :
    (∀ a, (e.releaseAtStart b).body a = if a = b then none else e.body a) ∧
      (∀ i, (e.releaseAtStart b).segment i = if i ∈ e.reached b then { e.segment i with state := .dirty, body := none, next := none } else e.segment i) ∧
      (e.releaseAtStart b).ssc = { e.ssc with eraseQueue := (e.reached b).foldl (fun q i => Run.push i q) e.ssc.eraseQueue,
                                              start := e.ssc.start.map (fun p => { p with bodiesReleased := p.bodiesReleased + 1 }) } := by
  obtain ⟨hall, -⟩ := reached_spec hx
  have hwalks := makeAllDirty_walks (e.reached b) e hs
  have hsegment := segment_makeAllDirty (e.reached b) e
  have hbodies : (e.makeAllDirty (e.reached b)).tab.bodies = e.tab.bodies := (makeAllDirty_within e _).keeps .bodies rfl
  obtain ⟨hqueue, hfree⟩ := makeAllDirty_ssc (e.reached b) e hn
  rw [List.filter_eq_self.2 fun i hi => decide_eq_true (hall i hi).1] at hqueue
  rw [releaseAtStart_unheld hx h]
  generalize e.makeAllDirty (e.reached b) = g at *
  refine ⟨fun a => (body_putBody g b none a).trans ?_, fun i => (hsegment i).trans ?_, ?_⟩
  · split
    · rfl
    · exact congrArg (fun t => Tab.find? t a) hbodies
  · by_cases hi : i ∈ e.reached b
    · rw [if_pos ⟨hi, (hall i hi).1⟩, if_pos hi]
      rfl
    · rw [if_neg (fun k => hi k.1), if_neg hi]
  · have hssc : g.ssc = { e.ssc with freeList := g.ssc.freeList, eraseQueue := g.ssc.eraseQueue } := congrArg Engine.ssc hwalks
    show ({ g.ssc with start := g.ssc.start.map (fun p => { p with bodiesReleased := p.bodiesReleased + 1 }) } : Ssc) = _
    rw [hssc, hfree, hqueue]

/-! ## Recordings cut short (R94, R112) -/

/-- Work that leaves the store as it was. -/
theorem ssc_of_within {ps : List Part} {e g : Engine} (h : Engine.Within ps e g)
    (hps : partsApart [.service, .pool, .storeQueues, .link, .flash] ps = true) : g.ssc = e.ssc := by
  have hout : ∀ p ∈ [Part.service, .pool, .storeQueues, .link, .flash], p ∉ ps := fun p hp => not_mem_of_partsApart hps hp
  obtain ⟨h1, h2, h3⟩ := h.same State.reset .service (hout _ (by simp))
  obtain ⟨h4, h5, h6⟩ := h.same State.reset .pool (hout _ (by simp))
  obtain ⟨h7, h8⟩ := h.same State.reset .storeQueues (hout _ (by simp))
  obtain ⟨h9, h10⟩ := h.same State.reset .link (hout _ (by simp))
  have h11 := h.same State.reset .flash (hout _ (by simp))
  dsimp only [State.samePart] at h1 h2 h3 h4 h5 h6 h7 h8 h9 h10 h11
  cases hg : g.ssc
  cases he : e.ssc
  rw [hg, he] at h1 h2 h3 h4 h5 h6 h7 h8 h9 h10 h11
  simp_all

theorem recordingOf_none {e : Engine} {b : Nat} (hrise : e.recordsRise) (h : ∀ r y, e.record r = some y → y.body = b → y.state ≠ .recording) :
    e.recordingOf b = none := by
  cases hf : e.recordingOf b with
  | none => rfl
  | some ry =>
    obtain ⟨hr, hb, hs⟩ := recordingOf_record hrise hf
    exact absurd hs (h ry.1 ry.2 hr hb)

theorem recordingOf_some {e : Engine} {b r : Nat} {y : Record} (hrise : e.recordsRise) (hr : e.record r = some y) (hb : y.body = b)
    (hs : y.state = .recording) (hone : ∀ q z, e.record q = some z → z.body = b → z.state = .recording → q = r) : e.recordingOf b = some (r, y) := by
  cases hf : e.recordingOf b with
  | none =>
    have hnot := List.find?_eq_none.1 hf _ (Tab.mem_of_find? hr)
    simp [hb, hs] at hnot
  | some qz =>
    obtain ⟨hq, hqb, hqs⟩ := recordingOf_record hrise hf
    have hqr := hone qz.1 qz.2 hq hqb hqs
    rw [hqr, hr] at hq
    obtain ⟨q, z⟩ := qz
    rw [Option.some.inj hq, show q = r from hqr]

/-- A record in RECORDING made NEW. -/
theorem recordSealed_passed {e : Engine} {r : Nat} {y : Record} (hr : e.record r = some y) (hs : y.state = .recording) (cut : Bool) :
    (∀ q, (e.recordSealed r cut).record q = if q = r then some { y with state := .new, cut := cut } else e.record q) ∧
      ∀ n, (e.recordSealed r cut).counter n = if n = y.mailbox then (e.counter n).pass .recording .new y.urgent else e.counter n := by
  have heq : e.recordSealed r cut = e.changeRecord r y { y with state := .new, cut := cut } := by
    unfold Engine.recordSealed
    rw [hr]
  rw [heq]
  refine ⟨changeRecord_record hr _, fun n => ?_⟩
  rw [changeRecord_counter, hs]
  by_cases hn : n = y.mailbox
  · rw [if_pos ⟨hn, nofun⟩, if_pos hn, hn]
  · rw [if_neg (fun k => hn k.1), if_neg hn]

theorem longEnough_iff (e : Engine) (n m : Nat) : e.longEnough n m = true ↔ 1 ≤ n ∧ (e.boxClass m).minMessage * 800 ≤ n * 2048 := by
  rw [Engine.longEnough, Bool.and_eq_true, decide_eq_true_iff, decide_eq_true_iff]

section Reconcile
variable {e : Engine} {b r : Nat} {x : Body} {y : Record} (hb : e.body b = some x) (hof : e.recordingOf b = some (r, y))
include hb hof

theorem reconcile_sealed (hs : x.sealed = true) : e.reconcile b = e.recordSealed r false := by
  unfold Engine.reconcile
  rw [hb, hof]
  exact if_pos hs

theorem reconcile_kept (hs : x.sealed = false) (hk : e.longEnough x.count y.mailbox = true) : e.reconcile b =
    ((e.sealBody b 0 (x.count * Config.segmentSamples)).recordSealed r true).modReport (fun p => { p with keptCut := p.keptCut + 1 }) := by
  unfold Engine.reconcile
  rw [hb, hof]
  exact (if_neg (by simp [hs])).trans (if_pos hk)

theorem reconcile_freed (hs : x.sealed = false) (hk : ¬ e.longEnough x.count y.mailbox = true) : e.reconcile b =
    (((e.detachRecord r y).modShare b (· - 1)).handInputs y.mailbox).modReport (fun p => { p with recordsReleased := p.recordsReleased + 1 }) := by
  unfold Engine.reconcile
  rw [hb, hof]
  exact (if_neg (by simp [hs])).trans (if_neg hk)

end Reconcile

/-- A record of a sealed body, in RECORDING, made NEW (R112). -/
theorem reconcile_sealed_spec {e : Engine} {b r : Nat} {x : Body} {y : Record} (hb : e.body b = some x) (hof : e.recordingOf b = some (r, y))
    (hr : e.record r = some y) (hy : y.state = .recording) (hs : x.sealed = true) :
    ((∀ q, (e.reconcile b).record q = if q = r then some { y with state := .new, cut := false } else e.record q) ∧
      ∀ n, (e.reconcile b).counter n = if n = y.mailbox then (e.counter n).pass .recording .new y.urgent else e.counter n) ∧
      (e.reconcile b).tab.bodies = e.tab.bodies ∧ (e.reconcile b).ssc = e.ssc := by
  have hwithin := recordSealed_within e r false
  rw [reconcile_sealed hb hof hs]
  exact ⟨recordSealed_passed hr hy false, hwithin.keeps .bodies rfl, ssc_of_within hwithin rfl⟩

theorem sealBody_body {e : Engine} {b : Nat} {x : Body} (hb : e.body b = some x) (offset samples a : Nat) : (e.sealBody b offset samples).body a =
    if a = b then some { x with sealed := true, offset := some offset, samples := some samples } else e.body a := by
  unfold Engine.sealBody
  rw [hb]
  exact body_putBody e b _ a

/-- A recording cut short, long enough, is kept (R94). -/
theorem reconcile_kept_spec {e : Engine} {b r : Nat} {x : Body} {y : Record} (hb : e.body b = some x) (hof : e.recordingOf b = some (r, y))
    (hr : e.record r = some y) (hy : y.state = .recording) (hs : x.sealed = false) (hk : e.longEnough x.count y.mailbox = true) :
    ((∀ q, (e.reconcile b).record q = if q = r then some { y with state := .new, cut := true } else e.record q) ∧
      ∀ n, (e.reconcile b).counter n = if n = y.mailbox then (e.counter n).pass .recording .new y.urgent else e.counter n) ∧
      (∀ a, (e.reconcile b).body a = if a = b then some { x with sealed := true, offset := some 0, samples := some (x.count * 2048) } else e.body a) ∧
      (e.reconcile b).ssc = { e.ssc with start := e.ssc.start.map (fun p => { p with keptCut := p.keptCut + 1 }) } := by
  have hseal := sealBody_within e b 0 (x.count * Config.segmentSamples)
  have hsealed := sealBody_body hb 0 (x.count * Config.segmentSamples)
  rw [reconcile_kept hb hof hs hk]
  generalize e.sealBody b 0 (x.count * Config.segmentSamples) = f at *
  obtain ⟨hrecords, hcounters⟩ := recordSealed_passed ((record_congr (hseal.keeps .records rfl) r).trans hr) hy true
  have hnew := recordSealed_within f r true
  generalize f.recordSealed r true = g at *
  refine ⟨⟨fun q => (hrecords q).trans ?_, fun n => (hcounters n).trans ?_⟩, fun a => ?_, ?_⟩
  · rw [record_congr (hseal.keeps .records rfl)]
  · have hcounter : f.counter n = e.counter n := congrArg (fun t => Tab.get Counters.zero t n) (hseal.keeps .counters rfl)
    rw [hcounter]
  · exact (congrArg (fun t => Tab.find? t a) (hnew.keeps .bodies rfl)).trans (hsealed a)
  · show ({ g.ssc with start := g.ssc.start.map _ } : Ssc) = _
    rw [ssc_of_within hnew rfl, ssc_of_within hseal rfl]

/-- A recording cut short, too short, is freed (R94). -/
theorem reconcile_freed_spec {e : Engine} {b r : Nat} {x : Body} {y : Record} (hb : e.body b = some x) (hof : e.recordingOf b = some (r, y))
    (hyb : y.body = b) (hy : y.state = .recording) (hs : x.sealed = false) (hk : ¬ e.longEnough x.count y.mailbox = true) :
    (e.reconcile b).record r = none ∧
      (∀ n, (e.reconcile b).counter n = if n = y.mailbox then
        { (e.counter n).leave .recording y.urgent with charged := (e.counter n).charged - e.extent b } else e.counter n) ∧
      (∀ a, (e.reconcile b).body a = if a = b then some { x with share := x.share - 1 } else e.body a) ∧
      (e.reconcile b).ssc = { e.ssc with start := e.ssc.start.map (fun p => { p with recordsReleased := p.recordsReleased + 1 }) } := by
  have hdetach := detachRecord_within e r y
  have hcounters := detachRecord_counter r y e
  have hrecord : (e.detachRecord r y).record r = none := by
    rw [detachRecord_record, unlinkRecord_record, if_pos rfl]
  rw [reconcile_freed hb hof hs hk]
  generalize e.detachRecord r y = f at *
  have hlate := ((modShare_within f b (· - 1)).mono (qs := [.bodies, .writes, .lmp]) rfl).step (handInputs_within (f.modShare b (· - 1)) y.mailbox) rfl
  have hbodies : ((f.modShare b (· - 1)).handInputs y.mailbox).tab.bodies = (f.modShare b (· - 1)).tab.bodies := (handInputs_within _ _).keeps .bodies rfl
  have hshare := body_modShare b (· - 1) f
  generalize f.modShare b (· - 1) = d at *
  generalize d.handInputs y.mailbox = g at *
  have hbody : ∀ a, f.body a = e.body a := fun a => congrArg (fun t => Tab.find? t a) (hdetach.keeps .bodies rfl)
  refine ⟨(record_congr (hlate.keeps .records rfl) r).trans hrecord, fun n => ?_, fun a => ?_, ?_⟩
  · have hcounter : g.counter n = f.counter n := congrArg (fun t => Tab.get Counters.zero t n) (hlate.keeps .counters rfl)
    refine hcounter.trans ((hcounters n).trans ?_)
    rw [hy, hyb]
  · refine (congrArg (fun t => Tab.find? t a) hbodies).trans ((hshare a).trans ?_)
    rw [hbody, hbody, hb]
    rfl
  · show ({ g.ssc with start := g.ssc.start.map _ } : Ssc) = _
    rw [ssc_of_within hlate rfl, ssc_of_within hdetach rfl]

end Sys2Proof.Machine

namespace Sys2Proof.Machine

/-! Proofs about section 4.6: the steps of the store check (R89 to R95, R112, R139, R151, R157). -/

/-- Settles O54, step by step of the check. -/
theorem storeCheckStepsRepairTheTables : Obligations.StoreCheckStepsRepairTheTables := by
  refine ⟨fun e c => ?_, fun e b x hx => reached_spec hx, fun e hs hr => ?_, fun e => ?_, fun e m b hr hb => ?_, fun e hb hc => recount_spec hb hc,
    fun e b x hr hx => ?_, fun e hs => ⟨clearStagings_shape e, clearStagings_slot hs⟩, fun e b x hx => ?_⟩
  case refine_1 =>
    exact ⟨fitMap_asking c e, fitMap_blank, fun n h hn => fitMap_extends h hn, fun n h hn => fitMap_cuts h hn⟩
  case refine_2 =>
    obtain ⟨hwalks, hsegment, hfree, hqueue, hbody⟩ := walk_spec hs hr
    exact ⟨hwalks, hsegment, hfree, hqueue, hbody⟩
  case refine_3 =>
    refine ⟨repairLists_shape e, fun l => ⟨repairLists_spec e l, walkList_spec e l⟩, repairLists_entries e⟩
  case refine_4 =>
    obtain ⟨kept, rest, b', hn, hmem, hrest, hb', hfields, hlinked, hhead, hnone, hnext, hend⟩ := repairBox_spec hr hb
    obtain ⟨-, -, -, -, -, -, -, hrelinks⟩ := repairBox_keeps hr hb
    have hlinking := Engine.Linking.repairBox e m
    exact ⟨kept, rest, b', hn, hmem, hrest, hb', hfields, hlinked, hhead, hnone, hnext, hend, hlinking.records,
      fun r h => linking_record hlinking hrelinks h, fun n h => linking_mailbox hlinking hrelinks h, repairBox_shape e m⟩
  case refine_5 =>
    refine ⟨fun h => ?_, fun r y hy hyb hst hone => ⟨fun hs => ?_, fun hs hk => ?_, fun hs hk => ?_⟩⟩
    · unfold Engine.reconcile
      rw [hx, recordingOf_none hr h]
    · exact reconcile_sealed_spec hx (recordingOf_some hr hy hyb hst hone) hy hst hs
    · exact reconcile_kept_spec hx (recordingOf_some hr hy hyb hst hone) hy hst hs ((longEnough_iff e _ _).2 hk)
    · exact reconcile_freed_spec hx (recordingOf_some hr hy hyb hst hone) hyb hst hs (mt (longEnough_iff e _ _).1 hk)
  case refine_6 =>
    exact ⟨fitShare_share hx, releaseAtStart_held hx, fun h hs hn => releaseAtStart_spec hx h hs hn⟩

end Sys2Proof.Machine

namespace Sys2Proof.Machine

/-! Proofs about section 2: the checks of OPEN RECORD (R19 to R21). -/

/-! ## An order whose answer waits for its writes (R100) -/

/-- The engine behind an order whose writes have become the sequence that its answer waits for. -/
def Engine.awaited (tag : Byte) (d : List Byte) (e : Engine) : Engine :=
  { e with asked := [], catQueue := e.catQueue ++ [{ writes := e.asked, after := .answer (answerPacket tag .done d) }] }

theorem order_waiting {s : State} (h : s.accepting) {code : Byte} {o : Order} (ho : Order.ofCode code = some o) (tag : Byte) {ps : List Byte}
    (hl : ps.length + 2 = o.bodyLength) {d : List Byte} {g : Engine}
    (hr : o.run ps s.taken = { result := .done, data := d, state := { s.taken with eng := g }, waits := true }) {qs : List Part}
    (k : Engine.Within qs s.taken.eng g) (hq : partsApart [.dle, .storeQueues, .link, .service, .channel, .pool] qs = true) (hw : g.asked ≠ []) :
    s.deliverOrder code tag ps = { s with eng := g.awaited tag d } := by
  have hout : ∀ p ∈ [Part.dle, .storeQueues, .link, .service, .channel, .pool], p ∉ qs := fun p hm => not_mem_of_partsApart hq hm
  have hd : g.dle = s.eng.dle := k.same s .dle (hout _ (by simp))
  obtain ⟨hrq, hpq⟩ : g.ssc.readQueue = s.eng.ssc.readQueue ∧ g.ssc.progQueue = s.eng.ssc.progQueue := k.same s .storeQueues (hout _ (by simp))
  have hk : g.ssc.link = s.eng.ssc.link := (k.same s .link (hout _ (by simp))).1
  have hs : g.ssc.service = s.eng.ssc.service := (k.same s .service (hout _ (by simp))).1
  have hre : g.mgc.restart = s.eng.mgc.restart := (k.same s .channel (hout _ (by simp))).2.2.2
  have he : g.ssc.eraseQueue = s.eng.ssc.eraseQueue := (k.same s .pool (hout _ (by simp))).2.1
  have hhalt : g.halted = false := by
    rw [Engine.halted, hs, hre]
    exact accepting_live h
  obtain ⟨-, hdue, hrest⟩ := (accepting_calm h).1
  have hflush : g.flush (.answer (answerPacket tag .done d)) = g.awaited tag d := by
    unfold Engine.flush
    rw [if_neg hw, hhalt]
    rfl
  have hfree : (g.awaited tag d).linkFree = s.eng.linkFree := by
    rw [show (g.awaited tag d).linkFree = g.linkFree from rfl, Engine.linkFree, Engine.linkFree, Engine.halted, Engine.halted, hs, hk, hre]
  rw [deliverOrder_run h ho tag hl, hr]
  show ({ s with eng := (g.flush (.answer (answerPacket tag .done d))).settle } : State) = _
  have hstill : (g.awaited tag d).linkFree = false ∨
      ((g.awaited tag d).ssc.progQueue = [] ∧ (g.awaited tag d).ssc.readQueue = [] ∧ (g.awaited tag d).ssc.eraseQueue = []) := by
    rw [hfree]
    exact hrest.imp id fun ⟨h1, h2, h3⟩ => ⟨hpq.trans h1, hrq.trans h2, he.trans h3⟩
  rw [hflush, settle_still (e := g.awaited tag d) (hd ▸ hdue) hstill, flush_none (e := g.awaited tag d) rfl]

/-! ## The fields of OPEN RECORD -/

/-- The numbers and codes of an OPEN RECORD are in their ranges (R19, R202). -/
def openRecordFields (ps : List Byte) : Prop :=
  num1 ps 0 < 48 ∧ num1 ps 1 ≤ 1 ∧ num1 ps 11 ≤ 1 ∧ (num1 ps 1 = 0 → num1 ps 5 ≤ 1 ∧ (num3 ps 6 = 0xFFFFFF ∨ num3 ps 6 ≤ 9999999)) ∧
    (num1 ps 1 = 1 → num1 ps 4 ≤ 3)

theorem yesNo_none (ps : List Byte) (i : Nat) : (yesNo ps i).isNone = decide (1 < num1 ps i) := by
  rw [yesNo_eq]
  by_cases h : num1 ps i ≤ 1
  · rw [if_pos h, decide_eq_false (Nat.not_lt.2 h)]
    rfl
  · rw [if_neg h, decide_eq_true (Nat.not_le.1 h)]
    rfl

theorem greeting_none (n : Nat) : (GreetingKind.ofCode n).isNone = decide (3 < n) := by
  unfold GreetingKind.ofCode
  split
  · rfl
  · rfl
  · rfl
  · rfl
  · next h0 h1 h2 h3 =>
    refine (decide_eq_true (Nat.lt_of_not_le fun h => ?_)).symm
    interval_cases n
    · exact h0 rfl
    · exact h1 rfl
    · exact h2 rfl
    · exact h3 rfl

theorem greeting_code (g : GreetingKind) : GreetingKind.ofCode g.code = some g := by cases g <;> rfl

theorem caller_fault (ps : List Byte) : (optNum3 ps 6).any (fun c => decide (Config.extensionMax < c)) = true ↔
    ¬ (num3 ps 6 = 0xFFFFFF ∨ num3 ps 6 ≤ 9999999) := by
  unfold optNum3
  split
  · next h => simp [h]
  · next h =>
    rw [Option.any_some, decide_eq_true_iff, not_or]
    exact ⟨fun k => ⟨h, Nat.not_le.2 k⟩, fun k => Nat.not_le.1 k.2⟩

theorem openRecord_fieldFault (ps : List Byte) : (decide (Config.sessions ≤ (OpenRecord.read ps).session) || decide (1 < (OpenRecord.read ps).kind) ||
    (OpenRecord.read ps).release.isNone || (OpenRecord.read ps).kindFault) = true ↔ ¬ openRecordFields ps := by
  have hkind : (OpenRecord.read ps).kindFault = true ↔ (num1 ps 1 = 0 ∧ (1 < num1 ps 5 ∨ ¬ (num3 ps 6 = 0xFFFFFF ∨ num3 ps 6 ≤ 9999999))) ∨
      (num1 ps 1 ≠ 0 ∧ 3 < num1 ps 4) := by
    unfold OpenRecord.kindFault
    show (if num1 ps 1 = 0 then ((yesNo ps 5).isNone || (optNum3 ps 6).any _) else (GreetingKind.ofCode (num1 ps 4)).isNone) = true ↔ _
    by_cases hk : num1 ps 1 = 0
    · rw [if_pos hk, Bool.or_eq_true, yesNo_none, decide_eq_true_iff, caller_fault]
      simp [hk]
    · rw [if_neg hk, greeting_none, decide_eq_true_iff]
      simp [hk]
  rw [Bool.or_eq_true, Bool.or_eq_true, Bool.or_eq_true, hkind, show (OpenRecord.read ps).release = yesNo ps 11 from rfl, yesNo_none, decide_eq_true_iff,
    decide_eq_true_iff, decide_eq_true_iff]
  show ((48 ≤ num1 ps 0 ∨ 1 < num1 ps 1) ∨ 1 < num1 ps 11) ∨ _ ↔ _
  unfold openRecordFields
  omega

/-! ## The refusals -/

section Checks
variable {s : State} {ps : List Byte}

/-- The engine's checks behind those of the session and the mailbox. -/
def OpenRecord.lateChecks (q : OpenRecord) (s : State) : List (Bool × Result) :=
  q.kindChecks s.eng ++ [(!slotBindable s.eng.slotsIn q.inbound, .badField), (q.outbound.any (fun t => !slotBindable s.eng.slotsOut t), .badField)]

theorem checks_fields (h : ¬ openRecordFields ps) : firstRefusal ((OpenRecord.read ps).checks s) = some .badField :=
  firstRefusal_stop ((openRecord_fieldFault ps).2 h)

variable (hf : openRecordFields ps)
include hf

theorem checks_pastFields : firstRefusal ((OpenRecord.read ps).checks s) =
    firstRefusal ((decide ((s.eng.session (num1 ps 0)).state ≠ .free), .busy) :: boxRange (num2 ps 2) :: boxLoaded (num2 ps 2) s ::
      ((s.eng.mailbox (num2 ps 2)).any (fun b => !b.fields.enabled), .wrongState) :: (OpenRecord.read ps).lateChecks s) :=
  firstRefusal_pass (Bool.not_eq_true _ ▸ fun k => (openRecord_fieldFault ps).1 k hf)

theorem checks_busy (h : (s.eng.session (num1 ps 0)).state ≠ .free) : firstRefusal ((OpenRecord.read ps).checks s) = some .busy :=
  (checks_pastFields hf).trans (firstRefusal_stop (decide_eq_true h))

variable (hs : (s.eng.session (num1 ps 0)).state = .free)
include hs

theorem checks_range (h : 4096 ≤ num2 ps 2) : firstRefusal ((OpenRecord.read ps).checks s) = some .badField :=
  (checks_pastFields hf).trans ((firstRefusal_pass (decide_eq_false (not_not.2 hs))).trans (boxChecks_range h))

theorem checks_noSuch (hm : num2 ps 2 < 4096) (h : s.eng.mailbox (num2 ps 2) = none) : firstRefusal ((OpenRecord.read ps).checks s) = some .noSuch :=
  (checks_pastFields hf).trans ((firstRefusal_pass (decide_eq_false (not_not.2 hs))).trans (boxChecks_noSuch hm h))

variable (hm : num2 ps 2 < 4096) {b : Mailbox} (hb : s.eng.mailbox (num2 ps 2) = some b)
include hm hb

theorem checks_pastBox : firstRefusal ((OpenRecord.read ps).checks s) =
    firstRefusal ((!b.fields.enabled, .wrongState) :: (OpenRecord.read ps).lateChecks s) := by
  rw [checks_pastFields hf, firstRefusal_pass (decide_eq_false (not_not.2 hs)), boxChecks_pass hm (by rw [hb]; exact nofun), hb]
  rfl

theorem checks_disabled (h : b.fields.enabled = false) : firstRefusal ((OpenRecord.read ps).checks s) = some .wrongState :=
  (checks_pastBox hf hs hm hb).trans (firstRefusal_stop (by simp [h]))

theorem checks_late (h : b.fields.enabled = true) : firstRefusal ((OpenRecord.read ps).checks s) = firstRefusal ((OpenRecord.read ps).lateChecks s) :=
  (checks_pastBox hf hs hm hb).trans (firstRefusal_pass (by simp [h]))

end Checks

/-! ## The checks of the two kinds -/

/-- A timeslot that a table does not bind. -/
def slotFree (t : Tab Nat) (n : Nat) : Prop := 3 ≤ n ∧ n ≤ 127 ∧ Tab.find? t n = none

theorem slotBindable_iff (t : Tab Nat) (n : Nat) : slotBindable t n = true ↔ slotFree t n := by
  unfold slotBindable slotFree
  rw [Bool.and_eq_true, Bool.and_eq_true, decide_eq_true_iff, decide_eq_true_iff, Option.isNone_iff_eq_none, and_assoc]

section Late
variable {s : State} {ps : List Byte}

/-- Both timeslots of an OPEN RECORD can be bound (R8). -/
def bindableAt (s : State) (ps : List Byte) : Prop := slotFree s.eng.slotsIn (num1 ps 9) ∧ (num1 ps 10 = 0xFF ∨ slotFree s.eng.slotsOut (num1 ps 10))

theorem bindChecks (s : State) (ps : List Byte) : (bindableAt s ps → firstRefusal [(!slotBindable s.eng.slotsIn (num1 ps 9), .badField),
      ((optNum1 ps 10).any (fun t => !slotBindable s.eng.slotsOut t), .badField)] = none) ∧
    (¬ bindableAt s ps → firstRefusal [(!slotBindable s.eng.slotsIn (num1 ps 9), .badField),
      ((optNum1 ps 10).any (fun t => !slotBindable s.eng.slotsOut t), .badField)] = some .badField) := by
  have hin : (!slotBindable s.eng.slotsIn (num1 ps 9)) = true ↔ ¬ slotFree s.eng.slotsIn (num1 ps 9) := by
    rw [← slotBindable_iff, Bool.not_eq_true', Bool.not_eq_true]
  have hout : (optNum1 ps 10).any (fun t => !slotBindable s.eng.slotsOut t) = true ↔ ¬ (num1 ps 10 = 0xFF ∨ slotFree s.eng.slotsOut (num1 ps 10)) := by
    unfold optNum1
    split
    · next h => simp [h]
    · next h =>
      rw [Option.any_some, Bool.not_eq_true', ← Bool.not_eq_true, slotBindable_iff]
      exact ⟨fun k hc => hc.elim h k, fun k hc => k (.inr hc)⟩
  unfold bindableAt
  refine ⟨fun ⟨h1, h2⟩ => ?_, fun h => ?_⟩
  · rw [firstRefusal_pass (Bool.not_eq_true _ ▸ fun k => hin.1 k h1), firstRefusal_pass (Bool.not_eq_true _ ▸ fun k => hout.1 k h2)]
    rfl
  · by_cases h1 : slotFree s.eng.slotsIn (num1 ps 9)
    · rw [firstRefusal_pass (Bool.not_eq_true _ ▸ fun k => hin.1 k h1)]
      exact firstRefusal_stop (hout.2 fun h2 => h ⟨h1, h2⟩)
    · exact firstRefusal_stop (hin.2 h1)

/-- A mailbox has room for another message (R20, R116). -/
def messageLimits (s : State) (m : Nat) : Prop :=
  (s.eng.counter m).total < (s.eng.boxClass m).maxMessages ∧ (s.eng.counter m).charged < (s.eng.boxClass m).quota

/-- The tables and the pool have room for a take (R20). -/
def takeRoom (s : State) : Prop := s.eng.freeRecordNo < 32768 ∧ s.eng.freeBody < 65536 ∧ s.eng.tab.settings.poolReserve ≤ s.eng.available

theorem atLimit_iff (s : State) (m : Nat) : s.eng.atLimit m = true ↔ ¬ messageLimits s m := by
  unfold Engine.atLimit Engine.boxFull messageLimits
  dsimp only
  rw [Bool.or_eq_true, decide_eq_true_iff, decide_eq_true_iff]
  omega

theorem lateChecks_message (hk : num1 ps 1 = 0) : (OpenRecord.read ps).lateChecks s =
    (s.eng.atLimit (num2 ps 2), .full) :: (s.eng.recordTableFull, .storeFull) :: (s.eng.bodyTableFull, .storeFull) ::
      (decide (s.eng.available < s.eng.tab.settings.poolReserve), .storeFull) :: [(!slotBindable s.eng.slotsIn (num1 ps 9), .badField),
        ((optNum1 ps 10).any (fun t => !slotBindable s.eng.slotsOut t), .badField)] := by
  unfold OpenRecord.lateChecks OpenRecord.kindChecks
  rw [if_pos (show (OpenRecord.read ps).kind = 0 from hk)]
  rfl

theorem lateChecks_greeting (hk : num1 ps 1 = 1) {g : GreetingKind} (hg : num1 ps 4 = g.code) : (OpenRecord.read ps).lateChecks s =
    ((s.eng.slot (num2 ps 2) g).busy, .wrongState) :: (s.eng.bodyTableFull, .storeFull) :: [(!slotBindable s.eng.slotsIn (num1 ps 9), .badField),
        ((optNum1 ps 10).any (fun t => !slotBindable s.eng.slotsOut t), .badField)] := by
  have hslot : (OpenRecord.read ps).slotKind = g := by
    show (GreetingKind.ofCode (num1 ps 4)).getD .standard = g
    rw [hg, greeting_code]
    rfl
  unfold OpenRecord.lateChecks OpenRecord.kindChecks
  rw [if_neg (show ¬ (OpenRecord.read ps).kind = 0 by rw [show (OpenRecord.read ps).kind = num1 ps 1 from rfl, hk]; exact nofun), hslot]
  rfl

theorem message_full (hk : num1 ps 1 = 0) (h : ¬ messageLimits s (num2 ps 2)) : firstRefusal ((OpenRecord.read ps).lateChecks s) = some .full := by
  rw [lateChecks_message hk]
  exact firstRefusal_stop ((atLimit_iff s _).2 h)

theorem message_pastLimits (hk : num1 ps 1 = 0) (h : messageLimits s (num2 ps 2)) : firstRefusal ((OpenRecord.read ps).lateChecks s) =
    firstRefusal ((s.eng.recordTableFull, .storeFull) :: (s.eng.bodyTableFull, .storeFull) ::
      (decide (s.eng.available < s.eng.tab.settings.poolReserve), .storeFull) :: [(!slotBindable s.eng.slotsIn (num1 ps 9), .badField),
        ((optNum1 ps 10).any (fun t => !slotBindable s.eng.slotsOut t), .badField)]) := by
  rw [lateChecks_message hk]
  exact firstRefusal_pass (Bool.not_eq_true _ ▸ fun k => (atLimit_iff s _).1 k h)

theorem message_storeFull (hk : num1 ps 1 = 0) (h : messageLimits s (num2 ps 2)) (hr : ¬ takeRoom s) :
    firstRefusal ((OpenRecord.read ps).lateChecks s) = some .storeFull := by
  rw [message_pastLimits hk h]
  by_cases h1 : s.eng.freeRecordNo < 32768
  · rw [firstRefusal_pass (decide_eq_false (Nat.not_le.2 h1))]
    by_cases h2 : s.eng.freeBody < 65536
    · rw [firstRefusal_pass (decide_eq_false (Nat.not_le.2 h2))]
      exact firstRefusal_stop (decide_eq_true (Nat.not_le.1 fun h3 => hr ⟨h1, h2, h3⟩))
    · exact firstRefusal_stop (decide_eq_true (Nat.not_lt.1 h2))
  · exact firstRefusal_stop (decide_eq_true (Nat.not_lt.1 h1))

theorem message_pastRoom (hk : num1 ps 1 = 0) (h : messageLimits s (num2 ps 2)) (hr : takeRoom s) : firstRefusal ((OpenRecord.read ps).lateChecks s) =
    firstRefusal [(!slotBindable s.eng.slotsIn (num1 ps 9), .badField), ((optNum1 ps 10).any (fun t => !slotBindable s.eng.slotsOut t), .badField)] := by
  obtain ⟨h1, h2, h3⟩ := hr
  rw [message_pastLimits hk h, firstRefusal_pass (decide_eq_false (Nat.not_le.2 h1)), firstRefusal_pass (decide_eq_false (Nat.not_le.2 h2)),
    firstRefusal_pass (decide_eq_false (Nat.not_lt.2 h3))]

theorem greeting_busy (hk : num1 ps 1 = 1) {g : GreetingKind} (hg : num1 ps 4 = g.code) (h : (s.eng.slot (num2 ps 2) g).staged ≠ none) :
    firstRefusal ((OpenRecord.read ps).lateChecks s) = some .wrongState := by
  rw [lateChecks_greeting hk hg]
  exact firstRefusal_stop (Option.isSome_iff_ne_none.2 h)

theorem greeting_pastBusy (hk : num1 ps 1 = 1) {g : GreetingKind} (hg : num1 ps 4 = g.code) (h : (s.eng.slot (num2 ps 2) g).staged = none) :
    firstRefusal ((OpenRecord.read ps).lateChecks s) = firstRefusal ((s.eng.bodyTableFull, .storeFull) ::
      [(!slotBindable s.eng.slotsIn (num1 ps 9), .badField), ((optNum1 ps 10).any (fun t => !slotBindable s.eng.slotsOut t), .badField)]) := by
  rw [lateChecks_greeting hk hg]
  exact firstRefusal_pass (by rw [Slot.busy, h]; rfl)

theorem greeting_storeFull (hk : num1 ps 1 = 1) {g : GreetingKind} (hg : num1 ps 4 = g.code) (h : (s.eng.slot (num2 ps 2) g).staged = none)
    (hb : 65536 ≤ s.eng.freeBody) : firstRefusal ((OpenRecord.read ps).lateChecks s) = some .storeFull :=
  (greeting_pastBusy hk hg h).trans (firstRefusal_stop (decide_eq_true hb))

theorem greeting_pastBody (hk : num1 ps 1 = 1) {g : GreetingKind} (hg : num1 ps 4 = g.code) (h : (s.eng.slot (num2 ps 2) g).staged = none)
    (hb : s.eng.freeBody < 65536) : firstRefusal ((OpenRecord.read ps).lateChecks s) =
      firstRefusal [(!slotBindable s.eng.slotsIn (num1 ps 9), .badField), ((optNum1 ps 10).any (fun t => !slotBindable s.eng.slotsOut t), .badField)] :=
  (greeting_pastBusy hk hg h).trans (firstRefusal_pass (decide_eq_false (Nat.not_le.2 hb)))

end Late

end Sys2Proof.Machine

namespace Sys2Proof.Machine

/-! Proofs about section 2: the take that OPEN RECORD opens (R20, R21, R24). -/

/-! ## The body and its holder (R100, R128, R142) -/

theorem createBody_spec (e : Engine) (b : Nat) : (e.createBody b).body b = some Body.fresh ∧ (e.createBody b).hold b = BodyHold.zero := by
  refine ⟨(body_putBody e b (some Body.fresh) b).trans (if_pos rfl), ?_⟩
  exact (hold_modHold _ b (fun _ => BodyHold.zero) b).trans (if_pos rfl)

theorem appendRecord_fields (e : Engine) (r : Nat) (x : Record) (n : Nat) :
    ((e.appendRecord r x).mailbox n).map (·.fields) = (e.mailbox n).map (·.fields) := by
  unfold Engine.appendRecord
  extract_lets tail e1 e2
  clear_value tail
  have h1 : e1.mailbox n = e.mailbox n := mailbox_congr ((put_within e (.record r _)).keeps .mailboxes rfl) n
  have h2 : (e2.mailbox n).map (·.fields) = (e1.mailbox n).map (·.fields) := by
    show Option.map _ (Engine.mailbox (match tail with | some t => _ | none => _) n) = _
    split
    · exact (Engine.Linking.putNext e1 _ _).boxes n
    · exact (Engine.Linking.putHead e1 _ _).boxes n
  exact ((Engine.Linking.putTail e2 _ _).boxes n).trans (h2.trans (congrArg _ h1))

theorem boxClass_of_fields {e g : Engine} {m : Nat} (hc : g.tab.classes = e.tab.classes) (hf : (g.mailbox m).map (·.fields) = (e.mailbox m).map (·.fields)) :
    g.boxClass m = e.boxClass m := by
  have hcls : ∀ o : Option Mailbox, o.map (·.fields.cls) = (o.map (·.fields)).map (·.cls) := fun o => by cases o <;> rfl
  rw [Engine.boxClass, Engine.boxClass, hcls, hcls, hf, Engine.cls, Engine.cls, hc]

/-! ## The opened session (R19 to R21) -/

/-- The engine of an accepted OPEN RECORD before its first buffer begins. -/
def OpenRecord.opened (q : OpenRecord) (now : Now) (e : Engine) : Engine :=
  ((q.target now e.freeBody e).2.setSession q.session (q.context (q.target now e.freeBody e).1 e.freeBody (q.target now e.freeBody e).2)).bindSlots
    q.session (some q.inbound) q.outbound

theorem accept_eq (q : OpenRecord) (s : State) : q.accept s =
    { result := .done, data := opt2 (if q.kind = 0 then some s.eng.freeRecordNo else none) ++ be3 s.eng.freeBody,
      state := { s with eng := (q.opened s.now s.eng).startBuffer q.session }, waits := true } := rfl

section Opened
variable (q : OpenRecord) (now : Now) (e : Engine)

theorem opened_late : Engine.Within [.sessions, .slots] (q.target now e.freeBody e).2 (q.opened now e) :=
  ((setSession_within _ _ _).mono rfl).step (bindSlots_within _ _ _ _) rfl

theorem opened_session (j : Nat) : (q.opened now e).session j =
    if j = q.session then q.context (q.target now e.freeBody e).1 e.freeBody (q.target now e.freeBody e).2 else e.session j := by
  have hsessions : (q.target now e.freeBody e).2.sessions = e.sessions := (target_within e q now e.freeBody).keeps .sessions rfl
  show (Engine.setSession q.session (q.context (q.target now e.freeBody e).1 e.freeBody (q.target now e.freeBody e).2) (q.target now e.freeBody e).2).session j = _
  refine (session_setSession _ _ _ j).trans ?_
  split
  · rfl
  · exact congrArg (fun t => Tab.get Session.reset t j) hsessions

theorem opened_slots (n : Nat) : Tab.find? (q.opened now e).slotsIn n = (if n = q.inbound then some q.session else Tab.find? e.slotsIn n) ∧
    Tab.find? (q.opened now e).slotsOut n = if q.outbound = some n then some q.session else Tab.find? e.slotsOut n := by
  obtain ⟨hin, hout⟩ := (target_within e q now e.freeBody).keeps .slots rfl
  have hin' : (q.target now e.freeBody e).2.slotsIn = e.slotsIn := hin
  have hout' : (q.target now e.freeBody e).2.slotsOut = e.slotsOut := hout
  constructor
  · show Tab.find? (Tab.insert q.inbound q.session (q.target now e.freeBody e).2.slotsIn) n = _
    rw [Tab.find?_insert, hin']
  · show Tab.find? (match q.outbound with | none => (q.target now e.freeBody e).2.slotsOut | some n => Tab.insert n q.session (q.target now e.freeBody e).2.slotsOut) n = _
    cases q.outbound with
    | none => rw [hout', if_neg nofun]
    | some a =>
      dsimp only
      rw [Tab.find?_insert, hout']
      by_cases hn : n = a
      · rw [if_pos hn, if_pos (congrArg some hn.symm)]
      · rw [if_neg hn, if_neg fun h => hn (Option.some.inj h).symm]

end Opened

/-- What a message take opens: its body, its record and its mailbox's counters (R100, R125, R128). -/
theorem opened_message {q : OpenRecord} (now : Now) (e : Engine) (hk : q.kind = 0) :
    (q.target now e.freeBody e).1 = .record e.freeRecordNo ∧
      Engine.Within [.slots, .sessions, .holds, .counters, .bodies, .mailboxes, .records, .writes] e (q.opened now e) ∧
      (q.opened now e).body e.freeBody = some Body.fresh ∧ (q.opened now e).hold e.freeBody = BodyHold.zero ∧
      (∃ p n, (q.opened now e).record e.freeRecordNo =
        some { Record.recording now q.mailbox e.freeBody (q.urgent.getD false) q.caller with prev := p, next := n }) ∧
      (∀ n, (q.opened now e).counter n = if n = q.mailbox then (e.counter n).join .recording (q.urgent.getD false) else e.counter n) ∧
      (∀ n, ((q.opened now e).mailbox n).map (·.fields) = (e.mailbox n).map (·.fields)) := by
  obtain ⟨hbody, hhold⟩ := createBody_spec e e.freeBody
  obtain ⟨x, hx⟩ : ∃ x, x = Record.recording now q.mailbox e.freeBody (q.urgent.getD false) q.caller := ⟨_, rfl⟩
  have htarget : q.target now e.freeBody e =
      (.record e.freeRecordNo, ((e.createBody e.freeBody).appendRecord e.freeRecordNo x).modCounter q.mailbox (Counters.join .recording (q.urgent.getD false))) := by
    unfold OpenRecord.target
    rw [if_pos hk, hx]
  have hcreate := createBody_within e e.freeBody
  have happend := appendRecord_within (e.createBody e.freeBody) e.freeRecordNo x
  have hcount := modCounter_within ((e.createBody e.freeBody).appendRecord e.freeRecordNo x) q.mailbox (Counters.join .recording (q.urgent.getD false))
  have hlate := opened_late q now e
  obtain ⟨p, n, hrecord⟩ := appendRecord_new (e.createBody e.freeBody) e.freeRecordNo x
  have hfields := appendRecord_fields (e.createBody e.freeBody) e.freeRecordNo x
  have hcounter := counter_modCounter ((e.createBody e.freeBody).appendRecord e.freeRecordNo x) q.mailbox (Counters.join .recording (q.urgent.getD false))
  rw [htarget] at hlate ⊢
  generalize e.createBody e.freeBody = e1 at *
  generalize e1.appendRecord e.freeRecordNo x = e2 at *
  generalize e2.modCounter q.mailbox (Counters.join .recording (q.urgent.getD false)) = e3 at *
  generalize q.opened now e = g at *
  have hbehind : Engine.Within [.slots, .sessions, .counters, .mailboxes, .records, .writes] e1 g :=
    ((happend.mono (qs := [.slots, .sessions, .counters, .mailboxes, .records, .writes]) rfl).step hcount rfl).step hlate rfl
  have hlater : Engine.Within [.slots, .sessions, .counters] e2 g := (hcount.mono (qs := [.slots, .sessions, .counters]) rfl).step hlate rfl
  have hold : ∀ n, e2.counter n = e.counter n := fun n =>
    (congrArg (fun t => Tab.get Counters.zero t n) (happend.keeps .counters rfl)).trans (congrArg (fun t => Tab.get Counters.zero t n) (hcreate.keeps .counters rfl))
  refine ⟨rfl, ?_, ?_, ?_, ⟨p, n, ?_⟩, fun n => ?_, fun n => ?_⟩
  · exact (hcreate.mono (qs := [.slots, .sessions, .holds, .counters, .bodies, .mailboxes, .records, .writes]) rfl).step hbehind rfl
  · exact (congrArg (fun t => Tab.find? t e.freeBody) (hbehind.keeps .bodies rfl)).trans hbody
  · exact (congrArg (fun t => Tab.get BodyHold.zero t e.freeBody) (hbehind.keeps .holds rfl)).trans hhold
  · rw [record_congr (hlater.keeps .records rfl), hrecord, hx]
  · refine (congrArg (fun t => Tab.get Counters.zero t n) (hlate.keeps .counters rfl)).trans ((hcounter n).trans ?_)
    rw [hold, hold]
    split
    · next h => rw [h]
    · rfl
  · rw [mailbox_congr (hlater.keeps .mailboxes rfl), hfields, mailbox_congr (hcreate.keeps .mailboxes rfl)]

/-- What a greeting take opens: its body and its staging (R100, R142). -/
theorem opened_greeting {q : OpenRecord} (now : Now) (e : Engine) (hk : q.kind ≠ 0) :
    (q.target now e.freeBody e).1 = .slot q.slotKind ∧
      Engine.Within [.slots, .sessions, .holds, .bodies, .greetings, .writes] e (q.opened now e) ∧
      (q.opened now e).body e.freeBody = some Body.fresh ∧ (q.opened now e).hold e.freeBody = BodyHold.zero ∧
      ∀ n h, (q.opened now e).slot n h = if n = q.mailbox ∧ h = q.slotKind then { e.slot n h with staged := some e.freeBody } else e.slot n h := by
  obtain ⟨hbody, hhold⟩ := createBody_spec e e.freeBody
  have htarget : q.target now e.freeBody e = (.slot q.slotKind, (e.createBody e.freeBody).putSlot q.mailbox q.slotKind
      { (e.createBody e.freeBody).slot q.mailbox q.slotKind with staged := some e.freeBody }) := by
    unfold OpenRecord.target
    rw [if_neg hk]
  have hcreate := createBody_within e e.freeBody
  have hput := putSlot_within (e.createBody e.freeBody) q.mailbox q.slotKind { (e.createBody e.freeBody).slot q.mailbox q.slotKind with staged := some e.freeBody }
  have hslot := slot_putSlot (e.createBody e.freeBody) q.mailbox q.slotKind { (e.createBody e.freeBody).slot q.mailbox q.slotKind with staged := some e.freeBody }
  have hlate := opened_late q now e
  have hsame : ∀ n h, (e.createBody e.freeBody).slot n h = e.slot n h := fun _ _ => rfl
  rw [htarget] at hlate ⊢
  generalize e.createBody e.freeBody = e1 at *
  generalize e1.putSlot q.mailbox q.slotKind { e1.slot q.mailbox q.slotKind with staged := some e.freeBody } = e2 at *
  generalize q.opened now e = g at *
  have hbehind : Engine.Within [.slots, .sessions, .greetings, .writes] e1 g :=
    (hput.mono (qs := [.slots, .sessions, .greetings, .writes]) rfl).step hlate rfl
  refine ⟨rfl, ?_, ?_, ?_, fun n h => ?_⟩
  · exact (hcreate.mono (qs := [.slots, .sessions, .holds, .bodies, .greetings, .writes]) rfl).step hbehind rfl
  · exact (congrArg (fun t => Tab.find? t e.freeBody) (hbehind.keeps .bodies rfl)).trans hbody
  · exact (congrArg (fun t => Tab.get BodyHold.zero t e.freeBody) (hbehind.keeps .holds rfl)).trans hhold
  · refine (congrArg (fun t => Tab.get Slot.empty t (slotKey n h)) (hlate.keeps .greetings rfl)).trans ((hslot n h).trans ?_)
    rw [hsame, hsame]
    split
    · next h => rw [h.1, h.2]
    · rfl

end Sys2Proof.Machine

namespace Sys2Proof.Machine

/-! Proofs about section 2: the buffers and the requests of a take that ends (R27, R63, R64, R76). -/

/-! ## Buffers -/

theorem buf_setBuf_iff (x : Session) (a b : Nat) (v : Buffer) : (x.setBuf a v).buf b = if (a = 0 ↔ b = 0) then v else x.buf b := by
  unfold Session.setBuf Session.buf
  by_cases ha : a = 0 <;> by_cases hb : b = 0 <;> simp [ha, hb]

theorem idled_idled (v : Buffer) : v.idled.idled = v.idled := rfl

theorem buf_foldl_idled (k b : Nat) : ∀ (l : List ProgReq) (e : Engine),
    ((l.foldl (fun e r => e.modBuf k r.buf Buffer.idled) e).session k).buf b =
      if ∃ r ∈ l, (r.buf = 0 ↔ b = 0) then ((e.session k).buf b).idled else (e.session k).buf b
  | [], e => (if_neg (by simp)).symm
  | r :: l, e => by
    have hone : ((e.modBuf k r.buf Buffer.idled).session k).buf b =
        if (r.buf = 0 ↔ b = 0) then ((e.session k).buf b).idled else (e.session k).buf b := by
      rw [session_modBuf, if_pos rfl, buf_setBuf_iff]
      by_cases hr : r.buf = 0 ↔ b = 0
      · rw [if_pos hr, if_pos hr]
        unfold Session.buf
        simp only [hr]
      · rw [if_neg hr, if_neg hr]
    rw [List.foldl_cons, buf_foldl_idled k b l, hone]
    simp only [List.mem_cons, exists_eq_or_imp]
    by_cases hr : r.buf = 0 ↔ b = 0
    · rw [if_pos hr, if_pos (Or.inl hr)]
      exact ite_self _
    · simp only [hr, if_false, false_or]

theorem foldl_modBuf_ssc (k : Nat) (f : Buffer → Buffer) : ∀ (l : List ProgReq) (e : Engine), (l.foldl (fun e r => e.modBuf k r.buf f) e).ssc = e.ssc
  | [], _ => rfl
  | _ :: l, e => foldl_modBuf_ssc k f l _

section Withdrawn
variable (k : Nat) (test : ProgReq → Bool) (e : Engine)

theorem withdrawPrograms_ssc : (e.withdrawPrograms k test).ssc =
    { e.ssc with progQueue := e.ssc.progQueue.filter (fun r => !(decide (r.session = k) && test r)) } :=
  foldl_modBuf_ssc k Buffer.idled _ _

theorem withdrawPrograms_rebuffers : e.Rebuffers k (e.withdrawPrograms k test) :=
  Engine.Rebuffers.foldl_modBuf k (fun r : ProgReq => r.buf) Buffer.idled _ _

theorem withdrawPrograms_buf (b : Nat) : ((e.withdrawPrograms k test).session k).buf b =
    if ∃ r ∈ e.ssc.progQueue, r.session = k ∧ test r = true ∧ (r.buf = 0 ↔ b = 0) then ((e.session k).buf b).idled else (e.session k).buf b := by
  refine (buf_foldl_idled k b _ _).trans ?_
  simp only [List.mem_filter, Bool.and_eq_true, decide_eq_true_eq, and_assoc]
  rfl

end Withdrawn

theorem bufWith_eq_some {x : Session} {role : BufRole} {b : Nat} (h : b ≤ 1) :
    x.bufWith role = some b ↔ (x.buf b).role = role ∧ (b = 1 → (x.buf 0).role ≠ role) := by
  unfold Session.bufWith Session.buf
  interval_cases b <;> by_cases h0 : x.buf0.role = role <;> by_cases h1 : x.buf1.role = role <;> simp [h0, h1]

theorem bufWith_le {x : Session} {role : BufRole} {b : Nat} (h : x.bufWith role = some b) : b ≤ 1 := by
  unfold Session.bufWith at h
  split at h
  · exact Option.some.inj h ▸ Nat.zero_le 1
  · split at h
    · exact Option.some.inj h ▸ Nat.le_refl 1
    · cases h

/-- A session whose filling buffer a change takes. -/
def Session.changeFilling (f : Buffer → Buffer) (x : Session) : Session :=
  match x.bufWith .filling with
  | none => x
  | some b => x.setBuf b (f (x.buf b))

theorem changeFilling_onlyBufs (f : Buffer → Buffer) (x : Session) : x.OnlyBufs (x.changeFilling f) := by
  unfold Session.changeFilling
  split
  · exact .refl x
  · exact setBuf_onlyBufs _ _ _

theorem changeFilling_buf (f : Buffer → Buffer) (x : Session) {b : Nat} (hb : b ≤ 1) :
    (x.changeFilling f).buf b = if x.bufWith .filling = some b then f (x.buf b) else x.buf b := by
  unfold Session.changeFilling
  split
  · next h => rw [h, if_neg nofun]
  · next a h =>
    have ha := bufWith_le h
    rw [buf_setBuf_iff, h]
    have hiff : (a = 0 ↔ b = 0) ↔ some a = some b := by
      rw [Option.some.injEq]
      omega
    by_cases hab : some a = some b
    · rw [if_pos (hiff.2 hab), if_pos hab, Option.some.inj hab]
    · rw [if_neg (mt hiff.1 hab), if_neg hab]

theorem session_idleFilling (k : Nat) (e : Engine) (j : Nat) :
    (e.idleFilling k).session j = if j = k then (e.session k).changeFilling Buffer.idled else e.session j := session_modSession e k _ j

/-- A buffer is left, idle, by requests that have been withdrawn; otherwise it stands as it was. -/
theorem bufWith_withdrawn {x y : Session} {waits : Nat → Prop} [DecidablePred waits] (hy : ∀ b, y.buf b = if waits b then (x.buf b).idled else x.buf b)
    {b : Nat} (hb : b ≤ 1) (hw : ¬ waits b) (hx : x.bufWith .filling = some b) : y.bufWith .filling = some b := by
  have hidle : ∀ v : Buffer, v.idled.role ≠ .filling := fun v => nofun
  obtain ⟨hrole, hfirst⟩ := (bufWith_eq_some hb).1 hx
  refine (bufWith_eq_some hb).2 ⟨by rw [hy, if_neg hw, hrole], fun h1 => ?_⟩
  rw [hy]
  split
  · exact hidle _
  · exact hfirst h1

/-- The buffers of a take that ends, the change of its filling one as that one's place in the take asks. -/
theorem leavesBuffers_of {e : Engine} {k : Nat} {out : Nat → Bool} {y z : Session} {f : Buffer → Buffer} {waits : Nat → Prop} [DecidablePred waits]
    (hwaits : ∀ b, waits b ↔ ∃ r ∈ e.ssc.progQueue, r.session = k ∧ out r.takeSegment = true ∧ (r.buf = 0 ↔ b = 0))
    (hy : ∀ b, y.buf b = if waits b then ((e.session k).buf b).idled else (e.session k).buf b)
    (hf : ∀ b, (e.session k).bufWith .filling = some b → (out ((e.session k).buf b).holds = true → f = Buffer.idled) ∧
      (out ((e.session k).buf b).holds = false → ∀ v, f v = { v with role := .queued }))
    (hz : ∀ b, b ≤ 1 → z.buf b = (y.changeFilling f).buf b) : e.leavesBuffers k out z := by
  unfold Engine.leavesBuffers
  intro x b hb
  have hzb := hz b hb
  rw [changeFilling_buf _ _ hb] at hzb
  refine ⟨fun h => ?_, fun hnw hfill ho => ?_, fun hnw hr => ?_⟩
  · by_cases hw : waits b
    · have hyb : y.buf b = (x.buf b).idled := by rw [hy, if_pos hw]
      have hnone : y.bufWith .filling ≠ some b := fun hfill => nomatch hyb ▸ ((bufWith_eq_some hb).1 hfill).1
      rw [hzb, if_neg hnone, hyb]
    · obtain ⟨hw', -⟩ | ⟨hfill, ho⟩ := h
      · exact absurd ((hwaits b).2 hw') hw
      · rw [hzb, if_pos (bufWith_withdrawn hy hb hw hfill), (hf b hfill).1 ho, hy, if_neg hw]
  · have hw : ¬ waits b := fun h => hnw ((hwaits b).1 h)
    rw [hzb, if_pos (bufWith_withdrawn hy hb hw hfill), (hf b hfill).2 ho, hy, if_neg hw]
  · have hw : ¬ waits b := fun h => hnw ((hwaits b).1 h)
    have hyb : y.buf b = x.buf b := by rw [hy, if_neg hw]
    rw [hzb, if_neg fun h => hr (hyb ▸ ((bufWith_eq_some hb).1 h).1), hyb]

end Sys2Proof.Machine

namespace Sys2Proof.Machine

/-! Proofs about section 2: what a discarded take lets go of (R27, R105, R133, R145). -/

/-! ## Targets that sessions lose (R133) -/

/-- From e to g sessions have changed in their targets alone. -/
def Engine.Retargets (e g : Engine) : Prop := ∀ j, ∃ t, g.session j = { e.session j with target := t }

namespace Engine.Retargets
variable {a b c : Engine}

theorem of_sessions (h : b.sessions = a.sessions) : Retargets a b := fun j =>
  ⟨(a.session j).target, congrArg (fun t => Tab.get Session.reset t j) h⟩

theorem trans (h : Retargets a b) (k : Retargets b c) : Retargets a c := fun j => by
  obtain ⟨t, ht⟩ := h j
  obtain ⟨u, hu⟩ := k j
  exact ⟨u, by rw [hu, ht]⟩

theorem modTarget (k : Nat) (t : Target) (a : Engine) : Retargets a (a.modSession k (fun x => { x with target := t })) := fun j => by
  rw [session_modSession]
  by_cases hj : j = k
  · rw [if_pos hj, hj]
    exact ⟨t, rfl⟩
  · rw [if_neg hj]
    exact ⟨_, rfl⟩

theorem clearTargets (r : Nat) (a : Engine) : Retargets a (a.clearTargets r) :=
  foldl_kept (P := fun g : Engine => a.Retargets g) (g := fun (e : Engine) (kx : Nat × Session) =>
    if kx.2.target = .record r then e.modSession kx.1 (fun x => { x with target := .none }) else e)
    (fun g kx h => ite_kept (h.trans (modTarget _ _ _)) h) _ (of_sessions rfl)

theorem within {ps : List Part} (h : Engine.Within ps a b) (hps : decide (Part.sessions ∈ ps) = false) : Retargets a b := of_sessions (h.keeps .sessions hps)

end Engine.Retargets

theorem detachRecord_retargets (r : Nat) (x : Record) (e : Engine) : e.Retargets (e.detachRecord r x) :=
  (Engine.Retargets.of_sessions ((unlinkRecord_within e r x).keeps .sessions rfl)).trans (.clearTargets r _)

theorem freeRecord_retargets (r : Nat) (e : Engine) : e.Retargets (e.freeRecord r) := by
  cases hx : e.record r with
  | none =>
    have hkeep : e.freeRecord r = e := by
      unfold Engine.freeRecord
      rw [hx]
    exact .of_sessions (congrArg Engine.sessions hkeep)
  | some x =>
    rw [freeRecord_eq hx]
    exact (detachRecord_retargets r x e).trans ((Engine.Retargets.within (dropShare_within _ _) rfl).trans (.within (handAll_within _ _) rfl))

/-! ## The target let go (R27) -/

/-- A discarded take lets go of the target it has. -/
def Session.letGo (x : Session) (e : Engine) : Engine :=
  match x.target with
  | .none => e
  | .record r => e.freeRecord r
  | .slot g => e.abandonGreeting x.mailbox g

/-- The parts that the letting go of a target changes. -/
def letGoTargetParts : List Part := [.sessions, .pool, .holds, .counters, .lmp, .outbox, .flags, .segments, .bodies, .mailboxes, .records, .greetings, .writes]

section LetGo
variable (x : Session) (e : Engine)

theorem letGo_within : Engine.Within letGoTargetParts e (x.letGo e) := by
  unfold Session.letGo
  split
  · exact .refl _ _
  · exact (freeRecord_within e _).mono rfl
  · exact (abandonGreeting_within e _ _).mono rfl

theorem letGo_retargets : e.Retargets (x.letGo e) := by
  unfold Session.letGo
  split
  · exact .of_sessions rfl
  · exact freeRecord_retargets _ e
  · exact .within (abandonGreeting_within e _ _) rfl

theorem freeRecord_lows (r : Nat) : e.Lows (e.freeRecord r) := by
  cases hx : e.record r with
  | none =>
    have hkeep : e.freeRecord r = e := by
      unfold Engine.freeRecord
      rw [hx]
    rw [hkeep]
    exact .refl e
  | some y =>
    rw [freeRecord_eq hx]
    exact ((Engine.Lows.quiet (detachRecord_within e r y) rfl).trans (dropShare_lows _ _)).trans (.quiet (handAll_within _ _) rfl)

theorem abandonGreeting_lows (m : Nat) (g : GreetingKind) : e.Lows (e.abandonGreeting m g) := by
  have hput : e.Lows (e.putSlot m g { e.slot m g with staged := none }) := .quiet (putSlot_within e m g _) rfl
  unfold Engine.abandonGreeting
  dsimp only
  split
  · exact hput
  · exact hput.trans (dropShare_lows _ _)

theorem letGo_lows : e.Lows (x.letGo e) := by
  unfold Session.letGo
  split
  · exact .refl e
  · exact freeRecord_lows e _
  · exact abandonGreeting_lows e _ _

variable {x e}

theorem freeRecord_record (r : Nat) : (e.freeRecord r).record r = none := by
  cases hx : e.record r with
  | none =>
    unfold Engine.freeRecord
    rw [hx]
    exact hx
  | some y =>
    rw [freeRecord_eq hx, record_congr ((handAll_within _ _).keeps .records rfl), record_congr ((dropShare_within _ _).keeps .records rfl),
      detachRecord_record, unlinkRecord_record, if_pos rfl]

theorem abandonGreeting_slot (m : Nat) (g : GreetingKind) (n : Nat) (h : GreetingKind) :
    (e.abandonGreeting m g).slot n h = if n = m ∧ h = g then { e.slot m g with staged := none } else e.slot n h := by
  have hput := slot_putSlot e m g { e.slot m g with staged := none } n h
  unfold Engine.abandonGreeting
  dsimp only
  split
  · exact hput
  · next b _ =>
    have hsame := (dropShare_within (e.putSlot m g { e.slot m g with staged := none }) b).keeps .greetings rfl
    exact (congrArg (fun t => Tab.get Slot.empty t (slotKey n h)) hsame).trans hput

theorem letGo_record {r : Nat} (h : x.target = .record r) : (x.letGo e).record r = none := by
  unfold Session.letGo
  rw [h]
  exact freeRecord_record r

theorem letGo_slot {g : GreetingKind} (h : x.target = .slot g) (n : Nat) (j : GreetingKind) :
    (x.letGo e).slot n j = if n = x.mailbox ∧ j = g then { e.slot x.mailbox g with staged := none } else e.slot n j := by
  unfold Session.letGo
  rw [h]
  exact abandonGreeting_slot _ _ _ _

end LetGo

/-! ## The body that the target held (R108) -/

theorem releases_within {ps qs : List Part} {e f g t : Engine} {b : Nat} (hf : Engine.Within ps e f) (hps : partsApart [.segments, .bodies, .pool] ps = true)
    (h : f.releases g b) (hg : Engine.Within qs g t) (hqs : partsApart [.segments, .bodies, .pool] qs = true) : e.releases t b := by
  have hp : ∀ p ∈ [Part.segments, .bodies, .pool], decide (p ∈ ps) = false := fun p hm => decide_eq_false (not_mem_of_partsApart hps hm)
  have hq : ∀ p ∈ [Part.segments, .bodies, .pool], decide (p ∈ qs) = false := fun p hm => decide_eq_false (not_mem_of_partsApart hqs hm)
  have hsegments : f.tab.segments = e.tab.segments := hf.keeps .segments (hp _ (by simp))
  have hsegments' : t.tab.segments = g.tab.segments := hg.keeps .segments (hq _ (by simp))
  have hbodies : f.tab.bodies = e.tab.bodies := hf.keeps .bodies (hp _ (by simp))
  have hbodies' : t.tab.bodies = g.tab.bodies := hg.keeps .bodies (hq _ (by simp))
  have hqueue : f.ssc.eraseQueue = e.ssc.eraseQueue := (hf.keeps .pool (hp _ (by simp))).2.1
  have hqueue' : t.ssc.eraseQueue = g.ssc.eraseQueue := (hg.keeps .pool (hq _ (by simp))).2.1
  have hseg : ∀ i, f.segment i = e.segment i := fun i => congrArg (fun t => Tab.get SegEntry.blank t i) hsegments
  have hchain : f.chain b = e.chain b := chain_congr hsegments (by rw [Engine.body, Engine.body, hbodies])
  obtain ⟨hnone, hmap, herase⟩ := h
  rw [hchain] at hmap herase
  simp only [hseg] at hmap herase
  rw [hqueue] at herase
  exact ⟨(congrArg (fun t => Tab.find? t b) hbodies').trans hnone, fun i => (congrArg (fun t => Tab.get SegEntry.blank t i) hsegments').trans (hmap i),
    fun hn => hqueue'.trans (herase hn)⟩

section Body
variable {x : Session} {e : Engine} {b : Nat} {w : Body} (hb : e.body b = some w)
include hb

/-- The target's share was the last hold on its body, which is released. -/
theorem letGo_releases (ht : e.targets x b) (hs : w.share = 1) (hp : (e.hold b).pins = 0) (hr : (e.hold b).readers = 0) (hf : e.ssc.service ≠ .frozen) :
    e.releases (x.letGo e) b ∧ (∀ c, (x.letGo e).body c = if c = b then none else e.body c) ∧ (x.letGo e).hold b = BodyHold.zero ∧
      ((e.chain b).Nodup → (x.letGo e).ssc.freeList = e.ssc.freeList) := by
  have hunheld : ¬ (1 < w.share ∨ 0 < (e.hold b).pins ∨ 0 < (e.hold b).readers) := by omega
  have hdrop : ∀ {ps qs : List Part} {f t : Engine}, Engine.Within ps e f → partsApart [.segments, .bodies, .pool, .holds, .service] ps = true →
      Engine.Within qs (f.dropShare b) t → partsApart [.segments, .bodies, .pool, .holds] qs = true →
      e.releases t b ∧ (∀ c, t.body c = if c = b then none else e.body c) ∧ t.hold b = BodyHold.zero ∧ ((e.chain b).Nodup → t.ssc.freeList = e.ssc.freeList) := by
    intro ps qs f t hwf hps hwt hqs
    have hpo : ∀ p ∈ [Part.segments, .bodies, .pool, .holds, .service], decide (p ∈ ps) = false := fun p hm => decide_eq_false (not_mem_of_partsApart hps hm)
    have hqo : ∀ p ∈ [Part.segments, .bodies, .pool, .holds], decide (p ∈ qs) = false := fun p hm => decide_eq_false (not_mem_of_partsApart hqs hm)
    have hbody : ∀ c, f.body c = e.body c := fun c => congrArg (fun t => Tab.find? t c) (hwf.keeps .bodies (hpo _ (by simp)))
    have hhold : f.hold b = e.hold b := congrArg (fun t => Tab.get BodyHold.zero t b) (hwf.keeps .holds (hpo _ (by simp)))
    have hserv : f.ssc.service = e.ssc.service := (hwf.keeps .service (hpo _ (by simp))).1
    have hfree : f.ssc.freeList = e.ssc.freeList := (hwf.keeps .pool (hpo _ (by simp))).1
    have hfree' : t.ssc.freeList = (f.dropShare b).ssc.freeList := (hwt.keeps .pool (hqo _ (by simp))).1
    have hchain : f.chain b = e.chain b := chain_congr (hwf.keeps .segments (hpo _ (by simp))) (by rw [hbody])
    obtain ⟨hrel, hbodies, hzero, hlist⟩ := dropShare_releases ((hbody b).trans hb) (by rw [hhold]; exact hunheld) (by rw [hserv]; exact hf)
    have hapart : partsApart [.segments, .bodies, .pool] ps = true := List.all_eq_true.2 fun p hm => by
      have := hpo p (by simp only [List.mem_cons] at hm ⊢; tauto)
      rw [this]
      rfl
    have hapart' : partsApart [.segments, .bodies, .pool] qs = true := List.all_eq_true.2 fun p hm => by
      have := hqo p (by simp only [List.mem_cons] at hm ⊢; tauto)
      rw [this]
      rfl
    refine ⟨releases_within hwf hapart hrel hwt hapart', fun c => ?_, ?_, fun hn => ?_⟩
    · rw [show t.body c = (f.dropShare b).body c from congrArg (fun t => Tab.find? t c) (hwt.keeps .bodies (hqo _ (by simp))), hbodies, hbody]
    · exact (congrArg (fun t => Tab.get BodyHold.zero t b) (hwt.keeps .holds (hqo _ (by simp)))).trans hzero
    · rw [hfree', hlist (hchain ▸ hn), hfree]
  unfold Session.letGo
  rcases ht with ⟨a, y, hx, hy, rfl⟩ | ⟨h, hx, hst⟩
  · rw [hx]
    dsimp only
    rw [freeRecord_eq hy]
    exact hdrop (detachRecord_within e a y) rfl (handAll_within _ _) rfl
  · rw [hx]
    dsimp only
    have habandon : e.abandonGreeting x.mailbox h = (e.putSlot x.mailbox h { e.slot x.mailbox h with staged := none }).dropShare b := by
      unfold Engine.abandonGreeting
      dsimp only
      rw [hst]
    rw [habandon]
    exact hdrop (putSlot_within e x.mailbox h _) rfl (.refl [] _) rfl

end Body

/-- The counters and the lamp inputs that a freed record leaves (R125, R127). -/
theorem letGo_counters {x : Session} {e : Engine} {a : Nat} {y : Record} (hx : x.target = .record a) (hy : e.record a = some y) :
    (∀ n, (x.letGo e).counter n = if n = y.mailbox then
      { (e.counter n).leave y.state y.urgent with charged := (e.counter n).charged - e.extent y.body } else e.counter n) ∧
    (x.letGo e).lmp = (({ x.letGo e with lmp := e.lmp } : Engine).handInputs y.mailbox).lmp := by
  have hletGo : x.letGo e = ((e.detachRecord a y).dropShare y.body).handAll [y.mailbox] := by
    unfold Session.letGo
    rw [hx]
    exact freeRecord_eq hy
  have hdetach := detachRecord_within e a y
  have hdrop := dropShare_within (e.detachRecord a y) y.body
  have hhand := handAll_within ((e.detachRecord a y).dropShare y.body) [y.mailbox]
  have hlmp : ((e.detachRecord a y).dropShare y.body).lmp = e.lmp := (hdrop.keeps .lmp rfl).trans (hdetach.keeps .lmp rfl)
  refine ⟨fun n => ?_, ?_⟩
  · rw [hletGo, show (((e.detachRecord a y).dropShare y.body).handAll [y.mailbox]).counter n = (e.detachRecord a y).counter n from
      congrArg (fun t => Tab.get Counters.zero t n) ((hhand.keeps .counters rfl).trans (hdrop.keeps .counters rfl)), detachRecord_counter]
  · have hsame : (((e.detachRecord a y).dropShare y.body).handAll [y.mailbox]).SameInputs (x.letGo e) := by
      rw [hletGo]
      exact .refl _
    exact handsInputs_of (s := { State.reset with eng := e }) (t := { State.reset with eng := x.letGo e }) hlmp hsame

end Sys2Proof.Machine

namespace Sys2Proof.Machine

/-! Proofs about section 2: a take discarded (R27). -/

/-! ## Holders and refunds -/

theorem releaseIfUnheld_hold (b : Nat) (e : Engine) (a : Nat) :
    (e.releaseIfUnheld b).hold a = e.hold a ∨ (e.releaseIfUnheld b).hold a = BodyHold.zero := by
  unfold Engine.releaseIfUnheld
  split
  · exact .inl rfl
  · split
    · rw [(release_others e b).2.1 a]
      split
      · exact .inr rfl
      · exact .inl rfl
    · exact .inl rfl

theorem dropShare_hold (b : Nat) (e : Engine) (a : Nat) : (e.dropShare b).hold a = e.hold a ∨ (e.dropShare b).hold a = BodyHold.zero := by
  have hsame : (e.modShare b (· - 1)).hold a = e.hold a := congrArg (fun t => Tab.get BodyHold.zero t a) ((modShare_within e b (· - 1)).keeps .holds rfl)
  exact (releaseIfUnheld_hold b (e.modShare b (· - 1)) a).imp_left fun h => h.trans hsame

theorem letGo_hold (x : Session) (e : Engine) (a : Nat) : (x.letGo e).hold a = e.hold a ∨ (x.letGo e).hold a = BodyHold.zero := by
  unfold Session.letGo
  split
  · exact .inl rfl
  · next r _ =>
    cases hr : e.record r with
    | none =>
      refine .inl (congrArg (fun g : Engine => g.hold a) ?_)
      unfold Engine.freeRecord
      rw [hr]
    | some y =>
      rw [freeRecord_eq hr, show ((((e.detachRecord r y).dropShare y.body)).handAll [y.mailbox]).hold a = ((e.detachRecord r y).dropShare y.body).hold a from
        congrArg (fun t => Tab.get BodyHold.zero t a) ((handAll_within _ _).keeps .holds rfl)]
      exact (dropShare_hold y.body (e.detachRecord r y) a).imp_left fun h =>
        h.trans (congrArg (fun t => Tab.get BodyHold.zero t a) ((detachRecord_within e r y).keeps .holds rfl))
  · next g _ =>
    unfold Engine.abandonGreeting
    dsimp only
    split
    · exact .inl rfl
    · exact dropShare_hold _ (e.putSlot x.mailbox g { e.slot x.mailbox g with staged := none }) a

theorem hold_refund (k n : Nat) (e : Engine) (a : Nat) : (e.refund k n).hold a =
    if a = (e.session k).bodyNo then { e.hold a with begun := (e.hold a).begun - n } else e.hold a := by
  have hone := hold_modHold e (e.session k).bodyNo (fun h => { h with begun := h.begun - n }) a
  have hone' : (e.modHold (e.session k).bodyNo (fun h => { h with begun := h.begun - n })).hold a =
      if a = (e.session k).bodyNo then { e.hold a with begun := (e.hold a).begun - n } else e.hold a := by
    rw [hone]
    split
    · next h => rw [h]
    · rfl
  unfold Engine.refund
  dsimp only
  split
  · exact hone'
  · exact hone'

theorem counter_refund (k n : Nat) (e : Engine) (m : Nat) : (e.refund k n).counter m =
    if (e.session k).isMessage = true ∧ m = (e.session k).mailbox then { e.counter m with charged := (e.counter m).charged - n } else e.counter m := by
  unfold Engine.refund
  dsimp only
  split
  · next h =>
    refine (counter_charge _ _ _ m).trans ?_
    by_cases hm : m = (e.session k).mailbox
    · rw [if_pos hm, if_pos ⟨h, hm⟩, hm]
      rfl
    · rw [if_neg hm, if_neg fun hc => hm hc.2]
      rfl
  · next h => exact (if_neg fun hc => h hc.1).symm

/-! ## The requests and the buffers let go -/

/-- The link, its program of a session no longer wanted where a test names it (R76). -/
def Link.unwanted (k : Nat) (test : ProgReq → Bool) (l : Link) : Link := match l with
  | .allocating r s w => .allocating r s (w && !(r.session = k && test r))
  | .programming r s w => .programming r s (w && !(r.session = k && test r))
  | l => l

theorem unwant_eq (k : Nat) (test : ProgReq → Bool) (e : Engine) : e.unwant k test = e.modSsc (fun c => { c with link := c.link.unwanted k test }) := rfl

/-- The engine whose take has let its requests and its filling buffer go (R27). -/
def Engine.untaken (k : Nat) (e : Engine) : Engine := ((e.withdrawPrograms k (fun _ => true)).unwant k (fun _ => true)).idleFilling k

section Untaken
variable (k : Nat) (e : Engine)

theorem untaken_within : Engine.Within [.sessions, .storeQueues, .link] e (e.untaken k) :=
  (((withdrawPrograms_within e k _).mono (qs := [.sessions, .storeQueues, .link]) rfl).step (unwant_within _ k _) rfl).step (idleFilling_within _ k) rfl

theorem untaken_ssc : (e.untaken k).ssc = { e.ssc with
    progQueue := e.ssc.progQueue.filter (fun r => decide (r.session ≠ k)), link := e.ssc.link.unwanted k (fun _ => true) } := by
  show ({ (e.withdrawPrograms k (fun _ => true)).ssc with link := (e.withdrawPrograms k (fun _ => true)).ssc.link.unwanted k (fun _ => true) } : Ssc) = _
  rw [withdrawPrograms_ssc]
  simp

theorem untaken_rebuffers : e.Rebuffers k (e.untaken k) := by
  refine (withdrawPrograms_rebuffers k (fun _ => true) e).trans ⟨?_, fun j hj => ?_⟩
  · rw [Engine.untaken, session_idleFilling, if_pos rfl]
    exact changeFilling_onlyBufs _ _
  · rw [Engine.untaken, session_idleFilling, if_neg hj]
    rfl

theorem untaken_leaves : e.leavesBuffers k (fun _ => true) ((e.untaken k).session k) := by
  refine leavesBuffers_of (f := Buffer.idled) (y := (e.withdrawPrograms k (fun _ => true)).session k) (fun _ => Iff.rfl)
    (withdrawPrograms_buf k (fun _ => true) e) (fun _ _ => ⟨fun _ => rfl, nofun⟩) (fun b _ => ?_)
  rw [Engine.untaken, session_idleFilling, if_pos rfl]
  rfl

end Untaken

/-! ## The take discarded -/

/-- The session of a discarded take. -/
def Session.dropped (x : Session) : Session := { x with target := .none, discarded := true }

/-- The engine of a discarded take before its target goes: its requests and its filling buffer gone, its buffers begun refunded. -/
def Engine.refunded (k : Nat) (e : Engine) : Engine := (e.untaken k).refund k ((e.untaken k).hold ((e.untaken k).session k).bodyNo).begun

theorem discard_eq (k : Nat) (e : Engine) : e.discard k = (((e.untaken k).session k).letGo (e.refunded k)).modSession k Session.dropped := by
  unfold Engine.discard Session.letGo
  rfl

section Discard
variable (k : Nat) (e : Engine)

theorem untaken_session : (e.session k).OnlyBufs ((e.untaken k).session k) := (untaken_rebuffers k e).1

theorem untaken_keeps {α : Type} (f : Session → α) (hf : ∀ (x : Session) (b0 b1 : Buffer), f { x with buf0 := b0, buf1 := b1 } = f x) :
    f ((e.untaken k).session k) = f (e.session k) := by
  obtain ⟨b0, b1, h⟩ := untaken_session k e
  rw [h, hf]

theorem refunded_within : Engine.Within [.sessions, .storeQueues, .link, .holds, .counters] e (e.refunded k) :=
  ((untaken_within k e).mono (qs := [.sessions, .storeQueues, .link, .holds, .counters]) rfl).step (refund_within _ k _) rfl

theorem refunded_sessions : (e.refunded k).sessions = (e.untaken k).sessions := (refund_within (e.untaken k) k _).keeps .sessions rfl

theorem refunded_ssc : (e.refunded k).ssc = (e.untaken k).ssc := by
  unfold Engine.refunded Engine.refund
  dsimp only
  split
  · rfl
  · rfl

theorem refunded_hold (a : Nat) : (e.refunded k).hold a = if a = (e.session k).bodyNo then { e.hold a with begun := 0 } else e.hold a := by
  have hbody : ((e.untaken k).session k).bodyNo = (e.session k).bodyNo := untaken_keeps k e Session.bodyNo fun _ _ _ => rfl
  have hhold : ∀ c, (e.untaken k).hold c = e.hold c := fun c => congrArg (fun t => Tab.get BodyHold.zero t c) ((untaken_within k e).keeps .holds rfl)
  unfold Engine.refunded
  rw [hold_refund, hbody, hhold, hhold]
  by_cases ha : a = (e.session k).bodyNo
  · rw [if_pos ha, if_pos ha, ← ha, Nat.sub_self]
  · rw [if_neg ha, if_neg ha]

theorem refunded_counter (m : Nat) : (e.refunded k).counter m = if (e.session k).isMessage = true ∧ m = (e.session k).mailbox then
    { e.counter m with charged := (e.counter m).charged - (e.hold (e.session k).bodyNo).begun } else e.counter m := by
  have hbody : ((e.untaken k).session k).bodyNo = (e.session k).bodyNo := untaken_keeps k e Session.bodyNo fun _ _ _ => rfl
  have hkind : ((e.untaken k).session k).isMessage = (e.session k).isMessage := untaken_keeps k e Session.isMessage fun _ _ _ => rfl
  have hbox : ((e.untaken k).session k).mailbox = (e.session k).mailbox := untaken_keeps k e Session.mailbox fun _ _ _ => rfl
  have hhold : ∀ c, (e.untaken k).hold c = e.hold c := fun c => congrArg (fun t => Tab.get BodyHold.zero t c) ((untaken_within k e).keeps .holds rfl)
  have hcounter : ∀ n, (e.untaken k).counter n = e.counter n := fun n =>
    congrArg (fun t => Tab.get Counters.zero t n) ((untaken_within k e).keeps .counters rfl)
  unfold Engine.refunded
  rw [counter_refund, hkind, hbox, hbody, hhold, hcounter]

/-- The parts that a discarded take changes. -/
def discardParts : List Part :=
  [.sessions, .storeQueues, .link, .pool, .holds, .counters, .lmp, .outbox, .flags, .segments, .bodies, .mailboxes, .records, .greetings, .writes]

theorem discard_within : Engine.Within discardParts e (e.discard k) := by
  rw [discard_eq]
  exact (((refunded_within k e).mono (qs := discardParts) rfl).step (letGo_within _ _) rfl).step (modSession_within _ _ _) rfl

theorem discard_lows : e.Lows (e.discard k) := by
  rw [discard_eq]
  exact (Engine.Lows.quiet (refunded_within k e) rfl).trans ((letGo_lows _ _).trans (.quiet (modSession_within _ _ _) rfl))

theorem discard_session : ∃ z, (e.session k).OnlyBufs z ∧ e.leavesBuffers k (fun _ => true) z ∧ (e.discard k).session k = z.dropped := by
  refine ⟨(e.untaken k).session k, untaken_session k e, untaken_leaves k e, ?_⟩
  obtain ⟨t, ht⟩ := letGo_retargets ((e.untaken k).session k) (e.refunded k) k
  have hsame : (e.refunded k).session k = (e.untaken k).session k := congrArg (fun t => Tab.get Session.reset t k) (refunded_sessions k e)
  rw [discard_eq, session_modSession_self, ht, hsame]
  rfl

theorem discard_others {j : Nat} (hj : j ≠ k) : ∃ t, (e.discard k).session j = { e.session j with target := t } := by
  obtain ⟨t, ht⟩ := letGo_retargets ((e.untaken k).session k) (e.refunded k) j
  have hsame : (e.refunded k).session j = (e.untaken k).session j := congrArg (fun t => Tab.get Session.reset t j) (refunded_sessions k e)
  refine ⟨t, ?_⟩
  rw [discard_eq, session_modSession_ne _ hj, ht, hsame, (untaken_rebuffers k e).2 j hj]

theorem discard_queues : (e.discard k).ssc.progQueue = e.ssc.progQueue.filter (fun r => decide (r.session ≠ k)) ∧
    (e.discard k).ssc.link = e.ssc.link.unwanted k (fun _ => true) := by
  have hletGo := letGo_within ((e.untaken k).session k) (e.refunded k)
  obtain ⟨-, hprog⟩ := hletGo.keeps .storeQueues rfl
  obtain ⟨hlink, -⟩ := hletGo.keeps .link rfl
  rw [discard_eq]
  have hssc := (refunded_ssc k e).trans (untaken_ssc k e)
  exact ⟨Eq.trans hprog (congrArg Ssc.progQueue hssc), Eq.trans hlink (congrArg Ssc.link hssc)⟩

theorem discard_begun : ((e.discard k).hold (e.session k).bodyNo).begun = 0 := by
  have hfinal : (e.discard k).hold (e.session k).bodyNo = (((e.untaken k).session k).letGo (e.refunded k)).hold (e.session k).bodyNo := by
    rw [discard_eq]
    rfl
  rw [hfinal]
  rcases letGo_hold ((e.untaken k).session k) (e.refunded k) (e.session k).bodyNo with h | h
  · rw [h, refunded_hold, if_pos rfl]
  · rw [h]
    rfl

variable {k e}

theorem untaken_target : ((e.untaken k).session k).target = (e.session k).target := untaken_keeps k e Session.target fun _ _ _ => rfl

theorem untaken_mailbox : ((e.untaken k).session k).mailbox = (e.session k).mailbox := untaken_keeps k e Session.mailbox fun _ _ _ => rfl

theorem discard_record {r : Nat} (h : (e.session k).target = .record r) : (e.discard k).record r = none := by
  rw [discard_eq]
  exact letGo_record (untaken_target.trans h)

theorem discard_slot {g : GreetingKind} (h : (e.session k).target = .slot g) (n : Nat) (j : GreetingKind) :
    (e.discard k).slot n j = if n = (e.session k).mailbox ∧ j = g then { e.slot (e.session k).mailbox g with staged := none } else e.slot n j := by
  have hslot : ∀ n j, (e.refunded k).slot n j = e.slot n j := fun n j =>
    congrArg (fun t => Tab.get Slot.empty t (slotKey n j)) ((refunded_within k e).keeps .greetings rfl)
  rw [discard_eq]
  refine (letGo_slot (untaken_target.trans h) n j).trans ?_
  rw [untaken_mailbox, hslot, hslot]

section Body
variable {b : Nat} {w : Body} (hb : e.body b = some w) (ht : e.targets (e.session k) b)
include ht

theorem untaken_targets : (e.refunded k).targets ((e.untaken k).session k) b := by
  have hrecord : ∀ q, (e.refunded k).record q = e.record q := fun q => record_congr ((refunded_within k e).keeps .records rfl) q
  have hslot : ∀ n j, (e.refunded k).slot n j = e.slot n j := fun n j =>
    congrArg (fun t => Tab.get Slot.empty t (slotKey n j)) ((refunded_within k e).keeps .greetings rfl)
  unfold Engine.targets at ht ⊢
  rw [untaken_target, untaken_mailbox]
  simpa only [hrecord, hslot] using ht

include hb

/-- The body that nothing but the take held is released (R108). -/
theorem discard_releases (hs : w.share = 1) (hp : (e.hold b).pins = 0) (hr : (e.hold b).readers = 0) (hf : e.ssc.service ≠ .frozen) :
    e.releases (e.discard k) b ∧ (∀ c, (e.discard k).body c = if c = b then none else e.body c) ∧ (e.discard k).hold b = BodyHold.zero ∧
      ((e.chain b).Nodup → (e.discard k).ssc.freeList = e.ssc.freeList) := by
  have hwork := refunded_within k e
  have hbody : ∀ c, (e.refunded k).body c = e.body c := fun c => congrArg (fun t => Tab.find? t c) (hwork.keeps .bodies rfl)
  have hserv : (e.refunded k).ssc.service = e.ssc.service := (hwork.keeps .service rfl).1
  have hfree : (e.refunded k).ssc.freeList = e.ssc.freeList := (hwork.keeps .pool rfl).1
  have hchain : (e.refunded k).chain b = e.chain b := chain_congr (hwork.keeps .segments rfl) (by rw [hbody])
  have hcount : ((e.refunded k).hold b).pins = (e.hold b).pins ∧ ((e.refunded k).hold b).readers = (e.hold b).readers := by
    rw [refunded_hold]
    split
    · exact ⟨rfl, rfl⟩
    · exact ⟨rfl, rfl⟩
  obtain ⟨hrel, hbodies, hzero, hlist⟩ := letGo_releases ((hbody b).trans hb) (untaken_targets ht) hs (hcount.1.trans hp) (hcount.2.trans hr) (hserv ▸ hf)
  rw [discard_eq]
  refine ⟨releases_within hwork rfl hrel (modSession_within _ k _) rfl, fun c => ?_, hzero, fun hn => ?_⟩
  · exact (hbodies c).trans (by rw [hbody])
  · exact (hlist (hchain ▸ hn)).trans hfree

/-- The counters, the charge and the lamp inputs that a discarded message leaves (R125 to R127). -/
theorem discard_counters (hopen : w.sealed = false) {a : Nat} {y : Record} (hkind : (e.session k).kind = some .recordMessage)
    (hx : (e.session k).target = .record a) (hy : e.record a = some y) (hbox : y.mailbox = (e.session k).mailbox) (hn : b = (e.session k).bodyNo) :
    (∀ n, (e.discard k).counter n = if n = (e.session k).mailbox then
      { (e.counter n).leave y.state y.urgent with charged := (e.counter n).charged - (e.hold b).begun } else e.counter n) ∧
    (e.discard k).lmp = (({ e.discard k with lmp := e.lmp } : Engine).handInputs (e.session k).mailbox).lmp := by
  have hwork := refunded_within k e
  have hyb : y.body = b := by
    rcases ht with ⟨a', y', hx', hy', hb'⟩ | ⟨h, hx', -⟩
    · rw [hx] at hx'
      obtain rfl := Target.record.inj hx'
      exact Option.some.inj (hy.symm.trans hy') ▸ hb'
    · rw [hx] at hx'
      cases hx'
  have hmessage : (e.session k).isMessage = true := decide_eq_true hkind
  have hextent : (e.refunded k).extent y.body = 0 := by
    rw [Engine.extent, hyb, show (e.refunded k).body b = some w from (congrArg (fun t => Tab.find? t b) (hwork.keeps .bodies rfl)).trans hb]
    dsimp only
    rw [hopen, if_neg Bool.false_ne_true, refunded_hold, if_pos hn]
  have hlmp : (e.refunded k).lmp = e.lmp := hwork.keeps .lmp rfl
  obtain ⟨hcounter, hlamps⟩ := letGo_counters (x := (e.untaken k).session k) (untaken_target.trans hx)
    ((record_congr (hwork.keeps .records rfl) a).trans hy)
  rw [hbox] at hcounter hlamps
  rw [discard_eq]
  refine ⟨fun n => (hcounter n).trans ?_, ?_⟩
  · rw [refunded_counter, hextent, Nat.sub_zero]
    by_cases hm : n = (e.session k).mailbox
    · rw [if_pos hm, if_pos hm, if_pos ⟨hmessage, hm⟩, hn]
      cases y.state <;> rfl
    · rw [if_neg hm, if_neg hm, if_neg fun h => hm h.2]
  · rw [hlmp] at hlamps
    refine Eq.trans hlamps ?_
    have hsame : ({ ((e.untaken k).session k).letGo (e.refunded k) with lmp := e.lmp } : Engine).SameInputs
        { (((e.untaken k).session k).letGo (e.refunded k)).modSession k Session.dropped with lmp := e.lmp } := ⟨rfl, rfl, rfl, rfl, rfl⟩
    exact (hsame.handInputs _).lamps.symm

end Body
end Discard

end Sys2Proof.Machine

namespace Sys2Proof.Machine

/-! Proofs about section 2: a take discarded before anything of it is stored (R24, R27). -/

/-- A change of some parts that leaves one of them the same is a change of the others. -/
theorem Engine.Within.without {ps qs : List Part} {e g : Engine} (h : Engine.Within ps e g)
    (hq : ∀ p ∈ ps, p ∉ qs → State.samePart { State.reset with eng := e } { State.reset with eng := g } p) : Engine.Within qs e g := by
  intro s
  obtain ⟨hpending, hsame⟩ := h s
  refine ⟨hpending, fun p hp => ?_⟩
  by_cases hps : p ∈ ps
  · have hreset := hq p hps hp
    cases p
    case hwi => rfl
    case cal => rfl
    all_goals exact hreset
  · exact hsame p hps

/-- A session with no request waiting, none in flight, and no buffer filling. -/
def Engine.unbegun (k : Nat) (e : Engine) : Prop :=
  (e.session k).bufWith .filling = none ∧ (∀ q ∈ e.ssc.progQueue, q.session ≠ k) ∧ e.programInFlight k (fun _ => true) = false

section Unbegun
variable {k : Nat} {e : Engine} (h : e.unbegun k)
include h

theorem unbegun_ssc : (e.untaken k).ssc = e.ssc := by
  obtain ⟨-, hqueue, hflight⟩ := h
  have hfilter : e.ssc.progQueue.filter (fun r => decide (r.session ≠ k)) = e.ssc.progQueue :=
    List.filter_eq_self.2 fun r hr => decide_eq_true (hqueue r hr)
  have hlink : e.ssc.link.unwanted k (fun _ => true) = e.ssc.link := by
    unfold Engine.programInFlight at hflight
    unfold Link.unwanted
    split
    · next r i w hl =>
      rw [hl] at hflight ⊢
      cases w <;> simp_all
    · next r i w hl =>
      rw [hl] at hflight ⊢
      cases w <;> simp_all
    · rfl
  rw [untaken_ssc, hfilter, hlink]

theorem unbegun_within : Engine.Within [.sessions] e (e.untaken k) :=
  (untaken_within k e).without fun p hp hq => by
    have hssc := unbegun_ssc h
    simp only [List.mem_cons, List.not_mem_nil, or_false] at hp hq
    rcases hp with rfl | rfl | rfl
    · exact absurd rfl hq
    · exact ⟨congrArg Ssc.readQueue hssc, congrArg Ssc.progQueue hssc⟩
    · exact ⟨congrArg Ssc.link hssc, congrArg Ssc.opTimer hssc⟩

theorem unbegun_bufs {z : Session} (hz : e.leavesBuffers k (fun _ => true) z) : z.buf0 = (e.session k).buf0 ∧ z.buf1 = (e.session k).buf1 := by
  obtain ⟨hfill, hqueue, -⟩ := h
  have hrole : ∀ b, b ≤ 1 → ((e.session k).buf b).role ≠ .filling := by
    unfold Session.bufWith at hfill
    unfold Session.buf
    intro b hb
    interval_cases b
    · intro h0
      rw [if_pos (show (e.session k).buf0.role = .filling from h0)] at hfill
      cases hfill
    · intro h1
      rw [if_pos (show (e.session k).buf1.role = .filling from h1)] at hfill
      split at hfill <;> cases hfill
  have hkeep : ∀ b, b ≤ 1 → z.buf b = (e.session k).buf b := fun b hb =>
    (hz b hb).2.2 (fun ⟨r, hr, hs, _⟩ => hqueue r hr hs) (hrole b hb)
  exact ⟨hkeep 0 (Nat.zero_le 1), hkeep 1 (Nat.le_refl 1)⟩

theorem unbegun_refunded (hm : (e.session k).isMessage = false) : Engine.Within [.sessions, .holds] e (e.refunded k) := by
  have hkind : ((e.untaken k).session k).isMessage = false := (untaken_keeps k e Session.isMessage fun _ _ _ => rfl).trans hm
  have hlate : Engine.Within [.holds] (e.untaken k) (e.refunded k) := ?_
  · exact ((unbegun_within h).mono (qs := [.sessions, .holds]) rfl).step hlate rfl
  unfold Engine.refunded Engine.refund
  dsimp only
  rw [hkind, if_neg Bool.false_ne_true]
  exact modHold_within _ _ _

theorem unbegun_refunded_message : Engine.Within [.sessions, .holds, .counters] e (e.refunded k) :=
  (unbegun_within h |>.mono (qs := [.sessions, .holds, .counters]) rfl).step (refund_within (e.untaken k) k _) rfl

end Unbegun

/-! ## A body without a chain released -/

section Empty
variable {e : Engine} {b : Nat} {w : Body} (hb : e.body b = some w) (hs : w.share = 1) (hp : (e.hold b).pins = 0) (hr : (e.hold b).readers = 0)
  (hf : e.ssc.service ≠ .frozen)
include hb hs hp hr hf

theorem dropShare_asked : (e.dropShare b).asked ≠ [] := by
  rw [dropShare_unheld hb (by omega) hf]
  exact List.append_ne_nil_of_right_ne_nil _ (List.cons_ne_nil _ _)

theorem dropShare_empty (hc : e.chain b = []) : Engine.Within [.bodies, .holds, .writes] e (e.dropShare b) := by
  rw [dropShare_unheld hb (by omega) hf, Engine.release, chain_modShare, hc]
  exact (((modShare_within e b (· - 1)).mono (qs := [.bodies, .holds, .writes]) rfl).step (put_within _ (.body b none)) rfl).step (modHold_within _ b _) rfl

end Empty

section LetGo
variable {x : Session} {e : Engine} {b : Nat} {w : Body} (hb : e.body b = some w) (hs : w.share = 1) (hp : (e.hold b).pins = 0)
  (hr : (e.hold b).readers = 0) (hf : e.ssc.service ≠ .frozen) (hc : e.chain b = [])
include hb hs hp hr hf hc

/-- A record whose body has no chain lets go of no segment. -/
theorem letGo_record_empty {a : Nat} {y : Record} (hx : x.target = .record a) (hy : e.record a = some y) (hyb : y.body = b) :
    Engine.Within [.sessions, .holds, .counters, .lmp, .bodies, .mailboxes, .records, .writes] e (x.letGo e) ∧ (x.letGo e).asked ≠ [] := by
  have hdetach := detachRecord_within e a y
  have hbody : (e.detachRecord a y).body b = some w := (congrArg (fun t => Tab.find? t b) (hdetach.keeps .bodies rfl)).trans hb
  have hhold : (e.detachRecord a y).hold b = e.hold b := congrArg (fun t => Tab.get BodyHold.zero t b) (hdetach.keeps .holds rfl)
  have hserv : (e.detachRecord a y).ssc.service = e.ssc.service := (hdetach.keeps .service rfl).1
  have hchain : (e.detachRecord a y).chain b = [] := (chain_congr (hdetach.keeps .segments rfl) (by rw [hbody, hb])).trans hc
  have hdrop := dropShare_empty hbody hs (by rw [hhold, hp]) (by rw [hhold, hr]) (by rw [hserv]; exact hf) hchain
  have hasked := dropShare_asked hbody hs (by rw [hhold, hp]) (by rw [hhold, hr]) (by rw [hserv]; exact hf)
  have hhand := handAll_within ((e.detachRecord a y).dropShare b) [y.mailbox]
  unfold Session.letGo
  rw [hx]
  dsimp only
  rw [freeRecord_eq hy, hyb]
  refine ⟨((hdetach.mono rfl).step hdrop rfl).step hhand rfl, ?_⟩
  have hsame : (((e.detachRecord a y).dropShare b).handAll [y.mailbox]).asked = ((e.detachRecord a y).dropShare b).asked := (hhand.keeps .writes rfl).2
  rw [hsame]
  exact hasked

/-- A staging whose body has no chain lets go of no segment. -/
theorem letGo_slot_empty {g : GreetingKind} (hx : x.target = .slot g) (hg : (e.slot x.mailbox g).staged = some b) :
    Engine.Within [.holds, .bodies, .greetings, .writes] e (x.letGo e) ∧ (x.letGo e).asked ≠ [] := by
  have hput := putSlot_within e x.mailbox g { e.slot x.mailbox g with staged := none }
  have hchain : (e.putSlot x.mailbox g { e.slot x.mailbox g with staged := none }).chain b = [] :=
    (chain_congr (hput.keeps .segments rfl) (congrArg (fun t : Tab Body => (Tab.find? t b).map _) (hput.keeps .bodies rfl))).trans hc
  have hdrop := dropShare_empty (e := e.putSlot x.mailbox g { e.slot x.mailbox g with staged := none }) hb hs hp hr hf
    hchain
  have hasked := dropShare_asked (e := e.putSlot x.mailbox g { e.slot x.mailbox g with staged := none }) hb hs hp hr hf
  have habandon : e.abandonGreeting x.mailbox g = (e.putSlot x.mailbox g { e.slot x.mailbox g with staged := none }).dropShare b := by
    unfold Engine.abandonGreeting
    dsimp only
    rw [hg]
  unfold Session.letGo
  rw [hx]
  dsimp only
  rw [habandon]
  exact ⟨(hput.mono rfl).step hdrop rfl, hasked⟩

end LetGo

/-! ## The take dropped -/

section Dropped
variable {k b : Nat} {e : Engine} {w : Body} (h : e.unbegun k) (hn : b = (e.session k).bodyNo) (hb : e.body b = some w) (hs : w.share = 1)
  (hp : (e.hold b).pins = 0) (hr : (e.hold b).readers = 0) (hf : e.ssc.service ≠ .frozen) (hc : e.chain b = [])
include h hb hs hp hr hf hc

theorem discard_message_unbegun {a : Nat} {y : Record} (hx : (e.session k).target = .record a) (hy : e.record a = some y) (hyb : y.body = b) :
    Engine.Within [.sessions, .holds, .counters, .lmp, .bodies, .mailboxes, .records, .writes] e (e.discard k) ∧ (e.discard k).asked ≠ [] := by
  have hwork := unbegun_refunded_message h
  have hbody : (e.refunded k).body b = some w := (congrArg (fun t => Tab.find? t b) (hwork.keeps .bodies rfl)).trans hb
  have hserv : (e.refunded k).ssc.service = e.ssc.service := (hwork.keeps .service rfl).1
  have hchain : (e.refunded k).chain b = [] := (chain_congr (hwork.keeps .segments rfl) (by rw [hbody, hb])).trans hc
  have hcount : ((e.refunded k).hold b).pins = 0 ∧ ((e.refunded k).hold b).readers = 0 := by
    rw [refunded_hold]
    split
    · exact ⟨hp, hr⟩
    · exact ⟨hp, hr⟩
  obtain ⟨hletGo, hasked⟩ := letGo_record_empty (x := (e.untaken k).session k) hbody hs hcount.1 hcount.2 (by rw [hserv]; exact hf) hchain
    (untaken_target.trans hx) ((record_congr (hwork.keeps .records rfl) a).trans hy) hyb
  rw [discard_eq]
  exact ⟨((hwork.mono rfl).step hletGo rfl).step (modSession_within _ k _) rfl, hasked⟩

theorem discard_greeting_unbegun {g : GreetingKind} (hm : (e.session k).isMessage = false) (hx : (e.session k).target = .slot g)
    (hg : (e.slot (e.session k).mailbox g).staged = some b) :
    Engine.Within [.sessions, .holds, .bodies, .greetings, .writes] e (e.discard k) ∧ (e.discard k).asked ≠ [] := by
  have hwork := unbegun_refunded h hm
  have hbody : (e.refunded k).body b = some w := (congrArg (fun t => Tab.find? t b) (hwork.keeps .bodies rfl)).trans hb
  have hserv : (e.refunded k).ssc.service = e.ssc.service := (hwork.keeps .service rfl).1
  have hchain : (e.refunded k).chain b = [] := (chain_congr (hwork.keeps .segments rfl) (by rw [hbody, hb])).trans hc
  have hslot : (e.refunded k).slot (e.session k).mailbox g = e.slot (e.session k).mailbox g :=
    congrArg (fun t => Tab.get Slot.empty t (slotKey (e.session k).mailbox g)) (hwork.keeps .greetings rfl)
  have hcount : ((e.refunded k).hold b).pins = 0 ∧ ((e.refunded k).hold b).readers = 0 := by
    rw [refunded_hold]
    split
    · exact ⟨hp, hr⟩
    · exact ⟨hp, hr⟩
  obtain ⟨hletGo, hasked⟩ := letGo_slot_empty (x := (e.untaken k).session k) (g := g) hbody hs hcount.1 hcount.2 (by rw [hserv]; exact hf) hchain
    (untaken_target.trans hx) (by rw [untaken_mailbox, hslot, hg])
  rw [discard_eq]
  exact ⟨((hwork.mono rfl).step hletGo rfl).step (modSession_within _ k _) rfl, hasked⟩

end Dropped

/-! ## A take ends without an onset (R26) -/

/-- The engine of a take as it begins to end: its meter stopped, its cause noted, its bindings released (R9, R26). -/
def Engine.ending (k : Nat) (c : Cause) (e : Engine) : Engine := (e.modSession k (fun x => { x.stopMeter with endCause := some c })).releaseSlots k

theorem session_ending (k : Nat) (c : Cause) (e : Engine) (j : Nat) : (e.ending k c).session j =
    if j = k then { (e.session k).stopMeter with endCause := some c, inSlot := none, outSlot := none } else e.session j := by
  unfold Engine.ending
  rw [session_releaseSlots, session_modSession_self]
  by_cases hj : j = k
  · rw [if_pos hj, if_pos hj]
  · rw [if_neg hj, if_neg hj, session_modSession_ne _ hj]

theorem ending_within (k : Nat) (c : Cause) (e : Engine) : Engine.Within [.slots, .sessions] e (e.ending k c) :=
  ((modSession_within e k _).mono (qs := [.slots, .sessions]) rfl).step (releaseSlots_within _ _) rfl

theorem endTake_silent {k : Nat} {e : Engine} (c : Cause) (cap : Option Nat) {m : Meter} (hm : (e.session k).meter = some m) (ho : m.onset = none) :
    e.endTake k c cap = ((e.ending k c).discard k).enterEnded k (discardedOutcome c) := by
  have hnone : (e.session k).meter.bind (·.onset) = none := by rw [hm]; exact ho
  unfold Engine.endTake
  dsimp only
  rw [hnone]
  cases (e.session k).snap <;> rfl

end Sys2Proof.Machine

namespace Sys2Proof.Machine

/-! Proofs about section 2: what OPEN RECORD asks of the catalogue (R100). -/

/-! ## Writes asked, none handed to the port -/

/-- From e to g writes have been asked for, and none has become a sequence. -/
def Engine.Asked (e g : Engine) : Prop := g.catQueue = e.catQueue ∧ ∃ ws, g.asked = e.asked ++ ws

namespace Engine.Asked
variable {a b c : Engine}

theorem refl (a : Engine) : Asked a a := ⟨rfl, [], (List.append_nil _).symm⟩

theorem trans (h : Asked a b) (k : Asked b c) : Asked a c := by
  obtain ⟨hq, ws, hw⟩ := h
  obtain ⟨kq, vs, kw⟩ := k
  exact ⟨kq.trans hq, ws ++ vs, by rw [kw, hw, List.append_assoc]⟩

theorem put (w : CatWrite) (a : Engine) : Asked a (a.put w) := ⟨rfl, [w], rfl⟩

theorem within {ps : List Part} (h : Engine.Within ps a b) (hps : decide (Part.writes ∈ ps) = false) : Asked a b :=
  ⟨(h.keeps .writes hps).1, [], (h.keeps .writes hps).2.trans (List.append_nil _).symm⟩

theorem ite {p : Prop} [Decidable p] (h : Asked a b) (k : Asked a c) : Asked a (if p then b else c) := ite_kept h k

theorem foldl {α : Type} {op : Engine → α → Engine} (hop : ∀ (e : Engine) (x : α), e.Asked (op e x)) (l : List α) (e : Engine) : e.Asked (l.foldl op e) :=
  foldl_kept (P := fun g : Engine => e.Asked g) (fun g x h => h.trans (hop g x)) l (refl e)

theorem asked_ne (h : Asked a b) (ha : a.asked ≠ []) : b.asked ≠ [] := by
  obtain ⟨-, ws, hw⟩ := h
  rw [hw]
  exact List.append_ne_nil_of_left_ne_nil ha ws

end Engine.Asked

theorem joinDirty_queued (i : Nat) (e : Engine) : e.Asked (e.joinDirty i) :=
  ((Engine.Asked.put _ e).trans (.within (poolLists_within (e.putDirty i) _ _ _) rfl)).trans (.within (examinePool_within _) rfl)

theorem release_queued (b : Nat) (e : Engine) : e.Asked (e.release b) :=
  ((Engine.Asked.foldl (fun e i => .ite (joinDirty_queued i e) (.refl e)) _ e).trans (.put (.body b none) _)).trans (.within (modHold_within _ b _) rfl)

theorem modShare_queued (b : Nat) (f : Nat → Nat) (e : Engine) : e.Asked (e.modShare b f) := by
  unfold Engine.modShare
  split
  · exact .refl e
  · exact .put _ e

theorem dropShare_queued (b : Nat) (e : Engine) : e.Asked (e.dropShare b) := by
  refine (modShare_queued b (· - 1) e).trans ?_
  show (e.modShare b (· - 1)).Asked ((e.modShare b (· - 1)).releaseIfUnheld b)
  unfold Engine.releaseIfUnheld
  split
  · exact .refl _
  · exact .ite (release_queued b _) (.refl _)

theorem unlinkRecord_queued (r : Nat) (x : Record) (e : Engine) : e.Asked (e.unlinkRecord r x) := by
  unfold Engine.unlinkRecord
  extract_lets e1 e2
  have h1 : e.Asked e1 := by
    unfold e1
    split <;> exact .put _ e
  have h2 : e1.Asked e2 := by
    unfold e2
    split <;> exact .put _ e1
  exact (h1.trans h2).trans (.put _ e2)

theorem detachRecord_queued (r : Nat) (x : Record) (e : Engine) : e.Asked (e.detachRecord r x) :=
  (unlinkRecord_queued r x e).trans (.within (ps := [.counters, .sessions])
    ((((modCounter_within _ x.mailbox _).mono rfl).step (charge_within _ x.mailbox _) rfl).step (clearTargets_within _ r) rfl) rfl)

theorem letGo_queued (x : Session) (e : Engine) : e.Asked (x.letGo e) := by
  unfold Session.letGo
  split
  · exact .refl e
  · next r _ =>
    cases hr : e.record r with
    | none =>
      have hkeep : e.freeRecord r = e := by
        unfold Engine.freeRecord
        rw [hr]
      rw [hkeep]
      exact .refl e
    | some y =>
      rw [freeRecord_eq hr]
      exact ((detachRecord_queued r y e).trans (dropShare_queued _ _)).trans (.within (handAll_within _ _) rfl)
  · next g _ =>
    have hput : e.Asked (e.putSlot x.mailbox g { e.slot x.mailbox g with staged := none }) := .put _ e
    unfold Engine.abandonGreeting
    dsimp only
    split
    · exact hput
    · exact hput.trans (dropShare_queued _ _)

theorem discard_queued (k : Nat) (e : Engine) : e.Asked (e.discard k) := by
  rw [discard_eq]
  exact ((Engine.Asked.within (refunded_within k e) rfl).trans (letGo_queued _ _)).trans (.within (modSession_within _ k _) rfl)

/-! ## What OPEN RECORD writes -/

theorem target_queued (q : OpenRecord) (now : Now) (b : Nat) (e : Engine) : e.Asked (q.target now b e).2 ∧ (q.target now b e).2.asked ≠ [] := by
  have hcreate : e.Asked (e.createBody b) := .put _ e
  have hne : (e.createBody b).asked ≠ [] := List.append_ne_nil_of_right_ne_nil _ (List.cons_ne_nil _ _)
  have hlate : (e.createBody b).Asked (q.target now b e).2 := by
    unfold OpenRecord.target
    dsimp only
    split
    · obtain ⟨ws, -, hasked, hqueue⟩ := appendRecord_asked (e.createBody b) e.freeRecordNo (Record.recording now q.mailbox b (q.urgent.getD false) q.caller)
      exact ⟨hqueue, ws, hasked⟩
    · exact .put _ _
  exact ⟨hcreate.trans hlate, hlate.asked_ne hne⟩

theorem opened_queued (q : OpenRecord) (now : Now) (e : Engine) : e.Asked (q.opened now e) ∧ (q.opened now e).asked ≠ [] := by
  obtain ⟨htarget, hne⟩ := target_queued q now e.freeBody e
  have hlate : (q.target now e.freeBody e).2.Asked (q.opened now e) := .within (opened_late q now e) rfl
  exact ⟨htarget.trans hlate, hlate.asked_ne hne⟩

/-! ## The answer that waits -/

theorem taken_within (s : State) : Engine.Within [.channel] s.eng s.taken.eng := fun s0 => ⟨rfl, fun p hp => by
  cases p
  case channel => exact absurd (.head _) hp
  all_goals simp [State.samePart, State.taken, State.onEng, Engine.modMgc]⟩

theorem awaited_within (tag : Byte) (d : List Byte) (e : Engine) : Engine.Within [.writes] e (e.awaited tag d) := fun s0 => ⟨rfl, fun p hp => by
  cases p
  case writes => exact absurd (.head _) hp
  all_goals simp [State.samePart, Engine.awaited]⟩

theorem waited_within {s : State} {qs : List Part} {g : Engine} (k : Engine.Within qs s.taken.eng g) (hw : Part.writes ∈ qs) (tag : Byte) (d : List Byte) :
    Engine.Within (.channel :: qs) s.eng (g.awaited tag d) := by
  have hmem : ∀ p ∈ qs, p ∈ Part.channel :: qs := fun p hp => List.mem_cons_of_mem _ hp
  have htaken : Engine.Within (.channel :: qs) s.eng s.taken.eng :=
    (taken_within s).mono (List.all_eq_true.2 fun p hp => decide_eq_true (by rw [List.mem_singleton.1 hp]; exact List.mem_cons_self))
  have hwork : Engine.Within (.channel :: qs) s.taken.eng g := k.mono (List.all_eq_true.2 fun p hp => decide_eq_true (hmem p hp))
  have hwait : Engine.Within (.channel :: qs) g (g.awaited tag d) :=
    (awaited_within tag d g).mono (List.all_eq_true.2 fun p hp => decide_eq_true (by rw [List.mem_singleton.1 hp]; exact hmem _ hw))
  exact (htaken.trans hwork).trans hwait

theorem mgc_within {qs : List Part} {e g : Engine} (h : Engine.Within qs e g) (hq : partsApart [.channel, .outbox, .flags] qs = true) : g.mgc = e.mgc := by
  have hout : ∀ p ∈ [Part.channel, .outbox, .flags], decide (p ∈ qs) = false := fun p hm => decide_eq_false (not_mem_of_partsApart hq hm)
  obtain ⟨hr, hi, hh, hre⟩ := h.keeps .channel (hout _ (by simp))
  obtain ⟨ho, hd⟩ := h.keeps .outbox (hout _ (by simp))
  obtain ⟨hf, hl, hc, hv, hg, he⟩ := h.keeps .flags (hout _ (by simp))
  rcases hb : g.mgc with ⟨⟩
  rcases ha : e.mgc with ⟨⟩
  simp_all

end Sys2Proof.Machine

namespace Sys2Proof.Machine

/-! Proofs about section 2: OPEN RECORD's first buffer (R24). -/

section StartBuffer
variable {e : Engine} {k bf : Nat} (hb : (e.session k).bufWith .idle = some bf)
include hb

/-- A session whose buffer begins to fill. -/
def Session.beginning (bf : Nat) (x : Session) : Session :=
  x.setBuf bf { x.buf bf with role := .filling, holds := x.cursor / Config.segmentSamples }

/-- The engine of a session whose buffer begins to fill, before its mailbox is charged. -/
def Engine.begun (k bf : Nat) (e : Engine) : Engine :=
  (e.modBuf k bf (fun v => { v with role := .filling, holds := (e.session k).cursor / Config.segmentSamples })).modHold (e.session k).bodyNo
    (fun h => { h with begun := h.begun + 1 })

omit hb in
theorem begun_within : Engine.Within [.sessions, .holds] e (e.begun k bf) :=
  ((modBuf_within e k bf _).mono (qs := [.sessions, .holds]) rfl).step (modHold_within _ _ _) rfl

theorem startBuffer_greeting (hm : (e.session k).isMessage = false) : e.startBuffer k = e.begun k bf := by
  unfold Engine.startBuffer
  dsimp only
  rw [hb]
  dsimp only
  rw [hm, Bool.false_and, if_neg Bool.false_ne_true, if_neg Bool.false_ne_true]
  rfl

theorem startBuffer_message (hm : (e.session k).isMessage = true)
    (hq : (e.counter (e.session k).mailbox).charged + 1 ≤ (e.boxClass (e.session k).mailbox).quota) :
    e.startBuffer k = ((e.begun k bf).charge (e.session k).mailbox (· + 1)).handInputs (e.session k).mailbox := by
  unfold Engine.startBuffer
  dsimp only
  rw [hb]
  dsimp only
  rw [hm, Bool.true_and, if_neg (fun h => Nat.not_lt.2 hq (of_decide_eq_true h)), if_pos rfl]
  rfl

end StartBuffer

section Begun
variable (e : Engine) (k bf : Nat)

theorem begun_session (j : Nat) : (e.begun k bf).session j = if j = k then (e.session k).beginning bf else e.session j :=
  session_modBuf e k bf (fun v => { v with role := .filling, holds := (e.session k).cursor / Config.segmentSamples }) j

theorem begun_hold (a : Nat) : (e.begun k bf).hold a = if a = (e.session k).bodyNo then { e.hold a with begun := (e.hold a).begun + 1 } else e.hold a := by
  refine (hold_modHold _ (e.session k).bodyNo (fun h => { h with begun := h.begun + 1 }) a).trans ?_
  by_cases ha : a = (e.session k).bodyNo
  · rw [if_pos ha, if_pos ha, ha]
    rfl
  · rw [if_neg ha, if_neg ha]
    rfl

/-- The lamp inputs handed of a mailbox charged (R127). -/
theorem charged_lamps (m : Nat) (f : Nat → Nat) {g : Engine} (hg : ((e.charge m f).handInputs m).SameInputs g) :
    g.lmp = (({ g with lmp := e.lmp } : Engine).handInputs m).lmp :=
  handsInputs_of (s := { State.reset with eng := e }) (t := { State.reset with eng := g }) (e := e.charge m f) (boxes := [m]) rfl hg

end Begun

end Sys2Proof.Machine

namespace Sys2Proof.Machine

/-! Proofs about section 2: the session that OPEN RECORD opens (R19 to R21). -/

/-- The context that OPEN RECORD opens over the buffers a session had. -/
def OpenRecord.take (q : OpenRecord) (t : Target) (e : Engine) : Session :=
  { Session.freeWith (e.session q.session).buf0 (e.session q.session).buf1 with
    kind := some (if q.kind = 0 then .recordMessage else .recordGreeting),
    state := if q.outbound ≠ none ∧ 0 < e.tab.settings.cueLength then .cue else .waitOnset,
    inSlot := some q.inbound, outSlot := q.outbound, mailbox := q.mailbox, target := t, body := some e.freeBody, meter := some Meter.start,
    snap := some ((e.boxClass q.mailbox).snapshot (q.kind ≠ 0)), cueLength := e.tab.settings.cueLength, releaseOnReport := q.release.getD false }

section Take
variable (q : OpenRecord) (now : Now) (e : Engine)

theorem target_class : (q.target now e.freeBody e).2.boxClass q.mailbox = e.boxClass q.mailbox := by
  refine boxClass_of_fields ((target_within e q now e.freeBody).keeps .classes rfl) ?_
  have hcreate : (e.createBody e.freeBody).mailbox q.mailbox = e.mailbox q.mailbox := mailbox_congr ((createBody_within e e.freeBody).keeps .mailboxes rfl) _
  unfold OpenRecord.target
  dsimp only
  split
  · exact (appendRecord_fields (e.createBody e.freeBody) e.freeRecordNo _ q.mailbox).trans (congrArg _ hcreate)
  · exact congrArg _ (Eq.trans (mailbox_congr ((putSlot_within (e.createBody e.freeBody) _ _ _).keeps .mailboxes rfl) _) hcreate)

theorem opened_self : (q.opened now e).session q.session = q.take (q.target now e.freeBody e).1 e := by
  have hsessions : (q.target now e.freeBody e).2.sessions = e.sessions := (target_within e q now e.freeBody).keeps .sessions rfl
  have hsettings : (q.target now e.freeBody e).2.tab.settings = e.tab.settings := (target_within e q now e.freeBody).keeps .settings rfl
  have hold : (q.target now e.freeBody e).2.session q.session = e.session q.session := congrArg (fun t => Tab.get Session.reset t q.session) hsessions
  have hstate : (if q.outbound.isSome && decide (0 < e.tab.settings.cueLength) then SessState.cue else .waitOnset) =
      if q.outbound ≠ none ∧ 0 < e.tab.settings.cueLength then .cue else .waitOnset := by
    simp only [Bool.and_eq_true, decide_eq_true_eq, Option.isSome_iff_ne_none]
  rw [opened_session, if_pos rfl]
  unfold OpenRecord.context OpenRecord.take
  dsimp only
  rw [hold, hsettings, target_class, hstate]

theorem take_isMessage (t : Target) : (q.take t e).isMessage = decide (q.kind = 0) := by
  unfold Session.isMessage OpenRecord.take
  dsimp only
  by_cases h : q.kind = 0
  · rw [if_pos h, decide_eq_true h]
    rfl
  · rw [if_neg h, decide_eq_false h]
    rfl

theorem take_bufWith (t : Target) (role : BufRole) : (q.take t e).bufWith role = (e.session q.session).bufWith role := rfl

end Take

/-! ## The first buffer of a take -/

section First
variable {q : OpenRecord} {now : Now} {e : Engine} {bf : Nat}

/-- The context of an opened take whose first buffer fills. -/
theorem take_beginning (t : Target) : ∃ b0 b1, (q.take t e).beginning bf = { q.take t e with buf0 := b0, buf1 := b1 } ∧
    ((q.take t e).beginning bf).buf bf = { (e.session q.session).buf bf with role := .filling, holds := 0 } := by
  obtain ⟨b0, b1, h⟩ := setBuf_onlyBufs (q.take t e) bf { (q.take t e).buf bf with role := .filling, holds := (q.take t e).cursor / Config.segmentSamples }
  have hplace : (q.take t e).cursor / Config.segmentSamples = 0 := Nat.zero_div _
  refine ⟨b0, b1, h, ?_⟩
  rw [Session.beginning, buf_setBuf, hplace]
  rfl

/-- What the first buffer of a message take leaves (R20, R24). -/
theorem message_begins (hk : q.kind = 0) (hb : (e.session q.session).bufWith .idle = some bf)
    (hq : (e.counter q.mailbox).charged < (e.boxClass q.mailbox).quota) {g : Engine} (hg : (q.opened now e).startBuffer q.session = g) :
    Engine.Within [.slots, .sessions, .holds, .counters, .lmp, .bodies, .mailboxes, .records, .writes] e g ∧ e.Asked g ∧ g.asked ≠ [] ∧
      g.session q.session = (q.take (.record e.freeRecordNo) e).beginning bf ∧
      g.slotsIn = (q.opened now e).slotsIn ∧ g.slotsOut = (q.opened now e).slotsOut ∧
      g.body e.freeBody = some Body.fresh ∧ g.hold e.freeBody = { begun := 1, pins := 0, readers := 0 } ∧
      (∃ p n, g.record e.freeRecordNo = some { Record.recording now q.mailbox e.freeBody (q.urgent.getD false) q.caller with prev := p, next := n }) ∧
      g.counter q.mailbox = { e.counter q.mailbox with
        recording := (e.counter q.mailbox).recording + 1, total := (e.counter q.mailbox).total + 1, charged := (e.counter q.mailbox).charged + 1 } ∧
      g.lmp = (({ g with lmp := e.lmp } : Engine).handInputs q.mailbox).lmp := by
  obtain ⟨htarget, hwork, hbody, hhold, ⟨p, n, hrecord⟩, hcounter, hfields⟩ := opened_message now e hk
  obtain ⟨hasked, hne⟩ := opened_queued q now e
  have hself := opened_self q now e
  rw [htarget] at hself
  have hclass : (q.opened now e).boxClass q.mailbox = e.boxClass q.mailbox := boxClass_of_fields (hwork.keeps .classes rfl) (hfields q.mailbox)
  generalize q.opened now e = o at *
  have hbox : (o.session q.session).mailbox = q.mailbox := by
    rw [hself]
    rfl
  have hno : (o.session q.session).bodyNo = e.freeBody := by
    rw [hself]
    rfl
  have hcharged : (o.counter q.mailbox).charged = (e.counter q.mailbox).charged := by
    rw [hcounter, if_pos rfl]
    rfl
  have hstart : g = ((o.begun q.session bf).charge q.mailbox (· + 1)).handInputs q.mailbox := by
    rw [← hg, startBuffer_message (bf := bf) (by rw [hself, take_bufWith, hb]) (by rw [hself, take_isMessage, decide_eq_true hk])
      (by rw [hbox, hcharged, hclass]; exact hq), hbox]
  have hbegun := begun_within (e := o) (k := q.session) (bf := bf)
  have hcharge := charge_within (o.begun q.session bf) q.mailbox (· + 1)
  have hhand := handInputs_within ((o.begun q.session bf).charge q.mailbox (· + 1)) q.mailbox
  have hsession := begun_session o q.session bf q.session
  have hholds := begun_hold o q.session bf e.freeBody
  have hcount := counter_charge q.mailbox (· + 1) (o.begun q.session bf) q.mailbox
  have hlamps := charged_lamps (o.begun q.session bf) q.mailbox (· + 1) (.refl _)
  rw [← hstart] at hhand hlamps
  rw [if_pos rfl] at hsession hcount
  have hpre : (o.begun q.session bf).counter q.mailbox = o.counter q.mailbox :=
    congrArg (fun t => Tab.get Counters.zero t q.mailbox) (hbegun.keeps .counters rfl)
  have hlmp : (o.begun q.session bf).lmp = e.lmp := (hbegun.keeps .lmp rfl).trans (hwork.keeps .lmp rfl)
  generalize o.begun q.session bf = o1 at *
  generalize o1.charge q.mailbox (· + 1) = o2 at *
  have hlate : Engine.Within [.sessions, .holds, .counters, .lmp] o g := ((hbegun.mono rfl).step hcharge rfl).step hhand rfl
  have hlater : Engine.Within [.counters, .lmp] o1 g := (hcharge.mono rfl).step hhand rfl
  refine ⟨?_, hasked.trans (.within hlate rfl), (Engine.Asked.within hlate rfl).asked_ne hne, ?_, (hlate.keeps .slots rfl).1, (hlate.keeps .slots rfl).2,
    ?_, ?_, ⟨p, n, ?_⟩, ?_, ?_⟩
  · exact (hwork.mono rfl).step hlate rfl
  · exact (congrArg (fun t => Tab.get Session.reset t q.session) (hlater.keeps .sessions rfl)).trans (hsession.trans (congrArg _ hself))
  · exact (congrArg (fun t => Tab.find? t e.freeBody) (hlate.keeps .bodies rfl)).trans hbody
  · refine (congrArg (fun t => Tab.get BodyHold.zero t e.freeBody) (hlater.keeps .holds rfl)).trans (hholds.trans ?_)
    rw [hno, if_pos rfl, hhold]
    rfl
  · exact (record_congr (hlate.keeps .records rfl) _).trans hrecord
  · refine (congrArg (fun t => Tab.get Counters.zero t q.mailbox) (hhand.keeps .counters rfl)).trans (hcount.trans ?_)
    rw [hpre, hcounter, if_pos rfl]
    rfl
  · rw [← hlmp]
    exact hlamps

/-- What the first buffer of a greeting take leaves (R21, R24). -/
theorem greeting_begins (hk : q.kind ≠ 0) (hb : (e.session q.session).bufWith .idle = some bf) {g : Engine}
    (hg : (q.opened now e).startBuffer q.session = g) :
    Engine.Within [.slots, .sessions, .holds, .bodies, .greetings, .writes] e g ∧ e.Asked g ∧ g.asked ≠ [] ∧
      g.session q.session = (q.take (.slot q.slotKind) e).beginning bf ∧
      g.slotsIn = (q.opened now e).slotsIn ∧ g.slotsOut = (q.opened now e).slotsOut ∧
      g.body e.freeBody = some Body.fresh ∧ g.hold e.freeBody = { begun := 1, pins := 0, readers := 0 } ∧
      ∀ n h, g.slot n h = if n = q.mailbox ∧ h = q.slotKind then { e.slot n h with staged := some e.freeBody } else e.slot n h := by
  obtain ⟨htarget, hwork, hbody, hhold, hslot⟩ := opened_greeting now e hk
  obtain ⟨hasked, hne⟩ := opened_queued q now e
  have hself := opened_self q now e
  rw [htarget] at hself
  generalize q.opened now e = o at *
  have hno : (o.session q.session).bodyNo = e.freeBody := by
    rw [hself]
    rfl
  have hstart : g = o.begun q.session bf := by
    rw [← hg, startBuffer_greeting (bf := bf) (by rw [hself, take_bufWith, hb]) (by rw [hself, take_isMessage, decide_eq_false hk])]
  have hbegun := begun_within (e := o) (k := q.session) (bf := bf)
  have hsession := begun_session o q.session bf q.session
  have hholds := begun_hold o q.session bf e.freeBody
  rw [← hstart] at hbegun hsession hholds
  refine ⟨(hwork.mono rfl).step hbegun rfl, hasked.trans (.within hbegun rfl), (Engine.Asked.within hbegun rfl).asked_ne hne, ?_,
    (hbegun.keeps .slots rfl).1, (hbegun.keeps .slots rfl).2, ?_, ?_, fun n h => ?_⟩
  · rw [hsession, if_pos rfl, hself]
  · exact (congrArg (fun t => Tab.find? t e.freeBody) (hbegun.keeps .bodies rfl)).trans hbody
  · rw [hholds, hno, if_pos rfl, hhold]
    rfl
  · exact (congrArg (fun t => Tab.get Slot.empty t (slotKey n h)) (hbegun.keeps .greetings rfl)).trans (hslot n h)

end First

end Sys2Proof.Machine

namespace Sys2Proof.Machine

/-! Proofs about section 2: an OPEN RECORD that finds no idle buffer (R24, R27). -/

/-- A take of which nothing has begun ends with its buffers as they were. -/
theorem unbegun_ends {f : Engine} {k : Nat} (h : f.unbegun k) (hc : (f.session k).closing = false) (c : Cause) :
    ((f.session k).releaseOnReport = false → ((f.discard k).enterEnded k c).session k = (f.session k).dropped.endedBy c) ∧
      ((f.discard k).enterEnded k c).mgc.flags &&& NoticeKind.sessionEnd.bit = NoticeKind.sessionEnd.bit := by
  obtain ⟨z, ⟨b0, b1, hz⟩, hleaves, hsession⟩ := discard_session k f
  obtain ⟨h0, h1⟩ := unbegun_bufs h hleaves
  have hsame : z = f.session k := by
    have hb0 : b0 = (f.session k).buf0 := by rw [← h0, hz]
    have hb1 : b1 = (f.session k).buf1 := by rw [← h1, hz]
    rw [hz, hb0, hb1]
  rw [hsame] at hsession
  have hclosing : ((f.discard k).session k).closing = false := by
    rw [hsession]
    exact hc
  refine ⟨fun hr => ?_, ?_⟩
  · have hrelease : ((f.discard k).session k).releaseOnReport = false := by
      rw [hsession]
      exact hr
    have hstays : (f.discard k).freesEnded ((f.discard k).session k) = false := by
      rw [Engine.freesEnded, hclosing, hrelease, Bool.and_false, Bool.or_false]
    rw [enterEnded_session, if_pos rfl, hstays, if_neg Bool.false_ne_true, hsession]
  · rw [enterEnded_mgc, if_neg (by rw [hclosing]; exact Bool.false_ne_true)]
    exact raise_flagged _ _ _

section Busy
variable {q : OpenRecord} {now : Now} {e : Engine} (hb : (e.session q.session).bufWith .idle = none) (hu : e.unbegun q.session)
  (hf : e.ssc.service ≠ .frozen)

/-- The context of a take that ends as it opens. -/
def OpenRecord.unopened (q : OpenRecord) (t : Target) (e : Engine) : Session :=
  { (q.take t e).stopMeter with endCause := some .storeBusy, inSlot := none, outSlot := none }

include hb in
/-- The engine of an opened take that finds no idle buffer. -/
theorem busy_ends {o : Engine} {t : Target} (ho : o.session q.session = q.take t e) :
    o.startBuffer q.session = ((o.ending q.session .storeBusy).discard q.session).enterEnded q.session .storeBusy ∧
      (o.ending q.session .storeBusy).session q.session = q.unopened t e := by
  refine ⟨?_, ?_⟩
  · have hstart : o.startBuffer q.session = o.endTake q.session .storeBusy none := by
      unfold Engine.startBuffer
      dsimp only
      rw [ho, take_bufWith, hb]
    rw [hstart]
    exact endTake_silent (m := Meter.start) .storeBusy none (by rw [ho]; rfl) rfl
  · rw [session_ending, if_pos rfl, ho]
    rfl

include hu in
theorem unbegun_of {f : Engine} {t : Target} (hs : f.session q.session = q.unopened t e) (hp : f.ssc.progQueue = e.ssc.progQueue)
    (hl : f.ssc.link = e.ssc.link) : f.unbegun q.session := by
  obtain ⟨hfill, hqueue, hflight⟩ := hu
  refine ⟨?_, by rw [hp]; exact hqueue, ?_⟩
  · rw [hs]
    exact hfill
  · unfold Engine.programInFlight at hflight ⊢
    rw [hl]
    exact hflight

theorem chain_fresh {f : Engine} {b : Nat} (h : f.body b = some Body.fresh) : f.chain b = [] := by
  unfold Engine.chain
  rw [h]
  rfl

include hb hu hf

/-- A message take without an idle buffer is gone as it came, its mailbox's counters as they were (R24, R27). -/
theorem message_busy (hk : q.kind = 0) {g : Engine} (hg : (q.opened now e).startBuffer q.session = g) :
    Engine.Within [.slots, .sessions, .holds, .counters, .lmp, .outbox, .flags, .bodies, .mailboxes, .records, .writes] e g ∧ e.Asked g ∧ g.asked ≠ [] ∧
      ((q.release.getD false) = false → g.session q.session = (q.unopened (.record e.freeRecordNo) e).dropped.endedBy .storeBusy) ∧
      g.mgc.flags &&& NoticeKind.sessionEnd.bit = NoticeKind.sessionEnd.bit ∧ g.body e.freeBody = none ∧ (∀ n, g.counter n = e.counter n) ∧
      g.record e.freeRecordNo = none := by
  obtain ⟨htarget, hwork, hbody, hhold, ⟨p, n, hrecord⟩, hcounter, -⟩ := opened_message now e hk
  obtain ⟨hasked, hne⟩ := opened_queued q now e
  have hself := opened_self q now e
  rw [htarget] at hself
  generalize q.opened now e = o at *
  obtain ⟨hstart, hending⟩ := busy_ends hb hself
  rw [← hg, hstart]
  have hend := ending_within q.session .storeBusy o
  generalize o.ending q.session .storeBusy = f at *
  have hall : Engine.Within [.slots, .sessions, .holds, .counters, .bodies, .mailboxes, .records, .writes] e f := (hwork.mono rfl).step hend rfl
  have hfbody : f.body e.freeBody = some Body.fresh := (congrArg (fun t => Tab.find? t e.freeBody) (hend.keeps .bodies rfl)).trans hbody
  have hfhold : f.hold e.freeBody = BodyHold.zero := (congrArg (fun t => Tab.get BodyHold.zero t e.freeBody) (hend.keeps .holds rfl)).trans hhold
  have hfrecord := (record_congr (hend.keeps .records rfl) e.freeRecordNo).trans hrecord
  have hfcounter : ∀ n, f.counter n = o.counter n := fun n => congrArg (fun t => Tab.get Counters.zero t n) (hend.keeps .counters rfl)
  have hunbegun : f.unbegun q.session := unbegun_of hu hending (hall.keeps .storeQueues rfl).2 (hall.keeps .link rfl).1
  have hservice : f.ssc.service ≠ .frozen := by
    rw [show f.ssc.service = e.ssc.service from (hall.keeps .service rfl).1]
    exact hf
  have hfasked : o.Asked f := .within hend rfl
  have htargets : f.targets (f.session q.session) e.freeBody := by
    rw [hending]
    exact .inl ⟨_, _, rfl, hfrecord, rfl⟩
  obtain ⟨hdrop, hdropped⟩ := discard_message_unbegun hunbegun hfbody rfl (by rw [hfhold]; rfl) (by rw [hfhold]; rfl) hservice
    (chain_fresh hfbody) (by rw [hending]; rfl) hfrecord rfl
  obtain ⟨-, hnone, -, -⟩ := discard_releases hfbody htargets rfl (by rw [hfhold]; rfl) (by rw [hfhold]; rfl) hservice
  obtain ⟨hcounters, -⟩ := discard_counters hfbody htargets rfl (by rw [hending]; simp [OpenRecord.unopened, OpenRecord.take, Session.stopMeter, hk])
    (by rw [hending]; rfl) hfrecord (by rw [hending]; rfl) (by rw [hending]; rfl)
  have hrecordless := discard_record (k := q.session) (e := f) (r := e.freeRecordNo) (by rw [hending]; rfl)
  obtain ⟨hsession, hflags⟩ := unbegun_ends hunbegun (by rw [hending]; rfl) .storeBusy
  have hboxed : (f.session q.session).mailbox = q.mailbox := by
    rw [hending]
    rfl
  have hqueued := discard_queued q.session f
  have hlast := enterEnded_within (f.discard q.session) q.session .storeBusy
  generalize f.discard q.session = d at *
  generalize d.enterEnded q.session .storeBusy = g' at *
  refine ⟨((hall.mono rfl).step hdrop rfl).step hlast rfl, ((hasked.trans hfasked).trans hqueued).trans (.within hlast rfl),
    (Engine.Asked.within hlast rfl).asked_ne hdropped, fun hr => ?_, hflags, ?_, fun n => ?_, ?_⟩
  · rw [hending] at hsession
    exact hsession hr
  · exact (congrArg (fun t => Tab.find? t e.freeBody) (hlast.keeps .bodies rfl)).trans ((hnone e.freeBody).trans (if_pos rfl))
  · refine (congrArg (fun t => Tab.get Counters.zero t n) (hlast.keeps .counters rfl)).trans ((hcounters n).trans ?_)
    rw [hboxed, hfcounter, hcounter, hfhold]
    by_cases hn : n = q.mailbox
    · rw [if_pos hn, if_pos hn]
      rfl
    · rw [if_neg hn, if_neg hn]
  · exact (record_congr (hlast.keeps .records rfl) _).trans hrecordless

/-- A greeting take without an idle buffer is gone as it came, its slot as it was (R24, R27). -/
theorem greeting_busyEnd (hk : q.kind ≠ 0) (hfree : (e.slot q.mailbox q.slotKind).staged = none) {g : Engine}
    (hg : (q.opened now e).startBuffer q.session = g) :
    Engine.Within [.slots, .sessions, .holds, .outbox, .flags, .bodies, .greetings, .writes] e g ∧ e.Asked g ∧ g.asked ≠ [] ∧
      ((q.release.getD false) = false → g.session q.session = (q.unopened (.slot q.slotKind) e).dropped.endedBy .storeBusy) ∧
      g.mgc.flags &&& NoticeKind.sessionEnd.bit = NoticeKind.sessionEnd.bit ∧ g.body e.freeBody = none ∧
      g.slot q.mailbox q.slotKind = e.slot q.mailbox q.slotKind := by
  obtain ⟨htarget, hwork, hbody, hhold, hslot⟩ := opened_greeting now e hk
  obtain ⟨hasked, hne⟩ := opened_queued q now e
  have hself := opened_self q now e
  rw [htarget] at hself
  generalize q.opened now e = o at *
  obtain ⟨hstart, hending⟩ := busy_ends hb hself
  rw [← hg, hstart]
  have hend := ending_within q.session .storeBusy o
  generalize o.ending q.session .storeBusy = f at *
  have hall : Engine.Within [.slots, .sessions, .holds, .bodies, .greetings, .writes] e f := (hwork.mono rfl).step hend rfl
  have hfbody : f.body e.freeBody = some Body.fresh := (congrArg (fun t => Tab.find? t e.freeBody) (hend.keeps .bodies rfl)).trans hbody
  have hfhold : f.hold e.freeBody = BodyHold.zero := (congrArg (fun t => Tab.get BodyHold.zero t e.freeBody) (hend.keeps .holds rfl)).trans hhold
  have hfslot : f.slot q.mailbox q.slotKind = { e.slot q.mailbox q.slotKind with staged := some e.freeBody } :=
    (congrArg (fun t => Tab.get Slot.empty t (slotKey q.mailbox q.slotKind)) (hend.keeps .greetings rfl)).trans ((hslot _ _).trans (if_pos ⟨rfl, rfl⟩))
  have hunbegun : f.unbegun q.session := unbegun_of hu hending (hall.keeps .storeQueues rfl).2 (hall.keeps .link rfl).1
  have hservice : f.ssc.service ≠ .frozen := by
    rw [show f.ssc.service = e.ssc.service from (hall.keeps .service rfl).1]
    exact hf
  have hfasked : o.Asked f := .within hend rfl
  have hboxed : (f.session q.session).mailbox = q.mailbox := by
    rw [hending]
    rfl
  have htarget' : (f.session q.session).target = .slot q.slotKind := by
    rw [hending]
    rfl
  have hkind : (f.session q.session).isMessage = false := by
    rw [hending]
    exact (take_isMessage q e (.slot q.slotKind)).trans (decide_eq_false hk)
  have hstaged : (f.slot (f.session q.session).mailbox q.slotKind).staged = some e.freeBody := by
    rw [hboxed, hfslot]
  obtain ⟨hdrop, hdropped⟩ := discard_greeting_unbegun hunbegun hfbody rfl (by rw [hfhold]; rfl) (by rw [hfhold]; rfl) hservice
    (chain_fresh hfbody) hkind htarget' hstaged
  obtain ⟨-, hnone, -, -⟩ := discard_releases hfbody (.inr ⟨_, htarget', hstaged⟩) rfl (by rw [hfhold]; rfl) (by rw [hfhold]; rfl) hservice
  have hslotless := discard_slot htarget' q.mailbox q.slotKind
  rw [hboxed, if_pos ⟨rfl, rfl⟩, hfslot] at hslotless
  obtain ⟨hsession, hflags⟩ := unbegun_ends hunbegun (by rw [hending]; rfl) .storeBusy
  have hqueued := discard_queued q.session f
  have hlast := enterEnded_within (f.discard q.session) q.session .storeBusy
  generalize f.discard q.session = d at *
  generalize d.enterEnded q.session .storeBusy = g' at *
  refine ⟨((hall.mono rfl).step hdrop rfl).step hlast rfl, ((hasked.trans hfasked).trans hqueued).trans (.within hlast rfl),
    (Engine.Asked.within hlast rfl).asked_ne hdropped, fun hr => ?_, hflags, ?_, ?_⟩
  · rw [hending] at hsession
    exact hsession hr
  · exact (congrArg (fun t => Tab.find? t e.freeBody) (hlast.keeps .bodies rfl)).trans ((hnone e.freeBody).trans (if_pos rfl))
  · refine (congrArg (fun t => Tab.get Slot.empty t (slotKey q.mailbox q.slotKind)) (hlast.keeps .greetings rfl)).trans (hslotless.trans ?_)
    generalize e.slot q.mailbox q.slotKind = v at *
    cases v
    cases hfree
    rfl

end Busy

end Sys2Proof.Machine

namespace Sys2Proof.Machine

/-! Proofs about section 2: OPEN RECORD (R19 to R21). -/

section OpenRecord
variable {s : State} (h : s.accepting) (tag : Byte) {ps : List Byte} (hl : ps.length = 12)
include h hl

theorem openRecord_refused {r : Result} (hr : firstRefusal ((OpenRecord.read ps).checks s) = some r) :
    exec (.openRecord tag ps) s = .next (s.withAnswer tag r []) :=
  congrArg _ (order_answered h (o := .openRecord) rfl tag (congrArg (· + 2) hl) (checked_refused hr))

/-- An OPEN RECORD that is admitted, its answer waiting for its writes. -/
theorem openRecord_admitted (hr : firstRefusal ((OpenRecord.read ps).checks s) = none) {g : Engine}
    (hg : ((OpenRecord.read ps).opened s.now s.taken.eng).startBuffer (num1 ps 0) = g) {qs : List Part} (k : Engine.Within qs s.taken.eng g)
    (hq : partsApart [.dle, .storeQueues, .link, .service, .channel, .pool] qs = true) (ha : s.taken.eng.Asked g) (hw : g.asked ≠ []) (hqw : Part.writes ∈ qs)
    {d : List Byte} (hd : opt2 (if num1 ps 1 = 0 then some s.eng.freeRecordNo else none) ++ be3 s.eng.freeBody = d) :
    exec (.openRecord tag ps) s = .next { s with eng := g.awaited tag d } ∧
      s.keepsBut (.channel :: qs) { s with eng := g.awaited tag d } ∧ (g.awaited tag d).mgc.handling = true ∧
      ∃ ws, (g.awaited tag d).catQueue = s.eng.catQueue ++ [{ writes := ws, after := .answer (answerPacket tag .done d) }] := by
  have hrun : Order.run .openRecord ps s.taken = { result := .done, data := d, state := { s.taken with eng := g }, waits := true } := by
    refine (checked_passes s.taken _ hr).trans ?_
    rw [accept_eq, ← hd, ← hg]
    rfl
  refine ⟨congrArg _ (order_waiting h (o := .openRecord) rfl tag (congrArg (· + 2) hl) hrun k hq hw), ?_, ?_, ?_⟩
  · exact (waited_within k hqw tag d).keepsBut rfl rfl rfl
  · exact (k.same s .channel (not_mem_of_partsApart hq (by simp))).2.2.1
  · exact ⟨g.asked, congrArg (· ++ _) ha.1⟩

end OpenRecord

theorem release_of_fields {ps : List Byte} (h : openRecordFields ps) : (OpenRecord.read ps).release.getD false = decide (num1 ps 11 = 1) := by
  obtain ⟨-, -, h11, -⟩ := h
  show (yesNo ps 11).getD false = _
  rw [yesNo_eq, if_pos h11]
  rfl

theorem urgent_of_fields {ps : List Byte} (h : openRecordFields ps) (hk : num1 ps 1 = 0) : (OpenRecord.read ps).urgent.getD false = decide (num1 ps 5 = 1) := by
  obtain ⟨-, -, -, h5, -⟩ := h
  show (yesNo ps 5).getD false = _
  rw [yesNo_eq, if_pos (h5 hk).1]
  rfl

theorem slotKind_of_code {ps : List Byte} {g : GreetingKind} (h : num1 ps 4 = g.code) : (OpenRecord.read ps).slotKind = g := by
  show (GreetingKind.ofCode (num1 ps 4)).getD .standard = g
  rw [h, greeting_code]
  rfl

/-- Settles O49. -/
theorem openRecordStartsATake : Obligations.OpenRecordStartsATake := by
  unfold Obligations.OpenRecordStartsATake
  intro s tag ps b bf h hl k m c old body r urgent free isMessage fields named limits room bindable enabled message greeting refused outbound opened waiting
    answer busy quit bound
  have hfail : ∀ {r : Result}, firstRefusal ((OpenRecord.read ps).checks s) = some r → refused r := fun hr => openRecord_refused h tag hl hr
  have hlate : enabled → firstRefusal ((OpenRecord.read ps).checks s) = firstRefusal ((OpenRecord.read ps).lateChecks s) := fun he => by
    obtain ⟨⟨hf, hs, hm, hb⟩, hen⟩ := he
    exact checks_late hf hs hm hb hen
  have hroom : room ↔ takeRoom s := Iff.rfl
  have hlimits : limits ↔ messageLimits s m := Iff.rfl
  have hslots : ∀ {g : Engine}, g.slotsIn = ((OpenRecord.read ps).opened s.now s.taken.eng).slotsIn →
      g.slotsOut = ((OpenRecord.read ps).opened s.now s.taken.eng).slotsOut → ∀ {d : List Byte}, bound { s with eng := g.awaited tag d } := by
    intro g hin hout d
    have hslots := opened_slots (OpenRecord.read ps) s.now s.taken.eng
    exact ⟨fun n => (congrArg (fun t => Tab.find? t n) hin).trans (hslots n).1, fun n => (congrArg (fun t => Tab.find? t n) hout).trans (hslots n).2⟩
  have hopened : enabled → ∀ t : Target, opened (((OpenRecord.read ps).take t s.taken.eng).beginning bf) := by
    intro he t
    obtain ⟨⟨hf, -⟩, -⟩ := he
    obtain ⟨b0, b1, hx, hbuf⟩ := take_beginning (q := OpenRecord.read ps) (e := s.taken.eng) (bf := bf) t
    have hrelease := release_of_fields hf
    refine ⟨?_, ?_, ?_, ?_, ?_, ?_, ?_, ?_, ?_, ?_, ?_, ?_, ?_, ?_, hbuf⟩
    case refine_10 =>
      rw [hx]
      exact hrelease
    all_goals
      rw [hx]
      rfl
  have hbusy : ∀ {t : Target} {g : Engine} {d : List Byte}, fields →
      (((OpenRecord.read ps).release.getD false) = false → g.session k = ((OpenRecord.read ps).unopened t s.taken.eng).dropped.endedBy .storeBusy) →
      g.mgc.flags &&& NoticeKind.sessionEnd.bit = NoticeKind.sessionEnd.bit → g.body body = none → (∀ n, g.counter n = s.eng.counter n) →
      busy { s with eng := g.awaited tag d } := by
    intro t g d hf hsession hflags hbody hcounter
    refine ⟨fun hr => ?_, hflags, hbody, hcounter⟩
    have hx : (g.awaited tag d).session k = ((OpenRecord.read ps).unopened t s.taken.eng).dropped.endedBy .storeBusy :=
      hsession ((release_of_fields hf).trans (decide_eq_false (by rw [hr]; exact nofun)))
    refine ⟨?_, ?_, ?_, ?_, ?_, ?_, ?_⟩
    all_goals
      show _ = _
      rw [hx]
      rfl
  have hfrozen : s.taken.eng.ssc.service ≠ .frozen := by
    obtain ⟨-, -, hs, -⟩ := h
    rw [show s.taken.eng.ssc.service = s.eng.ssc.service from rfl, hs]
    exact nofun
  have hmessage : message → bindable → firstRefusal ((OpenRecord.read ps).checks s) = none := fun ⟨he, hk, hli, hro⟩ hbi =>
    (hlate he).trans ((message_pastRoom hk hli hro).trans ((bindChecks s ps).1 hbi))
  have hgreeting : ∀ g, greeting g → bindable → firstRefusal ((OpenRecord.read ps).checks s) = none := fun g ⟨he, hk, hg, hst, hbo⟩ hbi =>
    (hlate he).trans ((greeting_pastBody hk hg hst hbo).trans ((bindChecks s ps).1 hbi))
  refine ⟨fun hf => hfail (checks_fields hf), fun hf hs => hfail (checks_busy hf hs), fun hf hs hm => hfail (checks_range hf hs hm),
    fun hf hs hm hb => hfail (checks_noSuch hf hs hm hb), fun ⟨hf, hs, hm, hb⟩ hen => hfail (checks_disabled hf hs hm hb hen),
    fun he hk hli => hfail ((hlate he).trans (message_full hk hli)), fun he hk hli hro => hfail ((hlate he).trans (message_storeFull hk hli hro)),
    fun he g hk hg => ⟨fun hst => hfail ((hlate he).trans (greeting_busy hk hg hst)), fun hst hbo => hfail ((hlate he).trans (greeting_storeFull hk hg hst hbo))⟩,
    ?_, ?_, ?_, ?_, ?_⟩
  · rintro (⟨he, hk, hli, hro⟩ | ⟨g, he, hk, hg, hst, hbo⟩) hbi
    · exact hfail ((hlate he).trans ((message_pastRoom hk hli hro).trans ((bindChecks s ps).2 hbi)))
    · exact hfail ((hlate he).trans ((greeting_pastBody hk hg hst hbo).trans ((bindChecks s ps).2 hbi)))
  · intro hme hbi hidle
    obtain ⟨he, hk, hli, hro⟩ := id hme
    obtain ⟨g, hg⟩ : ∃ g, ((OpenRecord.read ps).opened s.now s.taken.eng).startBuffer (num1 ps 0) = g := ⟨_, rfl⟩
    obtain ⟨hwork, hasked, hne, hsession, hin, hout, hbody, hhold, ⟨p, n, hrecord⟩, hcounter, hlamps⟩ :=
      message_begins (q := OpenRecord.read ps) (e := s.taken.eng) (bf := bf) hk hidle hli.2 hg
    have hmgc := mgc_within hwork rfl
    obtain ⟨hexec, hkeeps, hhandling, hwait⟩ := openRecord_admitted h tag hl (hmessage hme hbi) hg hwork rfl hasked hne (by simp)
      (d := be2 s.eng.freeRecordNo ++ be3 s.eng.freeBody) (by rw [if_pos hk]; rfl)
    obtain ⟨b0, b1, hx, -⟩ := take_beginning (q := OpenRecord.read ps) (e := s.taken.eng) (bf := bf) (.record s.eng.freeRecordNo)
    have hinputs : ({ g with lmp := s.eng.lmp } : Engine).SameInputs
      { g.awaited tag (be2 s.eng.freeRecordNo ++ be3 s.eng.freeBody) with lmp := s.eng.lmp } := ⟨rfl, rfl, rfl, rfl, rfl⟩
    have hsession' : (g.awaited tag (be2 s.eng.freeRecordNo ++ be3 s.eng.freeBody)).session k =
      ((OpenRecord.read ps).take (.record s.eng.freeRecordNo) s.taken.eng).beginning bf := hsession
    refine ⟨_, hexec, hsession'.symm ▸ hopened he _, ?_, ?_, ?_, hslots hin hout, hbody, hhold, ⟨_, hrecord, rfl, rfl, rfl, urgent_of_fields he.1.1 hk, rfl, rfl, rfl⟩,
      hcounter, hlamps.trans (hinputs.handInputs m).lamps.symm, ⟨hmgc, hhandling, hwait⟩, State.keepsBut_mono hkeeps rfl⟩
    · rw [hsession', hx]
      exact congrArg some (if_pos hk)
    · rw [hsession', hx]
      rfl
    · rw [hsession', hx]
      exact congrArg (fun b => some (c.snapshot b)) (decide_eq_false (not_not.2 hk))
  · intro g hgr hbi hidle
    obtain ⟨he, hk, hcode, hst, hbo⟩ := id hgr
    have hk' : num1 ps 1 ≠ 0 := by
      rw [hk]
      exact nofun
    have hslotKind := slotKind_of_code hcode
    obtain ⟨u, hu⟩ : ∃ u, ((OpenRecord.read ps).opened s.now s.taken.eng).startBuffer (num1 ps 0) = u := ⟨_, rfl⟩
    obtain ⟨hwork, hasked, hne, hsession, hin, hout, hbody, hhold, hslot⟩ :=
      greeting_begins (q := OpenRecord.read ps) (e := s.taken.eng) (bf := bf) hk' hidle hu
    rw [hslotKind] at hsession hslot
    have hmgc := mgc_within hwork rfl
    obtain ⟨hexec, hkeeps, hhandling, hwait⟩ := openRecord_admitted h tag hl (hgreeting g hgr hbi) hu hwork rfl hasked hne (by simp)
      (d := [0xFF, 0xFF] ++ be3 s.eng.freeBody) (by rw [if_neg hk']; rfl)
    obtain ⟨b0, b1, hx, -⟩ := take_beginning (q := OpenRecord.read ps) (e := s.taken.eng) (bf := bf) (.slot g)
    have hsession' : (u.awaited tag ([0xFF, 0xFF] ++ be3 s.eng.freeBody)).session k =
      ((OpenRecord.read ps).take (.slot g) s.taken.eng).beginning bf := hsession
    refine ⟨_, hexec, hsession'.symm ▸ hopened he _, ?_, ?_, ?_, hslots hin hout, hbody, hhold, (hslot m g).trans (if_pos ⟨rfl, rfl⟩),
      fun n j hnj => (hslot n j).trans (if_neg fun hc => hnj.elim (· hc.1) (· hc.2)), ⟨hmgc, hhandling, hwait⟩, State.keepsBut_mono hkeeps rfl⟩
    · rw [hsession', hx]
      exact congrArg some (if_neg hk')
    · rw [hsession', hx]
      rfl
    · rw [hsession', hx]
      exact congrArg (fun b => some (c.snapshot b)) (decide_eq_true hk')
  · intro hme hbi hidle ⟨hfill, hqueue, hflight⟩
    obtain ⟨he, hk, hli, hro⟩ := id hme
    obtain ⟨g, hg⟩ : ∃ g, ((OpenRecord.read ps).opened s.now s.taken.eng).startBuffer (num1 ps 0) = g := ⟨_, rfl⟩
    obtain ⟨hwork, hasked, hne, hsession, hflags, hbody, hcounter, hrecord⟩ :=
      message_busy (q := OpenRecord.read ps) (e := s.taken.eng) hidle ⟨hfill, hqueue, hflight⟩ hfrozen hk hg
    obtain ⟨hexec, hkeeps, hhandling, hwait⟩ := openRecord_admitted h tag hl (hmessage hme hbi) hg hwork rfl hasked hne (by simp)
      (d := be2 s.eng.freeRecordNo ++ be3 s.eng.freeBody) (by rw [if_pos hk]; rfl)
    exact ⟨_, hexec, hbusy he.1.1 hsession hflags hbody hcounter, hrecord, ⟨hhandling, hwait⟩, State.keepsBut_mono hkeeps rfl⟩
  · intro g hgr hbi hidle ⟨hfill, hqueue, hflight⟩
    obtain ⟨he, hk, hcode, hst, hbo⟩ := id hgr
    have hk' : num1 ps 1 ≠ 0 := by
      rw [hk]
      exact nofun
    have hslotKind := slotKind_of_code hcode
    obtain ⟨u, hu⟩ : ∃ u, ((OpenRecord.read ps).opened s.now s.taken.eng).startBuffer (num1 ps 0) = u := ⟨_, rfl⟩
    obtain ⟨hwork, hasked, hne, hsession, hflags, hbody, hslot⟩ :=
      greeting_busyEnd (q := OpenRecord.read ps) (e := s.taken.eng) hidle ⟨hfill, hqueue, hflight⟩ hfrozen hk' (by rw [hslotKind]; exact hst) hu
    rw [hslotKind] at hslot
    obtain ⟨hexec, hkeeps, hhandling, hwait⟩ := openRecord_admitted h tag hl (hgreeting g hgr hbi) hu hwork rfl hasked hne (by simp)
      (d := [0xFF, 0xFF] ++ be3 s.eng.freeBody) (by rw [if_neg hk']; rfl)
    exact ⟨_, hexec, hbusy he.1.1 hsession hflags hbody (fun n => congrArg (fun t => Tab.get Counters.zero t n) (hwork.keeps .counters rfl)), hslot,
      ⟨hhandling, hwait⟩, State.keepsBut_mono hkeeps rfl⟩

end Sys2Proof.Machine

namespace Sys2Proof.Machine

/-! Proofs about section 2: a take trimmed (R62 to R65). -/

/-! ## The chain cut (R64, R103) -/

/-- The segments of a chain that a cut takes out. -/
def cutAway (first last : Nat) (chain : List Nat) : List Nat := chain.take first ++ chain.drop (last + 1)

/-- The segments of a chain that a cut keeps. -/
def cutKept (first last : Nat) (chain : List Nat) : List Nat := (chain.drop first).take (last + 1 - first)

/-- A body whose chain has been cut. -/
def Body.cutTo (first last : Nat) (chain : List Nat) (w : Body) : Body :=
  if cutAway first last chain = [] then w
  else { w with first := (cutKept first last chain).head?, last := (cutKept first last chain).getLast?, count := (cutKept first last chain).length }

/-- The write that ends a kept chain where a tail is cut off it. -/
def Engine.cutEnds (first last : Nat) (chain : List Nat) (e : Engine) : List CatWrite :=
  match (cutKept first last chain).getLast? with
  | some l => if chain.drop (last + 1) = [] then [] else [CatWrite.segment l { e.segment l with next := none }]
  | none => []

section CutChain
variable {e : Engine} {b first last : Nat} {w : Body} (hb : e.body b = some w) (hle : first ≤ last + 1)
include hb hle

theorem cutChain_whole (h : cutAway first last (e.chain b) = []) : e.cutChain b first last = e := by
  obtain ⟨hhead, htail⟩ := List.append_eq_nil_iff.1 h
  unfold Engine.cutChain
  rw [hb]
  dsimp only
  rw [Nat.max_eq_right hle, hhead, htail]
  rfl

/-- The engine before the writes of a cut become a sequence. -/
def Engine.cutting (b first last : Nat) (w : Body) (e : Engine) : Engine :=
  (match (cutKept first last (e.chain b)).getLast? with
    | some l => if (e.chain b).drop (last + 1) = [] then e else e.put (.segment l { e.segment l with next := none })
    | none => e).put (.body b (some (w.cutTo first last (e.chain b))))

theorem cutChain_parts (h : cutAway first last (e.chain b) ≠ []) :
    e.cutChain b first last = (e.cutting b first last w).flush (.cut (cutAway first last (e.chain b))) := by
  have hne : ¬ (decide ((e.chain b).take first = []) && decide ((e.chain b).drop (last + 1) = [])) = true := by
    rw [Bool.and_eq_true, decide_eq_true_iff, decide_eq_true_iff]
    exact fun hc => h (List.append_eq_nil_iff.2 hc)
  unfold Engine.cutChain
  rw [hb]
  dsimp only
  rw [Nat.max_eq_right hle, if_neg hne]
  unfold Engine.cutting Body.cutTo
  rw [if_neg h]
  rfl

end CutChain

section Cutting
variable (e : Engine) (b first last : Nat) (w : Body)

theorem cutting_asked : (e.cutting b first last w).asked = e.asked ++ (e.cutEnds first last (e.chain b) ++ [.body b (some (w.cutTo first last (e.chain b)))]) ∧
    (e.cutting b first last w).catQueue = e.catQueue := by
  unfold Engine.cutting Engine.cutEnds
  split
  · split
    · exact ⟨rfl, rfl⟩
    · exact ⟨List.append_assoc _ _ _, rfl⟩
  · exact ⟨rfl, rfl⟩

theorem cutting_body (c : Nat) : (e.cutting b first last w).body c = if c = b then some (w.cutTo first last (e.chain b)) else e.body c := by
  unfold Engine.cutting
  refine (body_putBody _ b _ c).trans ?_
  split
  · rfl
  · split
    · split
      · rfl
      · rfl
    · rfl

end Cutting

/-- A cut of a take's chain: its body, and the sequence that ends with the handing of what it takes out. -/
theorem cutChain_spec {e : Engine} {b first last : Nat} {w : Body} (hb : e.body b = some w) (hle : first ≤ last + 1) (ha : e.asked = []) :
    (∀ c, (e.cutChain b first last).body c = if c = b then some (w.cutTo first last (e.chain b)) else e.body c) ∧
      (e.cutChain b first last).asked = [] ∧
      (cutAway first last (e.chain b) = [] → (e.cutChain b first last).catQueue = e.catQueue) ∧
      (cutAway first last (e.chain b) ≠ [] → e.halted = false → (e.cutChain b first last).catQueue = e.catQueue ++
        [{ writes := e.cutEnds first last (e.chain b) ++ [.body b (some (w.cutTo first last (e.chain b)))], after := .cut (cutAway first last (e.chain b)) }]) := by
  by_cases h : cutAway first last (e.chain b) = []
  · rw [cutChain_whole hb hle h]
    refine ⟨fun c => ?_, ha, fun _ => rfl, fun hc => absurd h hc⟩
    split
    · next hc => rw [hc, hb, Body.cutTo, if_pos h]
    · rfl
  · rw [cutChain_parts hb hle h]
    obtain ⟨hasked, hqueue⟩ := cutting_asked e b first last w
    have hbody := cutting_body e b first last w
    have hhalt : (e.cutting b first last w).halted = e.halted := by
      unfold Engine.cutting
      split
      · split
        · rfl
        · rfl
      · rfl
    rw [ha, List.nil_append] at hasked
    generalize e.cutting b first last w = g at *
    have hne : g.asked ≠ [] := by
      rw [hasked]
      exact List.append_ne_nil_of_right_ne_nil _ (List.cons_ne_nil _ _)
    refine ⟨fun c => ?_, flush_asked _ _, fun hc => absurd hc h, fun _ hlive => ?_⟩
    · exact (congrArg (fun t : Catalogue => Tab.find? t.bodies c) (flush_tab g _)).trans (hbody c)
    · unfold Engine.flush
      rw [if_neg hne, hhalt, hlive, Bool.false_and, if_neg Bool.false_ne_true, hqueue, hasked]

/-! ## The filling buffer handed (R23, R64) -/

/-- The request for the program of a session's filling buffer. -/
def Session.fillingRequest (k : Nat) (x : Session) : List ProgReq := match x.bufWith .filling with
  | some f => [{ session := k, buf := f, body := x.bodyNo, takeSegment := (x.buf f).holds }]
  | none => []

/-- A buffer that waits for its program. -/
def Buffer.handed (v : Buffer) : Buffer := { v with role := .queued }

section HandBuffer
variable (k : Nat) (e : Engine)

theorem handBuffer_session (j : Nat) : (e.handBuffer k).session j = if j = k then (e.session k).changeFilling Buffer.handed else e.session j := by
  unfold Engine.handBuffer Session.changeFilling
  dsimp only
  cases (e.session k).bufWith .filling with
  | none =>
    dsimp only
    split
    · next h => rw [h]
    · rfl
  | some b => exact session_modBuf e k b Buffer.handed j

theorem handBuffer_ssc : (e.handBuffer k).ssc = { e.ssc with progQueue := e.ssc.progQueue ++ (e.session k).fillingRequest k } := by
  unfold Engine.handBuffer Session.fillingRequest
  dsimp only
  split
  · next h =>
    rw [h]
    simp
  · next b h =>
    rw [h]
    rfl

end HandBuffer

end Sys2Proof.Machine

namespace Sys2Proof.Machine

/-! Proofs about section 2: a trim applied to a take (R63 to R65). -/

/-- The requests outside a trim. -/
def Trim.outside (t : Trim) (r : ProgReq) : Bool := !t.keeps r.takeSegment

/-- How many filling buffers lie outside a trim: none, or the one. -/
def Session.fillingGone (t : Trim) (x : Session) : Nat := match x.bufWith .filling with
  | none => 0
  | some b => if t.keeps (x.buf b).holds then 0 else 1

/-- The begun segments outside a trim (R65). -/
def Engine.goneOutside (k : Nat) (t : Trim) (e : Engine) : Nat :=
  let len := ((e.body (e.session k).bodyNo).map (·.count)).getD 0
  len - (min len (t.last + 1) - min len t.first) + e.waitingPrograms k t.outside + (if e.programInFlight k t.outside then 1 else 0) +
    (e.session k).fillingGone t

/-- The engine of a take cut to a trim, its requests outside it gone. -/
def Engine.trimCut (k : Nat) (t : Trim) (e : Engine) : Engine :=
  ((e.cutChain (e.session k).bodyNo t.first t.last).unwant k t.outside).withdrawPrograms k t.outside

/-- The engine of a take cut to a trim, its filling buffer gone for program or let go. -/
def Engine.trimLeft (k : Nat) (t : Trim) (e : Engine) : Engine :=
  if (e.session k).fillingGone t = 1 then (e.trimCut k t).idleFilling k else (e.trimCut k t).handBuffer k

theorem applyTrim_eq (k : Nat) (t : Trim) (e : Engine) : e.applyTrim k t =
    (((e.trimLeft k t).refund k (min (e.hold (e.session k).bodyNo).begun (e.goneOutside k t))).handTake k).modSession k (fun x => { x with trim := some t }) :=
  rfl

/-- What the trim does to the filling buffer. -/
def Session.fillingLeft (t : Trim) (x : Session) : Buffer → Buffer := if x.fillingGone t = 1 then Buffer.idled else Buffer.handed

section TrimCut
variable (k : Nat) (t : Trim) (e : Engine)

theorem trimCut_within : Engine.Within [.sessions, .storeQueues, .link, .segments, .bodies, .writes] e (e.trimCut k t) :=
  (((cutChain_within e _ _ _).mono (qs := [.sessions, .storeQueues, .link, .segments, .bodies, .writes]) rfl).step (unwant_within _ k _) rfl).step
    (withdrawPrograms_within _ k _) rfl

theorem trimCut_ssc : (e.trimCut k t).ssc = { e.ssc with
    progQueue := e.ssc.progQueue.filter (fun r => !(decide (r.session = k) && t.outside r)), link := e.ssc.link.unwanted k t.outside } := by
  have hcut : (e.cutChain (e.session k).bodyNo t.first t.last).ssc = e.ssc := ssc_of_within (cutChain_within e _ _ _) rfl
  unfold Engine.trimCut
  rw [withdrawPrograms_ssc, unwant_eq]
  generalize e.cutChain (e.session k).bodyNo t.first t.last = c at hcut
  show ({ c.ssc with progQueue := c.ssc.progQueue.filter _, link := c.ssc.link.unwanted k t.outside } : Ssc) = _
  rw [hcut]

theorem cutChain_session (b first last j : Nat) : (e.cutChain b first last).session j = e.session j :=
  congrArg (fun t => Tab.get Session.reset t j) ((cutChain_within e b first last).keeps .sessions rfl)

theorem trimCut_rebuffers : e.Rebuffers k (e.trimCut k t) := by
  have hcut : e.Rebuffers k ((e.cutChain (e.session k).bodyNo t.first t.last).unwant k t.outside) := by
    refine ⟨?_, fun j _ => cutChain_session e _ _ _ j⟩
    show (e.session k).OnlyBufs ((e.cutChain (e.session k).bodyNo t.first t.last).session k)
    rw [cutChain_session]
    exact .refl _
  exact hcut.trans (withdrawPrograms_rebuffers k t.outside _)

theorem trimCut_buf (b : Nat) : ((e.trimCut k t).session k).buf b =
    if ∃ r ∈ e.ssc.progQueue, r.session = k ∧ t.outside r = true ∧ (r.buf = 0 ↔ b = 0) then ((e.session k).buf b).idled else (e.session k).buf b := by
  have hcut : (e.cutChain (e.session k).bodyNo t.first t.last).ssc = e.ssc := ssc_of_within (cutChain_within e _ _ _) rfl
  have hqueue : ((e.cutChain (e.session k).bodyNo t.first t.last).unwant k t.outside).ssc.progQueue = e.ssc.progQueue := by
    show (e.cutChain (e.session k).bodyNo t.first t.last).ssc.progQueue = e.ssc.progQueue
    rw [hcut]
  have hsession : ((e.cutChain (e.session k).bodyNo t.first t.last).unwant k t.outside).session k = e.session k := cutChain_session e _ _ _ k
  unfold Engine.trimCut
  rw [withdrawPrograms_buf, hqueue, hsession]

theorem trimLeft_within : Engine.Within [.sessions, .storeQueues, .link, .segments, .bodies, .writes] e (e.trimLeft k t) := by
  unfold Engine.trimLeft
  split
  · exact (trimCut_within k t e).step (idleFilling_within _ k) rfl
  · exact (trimCut_within k t e).step (handBuffer_within _ k) rfl

theorem trimLeft_session (j : Nat) : (e.trimLeft k t).session j =
    if j = k then ((e.trimCut k t).session k).changeFilling ((e.session k).fillingLeft t) else e.session j := by
  have hothers : j ≠ k → (e.trimCut k t).session j = e.session j := (trimCut_rebuffers k t e).2 j
  unfold Engine.trimLeft Session.fillingLeft
  split
  · rw [session_idleFilling]
    split
    · rfl
    · next hj => exact hothers hj
  · rw [handBuffer_session]
    split
    · rfl
    · next hj => exact hothers hj

theorem trimLeft_onlyBufs : (e.session k).OnlyBufs ((e.trimLeft k t).session k) := by
  rw [trimLeft_session, if_pos rfl]
  exact (trimCut_rebuffers k t e).1.trans (changeFilling_onlyBufs _ _)

theorem fillingGone_eq {t : Trim} {x : Session} {b : Nat} (h : x.bufWith .filling = some b) :
    x.fillingGone t = if t.keeps (x.buf b).holds then 0 else 1 := by
  unfold Session.fillingGone
  rw [h]

theorem fillingLeft_spec {t : Trim} {x : Session} {b : Nat} (h : x.bufWith .filling = some b) :
    ((!t.keeps (x.buf b).holds) = true → x.fillingLeft t = Buffer.idled) ∧
      ((!t.keeps (x.buf b).holds) = false → ∀ v, x.fillingLeft t v = { v with role := .queued }) := by
  have hgone := fillingGone_eq (t := t) h
  refine ⟨fun hk => ?_, fun hk v => ?_⟩
  · have hout : t.keeps (x.buf b).holds = false := by simpa using hk
    exact if_pos (by rw [hgone, hout]; rfl)
  · have hin : t.keeps (x.buf b).holds = true := by simpa using hk
    have hkept : x.fillingLeft t = Buffer.handed := if_neg (by rw [hgone, hin]; exact nofun)
    rw [hkept]
    rfl

theorem trimLeft_leaves : e.leavesBuffers k (fun j => !t.keeps j) ((e.trimLeft k t).session k) := by
  refine leavesBuffers_of (f := (e.session k).fillingLeft t) (y := (e.trimCut k t).session k) (fun _ => Iff.rfl) (trimCut_buf k t e)
    (fun b hb => fillingLeft_spec hb) (fun b _ => ?_)
  rw [trimLeft_session, if_pos rfl]

/-- The requests that the trim leaves, the filling buffer's behind those that wait (R64). -/
theorem trimLeft_ssc : (e.trimLeft k t).ssc = { e.ssc with
    progQueue := e.ssc.progQueue.filter (fun r => !(decide (r.session = k) && t.outside r)) ++
      (if (e.session k).fillingGone t = 1 then [] else ((e.trimCut k t).session k).fillingRequest k),
    link := e.ssc.link.unwanted k t.outside } := by
  unfold Engine.trimLeft
  split
  · rw [List.append_nil, ← trimCut_ssc]
    rfl
  · rw [handBuffer_ssc, trimCut_ssc]

variable {k t e}

/-- The request of a filling buffer that no waiting request names. -/
theorem fillingRequest_trimCut (h : ∀ f, (e.session k).bufWith .filling = some f → ∀ r ∈ e.ssc.progQueue, r.session = k → ¬ (r.buf = 0 ↔ f = 0)) :
    (if (e.session k).fillingGone t = 1 then [] else ((e.trimCut k t).session k).fillingRequest k) =
      ((e.session k).fillingRequest k).filter (fun r => t.keeps r.takeSegment) := by
  have hbuf := trimCut_buf k t e
  cases hf : (e.session k).bufWith .filling with
  | none =>
    have hnone : ((e.trimCut k t).session k).bufWith .filling = none := by
      refine Option.eq_none_iff_forall_ne_some.2 fun b hb => ?_
      obtain ⟨hrole, hfirst⟩ := (bufWith_eq_some (bufWith_le hb)).1 hb
      have hold : ((e.session k).buf b).role = .filling := by
        rw [hbuf] at hrole
        split at hrole
        · cases hrole
        · exact hrole
      have hb1 := bufWith_le hb
      unfold Session.bufWith at hf
      unfold Session.buf at hold
      interval_cases b
      · rw [if_pos (show (e.session k).buf0.role = .filling from hold)] at hf
        cases hf
      · rw [if_pos (show (e.session k).buf1.role = .filling from hold)] at hf
        split at hf <;> cases hf
    unfold Session.fillingRequest
    rw [hnone, hf]
    simp
  | some f =>
    have hw : ¬ ∃ r ∈ e.ssc.progQueue, r.session = k ∧ t.outside r = true ∧ (r.buf = 0 ↔ f = 0) := fun ⟨r, hr, hs, _, hb⟩ => h f hf r hr hs hb
    have hsome : ((e.trimCut k t).session k).bufWith .filling = some f := bufWith_withdrawn hbuf (bufWith_le hf) hw hf
    have hsame : ((e.trimCut k t).session k).buf f = (e.session k).buf f := by rw [hbuf, if_neg hw]
    have hbody : ((e.trimCut k t).session k).bodyNo = (e.session k).bodyNo := by
      obtain ⟨b0, b1, hx⟩ := (trimCut_rebuffers k t e).1
      rw [hx]
      rfl
    rw [fillingGone_eq hf]
    unfold Session.fillingRequest
    rw [hsome, hf]
    dsimp only
    rw [hsame, hbody]
    by_cases hk : t.keeps ((e.session k).buf f).holds = true
    · simp [hk]
    · simp [hk]

/-- Where the filling buffer lies outside the trim, nothing of it goes for program. -/
theorem trimLeft_waiting (h : ∀ f, (e.session k).bufWith .filling = some f → t.keeps ((e.session k).buf f).holds = false) :
    (e.trimLeft k t).ssc.progQueue = e.ssc.progQueue.filter (fun r => !(decide (r.session = k) && t.outside r)) := by
  rw [trimLeft_ssc]
  dsimp only
  cases hf : (e.session k).bufWith .filling with
  | none =>
    rw [fillingRequest_trimCut (fun f hc => nomatch hf.symm.trans hc), Session.fillingRequest, hf]
    simp
  | some f =>
    have hgone : (e.session k).fillingGone t = 1 := by
      rw [fillingGone_eq hf, h f hf, if_neg Bool.false_ne_true]
    rw [if_pos hgone, List.append_nil]

end TrimCut

/-! ## The trim applied -/

section ApplyTrim
variable (k : Nat) (t : Trim) (e : Engine)

/-- The parts that a trim changes. -/
def trimParts : List Part := [.sessions, .storeQueues, .link, .holds, .counters, .lmp, .segments, .bodies, .writes]

theorem trimmed_late : Engine.Within [.sessions, .holds, .counters, .lmp] (e.trimLeft k t) (e.applyTrim k t) :=
  (((refund_within (e.trimLeft k t) k _).mono (qs := [.sessions, .holds, .counters, .lmp]) rfl).step (handTake_within _ k) rfl).step (modSession_within _ k _) rfl

theorem applyTrim_within : Engine.Within trimParts e (e.applyTrim k t) :=
  ((trimLeft_within k t e).mono (qs := trimParts) rfl).step (trimmed_late k t e) rfl

theorem applyTrim_session (j : Nat) : (e.applyTrim k t).session j =
    if j = k then { (e.trimLeft k t).session k with trim := some t } else e.session j := by
  have hsame : ∀ n, (((e.trimLeft k t).refund k (min (e.hold (e.session k).bodyNo).begun (e.goneOutside k t))).handTake k).session n = (e.trimLeft k t).session n :=
    fun n => congrArg (fun t => Tab.get Session.reset t n) (((handTake_within _ k).keeps .sessions rfl).trans ((refund_within (e.trimLeft k t) k _).keeps .sessions rfl))
  rw [applyTrim_eq, session_modSession, hsame, hsame]
  split
  · rfl
  · next hj => rw [trimLeft_session, if_neg hj]

theorem applyTrim_ssc : (e.applyTrim k t).ssc = (e.trimLeft k t).ssc := ssc_of_within (trimmed_late k t e) rfl

theorem applyTrim_hold (a : Nat) : (e.applyTrim k t).hold a =
    if a = (e.session k).bodyNo then { e.hold a with begun := (e.hold a).begun - e.goneOutside k t } else e.hold a := by
  have hbody : ((e.trimLeft k t).session k).bodyNo = (e.session k).bodyNo := by
    obtain ⟨b0, b1, hx⟩ := trimLeft_onlyBufs k t e
    rw [hx]
    rfl
  have hold : (e.trimLeft k t).hold a = e.hold a := congrArg (fun t => Tab.get BodyHold.zero t a) ((trimLeft_within k t e).keeps .holds rfl)
  have hsame : (e.applyTrim k t).hold a = ((e.trimLeft k t).refund k (min (e.hold (e.session k).bodyNo).begun (e.goneOutside k t))).hold a :=
    congrArg (fun t => Tab.get BodyHold.zero t a) ((handTake_within _ k).keeps .holds rfl)
  rw [hsame, hold_refund, hbody, hold]
  by_cases ha : a = (e.session k).bodyNo
  · have hless : ∀ m n : Nat, m - min m n = m - n := fun m n => by omega
    rw [if_pos ha, if_pos ha, ← ha, hless]
  · rw [if_neg ha, if_neg ha]

theorem trimLeft_kept {α : Type} (f : Session → α) (hf : ∀ (x : Session) (b0 b1 : Buffer), f { x with buf0 := b0, buf1 := b1 } = f x) :
    f ((e.trimLeft k t).session k) = f (e.session k) := by
  obtain ⟨b0, b1, h⟩ := trimLeft_onlyBufs k t e
  rw [h, hf]

theorem applyTrim_counter (n : Nat) : (e.applyTrim k t).counter n = if (e.session k).isMessage = true ∧ n = (e.session k).mailbox then
    { e.counter n with charged := (e.counter n).charged - min (e.hold (e.session k).bodyNo).begun (e.goneOutside k t) } else e.counter n := by
  have hkind : ((e.trimLeft k t).session k).isMessage = (e.session k).isMessage := trimLeft_kept k t e Session.isMessage fun _ _ _ => rfl
  have hbox : ((e.trimLeft k t).session k).mailbox = (e.session k).mailbox := trimLeft_kept k t e Session.mailbox fun _ _ _ => rfl
  have hold : (e.trimLeft k t).counter n = e.counter n := congrArg (fun t => Tab.get Counters.zero t n) ((trimLeft_within k t e).keeps .counters rfl)
  have hsame : (e.applyTrim k t).counter n = ((e.trimLeft k t).refund k (min (e.hold (e.session k).bodyNo).begun (e.goneOutside k t))).counter n :=
    congrArg (fun t => Tab.get Counters.zero t n) ((handTake_within _ k).keeps .counters rfl)
  rw [hsame, counter_refund, hkind, hbox, hold]

/-- The lamp inputs that a trim hands (R127). -/
theorem applyTrim_lamps (hm : (e.session k).isMessage = true) :
    (e.applyTrim k t).lmp = (({ e.applyTrim k t with lmp := e.lmp } : Engine).handInputs (e.session k).mailbox).lmp := by
  have hkind : ((e.trimLeft k t).session k).isMessage = true := (trimLeft_kept k t e Session.isMessage fun _ _ _ => rfl).trans hm
  have hbox : ((e.trimLeft k t).session k).mailbox = (e.session k).mailbox := trimLeft_kept k t e Session.mailbox fun _ _ _ => rfl
  have hrefund := refund_within (e.trimLeft k t) k (min (e.hold (e.session k).bodyNo).begun (e.goneOutside k t))
  have hlmp : ((e.trimLeft k t).refund k (min (e.hold (e.session k).bodyNo).begun (e.goneOutside k t))).lmp = e.lmp :=
    (hrefund.keeps .lmp rfl).trans ((trimLeft_within k t e).keeps .lmp rfl)
  have hses : ((e.trimLeft k t).refund k (min (e.hold (e.session k).bodyNo).begun (e.goneOutside k t))).session k = (e.trimLeft k t).session k :=
    congrArg (fun t => Tab.get Session.reset t k) (hrefund.keeps .sessions rfl)
  have htake : ((e.trimLeft k t).refund k (min (e.hold (e.session k).bodyNo).begun (e.goneOutside k t))).handTake k =
      ((e.trimLeft k t).refund k (min (e.hold (e.session k).bodyNo).begun (e.goneOutside k t))).handAll [(e.session k).mailbox] := by
    unfold Engine.handTake
    rw [hses, hkind, if_pos rfl, hbox]
    rfl
  refine handsInputs_of (s := { State.reset with eng := e }) (t := { State.reset with eng := e.applyTrim k t })
    (boxes := [(e.session k).mailbox]) hlmp ?_
  rw [applyTrim_eq, htake]
  exact ⟨rfl, rfl, rfl, rfl, rfl⟩

end ApplyTrim

end Sys2Proof.Machine

namespace Sys2Proof.Machine

/-! Proofs about section 2: what a trim cuts off, and a take sealed (R29, R64, R104). -/

/-! ## What the trim leaves of the body -/

section Cut
variable {k : Nat} {t : Trim} {e : Engine} {w : Body} (hb : e.body (e.session k).bodyNo = some w)

theorem applyTrim_afterCut (k : Nat) (t : Trim) (e : Engine) :
    Engine.Within [.sessions, .storeQueues, .link, .holds, .counters, .lmp] (e.cutChain (e.session k).bodyNo t.first t.last) (e.applyTrim k t) := by
  have hcut : Engine.Within [.sessions, .storeQueues, .link, .holds, .counters, .lmp] (e.cutChain (e.session k).bodyNo t.first t.last) (e.trimCut k t) :=
    ((unwant_within _ k _).mono rfl).step (withdrawPrograms_within _ k _) rfl
  have hleft : Engine.Within [.sessions, .storeQueues, .link, .holds, .counters, .lmp] (e.trimCut k t) (e.trimLeft k t) := by
    unfold Engine.trimLeft
    split
    · exact (idleFilling_within _ k).mono rfl
    · exact (handBuffer_within _ k).mono rfl
  exact (hcut.trans hleft).step (trimmed_late k t e) rfl

include hb

theorem applyTrim_body (hle : t.first ≤ t.last + 1) (ha : e.asked = []) (c : Nat) : (e.applyTrim k t).body c =
    if c = (e.session k).bodyNo then some (w.cutTo t.first t.last (e.chain (e.session k).bodyNo)) else e.body c :=
  (congrArg (fun t => Tab.find? t c) ((applyTrim_afterCut k t e).keeps .bodies rfl)).trans ((cutChain_spec hb hle ha).1 c)

theorem applyTrim_writes (hle : t.first ≤ t.last + 1) (ha : e.asked = []) : (e.applyTrim k t).asked = [] ∧
    (cutAway t.first t.last (e.chain (e.session k).bodyNo) ≠ [] → e.halted = false → (e.applyTrim k t).catQueue = e.catQueue ++
      [{ writes := e.cutEnds t.first t.last (e.chain (e.session k).bodyNo) ++
          [.body (e.session k).bodyNo (some (w.cutTo t.first t.last (e.chain (e.session k).bodyNo)))],
         after := .cut (cutAway t.first t.last (e.chain (e.session k).bodyNo)) }]) := by
  obtain ⟨-, hasked, -, hcut⟩ := cutChain_spec hb hle ha
  obtain ⟨hqueue, hsame⟩ := (applyTrim_afterCut k t e).keeps .writes rfl
  exact ⟨Eq.trans hsame hasked, fun hne hlive => Eq.trans hqueue (hcut hne hlive)⟩

/-- The begun segments outside a trim, of a chain that its body counts. -/
theorem goneOutside_eq (hc : w.count = (e.chain (e.session k).bodyNo).length) (hle : t.first ≤ t.last + 1) :
    e.goneOutside k t = (cutAway t.first t.last (e.chain (e.session k).bodyNo)).length + e.waitingPrograms k t.outside +
      (if e.programInFlight k t.outside = true then 1 else 0) + (((e.session k).fillingRequest k).filter t.outside).length := by
  have hchain : (cutAway t.first t.last (e.chain (e.session k).bodyNo)).length = w.count - (min w.count (t.last + 1) - min w.count t.first) := by
    rw [cutAway, List.length_append, List.length_take, List.length_drop, ← hc]
    omega
  have hfill : (((e.session k).fillingRequest k).filter t.outside).length = (e.session k).fillingGone t := by
    cases hf : (e.session k).bufWith .filling with
    | none =>
      unfold Session.fillingRequest Session.fillingGone
      rw [hf]
      rfl
    | some f =>
      rw [fillingGone_eq hf]
      unfold Session.fillingRequest
      rw [hf]
      dsimp only
      by_cases hk : t.keeps ((e.session k).buf f).holds = true
      · simp [Trim.outside, hk]
      · simp [Trim.outside, hk]
  unfold Engine.goneOutside
  dsimp only
  rw [hb, hchain, hfill]
  rfl

end Cut

/-! ## A body that another one's release leaves -/

theorem dropShare_body_ne {b c : Nat} (h : c ≠ b) (e : Engine) : (e.dropShare b).body c = e.body c := by
  have hshare : (e.modShare b (· - 1)).body c = e.body c := (body_modShare b (· - 1) e c).trans (if_neg h)
  show ((e.modShare b (· - 1)).releaseIfUnheld b).body c = e.body c
  unfold Engine.releaseIfUnheld
  split
  · exact hshare
  · split
    · exact ((release_others _ b).1 c).trans ((if_neg h).trans hshare)
    · exact hshare

/-! ## A take sealed (R29, R104, R130, R144) -/

/-- The body of a take sealed, and its target given it. -/
def Session.seals (x : Session) (t : Trim) (e : Engine) : Engine :=
  match x.target with
  | .none => e.sealBody x.bodyNo t.offset t.count
  | .record r => (e.sealBody x.bodyNo t.offset t.count).recordSealed r false
  | .slot g => (e.sealBody x.bodyNo t.offset t.count).replaceGreeting x.mailbox g

theorem checkDrained_sealed {k : Nat} {e : Engine} {t : Trim} (ht : (e.session k).trim = some t) (hs : (e.session k).state = .draining)
    (hp : t.last < (e.session k).programmed) : e.checkDrained k = ((e.session k).seals t e).enterEnded k ((e.session k).endCause.getD .stopped) := by
  unfold Engine.checkDrained Session.seals
  dsimp only
  rw [ht]
  dsimp only
  rw [hs]
  exact if_pos (by simp [hp])

theorem checkDrained_waits {k : Nat} {e : Engine} {t : Trim} (ht : (e.session k).trim = some t) (hp : (e.session k).programmed ≤ t.last) :
    e.checkDrained k = e := by
  unfold Engine.checkDrained
  dsimp only
  rw [ht]
  dsimp only
  exact if_neg (by simp [Nat.not_lt.2 hp])

/-- The parts that a sealing changes. -/
def sealParts : List Part := [.segments, .writes, .pool, .outbox, .flags, .bodies, .holds, .greetings, .records, .counters, .lmp]

section Seals
variable (x : Session) (t : Trim) (e : Engine)

theorem seals_within : Engine.Within sealParts e (x.seals t e) := by
  have hbody := sealBody_within e x.bodyNo t.offset t.count
  unfold Session.seals
  split
  · exact hbody.mono rfl
  · exact (hbody.mono (qs := sealParts) rfl).step (recordSealed_within _ _ _) rfl
  · exact (hbody.mono (qs := sealParts) rfl).step (replaceGreeting_within _ _ _) rfl

theorem replaceGreeting_lows (m : Nat) (g : GreetingKind) : e.Lows (e.replaceGreeting m g) := by
  have hput : e.Lows (e.putSlot m g { held := (e.slot m g).staged, staged := none }) := .quiet (putSlot_within e m g _) rfl
  unfold Engine.replaceGreeting
  dsimp only
  split
  · exact hput
  · exact hput.trans (dropShare_lows _ _)

theorem seals_lows : e.Lows (x.seals t e) := by
  have hbody : e.Lows (e.sealBody x.bodyNo t.offset t.count) := .quiet (sealBody_within e _ _ _) rfl
  unfold Session.seals
  split
  · exact hbody
  · exact hbody.trans (.quiet (recordSealed_within _ _ _) rfl)
  · exact hbody.trans (replaceGreeting_lows _ _ _)

theorem replaceGreeting_slot (m : Nat) (g : GreetingKind) (n : Nat) (h : GreetingKind) :
    (e.replaceGreeting m g).slot n h = if n = m ∧ h = g then { held := (e.slot m g).staged, staged := none } else e.slot n h := by
  have hput := slot_putSlot e m g { held := (e.slot m g).staged, staged := none } n h
  unfold Engine.replaceGreeting
  dsimp only
  split
  · exact hput
  · next b _ =>
    have hsame := (dropShare_within (e.putSlot m g { held := (e.slot m g).staged, staged := none }) b).keeps .greetings rfl
    exact (congrArg (fun t => Tab.get Slot.empty t (slotKey n h)) hsame).trans hput

theorem replaceGreeting_hold (m : Nat) (g : GreetingKind) (a : Nat) :
    (e.replaceGreeting m g).hold a = e.hold a ∨ (e.replaceGreeting m g).hold a = BodyHold.zero := by
  unfold Engine.replaceGreeting
  dsimp only
  split
  · exact .inl rfl
  · exact dropShare_hold _ (e.putSlot m g { held := (e.slot m g).staged, staged := none }) a

theorem replaceGreeting_body {m : Nat} {g : GreetingKind} {b : Nat} (h : (e.slot m g).held ≠ some b) : (e.replaceGreeting m g).body b = e.body b := by
  unfold Engine.replaceGreeting
  dsimp only
  split
  · rfl
  · next c hc => exact dropShare_body_ne (fun hbc => h (hc.trans (congrArg some hbc.symm))) _

variable {x t e} {w : Body} (hb : e.body x.bodyNo = some w)
include hb

theorem sealBody_taken : (∀ c, (e.sealBody x.bodyNo t.offset t.count).body c =
      if c = x.bodyNo then some { w with sealed := true, offset := some t.offset, samples := some t.count } else e.body c) ∧
    (∀ a, (e.sealBody x.bodyNo t.offset t.count).hold a = if a = x.bodyNo then { e.hold a with begun := 0 } else e.hold a) := by
  unfold Engine.sealBody
  rw [hb]
  dsimp only
  refine ⟨fun c => body_putBody e x.bodyNo _ c, fun a => (hold_modHold _ x.bodyNo (fun h => { h with begun := 0 }) a).trans ?_⟩
  by_cases ha : a = x.bodyNo
  · rw [if_pos ha, if_pos ha, ha]
    rfl
  · rw [if_neg ha, if_neg ha]
    rfl

/-- The body of a take sealed, where it does not stand as the greeting that it replaces. -/
theorem seals_body (hheld : ∀ h, x.target = .slot h → (e.slot x.mailbox h).held ≠ some x.bodyNo) :
    (x.seals t e).body x.bodyNo = some { w with sealed := true, offset := some t.offset, samples := some t.count } ∧ ((x.seals t e).hold x.bodyNo).begun = 0 := by
  obtain ⟨hbody, hhold⟩ := sealBody_taken (t := t) hb
  have hseal := (hbody x.bodyNo).trans (if_pos rfl)
  have hzero : ((e.sealBody x.bodyNo t.offset t.count).hold x.bodyNo).begun = 0 := by rw [hhold, if_pos rfl]
  unfold Session.seals
  split
  · exact ⟨hseal, hzero⟩
  · have hlate := recordSealed_within (e.sealBody x.bodyNo t.offset t.count) (by assumption) false
    refine ⟨(congrArg (fun t => Tab.find? t x.bodyNo) (hlate.keeps .bodies rfl)).trans hseal, ?_⟩
    rw [show (Engine.recordSealed _ false (e.sealBody x.bodyNo t.offset t.count)).hold x.bodyNo = _ from
      congrArg (fun t => Tab.get BodyHold.zero t x.bodyNo) (hlate.keeps .holds rfl)]
    exact hzero
  · next g hg =>
    have hslot : (e.sealBody x.bodyNo t.offset t.count).slot x.mailbox g = e.slot x.mailbox g :=
      congrArg (fun t => Tab.get Slot.empty t (slotKey x.mailbox g)) ((sealBody_within e x.bodyNo t.offset t.count).keeps .greetings rfl)
    refine ⟨(replaceGreeting_body _ (by rw [hslot]; exact hheld g hg)).trans hseal, ?_⟩
    rcases replaceGreeting_hold (e.sealBody x.bodyNo t.offset t.count) x.mailbox g x.bodyNo with h | h
    · rw [h]
      exact hzero
    · rw [h]
      rfl

omit hb

/-- The record of a take sealed becomes NEW, and its mailbox's counters follow (R130). -/
theorem seals_record {a : Nat} {y : Record} (hx : x.target = .record a) (hy : e.record a = some y) :
    (∀ q, (x.seals t e).record q = if q = a then some { y with state := .new, cut := false } else e.record q) ∧
      ∀ n, (x.seals t e).counter n = if n = y.mailbox ∧ y.state ≠ .new then (e.counter n).pass y.state .new y.urgent else e.counter n := by
  have hwork := sealBody_within e x.bodyNo t.offset t.count
  have hrecord : ∀ q, (e.sealBody x.bodyNo t.offset t.count).record q = e.record q := fun q => record_congr (hwork.keeps .records rfl) q
  have hcounter : ∀ n, (e.sealBody x.bodyNo t.offset t.count).counter n = e.counter n := fun n =>
    congrArg (fun t => Tab.get Counters.zero t n) (hwork.keeps .counters rfl)
  have hseals : x.seals t e = (e.sealBody x.bodyNo t.offset t.count).changeRecord a y { y with state := .new, cut := false } := by
    unfold Session.seals Engine.recordSealed
    rw [hx]
    dsimp only
    rw [hrecord, hy]
  rw [hseals]
  refine ⟨fun q => ?_, fun n => ?_⟩
  · rw [changeRecord_record ((hrecord a).trans hy), hrecord]
  · rw [changeRecord_counter, hcounter, hcounter]
    by_cases hn : n = y.mailbox ∧ y.state ≠ .new
    · rw [if_pos hn, if_pos ⟨hn.1, Ne.symm hn.2⟩, hn.1]
    · rw [if_neg hn, if_neg fun h => hn ⟨h.1, Ne.symm h.2⟩]

/-- The staging of a take sealed becomes the greeting (R144). -/
theorem seals_slot {g : GreetingKind} (hx : x.target = .slot g) (n : Nat) (j : GreetingKind) : (x.seals t e).slot n j =
    if n = x.mailbox ∧ j = g then { held := (e.slot x.mailbox g).staged, staged := none } else e.slot n j := by
  have hslot : ∀ n j, (e.sealBody x.bodyNo t.offset t.count).slot n j = e.slot n j := fun n j =>
    congrArg (fun t => Tab.get Slot.empty t (slotKey n j)) ((sealBody_within e x.bodyNo t.offset t.count).keeps .greetings rfl)
  unfold Session.seals
  rw [hx]
  dsimp only
  rw [replaceGreeting_slot, hslot, hslot]

end Seals

end Sys2Proof.Machine

namespace Sys2Proof.Machine

/-! Proofs about section 4: what settling makes of requests for program (R77, R83). -/

/-- From h to g the writes asked for have become sequences and the arbiter has chosen: a program where one waits and the link is free. -/
structure Engine.Settled (h g : Engine) : Prop where
  within : Engine.Within [.link, .storeQueues, .pool, .outbox, .flags, .segments, .writes] h g
  quiet : h.linkFree = false ∨ h.ssc.progQueue = [] → Engine.Within [.link, .writes] h g
  busy : h.linkFree = false → g.ssc = h.ssc
  starts : h.linkFree = true → ∀ r rs i is, h.ssc.progQueue = r :: rs → h.ssc.freeList = i :: is →
    g.ssc.progQueue = rs ∧ g.ssc.link = .allocating r i true ∧ g.ssc.freeList = is ∧ (g.segment i).state = .allocated
  flags : ∃ f, g.mgc.flags = h.mgc.flags ||| f ∧ f &&& NoticeKind.sessionEnd.bit = 0
  outbox : ∃ ps, g.mgc.outbox = h.mgc.outbox ++ ps
  queue : ∃ q, g.catQueue = h.catQueue ++ q

theorem flush_queue (t : Then) (e : Engine) : ∃ q, (e.flush t).catQueue = e.catQueue ++ q := by
  unfold Engine.flush
  split
  · exact ⟨[], (List.append_nil _).symm⟩
  · split
    · exact ⟨[], (List.append_nil _).symm⟩
    · exact ⟨_, rfl⟩

theorem rested_settled {h : Engine} (hr : h.linkFree = false ∨ h.ssc.readQueue = []) (hp : h.linkFree = false ∨ h.ssc.progQueue = []) :
    h.Settled h.rested := by
  have hflush : (h.flush .nothing).ssc = h.ssc := flush_ssc _ h
  have hfree : (h.flush .nothing).linkFree = h.linkFree := flush_linkFree _ h
  have hstart := startNext_within (e := h.flush .nothing) (by rw [hfree, hflush]; exact hr)
  have hall : Engine.Within [.link, .writes] h h.rested := ((flush_within h .nothing).mono rfl).step hstart rfl
  obtain ⟨q, hq⟩ := flush_queue .nothing h
  have hmgc := mgc_within hall rfl
  refine ⟨hall.mono rfl, fun _ => hall, fun hb => ?_, fun hfr r rs i is hpr => ?_, ⟨0, ?_, by decide⟩, ⟨[], ?_⟩, ⟨q, ?_⟩⟩
  · have hstill : (h.flush .nothing).startNext = h.flush .nothing := by
      unfold Engine.startNext
      rw [hfree, hb]
      rfl
    show (h.flush .nothing).startNext.ssc = h.ssc
    rw [hstill, hflush]
  · rcases hp with hp | hp
    · exact absurd (hfr.symm.trans hp) (by decide)
    · exact nomatch hp.symm.trans hpr
  · rw [hmgc]
    exact (BitVec.or_zero).symm
  · rw [hmgc, List.append_nil]
  · exact Eq.trans (hstart.keeps .writes rfl).1 hq

/-! ## A program starts (R83) -/

section Start
variable (r : ProgReq) (i : Nat) (e : Engine)

/-- The engine of a program before the pool is examined. -/
def Engine.starting (r : ProgReq) (i : Nat) (e : Engine) : Engine :=
  ((e.modSsc (fun c => { c with progQueue := c.progQueue.tail, freeList := c.freeList.tail, link := .allocating r i true, opTimer := 0 })).put
    (.segment i { state := .allocated, body := none, next := none, eraseFailures := (e.segment i).eraseFailures })).flush .allocated

theorem startProgram_eq : e.startProgram r i = (e.starting r i).examinePool := rfl

theorem examinePool_moves : ∃ l, (e.examinePool).ssc = { e.ssc with poolLow := l } := ⟨_, examinePool_ssc e⟩

theorem startProgram_ssc : ∃ l, (e.startProgram r i).ssc = { e.ssc with
    progQueue := e.ssc.progQueue.tail, freeList := e.ssc.freeList.tail, link := .allocating r i true, opTimer := 0, poolLow := l } := by
  obtain ⟨l, hl⟩ := examinePool_moves (e.starting r i)
  have hstart : (e.starting r i).ssc = { e.ssc with progQueue := e.ssc.progQueue.tail, freeList := e.ssc.freeList.tail, link := .allocating r i true, opTimer := 0 } := by
    unfold Engine.starting
    rw [flush_ssc]
    rfl
  refine ⟨l, ?_⟩
  rw [startProgram_eq, hl, hstart]

theorem startProgram_segment (j : Nat) : (e.startProgram r i).segment j =
    if j = i then { state := .allocated, body := none, next := none, eraseFailures := (e.segment i).eraseFailures } else e.segment j := by
  have hexamine : (e.startProgram r i).segment j = (e.starting r i).segment j :=
    congrArg (fun t => Tab.get SegEntry.blank t j) ((examinePool_within (e.starting r i)).keeps .segments rfl)
  rw [hexamine]
  exact (congrArg (fun t : Catalogue => Tab.get SegEntry.blank t.segments j) (flush_tab _ .allocated)).trans (segment_putSegment _ i _ j)

end Start

section Settle
variable {h : Engine} (hd : h.dle.due = none) (hr : h.linkFree = false ∨ h.ssc.readQueue = [])
include hd hr

theorem settle_program {r : ProgReq} {rs : List ProgReq} {i : Nat} {is : List Nat} (hf : h.linkFree = true) (hp : h.ssc.progQueue = r :: rs)
    (hl : h.ssc.freeList = i :: is) : h.settle = (h.flush .nothing).startProgram r i := by
  have hread : h.ssc.readQueue = [] := hr.resolve_left (by rw [hf]; decide)
  have hflush : (h.flush .nothing).ssc = h.ssc := flush_ssc _ h
  have hfree : (h.flush .nothing).linkFree = true := (flush_linkFree _ h).trans hf
  unfold Engine.settle
  rw [endJobs_none (by rw [flush_dle]; exact hd), flush_none (flush_asked _ _)]
  dsimp only
  obtain ⟨l, hssc⟩ := startProgram_ssc r i (h.flush .nothing)
  generalize h.flush .nothing = g at *
  have hchoose : g.chooseProgram = g.startProgram r i := by
    unfold Engine.chooseProgram
    rw [hflush, hp, hl]
  have hstop : ∀ n, (g.startProgram r i).arbitrate n = g.startProgram r i := fun n => by
    cases n with
    | zero => rfl
    | succ n =>
      have hbusy : (g.startProgram r i).linkFree = false := by
        unfold Engine.linkFree
        rw [hssc]
        simp
      unfold Engine.arbitrate
      rw [hbusy]
      rfl
  rw [Engine.arbitrate, hfree, hchoose, hstop, hflush, hp, hl, hread]
  simp

theorem settle_settled (hp : h.linkFree = false ∨ h.ssc.progQueue = [] ∨ h.ssc.freeList ≠ []) : h.Settled h.settle := by
  by_cases hq : h.linkFree = false ∨ h.ssc.progQueue = []
  · rw [settle_quiet hd hq]
    exact rested_settled hr hq
  · obtain ⟨hfree, hqueue⟩ := not_or.1 hq
    rw [Bool.not_eq_false] at hfree
    obtain ⟨r, rs, hrs⟩ := List.exists_cons_of_ne_nil hqueue
    obtain ⟨i, is, his⟩ := List.exists_cons_of_ne_nil ((hp.resolve_left (by rw [hfree]; decide)).resolve_left hqueue)
    rw [settle_program hd hr hfree hrs his]
    obtain ⟨l, hssc⟩ := startProgram_ssc r i (h.flush .nothing)
    have hseg := startProgram_segment r i (h.flush .nothing) i
    rw [if_pos rfl] at hseg
    rw [flush_ssc] at hssc
    obtain ⟨q, hflush⟩ := flush_queue .nothing h
    obtain ⟨q', hstart⟩ := flush_queue .allocated ((((h.flush .nothing).modSsc (fun c =>
      { c with progQueue := c.progQueue.tail, freeList := c.freeList.tail, link := .allocating r i true, opTimer := 0 }))).put
      (.segment i { state := .allocated, body := none, next := none, eraseFailures := ((h.flush .nothing).segment i).eraseFailures }))
    obtain ⟨ps, f, hmgc, hf, -⟩ := examinePool_lows ((h.flush .nothing).starting r i)
    have hpool : ((h.flush .nothing).starting r i).examinePool.catQueue = ((h.flush .nothing).starting r i).catQueue :=
      ((examinePool_within ((h.flush .nothing).starting r i)).keeps .writes rfl).1
    have hsame : ((h.flush .nothing).starting r i).mgc = h.mgc := by
      unfold Engine.starting
      rw [flush_mgc]
      show (h.flush .nothing).mgc = h.mgc
      rw [flush_mgc]
    have hwork := (startProgram_within (h.flush .nothing) r i).mono (qs := [.link, .storeQueues, .pool, .outbox, .flags, .segments, .writes]) rfl
    have hfirst := (flush_within h .nothing).mono (qs := [.link, .storeQueues, .pool, .outbox, .flags, .segments, .writes]) rfl
    rw [startProgram_eq] at hssc hseg hwork ⊢
    rw [hsame] at hmgc
    refine ⟨hfirst.trans hwork, fun hc => absurd hc hq, fun hc => absurd (hfree.symm.trans hc) (by decide), fun _ r' rs' i' is' hr' hi' => ?_,
      ⟨f, ?_, hf⟩, ⟨ps, ?_⟩, ⟨q ++ q', ?_⟩⟩
    · obtain ⟨rfl, rfl⟩ := List.cons.inj (hrs.symm.trans hr')
      obtain ⟨rfl, rfl⟩ := List.cons.inj (his.symm.trans hi')
      refine ⟨?_, ?_, ?_, ?_⟩
      · rw [hssc, hrs]
        rfl
      · rw [hssc]
      · rw [hssc, his]
        rfl
      · rw [hseg]
    · rw [hmgc]
    · rw [hmgc]
    · rw [hpool]
      refine Eq.trans hstart ?_
      show (h.flush .nothing).catQueue ++ q' = _
      rw [hflush, List.append_assoc]

end Settle

end Sys2Proof.Machine

namespace Sys2Proof.Machine

/-! Proofs about section 2: a take discarded, as its end leaves it (R26, R27). -/

/-! ## What settling leaves of an end -/

theorem sessionEnd_bit_or {a f : BitVec 16} (hf : f &&& NoticeKind.sessionEnd.bit = 0) :
    (a ||| f) &&& NoticeKind.sessionEnd.bit = a &&& NoticeKind.sessionEnd.bit := by
  rw [BitVec.and_comm, BitVec.and_or_distrib_left, BitVec.and_comm _ f, hf, show (0 : BitVec 16) = 0#16 from rfl, BitVec.or_zero, BitVec.and_comm]

theorem endsAs_settled {e h g : Engine} {k : Nat} {z : Session} (he : e.endsAs h k z) (hs : h.Settled g) : e.endsAs g k z := by
  obtain ⟨hclosing, hopen⟩ := he
  obtain ⟨f, hflags, hf⟩ := hs.flags
  obtain ⟨ps, hout⟩ := hs.outbox
  have hsession : g.session k = h.session k := congrArg (fun t => Tab.get Session.reset t k) (hs.within.keeps .sessions rfl)
  have hbit : g.mgc.flags &&& NoticeKind.sessionEnd.bit = h.mgc.flags &&& NoticeKind.sessionEnd.bit := by rw [hflags, sessionEnd_bit_or hf]
  refine ⟨fun hc => ?_, fun ho => ?_⟩
  · obtain ⟨hfreed, hflag⟩ := hclosing hc
    exact ⟨hsession.trans hfreed, hbit.trans hflag⟩
  · obtain ⟨hflag, hnote, hfreed, hstays⟩ := hopen ho
    exact ⟨hbit.trans hflag, fun hn => by rw [hout]; exact List.mem_append_left _ (hnote hn), fun hr hn => hsession.trans (hfreed hr hn),
      fun hk => hsession.trans (hstays hk)⟩

theorem lamps_within {d g : Engine} {l : Lmp} {m : Nat} {qs : List Part} (hl : d.lmp = (({ d with lmp := l } : Engine).handInputs m).lmp)
    (hg : Engine.Within qs d g) (hq : partsApart [.mailboxes, .classes, .counters, .service, .lmp] qs = true) :
    g.lmp = (({ g with lmp := l } : Engine).handInputs m).lmp := by
  have hout : ∀ p ∈ [Part.mailboxes, .classes, .counters, .service, .lmp], decide (p ∈ qs) = false := fun p hm => decide_eq_false (not_mem_of_partsApart hq hm)
  have hsame : ({ d with lmp := l } : Engine).SameInputs { g with lmp := l } :=
    ⟨hg.keeps .mailboxes (hout _ (by simp)), hg.keeps .classes (hout _ (by simp)), hg.keeps .counters (hout _ (by simp)),
      (hg.keeps .service (hout _ (by simp))).1, rfl⟩
  exact (show g.lmp = d.lmp from hg.keeps .lmp (hout _ (by simp))).trans (hl.trans (hsame.handInputs m).lamps.symm)

theorem unwanted_idle (k : Nat) (test : ProgReq → Bool) (l : Link) : l.unwanted k test = .idle ↔ l = .idle := by
  cases l <;> simp [Link.unwanted]

theorem linkFree_congr {e g : Engine} (hs : g.ssc.service = e.ssc.service) (hl : g.ssc.link = .idle ↔ e.ssc.link = .idle) (hr : g.mgc.restart = e.mgc.restart) :
    g.linkFree = e.linkFree := by
  unfold Engine.linkFree Engine.halted
  rw [hs, hr, decide_eq_decide.2 hl]

theorem leavesBuffers_congr {e f : Engine} {k : Nat} {out : Nat → Bool} {y z : Session} (h0 : (f.session k).buf0 = (e.session k).buf0)
    (h1 : (f.session k).buf1 = (e.session k).buf1) (hq : f.ssc.progQueue = e.ssc.progQueue) (hz0 : z.buf0 = y.buf0) (hz1 : z.buf1 = y.buf1)
    (h : f.leavesBuffers k out y) : e.leavesBuffers k out z := by
  unfold Engine.leavesBuffers Session.bufWith Session.buf at h ⊢
  simp only [h0, h1, hq] at h
  simp only [hz0, hz1]
  exact h

/-! ## The take as it begins to end -/

/-- From e to f the take of session k has begun to end: its meter stopped, its bindings released, its cause and its trim noted (R9, R26, R46). -/
structure Engine.Ending (e f : Engine) (k : Nat) (c : Cause) (tr : Option Trim) : Prop where
  within : Engine.Within [.slots, .sessions] e f
  session : f.session k = { e.session k with
    meter := (e.session k).meter.map (fun m => { m with sum := 0 }), endCause := some c, inSlot := none, outSlot := none, trim := tr }
  others : ∀ j, j ≠ k → f.session j = e.session j
  slotsIn : f.slotsIn = unbound (e.session k).inSlot e.slotsIn
  slotsOut : f.slotsOut = unbound (e.session k).outSlot e.slotsOut

theorem ending_slots (k : Nat) (c : Cause) (e : Engine) : (e.ending k c).slotsIn = unbound (e.session k).inSlot e.slotsIn ∧
    (e.ending k c).slotsOut = unbound (e.session k).outSlot e.slotsOut := by
  have h := releaseSlots_slots k (e.modSession k (fun x => { x.stopMeter with endCause := some c }))
  rw [session_modSession_self] at h
  exact h

theorem ending_ends (k : Nat) (c : Cause) (e : Engine) : e.Ending (e.ending k c) k c (e.session k).trim where
  within := ending_within k c e
  session := by
    rw [session_ending, if_pos rfl]
    rfl
  others j hj := by rw [session_ending, if_neg hj]
  slotsIn := (ending_slots k c e).1
  slotsOut := (ending_slots k c e).2

theorem ending_trimmed (k : Nat) (c : Cause) (t : Trim) (e : Engine) : e.Ending ((e.ending k c).modSession k (fun x => { x with trim := some t })) k c (some t) where
  within := (ending_within k c e).step (modSession_within _ k _) rfl
  session := by
    rw [session_modSession_self, session_ending, if_pos rfl]
    rfl
  others j hj := by rw [session_modSession_ne _ hj, session_ending, if_neg hj]
  slotsIn := (ending_slots k c e).1
  slotsOut := (ending_slots k c e).2

section Ending
variable {e f : Engine} {k : Nat} {c : Cause} {tr : Option Trim} (hf : e.Ending f k c tr)
include hf

namespace Engine.Ending

theorem bodyNo : (f.session k).bodyNo = (e.session k).bodyNo := by
  rw [hf.session]
  rfl

theorem mailbox : (f.session k).mailbox = (e.session k).mailbox := by rw [hf.session]

theorem target : (f.session k).target = (e.session k).target := by rw [hf.session]

theorem kind : (f.session k).kind = (e.session k).kind := by rw [hf.session]

theorem body (b : Nat) : f.body b = e.body b := congrArg (fun t => Tab.find? t b) (hf.within.keeps .bodies rfl)

theorem hold (b : Nat) : f.hold b = e.hold b := congrArg (fun t => Tab.get BodyHold.zero t b) (hf.within.keeps .holds rfl)

theorem record (r : Nat) : f.record r = e.record r := record_congr (hf.within.keeps .records rfl) r

theorem counter (n : Nat) : f.counter n = e.counter n := congrArg (fun t => Tab.get Counters.zero t n) (hf.within.keeps .counters rfl)

theorem slot (n : Nat) (j : GreetingKind) : f.slot n j = e.slot n j :=
  congrArg (fun t => Tab.get Slot.empty t (slotKey n j)) (hf.within.keeps .greetings rfl)

theorem segment (i : Nat) : f.segment i = e.segment i := congrArg (fun t => Tab.get SegEntry.blank t i) (hf.within.keeps .segments rfl)

theorem chain (b : Nat) : f.chain b = e.chain b := chain_congr (hf.within.keeps .segments rfl) (by rw [hf.body])

theorem ssc : f.ssc = e.ssc := ssc_of_within hf.within rfl

theorem mgc : f.mgc = e.mgc := mgc_within hf.within rfl

theorem targets {b : Nat} (h : e.targets (e.session k) b) : f.targets (f.session k) b := by
  unfold Engine.targets at h ⊢
  rw [hf.target, hf.mailbox]
  simpa only [hf.record, hf.slot] using h

end Engine.Ending
end Ending

/-! ## The take discarded -/

section Drops
variable {e f g : Engine} {k : Nat} {c oc : Cause} {tr : Option Trim} (hf : e.Ending f k c tr)
include hf

theorem discarded_endsAs : ∃ z : Session, e.endsAs ((f.discard k).enterEnded k oc) k z ∧ e.leavesBuffers k (fun _ => true) z ∧
    z = { e.session k with state := .ended, outcome := some oc, endCause := none, inSlot := none, outSlot := none, target := .none, trim := tr,
                           discarded := true, meter := (e.session k).meter.map (fun m => { m with sum := 0 }), buf0 := z.buf0, buf1 := z.buf1 } := by
  obtain ⟨y, ⟨b0, b1, hy⟩, hleaves, hsession⟩ := discard_session k f
  have hlows : e.Lows (f.discard k) := (Engine.Lows.quiet hf.within rfl).trans (discard_lows k f)
  have hall : Engine.Within (.slots :: discardParts) e (f.discard k) := (hf.within.mono rfl).step (discard_within k f) rfl
  have hhalt : (f.discard k).halted = e.halted := by
    rw [Engine.halted, Engine.halted, show (f.discard k).ssc.service = e.ssc.service from (hall.keeps .service rfl).1,
      show (f.discard k).mgc.restart = e.mgc.restart from (hall.keeps .channel rfl).2.2.2]
  have hends := enterEnded_endsAs hlows (hall.keeps .settings rfl) hhalt k oc
  refine ⟨_, hends, ?_, ?_⟩
  · refine leavesBuffers_congr ?_ ?_ (congrArg Ssc.progQueue hf.ssc) ?_ ?_ hleaves
    · rw [hf.session]
    · rw [hf.session]
    · rw [hsession]
      rfl
    · rw [hsession]
      rfl
  · rw [hsession, hy, hf.session]
    rfl

theorem discarded_slots : ((f.discard k).enterEnded k oc).slotsIn = unbound (e.session k).inSlot e.slotsIn ∧
    ((f.discard k).enterEnded k oc).slotsOut = unbound (e.session k).outSlot e.slotsOut := by
  obtain ⟨y, ⟨b0, b1, hy⟩, -, hsession⟩ := discard_session k f
  obtain ⟨hin, hout⟩ := (discard_within k f).keeps .slots rfl
  obtain ⟨hein, heout⟩ := enterEnded_slots k oc (f.discard k) (by rw [hsession, hy, hf.session]; rfl) (by rw [hsession, hy, hf.session]; rfl)
  exact ⟨hein.trans (Eq.trans hin hf.slotsIn), heout.trans (Eq.trans hout hf.slotsOut)⟩

theorem discarded_queues : ((f.discard k).enterEnded k oc).ssc.progQueue = e.ssc.progQueue.filter (fun r => decide (r.session ≠ k)) ∧
    ((f.discard k).enterEnded k oc).ssc.link = e.ssc.link.unwanted k (fun _ => true) ∧
    ((f.discard k).enterEnded k oc).linkFree = e.linkFree := by
  obtain ⟨hqueue, hlink⟩ := discard_queues k f
  have hlast := enterEnded_within (f.discard k) k oc
  obtain ⟨-, hprog⟩ := hlast.keeps .storeQueues rfl
  obtain ⟨hsame, -⟩ := hlast.keeps .link rfl
  have hl : ((f.discard k).enterEnded k oc).ssc.link = e.ssc.link.unwanted k (fun _ => true) := Eq.trans hsame (hlink.trans (by rw [hf.ssc]))
  have hall : Engine.Within (.slots :: discardParts) e ((f.discard k).enterEnded k oc) :=
    ((hf.within.mono rfl).step (discard_within k f) rfl).step hlast rfl
  refine ⟨Eq.trans hprog (hqueue.trans (by rw [hf.ssc])), hl, linkFree_congr (hall.keeps .service rfl).1 ?_ (hall.keeps .channel rfl).2.2.2⟩
  rw [hl]
  exact unwanted_idle k _ _

/-- A take discarded, as its end leaves it (R26, R27). -/
theorem drops_of_ending (hs : ((f.discard k).enterEnded k oc).Settled g) (hq : e.linkFree = true → e.ssc.progQueue.filter (fun r => decide (r.session ≠ k)) = []) :
    e.dropsTake g k oc tr := by
  obtain ⟨z, hends, hleaves, hz⟩ := discarded_endsAs (oc := oc) hf
  obtain ⟨hin, hout⟩ := discarded_slots (oc := oc) hf
  obtain ⟨hqueue, hlink, hfree⟩ := discarded_queues (oc := oc) hf
  have hquiet := hs.quiet (by
    rw [hqueue, hfree]
    cases he : e.linkFree
    · exact .inl rfl
    · exact .inr (hq he))
  have hlast : Engine.Within [.slots, .sessions, .outbox, .flags, .link, .writes] (f.discard k) g :=
    ((enterEnded_within (f.discard k) k oc).mono rfl).step hquiet rfl
  have hbegun := discard_begun k f
  have hends' := endsAs_settled hends hs
  have hbusy : ∀ l, e.ssc.link = l → l ≠ .idle → g.ssc.link = l.unwanted k (fun _ => true) := fun l hl hne => by
    have hnot : ((f.discard k).enterEnded k oc).linkFree = false := by
      rw [hfree, Engine.linkFree, hl]
      simp [hne]
    rw [congrArg Ssc.link (hs.busy hnot), hlink, hl]
  have hholds : g.hold (e.session k).bodyNo = (f.discard k).hold (e.session k).bodyNo :=
    congrArg (fun t => Tab.get BodyHold.zero t (e.session k).bodyNo) (hlast.keeps .holds rfl)
  refine ⟨⟨z, hends', hleaves, hz⟩, ⟨fun n => ?_, fun n => ?_⟩, fun r i w => ⟨fun hl => ?_, fun hl => ?_⟩, ?_, ?_, fun a ha => ?_, fun j hj => ?_,
    fun w hw hopen ht => ⟨fun hsh hp hr hfr => ?_, fun a y hk hx hy hbox => ⟨fun n => ?_, ?_⟩⟩⟩
  · exact (congrArg (fun t => Tab.find? t n) (Eq.trans (hquiet.keeps .slots rfl).1 hin)).trans (find?_unbound _ _ n)
  · exact (congrArg (fun t => Tab.find? t n) (Eq.trans (hquiet.keeps .slots rfl).2 hout)).trans (find?_unbound _ _ n)
  · exact hbusy _ hl nofun
  · exact hbusy _ hl nofun
  · have hprog : g.ssc.progQueue = e.ssc.progQueue.filter (fun r => decide (r.session ≠ k)) := Eq.trans (hquiet.keeps .storeQueues rfl).2 hqueue
    unfold Engine.programs
    split
    · next he => exact ⟨fun _ => hprog.trans (hq he), fun r rs i is hc => nomatch (hq he).symm.trans hc⟩
    · exact hprog
  · rw [hholds, ← hf.bodyNo]
    exact hbegun
  · exact (record_congr (hlast.keeps .records rfl) a).trans (discard_record (hf.target.trans ha))
  · refine (congrArg (fun t => Tab.get Slot.empty t (slotKey (e.session k).mailbox j)) (hlast.keeps .greetings rfl)).trans
      ((discard_slot (hf.target.trans hj) (e.session k).mailbox j).trans ?_)
    rw [hf.mailbox, if_pos ⟨rfl, rfl⟩, hf.slot]
  · obtain ⟨hrel, -⟩ := discard_releases ((hf.body _).trans hw) (hf.targets ht) hsh (by rw [hf.hold]; exact hp) (by rw [hf.hold]; exact hr)
      (by rw [hf.ssc]; exact hfr)
    exact releases_within hf.within rfl hrel hlast rfl
  · obtain ⟨hcounter, -⟩ := discard_counters ((hf.body _).trans hw) (hf.targets ht) hopen (hf.kind.trans hk) (hf.target.trans hx) ((hf.record a).trans hy)
      (hbox.trans hf.mailbox.symm) hf.bodyNo.symm
    have hn := hcounter n
    rw [hf.mailbox, hf.counter, hf.hold] at hn
    exact (congrArg (fun t => Tab.get Counters.zero t n) (hlast.keeps .counters rfl)).trans hn
  · obtain ⟨-, hlamps⟩ := discard_counters ((hf.body _).trans hw) (hf.targets ht) hopen (hf.kind.trans hk) (hf.target.trans hx) ((hf.record a).trans hy)
      (hbox.trans hf.mailbox.symm) hf.bodyNo.symm
    have hlmp : f.lmp = e.lmp := hf.within.keeps .lmp rfl
    rw [hf.mailbox, hlmp] at hlamps
    exact lamps_within hlamps hlast rfl

end Drops

end Sys2Proof.Machine

namespace Sys2Proof.Machine

/-! Proofs about section 2: a take trimmed, as its end leaves it (R62 to R65). -/

/-! ## What changes elsewhere leave -/

namespace Engine.Within
variable {ps : List Part} {e g : Engine} (h : Engine.Within ps e g)
include h

theorem holds_same (hp : decide (Part.holds ∈ ps) = false) (a : Nat) : g.hold a = e.hold a :=
  congrArg (fun t => Tab.get BodyHold.zero t a) (h.keeps .holds hp)

theorem counters_same (hp : decide (Part.counters ∈ ps) = false) (n : Nat) : g.counter n = e.counter n :=
  congrArg (fun t => Tab.get Counters.zero t n) (h.keeps .counters hp)

theorem bodies_same (hp : decide (Part.bodies ∈ ps) = false) (b : Nat) : g.body b = e.body b :=
  congrArg (fun t => Tab.find? t b) (h.keeps .bodies hp)

theorem slots_same (hp : decide (Part.greetings ∈ ps) = false) (n : Nat) (j : GreetingKind) : g.slot n j = e.slot n j :=
  congrArg (fun t => Tab.get Slot.empty t (slotKey n j)) (h.keeps .greetings hp)

theorem sessions_same (hp : decide (Part.sessions ∈ ps) = false) (j : Nat) : g.session j = e.session j :=
  congrArg (fun t => Tab.get Session.reset t j) (h.keeps .sessions hp)

theorem segments_same (hp : decide (Part.segments ∈ ps) = false) (i : Nat) : g.segment i = e.segment i :=
  congrArg (fun t => Tab.get SegEntry.blank t i) (h.keeps .segments hp)

theorem records_same (hp : decide (Part.records ∈ ps) = false) (r : Nat) : g.record r = e.record r := record_congr (h.keeps .records hp) r

theorem lmp_same (hp : decide (Part.lmp ∈ ps) = false) : g.lmp = e.lmp := h.keeps .lmp hp

theorem writes_same (hp : decide (Part.writes ∈ ps) = false) : g.catQueue = e.catQueue ∧ g.asked = e.asked := h.keeps .writes hp

end Engine.Within

/-! ## What a sealing leaves of the free list and the writes -/

theorem joinDirty_freeList (i : Nat) (e : Engine) : (e.joinDirty i).ssc.freeList = e.ssc.freeList := (joinDirty_ssc i e).2

theorem makeAllDirty_freeList : ∀ (is : List Nat) (e : Engine), (e.makeAllDirty is).ssc.freeList = e.ssc.freeList
  | [], _ => rfl
  | i :: is, e => by
    have hone : (e.makeDirty i).ssc.freeList = e.ssc.freeList := by
      unfold Engine.makeDirty
      split
      · exact joinDirty_freeList i e
      · rfl
    exact (makeAllDirty_freeList is (e.makeDirty i)).trans hone

theorem dropShare_freeList (b : Nat) (e : Engine) : (e.dropShare b).ssc.freeList = e.ssc.freeList := by
  have hshare : (e.modShare b (· - 1)).ssc.freeList = e.ssc.freeList := ((modShare_within e b (· - 1)).keeps .pool rfl).1
  show ((e.modShare b (· - 1)).releaseIfUnheld b).ssc.freeList = e.ssc.freeList
  unfold Engine.releaseIfUnheld
  split
  · exact hshare
  · split
    · exact (makeAllDirty_freeList _ _).trans hshare
    · exact hshare

theorem changeRecord_queued (r : Nat) (x y : Record) (e : Engine) : e.Asked (e.changeRecord r x y) := by
  unfold Engine.changeRecord
  have hput : e.Asked (e.put (.record r (some y))) := .put _ e
  refine .ite (.refl e) (.ite hput (hput.trans ?_))
  exact (Engine.Asked.within (modCounter_within _ _ _) rfl).trans (.within (handInputs_within _ _) rfl)

theorem sealBody_queued (b o n : Nat) (e : Engine) : e.Asked (e.sealBody b o n) := by
  unfold Engine.sealBody
  split
  · exact .refl e
  · exact (Engine.Asked.put _ e).trans (.within (modHold_within _ _ _) rfl)

section Seals
variable (x : Session) (t : Trim) (e : Engine)

theorem seals_queued : e.Asked (x.seals t e) := by
  have hbody := sealBody_queued x.bodyNo t.offset t.count e
  unfold Session.seals
  split
  · exact hbody
  · refine hbody.trans ?_
    unfold Engine.recordSealed
    split
    · exact .refl _
    · exact changeRecord_queued _ _ _ _
  · next g _ =>
    refine hbody.trans ?_
    have hput : (e.sealBody x.bodyNo t.offset t.count).Asked ((e.sealBody x.bodyNo t.offset t.count).putSlot x.mailbox g
        { held := ((e.sealBody x.bodyNo t.offset t.count).slot x.mailbox g).staged, staged := none }) := .put _ _
    unfold Engine.replaceGreeting
    dsimp only
    split
    · exact hput
    · exact hput.trans (dropShare_queued _ _)

theorem seals_freeList : (x.seals t e).ssc.freeList = e.ssc.freeList := by
  have hbody : (e.sealBody x.bodyNo t.offset t.count).ssc = e.ssc := ssc_of_within (sealBody_within e _ _ _) rfl
  have hfree := congrArg Ssc.freeList hbody
  unfold Session.seals
  split
  · exact hfree
  · exact (congrArg Ssc.freeList (ssc_of_within (recordSealed_within _ _ _) rfl)).trans hfree
  · unfold Engine.replaceGreeting
    dsimp only
    split
    · exact hfree
    · exact (dropShare_freeList _ _).trans hfree

end Seals

/-! ## The programs that a settled part leaves -/

theorem programs_settled {e h g : Engine} {q : List ProgReq} (hl : h.linkFree = e.linkFree) (hp : h.ssc.progQueue = q)
    (hf : h.ssc.freeList = e.ssc.freeList) (hs : h.Settled g) : e.programs g q := by
  unfold Engine.programs
  split
  · next he =>
    refine ⟨fun hq => ?_, fun r rs i is hq hi => ?_⟩
    · exact ((hs.quiet (.inr (hp.trans hq))).keeps .storeQueues rfl).2.trans (hp.trans hq)
    · obtain ⟨h1, h2, h3, -⟩ := hs.starts (hl.trans he) r rs i is (hp.trans hq) (hf.trans hi)
      exact ⟨h1, h2, h3⟩
  · next he =>
    have hbusy : h.linkFree = false := hl.trans (Bool.not_eq_true _ ▸ he)
    exact ((hs.quiet (.inl hbusy)).keeps .storeQueues rfl).2.trans hp

/-! ## The take trimmed -/

/-- The engine of a take that has been trimmed and drains. -/
def Engine.drained (k : Nat) (c : Cause) (t : Trim) (e : Engine) : Engine :=
  ((e.ending k c).applyTrim k t).modSession k (fun x => { x with state := .draining })

section Drained
variable (k : Nat) (c : Cause) (t : Trim) (e : Engine)

theorem drained_fromTrim : Engine.Within [.sessions] ((e.ending k c).applyTrim k t) (e.drained k c t) := modSession_within _ k _

theorem drained_within : Engine.Within (.slots :: trimParts) e (e.drained k c t) :=
  (((ending_within k c e).mono (qs := .slots :: trimParts) rfl).step (applyTrim_within k t _) rfl).step (drained_fromTrim k c t e) rfl

theorem drained_session : ∃ z, e.leavesBuffers k (fun j => !t.keeps j) z ∧ (e.drained k c t).session k = z ∧
    z = { e.session k with trim := some t, inSlot := none, outSlot := none, meter := (e.session k).meter.map (fun m => { m with sum := 0 }),
                           state := .draining, endCause := some c, buf0 := z.buf0, buf1 := z.buf1 } := by
  have hf := ending_ends k c e
  have hleaves := trimLeft_leaves k t (e.ending k c)
  obtain ⟨b0, b1, hbufs⟩ := trimLeft_onlyBufs k t (e.ending k c)
  have hsession : (e.drained k c t).session k = { ((e.ending k c).trimLeft k t).session k with trim := some t, state := .draining } := by
    rw [Engine.drained, session_modSession_self, applyTrim_session, if_pos rfl]
  refine ⟨_, ?_, rfl, ?_⟩
  · refine leavesBuffers_congr ?_ ?_ (congrArg Ssc.progQueue hf.ssc) ?_ ?_ hleaves
    · rw [hf.session]
    · rw [hf.session]
    · rw [hsession]
    · rw [hsession]
  · rw [hsession, hbufs, hf.session]

theorem drained_others {j : Nat} (hj : j ≠ k) : (e.drained k c t).session j = e.session j := by
  rw [Engine.drained, session_modSession_ne _ hj, applyTrim_session, if_neg hj]
  exact (ending_ends k c e).others j hj

theorem drained_ssc : (e.drained k c t).ssc = ((e.ending k c).trimLeft k t).ssc :=
  (ssc_of_within (drained_fromTrim k c t e) rfl).trans (applyTrim_ssc k t _)

theorem drained_link : (e.drained k c t).ssc.link = e.ssc.link.unwanted k t.outside ∧ (e.drained k c t).ssc.freeList = e.ssc.freeList := by
  rw [drained_ssc, trimLeft_ssc, (ending_ends k c e).ssc]
  exact ⟨rfl, rfl⟩

theorem drained_linkFree : (e.drained k c t).linkFree = e.linkFree := by
  have hwork := drained_within k c t e
  refine linkFree_congr (hwork.keeps .service rfl).1 ?_ (hwork.keeps .channel rfl).2.2.2
  rw [(drained_link k c t e).1]
  exact unwanted_idle k _ _

theorem drained_slots : (e.drained k c t).slotsIn = unbound (e.session k).inSlot e.slotsIn ∧ (e.drained k c t).slotsOut = unbound (e.session k).outSlot e.slotsOut := by
  have hf := ending_ends k c e
  obtain ⟨hin, hout⟩ := (((applyTrim_within k t (e.ending k c)).mono (qs := trimParts) rfl).step (drained_fromTrim k c t e) rfl).keeps .slots rfl
  exact ⟨Eq.trans hin hf.slotsIn, Eq.trans hout hf.slotsOut⟩

theorem drained_hold (a : Nat) : (e.drained k c t).hold a =
    if a = (e.session k).bodyNo then { e.hold a with begun := (e.hold a).begun - (e.ending k c).goneOutside k t } else e.hold a := by
  have hf := ending_ends k c e
  have h := applyTrim_hold k t (e.ending k c) a
  rw [hf.bodyNo, hf.hold] at h
  exact ((drained_fromTrim k c t e).holds_same rfl a).trans h

theorem drained_counter (n : Nat) : (e.drained k c t).counter n = if (e.session k).kind = some .recordMessage ∧ n = (e.session k).mailbox then
    { e.counter n with charged := (e.counter n).charged - min (e.hold (e.session k).bodyNo).begun ((e.ending k c).goneOutside k t) } else e.counter n := by
  have hf := ending_ends k c e
  have h := applyTrim_counter k t (e.ending k c) n
  rw [hf.bodyNo, hf.hold, hf.counter, hf.mailbox, Session.isMessage, hf.kind] at h
  simp only [decide_eq_true_iff] at h
  exact ((drained_fromTrim k c t e).counters_same rfl n).trans h

theorem drained_lamps (hk : (e.session k).kind = some .recordMessage) :
    (e.drained k c t).lmp = (({ e.drained k c t with lmp := e.lmp } : Engine).handInputs (e.session k).mailbox).lmp := by
  have hf := ending_ends k c e
  have h := applyTrim_lamps k t (e.ending k c) (decide_eq_true (hf.kind.trans hk))
  rw [hf.mailbox, show (e.ending k c).lmp = e.lmp from hf.within.keeps .lmp rfl] at h
  exact lamps_within h (drained_fromTrim k c t e) rfl

variable {k c t e} {w : Body} (hb : e.body (e.session k).bodyNo = some w) (hle : t.first ≤ t.last + 1) (ha : e.asked = [])
include hb hle

theorem ending_gone (hc : w.count = (e.chain (e.session k).bodyNo).length) : (e.ending k c).goneOutside k t =
    (cutAway t.first t.last (e.chain (e.session k).bodyNo)).length + e.waitingPrograms k t.outside +
      (if e.programInFlight k t.outside = true then 1 else 0) + (((e.session k).fillingRequest k).filter t.outside).length := by
  have hf := ending_ends k c e
  have hchain := hf.chain (e.session k).bodyNo
  have hbody : (e.ending k c).body ((e.ending k c).session k).bodyNo = some w := by rw [hf.bodyNo, hf.body, hb]
  have hcount : w.count = ((e.ending k c).chain ((e.ending k c).session k).bodyNo).length := by rw [hf.bodyNo, hchain, hc]
  have hwaits : (e.ending k c).waitingPrograms k t.outside = e.waitingPrograms k t.outside := by rw [Engine.waitingPrograms, hf.ssc, Engine.waitingPrograms]
  have hflight : (e.ending k c).programInFlight k t.outside = e.programInFlight k t.outside := by
    rw [Engine.programInFlight, hf.ssc, Engine.programInFlight]
  have hrequest : ((e.ending k c).session k).fillingRequest k = (e.session k).fillingRequest k := by
    rw [hf.session]
    rfl
  rw [goneOutside_eq hbody hcount hle, hf.bodyNo, hchain, hwaits, hflight, hrequest]

include ha

theorem drained_body (n : Nat) : (e.drained k c t).body n =
    if n = (e.session k).bodyNo then some (w.cutTo t.first t.last (e.chain (e.session k).bodyNo)) else e.body n := by
  have hf := ending_ends k c e
  have h := applyTrim_body (k := k) (t := t) (e := e.ending k c) (w := w) (by rw [hf.bodyNo, hf.body, hb]) hle
    ((show (e.ending k c).asked = e.asked from (hf.within.keeps .writes rfl).2).trans ha) n
  rw [hf.bodyNo, hf.chain, hf.body] at h
  exact ((drained_fromTrim k c t e).bodies_same rfl n).trans h

theorem drained_writes : (e.drained k c t).asked = [] ∧ (cutAway t.first t.last (e.chain (e.session k).bodyNo) ≠ [] → e.halted = false →
    (e.drained k c t).catQueue = e.catQueue ++
      [{ writes := e.cutEnds t.first t.last (e.chain (e.session k).bodyNo) ++
          [.body (e.session k).bodyNo (some (w.cutTo t.first t.last (e.chain (e.session k).bodyNo)))],
         after := .cut (cutAway t.first t.last (e.chain (e.session k).bodyNo)) }]) := by
  have hf := ending_ends k c e
  obtain ⟨hq, hs⟩ := hf.within.keeps .writes rfl
  have hqueue : (e.ending k c).catQueue = e.catQueue := hq
  have hasked : (e.ending k c).asked = e.asked := hs
  have hhalt : (e.ending k c).halted = e.halted := by rw [Engine.halted, Engine.halted, hf.ssc, hf.mgc]
  have hends : (e.ending k c).cutEnds t.first t.last (e.chain (e.session k).bodyNo) = e.cutEnds t.first t.last (e.chain (e.session k).bodyNo) := by
    unfold Engine.cutEnds
    simp only [hf.segment]
  have h := applyTrim_writes (k := k) (t := t) (e := e.ending k c) (w := w) (by rw [hf.bodyNo, hf.body, hb]) hle (hasked.trans ha)
  rw [hf.bodyNo, hf.chain, hhalt, hqueue, hends] at h
  obtain ⟨hsq, hsa⟩ := (drained_fromTrim k c t e).writes_same rfl
  exact ⟨hsa.trans h.1, fun hne hlive => hsq.trans (h.2 hne hlive)⟩

end Drained

end Sys2Proof.Machine

namespace Sys2Proof.Machine

/-! Proofs about section 2: the take trimmed, drained or sealed at once (R29, R62 to R65). -/

section Trims
variable {k : Nat} {c : Cause} {t : Trim} {e g : Engine}

/-- What the drained session, sealed at once or not, leaves of the link and the writes. -/
theorem checkDrained_rest (k : Nat) (c : Cause) (t : Trim) (e : Engine) :
    ((e.drained k c t).checkDrained k).slotsIn = unbound (e.session k).inSlot e.slotsIn ∧
      ((e.drained k c t).checkDrained k).slotsOut = unbound (e.session k).outSlot e.slotsOut ∧
      ((e.drained k c t).checkDrained k).ssc.link = e.ssc.link.unwanted k t.outside ∧
      ((e.drained k c t).checkDrained k).linkFree = e.linkFree ∧
      ((e.drained k c t).checkDrained k).catQueue = (e.drained k c t).catQueue ∧
      ((e.drained k c t).checkDrained k).ssc.progQueue = (e.drained k c t).ssc.progQueue ∧
      ((e.drained k c t).checkDrained k).ssc.freeList = e.ssc.freeList := by
  obtain ⟨z, -, hsession, hz⟩ := drained_session k c t e
  obtain ⟨hin, hout⟩ := drained_slots k c t e
  obtain ⟨hlink, hfree⟩ := drained_link k c t e
  have hlinkFree := drained_linkFree k c t e
  generalize e.drained k c t = d at *
  have htrim : (d.session k).trim = some t := by rw [hsession, hz]
  have hin' : (d.session k).inSlot = none := by rw [hsession, hz]
  have hout' : (d.session k).outSlot = none := by rw [hsession, hz]
  by_cases hp : (d.session k).programmed ≤ t.last
  · rw [checkDrained_waits htrim hp]
    exact ⟨hin, hout, hlink, hlinkFree, rfl, rfl, hfree⟩
  · rw [checkDrained_sealed htrim (by rw [hsession, hz]) (Nat.lt_of_not_le hp)]
    generalize (d.session k).endCause.getD .stopped = c'
    have hseals := seals_within (d.session k) t d
    have hqueued := seals_queued (d.session k) t d
    have hlist := seals_freeList (d.session k) t d
    generalize (d.session k).seals t d = u at *
    have hlast := enterEnded_within u k c'
    have hses : u.session k = d.session k := hseals.sessions_same rfl k
    obtain ⟨hu, hv⟩ := enterEnded_slots k c' u (by rw [hses, hin']) (by rw [hses, hout'])
    have hall : Engine.Within [.segments, .writes, .pool, .outbox, .flags, .bodies, .holds, .greetings, .records, .counters, .lmp, .slots, .sessions] d
      (u.enterEnded k c') := (hseals.mono rfl).step hlast rfl
    obtain ⟨hlinkSame, -⟩ := hall.keeps .link rfl
    obtain ⟨-, hprog⟩ := hall.keeps .storeQueues rfl
    obtain ⟨hsin, hsout⟩ := hseals.keeps .slots rfl
    refine ⟨hu.trans (Eq.trans hsin hin), hv.trans (Eq.trans hsout hout), Eq.trans hlinkSame hlink, ?_, ?_, hprog, ?_⟩
    · refine (linkFree_congr (hall.keeps .service rfl).1 ?_ (hall.keeps .channel rfl).2.2.2).trans hlinkFree
      rw [show (u.enterEnded k c').ssc.link = d.ssc.link from hlinkSame]
    · exact (hlast.writes_same rfl).1.trans hqueued.1
    · exact Eq.trans (hlast.keeps .pool rfl).1 (hlist.trans hfree)

variable {w : Body} (hb : e.body (e.session k).bodyNo = some w) (hle : t.first ≤ t.last + 1) (ha : e.asked = [])

/-- The engine of a take sealed at once. -/
def Engine.sealedTake (k : Nat) (c : Cause) (t : Trim) (e : Engine) : Engine := ((e.drained k c t).session k).seals t (e.drained k c t)

theorem sealedTake_within : Engine.Within (.slots :: .greetings :: .records :: .pool :: .outbox :: .flags :: trimParts) e (e.sealedTake k c t) :=
  ((drained_within k c t e).mono rfl).step (seals_within _ t _) rfl

theorem checkDrained_sealedTake (hp : t.last < (e.session k).programmed) :
    (e.drained k c t).checkDrained k = (e.sealedTake k c t).enterEnded k c := by
  obtain ⟨z, -, hsession, hz⟩ := drained_session k c t e
  rw [checkDrained_sealed (t := t) (by rw [hsession, hz]) (by rw [hsession, hz]) (by rw [hsession, hz]; exact hp)]
  rw [show ((e.drained k c t).session k).endCause.getD .stopped = c by rw [hsession, hz]; rfl]
  rfl

theorem checkDrained_drained (hp : (e.session k).programmed ≤ t.last) : (e.drained k c t).checkDrained k = e.drained k c t := by
  obtain ⟨z, -, hsession, hz⟩ := drained_session k c t e
  exact checkDrained_waits (t := t) (by rw [hsession, hz]) (by rw [hsession, hz]; exact hp)

theorem sealedTake_endsAs : ∃ z : Session, e.endsAs ((e.sealedTake k c t).enterEnded k c) k z ∧ e.leavesBuffers k (fun j => !t.keeps j) z ∧
    z = { e.session k with trim := some t, inSlot := none, outSlot := none, meter := (e.session k).meter.map (fun m => { m with sum := 0 }),
                           state := .ended, outcome := some c, endCause := none, buf0 := z.buf0, buf1 := z.buf1 } := by
  obtain ⟨z, hleaves, hsession, hz⟩ := drained_session k c t e
  have hall := sealedTake_within (k := k) (c := c) (t := t) (e := e)
  have hlows : e.Lows (e.sealedTake k c t) := (Engine.Lows.quiet (drained_within k c t e) rfl).trans (seals_lows _ t _)
  have hses : (e.sealedTake k c t).session k = z := ((seals_within _ t (e.drained k c t)).sessions_same rfl k).trans hsession
  generalize e.sealedTake k c t = u at *
  have hhalt : u.halted = e.halted := by
    rw [Engine.halted, Engine.halted, show u.ssc.service = e.ssc.service from (hall.keeps .service rfl).1,
      show u.mgc.restart = e.mgc.restart from (hall.keeps .channel rfl).2.2.2]
  have hends := enterEnded_endsAs hlows (hall.keeps .settings rfl) hhalt k c
  rw [hses] at hends
  refine ⟨_, hends, leavesBuffers_congr rfl rfl rfl rfl rfl hleaves, ?_⟩
  conv_lhs => rw [hz]
  rfl

include hb hle

/-- A take trimmed, as its end leaves it (R62 to R65). -/
theorem trims_of_drained (ha : e.asked = []) (hs : ((e.drained k c t).checkDrained k).Settled g) : e.trimsTake g k t c := by
  unfold Engine.trimsTake
  intro x b out chain kept tail removed filled gone waiting trimmed refunded w' hw' hcount cut ends
  obtain rfl : w' = w := Option.some.inj (hw'.symm.trans hb)
  obtain ⟨hin, hout, hlink, hfree, hqueue, hprog, hlist⟩ := checkDrained_rest k c t e
  have hgone : (e.ending k c).goneOutside k t = gone := ending_gone hw' hle hcount
  have hbody := drained_body (c := c) hw' hle ha
  obtain ⟨-, hcat⟩ := drained_writes (c := c) hw' hle ha
  have hhold := drained_hold k c t e
  have hcounter := drained_counter k c t e
  rw [hgone] at hhold hcounter
  have hbusy : ∀ l, e.ssc.link = l → l ≠ .idle → g.ssc.link = l.unwanted k t.outside := fun l hl hne => by
    have hnot : ((e.drained k c t).checkDrained k).linkFree = false := by
      rw [hfree, Engine.linkFree, hl]
      simp [hne]
    rw [congrArg Ssc.link (hs.busy hnot), hlink, hl]
  obtain ⟨hsin, hsout⟩ := hs.within.keeps .slots rfl
  refine ⟨⟨fun n => ?_, fun n => ?_⟩, fun r i v => ⟨fun hl => hbusy _ hl nofun, fun hl => hbusy _ hl nofun⟩, fun hne hlive => ?_, fun hp => ?_, fun hp hfill hheld => ?_⟩
  · exact (congrArg (fun t => Tab.find? t n) (Eq.trans hsin hin)).trans (find?_unbound _ _ n)
  · exact (congrArg (fun t => Tab.find? t n) (Eq.trans hsout hout)).trans (find?_unbound _ _ n)
  · obtain ⟨q, hq⟩ := hs.queue
    refine ⟨q, hq.trans ?_⟩
    rw [hqueue, hcat hne hlive, List.append_assoc]
    rfl
  · rw [checkDrained_drained hp] at hs hprog
    obtain ⟨z, hleaves, hsession, hz⟩ := drained_session k c t e
    have hses : g.session k = z := (hs.within.sessions_same rfl k).trans hsession
    refine ⟨?_, ?_, ?_, fun hclash => ?_, fun a => ?_, fun n => ?_, fun hk => ?_⟩
    · rw [hses]
      exact hz
    · rw [hses]
      exact hleaves
    · exact (hs.within.bodies_same rfl b).trans ((hbody b).trans (if_pos rfl))
    · refine programs_settled (drained_linkFree k c t e) ?_ (drained_link k c t e).2 hs
      have hf := ending_ends k c e
      have hrequest : ((e.ending k c).session k).fillingRequest k = filled := by
        rw [hf.session]
        rfl
      have hleft := fillingRequest_trimCut (k := k) (t := t) (e := e.ending k c) (fun f hf' r hr hrk => by
        rw [hf.session] at hf'
        rw [hf.ssc] at hr
        refine hclash { session := k, buf := f, body := b, takeSegment := (x.buf f).holds } ?_ r hr hrk
        show _ ∈ (match x.bufWith .filling with | some f => _ | none => _)
        rw [show x.bufWith .filling = some f from hf']
        exact List.mem_singleton.2 rfl)
      rw [hrequest] at hleft
      rw [drained_ssc, trimLeft_ssc, hleft, hf.ssc]
      rfl
    · exact (hs.within.holds_same rfl a).trans (hhold a)
    · exact (hs.within.counters_same rfl n).trans (hcounter n)
    · exact lamps_within (drained_lamps k c t e hk) hs.within rfl
  · rw [checkDrained_sealedTake hp] at hs hprog hlist hfree
    obtain ⟨y, hleaves, hsession, hy⟩ := drained_session k c t e
    obtain ⟨z, hends, hzleaves, hz⟩ := sealedTake_endsAs (k := k) (c := c) (t := t) (e := e)
    have hlast := enterEnded_within (e.sealedTake k c t) k c
    have hseals := seals_within ((e.drained k c t).session k) t (e.drained k c t)
    have hno : ((e.drained k c t).session k).bodyNo = b := by
      rw [hsession, hy]
      rfl
    have htarget : ((e.drained k c t).session k).target = x.target := by rw [hsession, hy]
    have hbox : ((e.drained k c t).session k).mailbox = x.mailbox := by rw [hsession, hy]
    have hslots : ∀ n j, (e.drained k c t).slot n j = e.slot n j := fun n j => (drained_within k c t e).slots_same rfl n j
    have hrecords : ∀ q, (e.drained k c t).record q = e.record q := fun q => (drained_within k c t e).records_same rfl q
    have hcutBody : (e.drained k c t).body ((e.drained k c t).session k).bodyNo = some cut := by
      rw [hno]
      exact (hbody b).trans (if_pos rfl)
    have hall : Engine.Within [.slots, .sessions, .outbox, .flags, .link, .storeQueues, .pool, .segments, .writes] (e.sealedTake k c t) g :=
      (hlast.mono rfl).step hs.within rfl
    refine ⟨⟨z, endsAs_settled hends hs, hzleaves, hz⟩, programs_settled hfree (hprog.trans ?_) hlist hs, ?_, ?_, fun a v ha' hv => ?_, fun j hj n i => ?_⟩
    · have hf := ending_ends k c e
      rw [drained_ssc, trimLeft_waiting (k := k) (t := t) (e := e.ending k c) (fun f hf' => ?_), hf.ssc]
      · rfl
      · rw [hf.session] at hf' ⊢
        have hle' := hfill f hf'
        refine Bool.eq_false_iff.2 fun hk => ?_
        obtain ⟨-, hupper⟩ := (Bool.and_eq_true _ _).mp hk
        exact absurd (Nat.lt_of_lt_of_le hp hle') (Nat.not_lt.2 (of_decide_eq_true hupper))
    · obtain ⟨hseal, -⟩ := seals_body (t := t) hcutBody (fun j hj => by
        rw [hslots, hbox, hno]
        exact hheld j (htarget.symm.trans hj))
      rw [hno] at hseal
      exact (hall.bodies_same rfl b).trans hseal
    · obtain ⟨-, hzero⟩ := seals_body (t := t) hcutBody (fun j hj => by
        rw [hslots, hbox, hno]
        exact hheld j (htarget.symm.trans hj))
      rw [hno] at hzero
      rw [hall.holds_same rfl b]
      exact hzero
    · obtain ⟨hrec, hcnt⟩ := seals_record (t := t) (x := (e.drained k c t).session k) (e := e.drained k c t) (htarget.trans ha') ((hrecords a).trans hv)
      refine ⟨fun q => ?_, fun n => ?_⟩
      · rw [hall.records_same rfl q]
        exact (hrec q).trans (by rw [hrecords])
      · rw [hall.counters_same rfl n]
        exact (hcnt n).trans (by rw [hcounter])
    · rw [hall.slots_same rfl n i]
      refine (seals_slot (t := t) (htarget.trans hj) n i).trans ?_
      rw [hbox, hslots, hslots]

end Trims

end Sys2Proof.Machine

namespace Sys2Proof.Machine

/-! Proofs about sections 2 and 4: a take that ends leaves the other sessions alone (R26, R28, R76). -/

theorem served_still {a : Engine} (hd : a.dle.due = none) : Engine.Served (Engine.Within sessionParts a) where
  toKept := within_kept a
  flush _ _ h := h.step (flush_within _ _) rfl
  job j e hj h := by
    have hsame : e.dle = a.dle := h.keeps .dle rfl
    exact nomatch (hsame ▸ hd).symm.trans hj
  erase _ h := h.step (startErase_within _) rfl
  read _ h := h.step (startRead_within _) rfl
  program _ _ _ _ _ h := h.step (startProgram_within _ _ _) rfl

/-- Settling, where no job is due, stays within the parts of the session engine. -/
theorem settle_within_still {e : Engine} (hd : e.dle.due = none) : Engine.Within sessionParts e e.settle := (served_still hd).settle (.refl _ e)

/-- From e to g the sessions other than k have changed in their targets alone, and no request for program has come but those of k. -/
def Engine.Alone (k : Nat) (e g : Engine) : Prop :=
  (∀ j, j ≠ k → ∃ t, g.session j = { e.session j with target := t }) ∧ ∀ r ∈ g.ssc.progQueue, r ∈ e.ssc.progQueue ∨ r.session = k

namespace Engine.Alone
variable {k : Nat} {a b c : Engine}

theorem refl (k : Nat) (a : Engine) : Alone k a a := ⟨fun _ _ => ⟨_, rfl⟩, fun _ h => .inl h⟩

theorem trans (h : Alone k a b) (g : Alone k b c) : Alone k a c := by
  refine ⟨fun j hj => ?_, fun r hr => (g.2 r hr).elim (fun h' => h.2 r h') .inr⟩
  obtain ⟨t, ht⟩ := h.1 j hj
  obtain ⟨u, hu⟩ := g.1 j hj
  exact ⟨u, by rw [hu, ht]⟩

theorem of_retargets (h : a.Retargets b) (hq : b.ssc.progQueue = a.ssc.progQueue) : Alone k a b := ⟨fun j _ => h j, fun _ hr => .inl (hq ▸ hr)⟩

theorem within {ps : List Part} (h : Engine.Within ps a b) (hps : partsApart [.sessions, .storeQueues] ps = true) : Alone k a b :=
  .of_retargets (.within h (decide_eq_false (not_mem_of_partsApart hps (by simp))))
    (h.keeps .storeQueues (decide_eq_false (not_mem_of_partsApart hps (by simp)))).2

theorem modSession (k : Nat) (f : Session → Session) (a : Engine) : Alone k a (a.modSession k f) :=
  ⟨fun j hj => ⟨_, session_modSession_ne a hj f⟩, fun _ h => .inl h⟩

theorem rebuffers (h : Engine.Rebuffers k a b) (hq : ∀ r ∈ b.ssc.progQueue, r ∈ a.ssc.progQueue ∨ r.session = k) : Alone k a b :=
  ⟨fun j hj => ⟨_, h.2 j hj⟩, hq⟩

theorem ite {p : Prop} [Decidable p] (h : Alone k a b) (g : Alone k a c) : Alone k a (if p then b else c) := ite_kept h g

end Engine.Alone

section Ops
variable (k : Nat) (e : Engine)

theorem withdrawPrograms_alone (test : ProgReq → Bool) : e.Alone k (e.withdrawPrograms k test) := by
  refine .rebuffers (withdrawPrograms_rebuffers k test e) fun r hr => .inl ?_
  rw [withdrawPrograms_ssc] at hr
  exact (List.mem_filter.1 hr).1

theorem discard_alone : e.Alone k (e.discard k) := by
  refine ⟨fun j hj => discard_others k e hj, fun r hr => .inl ?_⟩
  rw [(discard_queues k e).1] at hr
  exact (List.mem_filter.1 hr).1

theorem enterEnded_alone (c : Cause) : e.Alone k (e.enterEnded k c) := by
  refine ⟨fun j hj => ⟨_, (enterEnded_session k c e j).trans (if_neg hj)⟩, fun r hr => .inl ?_⟩
  rw [← (show (e.enterEnded k c).ssc.progQueue = e.ssc.progQueue from ((enterEnded_within e k c).keeps .storeQueues rfl).2)]
  exact hr

theorem fillingRequest_session {x : Session} {r : ProgReq} (h : r ∈ x.fillingRequest k) : r.session = k := by
  unfold Session.fillingRequest at h
  split at h
  · rw [List.mem_singleton.1 h]
  · cases h

theorem applyTrim_alone (t : Trim) : e.Alone k (e.applyTrim k t) := by
  refine ⟨fun j hj => ⟨_, (applyTrim_session k t e j).trans (if_neg hj)⟩, fun r hr => ?_⟩
  rw [applyTrim_ssc, trimLeft_ssc] at hr
  rcases List.mem_append.1 hr with hr | hr
  · exact .inl (List.mem_filter.1 hr).1
  · split at hr
    · cases hr
    · exact .inr (fillingRequest_session k hr)

theorem checkDrained_alone : e.Alone k (e.checkDrained k) := by
  have hseals : ∀ t : Trim, e.Alone k ((e.session k).seals t e) := fun t => .within (seals_within _ t e) rfl
  unfold Engine.checkDrained
  dsimp only
  split
  · exact .refl k e
  · next t _ =>
    refine .ite ?_ (.refl k e)
    exact (hseals t).trans (enterEnded_alone k _ _)

theorem ending_alone (c : Cause) : e.Alone k (e.ending k c) := by
  refine ⟨fun j hj => ⟨_, (ending_ends k c e).others j hj⟩, fun r hr => .inl ?_⟩
  rw [← (ending_ends k c e).ssc]
  exact hr

theorem endTake_alone (c : Cause) (cap : Option Nat) : e.Alone k (e.endTake k c cap) := by
  have hending := ending_alone k e c
  have hdiscard : ∀ g : Engine, e.Alone k g → ∀ oc, e.Alone k ((g.discard k).enterEnded k oc) := fun g hg oc =>
    (hg.trans (discard_alone k g)).trans (enterEnded_alone k _ oc)
  unfold Engine.endTake
  dsimp only
  split
  · refine .ite (hdiscard _ (hending.trans (.modSession k _ _)) _) ?_
    exact ((hending.trans (applyTrim_alone k _ _)).trans (.modSession k _ _)).trans (checkDrained_alone k _)
  · exact hdiscard _ hending _

theorem storeFull_alone (r : ProgReq) : e.Alone r.session (e.storeFull r) := by
  unfold Engine.storeFull
  extract_lets k n e1 x cap
  have h1 : e.Alone k e1 := by
    refine ((Engine.Alone.modSession k _ e).trans (withdrawPrograms_alone k _ _)).trans (.within (refund_within _ k _) rfl)
  refine .ite (h1.trans (endTake_alone k e1 _ _)) (.ite ?_ h1)
  split
  · extract_lets endS t1 e2
    have h2 : e.Alone k e2 := h1.trans (.modSession k _ e1)
    exact .ite ((h2.trans (discard_alone k e2)).trans (enterEnded_alone k _ _)) ((h2.trans (.within (handTake_within _ k) rfl)).trans (checkDrained_alone k _))
  · exact h1

/-- The arbiter, only requests of one session waiting, leaves the others alone. -/
theorem arbitrate_alone : ∀ (n : Nat) (e : Engine), (∀ r ∈ e.ssc.progQueue, r.session = k) → e.Alone k (e.arbitrate n)
  | 0, e, _ => .refl k e
  | n + 1, e, hq => by
    have hchoose : e.Alone k e.chooseProgram := by
      unfold Engine.chooseProgram
      split
      · exact .refl k e
      · next r q i is hp hl =>
        obtain ⟨l, hssc⟩ := startProgram_ssc r i e
        refine ⟨fun j _ => ⟨_, (startProgram_within e r i).sessions_same rfl j⟩, fun u hu => .inl ?_⟩
        rw [hssc] at hu
        exact List.mem_of_mem_tail hu
      · next r q hp hl =>
        have hr : r.session = k := hq r (by rw [hp]; exact List.mem_cons_self)
        have hpop : e.Alone k (e.modSsc (fun c => { c with progQueue := q })) :=
          ⟨fun j _ => ⟨_, rfl⟩, fun u hu => .inl (by rw [hp]; exact List.mem_cons_of_mem _ hu)⟩
        have hfull := storeFull_alone (e.modSsc (fun c => { c with progQueue := q })) r
        rw [hr] at hfull
        exact (hpop.trans hfull).trans (.within (flush_within _ _) rfl)
    have hnext : e.Alone k (e.chooseProgram.arbitrate n) :=
      hchoose.trans (arbitrate_alone n e.chooseProgram fun r hr => (hchoose.2 r hr).elim (hq r) id)
    have hread : e.Alone k e.startRead := by
      unfold Engine.startRead
      split
      · exact .refl k e
      · exact ⟨fun j _ => ⟨_, rfl⟩, fun u hu => .inl hu⟩
    have herase : e.Alone k e.startErase := .within (startErase_within e) rfl
    unfold Engine.arbitrate
    exact .ite (.refl k e) (.ite herase (.ite hnext (.ite hread (.ite hnext (.ite herase (.refl k e))))))

theorem settle_alone {e : Engine} (hd : e.dle.due = none) (hq : e.linkFree = true → ∀ r ∈ e.ssc.progQueue, r.session = k) : e.Alone k e.settle := by
  by_cases hf : e.linkFree = true
  · have hflush : e.Alone k (e.flush .nothing) := .within (flush_within e _) rfl
    unfold Engine.settle
    rw [endJobs_none (by rw [flush_dle]; exact hd), flush_none (flush_asked _ _)]
    exact hflush.trans (arbitrate_alone k _ _ fun r hr => hq hf r (by rwa [flush_ssc] at hr))
  · rw [Bool.not_eq_true] at hf
    rw [settle_quiet hd (.inl hf)]
    exact .within (ps := [.link, .writes]) (((flush_within e .nothing).mono rfl).step (startNext_within (by rw [flush_linkFree]; exact .inl hf)) rfl) rfl

end Ops

end Sys2Proof.Machine

namespace Sys2Proof.Machine

/-! Proofs about section 2: a take ends, and the part settles (R26). -/

theorem checkDrained_reads (k : Nat) (e : Engine) : (e.checkDrained k).ssc.readQueue = e.ssc.readQueue := by
  have hseals : ∀ t : Trim, ((e.session k).seals t e).ssc.readQueue = e.ssc.readQueue := fun t => ((seals_within _ t e).keeps .storeQueues rfl).1
  unfold Engine.checkDrained
  dsimp only
  split
  · rfl
  · next t _ =>
    split
    · exact Eq.trans ((enterEnded_within _ k _).keeps .storeQueues rfl).1 (hseals t)
    · rfl

theorem checkDrained_dle (k : Nat) (e : Engine) : (e.checkDrained k).dle = e.dle := by
  have hwork : Engine.Within sessionParts e (e.checkDrained k) := (within_kept e).checkDrained (.refl _ e)
  exact hwork.keeps .dle rfl

theorem discard_reads (k : Nat) (e : Engine) : (e.discard k).ssc.readQueue = e.ssc.readQueue := by
  rw [discard_eq]
  refine Eq.trans ((letGo_within _ _).keeps .storeQueues rfl).1 ?_
  show (e.refunded k).ssc.readQueue = e.ssc.readQueue
  rw [refunded_ssc, untaken_ssc]

theorem drained_reads (k : Nat) (c : Cause) (t : Trim) (e : Engine) : (e.drained k c t).ssc.readQueue = e.ssc.readQueue := by
  rw [drained_ssc, trimLeft_ssc, (ending_ends k c e).ssc]

/-- The end sample of a take that ends, its end sample capped under store exhaustion (R58 to R61, R66). -/
def Session.takeStop (sn : Snapshot) (c : Cause) (cap : Option Nat) (m : Meter) (o : Nat) (x : Session) : Nat := match cap with
  | none => takeEnd sn c o (m.lastSpeech.getD o) x.cursor
  | some l => min (takeEnd sn c o (m.lastSpeech.getD o) x.cursor) l

section EndTake
variable {k : Nat} {e : Engine} {c : Cause} {cap : Option Nat} {m : Meter} {sn : Snapshot} {o : Nat}
  (hm : (e.session k).meter = some m) (hsn : (e.session k).snap = some sn) (ho : m.onset = some o)
include hm hsn ho

theorem endTake_short (h : (e.session k).takeStop sn c cap m o ≤ startSample sn o ∨
      (e.session k).takeStop sn c cap m o - startSample sn o < sn.minSamples) :
    e.endTake k c cap = ((((e.ending k c).modSession k (fun x =>
      { x with trim := some (trimOf (startSample sn o) ((e.session k).takeStop sn c cap m o)) })).discard k).enterEnded k (if cap.isSome then .storeFull else .tooShort)) := by
  have honset : (e.session k).meter.bind (·.onset) = some o := by rw [hm]; exact ho
  have hlast : ((e.session k).meter.bind (·.lastSpeech)).getD o = m.lastSpeech.getD o := by rw [hm]; rfl
  have hshort : (decide ((e.session k).takeStop sn c cap m o ≤ startSample sn o) ||
      decide ((trimOf (startSample sn o) ((e.session k).takeStop sn c cap m o)).count < sn.minSamples)) = true := by
    rw [Bool.or_eq_true, decide_eq_true_iff, decide_eq_true_iff]
    exact h
  unfold Engine.endTake
  dsimp only
  rw [hsn, honset]
  dsimp only
  rw [hlast]
  exact if_pos hshort

theorem endTake_kept (h1 : startSample sn o < (e.session k).takeStop sn c cap m o)
    (h2 : sn.minSamples ≤ (e.session k).takeStop sn c cap m o - startSample sn o) :
    e.endTake k c cap = (e.drained k c (trimOf (startSample sn o) ((e.session k).takeStop sn c cap m o))).checkDrained k := by
  have honset : (e.session k).meter.bind (·.onset) = some o := by rw [hm]; exact ho
  have hlast : ((e.session k).meter.bind (·.lastSpeech)).getD o = m.lastSpeech.getD o := by rw [hm]; rfl
  have hlong : ¬ (decide ((e.session k).takeStop sn c cap m o ≤ startSample sn o) ||
      decide ((trimOf (startSample sn o) ((e.session k).takeStop sn c cap m o)).count < sn.minSamples)) = true := by
    rw [Bool.or_eq_true, decide_eq_true_iff, decide_eq_true_iff]
    exact fun hc => hc.elim (fun hc => absurd h1 (Nat.not_lt.2 hc)) (fun hc => absurd h2 (Nat.not_le.2 hc))
  unfold Engine.endTake
  dsimp only
  rw [hsn, honset]
  dsimp only
  rw [hlast]
  exact if_neg hlong

end EndTake

/-- A part that a take's end finds settled: nothing asked, no job due, and where the link is free only the take's requests waiting. -/
structure Engine.Stands (k : Nat) (e : Engine) : Prop where
  asked : e.asked = []
  due : e.dle.due = none
  reads : e.linkFree = false ∨ e.ssc.readQueue = []
  programs : e.linkFree = true → ∀ r ∈ e.ssc.progQueue, r.session = k

section Stands
variable {k : Nat} {e : Engine} (h : e.Stands k)
include h

theorem stands_withdrawn (hf : e.linkFree = true) : e.ssc.progQueue.filter (fun r => decide (r.session ≠ k)) = [] :=
  List.filter_eq_nil_iff.2 fun r hr => by simp [h.programs hf r hr]

theorem endTake_due (c : Cause) (cap : Option Nat) : (e.endTake k c cap).dle.due = none := by
  have hsame : (e.endTake k c cap).dle = e.dle := ((within_kept e).endTake (.refl _ e)).keeps .dle rfl
  rw [hsame]
  exact h.due

/-- A discarded take's part settles with no program to start. -/
theorem discarded_settled {f : Engine} {c oc : Cause} {tr : Option Trim} (hf : e.Ending f k c tr) :
    ((f.discard k).enterEnded k oc).Settled ((f.discard k).enterEnded k oc).settle := by
  obtain ⟨hqueue, -, hfree⟩ := discarded_queues (oc := oc) hf
  have hlast := enterEnded_within (f.discard k) k oc
  have hall : Engine.Within (.slots :: discardParts) e ((f.discard k).enterEnded k oc) := ((hf.within.mono rfl).step (discard_within k f) rfl).step hlast rfl
  have hread : ((f.discard k).enterEnded k oc).ssc.readQueue = e.ssc.readQueue :=
    Eq.trans (hlast.keeps .storeQueues rfl).1 ((discard_reads k f).trans (congrArg Ssc.readQueue hf.ssc))
  have hdle : ((f.discard k).enterEnded k oc).dle = e.dle := hall.keeps .dle rfl
  refine settle_settled (by rw [hdle]; exact h.due) (by rw [hfree, hread]; exact h.reads) ?_
  rw [hfree, hqueue]
  cases he : e.linkFree
  · exact .inl rfl
  · exact .inr (.inl (stands_withdrawn h he))

theorem trimmed_settled (c : Cause) (t : Trim) (hl : e.linkFree = false ∨ e.ssc.freeList ≠ []) :
    ((e.drained k c t).checkDrained k).Settled ((e.drained k c t).checkDrained k).settle := by
  obtain ⟨-, -, -, hfree, -, -, hlist⟩ := checkDrained_rest k c t e
  have hread : ((e.drained k c t).checkDrained k).ssc.readQueue = e.ssc.readQueue := (checkDrained_reads k _).trans (drained_reads k c t e)
  have hdle : ((e.drained k c t).checkDrained k).dle = e.dle :=
    (checkDrained_dle k _).trans ((drained_within k c t e).keeps .dle rfl)
  refine settle_settled (by rw [hdle]; exact h.due) (by rw [hfree, hread]; exact h.reads) ?_
  rw [hfree, hlist]
  exact hl.imp id .inr

/-- A take ends, and the part settles (R26 to R29, R58 to R66). -/
theorem endTake_endsTake (c : Cause) : e.endsTake (e.endTake k c none).settle k c := by
  unfold Engine.endsTake
  intro x m sn hm hsn
  refine ⟨fun ho => ?_, fun o ho => ?_⟩
  · rw [endTake_silent c none hm ho]
    exact drops_of_ending (ending_ends k c e) (discarded_settled h (ending_ends k c e)) (stands_withdrawn h)
  · intro start stop last
    have hlast : (e.session k).takeStop sn c none m o = last := rfl
    refine ⟨fun hshort => ?_, fun h1 h2 hl => ?_⟩
    · rw [endTake_short (c := c) (cap := none) hm hsn ho hshort]
      exact drops_of_ending (ending_trimmed k c _ e) (discarded_settled h (ending_trimmed k c _ e)) (stands_withdrawn h)
    · have hle : (trimOf start last).first ≤ (trimOf start last).last + 1 := by
        show start / 2048 ≤ (last - 1) / 2048 + 1
        exact Nat.le_succ_of_le (Nat.div_le_div_right (Nat.le_sub_one_of_lt h1))
      rw [endTake_kept (c := c) (cap := none) hm hsn ho h1 h2, hlast]
      have hsettled := trimmed_settled h c (trimOf start last) hl
      unfold Engine.trimsTake
      intro x b out chain kept tail removed filled gone waiting trimmed refunded w hw
      exact trims_of_drained hw hle h.asked hsettled w hw

end Stands

end Sys2Proof.Machine

namespace Sys2Proof.Machine

/-! Proofs about section 3: a window end (R23, R25, R26). -/

/-! ## A session set twice -/

theorem insert_insert {α : Type} (n : Nat) (v w : α) : ∀ t : Tab α, Tab.insert n w (Tab.insert n v t) = Tab.insert n w t
  | [] => by simp [Tab.insert]
  | (i, u) :: t => by
    have hcons : ∀ v : α, Tab.insert n v ((i, u) :: t) = if n < i then (n, v) :: (i, u) :: t else if n = i then (n, v) :: t else (i, u) :: Tab.insert n v t :=
      fun _ => rfl
    rw [hcons, hcons]
    by_cases h1 : n < i
    · rw [if_pos h1, if_pos h1]
      simp [Tab.insert]
    · rw [if_neg h1, if_neg h1]
      by_cases h2 : n = i
      · rw [if_pos h2, if_pos h2]
        simp [Tab.insert]
      · rw [if_neg h2, if_neg h2, Tab.insert, if_neg h1, if_neg h2, insert_insert n v w t]

/-- A session that is live is not as reset leaves it. -/
theorem ne_reset {x : Session} (h : x.state.recordLive = true) : x ≠ Session.reset := by
  rintro rfl
  exact absurd h (by decide)

theorem setSession_setSession {k : Nat} {x y : Session} (hx : x.state.recordLive = true) (hy : y.state.recordLive = true) (e : Engine) :
    (e.setSession k x).setSession k y = e.setSession k y := by
  unfold Engine.setSession Tab.set
  rw [if_neg (ne_reset hx), if_neg (ne_reset hy), if_neg (ne_reset hy)]
  exact congrArg (fun t => ({ e with sessions := t } : Engine)) (insert_insert k x y e.sessions)

theorem session_setSession_self (k : Nat) (x : Session) (e : Engine) : (e.setSession k x).session k = x := (session_setSession e k x k).trans (if_pos rfl)

theorem modSession_setSession {k : Nat} {x : Session} (f : Session → Session) (hx : x.state.recordLive = true) (hf : (f x).state.recordLive = true) (e : Engine) :
    (e.setSession k x).modSession k f = e.setSession k (f x) := by
  show (e.setSession k x).setSession k (f ((e.setSession k x).session k)) = _
  rw [session_setSession_self, setSession_setSession hx hf]

/-! ## The window closed (R47 to R55) -/

/-- A session whose window has closed. -/
def Session.windowClosed (n : Meter) (x : Session) : Session := { x with meter := some n, windows := x.windows + 1 }

/-- A window end that leaves the take live, in state st (R25, R26, R57 to R59). -/
def Session.goesOn (n : Meter) (sn : Snapshot) (st : SessState) (x : Session) : Prop :=
  (x.state = .cue ∧ x.windows + 1 = x.cueLength ∧ st = (if n.onset = none then SessState.waitOnset else .taking)) ∨
    (x.state = .cue ∧ x.windows + 1 ≠ x.cueLength ∧ st = .cue) ∨ (x.state = .waitOnset ∧ n.onset ≠ none ∧ st = .taking) ∨
    (x.state = .waitOnset ∧ n.onset = none ∧ x.windows + 1 < sn.noSpeechWindows ∧ st = .waitOnset) ∨
    (x.state = .taking ∧ n.silenceRun ≠ sn.endSilenceWindows ∧ (x.windows + 1) * 64 - ((n.onset.getD 0) - sn.preRoll) * 64 < sn.maxSamples ∧ st = .taking)

theorem goesOn_live {n : Meter} {sn : Snapshot} {st : SessState} {x : Session} (h : x.goesOn n sn st) : st.recordLive = true := by
  rcases h with ⟨-, -, rfl⟩ | ⟨-, -, rfl⟩ | ⟨-, -, rfl⟩ | ⟨-, -, -, rfl⟩ | ⟨-, -, -, rfl⟩
  · split <;> rfl
  all_goals rfl

section Window
variable {e : Engine} {k : Nat} {m : Meter} {sn : Snapshot} (hl : (e.session k).state.recordLive = true)
  (hw : (e.session k).windows < (e.session k).cursor / 64) (hm : (e.session k).meter = some m) (hsn : (e.session k).snap = some sn)

theorem closeWindow_still (h : (e.session k).state.recordLive = false ∨ (e.session k).cursor / 64 ≤ (e.session k).windows) : e.closeWindow k = e := by
  have hdue : (e.session k).windowDue = false := by
    unfold Session.windowDue
    rcases h with h | h
    · rw [h, Bool.false_and]
    · rw [show decide ((e.session k).windows < (e.session k).cursor / Config.windowSamples) = false from decide_eq_false (Nat.not_lt.2 h), Bool.and_false]
  unfold Engine.closeWindow
  dsimp only
  rw [hdue]
  rfl

include hl hw hm hsn

/-- What a window end does, its meter closed. -/
theorem closeWindow_due : e.closeWindow k =
    (let n := m.close sn (e.session k).windows
     let w := (e.session k).windows + 1
     let e1 := e.setSession k ((e.session k).windowClosed n)
     let toState : SessState → Engine := fun st => (e1.modSession k (fun x => { x with state := st })).fullBuffer k
     match (e.session k).state with
     | .cue => if w = (e.session k).cueLength then toState (if n.onset.isSome then .taking else .waitOnset) else e1.fullBuffer k
     | .waitOnset =>
       if n.onset.isSome then toState .taking else if sn.noSpeechWindows ≤ w then e1.endTake k .noSpeech none else e1.fullBuffer k
     | _ =>
       if n.silenceRun = sn.endSilenceWindows then e1.endTake k .silence none
       else if sn.maxSamples ≤ w * 64 - startSample sn (n.onset.getD 0) then e1.endTake k .maxLength none
       else e1.fullBuffer k) := by
  have hdue : (!(e.session k).windowDue) = false := by
    unfold Session.windowDue
    rw [hl, Bool.true_and, Bool.not_eq_false', decide_eq_true_iff]
    exact hw
  unfold Engine.closeWindow
  dsimp only
  rw [hdue, if_neg Bool.false_ne_true, hm, hsn]
  rfl

theorem closeWindow_goesOn {st : SessState} (h : (e.session k).goesOn (m.close sn (e.session k).windows) sn st) :
    e.closeWindow k = (e.setSession k { (e.session k).windowClosed (m.close sn (e.session k).windows) with state := st }).fullBuffer k := by
  have hlive : ((e.session k).windowClosed (m.close sn (e.session k).windows)).state.recordLive = true := hl
  have hto : ∀ st : SessState, st.recordLive = true → ((e.setSession k ((e.session k).windowClosed (m.close sn (e.session k).windows))).modSession k
      (fun x => { x with state := st })) = e.setSession k { (e.session k).windowClosed (m.close sn (e.session k).windows) with state := st } :=
    fun st hst => modSession_setSession _ hlive hst e
  have hstay : ∀ st, (e.session k).state = st → (e.session k).windowClosed (m.close sn (e.session k).windows) =
      { (e.session k).windowClosed (m.close sn (e.session k).windows) with state := st } := fun st hst => by
    subst hst
    rfl
  rw [closeWindow_due hl hw hm hsn]
  dsimp only
  generalize m.close sn (e.session k).windows = n at *
  rcases h with ⟨hs, hc, rfl⟩ | ⟨hs, hc, rfl⟩ | ⟨hs, hc, rfl⟩ | ⟨hs, hc, hn, rfl⟩ | ⟨hs, hc, hn, rfl⟩
  · rw [hs]
    dsimp only
    rw [if_pos hc]
    cases ho : n.onset with
    | none =>
      rw [if_pos rfl]
      exact congrArg (Engine.fullBuffer k) (hto _ rfl)
    | some o =>
      rw [if_neg (nofun : ¬ (some o = none))]
      exact congrArg (Engine.fullBuffer k) (hto _ rfl)
  · rw [hs]
    dsimp only
    rw [if_neg hc, ← hstay _ hs]
  · rw [hs]
    dsimp only
    rw [if_pos (Option.isSome_iff_ne_none.2 hc), hto _ rfl]
  · rw [hs]
    dsimp only
    rw [if_neg (by rw [hc]; exact Bool.false_ne_true), if_neg (Nat.not_le.2 hn), ← hstay _ hs]
  · rw [hs]
    dsimp only
    rw [if_neg hc, ← hstay _ hs]
    exact if_neg (Nat.not_le.2 hn)

theorem closeWindow_noSpeech (hs : (e.session k).state = .waitOnset) (ho : (m.close sn (e.session k).windows).onset = none)
    (hn : sn.noSpeechWindows ≤ (e.session k).windows + 1) :
    e.closeWindow k = (e.setSession k ((e.session k).windowClosed (m.close sn (e.session k).windows))).endTake k .noSpeech none := by
  rw [closeWindow_due hl hw hm hsn]
  dsimp only
  rw [hs]
  dsimp only
  rw [if_neg (by rw [ho]; exact Bool.false_ne_true), if_pos hn]

theorem closeWindow_silence (hs : (e.session k).state = .taking) (hn : (m.close sn (e.session k).windows).silenceRun = sn.endSilenceWindows) :
    e.closeWindow k = (e.setSession k ((e.session k).windowClosed (m.close sn (e.session k).windows))).endTake k .silence none := by
  rw [closeWindow_due hl hw hm hsn]
  dsimp only
  rw [hs]
  exact if_pos hn

theorem closeWindow_maxLength (hs : (e.session k).state = .taking) (hn : (m.close sn (e.session k).windows).silenceRun ≠ sn.endSilenceWindows)
    (hx : sn.maxSamples ≤ ((e.session k).windows + 1) * 64 - (((m.close sn (e.session k).windows).onset.getD 0) - sn.preRoll) * 64) :
    e.closeWindow k = (e.setSession k ((e.session k).windowClosed (m.close sn (e.session k).windows))).endTake k .maxLength none := by
  rw [closeWindow_due hl hw hm hsn]
  dsimp only
  rw [hs]
  dsimp only
  rw [if_neg hn]
  exact if_pos hx

end Window

/-! ## A full buffer handed (R23, R24) -/

section Full
variable {e : Engine} {k b : Nat} {y : Session} (hy : y.state.recordLive = true) (hb : y.bufWith .filling = some b)

/-- A session whose full buffer waits for its program. -/
def Session.handed (b : Nat) (y : Session) : Session := y.setBuf b (y.buf b).handed

/-- The engine of a session whose full buffer has been handed. -/
def Engine.fullHanded (k b : Nat) (y : Session) (e : Engine) : Engine :=
  (e.setSession k (y.handed b)).modSsc (fun q => { q with progQueue := q.progQueue ++
    [{ session := k, buf := b, body := y.bodyNo, takeSegment := (y.buf b).holds }] })

theorem handed_state (b : Nat) (y : Session) : (y.handed b).state = y.state := by
  obtain ⟨b0, b1, h⟩ := setBuf_onlyBufs y b (y.buf b).handed
  rw [Session.handed, h]

include hy hb in
theorem handBuffer_full : (e.setSession k y).handBuffer k = e.fullHanded k b y := by
  have hself := session_setSession_self k y e
  have hset := modSession_setSession (k := k) (x := y) (fun x => x.setBuf b (x.buf b).handed) hy (by rw [← hy]; exact congrArg _ (handed_state b y)) e
  unfold Engine.handBuffer
  dsimp only
  rw [hself, hb]
  dsimp only
  rw [show (e.setSession k y).modBuf k b (fun v => { v with role := .queued }) = e.setSession k (y.handed b) from hset]
  rfl

end Full

end Sys2Proof.Machine

namespace Sys2Proof.Machine

/-! Proofs about section 3: a window end that ends the take (R26, R58 to R61). -/

/-- From e to g the store link has stayed idle, or stayed busy. -/
def Engine.LinkStays (e g : Engine) : Prop := g.ssc.link = .idle ↔ e.ssc.link = .idle

theorem linkStays_step {e g u : Engine} {ps : List Part} (h : e.LinkStays g) (k : Engine.Within ps g u) (hps : decide (Part.link ∈ ps) = false) : e.LinkStays u := by
  unfold Engine.LinkStays
  rw [show u.ssc.link = g.ssc.link from (k.keeps .link hps).1]
  exact h

/-- What the session engine does leaves an idle link idle and a busy one busy. -/
theorem linkStays_kept (e : Engine) : Engine.Kept e.LinkStays where
  session _ _ _ h := linkStays_step h (modSession_within _ _ _) rfl
  slots _ _ _ h := linkStays_step h (slots_within _ _ _) rfl
  programs _ _ h := linkStays_step h (queues_within _ _ _) rfl
  reads _ _ h := linkStays_step h (queues_within _ _ _) rfl
  unwant k t g h := (unwanted_idle k t g.ssc.link).trans h
  begun _ _ _ h := linkStays_step h (modHold_within _ _ _) rfl
  charge _ _ _ h := linkStays_step h (charge_within _ _ _) rfl
  lamps _ _ h := linkStays_step h (modLmp_within _ _) rfl
  raise _ _ _ h := linkStays_step h (raise_within _ _ _) rfl
  cut _ _ _ _ h := linkStays_step h (cutChain_within _ _ _ _) rfl
  seals _ _ _ _ h := linkStays_step h (sealBody_within _ _ _ _) rfl
  free _ _ h := linkStays_step h (freeRecord_within _ _) rfl
  abandon _ _ _ h := linkStays_step h (abandonGreeting_within _ _ _) rfl
  sealed _ _ _ h := linkStays_step h (recordSealed_within _ _ _) rfl
  replace _ _ _ h := linkStays_step h (replaceGreeting_within _ _ _) rfl
  reader _ _ h := linkStays_step h (dropReader_within _ _) rfl
  target _ _ _ _ _ h := linkStays_step h (playTarget_within _ _ _ _ _) rfl

theorem endTake_within (k : Nat) (c : Cause) (cap : Option Nat) (e : Engine) : Engine.Within sessionParts e (e.endTake k c cap) :=
  (within_kept e).endTake (.refl _ e)

theorem endTake_linkFree (k : Nat) (c : Cause) (cap : Option Nat) (e : Engine) : (e.endTake k c cap).linkFree = e.linkFree :=
  linkFree_congr ((endTake_within k c cap e).keeps .service rfl).1 ((linkStays_kept e).endTake Iff.rfl) ((endTake_within k c cap e).keeps .channel rfl).2.2.2

/-- A take that ends, its part settled, leaves the other sessions alone but for their targets. -/
theorem endTake_settle_alone {k : Nat} {e : Engine} (h : e.Stands k) (c : Cause) (cap : Option Nat) : e.Alone k (e.endTake k c cap).settle := by
  have hend := endTake_alone k e c cap
  refine hend.trans (settle_alone k (endTake_due h c cap) fun hf r hr => ?_)
  rw [endTake_linkFree] at hf
  exact (hend.2 r hr).elim (h.programs hf r) id

section Calm
variable {s : State} (h : s.calm) (k : Nat)
include h

/-- Sessions set and requests of one session added leave a calm part as a take's end finds it. -/
theorem stands_of_calm {e : Engine} (hw : Engine.Within [.sessions, .storeQueues] s.eng e) (hr : e.ssc.readQueue = s.eng.ssc.readQueue)
    (ha : s.eng.Alone k e) : e.Stands k := by
  obtain ⟨⟨hasked, hdue, hrest⟩, -⟩ := h
  have hfree : e.linkFree = s.eng.linkFree :=
    linkFree_congr (hw.keeps .service rfl).1 (by rw [(hw.keeps .link rfl).1]) (hw.keeps .channel rfl).2.2.2
  refine ⟨Eq.trans (hw.keeps .writes rfl).2 hasked, ?_, ?_, fun hf r hr => ?_⟩
  · rw [show e.dle = s.eng.dle from hw.keeps .dle rfl]
    exact hdue
  · rw [hfree, hr]
    exact hrest.imp id (fun hq => hq.2.1)
  · have hp : s.eng.ssc.progQueue = [] := (hrest.resolve_left (by rw [← hfree, hf]; decide)).1
    exact (ha.2 r hr).resolve_left (by rw [hp]; exact List.not_mem_nil)

/-- A window end that ends the take (R26). -/
theorem windowEnd_ends {e : Engine} (hw : Engine.Within [.sessions, .storeQueues] s.eng e) (hr : e.ssc.readQueue = s.eng.ssc.readQueue)
    (ha : s.eng.Alone k e) {c : Cause} (hc : s.eng.closeWindow k = e.endTake k c none) :
    ∃ t, exec (.windowEnd k) s = .next t ∧ e.endsTake t.eng k c ∧ (∀ j, j ≠ k → ∃ g, t.eng.session j = { s.eng.session j with target := g }) ∧
      s.keepsBut [.slots, .sessions, .pool, .storeQueues, .link, .holds, .counters, .lmp, .outbox, .flags, .segments, .bodies, .mailboxes, .records,
        .greetings, .writes] t := by
  have hs := stands_of_calm h k hw hr ha
  have hend := endTake_within k c none e
  have hall : Engine.Within sessionParts s.eng (e.endTake k c none).settle :=
    ((hw.mono rfl).trans hend).trans (settle_within_still (endTake_due hs c none))
  refine ⟨{ s with eng := (e.endTake k c none).settle }, ?_, endTake_endsTake hs c, (ha.trans (endTake_settle_alone hs c none)).1, hall.keepsBut rfl rfl rfl⟩
  have hin : (e.endTake k c none).mgc.inbox = [] := ((hend.keeps .channel rfl).2.1.trans (hw.keeps .channel rfl).2.1).trans h.2
  show Host.Outcome.next (s.onEng (fun e => e.closeWindow k)).finish = _
  rw [State.onEng, hc]
  exact congrArg Host.Outcome.next (finish_settle (s := { s with eng := e.endTake k c none }) hin)

end Calm

end Sys2Proof.Machine

namespace Sys2Proof.Machine

/-! Proofs about section 3: the next buffer of a take begins (R24). -/

section NextBuffer
variable {e : Engine} {k bf : Nat} (hb : (e.session k).bufWith .idle = some bf)
  (hq : ¬ ((e.session k).kind = some .recordMessage ∧ (e.boxClass (e.session k).mailbox).quota < (e.counter (e.session k).mailbox).charged + 1))
include hb

/-- A buffer that begins where the charge would exceed the quota, or where no buffer is idle, ends the take. -/
theorem startBuffer_quota (hk : (e.session k).kind = some .recordMessage)
    (hover : (e.boxClass (e.session k).mailbox).quota < (e.counter (e.session k).mailbox).charged + 1) : e.startBuffer k = e.endTake k .quota none := by
  have hm : (e.session k).isMessage = true := decide_eq_true hk
  unfold Engine.startBuffer
  dsimp only
  rw [hb]
  dsimp only
  rw [hm, Bool.true_and, if_pos (decide_eq_true hover)]

include hq

/-- What the next buffer leaves: it fills, its body's begun count and a message's charge risen, the lamp inputs of the mailbox charged handed (R24, R127). -/
theorem startBuffer_begins {g : Engine} (hg : e.startBuffer k = g) :
    Engine.Within [.sessions, .holds, .counters, .lmp] e g ∧ (∀ j, g.session j = if j = k then (e.session k).beginning bf else e.session j) ∧
      (∀ a, g.hold a = if a = (e.session k).bodyNo then { e.hold a with begun := (e.hold a).begun + 1 } else e.hold a) ∧
      (∀ a, g.counter a = if (e.session k).kind = some .recordMessage ∧ a = (e.session k).mailbox then
        { e.counter a with charged := (e.counter a).charged + 1 } else e.counter a) ∧
      ((e.session k).kind = some .recordMessage → g.lmp = (({ g with lmp := e.lmp } : Engine).handInputs (e.session k).mailbox).lmp) ∧
      ((e.session k).kind ≠ some .recordMessage → g.lmp = e.lmp) := by
  have hbegun := begun_within (e := e) (k := k) (bf := bf)
  have hsession := begun_session e k bf
  have hhold := begun_hold e k bf
  by_cases hk : (e.session k).kind = some .recordMessage
  · have hroom : (e.counter (e.session k).mailbox).charged + 1 ≤ (e.boxClass (e.session k).mailbox).quota := Nat.not_lt.1 fun hc => hq ⟨hk, hc⟩
    rw [startBuffer_message hb (decide_eq_true hk) hroom] at hg
    have hcharge := charge_within (e.begun k bf) (e.session k).mailbox (· + 1)
    have hhand := handInputs_within ((e.begun k bf).charge (e.session k).mailbox (· + 1)) (e.session k).mailbox
    have hcount := counter_charge (e.session k).mailbox (· + 1) (e.begun k bf)
    have hlamps := charged_lamps (e.begun k bf) (e.session k).mailbox (· + 1) (.refl _)
    rw [hg] at hhand hlamps
    have hlmp := hbegun.lmp_same rfl
    have hpre := hbegun.counters_same rfl
    generalize e.begun k bf = o1 at *
    generalize o1.charge (e.session k).mailbox (· + 1) = o2 at *
    have hlater : Engine.Within [.counters, .lmp] o1 g := (hcharge.mono rfl).step hhand rfl
    refine ⟨(hbegun.mono rfl).step hlater rfl, fun j => (hlater.sessions_same rfl j).trans (hsession j), fun a => (hlater.holds_same rfl a).trans (hhold a),
      fun a => (hhand.counters_same rfl a).trans ((hcount a).trans ?_), fun _ => hlmp ▸ hlamps, fun hn => absurd hk hn⟩
    by_cases ha : a = (e.session k).mailbox
    · rw [if_pos ha, if_pos ⟨hk, ha⟩, ha, hpre]
    · rw [if_neg ha, if_neg fun hc => ha hc.2, hpre]
  · rw [startBuffer_greeting hb (decide_eq_false hk)] at hg
    subst hg
    refine ⟨hbegun.mono rfl, hsession, hhold, fun a => (hbegun.counters_same rfl a).trans ?_, fun hc => absurd hc hk, fun _ => hbegun.lmp_same rfl⟩
    rw [if_neg fun hc => hk hc.1]

end NextBuffer

/-! ## A full buffer, its session going on (R23, R24, R77) -/

theorem startBuffer_busy {e : Engine} {k : Nat} (hb : (e.session k).bufWith .idle = none) : e.startBuffer k = e.endTake k .storeBusy none := by
  unfold Engine.startBuffer
  dsimp only
  rw [hb]

section FullBuffer
variable (k b : Nat) (y : Session) (e : Engine)

/-- The request that hands a full buffer. -/
def Session.fullRequest (k b : Nat) (y : Session) : ProgReq := { session := k, buf := b, body := y.bodyNo, takeSegment := (y.buf b).holds }

theorem fullHanded_within : Engine.Within [.sessions, .storeQueues] e (e.fullHanded k b y) :=
  ((modSession_within e k (fun _ => y.handed b)).mono (qs := [.sessions, .storeQueues]) rfl).step (queues_within _ _ _) rfl

theorem fullHanded_session (j : Nat) : (e.fullHanded k b y).session j = if j = k then y.handed b else e.session j := session_setSession e k (y.handed b) j

theorem fullHanded_queue : (e.fullHanded k b y).ssc = { e.ssc with progQueue := e.ssc.progQueue ++ [y.fullRequest k b] } := rfl

theorem fullHanded_alone : e.Alone k (e.fullHanded k b y) := by
  refine ⟨fun j hj => ⟨_, (fullHanded_session k b y e j).trans (if_neg hj)⟩, fun r hr => ?_⟩
  rw [fullHanded_queue] at hr
  exact (List.mem_append.1 hr).imp id fun hr => by rw [List.mem_singleton.1 hr]; rfl

theorem handed_same : ∃ b0 b1, y.handed b = { y with buf0 := b0, buf1 := b1 } := setBuf_onlyBufs y b (y.buf b).handed

end FullBuffer

end Sys2Proof.Machine

namespace Sys2Proof.Machine

/-! Proofs about section 3: a window end that fills its buffer, and the statement (R23, R24, R77). -/

section Calm
variable {s : State} (h : s.calm) {k : Nat}
include h

theorem windowEnd_still (hstill : (s.eng.session k).state.recordLive = false ∨ (s.eng.session k).cursor / 64 ≤ (s.eng.session k).windows) :
    exec (.windowEnd k) s = .next s := by
  show Host.Outcome.next (s.onEng (fun e => e.closeWindow k)).finish = _
  rw [State.onEng, closeWindow_still hstill]
  exact congrArg Host.Outcome.next (finish_calm h)

/-- A window end that moves the session on, its buffer not full (R25). -/
theorem windowEnd_moves {y : Session} (hy : y.cursor % 2048 ≠ 0) (hc : s.eng.closeWindow k = (s.eng.setSession k y).fullBuffer k) :
    ∃ t, exec (.windowEnd k) s = .next t ∧ (∀ j, t.eng.session j = if j = k then y else s.eng.session j) ∧ s.keepsBut [.sessions] t := by
  have hfull : (s.eng.setSession k y).fullBuffer k = s.eng.setSession k y := by
    unfold Engine.fullBuffer
    rw [session_setSession_self]
    exact if_neg hy
  have hwork : Engine.Within [.sessions] s.eng (s.eng.setSession k y) := modSession_within s.eng k (fun _ => y)
  refine ⟨{ s with eng := s.eng.setSession k y }, ?_, session_setSession s.eng k y, hwork.keepsBut rfl rfl rfl⟩
  show Host.Outcome.next (s.onEng (fun e => e.closeWindow k)).finish = _
  rw [State.onEng, hc, hfull]
  exact congrArg Host.Outcome.next (finish_nothing (t := { s with eng := s.eng.setSession k y }) h hwork rfl rfl rfl)

variable {b : Nat} {y : Session} (hlive : y.state.recordLive = true) (hcursor : y.cursor % 2048 = 0) (hb : y.bufWith .filling = some b)
  (hc : s.eng.closeWindow k = (s.eng.setSession k y).fullBuffer k)
include hlive hcursor hb hc

omit h in
theorem closeWindow_full : s.eng.closeWindow k = (s.eng.fullHanded k b y).startBuffer k := by
  rw [hc, ← handBuffer_full (k := k) (e := s.eng) hlive hb]
  unfold Engine.fullBuffer
  rw [session_setSession_self]
  exact if_pos hcursor

/-- A full buffer whose take has another idle goes for program, and the other begins (R23, R24, R77, R83). -/
theorem windowEnd_full {o : Nat} (ho : (y.handed b).bufWith .idle = some o)
    (hq : ¬ (y.kind = some .recordMessage ∧ (s.eng.boxClass y.mailbox).quota < (s.eng.counter y.mailbox).charged + 1))
    (hf : s.eng.linkFree = false ∨ s.eng.ssc.freeList ≠ []) :
    ∃ t, exec (.windowEnd k) s = .next t ∧ (∀ j, t.eng.session j = if j = k then (y.handed b).beginning o else s.eng.session j) ∧
      (s.eng.linkFree = false → t.eng.ssc.progQueue = s.eng.ssc.progQueue ++ [y.fullRequest k b] ∧ s.samePart t .link ∧ s.samePart t .pool) ∧
      (s.eng.linkFree = true → ∀ i is, s.eng.ssc.freeList = i :: is → t.eng.ssc.progQueue = [] ∧ t.eng.ssc.link = .allocating (y.fullRequest k b) i true ∧
        t.eng.ssc.freeList = is ∧ (t.eng.segment i).state = .allocated) ∧
      (∀ a, t.eng.hold a = if a = y.bodyNo then { s.eng.hold a with begun := (s.eng.hold a).begun + 1 } else s.eng.hold a) ∧
      (∀ a, t.eng.counter a = if y.kind = some .recordMessage ∧ a = y.mailbox then { s.eng.counter a with charged := (s.eng.counter a).charged + 1 }
        else s.eng.counter a) ∧
      (y.kind = some .recordMessage → s.handsInputs [y.mailbox] t) ∧ (y.kind ≠ some .recordMessage → t.eng.lmp = s.eng.lmp) ∧
      s.keepsBut [.sessions, .pool, .storeQueues, .link, .holds, .counters, .lmp, .outbox, .flags, .segments, .writes] t := by
  have hwork := fullHanded_within k b y s.eng
  have hsessions := fullHanded_session k b y s.eng
  have hqueue := fullHanded_queue k b y s.eng
  have hstands := stands_of_calm h k hwork (by rw [hqueue]) (fullHanded_alone k b y s.eng)
  have hself := (hsessions k).trans (if_pos rfl)
  have hclose := closeWindow_full hlive hcursor hb hc
  obtain ⟨b0, b1, hbufs⟩ := handed_same b y
  have hkind : (y.handed b).kind = y.kind := by rw [hbufs]
  have hmailbox : (y.handed b).mailbox = y.mailbox := by rw [hbufs]
  have hbodyNo : (y.handed b).bodyNo = y.bodyNo := by rw [hbufs]; rfl
  have hboxes : (s.eng.fullHanded k b y).boxClass y.mailbox = s.eng.boxClass y.mailbox := rfl
  have hfree : (s.eng.fullHanded k b y).linkFree = s.eng.linkFree := rfl
  generalize s.eng.fullHanded k b y = e at *
  obtain ⟨g, hg⟩ : ∃ g, e.startBuffer k = g := ⟨_, rfl⟩
  obtain ⟨hbegins, hsession, hhold, hcounter, hlamps, hstill⟩ := startBuffer_begins (bf := o) (by rw [hself, ho])
    (by rw [hself, hkind, hmailbox, hboxes, hwork.counters_same rfl]; exact hq) hg
  have hssc : g.ssc = e.ssc := ssc_of_within hbegins rfl
  have hgfree : g.linkFree = s.eng.linkFree := (linkFree_congr (by rw [hssc]) (by rw [hssc]) (hbegins.keeps .channel rfl).2.2.2).trans hfree
  have hgdle : g.dle = e.dle := hbegins.keeps .dle rfl
  have hsettled : g.Settled g.settle := settle_settled (by rw [hgdle]; exact hstands.due) (by rw [hgfree, ← hfree, hssc]; exact hstands.reads)
    (by rw [hgfree, hssc, hqueue]; exact hf.imp id .inr)
  have hlate := hsettled.within
  have hall : Engine.Within [.sessions, .pool, .storeQueues, .link, .holds, .counters, .lmp, .outbox, .flags, .segments, .writes] s.eng g.settle :=
    ((hwork.mono rfl).step hbegins rfl).step hlate rfl
  have hin : g.mgc.inbox = [] := ((hbegins.keeps .channel rfl).2.1.trans (hwork.keeps .channel rfl).2.1).trans h.2
  rw [hself] at hsession hhold hcounter hlamps hstill
  simp only [hkind, hmailbox, hbodyNo] at hhold hcounter hlamps hstill
  rw [hwork.lmp_same rfl] at hlamps hstill
  have hexec : exec (.windowEnd k) s = .next { s with eng := g.settle } := by
    show Host.Outcome.next (s.onEng (fun e => e.closeWindow k)).finish = _
    rw [State.onEng, hclose, hg]
    exact congrArg Host.Outcome.next (finish_settle (s := { s with eng := g }) hin)
  refine ⟨{ s with eng := g.settle }, hexec, fun j => ?_, fun hbusy => ?_, fun hidle i is hlist => ?_, fun a => ?_, fun a => ?_, fun hm => ?_, fun hm => ?_,
    hall.keepsBut rfl rfl rfl⟩
  · refine (hlate.sessions_same rfl j).trans ((hsession j).trans ?_)
    rw [hsessions]
    by_cases hj : j = k
    · rw [if_pos hj, if_pos hj]
    · rw [if_neg hj, if_neg hj, if_neg hj]
  · have hsame : g.settle.ssc = { s.eng.ssc with progQueue := s.eng.ssc.progQueue ++ [y.fullRequest k b] } :=
      (hsettled.busy (hgfree.trans hbusy)).trans (hssc.trans hqueue)
    unfold State.samePart
    dsimp only
    rw [hsame]
    exact ⟨rfl, ⟨rfl, rfl⟩, rfl, rfl, rfl⟩
  · have hempty : s.eng.ssc.progQueue = [] := (h.1.2.2.resolve_left (by rw [hidle]; decide)).1
    exact hsettled.starts (hgfree.trans hidle) _ _ _ _ (by rw [hssc, hqueue, hempty]; rfl) (by rw [hssc, hqueue]; exact hlist)
  · exact (hlate.holds_same rfl a).trans ((hhold a).trans (by rw [hwork.holds_same rfl]))
  · exact (hlate.counters_same rfl a).trans ((hcounter a).trans (by rw [hwork.counters_same rfl]))
  · exact lamps_within (hlamps hm) hlate rfl
  · exact (hlate.lmp_same rfl).trans (hstill hm)

omit h in
/-- A full buffer of a take that has no other idle (R24). -/
theorem windowEnd_busy (ho : (y.handed b).bufWith .idle = none) : s.eng.closeWindow k = (s.eng.fullHanded k b y).endTake k .storeBusy none := by
  rw [closeWindow_full hlive hcursor hb hc]
  exact startBuffer_busy (by rw [fullHanded_session, if_pos rfl, ho])

omit h in
/-- A full buffer of a message whose mailbox has no quota left for another (R24). -/
theorem windowEnd_quota {o : Nat} (ho : (y.handed b).bufWith .idle = some o) (hk : y.kind = some .recordMessage)
    (hover : (s.eng.boxClass y.mailbox).quota < (s.eng.counter y.mailbox).charged + 1) :
    s.eng.closeWindow k = (s.eng.fullHanded k b y).endTake k .quota none := by
  obtain ⟨b0, b1, hbufs⟩ := handed_same b y
  have hself : (s.eng.fullHanded k b y).session k = y.handed b := (fullHanded_session k b y s.eng k).trans (if_pos rfl)
  have hmailbox : ((s.eng.fullHanded k b y).session k).mailbox = y.mailbox := by rw [hself, hbufs]
  rw [closeWindow_full hlive hcursor hb hc]
  refine startBuffer_quota (by rw [hself, ho]) (by rw [hself, hbufs]; exact hk) ?_
  rw [hmailbox]
  exact hover

end Calm

/-- Settles O55. -/
theorem windowEndsMoveTheTake : Obligations.WindowEndsMoveTheTake := by
  unfold Obligations.WindowEndsMoveTheTake
  intro s k m sn h x n
  refine ⟨windowEnd_still h, fun hl hw hm hsn => ?_⟩
  intro goesOn closed ends
  have hclose : ∀ {st}, goesOn st → s.eng.closeWindow k = (s.eng.setSession k { closed with state := st }).fullBuffer k := fun hg =>
    closeWindow_goesOn hl hw hm hsn hg
  have hlive : ∀ {st}, goesOn st → st.recordLive = true := fun hg => goesOn_live (n := n) (sn := sn) (x := x) hg
  have hends : ∀ {c : Cause}, s.eng.closeWindow k = (s.eng.setSession k closed).endTake k c none → ends (s.eng.setSession k closed) c :=
    windowEnd_ends h k ((modSession_within s.eng k (fun _ => closed)).mono rfl) rfl (.modSession k _ s.eng)
  refine ⟨fun hx st hg => windowEnd_moves (y := { closed with state := st }) h hx (hclose hg), fun hx st b hg hb => ?_,
    fun hs ho hn => hends (closeWindow_noSpeech hl hw hm hsn hs ho hn), fun hs hn => hends (closeWindow_silence hl hw hm hsn hs hn),
    fun hs hn hmax => hends (closeWindow_maxLength hl hw hm hsn hs hn hmax)⟩
  intro handed req charged overQuota
  let y : Session := { closed with state := st }
  have hfull : ∀ {c : Cause}, s.eng.closeWindow k = (s.eng.fullHanded k b y).endTake k c none → ends (s.eng.fullHanded k b y) c :=
    windowEnd_ends h k (fullHanded_within k b y s.eng) rfl (fullHanded_alone k b y s.eng)
  have hbegin : ∀ o, handed.beginning o = handed.setBuf o { handed.buf o with role := .filling, holds := x.cursor / 2048 } := fun o => by
    obtain ⟨b0, b1, hbufs⟩ := handed_same b y
    have hcursor : (y.handed b).cursor = x.cursor := by rw [hbufs]
    exact congrArg (fun c => handed.setBuf o { handed.buf o with role := .filling, holds := c / 2048 }) hcursor
  refine ⟨fun o ho hq hf => ?_, fun ho => hfull (windowEnd_busy (y := y) (hlive hg) hx hb (hclose hg) ho),
    fun o ho hover => hfull (windowEnd_quota (y := y) (hlive hg) hx hb (hclose hg) ho hover.1 hover.2)⟩
  rw [← hbegin o]
  exact windowEnd_full (y := y) h (hlive hg) hx hb (hclose hg) ho hq hf

end Sys2Proof.Machine

namespace Sys2Proof.Machine

/-! Proofs about section 4: a program that finds no segment, its session's filling buffer within what is programmed (R64, R66, R78). -/

/-- A greeting take whose filling buffer holds a take segment counted programmed. -/
def Session.fillsProgrammed : Session :=
  { Session.reset with
    kind := some .recordGreeting, state := .taking, body := some 1, cursor := 64, windows := 1, meter := some { Meter.start with onset := some 0 },
    snap := some { mask := 0, tOn := 0, tOff := 0, margin := 0, preRoll := 0, hangover := 0, endSilenceWindows := 0, noSpeechWindows := 0,
                   maxSamples := 0, minSamples := 0 },
    programmed := 1, buf0 := { Session.reset.buf0 with role := .filling } }

/-- A part in SERVICE, no segment ERASED or DIRTY, whose program queue is full enough to go before a read (R77). -/
def Engine.pressed : Engine :=
  ({ Engine.reset Catalogue.blank [] with ssc := { Ssc.reset [] with
    service := .service, progQueue := List.replicate 32 { session := 0, buf := 1, body := 1, takeSegment := 0 },
    readQueue := [{ session := 1, buf := 0, segment := 0 }] } }).setSession 0 Session.fillsProgrammed

/-- The failed program's take hands that buffer as it ends, and the read goes before the request it leaves. -/
theorem pressed_queue : Engine.pressed.settle.ssc.progQueue ≠ [] := by decide +kernel

/-- Refutes O56: the program that fails STORE_FULL ends its take kept, the filling buffer, inside the run kept, goes for program as R64 has it, and where a
read waits the arbiter, the queue now short, takes the read and leaves that request waiting. The statement asks for an empty queue without the condition,
given to its later clauses, that the filling buffer lies behind what is programmed. -/
theorem not_arbiterTakesTheFirstRow : ¬ Obligations.ArbiterTakesTheFirstRow := by
  unfold Obligations.ArbiterTakesTheFirstRow
  intro h
  obtain ⟨-, hservice⟩ := h Engine.pressed rfl rfl
  obtain ⟨-, -, -, -, -, hfails⟩ := hservice rfl nofun rfl
  obtain ⟨-, hends⟩ := hfails { session := 0, buf := 1, body := 1, takeSegment := 0 }
    (List.replicate 31 { session := 0, buf := 1, body := 1, takeSegment := 0 }) _ rfl
    (fun q hq => by rw [List.eq_of_mem_replicate hq]) rfl rfl (.inl (Nat.le_refl 32)) rfl
  obtain ⟨hqueue, -⟩ := hends 0 64 (.inl ⟨rfl, { Meter.start with onset := some 0 }, 0, rfl, rfl, rfl, rfl⟩)
  exact pressed_queue hqueue

end Sys2Proof.Machine

namespace Sys2Proof.Machine

/-! Proofs about section 4: the ends of reads (R79, R81, R82). -/

/-! ## An end of no operation in flight -/

section NoOperation
variable {s : State} (h : s.calm)
include h

theorem readComplete_none (good : Bool) (hl : ∀ r n, s.eng.ssc.link ≠ .reading r n) : exec (.readComplete good) s = .next s := by
  have hsame : s.eng.readComplete good = s.eng := by
    unfold Engine.readComplete
    split
    · next r n hr => exact absurd hr (hl r n)
    · rfl
  show Host.Outcome.next (s.onEng (fun e => e.readComplete good)).finish = _
  rw [State.onEng, hsame]
  exact congrArg Host.Outcome.next (finish_calm h)

theorem programComplete_none (good : Bool) (hl : ∀ r i w, s.eng.ssc.link ≠ .programming r i w) : exec (.programComplete good) s = .next s := by
  have hsame : s.eng.programComplete good = s.eng := by
    unfold Engine.programComplete
    split
    · next r i w hr => exact absurd hr (hl r i w)
    · rfl
  show Host.Outcome.next (s.onEng (fun e => e.programComplete good)).finish = _
  rw [State.onEng, hsame]
  exact congrArg Host.Outcome.next (finish_calm h)

theorem eraseComplete_none (good : Bool) (hl : ∀ i, s.eng.ssc.link ≠ .erasing i) : exec (.eraseComplete good) s = .next s := by
  have hsame : s.eng.eraseComplete good = s.eng := by
    unfold Engine.eraseComplete
    split
    · next i hr => exact absurd hr (hl i)
    · rfl
  show Host.Outcome.next (s.onEng (fun e => e.eraseComplete good)).finish = _
  rw [State.onEng, hsame]
  exact congrArg Host.Outcome.next (finish_calm h)

theorem opTimeout_none (hl : s.eng.ssc.link = .idle ∨ s.eng.ssc.link = .recording) : exec .storeOpTimeout s = .next s := by
  have hsame : s.eng.opTimeout = s.eng := by
    unfold Engine.opTimeout
    rcases hl with hl | hl <;> rw [hl]
  show Host.Outcome.next (s.onEng Engine.opTimeout).finish = _
  rw [State.onEng, hsame]
  exact congrArg Host.Outcome.next (finish_calm h)

end NoOperation

/-! ## What a fetch leaves of the other buffer -/

theorem fetching_onlyBufs : ∀ (w : List (Nat × Nat)) (x : Session), x.OnlyBufs (x.fetching w)
  | [], x => .refl x
  | (b, p) :: w, x => by
    rw [fetching_cons]
    exact (setBuf_onlyBufs x b _).trans (fetching_onlyBufs w _)

theorem fetching_buf {b : Nat} : ∀ (w : List (Nat × Nat)) (x : Session), (∀ bp ∈ w, ¬ (bp.1 = 0 ↔ b = 0)) → (x.fetching w).buf b = x.buf b
  | [], _, _ => rfl
  | (c, p) :: w, x, h => by
    rw [fetching_cons, fetching_buf w _ fun bp hbp => h bp (List.mem_cons_of_mem _ hbp), Session.reads, buf_setBuf_iff, if_neg (h _ List.mem_cons_self)]

theorem buf_congr {a b : Nat} (h : a = 0 ↔ b = 0) (x : Session) : x.buf a = x.buf b := by
  unfold Session.buf
  by_cases ha : a = 0
  · rw [if_pos ha, if_pos (h.1 ha)]
  · rw [if_neg ha, if_neg fun hb => ha (h.2 hb)]

theorem fetches_idle {x : Session} {chain : List Nat} {offset : Nat} {bp : Nat × Nat} (h : bp ∈ x.fetches chain offset) : (x.buf bp.1).role = .idle := by
  rw [fetches_eq] at h
  split at h
  · have hidle := (List.of_mem_zip h).1
    exact of_decide_eq_true (List.mem_filter.1 hidle).2
  · cases h

/-- A buffer that is not idle stands through a fetch. -/
theorem fetching_busy {x : Session} {b : Nat} (hb : (x.buf b).role ≠ .idle) (chain : List Nat) (offset : Nat) :
    (x.fetching (x.fetches chain offset)).buf b = x.buf b :=
  fetching_buf _ x fun bp hbp hc => hb ((congrArg Buffer.role (buf_congr hc x)).symm.trans (fetches_idle hbp))

/-! ## A read handed to its session (R31, R33) -/

/-- The segment that a buffer holds is the current one. -/
def Engine.isCurrent (b : Nat) (x : Session) (e : Engine) : Prop := (x.buf b).holds = (x.cursor + e.offsetOf x.bodyNo) / 2048

section Handed
variable (k b : Nat) (e : Engine)

theorem readHanded_within : Engine.Within [.sessions, .storeQueues] e (e.readHanded k b) := by
  have hbuf : ∀ f, Engine.Within [.sessions] e (e.modBuf k b f) := fun f => modBuf_within e k b f
  unfold Engine.readHanded
  dsimp only
  refine Engine.Within.step (ps := [.sessions, .storeQueues]) (Engine.Within.mono (ps := [.sessions]) ?_ rfl) (fetch_within _ k) rfl
  exact .ite ((hbuf _).step (modSession_within _ _ _) rfl) (hbuf _)

theorem readHanded_programs : (e.readHanded k b).ssc.progQueue = e.ssc.progQueue ∧ (e.readHanded k b).ssc.link = e.ssc.link ∧
    (e.readHanded k b).ssc.eraseQueue = e.ssc.eraseQueue := by
  have hfetch : ∀ g : Engine, g.ssc = e.ssc → (g.fetch k).ssc.progQueue = e.ssc.progQueue ∧ (g.fetch k).ssc.link = e.ssc.link ∧
      (g.fetch k).ssc.eraseQueue = e.ssc.eraseQueue := fun g hg => by
    obtain ⟨-, -, hssc⟩ := fetch_spec k (e := g) rfl rfl rfl
    rw [hssc, hg]
    exact ⟨rfl, rfl, rfl⟩
  unfold Engine.readHanded
  dsimp only
  split
  · exact hfetch _ rfl
  · exact hfetch _ rfl

/-- What a handed read leaves of its session. -/
theorem readHanded_session {x : Session} (hx : e.session k = x) :
    (((e.isCurrent b x → (((e.readHanded k b).session k).buf b).role = .playing) ∧
      (¬ e.isCurrent b x → (((e.readHanded k b).session k).buf b).role = .prefetched)) ∧
      (((e.readHanded k b).session k).buf b).samples = (x.buf b).samples) ∧
      (e.isCurrent b x → x.state = .fetching ∨ x.state = .stalled → ((e.readHanded k b).session k).state = .playing) ∧
      (¬ e.isCurrent b x ∨ (x.state ≠ .fetching ∧ x.state ≠ .stalled) → ((e.readHanded k b).session k).state = x.state) ∧
      ((e.readHanded k b).session k).readFaults = x.readFaults := by
  have hplaced : ∀ {g : Engine} {y : Session} {role : BufRole} {st : SessState}, g.session k = y → role ≠ .idle →
      y.buf b = { x.buf b with role := role } → y.state = st → y.readFaults = x.readFaults →
      ((((g.fetch k).session k).buf b).role = role ∧ (((g.fetch k).session k).buf b).samples = (x.buf b).samples) ∧ ((g.fetch k).session k).state = st ∧
        ((g.fetch k).session k).readFaults = x.readFaults := by
    intro g y role st hy hrole hbuf hst hf
    obtain ⟨hsession, -, -⟩ := fetch_spec k (e := g) hy rfl rfl
    obtain ⟨b0, b1, honly⟩ := fetching_onlyBufs (y.fetches (g.chain y.bodyNo) (g.offsetOf y.bodyNo)) y
    have hstays := fetching_busy (x := y) (b := b) (by rw [hbuf]; exact hrole) (g.chain y.bodyNo) (g.offsetOf y.bodyNo)
    rw [hsession, hstays, hbuf, honly]
    exact ⟨⟨rfl, rfl⟩, hst, hf⟩
  have hbuf : ∀ role, (e.modBuf k b (fun v => { v with role := role })).session k = x.setBuf b { x.buf b with role := role } := fun role => by
    rw [session_modBuf, if_pos rfl, hx]
  have honly : ∀ v, (x.setBuf b v).state = x.state ∧ (x.setBuf b v).readFaults = x.readFaults := fun v => by
    obtain ⟨b0, b1, h⟩ := setBuf_onlyBufs x b v
    rw [h]
    exact ⟨rfl, rfl⟩
  unfold Engine.readHanded
  dsimp only
  rw [hx]
  by_cases hc : e.isCurrent b x
  · have hcur : decide ((x.buf b).holds = x.currentPos (e.offsetOf x.bodyNo)) = true := decide_eq_true hc
    rw [hcur, if_pos rfl, Bool.true_and]
    by_cases hst : x.state = .fetching ∨ x.state = .stalled
    · have hbool : (decide (x.state = .fetching) || decide (x.state = .stalled)) = true := by
        rw [Bool.or_eq_true, decide_eq_true_iff, decide_eq_true_iff]
        exact hst
      rw [if_pos hbool]
      obtain ⟨⟨hrole, hsamples⟩, hstate, hfaults⟩ := hplaced (g := (e.modBuf k b (fun v => { v with role := .playing })).modSession k
        (fun y => { y with state := .playing })) (role := .playing) (st := .playing) rfl nofun
        (by rw [session_modSession_self, hbuf]; exact buf_setBuf x b _) (by rw [session_modSession_self])
        (by rw [session_modSession_self, hbuf]; exact (honly _).2)
      exact ⟨⟨⟨fun _ => hrole, fun hn => absurd hc hn⟩, hsamples⟩, fun _ _ => hstate, fun hn => (hn.elim (absurd hc) fun hs => absurd hst (not_or.2 hs)), hfaults⟩
    · have hbool : ¬ (decide (x.state = .fetching) || decide (x.state = .stalled)) = true := by
        rw [Bool.or_eq_true, decide_eq_true_iff, decide_eq_true_iff]
        exact hst
      rw [if_neg hbool]
      obtain ⟨⟨hrole, hsamples⟩, hstate, hfaults⟩ := hplaced (hbuf .playing) (role := .playing) nofun (buf_setBuf x b _) (honly _).1 (honly _).2
      exact ⟨⟨⟨fun _ => hrole, fun hn => absurd hc hn⟩, hsamples⟩, fun _ hs => absurd hs hst, fun _ => hstate, hfaults⟩
  · have hcur : decide ((x.buf b).holds = x.currentPos (e.offsetOf x.bodyNo)) = false := decide_eq_false hc
    rw [hcur, if_neg Bool.false_ne_true, Bool.false_and, if_neg Bool.false_ne_true]
    obtain ⟨⟨hrole, hsamples⟩, hstate, hfaults⟩ := hplaced (hbuf .prefetched) (role := .prefetched) nofun (buf_setBuf x b _) (honly _).1 (honly _).2
    exact ⟨⟨⟨fun hc' => absurd hc' hc, fun _ => hrole⟩, hsamples⟩, fun hc' => absurd hc' hc, fun _ => hstate, hfaults⟩

end Handed

end Sys2Proof.Machine

namespace Sys2Proof.Machine

/-! Proofs about section 4: the commands that end a read (R79, R81, R82). -/

/-- The causes by which a read in flight fails: the device's check, or time. -/
theorem readFails_by {s : State} {r : ReadReq} {n : Nat} (hl : s.eng.ssc.link = .reading r n) {c : Instr} (hc : c = .readComplete false ∨ c = .storeOpTimeout) :
    ∃ cause, exec c s = .next (State.finish { s with eng := s.eng.readEnds r n (some cause) }) := by
  rcases hc with rfl | rfl
  · refine ⟨.check, ?_⟩
    show Host.Outcome.next (s.onEng (fun e => e.readComplete false)).finish = _
    rw [State.onEng, Engine.readComplete, hl]
    rfl
  · refine ⟨.time, ?_⟩
    show Host.Outcome.next (s.onEng Engine.opTimeout).finish = _
    rw [State.onEng, Engine.opTimeout, hl]

theorem readDone_by {s : State} {r : ReadReq} {n : Nat} (hl : s.eng.ssc.link = .reading r n) :
    exec (.readComplete true) s = .next (State.finish { s with eng := s.eng.readEnds r n none }) := by
  show Host.Outcome.next (s.onEng (fun e => e.readComplete true)).finish = _
  rw [State.onEng, Engine.readComplete, hl]
  rfl

/-- Work that asks for no write and leaves no program waiting: the arbiter starts a read, an erase or nothing. -/
theorem finish_startNext {s : State} {g : Engine} {ps : List Part} (hin : s.eng.mgc.inbox = []) (ha : s.eng.asked = []) (hd : s.eng.dle.due = none)
    (k : Engine.Within ps s.eng g) (hps : partsApart [.dle, .channel, .writes] ps = true) (hp : g.ssc.progQueue = []) :
    State.finish { s with eng := g } = { s with eng := g.startNext } := by
  have hout : ∀ p ∈ [Part.dle, .channel, .writes], decide (p ∈ ps) = false := fun p hm => decide_eq_false (not_mem_of_partsApart hps hm)
  have hdle : g.dle = s.eng.dle := k.keeps .dle (hout _ (by simp))
  obtain ⟨-, hin', -, -⟩ : _ ∧ g.mgc.inbox = s.eng.mgc.inbox ∧ _ ∧ g.mgc.restart = s.eng.mgc.restart := k.keeps .channel (hout _ (by simp))
  obtain ⟨-, hasked⟩ := k.writes_same (hout _ (by simp))
  rw [finish_settle (s := { s with eng := g }) (hin'.trans hin), State.onEng, settle_quiet (e := g) (by rw [hdle]; exact hd) (.inr hp),
    flush_none (hasked.trans ha)]

section Read
variable {s : State} (hin : s.eng.mgc.inbox = []) (ha : s.eng.asked = []) (hd : s.eng.dle.due = none)
include hin ha hd

/-- A read repeated waits in flight. -/
theorem read_repeated {r : ReadReq} (hl : s.eng.ssc.link = .reading r 1) (hrole : ((s.eng.session r.session).buf r.buf).role ≠ .stale) {c : Instr}
    (hc : c = .readComplete false ∨ c = .storeOpTimeout) :
    exec c s = .next (s.onEng (fun e => e.modSsc (fun c => { c with link := .reading r 2, opTimer := 0 }))) := by
  obtain ⟨cause, hexec⟩ := readFails_by hl hc
  have hends : s.eng.readEnds r 1 (some cause) = s.eng.modSsc (fun c => { c with link := .reading r 2, opTimer := 0 }) := by
    unfold Engine.readEnds
    dsimp only
    rw [if_neg hrole]
    rfl
  rw [hexec, hends]
  exact congrArg Host.Outcome.next (finish_calm ⟨atRest_of_busy ha hd nofun, hin⟩)

/-- A read that its session takes: what it leaves there, and what the arbiter does next. -/
theorem read_handed {h : Engine} {r : ReadReq} {ps qs : List Part} (hp : s.eng.ssc.progQueue = []) (k : Engine.Within ps s.eng h)
    (hps : partsApart [.storeQueues, .bodies] ps = true) (hqs : partsApart [.dle, .channel, .writes] qs = true)
    (hsub : partsIn (.sessions :: .storeQueues :: .link :: ps) qs = true) {x : Session} (hx : h.session r.session = x) :
    ∃ t, State.finish { s with eng := h.readHanded r.session r.buf } = t ∧ t.eng.mgc = h.mgc ∧
      ((t.eng.session r.session).buf r.buf).samples = (x.buf r.buf).samples ∧
      ((t.eng.session r.session).buf r.buf).role = (if (x.buf r.buf).holds = (x.cursor + s.eng.offsetOf x.bodyNo) / 2048 then .playing else .prefetched) ∧
      ((x.buf r.buf).holds = (x.cursor + s.eng.offsetOf x.bodyNo) / 2048 → x.state = .fetching ∨ x.state = .stalled →
        (t.eng.session r.session).state = .playing) ∧
      ((x.buf r.buf).holds ≠ (x.cursor + s.eng.offsetOf x.bodyNo) / 2048 ∨ (x.state ≠ .fetching ∧ x.state ≠ .stalled) →
        (t.eng.session r.session).state = x.state) ∧
      (t.eng.session r.session).readFaults = x.readFaults ∧ s.keepsBut qs t := by
  have hhand := readHanded_within r.session r.buf h
  obtain ⟨hprog, -, -⟩ := readHanded_programs r.session r.buf h
  obtain ⟨⟨⟨hplaying, hprefetched⟩, hsamples⟩, hstarts, hstays, hfaults⟩ := readHanded_session r.session r.buf h hx
  have hoffset : h.offsetOf x.bodyNo = s.eng.offsetOf x.bodyNo := by
    unfold Engine.offsetOf
    rw [k.bodies_same (decide_eq_false (not_mem_of_partsApart hps (by simp)))]
  unfold Engine.isCurrent at hplaying hprefetched hstarts hstays
  rw [hoffset] at hplaying hprefetched hstarts hstays
  have hqueue : h.ssc.progQueue = s.eng.ssc.progQueue := (k.keeps .storeQueues (decide_eq_false (not_mem_of_partsApart hps (by simp)))).2
  have hmgc := mgc_within hhand rfl
  generalize h.readHanded r.session r.buf = g at *
  have hin' : ∀ p ∈ [Part.sessions, .storeQueues, .link], p ∈ qs := fun p hp' => mem_of_partsIn hsub (by
    rcases List.mem_cons.1 hp' with rfl | hp'
    · simp
    · rcases List.mem_cons.1 hp' with rfl | hp'
      · simp
      · simp [List.mem_singleton.1 hp'])
  have hall : Engine.Within qs s.eng g := (k.mono (List.all_eq_true.2 fun p hp' => decide_eq_true (mem_of_partsIn hsub (by simp [hp'])))).step hhand
    (List.all_eq_true.2 fun p hp' => decide_eq_true (hin' p (by simp only [List.mem_cons] at hp' ⊢; tauto)))
  have hnext := startNext_parts g
  have hmgc' := mgc_within hnext rfl
  have hfinal : Engine.Within qs s.eng g.startNext := hall.step hnext
    (List.all_eq_true.2 fun p hp' => decide_eq_true (hin' p (by simp only [List.mem_cons] at hp' ⊢; tauto)))
  have hsession : g.startNext.session r.session = g.session r.session := hnext.sessions_same rfl _
  refine ⟨{ s with eng := g.startNext }, finish_startNext hin ha hd hall hqs (hprog.trans (hqueue.trans hp)), hmgc'.trans hmgc, ?_, ?_, fun hc hs => ?_,
    fun hc => ?_, ?_, hfinal.keepsBut rfl rfl rfl⟩
  · exact hsession ▸ hsamples
  · dsimp only
    rw [hsession]
    split
    · next hc => exact hplaying hc
    · next hc => exact hprefetched hc
  · exact hsession ▸ hstarts hc hs
  · exact hsession ▸ hstays hc
  · exact hsession ▸ hfaults

variable {r : ReadReq} {n : Nat} (hl : s.eng.ssc.link = .reading r n) (hp : s.eng.ssc.progQueue = [])
  (hrole : ((s.eng.session r.session).buf r.buf).role ≠ .stale)
include hl hp hrole

/-- A read that succeeds (R81). -/
theorem read_succeeds : ∃ t, exec (.readComplete true) s = .next t ∧
    ((t.eng.session r.session).buf r.buf).samples = Tab.get [] s.eng.ssc.flash r.segment ∧
    ((t.eng.session r.session).buf r.buf).role = (if ((s.eng.session r.session).buf r.buf).holds =
      ((s.eng.session r.session).cursor + s.eng.offsetOf (s.eng.session r.session).bodyNo) / 2048 then .playing else .prefetched) ∧
    (((s.eng.session r.session).buf r.buf).holds = ((s.eng.session r.session).cursor + s.eng.offsetOf (s.eng.session r.session).bodyNo) / 2048 →
      (s.eng.session r.session).state = .fetching ∨ (s.eng.session r.session).state = .stalled → (t.eng.session r.session).state = .playing) ∧
    (((s.eng.session r.session).buf r.buf).holds ≠ ((s.eng.session r.session).cursor + s.eng.offsetOf (s.eng.session r.session).bodyNo) / 2048 ∨
      ((s.eng.session r.session).state ≠ .fetching ∧ (s.eng.session r.session).state ≠ .stalled) →
      (t.eng.session r.session).state = (s.eng.session r.session).state) ∧
    (t.eng.session r.session).readFaults = (s.eng.session r.session).readFaults ∧ s.keepsBut [.sessions, .storeQueues, .link] t := by
  have hends : s.eng.readEnds r n none =
      ((s.eng.modBuf r.session r.buf (fun b => { b with samples := Tab.get [] s.eng.ssc.flash r.segment })).freeLink).readHanded r.session r.buf := by
    unfold Engine.readEnds
    dsimp only
    rw [if_neg hrole]
  have hwork : Engine.Within [.sessions, .link] s.eng
      (s.eng.modBuf r.session r.buf (fun b => { b with samples := Tab.get [] s.eng.ssc.flash r.segment })).freeLink :=
    ((modBuf_within s.eng r.session r.buf _).mono rfl).step (link_within _ .idle _) rfl
  have hsession : (s.eng.modBuf r.session r.buf (fun b => { b with samples := Tab.get [] s.eng.ssc.flash r.segment })).freeLink.session r.session =
      (s.eng.session r.session).setBuf r.buf { (s.eng.session r.session).buf r.buf with samples := Tab.get [] s.eng.ssc.flash r.segment } :=
    (session_modBuf s.eng r.session r.buf (fun b => { b with samples := Tab.get [] s.eng.ssc.flash r.segment }) r.session).trans (if_pos rfl)
  rw [readDone_by hl, hends]
  generalize (s.eng.modBuf r.session r.buf (fun b => { b with samples := Tab.get [] s.eng.ssc.flash r.segment })).freeLink = h at *
  obtain ⟨t, ht, -, hspec⟩ := read_handed hin ha hd hp hwork rfl (qs := [.sessions, .storeQueues, .link]) rfl rfl hsession
  obtain ⟨b0, b1, honly⟩ := setBuf_onlyBufs (s.eng.session r.session) r.buf
    { (s.eng.session r.session).buf r.buf with samples := Tab.get [] s.eng.ssc.flash r.segment }
  rw [buf_setBuf] at hspec
  rw [honly] at hspec
  exact ⟨t, congrArg Host.Outcome.next ht, hspec⟩

/-- A read that fails a second time (R81, R82). -/
theorem read_fails (hn : n ≠ 1) {c : Instr} (hc : c = .readComplete false ∨ c = .storeOpTimeout) :
    ∃ t, exec c s = .next t ∧ (∀ i, Tab.get 0 ((t.eng.session r.session).buf r.buf).samples i = 0) ∧
      (t.eng.session r.session).readFaults = min 65535 ((s.eng.session r.session).readFaults + 1) ∧ t.flagged .storeFault ∧
      s.keepsBut [.sessions, .storeQueues, .link, .outbox, .flags] t := by
  obtain ⟨cause, hexec⟩ := readFails_by hl hc
  obtain ⟨h, hh⟩ : ∃ h, (((s.eng.modBuf r.session r.buf (fun b => { b with samples := [] })).modSession r.session
      (fun x => { x with readFaults := min 65535 (x.readFaults + 1) })).freeLink).raiseStoreFault .read r.segment cause (some r.session) = h := ⟨_, rfl⟩
  have hends : s.eng.readEnds r n (some cause) = h.readHanded r.session r.buf := by
    unfold Engine.readEnds
    dsimp only
    rw [if_neg hrole, if_neg hn, hh]
  have hwork : Engine.Within [.sessions, .link, .outbox, .flags] s.eng h := by
    rw [← hh]
    exact ((((modBuf_within s.eng r.session r.buf _).mono rfl).step (modSession_within _ _ _) rfl).step (link_within _ .idle _) rfl).step (raise_within _ _ _) rfl
  have hflag : h.mgc.flags &&& NoticeKind.storeFault.bit = NoticeKind.storeFault.bit := by
    rw [← hh]
    exact raise_flagged _ _ _
  have hsession : h.session r.session = { (s.eng.session r.session).setBuf r.buf { (s.eng.session r.session).buf r.buf with samples := [] } with
      readFaults := min 65535 ((s.eng.session r.session).readFaults + 1) } := by
    obtain ⟨b0, b1, honly⟩ := setBuf_onlyBufs (s.eng.session r.session) r.buf { (s.eng.session r.session).buf r.buf with samples := [] }
    rw [← hh]
    refine (session_modSession_self (s.eng.modBuf r.session r.buf (fun b => { b with samples := [] })) r.session
      (fun x => { x with readFaults := min 65535 (x.readFaults + 1) })).trans ?_
    rw [session_modBuf, if_pos rfl, honly]
  rw [hexec, hends]
  obtain ⟨t, ht, hmgc, hsamples, -, -, -, hfaults, hkeeps⟩ :=
    read_handed hin ha hd hp hwork rfl (qs := [.sessions, .storeQueues, .link, .outbox, .flags]) rfl rfl hsession
  have hempty : ((t.eng.session r.session).buf r.buf).samples = [] := hsamples.trans (congrArg Buffer.samples (buf_setBuf (s.eng.session r.session) r.buf _))
  refine ⟨t, congrArg Host.Outcome.next ht, fun i => ?_, hfaults, ?_, hkeeps⟩
  · rw [hempty]
    rfl
  · show t.eng.mgc.flags &&& _ = _
    rw [hmgc]
    exact hflag

end Read

end Sys2Proof.Machine

namespace Sys2Proof.Machine

/-! Proofs about section 4: the end of a stale read (R18, R30, R75). -/

section Stale
variable {s : State} {r : ReadReq} {n : Nat} (hl : s.eng.ssc.link = .reading r n) (hrole : ((s.eng.session r.session).buf r.buf).role = .stale)
include hl hrole

omit hl in
theorem readEnds_stale (f : Option StoreCause) :
    s.eng.readEnds r n f = ((s.eng.modBuf r.session r.buf Buffer.idled).freeLink).fetch r.session := by
  unfold Engine.readEnds
  dsimp only
  rw [if_pos hrole]

/-- A stale read ends, however it ends. -/
theorem exec_stale {good : Bool} {c : Instr} (hc : c = .readComplete good ∨ c = .storeOpTimeout) :
    exec c s = .next (State.finish { s with eng := ((s.eng.modBuf r.session r.buf Buffer.idled).freeLink).fetch r.session }) := by
  rcases hc with rfl | rfl
  · show Host.Outcome.next (s.onEng (fun e => e.readComplete good)).finish = _
    rw [State.onEng, Engine.readComplete, hl]
    dsimp only
    rw [readEnds_stale hrole]
  · show Host.Outcome.next (s.onEng Engine.opTimeout).finish = _
    rw [State.onEng, Engine.opTimeout, hl]
    dsimp only
    rw [readEnds_stale hrole]

/-- A stale read leaves its data: its buffer becomes idle, and the session fetches (R18, R30). -/
theorem read_stale (hin : s.eng.mgc.inbox = []) (ha : s.eng.asked = []) (hd : s.eng.dle.due = none) (hp : s.eng.ssc.progQueue = [])
    (hs : s.eng.ssc.service = .service) (hr : s.eng.mgc.restart ≠ .due) {good : Bool} {c : Instr} (hc : c = .readComplete good ∨ c = .storeOpTimeout)
    {x : Session} (hx : (s.eng.session r.session).setBuf r.buf ((s.eng.session r.session).buf r.buf).idled = x) {chain : List Nat}
    (hchain : s.eng.chain x.bodyNo = chain) {w : List (Nat × Nat)} (hw : x.fetches chain (s.eng.offsetOf x.bodyNo) = w) :
    ∃ t, exec c s = .next t ∧ (∀ j, t.eng.session j = if j = r.session then x.fetching w else s.eng.session j) ∧
      (∀ q qs, s.eng.ssc.readQueue ++ w.map (readOf r.session chain) = q :: qs → t.eng.ssc.link = .reading q 1 ∧ t.eng.ssc.readQueue = qs) ∧
      (s.eng.ssc.readQueue = [] → w = [] → s.eng.ssc.eraseQueue = [] → t.eng.ssc.link = .idle) ∧ s.keepsBut [.sessions, .storeQueues, .link] t := by
  have hwork : Engine.Within [.sessions, .link] s.eng (s.eng.modBuf r.session r.buf Buffer.idled).freeLink :=
    ((modBuf_within s.eng r.session r.buf _).mono rfl).step (link_within _ .idle _) rfl
  have hsessions : ∀ j, (s.eng.modBuf r.session r.buf Buffer.idled).freeLink.session j = if j = r.session then x else s.eng.session j := fun j => by
    rw [← hx]
    exact session_modBuf s.eng r.session r.buf Buffer.idled j
  have hssc : (s.eng.modBuf r.session r.buf Buffer.idled).freeLink.ssc = { s.eng.ssc with link := .idle } := rfl
  have hexec := exec_stale hl hrole hc
  generalize (s.eng.modBuf r.session r.buf Buffer.idled).freeLink = h at *
  have hbody := hwork.bodies_same rfl x.bodyNo
  have hc' : h.chain x.bodyNo = chain := (chain_congr (hwork.keeps .segments rfl) (by rw [hbody])).trans hchain
  have ho : h.offsetOf x.bodyNo = s.eng.offsetOf x.bodyNo := by rw [Engine.offsetOf, hbody, Engine.offsetOf]
  obtain ⟨hself, hothers, hfetch⟩ := fetch_spec r.session ((hsessions r.session).trans (if_pos rfl)) hc' ho
  rw [hw] at hself hfetch
  have hfetches := fetch_within h r.session
  generalize h.fetch r.session = g at *
  rw [hssc] at hfetch
  have hall : Engine.Within [.sessions, .storeQueues, .link] s.eng g := (hwork.mono rfl).step hfetches rfl
  have hfree : g.linkFree = true := by
    have hrestart : g.mgc.restart = s.eng.mgc.restart := (hall.keeps .channel rfl).2.2.2
    rw [Engine.linkFree, Engine.halted, hfetch, hrestart]
    simp [hs, hr]
  have hnext := startNext_parts g
  have hreads : g.ssc.readQueue = s.eng.ssc.readQueue ++ w.map (readOf r.session chain) := by rw [hfetch]
  refine ⟨{ s with eng := g.startNext }, ?_, fun j => (hnext.sessions_same rfl j).trans ?_, fun q qs hq => ?_, fun hread hnone herase => ?_,
    (hall.step hnext rfl).keepsBut rfl rfl rfl⟩
  · rw [hexec]
    exact congrArg Host.Outcome.next (finish_startNext hin ha hd hall rfl (by rw [hfetch]; exact hp))
  · by_cases hj : j = r.session
    · rw [hj, hself, if_pos rfl]
    · rw [hothers j hj, hsessions, if_neg hj, if_neg hj]
  · have hstart : g.startNext = g.modSsc (fun c => { c with readQueue := qs, link := .reading q 1, opTimer := 0 }) := by
      unfold Engine.startNext Engine.startRead
      rw [hfree, hreads, hq]
      rfl
    rw [hstart]
    exact ⟨rfl, rfl⟩
  · have hstart : g.startNext = g := by
      unfold Engine.startNext
      rw [hfree, hreads, hread, hnone, show g.ssc.eraseQueue = [] by rw [hfetch]; exact herase]
      rfl
    show g.startNext.ssc.link = .idle
    rw [hstart, hfetch]

end Stale

end Sys2Proof.Machine

namespace Sys2Proof.Machine

/-! Proofs about section 4: a program that succeeds (R83, R102). -/

/-! ## The segment linked -/

/-- A body whose chain has taken a segment at its end. -/
def Body.linked (i : Nat) (b : Body) : Body := { b with first := if b.first = none then some i else b.first, last := some i, count := b.count + 1 }

section Link
variable {e : Engine} {n i : Nat} {b : Body} (hb : e.body n = some b) (hne : b.last ≠ some i)
include hb

theorem linkSegment_body (c : Nat) : (e.linkSegment n i).body c = if c = n then some (b.linked i) else e.body c := by
  have hfirst : b.first.or (some i) = if b.first = none then some i else b.first := by cases b.first <;> rfl
  unfold Engine.linkSegment Body.linked
  rw [hb, ← hfirst]
  dsimp only
  rw [body_putBody]
  by_cases hc : c = n
  · rw [if_pos hc, if_pos hc]
  · rw [if_neg hc, if_neg hc]
    split <;> rfl

/-- The entry of a segment linked into a body. -/
def Engine.linkedEntry (n i : Nat) (e : Engine) : SegEntry :=
  { state := .data, body := some n, next := none, eraseFailures := (e.segment i).eraseFailures }

theorem linkSegment_first (hl : b.last = none) (j : Nat) : (e.linkSegment n i).segment j = if j = i then e.linkedEntry n i else e.segment j := by
  unfold Engine.linkSegment
  rw [hb]
  dsimp only
  rw [hl]
  exact segment_putSegment e i (e.linkedEntry n i) j

theorem linkSegment_next {l : Nat} (hl : b.last = some l) (hil : i ≠ l) (j : Nat) : (e.linkSegment n i).segment j =
    if j = l then { e.segment l with next := some i } else if j = i then e.linkedEntry n i else e.segment j := by
  have hone := segment_putSegment e i (e.linkedEntry n i)
  have hprev : (e.put (.segment i (e.linkedEntry n i))).segment l = e.segment l := (hone l).trans (if_neg (Ne.symm hil))
  unfold Engine.linkSegment
  rw [hb]
  dsimp only
  rw [hl]
  dsimp only
  refine (segment_putSegment (e.put (.segment i (e.linkedEntry n i))) l
    { (e.put (.segment i (e.linkedEntry n i))).segment l with next := some i } j).trans ?_
  rw [hprev, hone]

include hne

theorem linkSegment_segment : (e.linkSegment n i).segment i = e.linkedEntry n i ∧ ∀ l, b.last = some l → ((e.linkSegment n i).segment l).next = some i := by
  cases hl : b.last with
  | none => exact ⟨(linkSegment_first hb hl i).trans (if_pos rfl), nofun⟩
  | some l =>
    have hil : i ≠ l := fun hc => hne (hc ▸ hl)
    refine ⟨(linkSegment_next hb hl hil i).trans ((if_neg hil).trans (if_pos rfl)), fun l' hl' => ?_⟩
    obtain rfl := Option.some.inj hl'
    exact congrArg SegEntry.next ((linkSegment_next hb hl hil l).trans (if_pos rfl))

end Link

/-! ## A program taken by its take -/

/-- The session whose program has completed. -/
def Session.programDone (r : ProgReq) (x : Session) : Session := { x.setBuf r.buf (x.buf r.buf).idled with programmed := r.takeSegment + 1 }

/-- The engine of a wanted program that has succeeded, before its take is seen to have drained. -/
def Engine.stored (r : ProgReq) (i : Nat) (e : Engine) : Engine :=
  ((((e.modSsc (fun c => { c with flash := Tab.set [] i ((e.session r.session).buf r.buf).samples c.flash })).linkSegment r.body i).recordResult).modBuf
    r.session r.buf Buffer.idled).modSession r.session (fun x => { x with programmed := r.takeSegment + 1 })

section Stored
variable (r : ProgReq) (i : Nat) (e : Engine)

theorem programDone_wanted : e.programDone r i true = (e.stored r i).checkDrained r.session := rfl

theorem stored_within : Engine.Within [.sessions, .link, .flash, .segments, .bodies, .writes] e (e.stored r i) :=
  (((((flash_within e _).mono rfl).step (linkSegment_within _ r.body i) rfl).step (recordResult_within _) rfl).step (modBuf_within _ r.session r.buf _) rfl).step
    (modSession_within _ _ _) rfl

theorem stored_session (j : Nat) : (e.stored r i).session j = if j = r.session then (e.session r.session).programDone r else e.session j := by
  have hbefore : ∀ j, (((e.modSsc (fun c => { c with flash := Tab.set [] i ((e.session r.session).buf r.buf).samples c.flash })).linkSegment r.body i).recordResult).session j =
      e.session j := fun j =>
    Engine.Within.sessions_same ((((flash_within e _).mono (qs := [.flash, .segments, .bodies, .link, .writes]) rfl).step (linkSegment_within _ r.body i) rfl).step
      (recordResult_within _) rfl) rfl j
  unfold Engine.stored
  by_cases hj : j = r.session
  · rw [hj, session_modSession_self, session_modBuf, if_pos rfl, if_pos rfl, hbefore]
    rfl
  · rw [session_modSession_ne _ hj, session_modBuf, if_neg hj, if_neg hj, hbefore]

theorem stored_ssc : (e.stored r i).ssc = { e.ssc with flash := Tab.set [] i ((e.session r.session).buf r.buf).samples e.ssc.flash, link := .recording } := by
  show (Engine.recordResult _).ssc = _
  rw [recordResult_ssc, ssc_of_within (linkSegment_within _ r.body i) rfl]
  rfl

theorem stored_asked : (e.stored r i).asked = [] := recordResult_asked _

variable {r i e} {b : Body} (hb : e.body r.body = some b)
include hb

theorem stored_body (c : Nat) : (e.stored r i).body c = if c = r.body then some (b.linked i) else e.body c := by
  have hsame : (e.stored r i).body c = ((e.modSsc (fun c => { c with flash := Tab.set [] i ((e.session r.session).buf r.buf).samples c.flash })).linkSegment
      r.body i).body c := (recordResult_within _).bodies_same rfl c
  rw [hsame]
  exact linkSegment_body (e := e.modSsc _) hb c

theorem stored_segment (hne : b.last ≠ some i) :
    (e.stored r i).segment i = e.linkedEntry r.body i ∧ ∀ l, b.last = some l → ((e.stored r i).segment l).next = some i := by
  have hsame : ∀ j, (e.stored r i).segment j = ((e.modSsc (fun c => { c with flash := Tab.set [] i ((e.session r.session).buf r.buf).samples c.flash })).linkSegment
      r.body i).segment j := fun j => recordResult_segment _ j
  simp only [hsame]
  exact linkSegment_segment (e := e.modSsc _) hb hne

end Stored

end Sys2Proof.Machine

namespace Sys2Proof.Machine

/-! Proofs about section 4: the commands that end a wanted program (R29, R79, R83, R84). -/

/-- A take that does not drain, or has not stored the end of its run, goes on. -/
theorem checkDrained_on {k : Nat} {e : Engine} (h : (e.session k).state ≠ .draining ∨ ∀ t, (e.session k).trim = some t → (e.session k).programmed ≤ t.last) :
    e.checkDrained k = e := by
  cases ht : (e.session k).trim with
  | none =>
    unfold Engine.checkDrained
    dsimp only
    rw [ht]
  | some t =>
    rcases h with h | h
    · unfold Engine.checkDrained
      dsimp only
      rw [ht]
      dsimp only
      exact if_neg (by simp [h])
    · exact checkDrained_waits ht (h t ht)

/-- The causes by which a program in flight fails: the device's report, or time. -/
theorem programFails_by {s : State} {r : ProgReq} {i : Nat} {w : Bool} (hl : s.eng.ssc.link = .programming r i w) {c : Instr}
    (hc : c = .programComplete false ∨ c = .storeOpTimeout) :
    ∃ cause, exec c s = .next (State.finish { s with eng := s.eng.programFailed r i w cause }) := by
  rcases hc with rfl | rfl
  · refine ⟨.device, ?_⟩
    show Host.Outcome.next (s.onEng (fun e => e.programComplete false)).finish = _
    rw [State.onEng, Engine.programComplete, hl]
    rfl
  · refine ⟨.time, ?_⟩
    show Host.Outcome.next (s.onEng Engine.opTimeout).finish = _
    rw [State.onEng, Engine.opTimeout, hl]

theorem programDone_by {s : State} {r : ProgReq} {i : Nat} {w : Bool} (hl : s.eng.ssc.link = .programming r i w) :
    exec (.programComplete true) s = .next (State.finish { s with eng := s.eng.programDone r i w }) := by
  show Host.Outcome.next (s.onEng (fun e => e.programComplete true)).finish = _
  rw [State.onEng, Engine.programComplete, hl]
  rfl

section Wanted
variable {s : State} {r : ProgReq} {i : Nat} (hin : s.eng.mgc.inbox = []) (hd : s.eng.dle.due = none)
  (hl : s.eng.ssc.link = .programming r i true)
include hin hd hl

/-- A wanted program that fails goes back to the head of the queue (R84). -/
theorem program_fails {c : Instr} (hc : c = .programComplete false ∨ c = .storeOpTimeout) :
    ∃ t, exec c s = .next t ∧ (t.eng.segment i).state = .retired ∧ t.eng.ssc.progQueue = r :: s.eng.ssc.progQueue ∧
      t.eng.sessions = s.eng.sessions ∧ t.flagged .storeFault ∧ t.eng.ssc.link = .recording ∧
      s.keepsBut [.storeQueues, .link, .segments, .outbox, .flags, .writes] t := by
  obtain ⟨cause, hexec⟩ := programFails_by hl hc
  let entry : SegEntry := { state := .retired, body := none, next := none, eraseFailures := (s.eng.segment i).eraseFailures }
  obtain ⟨u, hu⟩ : ∃ u, (s.eng.put (.segment i entry)).recordResult = u := ⟨_, rfl⟩
  have hsegment : u.segment i = entry := by
    rw [← hu]
    exact (recordResult_segment _ i).trans ((segment_putSegment s.eng i entry i).trans (if_pos rfl))
  have hssc : u.ssc = { s.eng.ssc with link := .recording } := by
    rw [← hu]
    exact recordResult_ssc _
  have hasked : u.asked = [] := by
    rw [← hu]
    exact recordResult_asked _
  have hwork : Engine.Within [.segments, .writes, .link] s.eng u := by
    rw [← hu]
    exact ((put_within s.eng _).mono rfl).step (recordResult_within _) rfl
  have hfailed : s.eng.programFailed r i true cause =
      (u.raiseStoreFault .program i cause (some r.session)).modSsc (fun c => { c with progQueue := r :: c.progQueue }) := by
    rw [← hu]
    rfl
  have hall : Engine.Within [.storeQueues, .link, .segments, .outbox, .flags, .writes] s.eng (s.eng.programFailed r i true cause) := by
    rw [hfailed]
    exact ((hwork.mono rfl).step (raise_within u _ _) rfl).step (queues_within _ u.ssc.readQueue (r :: u.ssc.progQueue)) rfl
  refine ⟨{ s with eng := s.eng.programFailed r i true cause }, ?_, ?_, ?_, hall.keeps .sessions rfl, ?_, ?_, hall.keepsBut rfl rfl rfl⟩
  · rw [hexec]
    refine congrArg Host.Outcome.next (finish_recording ((hall.keeps .channel rfl).2.1.trans hin) ?_ ?_ ?_)
    · rw [hfailed]
      exact hasked
    · rw [show (s.eng.programFailed r i true cause).dle = s.eng.dle from hall.keeps .dle rfl]
      exact hd
    · rw [hfailed]
      exact congrArg Ssc.link hssc
  · rw [hfailed]
    exact congrArg SegEntry.state hsegment
  · rw [hfailed]
    show r :: u.ssc.progQueue = _
    rw [hssc]
  · rw [hfailed]
    exact raise_flagged .storeFault _ u
  · rw [hfailed]
    exact congrArg Ssc.link hssc

variable {b : Body} (hb : s.eng.body r.body = some b) (hne : b.last ≠ some i)
include hb hne

/-- A wanted program that succeeds, its take going on (R83, R102). -/
theorem program_succeeds (hon : (s.eng.session r.session).state ≠ .draining ∨ ∀ tr, (s.eng.session r.session).trim = some tr → r.takeSegment < tr.last) :
    ∃ t, exec (.programComplete true) s = .next t ∧ Tab.get [] t.eng.ssc.flash i = ((s.eng.session r.session).buf r.buf).samples ∧
      (t.eng.segment i).state = .data ∧ (t.eng.segment i).body = some r.body ∧ (t.eng.segment i).next = none ∧
      (∀ l, b.last = some l → (t.eng.segment l).next = some i) ∧ t.eng.body r.body = some (b.linked i) ∧
      (∀ j, t.eng.session j = if j = r.session then (s.eng.session r.session).programDone r else s.eng.session j) ∧
      t.eng.ssc.link = .recording ∧ s.keepsBut [.sessions, .link, .flash, .segments, .bodies, .writes] t := by
  have hwork := stored_within r i s.eng
  have hsessions := stored_session r i s.eng
  have hssc := stored_ssc r i s.eng
  obtain ⟨hsegment, hnext⟩ := stored_segment (r := r) hb hne
  have hbody := (stored_body (i := i) hb r.body).trans (if_pos rfl)
  have hasked := stored_asked r i s.eng
  have hdone : s.eng.programDone r i true = s.eng.stored r i := by
    obtain ⟨b0, b1, honly⟩ := setBuf_onlyBufs (s.eng.session r.session) r.buf ((s.eng.session r.session).buf r.buf).idled
    rw [programDone_wanted]
    refine checkDrained_on ?_
    rw [hsessions, if_pos rfl, Session.programDone, honly]
    exact hon.imp id fun h t ht => h t ht
  have hexec := programDone_by hl
  rw [hdone] at hexec
  generalize s.eng.stored r i = g at *
  refine ⟨{ s with eng := g }, ?_, ?_, congrArg SegEntry.state hsegment, congrArg SegEntry.body hsegment, congrArg SegEntry.next hsegment, hnext, hbody,
    hsessions, ?_, hwork.keepsBut rfl rfl rfl⟩
  · rw [hexec]
    refine congrArg Host.Outcome.next (finish_recording ((hwork.keeps .channel rfl).2.1.trans hin) hasked ?_ (congrArg Ssc.link hssc))
    rw [show g.dle = s.eng.dle from hwork.keeps .dle rfl]
    exact hd
  · show Tab.get [] g.ssc.flash i = _
    rw [hssc]
    exact Tab.get_set_self _ _ _ _
  · exact congrArg Ssc.link hssc

end Wanted

end Sys2Proof.Machine

namespace Sys2Proof.Machine

/-! Proofs about section 4: the program that ends a draining take (R29, R40, R42, R104, R130, R144). -/

/-- A greeting sealed leaves the message table as it was. -/
theorem seals_greeting_within {x : Session} {g : GreetingKind} (hx : x.target = .slot g) (t : Trim) (e : Engine) :
    Engine.Within [.segments, .writes, .pool, .outbox, .flags, .bodies, .holds, .greetings] e (x.seals t e) := by
  unfold Session.seals
  rw [hx]
  exact ((sealBody_within e x.bodyNo t.offset t.count).mono rfl).step (replaceGreeting_within _ x.mailbox g) rfl

section Sealed
variable {s : State} {r : ProgReq} {i : Nat} (hin : s.eng.mgc.inbox = []) (hd : s.eng.dle.due = none)
  (hl : s.eng.ssc.link = .programming r i true) {b : Body} (hb : s.eng.body r.body = some b)
  {tr : Trim} (hst : (s.eng.session r.session).state = .draining) (htr : (s.eng.session r.session).trim = some tr) (hlast : tr.last ≤ r.takeSegment)
include hst htr hlast

/-- The engine of a take whose last kept segment has been stored, its body sealed. -/
def Engine.storedSealed (r : ProgReq) (i : Nat) (tr : Trim) (e : Engine) : Engine := ((e.stored r i).session r.session).seals tr (e.stored r i)

theorem programDone_seals : s.eng.programDone r i true =
    (s.eng.storedSealed r i tr).enterEnded r.session ((s.eng.session r.session).endCause.getD .stopped) := by
  have hself := (stored_session r i s.eng r.session).trans (if_pos rfl)
  obtain ⟨b0, b1, honly⟩ := setBuf_onlyBufs (s.eng.session r.session) r.buf ((s.eng.session r.session).buf r.buf).idled
  rw [Session.programDone, honly] at hself
  have hcause : ((s.eng.stored r i).session r.session).endCause = (s.eng.session r.session).endCause := by rw [hself]
  rw [programDone_wanted, checkDrained_sealed (t := tr) (by rw [hself]; exact htr) (by rw [hself]; exact hst) (by rw [hself]; exact Nat.lt_succ_of_le hlast),
    hcause]
  rfl

include hin hd hl hb

/-- The last kept segment of a draining take is stored: its body is sealed, its target takes it, and the session ends (R29, R104). -/
theorem program_seals (hne : b.last ≠ some i) (hx : (s.eng.session r.session).body = some r.body)
    (hheld : ∀ g, (s.eng.session r.session).target = .slot g → (s.eng.slot (s.eng.session r.session).mailbox g).held ≠ some r.body) :
    ∃ t, exec (.programComplete true) s = .next t ∧ Tab.get [] t.eng.ssc.flash i = ((s.eng.session r.session).buf r.buf).samples ∧
      t.eng.body r.body = some { b.linked i with sealed := true, offset := some tr.offset, samples := some tr.count } ∧ (t.eng.hold r.body).begun = 0 ∧
      (∀ a z, (s.eng.session r.session).target = .record a → s.eng.record a = some z → (∀ q, t.eng.record q =
        if q = a then some { z with state := .new, cut := false } else s.eng.record q) ∧
        ∀ n, t.eng.counter n = if n = z.mailbox ∧ z.state ≠ .new then (s.eng.counter n).pass z.state .new z.urgent else s.eng.counter n) ∧
      (∀ g, (s.eng.session r.session).target = .slot g → (∀ n h, t.eng.slot n h = if n = (s.eng.session r.session).mailbox ∧ h = g then
        { held := (s.eng.slot (s.eng.session r.session).mailbox g).staged, staged := none } else s.eng.slot n h) ∧ t.eng.tab.records = s.eng.tab.records) ∧
      s.eng.endsAs t.eng r.session { (s.eng.session r.session).programDone r with
        state := .ended, outcome := some ((s.eng.session r.session).endCause.getD .stopped), endCause := none } ∧
      (∀ j, j ≠ r.session → t.eng.session j = s.eng.session j) ∧
      t.eng.ssc.link = .recording ∧ s.keepsBut [.slots, .sessions, .pool, .link, .flash, .holds, .counters, .lmp, .outbox, .flags,
        .segments, .bodies, .records, .greetings, .writes] t := by
  have hwork := stored_within r i s.eng
  have hsessions := stored_session r i s.eng
  have hssc := stored_ssc r i s.eng
  have hbody := (stored_body (i := i) hb r.body).trans (if_pos rfl)
  have hself := (hsessions r.session).trans (if_pos rfl)
  obtain ⟨b0, b1, honly⟩ := setBuf_onlyBufs (s.eng.session r.session) r.buf ((s.eng.session r.session).buf r.buf).idled
  have hdone : (s.eng.session r.session).programDone r = { s.eng.session r.session with programmed := r.takeSegment + 1, buf0 := b0, buf1 := b1 } := by
    rw [Session.programDone, honly]
  have hexec := programDone_by hl
  rw [programDone_seals hst htr hlast] at hexec
  have hu : s.eng.storedSealed r i tr = ((s.eng.session r.session).programDone r).seals tr (s.eng.stored r i) := by rw [Engine.storedSealed, hself]
  generalize hy : (s.eng.session r.session).programDone r = y at *
  have hno : y.bodyNo = r.body := by
    rw [hdone]
    unfold Session.bodyNo
    rw [hx]
    rfl
  have htarget : y.target = (s.eng.session r.session).target := by rw [hdone]
  have hbox : y.mailbox = (s.eng.session r.session).mailbox := by rw [hdone]
  have hslots := hwork.slots_same rfl
  have hrecords := hwork.records_same rfl
  have hcounters := hwork.counters_same rfl
  generalize s.eng.stored r i = d at *
  have hseals := seals_within y tr d
  have hlows : s.eng.Lows (y.seals tr d) := (Engine.Lows.quiet hwork rfl).trans (seals_lows y tr d)
  obtain ⟨hsealed, hzero⟩ := seals_body (x := y) (t := tr) (hno.symm ▸ hbody) (fun g hg => by
    rw [hslots, hbox, hno]
    exact hheld g (htarget.symm.trans hg))
  have hrecord : ∀ {a z}, (s.eng.session r.session).target = .record a → s.eng.record a = some z → _ := fun {a z} ha hz =>
    seals_record (t := tr) (x := y) (e := d) (htarget.trans ha) ((hrecords a).trans hz)
  have hslot : ∀ {g}, (s.eng.session r.session).target = .slot g → _ := fun {g} hg n j => seals_slot (x := y) (t := tr) (e := d) (htarget.trans hg) n j
  have hstays : ∀ {g}, (s.eng.session r.session).target = .slot g → (y.seals tr d).tab.records = d.tab.records := fun hg =>
    (seals_greeting_within (htarget.trans hg) tr d).keeps .records rfl
  rw [hu] at hexec
  generalize y.seals tr d = u at *
  have hends := enterEnded_within u r.session ((s.eng.session r.session).endCause.getD .stopped)
  have hsu : ∀ j, u.session j = d.session j := hseals.sessions_same rfl
  have hall : Engine.Within [.slots, .sessions, .pool, .link, .flash, .holds, .counters, .lmp, .outbox, .flags, .segments, .bodies, .records, .greetings, .writes]
      s.eng u := (hwork.mono rfl).step hseals rfl
  have hhalt : u.halted = s.eng.halted := by
    rw [Engine.halted, Engine.halted, show u.ssc.service = s.eng.ssc.service from (hall.keeps .service rfl).1,
      show u.mgc.restart = s.eng.mgc.restart from (hall.keeps .channel rfl).2.2.2]
  have hendsAs := enterEnded_endsAs hlows (hall.keeps .settings rfl) hhalt r.session ((s.eng.session r.session).endCause.getD .stopped)
  rw [hsu, hself] at hendsAs
  have hothers : ∀ j, j ≠ r.session → (u.enterEnded r.session ((s.eng.session r.session).endCause.getD .stopped)).session j = s.eng.session j := fun j hj =>
    ((enterEnded_session r.session _ u j).trans (if_neg hj)).trans ((hsu j).trans ((hsessions j).trans (if_neg hj)))
  generalize u.enterEnded r.session ((s.eng.session r.session).endCause.getD .stopped) = v at *
  have hbusy : v.linkFree = false := by
    have hlink : v.ssc.link = .recording := ((hends.keeps .link rfl).1.trans (hseals.keeps .link rfl).1).trans (congrArg Ssc.link hssc)
    rw [Engine.linkFree, hlink]
    simp
  have hlink : v.ssc.link = .recording := ((hends.keeps .link rfl).1.trans (hseals.keeps .link rfl).1).trans (congrArg Ssc.link hssc)
  have hflash : v.ssc.flash = d.ssc.flash := (hends.keeps .flash rfl).trans (hseals.keeps .flash rfl)
  have hdue : v.dle.due = none := by
    rw [show v.dle = s.eng.dle from (hall.step hends rfl).keeps .dle rfl]
    exact hd
  have hsettled : v.Settled v.settle := settle_settled hdue (.inl hbusy) (.inl hbusy)
  have hquiet := hsettled.quiet (.inl hbusy)
  have hlate : Engine.Within [.slots, .sessions, .outbox, .flags, .link, .writes] u v.settle := (hends.mono rfl).step hquiet rfl
  refine ⟨{ s with eng := v.settle }, ?_, ?_, ?_, ?_, fun a z ha hz => ?_, fun g hg => ?_, endsAs_settled hendsAs hsettled, fun j hj => ?_, ?_,
    (hall.step hlate rfl).keepsBut rfl rfl rfl⟩
  · rw [hexec]
    refine congrArg Host.Outcome.next (finish_settle (s := { s with eng := v }) ?_)
    exact ((hends.keeps .channel rfl).2.1.trans (hall.keeps .channel rfl).2.1).trans hin
  · show Tab.get [] v.settle.ssc.flash i = _
    rw [show v.settle.ssc.flash = v.ssc.flash from hquiet.keeps .flash rfl, hflash, hssc]
    exact Tab.get_set_self _ _ _ _
  · rw [hno] at hsealed
    exact (hlate.bodies_same rfl _).trans hsealed
  · rw [hno] at hzero
    exact (congrArg BodyHold.begun (hlate.holds_same rfl _)).trans hzero
  · obtain ⟨hrec, hcnt⟩ := hrecord ha hz
    refine ⟨fun q => (hlate.records_same rfl q).trans ((hrec q).trans ?_), fun n => (hlate.counters_same rfl n).trans ((hcnt n).trans ?_)⟩
    · rw [hrecords]
    · rw [hcounters]
  · refine ⟨fun n h => (hlate.slots_same rfl n h).trans ((hslot hg n h).trans ?_), ?_⟩
    · rw [hbox, hslots, hslots]
    · exact (hlate.keeps .records rfl).trans ((hstays hg).trans (hwork.keeps .records rfl))
  · exact (hquiet.sessions_same rfl j).trans (hothers j hj)
  · exact (congrArg Ssc.link (hsettled.busy hbusy)).trans hlink

end Sealed

end Sys2Proof.Machine

namespace Sys2Proof.Machine

/-! Proofs about section 4: the ends of a program no longer wanted (R18, R66, R76, R83, R84). -/

/-! ## A chain that a segment is not of -/

theorem chainFrom_ne {e g : Engine} {i : Nat} (h : ∀ j, j ≠ i → g.segment j = e.segment j) : ∀ (n : Nat) (o : Option Nat), i ∉ e.chainFrom n o →
    g.chainFrom n o = e.chainFrom n o
  | 0, _, _ => rfl
  | _ + 1, none, _ => rfl
  | n + 1, some j, hi => by
    rw [Engine.chainFrom] at hi
    obtain ⟨hj, hrest⟩ := not_or.1 (mt List.mem_cons.2 hi)
    rw [Engine.chainFrom, Engine.chainFrom, h j (Ne.symm hj), chainFrom_ne h n _ hrest]

theorem chain_ne {e g : Engine} {i b : Nat} (h : ∀ j, j ≠ i → g.segment j = e.segment j) (hb : g.body b = e.body b) (hi : i ∉ e.chain b) :
    g.chain b = e.chain b := by
  unfold Engine.chain at hi ⊢
  rw [hb]
  split
  · rfl
  · next x hx =>
    rw [hx] at hi
    exact chainFrom_ne h _ _ hi

/-! ## The session that an unwanted program leaves -/

/-- The session whose unwanted program has ended. -/
def Session.unstored (r : ProgReq) (x : Session) : Session := x.setBuf r.buf (x.buf r.buf).idled

/-- The end of an unwanted program counts for its take. -/
def Session.counts (r : ProgReq) (x : Session) : Prop := x.state = .draining ∧ x.body = some r.body ∧ ∃ t, x.trim = some t ∧ r.takeSegment < t.first

theorem accepted_counts {r : ProgReq} {x : Session} (h : x.counts r) : x.accepted r = { x with programmed := r.takeSegment + 1 } := by
  obtain ⟨hs, hb, t, ht, hlt⟩ := h
  unfold Session.accepted
  rw [ht]
  dsimp only
  exact if_pos (by simp [hs, hb, hlt])

theorem accepted_not {r : ProgReq} {x : Session} (h : ¬ x.counts r) : x.accepted r = x := by
  unfold Session.accepted
  split
  · rfl
  · next t ht =>
    refine if_neg fun hc => h ?_
    simp only [Bool.and_eq_true, decide_eq_true_eq] at hc
    obtain ⟨⟨hs, hb⟩, hlt⟩ := hc
    exact ⟨hs, hb, t, ht, hlt⟩

theorem accepted_bodyNo (r : ProgReq) (x : Session) : (x.accepted r).bodyNo = x.bodyNo := by
  by_cases h : x.counts r
  · rw [accepted_counts h]
    rfl
  · rw [accepted_not h]

section Unwanted
variable {s : State} {r : ProgReq} {i : Nat} (hin : s.eng.mgc.inbox = []) (hd : s.eng.dle.due = none)

/-- In t the session of an unwanted program stands as y, with what it fetches there asked for, and the result waits to be recorded. -/
def State.unstores (s t : State) (r : ProgReq) (i : Nat) (y : Session) : Prop :=
  let chain := s.eng.chain y.bodyNo
  let w := y.fetches chain (s.eng.offsetOf y.bodyNo)
  (∀ j, t.eng.session j = if j = r.session then y.fetching w else s.eng.session j) ∧
    t.eng.ssc.readQueue = s.eng.ssc.readQueue ++ w.map (readOf r.session chain) ∧
    t.eng.ssc.link = .recording ∧ ∀ j, j ≠ i → t.eng.segment j = s.eng.segment j

include hin hd in
theorem unwanted_fetches {h : Engine} {ps : List Part} (hwork : Engine.Within ps s.eng h) (hps : partsApart [.dle, .channel, .bodies] ps = true)
    (hasked : h.asked = []) (hlink : h.ssc.link = .recording) (hread : h.ssc.readQueue = s.eng.ssc.readQueue)
    (hsegment : ∀ j, j ≠ i → h.segment j = s.eng.segment j) {y : Session}
    (hsession : ∀ j, h.session j = if j = r.session then y else s.eng.session j) (hi : i ∉ s.eng.chain y.bodyNo) :
    State.finish { s with eng := h.fetch r.session } = { s with eng := h.fetch r.session } ∧
      s.unstores { s with eng := h.fetch r.session } r i y ∧ Engine.Within [.sessions, .storeQueues] h (h.fetch r.session) ∧
      (∃ q, (h.fetch r.session).ssc = { h.ssc with readQueue := q }) := by
  have hout : ∀ p ∈ [Part.dle, .channel, .bodies], decide (p ∈ ps) = false := fun p hm => decide_eq_false (not_mem_of_partsApart hps hm)
  have hbody := hwork.bodies_same (hout _ (by simp)) y.bodyNo
  have hchain := chain_ne hsegment hbody hi
  have hoffset : h.offsetOf y.bodyNo = s.eng.offsetOf y.bodyNo := by rw [Engine.offsetOf, hbody, Engine.offsetOf]
  obtain ⟨hself, hothers, hssc⟩ := fetch_spec r.session ((hsession r.session).trans (if_pos rfl)) hchain hoffset
  have hfetch := fetch_within h r.session
  refine ⟨finish_recording ?_ ?_ ?_ ?_, ⟨fun j => ?_, ?_, ?_, fun j hj => (hfetch.segments_same rfl j).trans (hsegment j hj)⟩, hfetch, _, hssc⟩
  · exact (hfetch.keeps .channel rfl).2.1.trans ((hwork.keeps .channel (hout _ (by simp))).2.1.trans hin)
  · exact (hfetch.writes_same rfl).2.trans hasked
  · rw [show (h.fetch r.session).dle = h.dle from hfetch.keeps .dle rfl, show h.dle = s.eng.dle from hwork.keeps .dle (hout _ (by simp))]
    exact hd
  · rw [hssc]
    exact hlink
  · dsimp only
    by_cases hj : j = r.session
    · rw [if_pos hj, hj, hself]
    · rw [if_neg hj, hothers j hj, hsession, if_neg hj]
  · dsimp only
    rw [hssc]
    exact congrArg (· ++ _) hread
  · dsimp only
    rw [hssc]
    exact hlink

variable (hl : s.eng.ssc.link = .programming r i false) (hi : i ∉ s.eng.chain (s.eng.session r.session).bodyNo)

theorem unstored_bodyNo (x : Session) : (x.unstored r).bodyNo = x.bodyNo := by
  obtain ⟨b0, b1, h⟩ := setBuf_onlyBufs x r.buf (x.buf r.buf).idled
  rw [Session.unstored, h]
  rfl

include hin hd hl hi

/-- An unwanted program that fails retires its segment (R84). -/
theorem unwanted_fails {c : Instr} (hc : c = .programComplete false ∨ c = .storeOpTimeout) :
    ∃ t, exec c s = .next t ∧ s.unstores t r i ((s.eng.session r.session).unstored r) ∧ (t.eng.segment i).state = .retired ∧
      t.flagged .storeFault ∧ s.keepsBut [.sessions, .storeQueues, .link, .outbox, .flags, .segments, .writes] t := by
  obtain ⟨cause, hexec⟩ := programFails_by hl hc
  let entry : SegEntry := { state := .retired, body := none, next := none, eraseFailures := (s.eng.segment i).eraseFailures }
  obtain ⟨u, hu⟩ : ∃ u, ((s.eng.put (.segment i entry)).recordResult.raiseStoreFault .program i cause (some r.session)).modBuf r.session r.buf Buffer.idled = u :=
    ⟨_, rfl⟩
  have hfailed : s.eng.programFailed r i false cause = u.fetch r.session := by
    rw [← hu]
    rfl
  have hsegment : ∀ j, u.segment j = if j = i then entry else s.eng.segment j := fun j => by
    rw [← hu]
    exact (recordResult_segment _ j).trans (segment_putSegment s.eng i entry j)
  have hssc : u.ssc = { s.eng.ssc with link := .recording } := by
    rw [← hu]
    exact recordResult_ssc _
  have hasked : u.asked = [] := by
    rw [← hu]
    exact recordResult_asked _
  have hwork : Engine.Within [.sessions, .segments, .writes, .link, .outbox, .flags] s.eng u := by
    rw [← hu]
    exact ((((put_within s.eng _).mono rfl).step (recordResult_within _) rfl).step (raise_within _ _ _) rfl).step (modBuf_within _ _ _ _) rfl
  have hsession : ∀ j, u.session j = if j = r.session then (s.eng.session r.session).unstored r else s.eng.session j := fun j => by
    have hbefore : ∀ j, ((s.eng.put (.segment i entry)).recordResult.raiseStoreFault .program i cause (some r.session)).session j = s.eng.session j :=
      Engine.Within.sessions_same ((((put_within s.eng (.segment i entry)).mono (qs := [.segments, .writes, .link, .outbox, .flags]) rfl).step
        (recordResult_within _) rfl).step (raise_within _ _ _) rfl) rfl
    rw [← hu, session_modBuf, hbefore, hbefore]
    rfl
  have hflag : u.mgc.flags &&& NoticeKind.storeFault.bit = NoticeKind.storeFault.bit := by
    rw [← hu]
    exact raise_flagged .storeFault _ (s.eng.put (.segment i entry)).recordResult
  clear hu
  obtain ⟨hfinish, hleft, hfetch, -⟩ := unwanted_fetches hin hd hwork rfl hasked (congrArg Ssc.link hssc) (by rw [hssc]) (i := i)
    (fun j hj => (hsegment j).trans (if_neg hj)) hsession (by rw [unstored_bodyNo]; exact hi)
  refine ⟨{ s with eng := u.fetch r.session }, ?_, hleft, ?_, ?_, ((hwork.mono rfl).step hfetch rfl).keepsBut rfl rfl rfl⟩
  · rw [hexec, hfailed, hfinish]
  · exact congrArg SegEntry.state ((hfetch.segments_same rfl i).trans ((hsegment i).trans (if_pos rfl)))
  · show (u.fetch r.session).mgc.flags &&& _ = _
    rw [mgc_within hfetch rfl]
    exact hflag

/-- An unwanted program that succeeds leaves its segment DIRTY, and counts for the cap of its take (R66, R83). -/
theorem unwanted_succeeds {y : Session} (hy : ((s.eng.session r.session).unstored r).accepted r = y) :
    ∃ t, exec (.programComplete true) s = .next t ∧ s.unstores t r i y ∧
      t.eng.segment i = { s.eng.segment i with state := .dirty, body := none, next := none } ∧
      t.eng.ssc.eraseQueue = Run.push i s.eng.ssc.eraseQueue ∧ t.eng.ssc.freeList = s.eng.ssc.freeList ∧
      s.keepsBut [.sessions, .pool, .storeQueues, .link, .flash, .outbox, .flags, .segments, .writes] t := by
  let e0 : Engine := s.eng.modSsc (fun c => { c with flash := Tab.set [] i ((s.eng.session r.session).buf r.buf).samples c.flash })
  obtain ⟨u, hu⟩ : ∃ u, ((e0.joinDirty i).recordResult.modBuf r.session r.buf Buffer.idled).modSession r.session (Session.accepted r) = u := ⟨_, rfl⟩
  have hdone : s.eng.programDone r i false = u.fetch r.session := by
    rw [← hu]
    rfl
  have hwork : Engine.Within [.sessions, .pool, .link, .flash, .outbox, .flags, .segments, .writes] s.eng u := by
    rw [← hu]
    exact (((((flash_within s.eng _).mono rfl).step (joinDirty_within e0 i) rfl).step (recordResult_within _) rfl).step (modBuf_within _ _ _ _) rfl).step
      (modSession_within _ _ _) rfl
  have hsegment : ∀ j, u.segment j = if j = i then (s.eng.segment i).dirtied else s.eng.segment j := fun j => by
    rw [← hu]
    exact (recordResult_segment _ j).trans (segment_joinDirty i e0 j)
  have hssc : u.ssc = { (e0.joinDirty i).ssc with link := .recording } := by
    rw [← hu]
    exact recordResult_ssc _
  obtain ⟨herase, hfree⟩ := joinDirty_ssc i e0
  have hasked : u.asked = [] := by
    rw [← hu]
    exact recordResult_asked _
  have hsession : ∀ j, u.session j = if j = r.session then y else s.eng.session j := fun j => by
    have hbefore : ∀ j, (e0.joinDirty i).recordResult.session j = s.eng.session j := Engine.Within.sessions_same
      ((((flash_within s.eng _).mono (qs := [.pool, .link, .flash, .outbox, .flags, .segments, .writes]) rfl).step (joinDirty_within e0 i) rfl).step
        (recordResult_within _) rfl) rfl
    rw [← hu, ← hy]
    by_cases hj : j = r.session
    · rw [hj, session_modSession_self, session_modBuf, if_pos rfl, if_pos rfl, hbefore]
      rfl
    · rw [session_modSession_ne _ hj, session_modBuf, if_neg hj, if_neg hj, hbefore]
  have hno : y.bodyNo = (s.eng.session r.session).bodyNo := by
    rw [← hy, accepted_bodyNo, unstored_bodyNo]
  clear hu
  obtain ⟨hfinish, hleft, hfetch, q, hq⟩ := unwanted_fetches hin hd hwork rfl hasked (congrArg Ssc.link hssc)
    ((hwork.keeps .storeQueues rfl).1) (i := i) (fun j hj => (hsegment j).trans (if_neg hj)) hsession (by rw [hno]; exact hi)
  refine ⟨{ s with eng := u.fetch r.session }, ?_, hleft, (hfetch.segments_same rfl i).trans ((hsegment i).trans (if_pos rfl)), ?_, ?_,
    ((hwork.mono rfl).step hfetch rfl).keepsBut rfl rfl rfl⟩
  · rw [programDone_by hl, hdone, hfinish]
  · dsimp only
    rw [hq, hssc]
    exact herase
  · dsimp only
    rw [hq, hssc]
    exact hfree

end Unwanted

/-- Settles O57. -/
theorem readsAndProgramsComplete : Obligations.ReadsAndProgramsComplete := by
  unfold Obligations.ReadsAndProgramsComplete
  intro s good hin ha hd
  refine ⟨fun h hl => readComplete_none h good hl, fun h hl => programComplete_none h good hl, fun h hl => eraseComplete_none h good hl,
    fun h hl => opTimeout_none h hl, fun r n hl hp hrole => ?_, fun r n c hl hrole hp hs hr hc => ?_, fun r i b hl hb => ?_, fun r i hl hi => ?_⟩
  · have hnot : ((s.eng.session r.session).buf r.buf).role ≠ .stale := by
      rw [hrole]
      exact nofun
    refine ⟨fun hg => ?_, fun hn c hc => ?_, fun hn c hc => read_fails hin ha hd hl hp hnot hn hc⟩
    · subst hg
      exact read_succeeds hin ha hd hl hp hnot
    · subst hn
      exact read_repeated hin ha hd hl hnot hc
  · exact read_stale hl hrole hin ha hd hp hs hr hc rfl rfl rfl
  · refine ⟨fun hg hne hon => ?_, fun tr hg hne hst htr hlast hx hheld => ?_, fun c hc => program_fails hin hd hl hc⟩
    · subst hg
      exact program_succeeds hin hd hl hb hne hon
    · subst hg
      exact program_seals hin hd hl hb hst htr hlast hne hx hheld
  · refine ⟨fun hg => ?_, fun c hc => unwanted_fails hin hd hl hi hc⟩
    subst hg
    obtain ⟨t, hexec, hleft, hrest⟩ := unwanted_succeeds hin hd hl hi rfl
    refine ⟨t, hexec, fun hcounts => ?_, fun hcounts => ?_, hrest⟩
    · exact accepted_counts hcounts ▸ hleft
    · exact accepted_not hcounts ▸ hleft

end Sys2Proof.Machine

namespace Sys2Proof.Machine

/-! Proofs about section 2: what a session has of the store, and what leaves it (R18, R76). -/

/-! ## A session's claims on the store -/

/-- What one session has asked of the store: its program in flight, wanted or not, its read in flight, and its requests that wait. -/
structure Claims where
  flight : Option (ProgReq × Bool)
  reading : Option ReadReq
  programs : List ProgReq
  reads : List ReadReq

/-- The program of a session in flight, and whether it is wanted. -/
def Link.programOf (k : Nat) (l : Link) : Option (ProgReq × Bool) := match l with
  | .allocating r _ w => if r.session = k then some (r, w) else none
  | .programming r _ w => if r.session = k then some (r, w) else none
  | _ => none

/-- The read of a session in flight. -/
def Link.readOf (k : Nat) (l : Link) : Option ReadReq := match l with
  | .reading r _ => if r.session = k then some r else none
  | _ => none

def Ssc.claims (k : Nat) (c : Ssc) : Claims :=
  { flight := c.link.programOf k, reading := c.link.readOf k, programs := c.progQueue.filter (fun r => decide (r.session = k)),
    reads := c.readQueue.filter (fun r => decide (r.session = k)) }

def Engine.claims (k : Nat) (e : Engine) : Claims := e.ssc.claims k

/-- The take segments of the wanted program requests among a session's claims. -/
def Claims.wanted (c : Claims) : List Nat :=
  ((match c.flight with
    | some (r, true) => [r]
    | _ => []) ++ c.programs).map (·.takeSegment)

theorem wanted_claims (e : Engine) (k : Nat) : e.wanted k = (e.claims k).wanted := by
  unfold Engine.wanted Claims.wanted Engine.claims Ssc.claims Link.programOf
  dsimp only
  rw [List.filter_append]
  congr 2
  cases e.ssc.link with
  | allocating r i w => cases w <;> by_cases hr : r.session = k <;> simp [hr]
  | programming r i w => cases w <;> by_cases hr : r.session = k <;> simp [hr]
  | _ => rfl

/-! ## What the order of takes and requests reads of a session -/

/-- The fields of a session that its place in the order of takes and requests depends on. -/
structure Session.Core where
  state : SessState
  inSlot : Option Nat
  outSlot : Option Nat
  cursor : Nat
  windows : Nat
  metered : Bool
  classed : Bool
  programmed : Nat
  trim : Option Trim
  role0 : BufRole
  holds0 : Nat
  role1 : BufRole
  holds1 : Nat

/-- The trim counts of a take that drains. -/
def Session.core (x : Session) : Session.Core :=
  { state := x.state, inSlot := x.inSlot, outSlot := x.outSlot, cursor := x.cursor, windows := x.windows, metered := x.meter.isSome,
    classed := x.snap.isSome, programmed := x.programmed, trim := if x.state = .draining then x.trim else none, role0 := x.buf0.role,
    holds0 := x.buf0.holds, role1 := x.buf1.role, holds1 := x.buf1.holds }

/-- From e to g no session has changed but in fields outside its core, nor have its claims, and no part frozen has thawed. -/
structure Engine.Aside (e g : Engine) : Prop where
  service : e.ssc.service = .frozen → g.ssc.service = .frozen
  slotsIn : g.slotsIn = e.slotsIn
  slotsOut : g.slotsOut = e.slotsOut
  rising : Tab.risingFrom none e.sessions = true → Tab.risingFrom none g.sessions = true
  core : ∀ k, (g.session k).core = (e.session k).core
  claims : ∀ k, g.claims k = e.claims k

theorem setSession_rising {e : Engine} (h : Tab.risingFrom none e.sessions = true) (k : Nat) (x : Session) :
    Tab.risingFrom none (e.setSession k x).sessions = true := by
  unfold Engine.setSession Tab.set
  dsimp only
  split
  · exact Tab.risingFrom_erase k none _ h
  · exact Tab.risingFrom_insert k x none _ nofun h

namespace Engine.Aside
variable {a b c : Engine}

theorem refl (a : Engine) : Aside a a := ⟨id, rfl, rfl, id, fun _ => rfl, fun _ => rfl⟩

theorem trans (h : Aside a b) (g : Aside b c) : Aside a c :=
  ⟨fun k => g.service (h.service k), g.slotsIn.trans h.slotsIn, g.slotsOut.trans h.slotsOut, fun k => g.rising (h.rising k),
    fun k => (g.core k).trans (h.core k), fun k => (g.claims k).trans (h.claims k)⟩

theorem ite {p : Prop} [Decidable p] (h : Aside a b) (g : Aside a c) : Aside a (if p then b else c) := ite_kept h g

theorem within {ps : List Part} (h : Engine.Within ps a b) (hps : partsApart [.slots, .sessions, .service, .storeQueues, .link] ps = true) : Aside a b := by
  have hout : ∀ p ∈ [Part.slots, .sessions, .service, .storeQueues, .link], decide (p ∈ ps) = false :=
    fun p hm => decide_eq_false (not_mem_of_partsApart hps hm)
  obtain ⟨hin, hsout⟩ := h.keeps .slots (hout _ (by simp))
  have hsessions : b.sessions = a.sessions := h.keeps .sessions (hout _ (by simp))
  obtain ⟨hserv, -⟩ := h.keeps .service (hout _ (by simp))
  obtain ⟨hread, hprog⟩ := h.keeps .storeQueues (hout _ (by simp))
  obtain ⟨hlink, -⟩ := h.keeps .link (hout _ (by simp))
  refine ⟨fun k => Eq.trans hserv k, hin, hsout, fun k => by rw [hsessions]; exact k, fun k => ?_, fun k => ?_⟩
  · rw [h.sessions_same (hout _ (by simp))]
  · unfold Engine.claims Ssc.claims
    rw [show b.ssc.link = a.ssc.link from hlink, show b.ssc.readQueue = a.ssc.readQueue from hread, show b.ssc.progQueue = a.ssc.progQueue from hprog]

/-- A change of one session outside its core. -/
theorem modSession (k : Nat) {f : Session → Session} (hf : (f (a.session k)).core = (a.session k).core) : Aside a (a.modSession k f) := by
  refine ⟨id, rfl, rfl, fun h => setSession_rising h k _, fun j => ?_, fun _ => rfl⟩
  by_cases hj : j = k
  · rw [hj, session_modSession_self]
    exact hf
  · rw [session_modSession_ne _ hj]

/-- A change of the store's side that leaves every session's claims. -/
theorem modSsc {f : Ssc → Ssc} (hs : a.ssc.service = .frozen → (f a.ssc).service = .frozen) (hc : ∀ k, (f a.ssc).claims k = a.ssc.claims k) :
    Aside a (a.modSsc f) := ⟨hs, rfl, rfl, id, fun _ => rfl, hc⟩

theorem clearTargets (r : Nat) (a : Engine) : Aside a (a.clearTargets r) :=
  foldl_kept (P := fun g : Engine => a.Aside g) (g := fun (e : Engine) (kx : Nat × Session) =>
    if kx.2.target = .record r then e.modSession kx.1 (fun x => { x with target := .none }) else e)
    (fun _ _ h => ite_kept (h.trans (modSession _ rfl)) h) _ (refl a)

end Engine.Aside

section Asides
variable (e : Engine)

theorem detachRecord_aside (r : Nat) (x : Record) : e.Aside (e.detachRecord r x) := by
  have hfirst : Engine.Within [.records, .counters, .mailboxes, .writes] e
      (((e.unlinkRecord r x).modCounter x.mailbox (Counters.leave x.state x.urgent)).charge x.mailbox (· - e.extent x.body)) :=
    (((unlinkRecord_within e r x).mono rfl).step (modCounter_within _ _ _) rfl).step (charge_within _ _ _) rfl
  exact (Engine.Aside.within hfirst rfl).trans (.clearTargets r _)

theorem freeRecordQuietly_aside (r : Nat) : e.Aside (e.freeRecordQuietly r) := by
  unfold Engine.freeRecordQuietly
  split
  · exact .refl e
  · exact (detachRecord_aside e _ _).trans (.within (dropShare_within _ _) rfl)

theorem freeRecord_aside (r : Nat) : e.Aside (e.freeRecord r) := by
  unfold Engine.freeRecord
  split
  · exact .refl e
  · exact (freeRecordQuietly_aside e r).trans (.within (handInputs_within _ _) rfl)

theorem letGo_aside (x : Session) : e.Aside (x.letGo e) := by
  unfold Session.letGo
  split
  · exact .refl e
  · exact freeRecord_aside e _
  · exact .within (abandonGreeting_within e _ _) rfl

theorem seals_aside (x : Session) (t : Trim) : e.Aside (x.seals t e) := .within (seals_within x t e) rfl

theorem flush_aside (t : Then) : e.Aside (e.flush t) := .within (flush_within e t) rfl

end Asides

end Sys2Proof.Machine

namespace Sys2Proof.Machine

/-! Proofs about section 2: the order of takes and the buffers that requests name, session by session (R18, R23, R76). -/

/-! ## The fields of a core -/

section Core
variable {x y : Session} (h : x.core = y.core)
include h

theorem state_of_core : x.state = y.state := congrArg Session.Core.state h

theorem role0_of_core : x.buf0.role = y.buf0.role := congrArg Session.Core.role0 h

theorem role1_of_core : x.buf1.role = y.buf1.role := congrArg Session.Core.role1 h

theorem role_of_core (b : Nat) : (x.buf b).role = (y.buf b).role := by
  unfold Session.buf
  split
  · exact role0_of_core h
  · exact role1_of_core h

theorem holds_of_core (b : Nat) : (x.buf b).holds = (y.buf b).holds := by
  unfold Session.buf
  split
  · exact congrArg Session.Core.holds0 h
  · exact congrArg Session.Core.holds1 h

theorem bufWith_of_core (role : BufRole) : x.bufWith role = y.bufWith role := by
  unfold Session.bufWith
  rw [role0_of_core h, role1_of_core h]

theorem trim_of_core (hx : x.state = .draining) : x.trim = y.trim := by
  have htrim := congrArg Session.Core.trim h
  unfold Session.core at htrim
  dsimp only at htrim
  rwa [if_pos hx, if_pos ((state_of_core h).symm.trans hx)] at htrim

/-- A session's place in take order is its core's. -/
theorem inTakeOrder_of_core {ws : List Nat} (hx : x.inTakeOrder ws) : y.inTakeOrder ws := by
  have hmeter : y.meter.isSome = x.meter.isSome := (congrArg Session.Core.metered h).symm
  have hsnap : y.snap.isSome = x.snap.isSome := (congrArg Session.Core.classed h).symm
  obtain ⟨hrise, hbehind, hfree, hlive, hidle, hnone, hdrain⟩ := hx
  have hstate := state_of_core h
  rw [hstate, show x.inSlot = y.inSlot from congrArg Session.Core.inSlot h, show x.outSlot = y.outSlot from congrArg Session.Core.outSlot h] at hfree
  rw [hstate, show x.cursor = y.cursor from congrArg Session.Core.cursor h, show x.windows = y.windows from congrArg Session.Core.windows h,
    show x.programmed = y.programmed from congrArg Session.Core.programmed h, role0_of_core h, role1_of_core h] at hlive
  rw [show x.programmed = y.programmed from congrArg Session.Core.programmed h] at hbehind
  refine ⟨hrise, hbehind, hfree, fun hl => ?_, fun hl => ?_, fun hl hd => hnone (hstate ▸ hl) (hstate ▸ hd), fun hd t ht => ?_⟩
  · obtain ⟨hm, hs, hw, hc, hp, hj, hb, hf⟩ := hlive hl
    rw [← Option.isSome_iff_ne_none] at hm hs
    refine ⟨Option.isSome_iff_ne_none.1 (hmeter.trans hm), Option.isSome_iff_ne_none.1 (hsnap.trans hs), hw, hc, hp, hj, hb, fun b hb' => ?_⟩
    rw [← holds_of_core h]
    exact hf b ((bufWith_of_core h _).trans hb')
  · rw [← bufWith_of_core h]
    exact hidle (hstate ▸ hl)
  · have hd' := hstate.trans hd
    exact hdrain hd' t ((trim_of_core h hd').trans ht)

end Core

/-! ## The buffers that a session's requests name (R18) -/

/-- The program requests of a session, the one in flight first. -/
def Claims.queued (c : Claims) : List ProgReq := (c.flight.map (·.1)).toList ++ c.programs

/-- The read requests of a session, the one in flight first. -/
def Claims.asked (c : Claims) : List ReadReq := c.reading.toList ++ c.reads

/-- Every request of a session names a buffer of its own, of the role that the request gives it. -/
def Session.names (c : Claims) (x : Session) : Prop :=
  (c.queued.map (fun r => decide (r.buf = 0)) ++ c.asked.map (fun r => decide (r.buf = 0))).Nodup ∧
    (∀ r ∈ c.queued, (x.buf r.buf).role = .queued) ∧
    ∀ r ∈ c.asked, ((x.buf r.buf).role = .reading ∧ x.state.playLive = true) ∨ ((x.buf r.buf).role = .stale ∧ c.reading = some r)

theorem names_of_core {x y : Session} (h : x.core = y.core) {c : Claims} (hx : x.names c) : y.names c := by
  obtain ⟨hnodup, hqueued, hasked⟩ := hx
  refine ⟨hnodup, fun r hr => (role_of_core h _).symm.trans (hqueued r hr), fun r hr => ?_⟩
  rw [← role_of_core h, ← state_of_core h]
  exact hasked r hr

/-- Pairs are each once where the second sides over each first side are. -/
theorem nodup_iff_fibers : ∀ l : List (Nat × Bool), l.Nodup ↔ ∀ k, ((l.filter (fun p => decide (p.1 = k))).map (·.2)).Nodup
  | [] => by simp
  | (a, b) :: l => by
    rw [List.nodup_cons, nodup_iff_fibers l]
    have hmem : ∀ k c, c ∈ (l.filter (fun p => decide (p.1 = k))).map (·.2) ↔ (k, c) ∈ l := fun k c => by
      rw [List.mem_map]
      constructor
      · rintro ⟨⟨i, d⟩, hp, rfl⟩
        obtain ⟨hp, hi⟩ := List.mem_filter.1 hp
        have hik : i = k := of_decide_eq_true hi
        exact hik ▸ hp
      · exact fun hp => ⟨(k, c), List.mem_filter.2 ⟨hp, decide_eq_true rfl⟩, rfl⟩
    constructor
    · rintro ⟨hnot, hrest⟩ k
      by_cases hk : a = k
      · rw [List.filter_cons_of_pos (by simpa using hk), List.map_cons, List.nodup_cons]
        exact ⟨fun hc => hnot (hk ▸ (hmem k b).1 hc), hrest k⟩
      · rw [List.filter_cons_of_neg (by simpa using hk)]
        exact hrest k
    · intro h
      have hself := h a
      rw [List.filter_cons_of_pos (by simp), List.map_cons, List.nodup_cons] at hself
      refine ⟨fun hc => hself.1 ((hmem a b).2 hc), fun k => ?_⟩
      by_cases hk : a = k
      · exact hk ▸ hself.2
      · have hk' := h k
        rwa [List.filter_cons_of_neg (by simpa using hk)] at hk'

/-- The program and the read in flight. -/
def Link.requests (l : Link) : List ProgReq × List ReadReq := match l with
  | .allocating r _ _ => ([r], [])
  | .programming r _ _ => ([r], [])
  | .reading r _ => ([], [r])
  | _ => ([], [])

theorem requests_programs (l : Link) (k : Nat) :
    l.requests.1.filter (fun r => decide (r.session = k)) = ((l.programOf k).map (·.1)).toList := by
  cases l with
  | allocating r i w => by_cases hr : r.session = k <;> simp [Link.requests, Link.programOf, hr]
  | programming r i w => by_cases hr : r.session = k <;> simp [Link.requests, Link.programOf, hr]
  | _ => rfl

theorem requests_reads (l : Link) (k : Nat) : l.requests.2.filter (fun r => decide (r.session = k)) = (l.readOf k).toList := by
  cases l with
  | reading r n => by_cases hr : r.session = k <;> simp [Link.requests, Link.readOf, hr]
  | _ => rfl

theorem claims_queued (e : Engine) (k : Nat) :
    (e.claims k).queued = (e.ssc.link.requests.1 ++ e.ssc.progQueue).filter (fun r => decide (r.session = k)) := by
  rw [List.filter_append, requests_programs]
  rfl

theorem claims_asked (e : Engine) (k : Nat) :
    (e.claims k).asked = (e.ssc.link.requests.2 ++ e.ssc.readQueue).filter (fun r => decide (r.session = k)) := by
  rw [List.filter_append, requests_reads]
  rfl

theorem mem_requests_reads (e : Engine) (r : ReadReq) : r ∈ e.ssc.link.requests.2 ↔ (e.claims r.session).reading = some r := by
  show _ ↔ e.ssc.link.readOf r.session = some r
  rw [← Option.mem_toList, ← requests_reads, List.mem_filter, decide_eq_true_eq]
  exact (and_iff_left rfl).symm

theorem namesBuffers_iff (e : Engine) : e.namesBuffers ↔ (e.ssc.service ≠ .frozen → ∀ k, (e.session k).names (e.claims k)) := by
  have hflight : e.namesBuffers ↔ (e.ssc.service ≠ .frozen →
      ((e.ssc.link.requests.1 ++ e.ssc.progQueue).map (fun r => (r.session, decide (r.buf = 0))) ++
        (e.ssc.link.requests.2 ++ e.ssc.readQueue).map (fun r => (r.session, decide (r.buf = 0)))).Nodup ∧
      (∀ r ∈ e.ssc.link.requests.1 ++ e.ssc.progQueue, ((e.session r.session).buf r.buf).role = .queued) ∧
      ∀ r ∈ e.ssc.link.requests.2 ++ e.ssc.readQueue, (((e.session r.session).buf r.buf).role = .reading ∧ (e.session r.session).state.playLive = true) ∨
        (((e.session r.session).buf r.buf).role = .stale ∧ r ∈ e.ssc.link.requests.2)) := by
    unfold Engine.namesBuffers Link.requests
    cases e.ssc.link <;> exact Iff.rfl
  rw [hflight]
  refine imp_congr_right fun _ => ?_
  have hfiber : ∀ k, (((e.ssc.link.requests.1 ++ e.ssc.progQueue).map (fun r => (r.session, decide (r.buf = 0))) ++
      (e.ssc.link.requests.2 ++ e.ssc.readQueue).map (fun r => (r.session, decide (r.buf = 0)))).filter (fun p => decide (p.1 = k))).map (·.2) =
      (e.claims k).queued.map (fun r => decide (r.buf = 0)) ++ (e.claims k).asked.map (fun r => decide (r.buf = 0)) := fun k => by
    rw [claims_queued, claims_asked, List.filter_append, List.map_append, List.filter_map, List.filter_map, List.map_map, List.map_map]
    rfl
  rw [nodup_iff_fibers]
  constructor
  · rintro ⟨hnodup, hqueued, hasked⟩ k
    refine ⟨(hfiber k) ▸ hnodup k, fun r hr => ?_, fun r hr => ?_⟩
    · rw [claims_queued] at hr
      obtain ⟨hr, hk⟩ := List.mem_filter.1 hr
      have hk : r.session = k := of_decide_eq_true hk
      exact hk ▸ hqueued r hr
    · rw [claims_asked] at hr
      obtain ⟨hmem, hk⟩ := List.mem_filter.1 hr
      have hk : r.session = k := of_decide_eq_true hk
      subst hk
      exact (hasked r hmem).imp_right fun h => ⟨h.1, (mem_requests_reads e r).1 h.2⟩
  · intro h
    refine ⟨fun k => (hfiber k).symm ▸ (h k).1, fun r hr => ?_, fun r hr => ?_⟩
    · obtain ⟨-, hqueued, -⟩ := h r.session
      exact hqueued r (by rw [claims_queued]; exact List.mem_filter.2 ⟨hr, decide_eq_true rfl⟩)
    · obtain ⟨-, -, hasked⟩ := h r.session
      exact (hasked r (by rw [claims_asked]; exact List.mem_filter.2 ⟨hr, decide_eq_true rfl⟩)).imp_right fun h =>
        ⟨h.1, (mem_requests_reads e r).2 h.2⟩

end Sys2Proof.Machine

namespace Sys2Proof.Machine

/-! Proofs about the machine: what every command keeps of the sessions and their requests, once for every property of them. -/

/-! ## What leaves every session's core and claims -/

namespace Engine.Aside
variable {a b : Engine}

/-- The channel, the lamp unit and the catalogue write queue are none of a session's. -/
theorem lines (l : Lmp) (m : Mgc) (q : List CatSeq) (w : List CatWrite) (c : Catalogue) (a : Engine) :
    Aside a { a with lmp := l, mgc := m, catQueue := q, asked := w, cat := c } := ⟨id, rfl, rfl, id, fun _ => rfl, fun _ => rfl⟩

theorem line (h : a.Line b) : Aside a b := by
  obtain ⟨l, f, o, r, rfl⟩ := h
  exact ⟨id, rfl, rfl, id, fun _ => rfl, fun _ => rfl⟩

theorem receiving (h : a.Receiving b) : Aside a b := by
  obtain ⟨hb, -⟩ := h
  rw [hb]
  exact lines a.lmp b.mgc a.catQueue a.asked a.cat a

/-- A link that holds none of a session's requests leaves its claims. -/
theorem link {l : Link} {n : Nat} (hp : ∀ k, l.programOf k = a.ssc.link.programOf k) (hr : ∀ k, l.readOf k = a.ssc.link.readOf k) :
    Aside a (a.modSsc (fun c => { c with link := l, opTimer := n })) := .modSsc id fun k => by
  unfold Ssc.claims
  dsimp only
  rw [hp, hr]

end Engine.Aside

/-- A link without a program or a read. -/
def Link.bare (l : Link) : Prop := l = .idle ∨ l = .recording ∨ ∃ i, l = .erasing i

theorem bare_programOf {l : Link} (h : l.bare) (k : Nat) : l.programOf k = none := by
  rcases h with rfl | rfl | ⟨i, rfl⟩ <;> rfl

theorem bare_readOf {l : Link} (h : l.bare) (k : Nat) : l.readOf k = none := by
  rcases h with rfl | rfl | ⟨i, rfl⟩ <;> rfl

/-- From one link without requests to another. -/
theorem bare_aside {e g : Engine} {ps : List Part} (h : Engine.Within ps e g) (hps : partsApart [.slots, .sessions, .service, .storeQueues] ps = true)
    (he : e.ssc.link.bare) (hg : g.ssc.link.bare) : e.Aside g := by
  have hout : ∀ p ∈ [Part.slots, .sessions, .service, .storeQueues], decide (p ∈ ps) = false :=
    fun p hm => decide_eq_false (not_mem_of_partsApart hps hm)
  obtain ⟨hin, hsout⟩ := h.keeps .slots (hout _ (by simp))
  have hsessions : g.sessions = e.sessions := h.keeps .sessions (hout _ (by simp))
  obtain ⟨hserv, -⟩ := h.keeps .service (hout _ (by simp))
  obtain ⟨hread, hprog⟩ := h.keeps .storeQueues (hout _ (by simp))
  refine ⟨fun k => Eq.trans hserv k, hin, hsout, fun k => by rw [hsessions]; exact k, fun k => ?_, fun k => ?_⟩
  · rw [h.sessions_same (hout _ (by simp))]
  · unfold Engine.claims Ssc.claims
    rw [bare_programOf he, bare_programOf hg, bare_readOf he, bare_readOf hg, show g.ssc.readQueue = e.ssc.readQueue from hread,
      show g.ssc.progQueue = e.ssc.progQueue from hprog]

section Asides
variable (e : Engine)

theorem mgmtOut_aside : e.Aside e.mgmtOut.2 := by
  have hlines : ∀ m q w, e.Aside { e with lmp := e.lmp, mgc := m, catQueue := q, asked := w, cat := e.cat } := fun m q w => .lines e.lmp m q w e.cat e
  unfold Engine.mgmtOut
  split
  · exact .refl e
  · refine .ite ?_ (hlines _ e.catQueue e.asked)
    unfold Engine.packetLeft
    dsimp only
    split
    · exact .ite (hlines _ _ e.asked) (hlines _ e.catQueue e.asked)
    · exact hlines _ e.catQueue e.asked

theorem rxRun_aside : ∀ (n : Nat) (bs : List Byte) (e : Engine), e.Aside (e.rxRun n bs)
  | 0, _, e => .refl e
  | _ + 1, [], e => .refl e
  | n + 1, b :: _, e => (Engine.Aside.receiving (rxByte_receiving b e)).trans (rxRun_aside n _ _)

theorem mgmtIn_aside (b : Byte) : e.Aside (e.mgmtIn b) := rxRun_aside _ _ _

theorem lampFrame_aside (n : Option Nat) (b : Byte) : e.Aside (e.lampFrame n b).2 := .line (lampFrame_line n b e)

theorem secondCounted_aside (s : State) : s.eng.Aside s.secondCounted.eng := by
  obtain ⟨l, m, h⟩ := secondCounted_eng s
  rw [h]
  exact .lines l m s.eng.catQueue s.eng.asked s.eng.cat s.eng

theorem takePulse_aside (s : State) : s.eng.Aside s.takePulse.eng := by
  obtain ⟨l, m, h⟩ := takePulse_eng s
  rw [h]
  exact .lines l m s.eng.catQueue s.eng.asked s.eng.cat s.eng

theorem boundary_aside (k : Option SyncKind) (s : State) : s.eng.Aside (s.boundary k).eng := by
  rw [← Engine.Worked.boundary_takePulse]
  exact (takePulse_aside s).trans (.line (boundary_line k (Engine.Worked.takePulse_pulseDue s)))

theorem beginFrame_aside (s : State) : s.eng.Aside s.beginFrame.eng := by
  unfold State.beginFrame
  split
  · exact .refl _
  · exact boundary_aside none s

theorem handInputs_aside (m : Nat) : e.Aside (e.handInputs m) := .within (handInputs_within e m) rfl

theorem handAll_aside (ms : List Nat) : e.Aside (e.handAll ms) := .within (handAll_within e ms) rfl

theorem examineEntry_aside (r day : Nat) : e.Aside (e.examineEntry r day).1 := by
  unfold Engine.examineEntry
  split
  · exact .refl e
  · split
    · split
      · exact .within (put_within e _) rfl
      · split
        · exact freeRecord_aside e r
        · exact .refl e
    · exact .refl e

theorem freeBox_aside (m : Nat) : e.Aside (e.freeBox m) :=
  foldl_kept (P := e.Aside) (fun g r h => h.trans (freeRecordQuietly_aside g r)) _ (.refl e)

theorem emptySlots_aside (m : Nat) : e.Aside (e.emptySlots m) :=
  foldl_kept (P := e.Aside) (fun g h k => k.trans (.within (emptySlot_within g m h) rfl)) _ (.refl e)

theorem addMembers_aside (l : Nat) : ∀ (ms : List Nat) (c : AddCounts) (e : Engine), e.Aside (e.addMembers l ms c).2
  | [], _, e => .refl e
  | m :: ms, c, e => by
    unfold Engine.addMembers
    split
    · exact addMembers_aside l ms _ e
    · split
      · exact (Engine.Aside.within (addMember_within e l m) rfl).trans (addMembers_aside l ms _ _)
      · exact .refl e

theorem startErase_aside (hl : e.ssc.link = .idle) : e.Aside e.startErase := by
  unfold Engine.startErase
  split
  · exact .refl e
  · exact .link (fun _ => by rw [hl]; rfl) (fun _ => by rw [hl]; rfl)

theorem afterSeq_aside (t : Then) : e.Aside (e.afterSeq t) := by
  unfold Engine.afterSeq
  split
  · exact .refl e
  · split
    · next r i w hl => exact .link (fun _ => by rw [hl]; rfl) (fun _ => by rw [hl]; rfl)
    · exact .refl e
  · split
    · next hl => exact .link (n := e.ssc.opTimer) (fun _ => by rw [hl]; rfl) (fun _ => by rw [hl]; rfl)
    · exact .refl e
  · exact .within (makeAllDirty_within e _) rfl
  · exact .within (modDle_within e _) rfl
  · exact .lines e.lmp _ e.catQueue e.asked e.cat e

theorem writeDone_aside : e.Aside e.writeDone := by
  have hlines : ∀ q c, e.Aside { e with lmp := e.lmp, mgc := e.mgc, catQueue := q, asked := e.asked, cat := c } := fun q c => .lines e.lmp e.mgc q e.asked c e
  unfold Engine.writeDone
  split
  · exact .refl e
  · split
    · exact (hlines _ e.cat).trans (afterSeq_aside _ _)
    · exact .ite ((hlines _ _).trans (afterSeq_aside _ _)) (hlines _ _)

theorem enterService_aside : e.Aside e.enterService := by
  unfold Engine.enterService
  split
  · exact .refl e
  · next p _ =>
    by_cases hstart : (decide (e.ssc.service ≠ .starting) || decide (e.catQueue ≠ [])) = true
    · rw [if_pos hstart]
      exact .refl e
    · rw [if_neg hstart]
      have hstarting : e.ssc.service = .starting := by
        by_contra hc
        exact hstart (by simp [hc])
      have hfirst : ∀ g : Engine, e.Aside g → g.ssc.service = .starting →
          e.Aside ((g.modSsc (fun c => { c with service := .service, start := none })).raiseStartDone p).examinePool := fun g hg hs =>
        ((hg.trans (.modSsc (fun hf => absurd (hs.symm.trans hf) nofun) fun _ => rfl)).trans (.within (raise_within _ _ _) rfl)).trans
          (.within (examinePool_within _) rfl)
      dsimp only
      split
      · exact hfirst e (.refl e) hstarting
      · have hhand : Engine.Within [.lmp] e e.handAtStart := by
          unfold Engine.handAtStart Engine.countLamps
          exact ((modLmp_within e _).step (handAll_within _ _) rfl).step (modLmp_within _ _) rfl
        exact hfirst _ (.within hhand rfl) (Eq.trans (hhand.keeps .service rfl).1 hstarting)

end Asides

theorem get_map_losc (k : Nat) : ∀ t : Tab Session, Tab.get Session.reset (t.map (fun kx => (kx.1, kx.2.losc))) k = (Tab.get Session.reset t k).losc
  | [] => rfl
  | (i, x) :: t => by
    have hrest := get_map_losc k t
    unfold Tab.get at hrest ⊢
    rw [List.map_cons, Tab.find?, Tab.find?]
    split
    · rfl
    · exact hrest

theorem risingFrom_losc : ∀ (lo : Option Nat) (t : Tab Session), Tab.risingFrom lo (t.map (fun kx => (kx.1, kx.2.losc))) = Tab.risingFrom lo t
  | _, [] => rfl
  | lo, (k, x) :: t => congrArg (Tab.above lo k && ·) (risingFrom_losc (some k) t)

theorem losc_core (x : Session) : x.losc.core = x.core := by
  unfold Session.losc
  split <;> rfl

/-- The timers on the local oscillator are outside every session's core. -/
theorem losc_aside (e : Engine) : e.Aside { e with sessions := e.sessions.map (fun kx => (kx.1, kx.2.losc)), ssc := e.ssc.losc } := by
  have hsame : e.ssc.losc.service = e.ssc.service ∧ ∀ k, e.ssc.losc.claims k = e.ssc.claims k := by
    unfold Ssc.losc
    split
    · exact ⟨rfl, fun _ => rfl⟩
    · exact ⟨rfl, fun _ => rfl⟩
  refine ⟨fun h => hsame.1.trans h, rfl, rfl, fun h => ?_, fun k => ?_, hsame.2⟩
  · exact (risingFrom_losc none e.sessions).trans h
  · exact (congrArg Session.core (get_map_losc k e.sessions)).trans (losc_core _)

end Sys2Proof.Machine

namespace Sys2Proof.Machine

/-! Proofs about the machine: a property of the sessions and their requests through every step. -/

/-- A property of the sessions and their requests that each operation on one session, and each operation of the store link, keeps. -/
structure Engine.Ordered (P : Engine → Prop) : Prop where
  aside : ∀ {e g : Engine}, e.Aside g → P e → P g
  frozen : ∀ {e : Engine}, e.ssc.service = .frozen → P e
  /- The operations on one session. -/
  endTake : ∀ {k : Nat} {e : Engine} (c : Cause) (cap : Option Nat), (e.session k).state.recordLive = true → P e → P (e.endTake k c cap)
  cancelTake : ∀ {k : Nat} {e : Engine}, (e.session k).state.recordLive = true ∨ (e.session k).state = .draining → P e →
    P ((((e.modSession k Session.stopMeter).discard k).releaseSlots k).enterEnded k .cancelled)
  endPlay : ∀ {k : Nat} {e : Engine} (now : Now) (c : Cause), (e.session k).state.playLive = true → P e → P (e.endPlay now k c)
  free : ∀ {k : Nat} {e : Engine}, (e.session k).state = .ended → P e → P (e.freeSession k)
  closeWindow : ∀ (k : Nat) {e : Engine}, P e → P (e.closeWindow k)
  voice : ∀ (now : Now) (hrx : List Byte) {e g : Engine}, e.closeWindows.Aside g → P e → P (g.voiceFrame now hrx)
  pausing : ∀ {k : Nat} {e : Engine}, (e.session k).state.playLive = true → P e → P (e.modSession k Session.pausing)
  resuming : ∀ {k : Nat} {e : Engine}, (e.session k).state.playLive = true → P e → P (e.modSession k Session.resuming)
  seek : ∀ {k : Nat} {e : Engine} (now : Now) (c : Nat), (e.session k).state.playLive = true → P e → P (e.seekSession now k c)
  openRecord : ∀ {q : OpenRecord} {e : Engine} (now : Now), (e.session q.session).state = .free → P e → P ((q.opened now e).startBuffer q.session)
  openPlay : ∀ {k out : Nat} {e : Engine} {x : Session}, (e.session k).state = .free →
    x.core = { Session.freeWith (e.session k).buf0 (e.session k).buf1 with state := .fetching, outSlot := some out, cursor := x.cursor }.core → P e →
    P (((e.setSession k x).bindSlots k none (some out)).fetch k)
  /- The operations of the store link. -/
  readEnds : ∀ {r : ReadReq} {n : Nat} {e : Engine} (c : Option StoreCause), e.ssc.link = .reading r n → P e → P (e.readEnds r n c)
  programDone : ∀ {r : ProgReq} {i : Nat} {w : Bool} {e : Engine}, e.ssc.link = .programming r i w → P e → P (e.programDone r i w)
  programFailed : ∀ {r : ProgReq} {i : Nat} {w : Bool} {e : Engine} (c : StoreCause), e.ssc.link = .programming r i w → P e → P (e.programFailed r i w c)
  startRead : ∀ {e : Engine}, e.ssc.link = .idle → P e → P e.startRead
  startProgram : ∀ {r : ProgReq} {q : List ProgReq} {e : Engine} (i : Nat), e.ssc.link = .idle → e.ssc.progQueue = r :: q → P e → P (e.startProgram r i)
  storeFull : ∀ {r : ProgReq} {q : List ProgReq} {e : Engine}, e.ssc.link = .idle → e.ssc.progQueue = r :: q → P e →
    P ((e.modSsc (fun c => { c with progQueue := q })).storeFull r)

namespace Engine.Ordered
variable {P : Engine → Prop} (hP : Ordered P) {e : Engine}
include hP

/-! ## Settling -/

omit hP in
theorem linkIdle (h : e.linkFree = true) : e.ssc.link = .idle := by
  unfold Engine.linkFree at h
  simp only [Bool.and_eq_true, decide_eq_true_eq] at h
  obtain ⟨⟨-, hl⟩, -⟩ := h
  exact hl

theorem flush (t : Then) (h : P e) : P (e.flush t) := hP.aside (flush_aside e t) h

theorem chooseProgram (hl : e.ssc.link = .idle) (h : P e) : P e.chooseProgram := by
  unfold Engine.chooseProgram
  split
  · exact h
  · next r q i is hq _ => exact hP.startProgram i hl hq h
  · next r q hq _ => exact hP.flush _ (hP.storeFull hl hq h)

theorem arbitrate : ∀ (n : Nat) {e : Engine}, P e → P (e.arbitrate n)
  | 0, _, h => h
  | n + 1, e, h => by
    unfold Engine.arbitrate
    by_cases hf : e.linkFree = true
    · have hl := linkIdle hf
      have hnext := arbitrate n (hP.chooseProgram hl h)
      have herase : P e.startErase := hP.aside (startErase_aside e hl) h
      exact ite_kept h (ite_kept herase (ite_kept hnext (ite_kept (hP.startRead hl h) (ite_kept hnext (ite_kept herase h)))))
    · rw [Bool.not_eq_true] at hf
      rw [hf]
      exact h

theorem settle (h : P e) : P e.settle :=
  hP.arbitrate _ (hP.flush _ (hP.aside (.within (endJobs_within _ _) rfl) (hP.flush _ h)))

/-! ## Sessions -/

theorem stopSession (now : Now) (k : Nat) (h : P e) : P (e.stopSession now k) := by
  unfold Engine.stopSession
  dsimp only
  split
  · next hl => exact hP.endTake _ _ hl h
  · split
    · next hl => exact hP.endPlay _ _ hl h
    · exact h

theorem cancelSession (now : Now) (k : Nat) (h : P e) : P (e.cancelSession now k) := by
  unfold Engine.cancelSession
  dsimp only
  split
  · next hl =>
    rw [Bool.or_eq_true, decide_eq_true_eq] at hl
    exact hP.cancelTake hl h
  · split
    · next hl => exact hP.endPlay _ _ hl h
    · exact h

theorem closeSession (now : Now) (k : Nat) (h : P e) : P (e.closeSession now k) := by
  unfold Engine.closeSession
  split
  · next hs => exact hP.free hs h
  · exact hP.stopSession now k (hP.aside (.modSession k rfl) h)

theorem loseSession (now : Now) (k : Nat) (h : P e) : P (e.loseSession now k) := by
  have haside : e.Aside (e.modSession k (fun x => { x with lossTimer := Config.lossPeriods })) := .modSession k rfl
  have hstate : ((e.modSession k (fun x => { x with lossTimer := Config.lossPeriods })).session k).state = (e.session k).state :=
    state_of_core (haside.core k)
  unfold Engine.loseSession
  dsimp only
  split
  · next hl => exact hP.endTake _ _ (hstate ▸ hl) (hP.aside haside h)
  · split
    · next hl => exact hP.endPlay _ _ (hstate ▸ hl) (hP.aside haside h)
    · exact h

theorem closeWindows (h : P e) : P e.closeWindows := foldl_kept (fun _ k h => hP.closeWindow k h) _ h

/-! ## The highway -/

theorem frame {s : State} (hrx : List Byte) (h : P s.eng) : P (s.frame hrx).eng := by
  have hfirst : s.eng.closeWindows.Aside (s.onEng Engine.closeWindows).beginFrame.eng := beginFrame_aside (s.onEng Engine.closeWindows)
  unfold State.frame
  dsimp only
  generalize (s.onEng Engine.closeWindows).beginFrame = s1 at *
  split
  · exact hP.voice _ _ (((((hfirst.trans (mgmtOut_aside _)).trans (mgmtIn_aside _ _)).trans (mgmtOut_aside _)).trans (mgmtIn_aside _ _)).trans
      (lampFrame_aside _ _ _)) h
  · exact hP.aside hfirst (hP.closeWindows h)

theorem syncPulse {s : State} (w : Nat) (x : Bool) (h : P s.eng) : P (s.syncPulse w x).eng := by
  unfold State.syncPulse
  split
  · exact h
  · split
    · exact hP.aside (boundary_aside _ s) h
    · exact h

theorem hclkLoss {s : State} (h : P s.eng) : P s.hclkLoss.eng := by
  unfold State.hclkLoss
  dsimp only [State.modHwi_eng]
  split
  · exact h
  · exact hP.aside ((takePulse_aside s).trans (.line (enterSearch_line _))) h

theorem localSecond {s : State} (h : P s.eng) :
    P (if s.cal.source = .losc then ({ s with cal := { s.cal with subCount := 0 } } : State).secondCounted else s).eng := by
  split
  · exact hP.aside (secondCounted_aside { s with cal := { s.cal with subCount := 0 } }) h
  · exact h

/-! ## The store link -/

theorem readComplete (good : Bool) (h : P e) : P (e.readComplete good) := by
  unfold Engine.readComplete
  split
  · next hl => exact hP.readEnds _ hl h
  · exact h

theorem programComplete (good : Bool) (h : P e) : P (e.programComplete good) := by
  unfold Engine.programComplete
  split
  · next hl => exact ite_kept (hP.programDone hl h) (hP.programFailed _ hl h)
  · exact h

theorem eraseDone_kept {i : Nat} (hl : e.ssc.link = .erasing i) (h : P e) : P (e.eraseDone i) :=
  hP.aside (bare_aside (eraseDone_within e i) rfl (.inr (.inr ⟨i, hl⟩)) (.inr (.inl (congrArg Ssc.link (eraseDone_ssc e i))))) h

theorem eraseFailed_kept {i : Nat} (c : StoreCause) (hl : e.ssc.link = .erasing i) (h : P e) : P (e.eraseFailed i c) := by
  refine hP.aside (bare_aside (eraseFailed_within e i c) rfl (.inr (.inr ⟨i, hl⟩)) (.inr (.inl ?_))) h
  by_cases h0 : (e.segment i).eraseFailures = 0
  · rw [eraseFailed_first c h0]
    exact congrArg Ssc.link (recordResult_ssc _)
  · rw [eraseFailed_again c h0, examinePool_ssc]
    exact congrArg Ssc.link (recordResult_ssc _)

theorem eraseComplete (good : Bool) (h : P e) : P (e.eraseComplete good) := by
  unfold Engine.eraseComplete
  split
  · next hl => exact ite_kept (hP.eraseDone_kept hl h) (hP.eraseFailed_kept _ hl h)
  · exact h

theorem opTimeout (h : P e) : P e.opTimeout := by
  unfold Engine.opTimeout
  split
  · next hl => exact hP.readEnds _ hl h
  · next hl => exact hP.programFailed _ hl h
  · next hl => exact hP.eraseFailed_kept _ hl h
  · exact h

theorem examination {s : State} (h : P s.eng) : P s.examination.eng := by
  have hends : ∀ {n : Nat} {t : State}, P t.eng → P (t.endSweep n).eng := fun ht => hP.aside (.within (raise_within _ _ _) rfl) ht
  unfold State.examination
  split
  · exact hends h
  · have h1 := hP.aside (examineEntry_aside s.eng s.cal.sweep.pointer s.cal.dayNumber) h
    dsimp only
    split
    · exact hends h1
    · exact h1

theorem freezePart {s : State} (h : P s.eng) : P s.freeze.eng := by
  by_cases hf : s.eng.ssc.service = .frozen
  · unfold State.freeze
    rw [if_pos hf]
    exact h
  · refine hP.frozen ?_
    have hkept : Engine.Kept (fun g : Engine => g.ssc.service = .frozen) := {
      session := fun _ _ _ h => h, slots := fun _ _ _ h => h, programs := fun _ _ h => h, reads := fun _ _ h => h, unwant := fun _ _ _ h => h,
      begun := fun _ _ _ h => h, charge := fun _ _ _ h => h, lamps := fun _ _ h => h, raise := fun _ _ _ h => h,
      cut := fun b f l g h => Eq.trans ((cutChain_within g b f l).keeps .service rfl).1 h,
      seals := fun b o n g h => Eq.trans ((sealBody_within g b o n).keeps .service rfl).1 h,
      free := fun r g h => Eq.trans ((freeRecord_within g r).keeps .service rfl).1 h,
      abandon := fun m j g h => Eq.trans ((abandonGreeting_within g m j).keeps .service rfl).1 h,
      sealed := fun r c g h => Eq.trans ((recordSealed_within g r c).keeps .service rfl).1 h,
      replace := fun m j g h => Eq.trans ((replaceGreeting_within g m j).keeps .service rfl).1 h,
      reader := fun b g h => Eq.trans ((dropReader_within g b).keeps .service rfl).1 h,
      target := fun now c n x g h => Eq.trans ((playTarget_within g now c n x).keeps .service rfl).1 h }
    unfold State.freeze
    rw [if_neg hf]
    dsimp only
    exact foldl_kept (P := fun g : Engine => g.ssc.service = .frozen) (fun _ _ h => hkept.freezeSession h) _ rfl

/-! ## Orders -/

omit hP in
theorem checked {cs : List (Bool × Result)} {s : State} {act : Reply} (h : P s.eng)
    (ha : firstRefusal cs = none → P act.state.eng) : P (Reply.checked cs s act).state.eng := by
  unfold Reply.checked
  split
  · exact h
  · next hc => exact ha hc

omit hP in
theorem passes {cs : List (Bool × Result)} (h : firstRefusal cs = none) {c : Bool × Result} (hc : c ∈ cs) : c.1 = false := firstRefusal_none_iff.1 h c hc

theorem openRecordOrder {ps : List Byte} {s : State} (h : P s.eng) : P (orderOpenRecord ps s).state.eng := by
  refine checked h fun hc => ?_
  generalize OpenRecord.read ps = q at hc
  have hfree : (s.eng.session q.session).state = .free := by
    have hf : decide ((s.eng.session q.session).state ≠ .free) = false :=
      passes hc (c := (decide ((s.eng.session q.session).state ≠ .free), Result.busy)) (by simp [OpenRecord.checks])
    exact not_not.1 (of_decide_eq_false hf)
  exact hP.openRecord s.now hfree h

theorem openPlayOrder {ps : List Byte} {s : State} (h : P s.eng) : P (orderOpenPlay ps s).state.eng := by
  refine checked h fun hc => ?_
  have hfree : (s.eng.session (num1 ps 0)).state = .free := by
    have hf : decide ((s.eng.session (num1 ps 0)).state ≠ .free) = false :=
      passes hc (c := (decide ((s.eng.session (num1 ps 0)).state ≠ .free), Result.busy)) (by simp)
    exact not_not.1 (of_decide_eq_false hf)
  split
  · exact h
  · next t b _ =>
    refine checked h fun _ => ?_
    have hread : s.eng.Aside (s.eng.modHold b (fun h => { h with readers := h.readers + 1 })) := .within (modHold_within s.eng b _) rfl
    exact hP.openPlay (e := s.eng.modHold b (fun h => { h with readers := h.readers + 1 })) hfree rfl (hP.aside hread h)

theorem formatOrder {ps : List Byte} {s : State} (hs : s.eng.ssc.service = .service) (h : P s.eng) : P (orderFormat ps s).state.eng := by
  refine checked h fun _ => ?_
  have hstart : s.eng.Aside (s.eng.beginStart .format true) := .modSsc (fun hf => absurd (hs.symm.trans hf) nofun) fun _ => rfl
  have hfold : ∀ (f : Nat → Engine → Engine), (∀ (m : Nat) (g : Engine), g.Aside (f m g)) → ∀ (l : List Nat) (g : Engine), g.Aside (l.foldl (fun e m => f m e) g) :=
    fun f hf l g => foldl_kept (P := g.Aside) (fun u m hu => hu.trans (hf m u)) l (.refl g)
  refine hP.aside ?_ h
  exact ((hstart.trans (hfold Engine.freeBox (fun m g => freeBox_aside g m) _ _)).trans
    (hfold Engine.emptySlots (fun m g => emptySlots_aside g m) _ _)).trans (handAll_aside _ _)

/-- What each order's owner does is kept. FORMAT reaches its owner in SERVICE alone. -/
theorem run (o : Order) (ps : List Byte) {s : State} (hs : o = .format → s.eng.ssc.service = .service) (h : P s.eng) :
    P (o.run ps s).state.eng := by
  have hby : ∀ {g : Engine}, s.eng.Aside g → P g := fun hg => hP.aside hg h
  have hplay : ∀ {k : Nat} {cs : List (Bool × Result)}, firstRefusal (cs ++ [(!(s.eng.session k).state.playLive, Result.wrongState)]) = none →
      (s.eng.session k).state.playLive = true := fun {k cs} hc =>
    by simpa using passes hc (c := (!(s.eng.session k).state.playLive, Result.wrongState)) (by simp)
  cases o <;> dsimp only [Order.run]
  case openRecord => exact hP.openRecordOrder h
  case openPlay => exact hP.openPlayOrder h
  case stop => exact checked h fun _ => hP.stopSession _ _ h
  case cancel => exact checked h fun _ => hP.cancelSession _ _ h
  case pause => exact checked h fun hc => by dsimp only [Reply.done]; split <;> [exact h; exact hP.pausing (hplay hc) h]
  case resume => exact checked h fun hc => by dsimp only [Reply.done]; split <;> [exact hP.resuming (hplay hc) h; exact h]
  case seek => exact checked h fun hc => hP.seek _ _ (hplay hc) h
  case close => exact checked h fun _ => hP.closeSession _ _ h
  case sessionStatus =>
    refine checked h fun _ => ?_
    dsimp only [Reply.done]
    split
    · next he =>
      simp only [Bool.and_eq_true, decide_eq_true_eq] at he
      obtain ⟨hended, -⟩ := he
      exact hP.free hended h
    · exact h
  case list => exact checked h fun _ => h
  case mark => exact checked h fun _ => hby (.within (markRecord_within _ _ _ _) rfl)
  case delete => exact checked h fun _ => hby (freeRecord_aside _ _)
  case purge =>
    refine checked h fun _ => hby ?_
    exact ((freeBox_aside _ _).trans (handInputs_aside _ _)).trans (emptySlots_aside _ _)
  case loadClass => exact checked h fun _ => hby ((Engine.Aside.within (put_within _ _) rfl).trans (handAll_aside _ _))
  case readClass => exact checked h fun _ => h
  case loadMailbox =>
    refine checked h fun _ => ?_
    split
    · exact h
    · exact hby (((Engine.Aside.within (put_within _ _) rfl).trans (.within (modLmp_within _ _) rfl)).trans (handInputs_aside _ _))
  case readMailbox =>
    refine checked h fun _ => ?_
    split <;> exact h
  case selectGreeting =>
    refine checked h fun _ => ?_
    dsimp only [Reply.done, State.onEng, Engine.setActive]
    split
    · exact h
    · exact ite_kept h (hby (.within (put_within _ _) rfl))
  case eraseGreeting => exact checked h fun _ => hby (.within (emptySlot_within _ _ _) rfl)
  case listClear =>
    exact checked h fun _ => by dsimp only [Reply.done]; split <;> [exact h; exact hby (.within (clearList_within _ _) rfl)]
  case listAdd => exact checked h fun _ => hby (addMembers_aside _ _ _ _)
  case readList => exact checked h fun _ => h
  case deliver =>
    refine checked h fun _ => ?_
    split
    · exact hby (.within (acceptJob_within _ _) rfl)
    · exact h
  case cancelDelivery => exact checked h fun _ => hby (.within (modDle_within _ _) rfl)
  case clearFault =>
    unfold orderClearFault
    split
    · exact h
    · exact hby (.within (modLmp_within _ _) rfl)
  case lampStatus =>
    unfold orderLampStatus
    split <;> exact h
  case setClock => exact checked h fun _ => h
  case readClock => exact h
  case sweep => exact checked h fun _ => h
  case status => exact h
  case setOptions =>
    unfold orderSetOptions
    split
    · exact h
    · exact ite_kept (hby (.within (put_within _ _) rfl)) (hby ((Engine.Aside.within (put_within _ _) rfl).trans (.within (examinePool_within _) rfl)))
  case readOptions => exact h
  case clearFlags => exact orderClearFlags_eq ps s ▸ hby (.within (modMgc_within _ _) rfl)
  case format => exact hP.formatOrder (hs rfl) h
  case restart => exact hby (.within (modMgc_within _ _) rfl)

theorem judgeOrder {code : Byte} {ps : List Byte} {s : State} (hs : s.eng.ssc.service ≠ .frozen) (h : P s.eng) :
    P (s.judgeOrder code ps).state.eng := by
  unfold State.judgeOrder
  split
  · exact h
  · next o _ =>
    split
    · exact h
    · split
      · exact h
      · next hn =>
        refine hP.run o ps (fun hf => ?_) h
        subst hf
        cases hv : s.eng.ssc.service
        case service => rfl
        case starting => exact absurd (by rw [hv]; rfl) hn
        case frozen => exact absurd hv hs

theorem channel {f : Mgc → Mgc} (h : P e) : P (e.modMgc f) := hP.aside (.within (modMgc_within e f) rfl) h

theorem takeOrder {s : State} (h : P s.eng) : P s.takeOrder.eng := by
  unfold State.takeOrder
  split
  · next code tag ps _ _ =>
    split
    · next hc =>
      unfold Reply.place
      have hjudge := hP.judgeOrder (code := code) (ps := ps) (s := s.onEng (fun e => e.modMgc Mgc.takeHead)) (fun hf => ?_) (hP.channel h)
      · exact hP.settle (ite_kept (hP.flush _ hjudge) (hP.channel hjudge))
      · have hf : s.eng.ssc.service = .frozen := hf
        simp [Engine.canTake, hf] at hc
    · exact h
  · exact h

theorem takeOrders : ∀ (n : Nat) {s : State}, P s.eng → P (s.takeOrders n).eng
  | 0, _, h => h
  | n + 1, _, h => takeOrders n (hP.takeOrder h)

theorem finish {s : State} (h : P s.eng) : P s.finish.eng := hP.takeOrders _ (hP.settle h)

theorem deliverOrder {code tag : Byte} {ps : List Byte} {s : State} (h : P s.eng) : P (s.deliverOrder code tag ps).eng := by
  unfold State.deliverOrder
  split
  · exact h
  · exact hP.takeOrders _ (hP.aside (.receiving (goodPacket_receiving (code :: tag :: ps) s.eng)) h)

/-! ## Steps -/

theorem event (c : Instr) (hc : resets c = false) (hb : orderBody c = none) {s t : State} (h : P s.eng) (hex : exec c s = .next t) : P t.eng := by
  have hby : ∀ {g : Engine}, s.eng.Aside g → P g := fun hg => hP.aside hg h
  cases c <;> cases hb <;> cases hc <;> cases hex
  case freeze => exact hP.freezePart h
  case syncPulse => exact hP.finish (hP.syncPulse _ _ h)
  case frame => exact hP.finish (hP.frame _ h)
  case hclkLoss => exact hP.finish (hP.hclkLoss h)
  case secondsPulse => exact hP.finish (hby (takePulse_aside s))
  case localSecond => exact hP.finish (hP.localSecond h)
  case windowEnd => exact hP.finish (hP.closeWindow _ h)
  case lossTimerExpiry => exact hP.finish (hP.loseSession _ _ (hP.closeWindow _ h))
  case retryDue =>
    refine hP.finish ?_
    split
    · exact hby (.within (modLmp_within _ _) rfl)
    · exact h
  case readComplete => exact hP.finish (hP.readComplete _ h)
  case programComplete => exact hP.finish (hP.programComplete _ h)
  case eraseComplete => exact hP.finish (hP.eraseComplete _ h)
  case storeOpTimeout => exact hP.finish (hP.opTimeout h)
  case catalogueWriteComplete => exact hP.finish (hby (writeDone_aside _))
  case enterService => exact hP.finish (hby (enterService_aside _))
  case deliveryRecipient =>
    refine hP.finish ?_
    split
    · exact hby (.within (takeRecipient_within _ _) rfl)
    · exact h
  case sweepExamination =>
    refine hP.finish ?_
    split
    · exact hP.examination h
    · exact h

/-- Every step keeps it, where a reset does. -/
theorem step {s t : State} (h : P s.eng) (hreset : ∀ c rest, s.pending = c :: rest → resets c = true →
    Machine.exec c { s with pending := rest } = .next t → P t.eng) (hst : Machine.step s = .next t) : P t.eng := by
  unfold Machine.step at hst
  split at hst
  · cases hst
    exact hP.aside (losc_aside _) h
  · next c rest hp =>
    cases hc : resets c with
    | true => exact hreset c rest hp hc hst
    | false => cases hb : orderBody c with
      | some body =>
        obtain ⟨code, tag, ps, -, hexec⟩ := exec_of_orderBody hb
        cases (hexec _).symm.trans hst
        exact hP.deliverOrder (s := { s with pending := rest }) h
      | none => exact hP.event (s := { s with pending := rest }) c hc hb h hst

end Engine.Ordered

end Sys2Proof.Machine

namespace Sys2Proof.Machine

/-! Proofs about section 2: what an operation on one session leaves of the others, and of the slot bindings (R8). -/

/-! ## The slot bindings -/

/-- The slot maps bind each timeslot to the session that holds it, and a free session holds none. -/
structure Engine.SlotsFit (e : Engine) : Prop where
  risesIn : Tab.risingFrom none e.slotsIn = true
  risesOut : Tab.risingFrom none e.slotsOut = true
  rises : Tab.risingFrom none e.sessions = true
  boundIn : ∀ n k, Tab.find? e.slotsIn n = some k → (e.session k).inSlot = some n
  boundOut : ∀ n k, Tab.find? e.slotsOut n = some k → (e.session k).outSlot = some n
  free : ∀ k, (e.session k).state = .free → (e.session k).inSlot = none ∧ (e.session k).outSlot = none

/-- From x to y a session keeps its timeslots, and becomes free only without any. -/
structure Session.Holds (x y : Session) : Prop where
  inSlot : y.inSlot = x.inSlot
  outSlot : y.outSlot = x.outSlot
  free : y.state = .free → x.state = .free ∨ (x.inSlot = none ∧ x.outSlot = none)

namespace Session.Holds
variable {x y z : Session}

theorem of_state (hi : y.inSlot = x.inSlot) (ho : y.outSlot = x.outSlot) (hs : y.state = x.state) : x.Holds y := ⟨hi, ho, fun h => .inl (hs ▸ h)⟩

theorem of_core (h : y.core = x.core) : x.Holds y :=
  of_state (congrArg Session.Core.inSlot h) (congrArg Session.Core.outSlot h) (state_of_core h)

theorem of_onlyBufs (h : x.OnlyBufs y) : x.Holds y := by
  obtain ⟨b0, b1, rfl⟩ := h
  exact of_state rfl rfl rfl

/-- No session becomes free here. -/
theorem of_busy (hi : y.inSlot = x.inSlot) (ho : y.outSlot = x.outSlot) (hs : y.state ≠ .free) : x.Holds y := ⟨hi, ho, fun h => absurd h hs⟩

end Session.Holds

theorem slotsFit_of_holds {e g : Engine} (h : e.SlotsFit) (hi : g.slotsIn = e.slotsIn) (ho : g.slotsOut = e.slotsOut)
    (hr : Tab.risingFrom none g.sessions = true) (hs : ∀ k, (e.session k).Holds (g.session k)) : g.SlotsFit := by
  obtain ⟨hrin, hrout, -, hbin, hbout, hfree⟩ := h
  refine ⟨hi ▸ hrin, ho ▸ hrout, hr, fun n k hn => (hs k).inSlot.trans (hbin n k (hi ▸ hn)),
    fun n k hn => (hs k).outSlot.trans (hbout n k (ho ▸ hn)), fun k hk => ?_⟩
  rw [(hs k).inSlot, (hs k).outSlot]
  exact ((hs k).free hk).elim (hfree k) id

theorem rising_unbound {n : Option Nat} {t : Tab Nat} (h : Tab.risingFrom none t = true) : Tab.risingFrom none (unbound n t) = true := by
  cases n with
  | none => exact h
  | some n => exact Tab.risingFrom_erase n none t h

theorem releaseSlots_sessions (k j : Nat) (e : Engine) :
    (e.releaseSlots k).session j = if j = k then { e.session k with inSlot := none, outSlot := none } else e.session j :=
  session_modSession _ k _ j

theorem releaseSlots_fit (k : Nat) {e : Engine} (h : e.SlotsFit) : (e.releaseSlots k).SlotsFit := by
  obtain ⟨hin, hout⟩ := releaseSlots_slots k e
  obtain ⟨hrin, hrout, hr, hbin, hbout, hfree⟩ := h
  refine ⟨hin ▸ rising_unbound hrin, hout ▸ rising_unbound hrout, setSession_rising (e := { e with
    slotsIn := (e.releaseSlots k).slotsIn, slotsOut := (e.releaseSlots k).slotsOut }) hr k _, fun n j hn => ?_, fun n j hn => ?_, fun j hj => ?_⟩
  · rw [hin, find?_unbound] at hn
    split at hn
    · cases hn
    · next hne =>
      have hbound := hbin n j hn
      rw [releaseSlots_sessions, if_neg (fun hjk : j = k => hne (hjk ▸ hbound))]
      exact hbound
  · rw [hout, find?_unbound] at hn
    split at hn
    · cases hn
    · next hne =>
      have hbound := hbout n j hn
      rw [releaseSlots_sessions, if_neg (fun hjk : j = k => hne (hjk ▸ hbound))]
      exact hbound
  · rw [releaseSlots_sessions] at hj ⊢
    split at hj
    · next hjk =>
      rw [if_pos hjk]
      exact ⟨rfl, rfl⟩
    · next hjk =>
      rw [if_neg hjk]
      exact hfree j hj

/-! ## An operation on one session -/

/-- From e to g no session but k has changed in its core or its claims, no part frozen has thawed, and the slot bindings still fit. -/
structure Engine.Beside (k : Nat) (e g : Engine) : Prop where
  service : e.ssc.service = .frozen → g.ssc.service = .frozen
  core : ∀ j, j ≠ k → (g.session j).core = (e.session j).core
  claims : ∀ j, j ≠ k → g.claims j = e.claims j
  fit : e.SlotsFit → g.SlotsFit

theorem Engine.Aside.beside {e g : Engine} (h : e.Aside g) (k : Nat) : Engine.Beside k e g :=
  ⟨h.service, fun j _ => h.core j, fun j _ => h.claims j,
    fun hf => slotsFit_of_holds hf h.slotsIn h.slotsOut (h.rising hf.rises) fun j => .of_core (h.core j)⟩

/-- A filter keeps all that a narrower one takes. -/
theorem filter_filter_of_imp {α : Type} {p q : α → Bool} (h : ∀ a, p a = true → q a = true) (l : List α) : (l.filter q).filter p = l.filter p := by
  rw [List.filter_filter]
  refine List.filter_congr fun a _ => ?_
  cases hp : p a
  · rfl
  · rw [h a hp]
    rfl

theorem unwanted_requests (k : Nat) (test : ProgReq → Bool) (l : Link) {j : Nat} (hj : j ≠ k) : (l.unwanted k test).programOf j = l.programOf j := by
  have hflag : ∀ r : ProgReq, ∀ w : Bool, r.session = j → (w && !(decide (r.session = k) && test r)) = w := fun r w hr => by
    rw [decide_eq_false (hr ▸ hj), Bool.false_and, Bool.not_false, Bool.and_true]
  cases l with
  | allocating r i w =>
    unfold Link.unwanted Link.programOf
    dsimp only
    split
    · next hr => rw [hflag r w hr]
    · rfl
  | programming r i w =>
    unfold Link.unwanted Link.programOf
    dsimp only
    split
    · next hr => rw [hflag r w hr]
    · rfl
  | _ => rfl

theorem unwanted_readOf (k : Nat) (test : ProgReq → Bool) (l : Link) (j : Nat) : (l.unwanted k test).readOf j = l.readOf j := by cases l <;> rfl

namespace Engine.Beside
variable {k : Nat} {a b c e : Engine}

theorem refl (k : Nat) (a : Engine) : Beside k a a := ⟨id, fun _ _ => rfl, fun _ _ => rfl, id⟩

theorem trans (h : Beside k a b) (g : Beside k b c) : Beside k a c :=
  ⟨fun hs => g.service (h.service hs), fun j hj => (g.core j hj).trans (h.core j hj), fun j hj => (g.claims j hj).trans (h.claims j hj),
    fun hf => g.fit (h.fit hf)⟩

theorem step (h : Beside k a b) (g : b.Aside c) : Beside k a c := h.trans (g.beside k)

theorem ite {p : Prop} [Decidable p] (h : Beside k a b) (g : Beside k a c) : Beside k a (if p then b else c) := ite_kept h g

theorem modSession {f : Session → Session} (hf : (a.session k).Holds (f (a.session k))) : Beside k a (a.modSession k f) := by
  refine ⟨id, fun j hj => by rw [session_modSession_ne _ hj], fun _ _ => rfl, fun h => slotsFit_of_holds h rfl rfl (setSession_rising h.rises k _) fun j => ?_⟩
  by_cases hj : j = k
  · rw [hj, session_modSession_self]
    exact hf
  · rw [session_modSession_ne _ hj]
    exact .of_state rfl rfl rfl

theorem modBuf (n : Nat) (f : Buffer → Buffer) : Beside k a (a.modBuf k n f) := modSession (.of_onlyBufs (setBuf_onlyBufs _ _ _))

theorem foldl_modBuf {α : Type} (n : α → Nat) (f : Buffer → Buffer) (l : List α) : Beside k a (l.foldl (fun e r => e.modBuf k (n r) f) a) :=
  foldl_kept (P := Beside k a) (g := fun e r => e.modBuf k (n r) f) (fun _ _ h => h.trans (modBuf _ _)) l (refl k a)

theorem modSsc {f : Ssc → Ssc} (hs : a.ssc.service = .frozen → (f a.ssc).service = .frozen) (hc : ∀ j, j ≠ k → (f a.ssc).claims j = a.ssc.claims j) :
    Beside k a (a.modSsc f) :=
  ⟨hs, fun _ _ => rfl, hc, fun h => slotsFit_of_holds h rfl rfl h.rises fun _ => .of_state rfl rfl rfl⟩

theorem releaseSlots (k : Nat) (a : Engine) : Beside k a (a.releaseSlots k) :=
  ⟨id, fun j hj => by rw [releaseSlots_sessions, if_neg hj], fun _ _ => rfl, releaseSlots_fit k⟩

/-! ## The requests of one session -/

theorem appendProgram {r : ProgReq} (hr : r.session = k) : Beside k a (a.modSsc (fun c => { c with progQueue := c.progQueue ++ [r] })) := by
  refine modSsc id fun j hj => ?_
  unfold Ssc.claims
  dsimp only
  rw [List.filter_append, List.filter_cons_of_neg (by simpa [hr] using hj.symm), List.filter_nil, List.append_nil]

theorem appendRead {r : ReadReq} (hr : r.session = k) : Beside k a (a.modSsc (fun c => { c with readQueue := c.readQueue ++ [r] })) := by
  refine modSsc id fun j hj => ?_
  unfold Ssc.claims
  dsimp only
  rw [List.filter_append, List.filter_cons_of_neg (by simpa [hr] using hj.symm), List.filter_nil, List.append_nil]

theorem withdrawPrograms (k : Nat) (test : ProgReq → Bool) (a : Engine) : Beside k a (a.withdrawPrograms k test) := by
  have hqueue : Beside k a (a.modSsc (fun c => { c with progQueue := c.progQueue.filter (fun r => !(r.session = k && test r)) })) := by
    refine modSsc id fun j hj => ?_
    unfold Ssc.claims
    dsimp only
    rw [filter_filter_of_imp fun r hr => by simp [of_decide_eq_true hr, hj]]
  exact hqueue.trans (foldl_modBuf _ _ _)

theorem unwant (k : Nat) (test : ProgReq → Bool) (a : Engine) : Beside k a (a.unwant k test) := by
  refine modSsc id fun j hj => ?_
  show (({ a.ssc with link := a.ssc.link.unwanted k test } : Ssc).claims j) = _
  unfold Ssc.claims
  dsimp only
  rw [unwanted_requests k test a.ssc.link hj, unwanted_readOf]

theorem withdrawReads (k : Nat) (a : Engine) : Beside k a (a.withdrawReads k) := by
  have hqueue : Beside k a (a.modSsc (fun c => { c with readQueue := c.readQueue.filter (fun r => r.session ≠ k) })) := by
    refine modSsc id fun j hj => ?_
    unfold Ssc.claims
    dsimp only
    rw [filter_filter_of_imp fun r hr => by simp [of_decide_eq_true hr, hj]]
  unfold Engine.withdrawReads
  dsimp only
  have hidle := hqueue.trans (foldl_modBuf (fun r : ReadReq => r.buf) Buffer.idled (a.ssc.readQueue.filter (fun r => r.session = k)))
  split
  · exact .ite (hidle.trans (modBuf _ _)) hidle
  · exact hidle

/-! ## Ends -/

theorem freeSession (k : Nat) (a : Engine) : Beside k a (a.freeSession k) := by
  refine (releaseSlots k a).trans (modSession ?_)
  rw [releaseSlots_sessions, if_pos rfl]
  exact ⟨rfl, rfl, fun _ => .inr ⟨rfl, rfl⟩⟩

theorem enterEnded (k : Nat) (c : Cause) (a : Engine) : Beside k a (a.enterEnded k c) := by
  have h1 : Beside k a (a.modSession k (fun x => { x with state := .ended, outcome := some c, endCause := none })) := modSession (.of_busy rfl rfl nofun)
  have h2 : ∀ g : Engine, Beside k a g → ∀ d, Beside k a (g.raise .sessionEnd d) := fun g hg d => hg.step (.within (raise_within g _ d) rfl)
  exact .ite (h1.trans (freeSession k _)) (.ite ((h2 _ h1 _).trans (freeSession k _)) (h2 _ h1 _))

theorem idleFilling (k : Nat) (a : Engine) : Beside k a (a.idleFilling k) := modSession (.of_onlyBufs (changeFilling_onlyBufs Buffer.idled _))

theorem handBuffer (k : Nat) (a : Engine) : Beside k a (a.handBuffer k) := by
  unfold Engine.handBuffer
  dsimp only
  split
  · exact refl k a
  · exact (modBuf _ _).trans (appendProgram rfl)

theorem discard (k : Nat) (a : Engine) : Beside k a (a.discard k) := by
  have hfirst := ((withdrawPrograms k (fun _ => true) a).trans (unwant k (fun _ => true) _)).trans (idleFilling k _)
  unfold Engine.discard
  dsimp only
  generalize ((a.withdrawPrograms k (fun _ => true)).unwant k (fun _ => true)).idleFilling k = g at hfirst ⊢
  have hrefund := hfirst.step (.within (refund_within g k (g.hold (g.session k).bodyNo).begun) rfl)
  exact (hrefund.step (letGo_aside _ (g.session k))).trans (modSession (.of_state rfl rfl rfl))

theorem trimLeft (k : Nat) (t : Trim) (a : Engine) : Beside k a (a.trimLeft k t) := by
  have hcut : Beside k a (a.trimCut k t) := (((Engine.Aside.within (cutChain_within a _ _ _) rfl).beside k).trans (unwant k _ _)).trans (withdrawPrograms k _ _)
  exact .ite (hcut.trans (idleFilling k _)) (hcut.trans (handBuffer k _))

theorem applyTrim (k : Nat) (t : Trim) (a : Engine) : Beside k a (a.applyTrim k t) := by
  rw [applyTrim_eq]
  exact (((trimLeft k t a).step (.within (refund_within _ _ _) rfl)).step (.within (handTake_within _ _) rfl)).trans (modSession (.of_state rfl rfl rfl))

end Engine.Beside

end Sys2Proof.Machine

namespace Sys2Proof.Machine

/-! Proofs about section 2: the take order of one session (R23, R24, R28, R76). -/

/-! ## A session and its wanted requests in order -/

/-- A take in order with the wanted requests of its session: the windows closed stand within one of those complete, and the segments programmed, those asked
for and the one filling lie within them, in that order. -/
structure Session.Taking (ws : List Nat) (x : Session) : Prop where
  metered : x.meter.isSome = true
  classed : x.snap.isSome = true
  closed : x.windows ≤ x.cursor / 64
  soon : x.cursor / 64 ≤ x.windows + 1
  programmed : 32 * x.programmed ≤ x.windows
  asked : ∀ j ∈ ws, 32 * (j + 1) ≤ x.windows
  one : ¬ (x.buf0.role = .filling ∧ x.buf1.role = .filling)
  filling : ∀ b, (x.buf b).role = .filling → 32 * (x.buf b).holds ≤ x.windows ∧ x.programmed ≤ (x.buf b).holds ∧ ∀ j ∈ ws, j < (x.buf b).holds

/-- A session in take order with its wanted requests, its timeslots apart. -/
structure Session.Order (ws : List Nat) (x : Session) : Prop where
  rises : ws.Pairwise (· < ·)
  behind : ∀ j ∈ ws, x.programmed ≤ j
  taking : x.state.recordLive = true → x.Taking ws
  unfilled : x.state.recordLive = false → ∀ b, (x.buf b).role ≠ .filling
  unasked : x.state.recordLive = false → x.state ≠ .draining → ws = []
  kept : x.state = .draining → ∀ t, x.trim = some t → ∀ j ∈ ws, t.keeps j = true

theorem bufWith_eq_none {x : Session} {role : BufRole} : x.bufWith role = none ↔ ∀ b, (x.buf b).role ≠ role := by
  have hboth : (∀ b, (x.buf b).role ≠ role) ↔ x.buf0.role ≠ role ∧ x.buf1.role ≠ role :=
    ⟨fun h => ⟨h 0, h 1⟩, fun h b => by unfold Session.buf; split <;> [exact h.1; exact h.2]⟩
  rw [hboth]
  unfold Session.bufWith
  split
  · next h => simp [h]
  · next h => split <;> simp [*]

theorem role_of_bufWith {x : Session} {role : BufRole} {b : Nat} (h : x.bufWith role = some b) : (x.buf b).role = role :=
  ((bufWith_eq_some (bufWith_le h)).1 h).1

/-- Where at most one buffer has a role, a buffer that has it is the one. -/
theorem bufWith_of_one {x : Session} {role : BufRole} (hone : ¬ (x.buf0.role = role ∧ x.buf1.role = role)) {b : Nat} (hb : (x.buf b).role = role) :
    ∃ c, x.bufWith role = some c ∧ x.buf c = x.buf b := by
  by_cases h0 : b = 0
  · exact ⟨0, (bufWith_eq_some (Nat.zero_le 1)).2 ⟨h0 ▸ hb, nofun⟩, by rw [h0]⟩
  · have hb1 : x.buf b = x.buf 1 := by
      unfold Session.buf
      rw [if_neg h0, if_neg Nat.one_ne_zero]
    have hrole : x.buf1.role = role := (congrArg Buffer.role hb1).symm.trans hb
    exact ⟨1, (bufWith_eq_some (Nat.le_refl 1)).2 ⟨hrole, fun _ h => hone ⟨h, hrole⟩⟩, hb1.symm⟩

theorem inTakeOrder_iff {ws : List Nat} {x : Session} :
    x.inTakeOrder ws ↔ x.Order ws ∧ (x.state = .free → x.inSlot = none ∧ x.outSlot = none) := by
  constructor
  · rintro ⟨hrise, hbehind, hfree, hlive, hidle, hnone, hdrain⟩
    refine ⟨⟨hrise, hbehind, fun hl => ?_, fun hl => bufWith_eq_none.1 (hidle hl), hnone, hdrain⟩, hfree⟩
    obtain ⟨hm, hs, hw, hc, hp, hj, hone, hf⟩ := hlive hl
    refine ⟨Option.isSome_iff_ne_none.2 hm, Option.isSome_iff_ne_none.2 hs, hw, hc, hp, hj, hone, fun b hb => ?_⟩
    obtain ⟨c, hc, hcb⟩ := bufWith_of_one hone hb
    exact hcb ▸ hf c hc
  · rintro ⟨⟨hrise, hbehind, hlive, hidle, hnone, hdrain⟩, hfree⟩
    refine ⟨hrise, hbehind, hfree, fun hl => ?_, fun hl => bufWith_eq_none.2 (hidle hl), hnone, hdrain⟩
    obtain ⟨hm, hs, hw, hc, hp, hj, hone, hf⟩ := hlive hl
    exact ⟨Option.isSome_iff_ne_none.1 hm, Option.isSome_iff_ne_none.1 hs, hw, hc, hp, hj, hone, fun b hb => hf b (role_of_bufWith hb)⟩

/-- A session without its timeslots. -/
def Session.offSlots (x : Session) : Session := { x with inSlot := none, outSlot := none }

theorem order_offSlots {ws : List Nat} {x : Session} : x.offSlots.Order ws ↔ x.Order ws :=
  ⟨fun h => ⟨h.rises, h.behind, fun hl => ⟨(h.taking hl).metered, (h.taking hl).classed, (h.taking hl).closed, (h.taking hl).soon,
    (h.taking hl).programmed, (h.taking hl).asked, (h.taking hl).one, (h.taking hl).filling⟩, h.unfilled, h.unasked, h.kept⟩,
   fun h => ⟨h.rises, h.behind, fun hl => ⟨(h.taking hl).metered, (h.taking hl).classed, (h.taking hl).closed, (h.taking hl).soon,
    (h.taking hl).programmed, (h.taking hl).asked, (h.taking hl).one, (h.taking hl).filling⟩, h.unfilled, h.unasked, h.kept⟩⟩

/-- The order of a session is its core's, its timeslots apart. -/
theorem order_of_core {x y : Session} (h : x.offSlots.core = y.offSlots.core) {ws : List Nat} (hx : x.Order ws) : y.Order ws := by
  have hxs := inTakeOrder_iff.2 ⟨order_offSlots.2 hx, fun _ => ⟨rfl, rfl⟩⟩
  obtain ⟨hy, -⟩ := inTakeOrder_iff.1 (inTakeOrder_of_core h hxs)
  exact order_offSlots.1 hy

/-! ## What keeps the order -/

/-- From x to y no buffer has begun to fill. -/
def Session.Unfills (x y : Session) : Prop := ∀ b, (y.buf b).role = .filling → (x.buf b).role = .filling ∧ (y.buf b).holds = (x.buf b).holds

namespace Session.Unfills
variable {x y z : Session}

theorem refl (x : Session) : x.Unfills x := fun _ h => ⟨h, rfl⟩

theorem trans (h : x.Unfills y) (k : y.Unfills z) : x.Unfills z := fun b hb =>
  ⟨(h b (k b hb).1).1, (k b hb).2.trans (h b (k b hb).1).2⟩

theorem setBuf {b : Nat} {v : Buffer} (hv : v.role = .filling → (x.buf b).role = .filling ∧ v.holds = (x.buf b).holds) : x.Unfills (x.setBuf b v) := fun c hc => by
  rw [buf_setBuf_iff] at hc ⊢
  split at hc
  · next hcb =>
    rw [if_pos hcb, buf_congr hcb.symm x]
    exact hv hc
  · next hcb =>
    rw [if_neg hcb]
    exact ⟨hc, rfl⟩

theorem idle (b : Nat) : x.Unfills (x.setBuf b (x.buf b).idled) := setBuf nofun

end Session.Unfills

/-- Where no buffer begins to fill and no request is added, the order stays. -/
theorem order_of_unfills {x y : Session} {ws ws' : List Nat} (h : x.Order ws) (hb : x.OnlyBufs y) (hu : x.Unfills y) (hws : ws'.Sublist ws) :
    y.Order ws' := by
  obtain ⟨b0, b1, rfl⟩ := hb
  have hmem : ∀ j ∈ ws', j ∈ ws := fun j hj => hws.subset hj
  refine ⟨h.rises.sublist hws, fun j hj => h.behind j (hmem j hj), fun hl => ?_, fun hl b hb => h.unfilled hl b (hu b hb).1, fun hl hd => ?_,
    fun hd t ht j hj => h.kept hd t ht j (hmem j hj)⟩
  · obtain ⟨hm, hs, hw, hc, hp, hj, hone, hf⟩ := h.taking hl
    refine ⟨hm, hs, hw, hc, hp, fun j hjm => hj j (hmem j hjm), fun hboth => hone ⟨(hu 0 hboth.1).1, (hu 1 hboth.2).1⟩, fun b hb => ?_⟩
    obtain ⟨hrole, hholds⟩ := hu b hb
    obtain ⟨hw, hp, hlt⟩ := hf b hrole
    rw [hholds]
    exact ⟨hw, hp, fun j hj => hlt j (hmem j hj)⟩
  · have hnil := h.unasked hl hd
    rw [hnil] at hws
    exact List.sublist_nil.1 hws

/-- A session without a take and without requests is in order. -/
theorem order_of_quiet {x : Session} (hl : x.state.recordLive = false) (hf : ∀ b, (x.buf b).role ≠ .filling) : x.Order [] :=
  ⟨.nil, nofun, fun h => absurd (hl.symm.trans h) nofun, fun _ => hf, fun _ _ => rfl, fun _ _ _ => nofun⟩

end Sys2Proof.Machine

namespace Sys2Proof.Machine

/-! Proofs about section 2: the buffers that one session's requests name (R18). -/

/-- A role that no request gives a buffer. -/
structure BufRole.Spare (r : BufRole) : Prop where
  queued : r ≠ .queued
  reading : r ≠ .reading
  stale : r ≠ .stale

theorem filling_spare : BufRole.Spare .filling := ⟨nofun, nofun, nofun⟩

theorem idle_spare : BufRole.Spare .idle := ⟨nofun, nofun, nofun⟩

section Names
variable {x y : Session} {c c' : Claims} {b : Nat}

/-- No request names a buffer of a spare role. -/
theorem unnamed_of_spare (h : x.names c) (hb : (x.buf b).role.Spare) :
    (∀ r ∈ c.queued, ¬ (r.buf = 0 ↔ b = 0)) ∧ ∀ r ∈ c.asked, ¬ (r.buf = 0 ↔ b = 0) := by
  obtain ⟨-, hq, ha⟩ := h
  refine ⟨fun r hr hrb => hb.queued (buf_congr hrb x ▸ hq r hr), fun r hr hrb => ?_⟩
  obtain ⟨hrole, -⟩ | ⟨hrole, -⟩ := ha r hr
  · exact hb.reading (buf_congr hrb x ▸ hrole)
  · exact hb.stale (buf_congr hrb x ▸ hrole)

theorem perm_append_rearrange {α : Type} [DecidableEq α] (a b c d : List α) : ((a ++ b) ++ (c ++ d)).Perm ((a ++ c) ++ (b ++ d)) := by
  rw [List.perm_iff_count]
  intro v
  simp only [List.count_append]
  omega

/-- Requests go; a buffer changes its role only where it is named by one of them, or by none. -/
theorem names_of_dropped {rq : List ProgReq} {ra : List ReadReq} (h : x.names c) (hq : (c'.queued ++ rq).Perm c.queued)
    (ha : (c'.asked ++ ra).Perm c.asked) (hreading : ∀ r ∈ c'.asked, c.reading = some r → c'.reading = some r)
    (hplay : c'.asked ≠ [] → x.state.playLive = true → y.state.playLive = true)
    (hbufs : ∀ b, (y.buf b).role = (x.buf b).role ∨ (x.buf b).role.Spare ∨ (∃ r ∈ rq, (r.buf = 0 ↔ b = 0)) ∨ ∃ r ∈ ra, (r.buf = 0 ↔ b = 0)) :
    y.names c' := by
  have hspare := fun {b : Nat} => unnamed_of_spare (b := b) h
  obtain ⟨hnodup, hqueued, hasked⟩ := h
  have hqm := hq.map (fun r : ProgReq => decide (r.buf = 0))
  have ham := ha.map (fun r : ReadReq => decide (r.buf = 0))
  rw [List.map_append] at hqm ham
  rw [← ((perm_append_rearrange _ _ _ _).trans (hqm.append ham)).nodup_iff, List.nodup_append] at hnodup
  obtain ⟨hleft, -, hapart⟩ := hnodup
  have hqc : ∀ r ∈ c'.queued, r ∈ c.queued := fun r hr => hq.subset (List.mem_append_left _ hr)
  have hac : ∀ r ∈ c'.asked, r ∈ c.asked := fun r hr => ha.subset (List.mem_append_left _ hr)
  have hout : ∀ f ∈ c'.queued.map (fun r => decide (r.buf = 0)) ++ c'.asked.map (fun r => decide (r.buf = 0)), ∀ b, f = decide (b = 0) →
      ¬ ((∃ r ∈ rq, (r.buf = 0 ↔ b = 0)) ∨ ∃ r ∈ ra, (r.buf = 0 ↔ b = 0)) := fun f hf b hfb hgone => by
    refine hapart f hf (decide (b = 0)) ?_ hfb
    obtain ⟨r, hr, hrb⟩ | ⟨r, hr, hrb⟩ := hgone
    · exact List.mem_append_left _ (List.mem_map.2 ⟨r, hr, decide_eq_decide.2 hrb⟩)
    · exact List.mem_append_right _ (List.mem_map.2 ⟨r, hr, decide_eq_decide.2 hrb⟩)
  refine ⟨hleft, fun r hr => ?_, fun r hr => ?_⟩
  · have hmem := List.mem_append_left (c'.asked.map (fun r => decide (r.buf = 0))) (List.mem_map_of_mem (f := fun r : ProgReq => decide (r.buf = 0)) hr)
    obtain hsame | hfree | hgone := hbufs r.buf
    · exact hsame.trans (hqueued r (hqc r hr))
    · exact absurd Iff.rfl ((hspare hfree).1 r (hqc r hr))
    · exact absurd hgone (hout _ hmem r.buf rfl)
  · have hmem := List.mem_append_right (c'.queued.map (fun r => decide (r.buf = 0))) (List.mem_map_of_mem (f := fun r : ReadReq => decide (r.buf = 0)) hr)
    obtain hsame | hfree | hgone := hbufs r.buf
    · rw [hsame]
      exact (hasked r (hac r hr)).imp (fun h => ⟨h.1, hplay (List.ne_nil_of_mem hr) h.2⟩) fun h => ⟨h.1, hreading r hr h.2⟩
    · exact absurd Iff.rfl ((hspare hfree).2 r (hac r hr))
    · exact absurd hgone (hout _ hmem r.buf rfl)

/-- A buffer changes its role only where no request names it. -/
theorem names_of_spares (h : x.names c) (hplay : c.asked ≠ [] → x.state.playLive = true → y.state.playLive = true)
    (hbufs : ∀ b, (y.buf b).role = (x.buf b).role ∨ (x.buf b).role.Spare) : y.names c :=
  names_of_dropped (rq := []) (ra := []) h (by rw [List.append_nil]) (by rw [List.append_nil]) (fun _ _ => id) hplay fun b =>
    (hbufs b).imp_right .inl

/-- One more request names a buffer that none names. -/
theorem names_nodup (h : x.names c) (hspare : (x.buf b).role.Spare) : decide (b = 0) ∉
    c.queued.map (fun r => decide (r.buf = 0)) ++ c.asked.map (fun r => decide (r.buf = 0)) := by
  obtain ⟨hnotq, hnota⟩ := unnamed_of_spare h hspare
  rw [List.mem_append, List.mem_map, List.mem_map]
  rintro (⟨r, hr, hrb⟩ | ⟨r, hr, hrb⟩)
  · exact hnotq r hr (decide_eq_decide.1 hrb)
  · exact hnota r hr (decide_eq_decide.1 hrb)

/-- A spare buffer is handed for program. -/
theorem names_of_handed {r : ProgReq} (h : x.names c) (hspare : (x.buf r.buf).role.Spare) (hq : c'.queued = c.queued ++ [r])
    (ha : c'.asked = c.asked) (hreading : c'.reading = c.reading) (hplay : x.state.playLive = true → y.state.playLive = true)
    (hb : (y.buf r.buf).role = .queued) (hbufs : ∀ b, ¬ (b = 0 ↔ r.buf = 0) → (y.buf b).role = (x.buf b).role) : y.names c' := by
  obtain ⟨hnotq, hnota⟩ := unnamed_of_spare h hspare
  have hnew := names_nodup h hspare
  obtain ⟨hnodup, hqueued, hasked⟩ := h
  refine ⟨?_, fun p hp => ?_, fun p hp => ?_⟩
  · rw [hq, ha, List.map_append, List.append_assoc]
    exact List.nodup_middle.2 (List.nodup_cons.2 ⟨hnew, hnodup⟩)
  · rw [hq, List.mem_append, List.mem_singleton] at hp
    obtain hp | rfl := hp
    · rw [hbufs p.buf (hnotq p hp)]
      exact hqueued p hp
    · exact hb
  · rw [ha] at hp
    rw [hbufs p.buf (hnota p hp), hreading]
    exact (hasked p hp).imp_left fun h => ⟨h.1, hplay h.2⟩

/-- A spare buffer is read into. -/
theorem names_of_read {r : ReadReq} (h : x.names c) (hspare : (x.buf r.buf).role.Spare) (hq : c'.queued = c.queued)
    (ha : c'.asked = c.asked ++ [r]) (hreading : c'.reading = c.reading) (hplay : y.state.playLive = true)
    (hb : (y.buf r.buf).role = .reading) (hbufs : ∀ b, ¬ (b = 0 ↔ r.buf = 0) → (y.buf b).role = (x.buf b).role) : y.names c' := by
  obtain ⟨hnotq, hnota⟩ := unnamed_of_spare h hspare
  have hnew := names_nodup h hspare
  obtain ⟨hnodup, hqueued, hasked⟩ := h
  refine ⟨?_, fun p hp => ?_, fun p hp => ?_⟩
  · rw [hq, ha, List.map_append, List.map_singleton, ← List.append_assoc, List.nodup_middle, List.append_nil]
    exact List.nodup_cons.2 ⟨hnew, hnodup⟩
  · rw [hq] at hp
    rw [hbufs p.buf (hnotq p hp)]
    exact hqueued p hp
  · rw [ha, List.mem_append, List.mem_singleton] at hp
    obtain hp | rfl := hp
    · rw [hbufs p.buf (hnota p hp), hreading]
      exact (hasked p hp).imp_left fun h => ⟨h.1, hplay⟩
    · exact .inl ⟨hb, hplay⟩

/-- The read in flight stops being wanted, the only one left. -/
theorem names_of_stale {r : ReadReq} (h : x.names c) (ha : c.asked = [r]) (hreading : c.reading = some r) (hb : (y.buf r.buf).role = .stale)
    (hbufs : ∀ b, ¬ (b = 0 ↔ r.buf = 0) → (y.buf b).role = (x.buf b).role) : y.names c := by
  obtain ⟨hnodup, hqueued, hasked⟩ := h
  refine ⟨hnodup, fun p hp => ?_, fun p hp => ?_⟩
  · rw [hbufs p.buf fun hpr => ?_]
    · exact hqueued p hp
    · have hrole : (x.buf r.buf).role = .queued := buf_congr hpr x ▸ hqueued p hp
      obtain ⟨hr, -⟩ | ⟨hr, -⟩ := hasked r (by rw [ha]; exact List.mem_singleton_self r)
      · exact absurd (hr.symm.trans hrole) nofun
      · exact absurd (hr.symm.trans hrole) nofun
  · rw [ha, List.mem_singleton] at hp
    exact .inr ⟨hp ▸ hb, hp ▸ hreading⟩

end Names

end Sys2Proof.Machine

namespace Sys2Proof.Machine

/-! Proofs about section 2: the order of one session and the names of its requests through the parts of an operation on it (R18, R76). -/

/-- Session k stands in take order with its wanted requests. -/
def Engine.OrderAt (k : Nat) (e : Engine) : Prop := (e.session k).Order (e.claims k).wanted

/-- The requests of session k name buffers of their own. -/
def Engine.NamesAt (k : Nat) (e : Engine) : Prop := (e.session k).names (e.claims k)

/-- The reads of session k are no longer wanted. -/
def Engine.UnreadAt (k : Nat) (e : Engine) : Prop := ∀ r ∈ (e.claims k).asked, ((e.session k).buf r.buf).role = .stale

theorem inTakeOrder_iff_at (e : Engine) : e.inTakeOrder ↔ (e.ssc.service ≠ .frozen → e.SlotsFit ∧ ∀ k, e.OrderAt k) := by
  refine imp_congr_right fun _ => ⟨?_, ?_⟩
  · rintro ⟨hi, ho, hs, hbi, hbo, hk⟩
    exact ⟨⟨hi, ho, hs, hbi, hbo, fun k => (inTakeOrder_iff.1 (hk k)).2⟩, fun k => (inTakeOrder_iff.1 (wanted_claims e k ▸ hk k)).1⟩
  · rintro ⟨⟨hi, ho, hs, hbi, hbo, hfree⟩, hk⟩
    exact ⟨hi, ho, hs, hbi, hbo, fun k => inTakeOrder_iff.2 ⟨wanted_claims e k ▸ hk k, hfree k⟩⟩

theorem orderAt_congr {k : Nat} {e g : Engine} (hcore : (g.session k).offSlots.core = (e.session k).offSlots.core) (hclaims : g.claims k = e.claims k)
    (h : e.OrderAt k) : g.OrderAt k := by
  unfold Engine.OrderAt
  rw [hclaims]
  exact order_of_core hcore.symm h

theorem namesAt_congr {k : Nat} {e g : Engine} (hcore : (g.session k).offSlots.core = (e.session k).offSlots.core) (hclaims : g.claims k = e.claims k)
    (h : e.NamesAt k) : g.NamesAt k := by
  unfold Engine.NamesAt
  rw [hclaims]
  exact names_of_core (x := (e.session k).offSlots) (y := (g.session k).offSlots) hcore.symm h

namespace Engine.Aside
variable {e g : Engine}

theorem offSlots (h : e.Aside g) (k : Nat) : (g.session k).offSlots.core = (e.session k).offSlots.core :=
  congrArg (fun c : Session.Core => { c with inSlot := none, outSlot := none }) (h.core k)

theorem orderAt (h : e.Aside g) {k : Nat} (hk : e.OrderAt k) : g.OrderAt k := orderAt_congr (h.offSlots k) (h.claims k) hk

theorem namesAt (h : e.Aside g) {k : Nat} (hk : e.NamesAt k) : g.NamesAt k := namesAt_congr (h.offSlots k) (h.claims k) hk

theorem unreadAt (h : e.Aside g) {k : Nat} (hk : e.UnreadAt k) : g.UnreadAt k := fun r hr => by
  rw [h.claims k] at hr
  exact (role_of_core (h.core k) r.buf).trans (hk r hr)

end Engine.Aside

namespace Engine.Beside
variable {k : Nat} {e g : Engine}

/-- An operation on one session keeps every session in order where it keeps that one. -/
theorem inTakeOrder (h : Engine.Beside k e g) (hk : e.OrderAt k → g.OrderAt k) (he : e.inTakeOrder) : g.inTakeOrder := by
  rw [inTakeOrder_iff_at] at he ⊢
  intro hg
  obtain ⟨hfit, horder⟩ := he fun hf => hg (h.service hf)
  refine ⟨h.fit hfit, fun j => ?_⟩
  by_cases hj : j = k
  · exact hj ▸ hk (horder k)
  · exact orderAt_congr (congrArg (fun c : Session.Core => { c with inSlot := none, outSlot := none }) (h.core j hj)) (h.claims j hj) (horder j)

theorem namesBuffers (h : Engine.Beside k e g) (hk : e.NamesAt k → g.NamesAt k) (he : e.namesBuffers) : g.namesBuffers := by
  rw [namesBuffers_iff] at he ⊢
  intro hg j
  have hnames := he fun hf => hg (h.service hf)
  by_cases hj : j = k
  · exact hj ▸ hk (hnames k)
  · exact namesAt_congr (congrArg (fun c : Session.Core => { c with inSlot := none, outSlot := none }) (h.core j hj)) (h.claims j hj) (hnames j)

end Engine.Beside

/-- A session that does not play reads nothing. -/
theorem unread_of_names {k : Nat} {e : Engine} (h : e.NamesAt k) (hp : (e.session k).state.playLive = false) : e.UnreadAt k := fun r hr => by
  obtain ⟨-, -, hasked⟩ := h
  obtain ⟨-, hlive⟩ | ⟨hstale, -⟩ := hasked r hr
  · exact absurd (hp.symm.trans hlive) nofun
  · exact hstale

/-! ## The claims after each part of an operation -/

section Claims
variable (k : Nat) (test : ProgReq → Bool) (e : Engine)

theorem claims_withdrawPrograms : (e.withdrawPrograms k test).claims k =
    { e.claims k with programs := (e.claims k).programs.filter (fun r => !test r) } := by
  unfold Engine.claims Ssc.claims
  rw [withdrawPrograms_ssc]
  dsimp only
  congr 1
  rw [List.filter_filter, List.filter_filter]
  refine List.filter_congr fun r _ => ?_
  cases decide (r.session = k) <;> cases test r <;> rfl

theorem claims_unwant : (e.unwant k test).claims k =
    { e.claims k with flight := (e.claims k).flight.map (fun p => (p.1, p.2 && !test p.1)) } := by
  show ({ e.ssc with link := e.ssc.link.unwanted k test } : Ssc).claims k = _
  unfold Engine.claims Ssc.claims
  dsimp only
  rw [unwanted_readOf]
  congr 1
  cases e.ssc.link with
  | allocating r i w => by_cases hr : r.session = k <;> simp [Link.unwanted, Link.programOf, hr]
  | programming r i w => by_cases hr : r.session = k <;> simp [Link.unwanted, Link.programOf, hr]
  | _ => rfl

end Claims

theorem unwanted_queued (c : Claims) (test : ProgReq → Bool) :
    ({ c with flight := c.flight.map (fun p => (p.1, p.2 && !test p.1)) } : Claims).queued = c.queued := by
  unfold Claims.queued
  dsimp only
  rw [Option.map_map]
  rfl

/-- The wanted requests among the claims. -/
theorem wanted_eq (c : Claims) : c.wanted = ((c.flight.filter (·.2)).map (·.1.takeSegment)).toList ++ c.programs.map (·.takeSegment) := by
  unfold Claims.wanted
  rw [List.map_append]
  rcases c.flight with - | ⟨r, - | -⟩ <;> rfl

theorem wanted_withdrawn (c : Claims) (test : ProgReq → Bool) :
    ({ c with programs := c.programs.filter (fun r => !test r) } : Claims).wanted.Sublist c.wanted := by
  rw [wanted_eq, wanted_eq]
  exact List.Sublist.append_left (List.filter_sublist.map _) _

theorem wanted_unwanted (c : Claims) (test : ProgReq → Bool) :
    ({ c with flight := c.flight.map (fun p => (p.1, p.2 && !test p.1)) } : Claims).wanted.Sublist c.wanted := by
  rw [wanted_eq, wanted_eq]
  refine List.Sublist.append_right ?_ _
  rcases c.flight with - | ⟨r, - | -⟩
  · exact .refl _
  · exact .refl _
  · cases ht : test r
    · simp [ht]
    · simp [ht, Option.filter]

/-- Without what a trim does not keep, each wanted request is kept. -/
theorem wanted_outside (c : Claims) (t : Trim) : ∀ j ∈ ({ c with
    flight := c.flight.map (fun p => (p.1, p.2 && !t.outside p.1)), programs := c.programs.filter (fun r => !t.outside r) } : Claims).wanted, t.keeps j = true := by
  intro j hj
  rw [wanted_eq, List.mem_append] at hj
  obtain hj | hj := hj
  · rcases hc : c.flight with - | ⟨r, w⟩
    · rw [hc] at hj
      cases hj
    · rw [hc] at hj
      cases w <;> cases hr : t.keeps r.takeSegment <;> simp_all [Trim.outside]
  · obtain ⟨r, hr, rfl⟩ := List.mem_map.1 hj
    have hkeeps := (List.mem_filter.1 hr).2
    simpa [Trim.outside] using hkeeps

/-- Without every request of the session none is wanted. -/
theorem wanted_none (c : Claims) : ({ c with
    flight := c.flight.map (fun p => (p.1, p.2 && !true)), programs := c.programs.filter (fun _ => !true) } : Claims).wanted = [] := by
  rw [wanted_eq]
  rcases c.flight with - | ⟨r, - | -⟩ <;> simp

end Sys2Proof.Machine

namespace Sys2Proof.Machine

/-! Proofs about section 2: a take let go, or handed on, in order (R18, R23, R27, R76). -/

/-! ## Requests withdrawn -/

section Withdrawn
variable {k : Nat} {e : Engine}

theorem withdrawPrograms_cases (k : Nat) (test : ProgReq → Bool) (e : Engine) (b : Nat) :
    ((e.withdrawPrograms k test).session k).buf b = (e.session k).buf b ∨
      ((e.withdrawPrograms k test).session k).buf b = ((e.session k).buf b).idled ∧
        ∃ r ∈ (e.claims k).programs.filter test, (r.buf = 0 ↔ b = 0) := by
  rw [withdrawPrograms_buf]
  split
  · next h =>
    obtain ⟨r, hr, hk, ht, hb⟩ := h
    exact .inr ⟨rfl, r, List.mem_filter.2 ⟨List.mem_filter.2 ⟨hr, decide_eq_true hk⟩, ht⟩, hb⟩
  · exact .inl rfl

theorem withdrawPrograms_unfills (k : Nat) (test : ProgReq → Bool) (e : Engine) : (e.session k).Unfills ((e.withdrawPrograms k test).session k) := fun b hb => by
  obtain hsame | ⟨hidle, -⟩ := withdrawPrograms_cases k test e b
  · rw [hsame] at hb ⊢
    exact ⟨hb, rfl⟩
  · rw [hidle] at hb
    cases hb

theorem onlyBufs_state {x y : Session} (h : x.OnlyBufs y) : y.state = x.state := by
  obtain ⟨b0, b1, rfl⟩ := h
  rfl

theorem orderAt_withdrawPrograms (test : ProgReq → Bool) (h : e.OrderAt k) : (e.withdrawPrograms k test).OrderAt k := by
  unfold Engine.OrderAt
  rw [claims_withdrawPrograms]
  exact order_of_unfills h (withdrawPrograms_rebuffers k test e).1 (withdrawPrograms_unfills k test e) (wanted_withdrawn _ _)

theorem namesAt_withdrawPrograms (test : ProgReq → Bool) (h : e.NamesAt k) : (e.withdrawPrograms k test).NamesAt k := by
  have hstate := onlyBufs_state (withdrawPrograms_rebuffers k test e).1
  unfold Engine.NamesAt
  rw [claims_withdrawPrograms]
  refine names_of_dropped (rq := (e.claims k).programs.filter test) (ra := []) h ?_ (.of_eq (List.append_nil _)) (fun _ _ => id)
    (fun _ => hstate.symm ▸ id) fun b => ?_
  · unfold Claims.queued
    dsimp only
    rw [List.append_assoc]
    exact .append_left _ (List.perm_append_comm.trans (List.filter_append_perm _ _))
  · obtain hsame | ⟨-, hr⟩ := withdrawPrograms_cases k test e b
    · exact .inl (congrArg Buffer.role hsame)
    · exact .inr (.inr (.inl hr))

theorem orderAt_unwant (test : ProgReq → Bool) (h : e.OrderAt k) : (e.unwant k test).OrderAt k := by
  unfold Engine.OrderAt
  rw [claims_unwant]
  exact order_of_unfills h (.refl _) (.refl _) (wanted_unwanted _ _)

theorem namesAt_unwant (test : ProgReq → Bool) (h : e.NamesAt k) : (e.unwant k test).NamesAt k := by
  unfold Engine.NamesAt
  rw [claims_unwant]
  exact names_of_dropped (rq := []) (ra := []) h (.of_eq ((List.append_nil _).trans (unwanted_queued _ _))) (.of_eq (List.append_nil _))
    (fun _ _ => id) (fun _ => id) fun _ => .inl rfl

end Withdrawn

/-! ## The filling buffer -/

theorem changeFilling_cases (f : Buffer → Buffer) (x : Session) (b : Nat) : (x.changeFilling f).buf b = x.buf b ∨
    ((x.changeFilling f).buf b = f (x.buf b) ∧ (x.buf b).role = .filling) := by
  unfold Session.changeFilling
  split
  · exact .inl rfl
  · next c hc =>
    rw [buf_setBuf_iff]
    split
    · next hcb =>
      rw [← buf_congr hcb x]
      exact .inr ⟨rfl, role_of_bufWith hc⟩
    · exact .inl rfl

theorem changeFilling_unfills {f : Buffer → Buffer} (hf : ∀ v, (f v).role ≠ .filling) (x : Session) : x.Unfills (x.changeFilling f) := fun b hb => by
  obtain hsame | ⟨hfb, -⟩ := changeFilling_cases f x b
  · rw [hsame] at hb ⊢
    exact ⟨hb, rfl⟩
  · exact absurd (hfb ▸ hb) (hf _)

/-- Where one buffer at most fills, none fills after it. -/
theorem changeFilling_unfilled {f : Buffer → Buffer} (hf : ∀ v, (f v).role ≠ .filling) {x : Session}
    (hone : ¬ (x.buf0.role = .filling ∧ x.buf1.role = .filling)) (b : Nat) : ((x.changeFilling f).buf b).role ≠ .filling := fun hb => by
  obtain ⟨hfilling, -⟩ := changeFilling_unfills hf x b hb
  obtain ⟨c, hc, hcb⟩ := bufWith_of_one hone hfilling
  have hchange : x.changeFilling f = x.setBuf c (f (x.buf c)) := by
    unfold Session.changeFilling
    rw [hc]
  have hsame : c = 0 ↔ b = 0 := by
    by_contra hne
    refine hone ?_
    have hc' := role_of_bufWith hc
    unfold Session.buf at hc' hfilling
    by_cases hc0 : c = 0
    · rw [if_pos hc0] at hc'
      rw [if_neg fun hb0 => hne ⟨fun _ => hb0, fun _ => hc0⟩] at hfilling
      exact ⟨hc', hfilling⟩
    · rw [if_neg hc0] at hc'
      rw [if_pos (by_contra fun hb0 => hne ⟨fun h => absurd h hc0, fun h => absurd h hb0⟩)] at hfilling
      exact ⟨hfilling, hc'⟩
  rw [hchange, buf_setBuf_iff, if_pos hsame] at hb
  exact hf _ hb

theorem idled_unfilled (v : Buffer) : v.idled.role ≠ .filling := nofun

theorem handed_unfilled (v : Buffer) : v.handed.role ≠ .filling := nofun

/-- One buffer at most fills. -/
theorem one_of_order {x : Session} {ws : List Nat} (h : x.Order ws) : ¬ (x.buf0.role = .filling ∧ x.buf1.role = .filling) := by
  cases hl : x.state.recordLive
  · exact fun hboth => h.unfilled hl 0 hboth.1
  · exact (h.taking hl).one

section Filling
variable {k : Nat} {e : Engine}

theorem orderAt_idleFilling (h : e.OrderAt k) : (e.idleFilling k).OrderAt k := by
  unfold Engine.OrderAt
  rw [session_idleFilling, if_pos rfl]
  exact order_of_unfills h (changeFilling_onlyBufs _ _) (changeFilling_unfills idled_unfilled _) (.refl _)

theorem namesAt_idleFilling (h : e.NamesAt k) : (e.idleFilling k).NamesAt k := by
  unfold Engine.NamesAt
  rw [session_idleFilling, if_pos rfl]
  refine names_of_spares h (fun _ => (onlyBufs_state (changeFilling_onlyBufs _ _)).symm ▸ id) fun b => ?_
  obtain hsame | ⟨-, hrole⟩ := changeFilling_cases Buffer.idled (e.session k) b
  · exact .inl (congrArg Buffer.role hsame)
  · exact .inr (hrole ▸ filling_spare)

theorem claims_handBuffer (k : Nat) (e : Engine) : (e.handBuffer k).claims k =
    { e.claims k with programs := (e.claims k).programs ++ (e.session k).fillingRequest k } := by
  unfold Engine.claims Ssc.claims
  rw [handBuffer_ssc]
  dsimp only
  congr 1
  rw [List.filter_append]
  congr 1
  refine List.filter_eq_self.2 fun r hr => ?_
  unfold Session.fillingRequest at hr
  split at hr
  · rw [List.mem_singleton.1 hr]
    exact decide_eq_true rfl
  · cases hr

theorem namesAt_handBuffer (h : e.NamesAt k) : (e.handBuffer k).NamesAt k := by
  unfold Engine.NamesAt
  rw [claims_handBuffer, handBuffer_session, if_pos rfl]
  cases hf : (e.session k).bufWith .filling with
  | none =>
    have hsame : (e.session k).changeFilling Buffer.handed = e.session k := by
      unfold Session.changeFilling
      rw [hf]
    have hnone : (e.session k).fillingRequest k = [] := by
      unfold Session.fillingRequest
      rw [hf]
    rw [hsame, hnone, List.append_nil]
    exact h
  | some f =>
    have hone : (e.session k).fillingRequest k = [{ session := k, buf := f, body := (e.session k).bodyNo, takeSegment := ((e.session k).buf f).holds }] := by
      unfold Session.fillingRequest
      rw [hf]
    have hchange : (e.session k).changeFilling Buffer.handed = (e.session k).setBuf f ((e.session k).buf f).handed := by
      unfold Session.changeFilling
      rw [hf]
    rw [hone, hchange]
    refine names_of_handed (r := { session := k, buf := f, body := (e.session k).bodyNo, takeSegment := ((e.session k).buf f).holds }) h
      ((role_of_bufWith hf).symm ▸ filling_spare) (List.append_assoc _ _ _).symm rfl rfl
      ((onlyBufs_state (setBuf_onlyBufs _ _ _)).symm ▸ id) ?_ fun b hb => ?_
    · rw [buf_setBuf_iff, if_pos Iff.rfl]
      rfl
    · rw [buf_setBuf_iff, if_neg fun hfb => hb hfb.symm]

end Filling

end Sys2Proof.Machine

namespace Sys2Proof.Machine

/-! Proofs about section 2: a take discarded, and a session that ends, in order (R18, R27, R42). -/

/-- No buffer of session k fills, and no program of it is wanted. -/
structure Engine.IdleAt (k : Nat) (e : Engine) : Prop where
  unfilled : ∀ b, ((e.session k).buf b).role ≠ .filling
  unasked : (e.claims k).wanted = []

theorem Engine.Aside.idleAt {e g : Engine} (h : e.Aside g) {k : Nat} (hk : e.IdleAt k) : g.IdleAt k :=
  ⟨fun b hb => hk.unfilled b ((role_of_core (h.core k) b).symm.trans hb), by rw [h.claims k]; exact hk.unasked⟩

/-- Claims are of the store's link and its two request queues. -/
theorem claims_of_within {ps : List Part} {e g : Engine} (h : Engine.Within ps e g) (hps : partsApart [.storeQueues, .link] ps = true) (k : Nat) :
    g.claims k = e.claims k := by
  obtain ⟨hread, hprog⟩ := h.keeps .storeQueues (decide_eq_false (not_mem_of_partsApart hps (by simp)))
  obtain ⟨hlink, -⟩ := h.keeps .link (decide_eq_false (not_mem_of_partsApart hps (by simp)))
  unfold Engine.claims Ssc.claims
  rw [show g.ssc.link = e.ssc.link from hlink, show g.ssc.readQueue = e.ssc.readQueue from hread, show g.ssc.progQueue = e.ssc.progQueue from hprog]

section Ends
variable {k : Nat} {e : Engine}

/-! ## A take discarded -/

theorem discard_aside (k : Nat) (e : Engine) : (e.untaken k).Aside (e.discard k) := by
  rw [discard_eq]
  exact ((Engine.Aside.within (refund_within _ _ _) rfl).trans (letGo_aside _ _)).trans (.modSession k rfl)

theorem idleAt_untaken (h : e.OrderAt k) : (e.untaken k).IdleAt k := by
  have hbefore : ((e.withdrawPrograms k (fun _ => true)).unwant k (fun _ => true)).OrderAt k := orderAt_unwant _ (orderAt_withdrawPrograms _ h)
  refine ⟨fun b => ?_, ?_⟩
  · unfold Engine.untaken
    rw [session_idleFilling, if_pos rfl]
    exact changeFilling_unfilled idled_unfilled (one_of_order hbefore) b
  · have hclaims : (e.untaken k).claims k = ((e.withdrawPrograms k (fun _ => true)).unwant k (fun _ => true)).claims k := rfl
    rw [hclaims, claims_unwant, claims_withdrawPrograms]
    exact wanted_none (e.claims k)

theorem idleAt_discard (h : e.OrderAt k) : (e.discard k).IdleAt k := (discard_aside k e).idleAt (idleAt_untaken h)

theorem namesAt_discard (h : e.NamesAt k) : (e.discard k).NamesAt k :=
  (discard_aside k e).namesAt (namesAt_idleFilling (namesAt_unwant _ (namesAt_withdrawPrograms _ h)))

/-! ## Timeslots released -/

theorem offSlots_releaseSlots (k : Nat) (e : Engine) : ((e.releaseSlots k).session k).offSlots.core = (e.session k).offSlots.core := by
  rw [releaseSlots_sessions, if_pos rfl]
  rfl

theorem namesAt_releaseSlots (h : e.NamesAt k) : (e.releaseSlots k).NamesAt k :=
  namesAt_congr (e := e) (offSlots_releaseSlots k e) rfl h

theorem buf_releaseSlots (k : Nat) (e : Engine) (b : Nat) : ((e.releaseSlots k).session k).buf b = (e.session k).buf b := by
  rw [releaseSlots_sessions, if_pos rfl]
  rfl

theorem idleAt_releaseSlots (h : e.IdleAt k) : (e.releaseSlots k).IdleAt k :=
  ⟨fun b => by rw [buf_releaseSlots]; exact h.unfilled b, h.unasked⟩

theorem unreadAt_releaseSlots (h : e.UnreadAt k) : (e.releaseSlots k).UnreadAt k := fun r hr => by
  rw [buf_releaseSlots]
  exact h r hr

/-! ## A session freed -/

theorem freed_buf (x : Session) (b : Nat) : x.freed.buf b = (x.buf b).freed := by
  unfold Session.freed Session.buf
  split <;> rfl

/-- A freed buffer fills no more than before. -/
theorem freed_role (v : Buffer) : v.freed.role = v.role ∨ (v.freed.role = .idle ∧ v.role ≠ .queued ∧ v.role ≠ .stale) := by
  unfold Buffer.freed
  split
  · exact .inl rfl
  · next h =>
    simp only [Bool.or_eq_true, decide_eq_true_eq, not_or] at h
    exact .inr ⟨rfl, h⟩

theorem freed_unfilled {x : Session} (h : ∀ b, (x.buf b).role ≠ .filling) (b : Nat) : (x.freed.buf b).role ≠ .filling := fun hb => by
  rw [freed_buf] at hb
  obtain hsame | ⟨hidle, -⟩ := freed_role (x.buf b)
  · exact h b (hsame.symm.trans hb)
  · exact absurd (hidle.symm.trans hb) nofun

/-- A session whose reads are not wanted loses no named buffer when it becomes free. -/
theorem names_freed {x : Session} {c : Claims} (h : x.names c) (hu : ∀ r ∈ c.asked, (x.buf r.buf).role = .stale) : x.freed.names c := by
  obtain ⟨hnodup, hqueued, hasked⟩ := h
  have hkeeps : ∀ b, (x.buf b).role = .queued ∨ (x.buf b).role = .stale → (x.freed.buf b).role = (x.buf b).role := fun b hb => by
    rw [freed_buf]
    obtain hsame | ⟨-, hq, hs⟩ := freed_role (x.buf b)
    · exact hsame
    · exact absurd hb (not_or.2 ⟨hq, hs⟩)
  refine ⟨hnodup, fun r hr => ?_, fun r hr => ?_⟩
  · rw [hkeeps _ (.inl (hqueued r hr))]
    exact hqueued r hr
  · rw [hkeeps _ (.inr (hu r hr))]
    obtain ⟨hread, -⟩ | hstale := hasked r hr
    · exact absurd (hread.symm.trans (hu r hr)) nofun
    · exact .inr hstale

theorem names_ended {x : Session} {c : Claims} (h : x.names c) (hu : ∀ r ∈ c.asked, (x.buf r.buf).role = .stale) (oc : Cause) : (x.endedBy oc).names c := by
  obtain ⟨hnodup, hqueued, hasked⟩ := h
  refine ⟨hnodup, hqueued, fun r hr => ?_⟩
  obtain ⟨hread, -⟩ | hstale := hasked r hr
  · exact absurd (hread.symm.trans (hu r hr)) nofun
  · exact .inr hstale

/-! ## A session ended -/

theorem orderAt_enterEnded (c : Cause) (h : e.IdleAt k) : (e.enterEnded k c).OrderAt k := by
  obtain ⟨hunfilled, hnil⟩ := h
  unfold Engine.OrderAt
  rw [claims_of_within (enterEnded_within e k c) rfl, hnil, enterEnded_session, if_pos rfl]
  have hended : ∀ b, (((e.session k).endedBy c).buf b).role ≠ .filling := hunfilled
  split
  · exact order_of_quiet rfl (freed_unfilled hended)
  · exact order_of_quiet rfl hended

theorem namesAt_enterEnded (c : Cause) (h : e.NamesAt k) (hu : e.UnreadAt k) : (e.enterEnded k c).NamesAt k := by
  unfold Engine.NamesAt
  rw [claims_of_within (enterEnded_within e k c) rfl, enterEnded_session, if_pos rfl]
  split
  · exact names_freed (names_ended h hu c) hu
  · exact names_ended h hu c

theorem freeSession_freed (k : Nat) (e : Engine) : (e.freeSession k).session k = (e.session k).freed := by
  unfold Engine.freeSession
  rw [session_modSession_self, releaseSlots_sessions, if_pos rfl]
  rfl

/-- A session that has ended is freed. -/
theorem orderAt_freeSession (hs : (e.session k).state = .ended) (h : e.OrderAt k) : (e.freeSession k).OrderAt k := by
  have hl : (e.session k).state.recordLive = false := by rw [hs]; rfl
  have hnil : (e.claims k).wanted = [] := h.unasked hl (by rw [hs]; exact nofun)
  have hclaims : (e.freeSession k).claims k = e.claims k := rfl
  unfold Engine.OrderAt
  rw [hclaims, hnil, freeSession_freed]
  exact order_of_quiet rfl (freed_unfilled (h.unfilled hl))

theorem namesAt_freeSession (hs : (e.session k).state = .ended) (h : e.NamesAt k) : (e.freeSession k).NamesAt k := by
  have hclaims : (e.freeSession k).claims k = e.claims k := rfl
  have hu : e.UnreadAt k := unread_of_names h (by rw [hs]; rfl)
  unfold Engine.NamesAt
  rw [hclaims, freeSession_freed]
  exact names_freed h hu

/-! ## A take cancelled (R37) -/

theorem discard_state (k : Nat) (e : Engine) : ((e.discard k).session k).state = (e.session k).state := by
  obtain ⟨z, hz, -, hsession⟩ := discard_session k e
  rw [hsession]
  exact (show z.dropped.state = z.state from rfl).trans (onlyBufs_state hz)

theorem stopMeter_aside (k : Nat) (e : Engine) : e.Aside (e.modSession k Session.stopMeter) := .modSession k (by
  unfold Session.stopMeter Session.core
  dsimp only
  rw [Option.isSome_map])

theorem cancelTake_beside (k : Nat) (e : Engine) :
    Engine.Beside k e ((((e.modSession k Session.stopMeter).discard k).releaseSlots k).enterEnded k .cancelled) :=
  ((((stopMeter_aside k e).beside k).trans (.discard k _)).trans (.releaseSlots k _)).trans (.enterEnded k _ _)

theorem orderAt_cancelTake (h : e.OrderAt k) : ((((e.modSession k Session.stopMeter).discard k).releaseSlots k).enterEnded k .cancelled).OrderAt k :=
  orderAt_enterEnded _ (idleAt_releaseSlots (idleAt_discard ((stopMeter_aside k e).orderAt h)))

theorem namesAt_cancelTake (hp : (e.session k).state.playLive = false) (h : e.NamesAt k) :
    ((((e.modSession k Session.stopMeter).discard k).releaseSlots k).enterEnded k .cancelled).NamesAt k := by
  have hnames := namesAt_discard ((stopMeter_aside k e).namesAt h)
  have hstate : (((e.modSession k Session.stopMeter).discard k).session k).state = (e.session k).state :=
    (discard_state k _).trans (state_of_core ((stopMeter_aside k e).core k))
  exact namesAt_enterEnded _ (namesAt_releaseSlots hnames) (unreadAt_releaseSlots (unread_of_names hnames (hstate ▸ hp)))

end Ends

end Sys2Proof.Machine

namespace Sys2Proof.Machine

/-! Proofs about section 2: a take that ends, trimmed and drained, in order (R18, R26, R29, R63, R64, R66). -/

section Drains
variable {k : Nat} {e : Engine}

/-! ## A kept run drains -/

theorem checkDrained_cases (k : Nat) (e : Engine) : e.checkDrained k = e ∨ ∃ t c, (e.session k).trim = some t ∧ (e.session k).state = .draining ∧
    t.last < (e.session k).programmed ∧ e.checkDrained k = ((e.session k).seals t e).enterEnded k c := by
  cases ht : (e.session k).trim with
  | none =>
    refine .inl ?_
    unfold Engine.checkDrained
    dsimp only
    rw [ht]
  | some t =>
    by_cases hd : (e.session k).state = .draining ∧ t.last < (e.session k).programmed
    · exact .inr ⟨t, _, rfl, hd.1, hd.2, checkDrained_sealed ht hd.1 hd.2⟩
    · refine .inl ?_
      unfold Engine.checkDrained
      dsimp only
      rw [ht]
      exact if_neg (by simpa using hd)

theorem checkDrained_beside (k : Nat) (e : Engine) : Engine.Beside k e (e.checkDrained k) := by
  obtain hsame | ⟨t, c, -, -, -, hends⟩ := checkDrained_cases k e
  · rw [hsame]
    exact .refl k e
  · rw [hends]
    exact ((seals_aside e _ t).beside k).trans (.enterEnded k c _)

theorem draining_idle {x : Session} {ws : List Nat} {t : Trim} (h : x.Order ws) (hd : x.state = .draining) (ht : x.trim = some t)
    (hp : t.last < x.programmed) : ws = [] := by
  refine List.eq_nil_iff_forall_not_mem.2 fun j hj => ?_
  have hkept := h.kept hd t ht j hj
  have hbehind := h.behind j hj
  simp only [Trim.keeps, Bool.and_eq_true, decide_eq_true_eq] at hkept
  omega

theorem orderAt_checkDrained (h : e.OrderAt k) : (e.checkDrained k).OrderAt k := by
  obtain hsame | ⟨t, c, ht, hd, hp, hends⟩ := checkDrained_cases k e
  · rw [hsame]
    exact h
  · rw [hends]
    have hidle : e.IdleAt k := ⟨h.unfilled (by rw [hd]; rfl), draining_idle h hd ht hp⟩
    exact orderAt_enterEnded c ((seals_aside e _ t).idleAt hidle)

theorem namesAt_checkDrained (h : e.NamesAt k) : (e.checkDrained k).NamesAt k := by
  obtain hsame | ⟨t, c, -, hd, -, hends⟩ := checkDrained_cases k e
  · rw [hsame]
    exact h
  · rw [hends]
    have hu : e.UnreadAt k := unread_of_names h (by rw [hd]; rfl)
    exact namesAt_enterEnded c ((seals_aside e _ t).namesAt h) ((seals_aside e _ t).unreadAt hu)

/-! ## The trim applied -/

theorem claims_trimCut (k : Nat) (t : Trim) (e : Engine) : (e.trimCut k t).claims k = { e.claims k with
    flight := (e.claims k).flight.map (fun p => (p.1, p.2 && !t.outside p.1)),
    programs := (e.claims k).programs.filter (fun r => !t.outside r) } := by
  unfold Engine.trimCut
  rw [claims_withdrawPrograms, claims_unwant, (Engine.Aside.within (cutChain_within e _ _ _) rfl).claims k]

theorem orderAt_trimCut (t : Trim) (h : e.OrderAt k) : (e.trimCut k t).OrderAt k :=
  orderAt_withdrawPrograms _ (orderAt_unwant _ ((Engine.Aside.within (cutChain_within e (e.session k).bodyNo t.first t.last) rfl).orderAt h))

theorem namesAt_trimCut (t : Trim) (h : e.NamesAt k) : (e.trimCut k t).NamesAt k :=
  namesAt_withdrawPrograms _ (namesAt_unwant _ ((Engine.Aside.within (cutChain_within e (e.session k).bodyNo t.first t.last) rfl).namesAt h))

theorem trimCut_unfills (k : Nat) (t : Trim) (e : Engine) : (e.session k).Unfills ((e.trimCut k t).session k) := fun b hb => by
  rw [trimCut_buf] at hb ⊢
  split at hb
  · cases hb
  · next hn =>
    rw [if_neg hn]
    exact ⟨hb, rfl⟩

/-- The session of a take whose trim has been applied, with what it has asked for (R63, R64). -/
structure Engine.TrimmedAt (k : Nat) (t : Trim) (g : Engine) : Prop where
  rises : (g.claims k).wanted.Pairwise (· < ·)
  behind : ∀ j ∈ (g.claims k).wanted, (g.session k).programmed ≤ j
  unfilled : ∀ b, ((g.session k).buf b).role ≠ .filling
  kept : ∀ j ∈ (g.claims k).wanted, t.keeps j = true

theorem trimmed_idled {t : Trim} (h : e.OrderAt k) (hk : ∀ j ∈ (e.claims k).wanted, t.keeps j = true) : (e.idleFilling k).TrimmedAt k t := by
  have horder := orderAt_idleFilling h
  refine ⟨horder.rises, horder.behind, fun b => ?_, hk⟩
  rw [session_idleFilling, if_pos rfl]
  exact changeFilling_unfilled idled_unfilled (one_of_order h) b

/-! ## The filling buffer handed -/

theorem wanted_handBuffer (k : Nat) (e : Engine) :
    ((e.handBuffer k).claims k).wanted = (e.claims k).wanted ++ ((e.session k).fillingRequest k).map (·.takeSegment) := by
  rw [claims_handBuffer, wanted_eq, wanted_eq, List.map_append, List.append_assoc]

/-- The request of the filling buffer is for the segment that it holds. -/
theorem mem_fillingRequest {x : Session} {j : Nat} (hj : j ∈ (x.fillingRequest k).map (·.takeSegment)) :
    ∃ b, (x.buf b).role = .filling ∧ j = (x.buf b).holds := by
  unfold Session.fillingRequest at hj
  split at hj
  · next f hf => exact ⟨f, role_of_bufWith hf, List.mem_singleton.1 hj⟩
  · cases hj

theorem handBuffer_rises (hl : (e.session k).state.recordLive = true) (h : e.OrderAt k) : ((e.handBuffer k).claims k).wanted.Pairwise (· < ·) := by
  have hone : (((e.session k).fillingRequest k).map (·.takeSegment)).Pairwise (· < ·) := by
    unfold Session.fillingRequest
    split
    · exact List.pairwise_singleton _ _
    · exact .nil
  rw [wanted_handBuffer]
  refine List.pairwise_append.2 ⟨h.rises, hone, fun i hi j hj => ?_⟩
  obtain ⟨b, hb, rfl⟩ := mem_fillingRequest hj
  exact ((h.taking hl).filling b hb).2.2 i hi

theorem handBuffer_behind (hl : (e.session k).state.recordLive = true) (h : e.OrderAt k) :
    ∀ j ∈ ((e.handBuffer k).claims k).wanted, (e.session k).programmed ≤ j := fun j hj => by
  rw [wanted_handBuffer, List.mem_append] at hj
  obtain hj | hj := hj
  · exact h.behind j hj
  · obtain ⟨b, hb, rfl⟩ := mem_fillingRequest hj
    exact ((h.taking hl).filling b hb).2.1

theorem handBuffer_unfilled (h : e.OrderAt k) (b : Nat) : (((e.handBuffer k).session k).buf b).role ≠ .filling := by
  rw [handBuffer_session, if_pos rfl]
  exact changeFilling_unfilled handed_unfilled (one_of_order h) b

theorem handBuffer_onlyBufs (k : Nat) (e : Engine) : (e.session k).OnlyBufs ((e.handBuffer k).session k) := by
  rw [handBuffer_session, if_pos rfl]
  exact changeFilling_onlyBufs _ _

/-- The filling buffer inside the run is handed behind the requests that it keeps. -/
theorem trimmed_handed {t : Trim} (h : e.OrderAt k) (hl : (e.session k).state.recordLive = true) (hk : ∀ j ∈ (e.claims k).wanted, t.keeps j = true)
    (hin : ∀ b, ((e.session k).buf b).role = .filling → t.keeps ((e.session k).buf b).holds = true) : (e.handBuffer k).TrimmedAt k t := by
  obtain ⟨b0, b1, hy⟩ := handBuffer_onlyBufs k e
  refine ⟨handBuffer_rises hl h, fun j hj => ?_, handBuffer_unfilled h, fun j hj => ?_⟩
  · rw [hy]
    exact handBuffer_behind hl h j hj
  · rw [wanted_handBuffer, List.mem_append] at hj
    obtain hj | hj := hj
    · exact hk j hj
    · obtain ⟨b, hb, rfl⟩ := mem_fillingRequest hj
      exact hin b hb

/-! ## What the trim leaves -/

theorem trimmedAt_trimLeft (t : Trim) (hl : (e.session k).state.recordLive = true) (h : e.OrderAt k) : (e.trimLeft k t).TrimmedAt k t := by
  have hcut := orderAt_trimCut t h
  have hkept : ∀ j ∈ ((e.trimCut k t).claims k).wanted, t.keeps j = true := by
    rw [claims_trimCut]
    exact wanted_outside _ t
  unfold Engine.trimLeft
  split
  · exact trimmed_idled hcut hkept
  · next hgone =>
    refine trimmed_handed hcut ?_ hkept fun b hb => ?_
    · rw [onlyBufs_state (trimCut_rebuffers k t e).1]
      exact hl
    · obtain ⟨hfilling, hholds⟩ := trimCut_unfills k t e b hb
      obtain ⟨c, hc, hcb⟩ := bufWith_of_one (one_of_order h) hfilling
      rw [fillingGone_eq hc] at hgone
      rw [hholds, ← hcb]
      by_contra hout
      exact hgone (if_neg hout)

theorem namesAt_trimLeft (t : Trim) (h : e.NamesAt k) : (e.trimLeft k t).NamesAt k := by
  unfold Engine.trimLeft
  split
  · exact namesAt_idleFilling (namesAt_trimCut t h)
  · exact namesAt_handBuffer (namesAt_trimCut t h)

end Drains

end Sys2Proof.Machine

namespace Sys2Proof.Machine

/-! Proofs about section 2: the end of a take, in order (R18, R26, R63 to R66). -/

section EndTake
variable {k : Nat} {e : Engine}

theorem core_trim {x : Session} (h : x.state ≠ .draining) (tr : Option Trim) : ({ x with trim := tr } : Session).core = x.core := by
  unfold Session.core
  dsimp only
  rw [if_neg h, if_neg h]

theorem state_of_offSlots {x y : Session} (h : x.offSlots.core = y.offSlots.core) : x.state = y.state := state_of_core (x := x.offSlots) (y := y.offSlots) h

theorem live_not_draining {st : SessState} (h : st.recordLive = true) : st ≠ .draining := by
  rintro rfl
  cases h

theorem live_not_playing {st : SessState} (h : st.recordLive = true) : st.playLive = false := by cases st <;> cases h <;> rfl

/-! ## The take as it begins to end -/

theorem ending_beside (k : Nat) (c : Cause) (e : Engine) : Engine.Beside k e (e.ending k c) :=
  (Engine.Beside.modSession (.of_state rfl rfl rfl)).trans (.releaseSlots k _)

theorem ending_offSlots (k : Nat) (c : Cause) (e : Engine) : ((e.ending k c).session k).offSlots.core = (e.session k).offSlots.core := by
  rw [session_ending, if_pos rfl]
  unfold Session.stopMeter Session.offSlots Session.core
  dsimp only
  rw [Option.isSome_map]

theorem ending_state (k : Nat) (c : Cause) (e : Engine) : ((e.ending k c).session k).state = (e.session k).state :=
  state_of_offSlots (ending_offSlots k c e)

/-- A trim noted with a take that has begun to end changes nothing else of it. -/
theorem trim_aside {t : Trim} (h : (e.session k).state ≠ .draining) : e.Aside (e.modSession k (fun x => { x with trim := some t })) :=
  .modSession k (core_trim h _)

/-! ## The take that drains -/

theorem drained_beside (k : Nat) (c : Cause) (t : Trim) (e : Engine) : Engine.Beside k e (e.drained k c t) := by
  have htrimmed := (ending_beside k c e).trans (.applyTrim k t (e.ending k c))
  unfold Engine.drained
  generalize (e.ending k c).applyTrim k t = g at htrimmed ⊢
  exact htrimmed.trans (.modSession (.of_busy rfl rfl nofun))

theorem session_drained (k : Nat) (c : Cause) (t : Trim) (e : Engine) :
    (e.drained k c t).session k = { ((e.ending k c).trimLeft k t).session k with trim := some t, state := .draining } := by
  unfold Engine.drained
  rw [session_modSession_self, applyTrim_session, if_pos rfl]

theorem claims_drained (k : Nat) (c : Cause) (t : Trim) (e : Engine) : (e.drained k c t).claims k = ((e.ending k c).trimLeft k t).claims k := by
  unfold Engine.claims
  rw [drained_ssc]

theorem orderAt_drained (c : Cause) (t : Trim) (hl : (e.session k).state.recordLive = true) (h : e.OrderAt k) : (e.drained k c t).OrderAt k := by
  obtain ⟨hrises, hbehind, hunfilled, hkept⟩ := trimmedAt_trimLeft t (ending_state k c e ▸ hl) (orderAt_congr (ending_offSlots k c e) rfl h)
  unfold Engine.OrderAt
  rw [claims_drained, session_drained]
  refine ⟨hrises, hbehind, nofun, fun _ => hunfilled, fun _ hd => absurd rfl hd, fun _ u hu => ?_⟩
  cases hu
  exact hkept

theorem namesAt_drained (c : Cause) (t : Trim) (hl : (e.session k).state.recordLive = true) (h : e.NamesAt k) : (e.drained k c t).NamesAt k := by
  have hstate : (((e.ending k c).trimLeft k t).session k).state = (e.session k).state :=
    (onlyBufs_state (trimLeft_onlyBufs k t _)).trans (ending_state k c e)
  unfold Engine.NamesAt
  rw [claims_drained, session_drained]
  refine names_of_spares (namesAt_trimLeft t (namesAt_congr (ending_offSlots k c e) rfl h)) (fun _ hp => ?_) fun _ => .inl rfl
  rw [hstate, live_not_playing hl] at hp
  cases hp

/-! ## The take that ends -/

/-- A take ends discarded, its trim noted or not, or drains. -/
theorem endTake_cases (k : Nat) (c : Cause) (cap : Option Nat) (e : Engine) :
    (∃ f oc, (f = e.ending k c ∨ ∃ t : Trim, f = (e.ending k c).modSession k (fun x => { x with trim := some t })) ∧
      e.endTake k c cap = (f.discard k).enterEnded k oc) ∨ ∃ t, e.endTake k c cap = (e.drained k c t).checkDrained k := by
  cases hm : (e.session k).meter with
  | none =>
    refine .inl ⟨_, discardedOutcome c, .inl rfl, ?_⟩
    have hnone : (e.session k).meter.bind (·.onset) = none := by rw [hm]; rfl
    unfold Engine.endTake
    dsimp only
    rw [hnone]
    cases (e.session k).snap <;> rfl
  | some m =>
    cases ho : m.onset with
    | none => exact .inl ⟨_, _, .inl rfl, endTake_silent c cap hm ho⟩
    | some o =>
      cases hsn : (e.session k).snap with
      | none =>
        refine .inl ⟨_, discardedOutcome c, .inl rfl, ?_⟩
        unfold Engine.endTake
        dsimp only
        rw [hsn]
        rfl
      | some sn =>
        by_cases hkept : startSample sn o < (e.session k).takeStop sn c cap m o ∧
            sn.minSamples ≤ (e.session k).takeStop sn c cap m o - startSample sn o
        · exact .inr ⟨_, endTake_kept hm hsn ho hkept.1 hkept.2⟩
        · refine .inl ⟨_, _, .inr ⟨_, rfl⟩, endTake_short hm hsn ho ?_⟩
          omega

theorem endTake_beside (k : Nat) (c : Cause) (cap : Option Nat) (e : Engine) : Engine.Beside k e (e.endTake k c cap) := by
  obtain ⟨f, oc, hf, hends⟩ | ⟨t, hends⟩ := endTake_cases k c cap e
  · have hfirst : Engine.Beside k e f := by
      obtain rfl | ⟨t, rfl⟩ := hf
      · exact ending_beside k c e
      · exact (ending_beside k c e).trans (.modSession (.of_state rfl rfl rfl))
    rw [hends]
    exact (hfirst.trans (.discard k f)).trans (.enterEnded k oc _)
  · rw [hends]
    exact (drained_beside k c t e).trans (checkDrained_beside k _)

/-- A live take as it begins to end, its trim noted or not. -/
theorem ending_kept {c : Cause} {f : Engine} (hl : (e.session k).state.recordLive = true)
    (hf : f = e.ending k c ∨ ∃ t : Trim, f = (e.ending k c).modSession k (fun x => { x with trim := some t })) :
    (f.session k).offSlots.core = (e.session k).offSlots.core ∧ f.claims k = e.claims k := by
  obtain rfl | ⟨t, rfl⟩ := hf
  · exact ⟨ending_offSlots k c e, rfl⟩
  · exact ⟨((trim_aside (ending_state k c e ▸ live_not_draining hl)).offSlots k).trans (ending_offSlots k c e), rfl⟩

theorem orderAt_endTake (c : Cause) (cap : Option Nat) (hl : (e.session k).state.recordLive = true) (h : e.OrderAt k) : (e.endTake k c cap).OrderAt k := by
  obtain ⟨f, oc, hf, hends⟩ | ⟨t, hends⟩ := endTake_cases k c cap e
  · obtain ⟨hcore, hclaims⟩ := ending_kept hl hf
    rw [hends]
    exact orderAt_enterEnded oc (idleAt_discard (orderAt_congr hcore hclaims h))
  · rw [hends]
    exact orderAt_checkDrained (orderAt_drained c t hl h)

theorem namesAt_endTake (c : Cause) (cap : Option Nat) (hl : (e.session k).state.recordLive = true) (h : e.NamesAt k) : (e.endTake k c cap).NamesAt k := by
  obtain ⟨f, oc, hf, hends⟩ | ⟨t, hends⟩ := endTake_cases k c cap e
  · obtain ⟨hcore, hclaims⟩ := ending_kept hl hf
    have hnames := namesAt_discard (namesAt_congr hcore hclaims h)
    have hstate : ((f.discard k).session k).state = (e.session k).state := (discard_state k f).trans (state_of_offSlots hcore)
    rw [hends]
    exact namesAt_enterEnded oc hnames (unread_of_names hnames (hstate ▸ live_not_playing hl))
  · rw [hends]
    exact namesAt_checkDrained (namesAt_drained c t hl h)

end EndTake

end Sys2Proof.Machine

namespace Sys2Proof.Machine

/-! Proofs about section 2: a window's end and the next buffer, in order (R18, R23, R24, R28). -/

section Windows
variable {k : Nat} {e : Engine}

/-! ## The next buffer -/

/-- A live take stands at a window end: each window complete has closed, and the filling buffer began before the last. -/
structure Session.AtWindowEnd (x : Session) : Prop where
  live : x.state.recordLive = true
  closed : x.windows = x.cursor / 64
  begun : ∀ b, (x.buf b).role = .filling → 32 * (x.buf b).holds < x.windows

/-- The next buffer begins at the segment of the cursor, no other filling. -/
theorem order_of_beginning {x : Session} {ws : List Nat} (h : x.Order ws) (hl : x.state.recordLive = true) (hw : x.windows = x.cursor / 64)
    (hu : ∀ b, (x.buf b).role ≠ .filling) (f : Nat) : (x.beginning f).Order ws := by
  have hbuf : ∀ b, ((x.beginning f).buf b).role = .filling → (f = 0 ↔ b = 0) ∧ ((x.beginning f).buf b).holds = x.cursor / 2048 := fun b hb => by
    unfold Session.beginning at hb ⊢
    rw [buf_setBuf_iff] at hb ⊢
    split at hb
    · next hfb =>
      rw [if_pos hfb]
      exact ⟨hfb, rfl⟩
    · exact absurd hb (hu b)
  obtain ⟨hm, hs, hc, hsoon, hp, ha, -, -⟩ := h.taking hl
  obtain ⟨b0, b1, hy⟩ := setBuf_onlyBufs x f { x.buf f with role := .filling, holds := x.cursor / 2048 }
  have hbeginning : x.beginning f = { x with buf0 := b0, buf1 := b1 } := hy
  rw [hbeginning] at hbuf ⊢
  refine ⟨h.rises, h.behind, fun _ => ⟨hm, hs, hc, hsoon, hp, ha, fun hboth => ?_, fun b hb => ?_⟩, fun hn => absurd (hl.symm.trans hn) nofun, h.unasked, h.kept⟩
  · obtain ⟨h0, -⟩ := hbuf 0 hboth.1
    obtain ⟨h1, -⟩ := hbuf 1 hboth.2
    exact absurd (h1.1 (h0.2 rfl)) nofun
  · obtain ⟨-, hholds⟩ := hbuf b hb
    rw [hholds]
    dsimp only
    refine ⟨by omega, by omega, fun j hj => ?_⟩
    have hj' := ha j hj
    omega

theorem startBuffer_beside (k : Nat) (e : Engine) : Engine.Beside k e (e.startBuffer k) := by
  unfold Engine.startBuffer
  dsimp only
  split
  · exact endTake_beside k _ _ e
  · next b _ =>
    have hbegun := (Engine.Beside.modBuf (k := k) (a := e) b (fun v => { v with role := .filling, holds := (e.session k).cursor / Config.segmentSamples })).step
      (.within (modHold_within _ (e.session k).bodyNo (fun h => { h with begun := h.begun + 1 })) rfl)
    exact .ite (endTake_beside k _ _ e) (.ite ((hbegun.step (.within (charge_within _ _ _) rfl)).step (handInputs_aside _ _)) hbegun)

/-- What the next buffer adds to a session begins, or the take ends. -/
theorem startBuffer_cases (k : Nat) (e : Engine) : (∃ c, e.startBuffer k = e.endTake k c none) ∨
    ∃ b, (e.session k).bufWith .idle = some b ∧ (e.setSession k ((e.session k).beginning b)).Aside (e.startBuffer k) := by
  unfold Engine.startBuffer
  dsimp only
  split
  · exact .inl ⟨_, rfl⟩
  · next b hb =>
    have hbegun : (e.setSession k ((e.session k).beginning b)).Aside (e.begun k b) := .within (modHold_within _ _ _) rfl
    split
    · exact .inl ⟨_, rfl⟩
    · exact .inr ⟨b, hb, .ite ((hbegun.trans (.within (charge_within _ _ _) rfl)).trans (handInputs_aside _ _)) hbegun⟩

theorem orderAt_startBuffer (hl : (e.session k).state.recordLive = true) (hw : (e.session k).windows = (e.session k).cursor / 64)
    (hu : ∀ b, ((e.session k).buf b).role ≠ .filling) (h : e.OrderAt k) : (e.startBuffer k).OrderAt k := by
  obtain ⟨c, hends⟩ | ⟨b, -, hbegins⟩ := startBuffer_cases k e
  · rw [hends]
    exact orderAt_endTake c none hl h
  · refine hbegins.orderAt ?_
    unfold Engine.OrderAt
    rw [session_setSession_self]
    exact order_of_beginning h hl hw hu b

theorem namesAt_startBuffer (hl : (e.session k).state.recordLive = true) (h : e.NamesAt k) : (e.startBuffer k).NamesAt k := by
  obtain ⟨c, hends⟩ | ⟨b, hb, hbegins⟩ := startBuffer_cases k e
  · rw [hends]
    exact namesAt_endTake c none hl h
  · refine hbegins.namesAt ?_
    unfold Engine.NamesAt
    rw [session_setSession_self]
    refine names_of_spares h (fun _ => (onlyBufs_state (setBuf_onlyBufs _ _ _)).symm ▸ id) fun c => ?_
    unfold Session.beginning
    rw [buf_setBuf_iff]
    split
    · next hbc =>
      rw [← buf_congr hbc, role_of_bufWith hb]
      exact .inr idle_spare
    · exact .inl rfl

/-! ## A full buffer -/

theorem fullBuffer_beside (k : Nat) (e : Engine) : Engine.Beside k e (e.fullBuffer k) := .ite ((Engine.Beside.handBuffer k e).trans (startBuffer_beside k _)) (.refl k e)

theorem orderAt_handBuffer (hx : (e.session k).AtWindowEnd) (hc : (e.session k).cursor % 2048 = 0) (h : e.OrderAt k) : (e.handBuffer k).OrderAt k := by
  obtain ⟨hl, hw, hbegun⟩ := hx
  have hrises := handBuffer_rises hl h
  have hbehind := handBuffer_behind hl h
  have hunfilled := handBuffer_unfilled h
  have hwanted := wanted_handBuffer k e
  obtain ⟨hm, hs, hclosed, hsoon, hp, ha, -, -⟩ := h.taking hl
  unfold Engine.OrderAt
  obtain ⟨b0, b1, hy⟩ := handBuffer_onlyBufs k e
  rw [hy] at hunfilled ⊢
  refine ⟨hrises, hbehind, fun _ => ⟨hm, hs, hclosed, hsoon, hp, fun j hj => ?_, fun hboth => hunfilled 0 hboth.1, fun b hb => absurd hb (hunfilled b)⟩,
    fun _ => hunfilled, fun hn => absurd (hl.symm.trans hn) nofun, fun hd => absurd hd (live_not_draining hl)⟩
  dsimp only
  rw [hwanted, List.mem_append] at hj
  obtain hj | hj := hj
  · exact ha j hj
  · obtain ⟨b, hb, rfl⟩ := mem_fillingRequest hj
    have hlt := hbegun b hb
    omega

theorem orderAt_fullBuffer (hx : (e.session k).AtWindowEnd) (h : e.OrderAt k) : (e.fullBuffer k).OrderAt k := by
  unfold Engine.fullBuffer
  split
  · next hc =>
    have hhand := orderAt_handBuffer hx hc h
    have hunfilled := handBuffer_unfilled h
    obtain ⟨b0, b1, hy⟩ := handBuffer_onlyBufs k e
    exact orderAt_startBuffer (by rw [hy]; exact hx.live) (by rw [hy]; exact hx.closed) hunfilled hhand
  · exact h

theorem namesAt_fullBuffer (hl : (e.session k).state.recordLive = true) (h : e.NamesAt k) : (e.fullBuffer k).NamesAt k := by
  have hstate := onlyBufs_state (handBuffer_onlyBufs k e)
  exact ite_kept (namesAt_startBuffer (hstate ▸ hl) (namesAt_handBuffer h)) h

/-! ## A window's end -/

/-- A session whose window has closed, in a state that the take goes on in. -/
def Session.closedIn (n : Meter) (st : SessState) (x : Session) : Session := { x.windowClosed n with state := st }

theorem live_not_free {st : SessState} (h : st.recordLive = true) : st ≠ .free := by
  rintro rfl
  cases h

/-- A window end closes its window, and its take goes on with its full buffer, or ends. -/
theorem closeWindow_closes {m : Meter} {sn : Snapshot} (hl : (e.session k).state.recordLive = true)
    (hw : (e.session k).windows < (e.session k).cursor / 64) (hm : (e.session k).meter = some m) (hsn : (e.session k).snap = some sn) :
    ∃ n st, st.recordLive = true ∧ (e.closeWindow k = (e.setSession k ((e.session k).closedIn n st)).fullBuffer k ∨
      ∃ c, e.closeWindow k = (e.setSession k ((e.session k).closedIn n st)).endTake k c none) := by
  have hon : ∀ {st : SessState}, (e.session k).goesOn (m.close sn (e.session k).windows) sn st →
      ∃ n st, st.recordLive = true ∧ (e.closeWindow k = (e.setSession k ((e.session k).closedIn n st)).fullBuffer k ∨
        ∃ c, e.closeWindow k = (e.setSession k ((e.session k).closedIn n st)).endTake k c none) := fun {st} hgoes =>
    ⟨_, st, goesOn_live hgoes, .inl (closeWindow_goesOn hl hw hm hsn hgoes)⟩
  have hstay : (e.session k).windowClosed (m.close sn (e.session k).windows) =
      (e.session k).closedIn (m.close sn (e.session k).windows) (e.session k).state := rfl
  cases hs : (e.session k).state with
  | cue =>
    by_cases hc : (e.session k).windows + 1 = (e.session k).cueLength
    · exact hon (.inl ⟨hs, hc, rfl⟩)
    · exact hon (.inr (.inl ⟨hs, hc, rfl⟩))
  | waitOnset =>
    by_cases ho : (m.close sn (e.session k).windows).onset = none
    · by_cases hn : sn.noSpeechWindows ≤ (e.session k).windows + 1
      · exact ⟨_, _, hl, .inr ⟨_, hstay ▸ closeWindow_noSpeech hl hw hm hsn hs ho hn⟩⟩
      · exact hon (.inr (.inr (.inr (.inl ⟨hs, ho, Nat.not_le.1 hn, rfl⟩))))
    · exact hon (.inr (.inr (.inl ⟨hs, ho, rfl⟩)))
  | taking =>
    by_cases hn : (m.close sn (e.session k).windows).silenceRun = sn.endSilenceWindows
    · exact ⟨_, _, hl, .inr ⟨_, hstay ▸ closeWindow_silence hl hw hm hsn hs hn⟩⟩
    · by_cases hlen : sn.maxSamples ≤ ((e.session k).windows + 1) * 64 -
          (((m.close sn (e.session k).windows).onset.getD 0) - sn.preRoll) * 64
      · exact ⟨_, _, hl, .inr ⟨_, hstay ▸ closeWindow_maxLength hl hw hm hsn hs hn hlen⟩⟩
      · exact hon (.inr (.inr (.inr (.inr ⟨hs, hn, Nat.not_le.1 hlen, rfl⟩))))
  | _ =>
    rw [hs] at hl
    cases hl

/-- A window end does nothing where none is due; where one is, its take goes on with its full buffer, or ends. -/
theorem closeWindow_cases (k : Nat) (e : Engine) : (e.closeWindow k = e ∧
      ((e.session k).windowDue = true → (e.session k).meter = none ∨ (e.session k).snap = none)) ∨
    ((e.session k).windowDue = true ∧ ∃ n st, st.recordLive = true ∧
      (e.closeWindow k = (e.setSession k ((e.session k).closedIn n st)).fullBuffer k ∨
        ∃ c, e.closeWindow k = (e.setSession k ((e.session k).closedIn n st)).endTake k c none)) := by
  cases hdue : (e.session k).windowDue with
  | false =>
    refine .inl ⟨?_, nofun⟩
    unfold Engine.closeWindow
    dsimp only
    rw [hdue]
    rfl
  | true =>
    cases hm : (e.session k).meter with
    | none =>
      refine .inl ⟨?_, fun _ => .inl rfl⟩
      unfold Engine.closeWindow
      dsimp only
      rw [hdue, hm]
      exact ite_self _
    | some m =>
      cases hsn : (e.session k).snap with
      | none =>
        refine .inl ⟨?_, fun _ => .inr rfl⟩
        unfold Engine.closeWindow
        dsimp only
        rw [hdue, hm, hsn]
        exact ite_self _
      | some sn =>
        have hlw := hdue
        unfold Session.windowDue at hlw
        rw [Bool.and_eq_true, decide_eq_true_eq] at hlw
        obtain ⟨hl, hw⟩ := hlw
        exact .inr ⟨rfl, closeWindow_closes hl hw hm hsn⟩

theorem closeWindow_beside (k : Nat) (e : Engine) : Engine.Beside k e (e.closeWindow k) := by
  obtain ⟨hsame, -⟩ | ⟨-, n, st, hst, hgoes⟩ := closeWindow_cases k e
  · rw [hsame]
    exact .refl k e
  · have hclosed : Engine.Beside k e (e.setSession k ((e.session k).closedIn n st)) :=
      Engine.Beside.modSession (f := Session.closedIn n st) (.of_busy rfl rfl (live_not_free hst))
    obtain hfull | ⟨c, hends⟩ := hgoes
    · rw [hfull]
      exact hclosed.trans (fullBuffer_beside k _)
    · rw [hends]
      exact hclosed.trans (endTake_beside k c none _)

/-- A window that was due has closed, and the filling buffer began before it. -/
theorem order_of_closed {x : Session} {ws : List Nat} (h : x.Order ws) (hdue : x.windowDue = true) (n : Meter) {st : SessState}
    (hst : st.recordLive = true) : (x.closedIn n st).Order ws ∧ (x.closedIn n st).AtWindowEnd := by
  have hlw := hdue
  unfold Session.windowDue at hlw
  rw [Bool.and_eq_true, decide_eq_true_eq] at hlw
  obtain ⟨hl, hw⟩ := hlw
  have hw : x.windows < x.cursor / 64 := hw
  obtain ⟨hm, hs, hc, hsoon, hp, ha, hone, hfill⟩ := h.taking hl
  unfold Session.closedIn Session.windowClosed
  refine ⟨⟨h.rises, h.behind, fun _ => ⟨rfl, hs, ?_, ?_, ?_, fun j hj => ?_, hone, fun b hb => ?_⟩, fun hn => absurd (hst.symm.trans hn) nofun,
    fun hn => absurd (hst.symm.trans hn) nofun, fun hd => absurd hd (live_not_draining hst)⟩, hst, ?_, fun b hb => ?_⟩
  · dsimp only; omega
  · dsimp only; omega
  · dsimp only; omega
  · have hj' := ha j hj
    dsimp only
    omega
  · obtain ⟨h1, h2, h3⟩ := hfill b hb
    exact ⟨h1.trans (Nat.le_succ _), h2, h3⟩
  · dsimp only; omega
  · exact Nat.lt_succ_of_le (hfill b hb).1

theorem orderAt_closeWindow (h : e.OrderAt k) : (e.closeWindow k).OrderAt k := by
  obtain ⟨hsame, -⟩ | ⟨hdue, n, st, hst, hgoes⟩ := closeWindow_cases k e
  · rw [hsame]
    exact h
  · obtain ⟨horder, hend⟩ := order_of_closed h hdue n hst
    have hself := session_setSession_self k ((e.session k).closedIn n st) e
    have hclosed : (e.setSession k ((e.session k).closedIn n st)).OrderAt k := by
      unfold Engine.OrderAt
      rw [hself]
      exact horder
    obtain hfull | ⟨c, hends⟩ := hgoes
    · rw [hfull]
      exact orderAt_fullBuffer (hself.symm ▸ hend) hclosed
    · rw [hends]
      exact orderAt_endTake c none (hself.symm ▸ hst) hclosed

theorem namesAt_closeWindow (h : e.NamesAt k) : (e.closeWindow k).NamesAt k := by
  obtain ⟨hsame, -⟩ | ⟨hdue, n, st, hst, hgoes⟩ := closeWindow_cases k e
  · rw [hsame]
    exact h
  · have hself := session_setSession_self k ((e.session k).closedIn n st) e
    have hlive : (e.session k).state.recordLive = true := by
      unfold Session.windowDue at hdue
      exact (Bool.and_eq_true_iff.1 hdue).1
    have hclosed : (e.setSession k ((e.session k).closedIn n st)).NamesAt k := by
      unfold Engine.NamesAt
      rw [hself]
      exact names_of_spares h (fun _ hp => absurd ((live_not_playing hlive).symm.trans hp) nofun) fun _ => .inl rfl
    obtain hfull | ⟨c, hends⟩ := hgoes
    · rw [hfull]
      exact namesAt_fullBuffer (hself.symm ▸ hst) hclosed
    · rw [hends]
      exact namesAt_endTake c none (hself.symm ▸ hst) hclosed

end Windows

end Sys2Proof.Machine

namespace Sys2Proof.Machine

/-! Proofs about section 2: a playing's reads and buffers, in order (R18, R30 to R34, R39). -/

section Plays
variable {k : Nat} {e g : Engine}

/-! ## What a playing keeps -/

/-- A session that has no take under way, no take in it and no kept run, is in order. -/
theorem orderAt_of_idle (h : e.IdleAt k) (hl : (e.session k).state.recordLive = false) : e.OrderAt k := by
  unfold Engine.OrderAt
  rw [h.unasked]
  exact order_of_quiet hl h.unfilled

theorem playing_not_live {st : SessState} (h : st.playLive = true) : st.recordLive = false ∧ st ≠ .draining := by
  cases st <;> cases h <;> exact ⟨rfl, nofun⟩

theorem idleAt_of_playing (hp : (e.session k).state.playLive = true) (h : e.OrderAt k) : e.IdleAt k := by
  obtain ⟨hl, hd⟩ := playing_not_live hp
  exact ⟨h.unfilled hl, h.unasked hl hd⟩

/-- No buffer begins to fill and no program is asked for. -/
theorem idleAt_of_unfills (hu : (e.session k).Unfills (g.session k)) (hc : (g.claims k).wanted = (e.claims k).wanted) (h : e.IdleAt k) : g.IdleAt k :=
  ⟨fun b hb => h.unfilled b (hu b hb).1, hc.trans h.unasked⟩

/-! ## Reads withdrawn -/

theorem foldl_idled_cases {α : Type} (n : α → Nat) (k : Nat) (b : Nat) : ∀ (l : List α) (e : Engine),
    ((l.foldl (fun e r => e.modBuf k (n r) Buffer.idled) e).session k).buf b = (e.session k).buf b ∨
      ((l.foldl (fun e r => e.modBuf k (n r) Buffer.idled) e).session k).buf b = ((e.session k).buf b).idled ∧ ∃ r ∈ l, (n r = 0 ↔ b = 0)
  | [], _ => .inl rfl
  | r :: l, e => by
    have hone : ((e.modBuf k (n r) Buffer.idled).session k).buf b = (e.session k).buf b ∨
        ((e.modBuf k (n r) Buffer.idled).session k).buf b = ((e.session k).buf b).idled ∧ (n r = 0 ↔ b = 0) := by
      rw [session_modBuf, if_pos rfl, buf_setBuf_iff]
      split
      · next h =>
        rw [buf_congr h]
        exact .inr ⟨rfl, h⟩
      · exact .inl rfl
    rw [List.foldl_cons]
    obtain hrest | ⟨hrest, p, hp, hpb⟩ := foldl_idled_cases n k b l (e.modBuf k (n r) Buffer.idled)
    · rw [hrest]
      exact hone.imp_right fun h => ⟨h.1, r, List.mem_cons_self, h.2⟩
    · rw [hrest]
      obtain hsame | ⟨hidle, -⟩ := hone
      · rw [hsame]
        exact .inr ⟨rfl, p, List.mem_cons_of_mem _ hp, hpb⟩
      · rw [hidle]
        exact .inr ⟨rfl, p, List.mem_cons_of_mem _ hp, hpb⟩

theorem foldl_modBuf_same {α : Type} (n : α → Nat) (f : Buffer → Buffer) (k : Nat) : ∀ (l : List α) (e : Engine),
    (l.foldl (fun e r => e.modBuf k (n r) f) e).ssc = e.ssc
  | [], _ => rfl
  | _ :: l, e => foldl_modBuf_same n f k l _

/-- The waiting reads of a session withdrawn, the one in flight as it is. -/
def Engine.unwaited (k : Nat) (e : Engine) : Engine :=
  (e.ssc.readQueue.filter (fun r => r.session = k)).foldl (fun e r => e.modBuf k r.buf Buffer.idled)
    (e.modSsc (fun c => { c with readQueue := c.readQueue.filter (fun r => r.session ≠ k) }))

theorem unwaited_ssc (k : Nat) (e : Engine) : (e.unwaited k).ssc = { e.ssc with readQueue := e.ssc.readQueue.filter (fun r => r.session ≠ k) } :=
  foldl_modBuf_same _ _ _ _ _

theorem claims_unwaited (k : Nat) (e : Engine) : (e.unwaited k).claims k = { e.claims k with reads := [] } := by
  unfold Engine.claims Ssc.claims
  rw [unwaited_ssc]
  dsimp only
  congr 1
  rw [List.filter_filter]
  refine List.filter_eq_nil_iff.2 fun r _ => ?_
  by_cases hr : r.session = k <;> simp [hr]

theorem unwaited_cases (k : Nat) (e : Engine) (b : Nat) : ((e.unwaited k).session k).buf b = (e.session k).buf b ∨
    ((e.unwaited k).session k).buf b = ((e.session k).buf b).idled ∧ ∃ r ∈ (e.claims k).reads, (r.buf = 0 ↔ b = 0) :=
  foldl_idled_cases (fun r : ReadReq => r.buf) k b _ (e.modSsc (fun c => { c with readQueue := c.readQueue.filter (fun r => r.session ≠ k) }))

theorem unwaited_rebuffers (k : Nat) (e : Engine) : e.Rebuffers k (e.unwaited k) :=
  Engine.Rebuffers.foldl_modBuf k (fun r : ReadReq => r.buf) Buffer.idled _
    (e.modSsc (fun c => { c with readQueue := c.readQueue.filter (fun r => r.session ≠ k) }))

theorem namesAt_unwaited (h : e.NamesAt k) : (e.unwaited k).NamesAt k := by
  have hstate := onlyBufs_state (unwaited_rebuffers k e).1
  unfold Engine.NamesAt
  rw [claims_unwaited]
  refine names_of_dropped (rq := []) (ra := (e.claims k).reads) h (.of_eq (List.append_nil _)) ?_ (fun _ _ => id) (fun _ => hstate.symm ▸ id) fun b => ?_
  · unfold Claims.asked
    rw [List.append_nil]
  · obtain hsame | ⟨-, hr⟩ := unwaited_cases k e b
    · exact .inl (congrArg Buffer.role hsame)
    · exact .inr (.inr (.inr hr))

/-- The read in flight becomes stale. -/
theorem withdrawReads_eq (k : Nat) (e : Engine) : e.withdrawReads k = match (e.unwaited k).ssc.link with
    | .reading r _ => if r.session = k then (e.unwaited k).modBuf k r.buf (fun b => { b with role := .stale }) else e.unwaited k
    | _ => e.unwaited k := rfl

/-- What a withdrawal does with the read in flight of the session. -/
theorem withdrawReads_cases (k : Nat) (e : Engine) : (e.withdrawReads k = e.unwaited k ∧ (e.claims k).reading = none) ∨
    ∃ r, (e.claims k).reading = some r ∧ e.withdrawReads k = (e.unwaited k).modBuf k r.buf (fun b => { b with role := .stale }) := by
  have hreading : (e.claims k).reading = (e.unwaited k).ssc.link.readOf k := by
    rw [unwaited_ssc]
    rfl
  rw [withdrawReads_eq, hreading]
  cases (e.unwaited k).ssc.link with
  | reading r n =>
    by_cases hr : r.session = k
    · exact .inr ⟨r, if_pos hr, if_pos hr⟩
    · exact .inl ⟨if_neg hr, if_neg hr⟩
  | _ => exact .inl ⟨rfl, rfl⟩

theorem claims_withdrawReads (k : Nat) (e : Engine) : (e.withdrawReads k).claims k = { e.claims k with reads := [] } := by
  rw [← claims_unwaited]
  obtain ⟨hsame, -⟩ | ⟨r, -, hstale⟩ := withdrawReads_cases k e
  · rw [hsame]
  · rw [hstale]
    rfl

theorem withdrawReads_unfills (k : Nat) (e : Engine) : (e.session k).Unfills ((e.withdrawReads k).session k) := by
  have hidle : (e.session k).Unfills ((e.unwaited k).session k) := fun b hb => by
    obtain hsame | ⟨hidled, -⟩ := unwaited_cases k e b
    · rw [hsame] at hb ⊢
      exact ⟨hb, rfl⟩
    · rw [hidled] at hb
      cases hb
  obtain ⟨hsame, -⟩ | ⟨r, -, hstale⟩ := withdrawReads_cases k e
  · rw [hsame]
    exact hidle
  · rw [hstale, session_modBuf, if_pos rfl]
    exact hidle.trans (.setBuf nofun)

theorem namesAt_withdrawReads (h : e.NamesAt k) : (e.withdrawReads k).NamesAt k ∧ (e.withdrawReads k).UnreadAt k := by
  have hnames := namesAt_unwaited h
  have hclaims := claims_withdrawReads k e
  obtain ⟨hsame, hnone⟩ | ⟨r, hr, hstale⟩ := withdrawReads_cases k e
  · rw [hsame] at hclaims ⊢
    refine ⟨hnames, fun r hr => ?_⟩
    unfold Claims.asked at hr
    rw [hclaims, hnone] at hr
    cases hr
  · rw [hstale] at hclaims ⊢
    have hasked : ((e.unwaited k).claims k).asked = [r] := by
      unfold Claims.asked
      rw [claims_unwaited, hr]
      rfl
    have hrole : ((((e.unwaited k).modBuf k r.buf (fun b => { b with role := .stale })).session k).buf r.buf).role = .stale := by
      rw [session_modBuf, if_pos rfl, buf_setBuf_iff, if_pos Iff.rfl]
    refine ⟨?_, fun p hp => ?_⟩
    · refine names_of_stale (x := (e.unwaited k).session k) (c := (e.unwaited k).claims k) hnames hasked (by rw [claims_unwaited]; exact hr) hrole fun b hb => ?_
      rw [session_modBuf, if_pos rfl, buf_setBuf_iff, if_neg fun hc => hb hc.symm]
    · have hp : p ∈ ((e.unwaited k).claims k).asked := hp
      rw [hasked, List.mem_singleton] at hp
      exact hp ▸ hrole

/-! ## Buffers that hold a segment read -/

theorem dropPlayed_cases (x : Session) (b : Nat) : x.dropPlayed.buf b = x.buf b ∨
    (x.dropPlayed.buf b = (x.buf b).idled ∧ ((x.buf b).role = .playing ∨ (x.buf b).role = .prefetched)) := by
  have hdrop : ∀ v : Buffer, (if v.role = .playing || v.role = .prefetched then v.idled else v) = v ∨
      ((if v.role = .playing || v.role = .prefetched then v.idled else v) = v.idled ∧ (v.role = .playing ∨ v.role = .prefetched)) := fun v => by
    split
    · next h =>
      rw [Bool.or_eq_true, decide_eq_true_eq, decide_eq_true_eq] at h
      exact .inr ⟨rfl, h⟩
    · exact .inl rfl
  unfold Session.dropPlayed Session.buf
  split
  · exact hdrop x.buf0
  · exact hdrop x.buf1

theorem played_spare {r : BufRole} (h : r = .playing ∨ r = .prefetched) : r.Spare := by
  obtain rfl | rfl := h
  · exact ⟨nofun, nofun, nofun⟩
  · exact ⟨nofun, nofun, nofun⟩

theorem dropPlayed_unfills (x : Session) : x.Unfills x.dropPlayed := fun b hb => by
  obtain hsame | ⟨hidle, -⟩ := dropPlayed_cases x b
  · rw [hsame] at hb ⊢
    exact ⟨hb, rfl⟩
  · rw [hidle] at hb
    cases hb

theorem names_dropPlayed {x : Session} {c : Claims} (h : x.names c) : x.dropPlayed.names c :=
  names_of_spares h (fun _ => id) fun b => (dropPlayed_cases x b).imp (congrArg Buffer.role) fun h => played_spare h.2

theorem stale_dropPlayed {x : Session} {b : Nat} (h : (x.buf b).role = .stale) : (x.dropPlayed.buf b).role = .stale := by
  obtain hsame | ⟨-, hplay⟩ := dropPlayed_cases x b
  · rw [hsame]
    exact h
  · exact absurd h (played_spare hplay).stale

end Plays

end Sys2Proof.Machine

namespace Sys2Proof.Machine

/-! Proofs about section 2: a playing's ends, fetches and changes of place, in order (R18, R30 to R34, R38, R39). -/

section Plays
variable {k : Nat} {e g : Engine}

/-! ## The end of a playing -/

theorem playedOut_aside (now : Now) (k : Nat) (c : Cause) (e : Engine) : (e.unread k).Aside (e.playedOut now k c) :=
  .within (playedOut_within now k c e) rfl

theorem unread_beside (k : Nat) (e : Engine) : Engine.Beside k e (e.unread k) :=
  ((Engine.Beside.withdrawReads k e).trans (.modSession (.of_onlyBufs (dropPlayed_onlyBufs _)))).trans (.releaseSlots k _)

theorem endPlay_beside (now : Now) (k : Nat) (c : Cause) (e : Engine) : Engine.Beside k e (e.endPlay now k c) := by
  rw [endPlay_eq]
  exact ((unread_beside k e).step (playedOut_aside now k c e)).trans (.enterEnded k c _)

theorem idleAt_dropped (h : e.IdleAt k) : ((e.withdrawReads k).modSession k Session.dropPlayed).IdleAt k := by
  refine idleAt_of_unfills (e := e) ?_ ?_ h
  · rw [session_modSession_self]
    exact (withdrawReads_unfills k e).trans (dropPlayed_unfills _)
  · have hclaims : ((e.withdrawReads k).modSession k Session.dropPlayed).claims k = (e.withdrawReads k).claims k := rfl
    rw [hclaims, claims_withdrawReads]
    rfl

theorem namesAt_dropped (h : e.NamesAt k) : ((e.withdrawReads k).modSession k Session.dropPlayed).NamesAt k ∧
    ((e.withdrawReads k).modSession k Session.dropPlayed).UnreadAt k := by
  obtain ⟨hnames, hunread⟩ := namesAt_withdrawReads h
  refine ⟨?_, fun r hr => ?_⟩
  · unfold Engine.NamesAt
    rw [session_modSession_self]
    exact names_dropPlayed hnames
  · rw [session_modSession_self]
    exact stale_dropPlayed (hunread r hr)

theorem orderAt_endPlay (now : Now) (c : Cause) (hp : (e.session k).state.playLive = true) (h : e.OrderAt k) : (e.endPlay now k c).OrderAt k := by
  rw [endPlay_eq]
  exact orderAt_enterEnded c ((playedOut_aside now k c e).idleAt (idleAt_releaseSlots (idleAt_dropped (idleAt_of_playing hp h))))

theorem namesAt_endPlay (now : Now) (c : Cause) (h : e.NamesAt k) : (e.endPlay now k c).NamesAt k := by
  obtain ⟨hnames, hunread⟩ := namesAt_dropped h
  rw [endPlay_eq]
  exact namesAt_enterEnded c ((playedOut_aside now k c e).namesAt (namesAt_releaseSlots hnames))
    ((playedOut_aside now k c e).unreadAt (unreadAt_releaseSlots hunread))

/-! ## A fetch -/

/-- A fetch does nothing, or asks for a read of a playing into an idle buffer. -/
theorem fetchOne_cases (k : Nat) (e : Engine) : e.fetchOne k = e ∨ ∃ chain bp, (e.session k).state.playLive = true ∧
    ((e.session k).buf bp.1).role = .idle ∧ e.fetchOne k = e.asksRead k chain bp := by
  rw [fetchOne_eq k e rfl rfl]
  cases hf : (e.session k).fetches (e.chain (e.session k).bodyNo) (e.offsetOf (e.session k).bodyNo) with
  | nil => exact .inl rfl
  | cons bp w =>
    have hmem : bp ∈ (e.session k).fetches (e.chain (e.session k).bodyNo) (e.offsetOf (e.session k).bodyNo) := by
      rw [hf]
      exact List.mem_cons_self
    refine .inr ⟨_, bp, ?_, fetches_idle hmem, rfl⟩
    rw [fetches_eq] at hmem
    by_contra hp
    rw [if_neg hp] at hmem
    cases hmem

theorem claims_asksRead (k : Nat) (chain : List Nat) (bp : Nat × Nat) (e : Engine) :
    (e.asksRead k chain bp).claims k = { e.claims k with reads := (e.claims k).reads ++ [readOf k chain bp] } := by
  unfold Engine.claims Ssc.claims Engine.asksRead
  dsimp only [Engine.modSsc_ssc, Engine.modBuf_ssc]
  rw [List.filter_append]
  congr 2
  exact List.filter_cons_of_pos (decide_eq_true rfl)

theorem fetchOne_beside (k : Nat) (e : Engine) : Engine.Beside k e (e.fetchOne k) := by
  obtain hsame | ⟨chain, bp, -, -, hasks⟩ := fetchOne_cases k e
  · rw [hsame]
    exact .refl k e
  · rw [hasks]
    exact (Engine.Beside.modBuf _ _).trans (.appendRead rfl)

theorem fetch_beside (k : Nat) (e : Engine) : Engine.Beside k e (e.fetch k) := (fetchOne_beside k e).trans (fetchOne_beside k _)

theorem orderAt_fetchOne (h : e.OrderAt k) : (e.fetchOne k).OrderAt k := by
  obtain hsame | ⟨chain, bp, -, -, hasks⟩ := fetchOne_cases k e
  · rw [hsame]
    exact h
  · rw [hasks]
    unfold Engine.OrderAt
    rw [claims_asksRead, session_asksRead, if_pos rfl]
    exact order_of_unfills h (setBuf_onlyBufs _ _ _) (.setBuf nofun) (.refl _)

theorem namesAt_fetchOne (h : e.NamesAt k) : (e.fetchOne k).NamesAt k := by
  obtain hsame | ⟨chain, bp, hp, hidle, hasks⟩ := fetchOne_cases k e
  · rw [hsame]
    exact h
  · rw [hasks]
    unfold Engine.NamesAt
    rw [claims_asksRead, session_asksRead, if_pos rfl]
    refine names_of_read (r := readOf k chain bp) h (show ((e.session k).buf bp.1).role.Spare from hidle ▸ idle_spare) rfl (List.append_assoc _ _ _).symm rfl
      ((onlyBufs_state (setBuf_onlyBufs _ _ _)).symm ▸ hp) ?_ fun b hb => ?_
    · show (((e.session k).reads bp.1 bp.2).buf bp.1).role = .reading
      unfold Session.reads
      rw [buf_setBuf_iff, if_pos Iff.rfl]
    · unfold Session.reads
      rw [buf_setBuf_iff, if_neg fun hc => hb hc.symm]

theorem orderAt_fetch (h : e.OrderAt k) : (e.fetch k).OrderAt k := orderAt_fetchOne (orderAt_fetchOne h)

theorem namesAt_fetch (h : e.NamesAt k) : (e.fetch k).NamesAt k := namesAt_fetchOne (namesAt_fetchOne h)

/-! ## A playing that goes on -/

/-- From x to y a playing goes on: no buffer that a request names has changed its role, and none begins to fill. -/
structure Session.PlaysOn (x y : Session) : Prop where
  plays : y.state.playLive = true
  roles : ∀ b, (y.buf b).role = (x.buf b).role ∨ ((x.buf b).role.Spare ∧ (y.buf b).role ≠ .filling)

theorem orderAt_playsOn {f : Session → Session} (hp : (e.session k).state.playLive = true) (hf : (e.session k).PlaysOn (f (e.session k))) (h : e.OrderAt k) :
    (e.modSession k f).OrderAt k := by
  obtain ⟨hplays, hroles⟩ := hf
  have hidle := idleAt_of_playing hp h
  refine orderAt_of_idle ⟨fun b hb => ?_, hidle.unasked⟩ ?_
  · rw [session_modSession_self] at hb
    obtain hsame | ⟨-, hne⟩ := hroles b
    · exact hidle.unfilled b (hsame.symm.trans hb)
    · exact hne hb
  · rw [session_modSession_self]
    exact (playing_not_live hplays).1

theorem namesAt_playsOn {f : Session → Session} (hf : (e.session k).PlaysOn (f (e.session k))) (h : e.NamesAt k) : (e.modSession k f).NamesAt k := by
  obtain ⟨hplays, hroles⟩ := hf
  unfold Engine.NamesAt
  rw [session_modSession_self]
  exact names_of_spares h (fun _ _ => hplays) fun b => (hroles b).imp_right And.left

theorem playing_not_free {st : SessState} (h : st.playLive = true) : st ≠ .free := by
  rintro rfl
  cases h

theorem playsOn_beside {f : Session → Session} (hi : (f (e.session k)).inSlot = (e.session k).inSlot) (ho : (f (e.session k)).outSlot = (e.session k).outSlot)
    (hf : (e.session k).PlaysOn (f (e.session k))) : Engine.Beside k e (e.modSession k f) := .modSession (.of_busy hi ho (playing_not_free hf.plays))

theorem pausing_playsOn (x : Session) : x.PlaysOn x.pausing := ⟨rfl, fun _ => .inl rfl⟩

theorem resuming_playsOn (x : Session) : x.PlaysOn x.resuming := by
  refine ⟨?_, fun _ => .inl rfl⟩
  unfold Session.resuming
  dsimp only
  split
  · rfl
  · split <;> rfl

/-! ## The next segment of a playing (R32, R33) -/

theorem cross_cases (x : Session) : x.cross = x ∨ ∃ b, x.bufWith .playing = some b ∧
    ((∃ o, (x.setBuf b (x.buf b).idled).bufWith .prefetched = some o ∧
      x.cross = (x.setBuf b (x.buf b).idled).setBuf o { (x.setBuf b (x.buf b).idled).buf o with role := .playing }) ∨
      ∃ n, x.cross = { x.setBuf b (x.buf b).idled with state := .stalled, underruns := n }) := by
  unfold Session.cross
  split
  · exact .inl rfl
  · next b hb =>
    refine .inr ⟨b, hb, ?_⟩
    dsimp only
    split
    · next o ho => exact .inl ⟨o, ho, rfl⟩
    · exact .inr ⟨_, rfl⟩

theorem setBuf_roles {x : Session} {b : Nat} {v : Buffer} (hb : (x.buf b).role.Spare) (hv : v.role ≠ .filling) (c : Nat) :
    ((x.setBuf b v).buf c).role = (x.buf c).role ∨ ((x.buf c).role.Spare ∧ ((x.setBuf b v).buf c).role ≠ .filling) := by
  rw [buf_setBuf_iff]
  split
  · next hbc =>
    rw [← buf_congr hbc]
    exact .inr ⟨hb, hv⟩
  · exact .inl rfl

theorem cross_playsOn {x : Session} (hp : x.state.playLive = true) : x.PlaysOn x.cross := by
  obtain hsame | ⟨b, hb, hcross⟩ := cross_cases x
  · rw [hsame]
    exact ⟨hp, fun _ => .inl rfl⟩
  · have hplaying := role_of_bufWith hb
    have hdrop : ∀ c, ((x.setBuf b (x.buf b).idled).buf c).role = (x.buf c).role ∨
        ((x.buf c).role.Spare ∧ ((x.setBuf b (x.buf b).idled).buf c).role ≠ .filling) := setBuf_roles (played_spare (.inl hplaying)) (idled_unfilled _)
    obtain ⟨o, ho, hcross⟩ | ⟨n, hcross⟩ := hcross
    · rw [hcross]
      refine ⟨?_, fun c => ?_⟩
      · rw [onlyBufs_state (setBuf_onlyBufs _ _ _), onlyBufs_state (setBuf_onlyBufs _ _ _)]
        exact hp
      · obtain hsame | ⟨hspare, hne⟩ := setBuf_roles (v := { (x.setBuf b (x.buf b).idled).buf o with role := .playing })
          (played_spare (.inr (role_of_bufWith ho))) nofun c
        · rw [hsame]
          exact hdrop c
        · obtain hbefore | ⟨hbefore, -⟩ := hdrop c
          · exact .inr ⟨hbefore ▸ hspare, hne⟩
          · exact .inr ⟨hbefore, hne⟩
    · rw [hcross]
      exact ⟨rfl, hdrop⟩

end Plays

end Sys2Proof.Machine

namespace Sys2Proof.Machine

/-! Proofs about section 2: sessions opened and sought, in order (R8, R18, R20 to R22, R39). -/

section Opens
variable {k : Nat} {e : Engine}

/-! ## SEEK -/

theorem seekSession_eq (now : Now) (k c : Nat) (e : Engine) : (e.seekSession now k c =
      (e.modSession k (fun x => { x with cursor := c })).endPlay now k .finished) ∨
    ∃ st from_, SessState.playLive st = true ∧ e.seekSession now k c =
      (((((e.modSession k (fun x => { x with cursor := c })).withdrawReads k).modSession k Session.dropPlayed).modSession k
        (fun x => { x with state := st, pausedFrom := from_ })).fetch k) := by
  unfold Engine.seekSession
  dsimp only
  split
  · exact .inl rfl
  · refine .inr ⟨_, _, ?_, rfl⟩
    split <;> rfl

theorem sought_playsOn (c : Nat) {x : Session} (hp : x.state.playLive = true) : x.PlaysOn { x with cursor := c } := ⟨hp, fun _ => .inl rfl⟩

theorem seekSession_beside (now : Now) (c : Nat) (hp : (e.session k).state.playLive = true) : Engine.Beside k e (e.seekSession now k c) := by
  have hfirst : Engine.Beside k e (e.modSession k (fun x => { x with cursor := c })) := playsOn_beside rfl rfl (sought_playsOn c hp)
  obtain hends | ⟨st, from_, hst, hgoes⟩ := seekSession_eq now k c e
  · rw [hends]
    exact hfirst.trans (endPlay_beside now k _ _)
  · rw [hgoes]
    exact (((hfirst.trans (.withdrawReads k _)).trans (.modSession (.of_onlyBufs (dropPlayed_onlyBufs _)))).trans
      (.modSession (.of_busy rfl rfl (playing_not_free hst)))).trans (fetch_beside k _)

theorem orderAt_seekSession (now : Now) (c : Nat) (hp : (e.session k).state.playLive = true) (h : e.OrderAt k) : (e.seekSession now k c).OrderAt k := by
  have hfirst : (e.modSession k (fun x => { x with cursor := c })).OrderAt k := orderAt_playsOn hp (sought_playsOn c hp) h
  have hplays : ((e.modSession k (fun x => { x with cursor := c })).session k).state.playLive = true := by
    rw [session_modSession_self]
    exact hp
  obtain hends | ⟨st, from_, hst, hgoes⟩ := seekSession_eq now k c e
  · rw [hends]
    exact orderAt_endPlay now _ hplays hfirst
  · obtain ⟨hunfilled, hunasked⟩ := idleAt_dropped (idleAt_of_playing hplays hfirst)
    rw [hgoes]
    generalize ((e.modSession k (fun x => { x with cursor := c })).withdrawReads k).modSession k Session.dropPlayed = g at hunfilled hunasked ⊢
    refine orderAt_fetch (orderAt_of_idle ⟨?_, hunasked⟩ ?_)
    · rw [session_modSession_self]
      exact hunfilled
    · rw [session_modSession_self]
      exact (playing_not_live hst).1

theorem namesAt_seekSession (now : Now) (c : Nat) (hp : (e.session k).state.playLive = true) (h : e.NamesAt k) : (e.seekSession now k c).NamesAt k := by
  have hfirst : (e.modSession k (fun x => { x with cursor := c })).NamesAt k := namesAt_playsOn (sought_playsOn c hp) h
  obtain hends | ⟨st, from_, hst, hgoes⟩ := seekSession_eq now k c e
  · rw [hends]
    exact namesAt_endPlay now _ hfirst
  · have hdropped := (namesAt_dropped hfirst).1
    rw [hgoes]
    exact namesAt_fetch (namesAt_playsOn ⟨hst, fun _ => .inl rfl⟩ hdropped)

/-! ## Timeslots bound (R8) -/

theorem find?_bound (i : Option Nat) (k : Nat) (t : Tab Nat) (n : Nat) :
    Tab.find? (match i with | none => t | some m => Tab.insert m k t) n = if i = some n then some k else Tab.find? t n := by
  cases i with
  | none => exact (if_neg nofun).symm
  | some m =>
    rw [Tab.find?_insert]
    by_cases hn : n = m
    · rw [if_pos hn, if_pos (congrArg some hn.symm)]
    · rw [if_neg hn, if_neg fun hc => hn (Option.some.inj hc).symm]

theorem rising_bound (i : Option Nat) (k : Nat) {t : Tab Nat} (h : Tab.risingFrom none t = true) :
    Tab.risingFrom none (match i with | none => t | some m => Tab.insert m k t) = true := by
  cases i with
  | none => exact h
  | some m => exact Tab.risingFrom_insert m k none t nofun h

/-- A free session opened with its timeslots. -/
theorem bindSlots_fit {x : Session} {i o : Option Nat} (hfree : (e.session k).state = .free) (hi : x.inSlot = i) (ho : x.outSlot = o)
    (hx : x.state ≠ .free) (h : e.SlotsFit) : ((e.setSession k x).bindSlots k i o).SlotsFit := by
  obtain ⟨hrin, hrout, hr, hbin, hbout, hfrees⟩ := h
  obtain ⟨hnoin, hnoout⟩ := hfrees k hfree
  have hsession : ∀ j, ((e.setSession k x).bindSlots k i o).session j = if j = k then x else e.session j := fun j => session_setSession e k x j
  refine ⟨rising_bound i k hrin, rising_bound o k hrout, setSession_rising hr k x, fun n j hn => ?_, fun n j hn => ?_, fun j hj => ?_⟩
  · have hn := (find?_bound i k e.slotsIn n).symm.trans hn
    rw [hsession]
    split at hn
    · next hin => rw [← Option.some.inj hn, if_pos rfl, hi, hin]
    · rw [if_neg fun hjk : j = k => Option.some_ne_none n ((hjk ▸ hbin n j hn).symm.trans hnoin)]
      exact hbin n j hn
  · have hn := (find?_bound o k e.slotsOut n).symm.trans hn
    rw [hsession]
    split at hn
    · next hout => rw [← Option.some.inj hn, if_pos rfl, ho, hout]
    · rw [if_neg fun hjk : j = k => Option.some_ne_none n ((hjk ▸ hbout n j hn).symm.trans hnoout)]
      exact hbout n j hn
  · rw [hsession] at hj ⊢
    split at hj
    · exact absurd hj hx
    · next hjk =>
      rw [if_neg hjk]
      exact hfrees j hj

theorem bindSlots_beside {x : Session} {i o : Option Nat} (hfree : (e.session k).state = .free) (hi : x.inSlot = i) (ho : x.outSlot = o)
    (hx : x.state ≠ .free) : Engine.Beside k e ((e.setSession k x).bindSlots k i o) :=
  ⟨id, fun j hj => congrArg Session.core ((session_setSession e k x j).trans (if_neg hj)), fun _ _ => rfl, bindSlots_fit hfree hi ho hx⟩

/-! ## OPEN PLAY -/

/-- The context that an OPEN PLAY begins over the buffers of a free session. -/
def Session.openedPlay (out : Nat) (c : Nat) (x : Session) : Session :=
  { Session.freeWith x.buf0 x.buf1 with state := .fetching, outSlot := some out, cursor := c }

section Play
variable {out : Nat} {x : Session} (hfree : (e.session k).state = .free) (hx : x.core = ((e.session k).openedPlay out x.cursor).core)
include hfree hx

theorem openPlay_beside : Engine.Beside k e (((e.setSession k x).bindSlots k none (some out)).fetch k) := by
  have hstate : x.state = .fetching := state_of_core hx
  refine (bindSlots_beside hfree (congrArg Session.Core.inSlot hx) (congrArg Session.Core.outSlot hx) ?_).trans (fetch_beside k _)
  rw [hstate]
  nofun

theorem orderAt_openPlay (h : e.OrderAt k) : (((e.setSession k x).bindSlots k none (some out)).fetch k).OrderAt k := by
  have hself : ((e.setSession k x).bindSlots k none (some out)).session k = x := session_setSession_self k x e
  have hl : (e.session k).state.recordLive = false := by rw [hfree]; rfl
  refine orderAt_fetch (orderAt_of_idle ⟨fun b hb => ?_, h.unasked hl (by rw [hfree]; exact nofun)⟩ ?_)
  · rw [hself] at hb
    exact h.unfilled hl b ((role_of_core hx b).symm.trans hb)
  · rw [hself, state_of_core hx]
    rfl

omit hfree in
theorem namesAt_openPlay (h : e.NamesAt k) : (((e.setSession k x).bindSlots k none (some out)).fetch k).NamesAt k := by
  have hself : ((e.setSession k x).bindSlots k none (some out)).session k = x := session_setSession_self k x e
  refine namesAt_fetch ?_
  unfold Engine.NamesAt
  rw [hself]
  refine names_of_spares h (fun _ _ => ?_) fun b => .inl (role_of_core hx b)
  rw [state_of_core hx]
  rfl

end Play

/-! ## OPEN RECORD -/

section Record
variable (q : OpenRecord) (now : Now) (e : Engine)

theorem target_aside : e.Aside (q.target now e.freeBody e).2 := .within (target_within e q now e.freeBody) rfl

theorem context_live (t : Target) (b : Nat) : (q.context t b e).state.recordLive = true := by
  unfold OpenRecord.context
  dsimp only
  split <;> rfl

theorem opened_beside (hfree : (e.session q.session).state = .free) : Engine.Beside q.session e (q.opened now e) := by
  have htarget := target_aside q now e
  refine (htarget.beside q.session).trans (bindSlots_beside ((state_of_core (htarget.core q.session)).trans hfree) rfl rfl ?_)
  exact live_not_free (context_live q _ _ _)

variable {q now e}

/-- The buffers of the context that an OPEN RECORD begins are those of the free session. -/
theorem context_buf (t : Target) (g : Engine) (b : Nat) : ((q.context t e.freeBody g).buf b) = (g.session q.session).buf b := rfl

theorem opened_role (b : Nat) : (((q.opened now e).session q.session).buf b).role = ((e.session q.session).buf b).role := by
  rw [opened_session, if_pos rfl, context_buf]
  exact role_of_core ((target_aside q now e).core q.session) b

theorem opened_claims (k : Nat) : (q.opened now e).claims k = e.claims k := (target_aside q now e).claims k

theorem opened_live : ((q.opened now e).session q.session).state.recordLive = true := by
  rw [opened_session, if_pos rfl]
  exact context_live q _ _ _

theorem orderAt_opened (hfree : (e.session q.session).state = .free) (h : e.OrderAt q.session) : (q.opened now e).OrderAt q.session := by
  have hl : (e.session q.session).state.recordLive = false := by rw [hfree]; rfl
  have hlive := opened_live (q := q) (now := now) (e := e)
  have hunfilled : ∀ b, (((q.opened now e).session q.session).buf b).role ≠ .filling := fun b hb => h.unfilled hl b ((opened_role b).symm.trans hb)
  unfold Engine.OrderAt
  rw [opened_claims, h.unasked hl (by rw [hfree]; exact nofun)]
  refine ⟨.nil, nofun, fun _ => ?_, fun _ => hunfilled, fun _ _ => rfl, fun _ _ _ => nofun⟩
  rw [opened_session, if_pos rfl] at hunfilled ⊢
  exact ⟨rfl, rfl, Nat.zero_le _, (Nat.zero_div 64).le.trans (Nat.zero_le _), Nat.zero_le _, nofun, fun hboth => hunfilled 0 hboth.1, fun b hb => absurd hb (hunfilled b)⟩

theorem orderAt_openRecord (hfree : (e.session q.session).state = .free) (h : e.OrderAt q.session) :
    ((q.opened now e).startBuffer q.session).OrderAt q.session := by
  have hl : (e.session q.session).state.recordLive = false := by rw [hfree]; rfl
  refine orderAt_startBuffer opened_live ?_ (fun b hb => h.unfilled hl b ((opened_role b).symm.trans hb)) (orderAt_opened hfree h)
  rw [opened_session, if_pos rfl]
  exact (Nat.zero_div 64).symm

theorem namesAt_openRecord (hfree : (e.session q.session).state = .free) (h : e.NamesAt q.session) :
    ((q.opened now e).startBuffer q.session).NamesAt q.session := by
  refine namesAt_startBuffer opened_live ?_
  unfold Engine.NamesAt
  rw [opened_claims]
  refine names_of_spares h (fun _ hp => ?_) fun b => .inl (opened_role b)
  rw [hfree] at hp
  cases hp

end Record

end Opens

end Sys2Proof.Machine

namespace Sys2Proof.Machine

/-! Proofs about section 4: the ends of the store's operations, in order (R18, R66, R76, R81 to R84). -/

section Link
variable {e g : Engine} {ps : List Part} {k : Nat}

/-! ## A link that lets its request go -/

theorem unlinked_claims (h : Engine.Within ps e g) (hps : partsApart [.storeQueues] ps = true) (hg : g.ssc.link.bare) (j : Nat) :
    g.claims j = { e.claims j with flight := none, reading := none } := by
  obtain ⟨hread, hprog⟩ := h.keeps .storeQueues (decide_eq_false (not_mem_of_partsApart hps (by simp)))
  unfold Engine.claims Ssc.claims
  rw [bare_programOf hg, bare_readOf hg, show g.ssc.readQueue = e.ssc.readQueue from hread, show g.ssc.progQueue = e.ssc.progQueue from hprog]

/-- The request of session k leaves the link. -/
theorem unlinked_beside (h : Engine.Within ps e g) (hps : partsApart [.slots, .sessions, .service, .storeQueues] ps = true) (hg : g.ssc.link.bare)
    (he : ∀ j, j ≠ k → e.ssc.link.programOf j = none ∧ e.ssc.link.readOf j = none) : Engine.Beside k e g := by
  have hout : ∀ p ∈ [Part.slots, .sessions, .service, .storeQueues], decide (p ∈ ps) = false :=
    fun p hm => decide_eq_false (not_mem_of_partsApart hps hm)
  obtain ⟨hin, hsout⟩ := h.keeps .slots (hout _ (by simp))
  have hsessions : g.sessions = e.sessions := h.keeps .sessions (hout _ (by simp))
  obtain ⟨hserv, -⟩ := h.keeps .service (hout _ (by simp))
  have hsame : ∀ j, g.session j = e.session j := h.sessions_same (hout _ (by simp))
  have hqueues : partsApart [.storeQueues] ps = true := by
    unfold partsApart at hps ⊢
    rw [List.all_eq_true] at hps ⊢
    exact fun p hp => hps p (by rw [List.mem_singleton.1 hp]; simp)
  refine ⟨fun hf => Eq.trans hserv hf, fun j _ => by rw [hsame], fun j hj => ?_, fun hfit => ?_⟩
  · obtain ⟨hp, hr⟩ := he j hj
    have hno : e.claims j = { e.claims j with flight := none, reading := none } := by
      unfold Engine.claims Ssc.claims
      rw [hp, hr]
    exact (unlinked_claims h hqueues hg j).trans hno.symm
  · exact slotsFit_of_holds hfit hin hsout (hsessions ▸ hfit.rises) fun j => hsame j ▸ .of_state rfl rfl rfl

/-! ## A read that ends -/

section Read
variable {r : ReadReq} {n : Nat} (hl : e.ssc.link = .reading r n)
include hl

theorem reading_others (j : Nat) (hj : j ≠ r.session) : e.ssc.link.programOf j = none ∧ e.ssc.link.readOf j = none := by
  rw [hl]
  exact ⟨rfl, if_neg hj.symm⟩

theorem reading_claims : (e.claims r.session).flight = none ∧ (e.claims r.session).reading = some r := by
  unfold Engine.claims Ssc.claims
  rw [hl]
  exact ⟨rfl, if_pos rfl⟩

/-- The requests left when the read in flight has ended. -/
theorem names_read_ended {y : Session} (h : e.NamesAt r.session) (hp : (e.session r.session).state.playLive = true → y.state.playLive = true)
    (hb : ∀ b, ¬ (r.buf = 0 ↔ b = 0) → (y.buf b).role = ((e.session r.session).buf b).role) :
    y.names { e.claims r.session with flight := none, reading := none } := by
  obtain ⟨hflight, hreading⟩ := reading_claims hl
  have hnodup := h.1
  refine names_of_dropped (rq := []) (ra := [r]) h ?_ ?_ (fun p hp hpr => ?_) (fun _ => hp) fun b => ?_
  · unfold Claims.queued
    rw [hflight, List.append_nil]
  · unfold Claims.asked
    rw [hreading]
    exact List.perm_append_comm
  · cases hreading.symm.trans hpr
    rw [List.nodup_append] at hnodup
    obtain ⟨-, hasked, -⟩ := hnodup
    have hp : r ∈ (e.claims r.session).reads := hp
    unfold Claims.asked at hasked
    rw [hreading] at hasked
    exact absurd (List.mem_map_of_mem hp) (List.nodup_cons.1 hasked).1
  · by_cases hrb : r.buf = 0 ↔ b = 0
    · exact .inr (.inr (.inr ⟨r, List.mem_singleton_self r, hrb⟩))
    · exact .inl (hb b hrb)

theorem wanted_read_ended : ({ e.claims r.session with flight := none, reading := none } : Claims).wanted = (e.claims r.session).wanted := by
  rw [wanted_eq, wanted_eq, (reading_claims hl).1]

end Read

/-! ## A program that ends -/

section Program
variable {r : ProgReq} {i : Nat} {w : Bool} (hl : e.ssc.link = .programming r i w)
include hl

theorem programming_others (j : Nat) (hj : j ≠ r.session) : e.ssc.link.programOf j = none ∧ e.ssc.link.readOf j = none := by
  rw [hl]
  exact ⟨if_neg hj.symm, rfl⟩

theorem programming_claims : (e.claims r.session).flight = some (r, w) ∧ (e.claims r.session).reading = none := by
  unfold Engine.claims Ssc.claims
  rw [hl]
  exact ⟨if_pos rfl, rfl⟩

/-- The requests left when the program in flight has ended. -/
theorem names_program_ended {y : Session} (h : e.NamesAt r.session) (hp : (e.session r.session).state.playLive = true → y.state.playLive = true)
    (hb : ∀ b, ¬ (r.buf = 0 ↔ b = 0) → (y.buf b).role = ((e.session r.session).buf b).role) :
    y.names { e.claims r.session with flight := none, reading := none } := by
  obtain ⟨hflight, hreading⟩ := programming_claims hl
  refine names_of_dropped (rq := [r]) (ra := []) h ?_ ?_ (fun p _ hpr => absurd (hreading.symm.trans hpr) nofun) (fun _ => hp) fun b => ?_
  · unfold Claims.queued
    rw [hflight]
    exact List.perm_append_comm
  · unfold Claims.asked
    rw [hreading, List.append_nil]
  · by_cases hrb : r.buf = 0 ↔ b = 0
    · exact .inr (.inr (.inl ⟨r, List.mem_singleton_self r, hrb⟩))
    · exact .inl (hb b hrb)

theorem wanted_program_ended : (e.claims r.session).wanted = (if w then [r.takeSegment] else []) ++
    ({ e.claims r.session with flight := none, reading := none } : Claims).wanted := by
  rw [wanted_eq, wanted_eq, (programming_claims hl).1]
  cases w <;> rfl

end Program

/-! ## Buffers let go -/

theorem unstored_buf {r : ProgReq} {x : Session} {b : Nat} (h : ¬ (r.buf = 0 ↔ b = 0)) : ((x.unstored r).buf b).role = (x.buf b).role := by
  unfold Session.unstored
  rw [buf_setBuf_iff, if_neg h]

/-- The program has left its take (R66). -/
theorem order_of_programmed {x : Session} {ts : Nat} {ws : List Nat} (h : x.Order (ts :: ws)) : ({ x with programmed := ts + 1 } : Session).Order ws := by
  obtain ⟨hfirst, hrest⟩ := List.pairwise_cons.1 h.rises
  have hmem : ∀ j ∈ ws, j ∈ ts :: ws := fun j hj => List.mem_cons_of_mem _ hj
  refine ⟨hrest, hfirst, fun hl => ?_, h.unfilled, fun hl hd => absurd (h.unasked hl hd) nofun, fun hd t ht j hj => h.kept hd t ht j (hmem j hj)⟩
  obtain ⟨hm, hs, hc, hsoon, hp, ha, hone, hf⟩ := h.taking hl
  refine ⟨hm, hs, hc, hsoon, ha ts List.mem_cons_self, fun j hj => ha j (hmem j hj), hone, fun b hb => ?_⟩
  obtain ⟨hw, -, hlt⟩ := hf b hb
  exact ⟨hw, hlt ts List.mem_cons_self, fun j hj => hlt j (hmem j hj)⟩

/-- A program before the kept run has left its take, which drains (R66). -/
theorem order_of_accepted {r : ProgReq} {x : Session} {ws : List Nat} (h : x.Order ws) : (x.accepted r).Order ws := by
  unfold Session.accepted
  split
  · exact h
  · next t ht =>
    split
    · next hc =>
      simp only [Bool.and_eq_true, decide_eq_true_eq] at hc
      obtain ⟨⟨hd, -⟩, hlt⟩ := hc
      have hl : x.state.recordLive = false := by rw [hd]; rfl
      refine ⟨h.rises, fun j hj => ?_, fun hlive => absurd (hl.symm.trans hlive) nofun, h.unfilled, h.unasked, h.kept⟩
      have hkept := h.kept hd t ht j hj
      simp only [Trim.keeps, Bool.and_eq_true, decide_eq_true_eq] at hkept
      dsimp only
      omega
    · exact h

end Link

end Sys2Proof.Machine

namespace Sys2Proof.Machine

/-! Proofs about section 4: reads that end, in order (R18, R31, R33, R81, R82). -/

/-- The engine whose buffer has been handed to its session, before the session asks for more (R31, R33). -/
def Engine.handedOver (k b : Nat) (e : Engine) : Engine :=
  let x := e.session k
  let isCur := decide ((x.buf b).holds = x.currentPos (e.offsetOf x.bodyNo))
  let e1 := e.modBuf k b (fun v => { v with role := if isCur then .playing else .prefetched })
  if isCur && (x.state = .fetching || x.state = .stalled) then e1.modSession k (fun x => { x with state := .playing }) else e1

section Reads
variable {e : Engine} {k : Nat}

theorem readHanded_eq (k b : Nat) (e : Engine) : e.readHanded k b = (e.handedOver k b).fetch k := rfl

/-- A buffer's role. -/
def Buffer.withRole (role : BufRole) (v : Buffer) : Buffer := { v with role := role }

theorem handedOver_cases (k b : Nat) (e : Engine) : ∃ role, (role = .playing ∨ role = .prefetched) ∧
    (e.handedOver k b = e.modBuf k b (Buffer.withRole role) ∨ ((e.session k).state.playLive = true ∧
      e.handedOver k b = (e.modBuf k b (Buffer.withRole role)).modSession k (fun x => { x with state := .playing }))) := by
  refine ⟨if decide (((e.session k).buf b).holds = (e.session k).currentPos (e.offsetOf (e.session k).bodyNo)) then .playing else .prefetched, ?_, ?_⟩
  · split
    · exact .inl rfl
    · exact .inr rfl
  · unfold Engine.handedOver
    dsimp only
    split
    · next h =>
      rw [Bool.and_eq_true, Bool.or_eq_true, decide_eq_true_eq, decide_eq_true_eq, decide_eq_true_eq] at h
      refine .inr ⟨?_, rfl⟩
      obtain ⟨-, hs | hs⟩ := h
      · rw [hs]; rfl
      · rw [hs]; rfl
    · exact .inl rfl

theorem withRole_unfilled {role : BufRole} (h : role = .playing ∨ role = .prefetched) (v : Buffer) : (v.withRole role).role ≠ .filling := by
  obtain rfl | rfl := h
  · exact nofun
  · exact nofun

theorem handedOver_beside (k b : Nat) (e : Engine) : Engine.Beside k e (e.handedOver k b) := by
  obtain ⟨role, -, hover | ⟨-, hover⟩⟩ := handedOver_cases k b e
  · rw [hover]
    exact .modBuf _ _
  · rw [hover]
    exact (Engine.Beside.modBuf _ _).trans (.modSession (.of_busy rfl rfl nofun))

theorem orderAt_handedOver (b : Nat) (h : e.OrderAt k) : (e.handedOver k b).OrderAt k := by
  obtain ⟨role, hrole, hover⟩ := handedOver_cases k b e
  have hfirst : (e.modBuf k b (Buffer.withRole role)).OrderAt k := by
    unfold Engine.OrderAt
    rw [session_modBuf, if_pos rfl]
    exact order_of_unfills h (setBuf_onlyBufs _ _ _) (.setBuf fun hf => absurd hf (withRole_unfilled hrole _)) (.refl _)
  obtain hover | ⟨hp, hover⟩ := hover
  · rw [hover]
    exact hfirst
  · rw [hover]
    refine orderAt_playsOn ?_ ⟨rfl, fun _ => .inl rfl⟩ hfirst
    rw [session_modBuf, if_pos rfl, onlyBufs_state (setBuf_onlyBufs _ _ _)]
    exact hp

/-- A buffer handed leaves the other as it was, and its playing a playing. -/
theorem handedOver_session (k b : Nat) (e : Engine) :
    ((e.session k).state.playLive = true → ((e.handedOver k b).session k).state.playLive = true) ∧
      ∀ c, ¬ (b = 0 ↔ c = 0) → (((e.handedOver k b).session k).buf c).role = ((e.session k).buf c).role := by
  have hfirst : ∀ role c, ¬ (b = 0 ↔ c = 0) → (((e.session k).setBuf b (((e.session k).buf b).withRole role)).buf c).role = ((e.session k).buf c).role :=
    fun role c hc => by rw [buf_setBuf_iff, if_neg hc]
  obtain ⟨role, -, hover | ⟨-, hover⟩⟩ := handedOver_cases k b e
  · rw [hover, session_modBuf, if_pos rfl]
    exact ⟨(onlyBufs_state (setBuf_onlyBufs _ _ _)).symm ▸ id, hfirst role⟩
  · rw [hover, session_modSession_self, session_modBuf, if_pos rfl]
    exact ⟨fun _ => rfl, hfirst role⟩

/-! ## A read that ends -/

/-- The samples of a buffer are outside its session's core. -/
theorem samples_core (x : Session) (b : Nat) (v : Samples) : (x.setBuf b { x.buf b with samples := v }).core = x.core := by
  unfold Session.setBuf Session.buf
  split <;> rfl

theorem freeLink_within (e : Engine) : Engine.Within [.link] e e.freeLink := link_within e .idle e.ssc.opTimer

/-- A read that ends is dropped, repeated, or handed from a link let go. -/
theorem readEnds_cases {r : ReadReq} {n : Nat} (c : Option StoreCause) (hl : e.ssc.link = .reading r n) :
    e.readEnds r n c = ((e.modBuf r.session r.buf Buffer.idled).freeLink).fetch r.session ∨
      e.readEnds r n c = e.modSsc (fun c => { c with link := .reading r 2, opTimer := 0 }) ∨
      ∃ u g, e.Aside u ∧ u.ssc.link = .reading r n ∧ Engine.Within [.link, .outbox, .flags] u g ∧ g.ssc.link = .idle ∧
        e.readEnds r n c = g.readHanded r.session r.buf := by
  unfold Engine.readEnds
  dsimp only
  split
  · exact .inl rfl
  · split
    · have hsamples : e.Aside (e.modBuf r.session r.buf (fun b => { b with samples := Tab.get [] e.ssc.flash r.segment })) :=
        .modSession r.session (samples_core _ _ _)
      exact .inr (.inr ⟨_, _, hsamples, hl, (freeLink_within _).mono rfl, rfl, rfl⟩)
    · next cause =>
      split
      · exact .inr (.inl rfl)
      · have hsamples : e.Aside (e.modBuf r.session r.buf (fun b => { b with samples := [] })) := .modSession r.session (samples_core _ _ _)
        have hfaults := hsamples.trans (.modSession (f := fun x => { x with readFaults := min 65535 (x.readFaults + 1) }) r.session rfl)
        exact .inr (.inr ⟨_, _, hfaults, hl, ((freeLink_within _).mono rfl).step (raise_within _ _ _) rfl, rfl, rfl⟩)

section Ends
variable {r : ReadReq} {n : Nat} (c : Option StoreCause) (hl : e.ssc.link = .reading r n)
include hl

/-- A read repeated holds the link as it did. -/
theorem repeated_aside : e.Aside (e.modSsc (fun c => { c with link := .reading r 2, opTimer := 0 })) :=
  .link (fun _ => by rw [hl]; rfl) fun _ => by rw [hl]; rfl

theorem readEnds_beside : Engine.Beside r.session e (e.readEnds r n c) := by
  obtain hstale | hagain | ⟨u, g, hu, hul, hg, hgl, hhands⟩ := readEnds_cases c hl
  · rw [hstale]
    have hfree : Engine.Beside r.session (e.modBuf r.session r.buf Buffer.idled) (e.modBuf r.session r.buf Buffer.idled).freeLink :=
      unlinked_beside (ps := [.link]) (freeLink_within _) rfl (.inl rfl) (reading_others (e := e.modBuf r.session r.buf Buffer.idled) hl)
    exact ((Engine.Beside.modBuf _ _).trans hfree).trans (fetch_beside _ _)
  · rw [hagain]
    exact (repeated_aside hl).beside _
  · rw [hhands, readHanded_eq]
    exact (((hu.beside r.session).trans (unlinked_beside hg rfl (.inl hgl) (reading_others hul))).trans (handedOver_beside _ _ _)).trans (fetch_beside _ _)

theorem orderAt_readEnds (h : e.OrderAt r.session) : (e.readEnds r n c).OrderAt r.session := by
  obtain hstale | hagain | ⟨u, g, hu, hul, hg, hgl, hhands⟩ := readEnds_cases c hl
  · rw [hstale]
    refine orderAt_fetch ?_
    unfold Engine.OrderAt
    rw [unlinked_claims (e := e.modBuf r.session r.buf Buffer.idled) (freeLink_within _) rfl (.inl rfl),
      wanted_read_ended (e := e.modBuf r.session r.buf Buffer.idled) hl]
    have hsession : ((e.modBuf r.session r.buf Buffer.idled).freeLink).session r.session = (e.session r.session).setBuf r.buf ((e.session r.session).buf r.buf).idled :=
      (session_modBuf _ _ _ _ _).trans (if_pos rfl)
    rw [hsession]
    exact order_of_unfills h (setBuf_onlyBufs _ _ _) (.idle _) (.refl _)
  · rw [hagain]
    exact (repeated_aside hl).orderAt h
  · have hfreed : g.OrderAt r.session := by
      unfold Engine.OrderAt
      rw [unlinked_claims hg rfl (.inl hgl), wanted_read_ended hul, hg.sessions_same rfl]
      exact hu.orderAt h
    rw [hhands, readHanded_eq]
    exact orderAt_fetch (orderAt_handedOver _ hfreed)

theorem namesAt_readEnds (h : e.NamesAt r.session) : (e.readEnds r n c).NamesAt r.session := by
  obtain hstale | hagain | ⟨u, g, hu, hul, hg, hgl, hhands⟩ := readEnds_cases c hl
  · rw [hstale]
    refine namesAt_fetch ?_
    have hsession : ((e.modBuf r.session r.buf Buffer.idled).freeLink).session r.session = (e.session r.session).setBuf r.buf ((e.session r.session).buf r.buf).idled :=
      (session_modBuf _ _ _ _ _).trans (if_pos rfl)
    unfold Engine.NamesAt
    rw [unlinked_claims (e := e.modBuf r.session r.buf Buffer.idled) (freeLink_within _) rfl (.inl rfl), hsession]
    refine names_read_ended hl h ((onlyBufs_state (setBuf_onlyBufs _ _ _)).symm ▸ id) fun b hb => ?_
    rw [buf_setBuf_iff, if_neg hb]
  · rw [hagain]
    exact (repeated_aside hl).namesAt h
  · have hclaims : (g.handedOver r.session r.buf).claims r.session = g.claims r.session := by
      obtain ⟨role, -, hover | ⟨-, hover⟩⟩ := handedOver_cases r.session r.buf g
      · rw [hover]
        rfl
      · rw [hover]
        rfl
    obtain ⟨hplays, hroles⟩ := handedOver_session r.session r.buf g
    rw [hhands, readHanded_eq]
    refine namesAt_fetch ?_
    unfold Engine.NamesAt
    rw [hclaims, unlinked_claims hg rfl (.inl hgl)]
    rw [hg.sessions_same rfl] at hplays hroles
    exact names_read_ended hul (hu.namesAt h) hplays hroles

end Ends

end Reads

end Sys2Proof.Machine

namespace Sys2Proof.Machine

/-! Proofs about section 4: programs that end, in order (R18, R66, R76, R83, R84). -/

section Programs
variable {e u : Engine} {ps : List Part} {r : ProgReq} {i : Nat} {w : Bool}

/-- A link that records a result holds no request. -/
theorem recordResult_bare (e : Engine) : e.recordResult.ssc.link.bare := .inr (.inl (congrArg Ssc.link (recordResult_ssc e)))

/-! ## The parts of a program's end -/

/-- The session of a program that ends, its link let go. -/
structure Engine.Unlinks (r : ProgReq) (e u : Engine) : Prop where
  beside : Engine.Beside r.session e u
  session : u.session r.session = e.session r.session
  claims : u.claims r.session = { e.claims r.session with flight := none, reading := none }

theorem unlinks_of_within (hl : e.ssc.link = .programming r i w) (h : Engine.Within ps e u) (hps : partsApart [.slots, .sessions, .service, .storeQueues] ps = true)
    (hq : partsApart [.storeQueues] ps = true) (hu : u.ssc.link.bare) : e.Unlinks r u :=
  ⟨unlinked_beside h hps hu (programming_others hl), h.sessions_same (decide_eq_false (not_mem_of_partsApart hps (by simp))) _, unlinked_claims h hq hu _⟩

theorem linked_unlinks (hl : e.ssc.link = .programming r i w) (f : Tab Samples) (b : Nat) :
    e.Unlinks r ((e.modSsc (fun c => { c with flash := f })).linkSegment b i).recordResult :=
  unlinks_of_within (ps := [.flash, .segments, .bodies, .link, .writes]) hl
    ((((flash_within e f).mono rfl).step (linkSegment_within _ b i) rfl).step (recordResult_within _) rfl) rfl rfl (recordResult_bare _)

theorem dirtied_unlinks (hl : e.ssc.link = .programming r i w) (f : Tab Samples) :
    e.Unlinks r ((e.modSsc (fun c => { c with flash := f })).joinDirty i).recordResult :=
  unlinks_of_within (ps := [.pool, .link, .flash, .outbox, .flags, .segments, .writes]) hl
    ((((flash_within e f).mono rfl).step (joinDirty_within _ i) rfl).step (recordResult_within _) rfl) rfl rfl (recordResult_bare _)

theorem failed_unlinks (hl : e.ssc.link = .programming r i w) (s : SegEntry) (c : StoreCause) :
    e.Unlinks r ((e.put (.segment i s)).recordResult.raiseStoreFault .program i c (some r.session)) :=
  unlinks_of_within (ps := [.segments, .writes, .link, .outbox, .flags]) hl
    ((((put_within e (.segment i s)).mono rfl).step (recordResult_within _) rfl).step (raise_within _ _ _) rfl) rfl rfl (recordResult_bare (e.put (.segment i s)))

section Unlinked
variable (hl : e.ssc.link = .programming r i w) (hu : e.Unlinks r u)
include hl hu

/-- A program that is not wanted leaves its take in order. -/
theorem orderAt_unlinked (hw : w = false) (h : e.OrderAt r.session) : u.OrderAt r.session := by
  have hwanted := wanted_program_ended hl
  rw [hw] at hwanted
  unfold Engine.OrderAt at h ⊢
  rw [hwanted] at h
  rw [hu.claims, hu.session]
  exact h

theorem orderAt_idled (hw : w = false) (h : e.OrderAt r.session) : (u.modBuf r.session r.buf Buffer.idled).OrderAt r.session := by
  unfold Engine.OrderAt
  rw [session_modBuf, if_pos rfl]
  exact order_of_unfills (orderAt_unlinked hl hu hw h) (setBuf_onlyBufs _ _ _) (.idle _) (.refl _)

theorem namesAt_idled (h : e.NamesAt r.session) : (u.modBuf r.session r.buf Buffer.idled).NamesAt r.session := by
  have hclaims : (u.modBuf r.session r.buf Buffer.idled).claims r.session = u.claims r.session := rfl
  unfold Engine.NamesAt
  rw [session_modBuf, if_pos rfl, hclaims, hu.claims, hu.session]
  refine names_program_ended hl h ((onlyBufs_state (setBuf_onlyBufs _ _ _)).symm ▸ id) fun b hb => ?_
  rw [buf_setBuf_iff, if_neg hb]

end Unlinked

/-! ## A program that succeeds -/

theorem accepted_state (r : ProgReq) (x : Session) : x.Holds (x.accepted r) ∧ ∀ b, ((x.accepted r).buf b).role = (x.buf b).role := by
  by_cases hc : x.counts r
  · rw [accepted_counts hc]
    exact ⟨.of_state rfl rfl rfl, fun _ => rfl⟩
  · rw [accepted_not hc]
    exact ⟨.of_state rfl rfl rfl, fun _ => rfl⟩

theorem accepted_plays (r : ProgReq) (x : Session) : (x.accepted r).state = x.state := by
  by_cases hc : x.counts r
  · rw [accepted_counts hc]
  · rw [accepted_not hc]

/-- An unwanted program that succeeds lets its buffer go, and counts for the cap of its take. -/
theorem programDone_unwanted (e : Engine) (r : ProgReq) (i : Nat) : ∃ f : Tab Samples, e.programDone r i false =
    ((((e.modSsc (fun c => { c with flash := f })).joinDirty i).recordResult.modBuf r.session r.buf Buffer.idled).modSession r.session (Session.accepted r)).fetch
      r.session := ⟨_, rfl⟩

section Done
variable (hl : e.ssc.link = .programming r i w)
include hl

theorem stored_beside : Engine.Beside r.session e (e.stored r i) := by
  have hlinked := linked_unlinks hl (Tab.set [] i ((e.session r.session).buf r.buf).samples e.ssc.flash) r.body
  exact (hlinked.beside.trans (.modBuf r.buf Buffer.idled)).trans (.modSession (.of_state rfl rfl rfl))

omit hl in
theorem stored_claims : (e.stored r i).claims r.session = { e.claims r.session with flight := none, reading := none } :=
  unlinked_claims (stored_within r i e) rfl (.inr (.inl (congrArg Ssc.link (stored_ssc r i e)))) r.session

theorem orderAt_stored (hw : w = true) (h : e.OrderAt r.session) : (e.stored r i).OrderAt r.session := by
  have hwanted := wanted_program_ended hl
  rw [hw] at hwanted
  unfold Engine.OrderAt at h ⊢
  rw [hwanted] at h
  rw [stored_claims, stored_session, if_pos rfl]
  exact order_of_programmed (order_of_unfills h (setBuf_onlyBufs _ _ _) (.idle _) (.refl _))

theorem namesAt_stored (h : e.NamesAt r.session) : (e.stored r i).NamesAt r.session := by
  unfold Engine.NamesAt
  rw [stored_claims, stored_session, if_pos rfl]
  refine names_program_ended hl h (fun hp => ?_) fun b hb => unstored_buf hb
  show ((e.session r.session).setBuf r.buf ((e.session r.session).buf r.buf).idled).state.playLive = true
  rw [onlyBufs_state (setBuf_onlyBufs _ _ _)]
  exact hp

theorem programDone_beside : Engine.Beside r.session e (e.programDone r i w) := by
  cases w with
  | true => exact (stored_beside hl).trans (checkDrained_beside r.session _)
  | false =>
    obtain ⟨f, hdone⟩ := programDone_unwanted e r i
    rw [hdone]
    exact (((dirtied_unlinks hl f).beside.trans (.modBuf r.buf Buffer.idled)).trans (.modSession (accepted_state r _).1)).trans (fetch_beside r.session _)

theorem orderAt_programDone (h : e.OrderAt r.session) : (e.programDone r i w).OrderAt r.session := by
  cases hw : w with
  | true => exact orderAt_checkDrained (orderAt_stored hl hw h)
  | false =>
    obtain ⟨f, hdone⟩ := programDone_unwanted e r i
    have hidled := orderAt_idled hl (dirtied_unlinks hl f) hw h
    rw [hdone]
    generalize ((e.modSsc (fun c => { c with flash := f })).joinDirty i).recordResult.modBuf r.session r.buf Buffer.idled = g at hidled ⊢
    refine orderAt_fetch ?_
    unfold Engine.OrderAt
    rw [session_modSession_self]
    exact order_of_accepted hidled

theorem namesAt_programDone (h : e.NamesAt r.session) : (e.programDone r i w).NamesAt r.session := by
  cases hw : w with
  | true => exact namesAt_checkDrained (namesAt_stored hl h)
  | false =>
    obtain ⟨f, hdone⟩ := programDone_unwanted e r i
    have hidled := namesAt_idled hl (dirtied_unlinks hl f) h
    rw [hdone]
    generalize ((e.modSsc (fun c => { c with flash := f })).joinDirty i).recordResult.modBuf r.session r.buf Buffer.idled = g at hidled ⊢
    refine namesAt_fetch ?_
    unfold Engine.NamesAt
    rw [session_modSession_self]
    exact names_of_spares hidled (fun _ => (accepted_plays r _).symm ▸ id) fun b => .inl ((accepted_state r _).2 b)

end Done

/-! ## A program that fails -/

/-- A request back at the head of the queue. -/
def Engine.requeued (r : ProgReq) (e : Engine) : Engine := e.modSsc (fun c => { c with progQueue := r :: c.progQueue })

theorem requeued_beside (r : ProgReq) (e : Engine) : Engine.Beside r.session e (e.requeued r) := .modSsc id fun j hj => by
  unfold Ssc.claims
  dsimp only
  rw [List.filter_cons_of_neg (by simpa using hj.symm)]

theorem claims_requeued (r : ProgReq) (e : Engine) :
    (e.requeued r).claims r.session = { e.claims r.session with programs := r :: (e.claims r.session).programs } := by
  unfold Engine.claims Ssc.claims Engine.requeued
  dsimp only [Engine.modSsc_ssc]
  rw [List.filter_cons_of_pos (p := fun p : ProgReq => decide (p.session = r.session)) (decide_eq_true rfl)]

/-- A program that fails goes back to the queue while wanted; unwanted, it lets its buffer go. -/
theorem programFailed_cases (e : Engine) (r : ProgReq) (i : Nat) (c : StoreCause) : ∃ s : SegEntry,
    e.programFailed r i true c = ((e.put (.segment i s)).recordResult.raiseStoreFault .program i c (some r.session)).requeued r ∧
      e.programFailed r i false c =
        (((e.put (.segment i s)).recordResult.raiseStoreFault .program i c (some r.session)).modBuf r.session r.buf Buffer.idled).fetch r.session :=
  ⟨_, rfl, rfl⟩

section Failed
variable (c : StoreCause) (hl : e.ssc.link = .programming r i w)
include hl

theorem programFailed_beside : Engine.Beside r.session e (e.programFailed r i w c) := by
  obtain ⟨s, hwanted, hdropped⟩ := programFailed_cases e r i c
  have hfirst := (failed_unlinks hl s c).beside
  cases w with
  | true =>
    rw [hwanted]
    exact hfirst.trans (requeued_beside r _)
  | false =>
    rw [hdropped]
    exact (hfirst.trans (.modBuf r.buf Buffer.idled)).trans (fetch_beside r.session _)

theorem orderAt_programFailed (h : e.OrderAt r.session) : (e.programFailed r i w c).OrderAt r.session := by
  obtain ⟨s, hwanted, hdropped⟩ := programFailed_cases e r i c
  have hfirst := failed_unlinks hl s c
  cases hw : w with
  | true =>
    have hall := wanted_program_ended hl
    rw [hw] at hall
    have hback : ({ ({ e.claims r.session with flight := none, reading := none } : Claims) with
        programs := r :: ({ e.claims r.session with flight := none, reading := none } : Claims).programs } : Claims).wanted = (e.claims r.session).wanted := by
      rw [hall, wanted_eq, wanted_eq]
      rfl
    rw [hwanted]
    generalize (e.put (.segment i s)).recordResult.raiseStoreFault .program i c (some r.session) = u at hfirst ⊢
    have hsession : (u.requeued r).session r.session = u.session r.session := rfl
    unfold Engine.OrderAt
    rw [claims_requeued, hsession, hfirst.claims, hfirst.session, hback]
    exact h
  | false =>
    rw [hdropped]
    exact orderAt_fetch (orderAt_idled hl hfirst hw h)

theorem namesAt_programFailed (h : e.NamesAt r.session) : (e.programFailed r i w c).NamesAt r.session := by
  obtain ⟨s, hwanted, hdropped⟩ := programFailed_cases e r i c
  have hfirst := failed_unlinks hl s c
  cases hw : w with
  | true =>
    obtain ⟨hflight, hreading⟩ := programming_claims hl
    rw [hwanted]
    generalize (e.put (.segment i s)).recordResult.raiseStoreFault .program i c (some r.session) = u at hfirst ⊢
    have hsession : (u.requeued r).session r.session = u.session r.session := rfl
    unfold Engine.NamesAt
    rw [claims_requeued, hsession, hfirst.claims, hfirst.session]
    refine names_of_dropped (rq := []) (ra := []) h (.of_eq ?_) (.of_eq ?_) (fun p _ hp => absurd (hreading.symm.trans hp) nofun) (fun _ => id)
      fun _ => .inl rfl
    · unfold Claims.queued
      rw [hflight, List.append_nil]
      rfl
    · unfold Claims.asked
      rw [hreading, List.append_nil]
  | false =>
    rw [hdropped]
    exact namesAt_fetch (namesAt_idled hl hfirst h)

end Failed

end Programs

end Sys2Proof.Machine

namespace Sys2Proof.Machine

/-! Proofs about section 4: requests that the arbiter takes from their queues, in order (R18, R28, R66, R75, R78, R83). -/

section Starts
variable {e : Engine}

theorem readOf_reading (k : Nat) (r : ReadReq) (n : Nat) : (Link.reading r n).readOf k = if r.session = k then some r else none := rfl

theorem programOf_allocating (k : Nat) (r : ProgReq) (i : Nat) (w : Bool) :
    (Link.allocating r i w).programOf k = if r.session = k then some (r, w) else none := rfl

theorem idle_requests (hl : e.ssc.link = .idle) (k : Nat) : (e.claims k).flight = none ∧ (e.claims k).reading = none := by
  unfold Engine.claims Ssc.claims
  rw [hl]
  exact ⟨rfl, rfl⟩

/-! ## A read starts -/

section Read
variable {r : ReadReq} {q : List ReadReq} (hl : e.ssc.link = .idle) (hq : e.ssc.readQueue = r :: q)
include hl hq

/-- The engine of a read that has started. -/
def Engine.readStarted (r : ReadReq) (q : List ReadReq) (e : Engine) : Engine :=
  e.modSsc (fun c => { c with readQueue := q, link := .reading r 1, opTimer := 0 })

theorem readStarted_beside : Engine.Beside r.session e (e.readStarted r q) := .modSsc id fun j hj => by
  unfold Ssc.claims
  dsimp only
  rw [hl, hq, List.filter_cons_of_neg (by simpa using hj.symm), readOf_reading, if_neg hj.symm]
  rfl

theorem claims_readStarted : ∃ reads, (e.claims r.session).reads = r :: reads ∧
    (e.readStarted r q).claims r.session = { e.claims r.session with reading := some r, reads := reads } := by
  refine ⟨q.filter (fun p => decide (p.session = r.session)), ?_, ?_⟩
  · unfold Engine.claims Ssc.claims
    rw [hq]
    exact List.filter_cons_of_pos (p := fun p : ReadReq => decide (p.session = r.session)) (decide_eq_true rfl)
  · unfold Engine.claims Ssc.claims Engine.readStarted
    dsimp only [Engine.modSsc_ssc]
    rw [hl, readOf_reading, if_pos rfl]
    rfl

theorem orderAt_readStarted (h : e.OrderAt r.session) : (e.readStarted r q).OrderAt r.session := by
  obtain ⟨reads, -, hclaims⟩ := claims_readStarted hl hq
  unfold Engine.OrderAt
  rw [hclaims]
  exact h

theorem namesAt_readStarted (h : e.NamesAt r.session) : (e.readStarted r q).NamesAt r.session := by
  obtain ⟨reads, hreads, hclaims⟩ := claims_readStarted hl hq
  obtain ⟨-, hnone⟩ := idle_requests hl r.session
  unfold Engine.NamesAt
  rw [hclaims]
  refine names_of_dropped (rq := []) (ra := []) h (.of_eq (List.append_nil _)) (.of_eq ?_) (fun p _ hp => absurd (hnone.symm.trans hp) nofun)
    (fun _ => id) fun _ => .inl rfl
  unfold Claims.asked
  rw [hnone, hreads, List.append_nil]
  rfl

end Read

theorem startRead_cases (e : Engine) : e.startRead = e ∨ ∃ r q, e.ssc.readQueue = r :: q ∧ e.startRead = e.readStarted r q := by
  unfold Engine.startRead
  split
  · exact .inl rfl
  · next r q hq => exact .inr ⟨r, q, hq, rfl⟩

/-! ## A program starts -/

section Program
variable {r : ProgReq} {q : List ProgReq}

/-- The engine of a program that has been allocated its segment. -/
def Engine.programStarted (r : ProgReq) (i : Nat) (e : Engine) : Engine :=
  e.modSsc (fun c => { c with progQueue := c.progQueue.tail, freeList := c.freeList.tail, link := .allocating r i true, opTimer := 0 })

theorem startProgram_aside (r : ProgReq) (i : Nat) (e : Engine) : (e.programStarted r i).Aside (e.startProgram r i) :=
  ((Engine.Aside.within (put_within (e.programStarted r i) _) rfl).trans (flush_aside _ _)).trans (.within (examinePool_within _) rfl)

/-- The requests of a session behind the one that it has at the head of the queue. -/
theorem head_programs (hq : e.ssc.progQueue = r :: q) : (e.claims r.session).programs = r :: q.filter (fun p => decide (p.session = r.session)) := by
  unfold Engine.claims Ssc.claims
  rw [hq]
  exact List.filter_cons_of_pos (p := fun p : ProgReq => decide (p.session = r.session)) (decide_eq_true rfl)

section Started
variable (i : Nat) (hl : e.ssc.link = .idle) (hq : e.ssc.progQueue = r :: q)
include hl hq

theorem programStarted_beside : Engine.Beside r.session e (e.programStarted r i) := .modSsc id fun j hj => by
  unfold Ssc.claims
  dsimp only
  rw [hl, hq, List.tail_cons, List.filter_cons_of_neg (by simpa using hj.symm), programOf_allocating, if_neg hj.symm]
  rfl

theorem claims_programStarted : (e.programStarted r i).claims r.session =
    { e.claims r.session with flight := some (r, true), programs := q.filter (fun p => decide (p.session = r.session)) } := by
  unfold Engine.claims Ssc.claims Engine.programStarted
  dsimp only [Engine.modSsc_ssc]
  rw [hl, hq, programOf_allocating, if_pos rfl]
  rfl

theorem orderAt_programStarted (h : e.OrderAt r.session) : (e.programStarted r i).OrderAt r.session := by
  obtain ⟨hnone, -⟩ := idle_requests hl r.session
  unfold Engine.OrderAt at h ⊢
  rw [wanted_eq, hnone, head_programs hq] at h
  rw [claims_programStarted i hl hq, wanted_eq]
  exact h

theorem namesAt_programStarted (h : e.NamesAt r.session) : (e.programStarted r i).NamesAt r.session := by
  obtain ⟨hnone, -⟩ := idle_requests hl r.session
  unfold Engine.NamesAt
  rw [claims_programStarted i hl hq]
  refine names_of_dropped (rq := []) (ra := []) h (.of_eq ?_) (.of_eq (List.append_nil _)) (fun _ _ => id) (fun _ => id) fun _ => .inl rfl
  unfold Claims.queued
  rw [hnone, head_programs hq, List.append_nil]
  rfl

end Started

/-! ## STORE_FULL -/

/-- The engine of a program that fails for want of segments, its take's other requests withdrawn (R28, R78). -/
def Engine.unfilled (r : ProgReq) (e : Engine) : Engine :=
  ((e.modBuf r.session r.buf Buffer.idled).withdrawPrograms r.session (fun _ => true)).refund r.session (e.waitingPrograms r.session (fun _ => true) + 1)

/-- A program that fails for want of segments ends its take, trims the run that drains again, or was none's. -/
theorem storeFull_cases (r : ProgReq) (e : Engine) :
    (((e.unfilled r).session r.session).state.recordLive = true ∧ ∃ cap, e.storeFull r = (e.unfilled r).endTake r.session .storeFull cap) ∨
    (((e.unfilled r).session r.session).state = .draining ∧ ∃ t c, (e.storeFull r =
        (((e.unfilled r).modSession r.session (fun x => { x with endCause := c, trim := some t })).discard r.session).enterEnded r.session .storeFull ∨
      e.storeFull r = (((e.unfilled r).modSession r.session (fun x => { x with endCause := c, trim := some t })).handTake r.session).checkDrained r.session)) ∨
    e.storeFull r = e.unfilled r := by
  unfold Engine.storeFull
  dsimp only
  split
  · next hl => exact .inl ⟨hl, _, rfl⟩
  · split
    · next hd =>
      split
      · split
        · exact .inr (.inl ⟨hd, _, _, .inl rfl⟩)
        · exact .inr (.inl ⟨hd, _, _, .inr rfl⟩)
      · exact .inr (.inr rfl)
    · exact .inr (.inr rfl)

/-- The run that drains is trimmed again, none of it wanted any more. -/
theorem order_retrimmed {x : Session} (h : x.Order []) (hd : x.state = .draining) (c : Option Cause) (t : Trim) :
    ({ x with endCause := c, trim := some t } : Session).Order [] := by
  have hl : x.state.recordLive = false := by rw [hd]; rfl
  exact order_of_quiet hl (h.unfilled hl)

theorem unfilled_beside (r : ProgReq) (e : Engine) : Engine.Beside r.session e (e.unfilled r) :=
  ((Engine.Beside.modBuf r.buf Buffer.idled).trans (.withdrawPrograms r.session _ _)).step (.within (refund_within _ _ _) rfl)

theorem retrimmed_holds (x : Session) (c : Option Cause) (t : Trim) : x.Holds { x with endCause := c, trim := some t } := .of_state rfl rfl rfl

theorem storeFull_beside (r : ProgReq) (e : Engine) : Engine.Beside r.session e (e.storeFull r) := by
  have hfirst := unfilled_beside r e
  obtain ⟨-, cap, hends⟩ | ⟨-, t, c, hends⟩ | hsame := storeFull_cases r e
  · rw [hends]
    exact hfirst.trans (endTake_beside r.session _ cap _)
  · have hagain := hfirst.trans (.modSession (f := fun x => { x with endCause := c, trim := some t }) (retrimmed_holds _ c t))
    obtain hends | hends := hends
    · rw [hends]
      exact (hagain.trans (.discard r.session _)).trans (.enterEnded r.session _ _)
    · rw [hends]
      exact (hagain.step (.within (handTake_within _ _) rfl)).trans (checkDrained_beside r.session _)
  · rw [hsame]
    exact hfirst

/-- The head of the queue taken from it. -/
def Engine.unheaded (q : List ProgReq) (e : Engine) : Engine := e.modSsc (fun c => { c with progQueue := q })

section Headed
variable (hl : e.ssc.link = .idle) (hq : e.ssc.progQueue = r :: q)
include hq

theorem unheaded_beside : Engine.Beside r.session e (e.unheaded q) := .modSsc id fun j hj => by
  unfold Ssc.claims
  dsimp only
  rw [hq, List.filter_cons_of_neg (by simpa using hj.symm)]

omit hq in
theorem claims_unheaded : (e.unheaded q).claims r.session = { e.claims r.session with programs := q.filter (fun p => decide (p.session = r.session)) } := rfl

theorem orderAt_unheaded (h : e.OrderAt r.session) : (e.unheaded q).OrderAt r.session := by
  unfold Engine.OrderAt
  rw [claims_unheaded]
  refine order_of_unfills (y := e.session r.session) h (.refl _) (.refl _) ?_
  rw [wanted_eq, wanted_eq, head_programs hq]
  exact List.Sublist.append_left (List.sublist_cons_self _ _) _

theorem orderAt_unfilled (h : e.OrderAt r.session) : ((e.unheaded q).unfilled r).OrderAt r.session := by
  refine (Engine.Aside.within (refund_within _ _ _) rfl).orderAt (orderAt_withdrawPrograms _ ?_)
  have hhead := orderAt_unheaded hq h
  generalize e.unheaded q = g at hhead ⊢
  unfold Engine.OrderAt
  rw [session_modBuf, if_pos rfl]
  exact order_of_unfills hhead (setBuf_onlyBufs _ _ _) (.idle _) (.refl _)

theorem namesAt_unfilled (h : e.NamesAt r.session) : ((e.unheaded q).unfilled r).NamesAt r.session := by
  refine (Engine.Aside.within (refund_within _ _ _) rfl).namesAt (namesAt_withdrawPrograms _ ?_)
  have hclaims : ((e.unheaded q).modBuf r.session r.buf Buffer.idled).claims r.session =
      { e.claims r.session with programs := q.filter (fun p => decide (p.session = r.session)) } := rfl
  have hsession : ((e.unheaded q).modBuf r.session r.buf Buffer.idled).session r.session =
      (e.session r.session).setBuf r.buf ((e.session r.session).buf r.buf).idled := (session_modBuf _ _ _ _ _).trans (if_pos rfl)
  unfold Engine.NamesAt
  rw [hclaims, hsession]
  refine names_of_dropped (rq := [r]) (ra := []) h ?_ (.of_eq (List.append_nil _)) (fun _ _ => id)
    (fun _ => (onlyBufs_state (setBuf_onlyBufs _ _ _)).symm ▸ id) fun b => ?_
  · unfold Claims.queued
    rw [head_programs hq, List.append_assoc]
    exact .append_left _ List.perm_append_comm
  · rw [buf_setBuf_iff]
    split
    · next hb => exact .inr (.inr (.inl ⟨r, List.mem_singleton_self r, hb⟩))
    · exact .inl rfl

omit hq in
include hl in
/-- Nothing of the take is wanted any more. -/
theorem wanted_unfilled : (((e.unheaded q).unfilled r).claims r.session).wanted = [] := by
  have hclaims : ((e.unheaded q).unfilled r).claims r.session = (((e.unheaded q).modBuf r.session r.buf Buffer.idled).withdrawPrograms r.session
      (fun _ => true)).claims r.session := (Engine.Aside.within (refund_within _ _ _) rfl).claims _
  have hidle : ((e.unheaded q).modBuf r.session r.buf Buffer.idled).ssc.link = .idle := hl
  rw [hclaims, claims_withdrawPrograms, wanted_eq, (idle_requests hidle r.session).1]
  simp

include hl in
theorem orderAt_storeFull (h : e.OrderAt r.session) : ((e.unheaded q).storeFull r).OrderAt r.session := by
  have hfirst := orderAt_unfilled hq h
  have hnil := wanted_unfilled (r := r) (q := q) hl
  obtain ⟨hlive, cap, hends⟩ | ⟨hd, t, c, hends⟩ | hsame := storeFull_cases r (e.unheaded q)
  · rw [hends]
    exact orderAt_endTake _ cap hlive hfirst
  · generalize (e.unheaded q).unfilled r = g at hfirst hnil hd hends
    have hagain : (g.modSession r.session (fun x => { x with endCause := c, trim := some t })).OrderAt r.session := by
      have hclaims : (g.modSession r.session (fun x => { x with endCause := c, trim := some t })).claims r.session = g.claims r.session := rfl
      unfold Engine.OrderAt at hfirst ⊢
      rw [hnil] at hfirst
      rw [session_modSession_self, hclaims, hnil]
      exact order_retrimmed hfirst hd c t
    obtain hends | hends := hends
    · rw [hends]
      exact orderAt_enterEnded _ (idleAt_discard hagain)
    · rw [hends]
      exact orderAt_checkDrained ((Engine.Aside.within (handTake_within _ _) rfl).orderAt hagain)
  · rw [hsame]
    exact hfirst

theorem namesAt_storeFull (h : e.NamesAt r.session) : ((e.unheaded q).storeFull r).NamesAt r.session := by
  have hfirst := namesAt_unfilled hq h
  obtain ⟨hlive, cap, hends⟩ | ⟨hd, t, c, hends⟩ | hsame := storeFull_cases r (e.unheaded q)
  · rw [hends]
    exact namesAt_endTake _ cap hlive hfirst
  · generalize (e.unheaded q).unfilled r = g at hfirst hd hends
    have hstate : ((g.modSession r.session (fun x => { x with endCause := c, trim := some t })).session r.session).state = .draining := by
      rw [session_modSession_self]
      exact hd
    have hagain : (g.modSession r.session (fun x => { x with endCause := c, trim := some t })).NamesAt r.session := by
      have hclaims : (g.modSession r.session (fun x => { x with endCause := c, trim := some t })).claims r.session = g.claims r.session := rfl
      unfold Engine.NamesAt
      rw [session_modSession_self, hclaims]
      exact names_of_spares hfirst (fun _ => id) fun _ => .inl rfl
    obtain hends | hends := hends
    · have hdropped := namesAt_discard hagain
      rw [hends]
      exact namesAt_enterEnded _ hdropped (unread_of_names hdropped (by rw [discard_state, hstate]; rfl))
    · rw [hends]
      exact namesAt_checkDrained ((Engine.Aside.within (handTake_within _ _) rfl).namesAt hagain)
  · rw [hsame]
    exact hfirst

end Headed

end Program

end Starts

end Sys2Proof.Machine

namespace Sys2Proof.Machine

/-! Proofs about section 1: a frame's voice, in order (R8, R10, R23, R32). -/

section Voice
variable {e g : Engine} {k : Nat}

/-- Every session stands in order, and the timeslots are bound to their sessions. -/
structure Engine.InOrder (e : Engine) : Prop where
  fit : e.SlotsFit
  order : ∀ k, e.OrderAt k

/-- No window is complete and not yet closed. -/
def Engine.windowsShut (e : Engine) : Prop := ∀ k, (e.session k).windowDue = false

theorem Engine.Beside.inOrder (h : Engine.Beside k e g) (hk : e.OrderAt k → g.OrderAt k) (he : e.InOrder) : g.InOrder := by
  refine ⟨h.fit he.fit, fun j => ?_⟩
  by_cases hj : j = k
  · exact hj ▸ hk (he.order k)
  · exact orderAt_congr (congrArg (fun c : Session.Core => { c with inSlot := none, outSlot := none }) (h.core j hj)) (h.claims j hj) (he.order j)

theorem Engine.Aside.inOrder (h : e.Aside g) (he : e.InOrder) : g.InOrder := (h.beside 0).inOrder h.orderAt he

theorem windowDue_of_core {x y : Session} (h : x.core = y.core) : x.windowDue = y.windowDue := by
  unfold Session.windowDue
  rw [state_of_core h, show x.windows = y.windows from congrArg Session.Core.windows h, show x.cursor = y.cursor from congrArg Session.Core.cursor h]

theorem not_due_of_idle {x : Session} (h : x.state.recordLive = false) : x.windowDue = false := by
  unfold Session.windowDue
  rw [h, Bool.false_and]

theorem windowDue_of_onlyBufs {x y : Session} (h : x.OnlyBufs y) : y.windowDue = x.windowDue := by
  obtain ⟨b0, b1, rfl⟩ := h
  rfl

/-! ## A session that has ended takes nothing -/

theorem enterEnded_idles (k : Nat) (c : Cause) (e : Engine) : ((e.enterEnded k c).session k).state.recordLive = false := by
  rw [enterEnded_session, if_pos rfl]
  split <;> rfl

theorem checkDrained_idles (h : (e.session k).state.recordLive = false) : ((e.checkDrained k).session k).state.recordLive = false := by
  obtain hsame | ⟨t, c, -, -, -, hends⟩ := checkDrained_cases k e
  · rw [hsame]
    exact h
  · rw [hends]
    exact enterEnded_idles k c _

theorem endTake_idles (k : Nat) (c : Cause) (cap : Option Nat) (e : Engine) : ((e.endTake k c cap).session k).state.recordLive = false := by
  obtain ⟨f, oc, -, hends⟩ | ⟨t, hends⟩ := endTake_cases k c cap e
  · rw [hends]
    exact enterEnded_idles k oc _
  · rw [hends]
    exact checkDrained_idles (by rw [session_drained]; rfl)

/-! ## The windows that close before the frame -/

theorem startBuffer_shut (h : (e.session k).windowDue = false) : ((e.startBuffer k).session k).windowDue = false := by
  obtain ⟨c, hends⟩ | ⟨b, -, hbegins⟩ := startBuffer_cases k e
  · rw [hends]
    exact not_due_of_idle (endTake_idles k c none e)
  · rw [windowDue_of_core (hbegins.core k), session_setSession_self]
    exact (windowDue_of_onlyBufs (setBuf_onlyBufs _ _ _)).trans h

theorem fullBuffer_shut (h : (e.session k).windowDue = false) : ((e.fullBuffer k).session k).windowDue = false := by
  unfold Engine.fullBuffer
  split
  · exact startBuffer_shut ((windowDue_of_onlyBufs (handBuffer_onlyBufs k e)).trans h)
  · exact h

/-- A session in order has no window due when its windows have closed. -/
theorem closeWindow_shuts (h : e.OrderAt k) : ((e.closeWindow k).session k).windowDue = false := by
  obtain ⟨hsame, hno⟩ | ⟨hdue, n, st, hst, hgoes⟩ := closeWindow_cases k e
  · rw [hsame]
    cases hd : (e.session k).windowDue with
    | false => rfl
    | true =>
      have hl : (e.session k).state.recordLive = true := by
        unfold Session.windowDue at hd
        exact (Bool.and_eq_true_iff.1 hd).1
      obtain ⟨hm, hs, -⟩ := h.taking hl
      obtain hno | hno := hno hd
      · rw [hno] at hm
        cases hm
      · rw [hno] at hs
        cases hs
  · obtain ⟨-, hend⟩ := order_of_closed h hdue n hst
    have hshut : ((e.setSession k ((e.session k).closedIn n st)).session k).windowDue = false := by
      have hclosed := hend.closed
      rw [session_setSession_self]
      unfold Session.windowDue
      rw [hclosed, show Config.windowSamples = 64 from rfl, decide_eq_false (Nat.lt_irrefl _), Bool.and_false]
    obtain hfull | ⟨c, hends⟩ := hgoes
    · rw [hfull]
      exact fullBuffer_shut hshut
    · rw [hends]
      exact not_due_of_idle (endTake_idles k c none _)

theorem closeWindow_inOrder (h : e.InOrder) : (e.closeWindow k).InOrder := (closeWindow_beside k e).inOrder orderAt_closeWindow h

theorem closeWindow_keepsShut {j : Nat} (h : e.OrderAt k) (hj : (e.session j).windowDue = false) : ((e.closeWindow k).session j).windowDue = false := by
  by_cases hjk : j = k
  · subst hjk
    exact closeWindow_shuts h
  · exact (windowDue_of_core ((closeWindow_beside k e).core j hjk)).trans hj

theorem foldl_closeWindow : ∀ (ks : List Nat) {e : Engine}, e.InOrder → (ks.foldl (fun e k => e.closeWindow k) e).InOrder ∧
    ∀ j, j ∈ ks ∨ (e.session j).windowDue = false → ((ks.foldl (fun e k => e.closeWindow k) e).session j).windowDue = false
  | [], _, h => ⟨h, fun _ hj => hj.resolve_left List.not_mem_nil⟩
  | k :: ks, e, h => by
    obtain ⟨horder, hshut⟩ := foldl_closeWindow ks (closeWindow_inOrder (k := k) h)
    refine ⟨horder, fun j hj => hshut j ?_⟩
    obtain hmem | hdue := hj
    · obtain rfl | hmem := List.mem_cons.1 hmem
      · exact .inr (closeWindow_shuts (h.order j))
      · exact .inl hmem
    · exact .inr (closeWindow_keepsShut (h.order k) hdue)

theorem closeWindows_shut (h : e.InOrder) : e.closeWindows.InOrder ∧ e.closeWindows.windowsShut := by
  obtain ⟨horder, hshut⟩ := foldl_closeWindow (e.sessions.map (·.1)) h
  refine ⟨horder, fun j => hshut j ?_⟩
  by_cases hj : j ∈ e.sessions.map (·.1)
  · exact .inl hj
  · have hreset : e.session j = Session.reset := by
      unfold Engine.session Tab.get
      rw [Tab.find?_eq_none_iff.2 hj]
      rfl
    exact .inr (by rw [hreset]; rfl)

/-! ## The outbound values taken -/

/-- A value taken from a session that does not play starts its loss timer anew; a playing goes on, into its next segment or to its end. -/
theorem outTaken_cases (now : Now) (k : Nat) (e : Engine) : e.Aside (e.outTaken now k) ∨ ((e.session k).state.playLive = true ∧
    (e.outTaken now k = e.givenBy k ∨ e.outTaken now k = (e.givenBy k).endPlay now k .finished ∨
      e.outTaken now k = ((e.givenBy k).modSession k Session.cross).fetch k)) := by
  by_cases hp : (e.session k).state = .playing
  · refine .inr ⟨by rw [hp]; rfl, ?_⟩
    rw [outTaken_playing now hp]
    split
    · exact .inr (.inl rfl)
    · split
      · exact .inr (.inr rfl)
      · exact .inl rfl
  · rw [outTaken_idle now hp]
    exact .inl (.modSession k rfl)

section Given
variable (now : Now) (hp : (e.session k).state.playLive = true)

theorem givenBy_eq (k : Nat) (e : Engine) : (e.givenBy k).session k = (e.session k).given ∧ (e.givenBy k).claims k = e.claims k :=
  ⟨givenBy_self k e, rfl⟩

theorem givenBy_beside (k : Nat) (e : Engine) : Engine.Beside k e (e.givenBy k) :=
  (Engine.Beside.modSession (.of_state rfl rfl rfl)).trans (.modSession (.of_state rfl rfl rfl))

include hp in
theorem orderAt_givenBy (h : e.OrderAt k) : (e.givenBy k).OrderAt k := by
  obtain ⟨hsession, hclaims⟩ := givenBy_eq k e
  have hidle := idleAt_of_playing hp h
  refine orderAt_of_idle ⟨fun b => ?_, hclaims ▸ hidle.unasked⟩ ?_
  · rw [hsession]
    exact hidle.unfilled b
  · rw [hsession]
    exact (playing_not_live hp).1

theorem namesAt_givenBy (h : e.NamesAt k) : (e.givenBy k).NamesAt k := by
  obtain ⟨hsession, hclaims⟩ := givenBy_eq k e
  unfold Engine.NamesAt
  rw [hsession, hclaims]
  exact names_of_spares h (fun _ => id) fun _ => .inl rfl

include hp in
theorem givenBy_plays : ((e.givenBy k).session k).state.playLive = true := by
  rw [givenBy_self]
  exact hp

theorem setBuf_slots (x : Session) (b : Nat) (v : Buffer) : (x.setBuf b v).inSlot = x.inSlot ∧ (x.setBuf b v).outSlot = x.outSlot := by
  obtain ⟨b0, b1, hy⟩ := setBuf_onlyBufs x b v
  rw [hy]
  exact ⟨rfl, rfl⟩

theorem cross_slots (x : Session) : x.cross.inSlot = x.inSlot ∧ x.cross.outSlot = x.outSlot := by
  obtain hsame | ⟨b, -, ⟨o, -, hcross⟩ | ⟨n, hcross⟩⟩ := cross_cases x
  · rw [hsame]
    exact ⟨rfl, rfl⟩
  · obtain ⟨hi, ho⟩ := setBuf_slots x b (x.buf b).idled
    obtain ⟨hi', ho'⟩ := setBuf_slots (x.setBuf b (x.buf b).idled) o { (x.setBuf b (x.buf b).idled).buf o with role := .playing }
    rw [hcross]
    exact ⟨hi'.trans hi, ho'.trans ho⟩
  · rw [hcross]
    exact setBuf_slots x b (x.buf b).idled

end Given

theorem outTaken_beside (now : Now) (k : Nat) (e : Engine) : Engine.Beside k e (e.outTaken now k) := by
  obtain haside | ⟨hp, hsame | hends | hcrosses⟩ := outTaken_cases now k e
  · exact haside.beside k
  · rw [hsame]
    exact givenBy_beside k e
  · rw [hends]
    exact (givenBy_beside k e).trans (endPlay_beside now k _ _)
  · obtain ⟨hi, ho⟩ := cross_slots ((e.givenBy k).session k)
    rw [hcrosses]
    exact ((givenBy_beside k e).trans (playsOn_beside hi ho (cross_playsOn (givenBy_plays hp)))).trans (fetch_beside k _)

theorem orderAt_outTaken (now : Now) (h : e.OrderAt k) : (e.outTaken now k).OrderAt k := by
  obtain haside | ⟨hp, hsame | hends | hcrosses⟩ := outTaken_cases now k e
  · exact haside.orderAt h
  · rw [hsame]
    exact orderAt_givenBy hp h
  · rw [hends]
    exact orderAt_endPlay now _ (givenBy_plays hp) (orderAt_givenBy hp h)
  · rw [hcrosses]
    exact orderAt_fetch (orderAt_playsOn (givenBy_plays hp) (cross_playsOn (givenBy_plays hp)) (orderAt_givenBy hp h))

theorem namesAt_outTaken (now : Now) (h : e.NamesAt k) : (e.outTaken now k).NamesAt k := by
  obtain haside | ⟨hp, hsame | hends | hcrosses⟩ := outTaken_cases now k e
  · exact haside.namesAt h
  · rw [hsame]
    exact namesAt_givenBy h
  · rw [hends]
    exact namesAt_endPlay now _ (namesAt_givenBy h)
  · rw [hcrosses]
    exact namesAt_fetch (namesAt_playsOn (cross_playsOn (givenBy_plays hp)) (namesAt_givenBy h))

theorem fetch_state (k : Nat) (e : Engine) : ((e.fetch k).session k).state = (e.session k).state := by
  obtain ⟨hself, -, -⟩ := fetch_spec k (e := e) rfl rfl rfl
  rw [hself]
  exact onlyBufs_state (fetching_onlyBufs _ _)

/-- A value taken leaves a session without a window due so. -/
theorem outTaken_shut (now : Now) (h : (e.session k).windowDue = false) : ((e.outTaken now k).session k).windowDue = false := by
  obtain haside | ⟨hp, hsame | hends | hcrosses⟩ := outTaken_cases now k e
  · exact (windowDue_of_core (haside.core k)).trans h
  · rw [hsame]
    exact not_due_of_idle (playing_not_live (givenBy_plays hp)).1
  · rw [hends, endPlay_eq]
    exact not_due_of_idle (enterEnded_idles k _ _)
  · rw [hcrosses]
    refine not_due_of_idle ?_
    rw [fetch_state, session_modSession_self]
    exact (playing_not_live (cross_playsOn (givenBy_plays hp)).plays).1

theorem outTaken_kept (now : Now) (k : Nat) (h : e.InOrder ∧ e.windowsShut) : (e.outTaken now k).InOrder ∧ (e.outTaken now k).windowsShut := by
  obtain ⟨horder, hshut⟩ := h
  refine ⟨(outTaken_beside now k e).inOrder (orderAt_outTaken now) horder, fun j => ?_⟩
  by_cases hj : j = k
  · subst hj
    exact outTaken_shut now (hshut j)
  · exact (windowDue_of_core ((outTaken_beside now k e).core j hj)).trans (hshut j)

end Voice

end Sys2Proof.Machine

namespace Sys2Proof.Machine

/-! Proofs about section 1: the samples of a frame received, in order (R8, R10, R23). -/

section Receives
variable {e g : Engine} {k : Nat}

/-! ## A sample received -/

/-- A live take that receives a sample moves its cursor on, its core otherwise as it was. -/
theorem receive_core {x : Session} (h : x.state.recordLive = true) (v : Int) : (x.receive v).core = ({ x with cursor := x.cursor + 1 } : Session).core := by
  have hcounted : (x.counted v).core = ({ x with cursor := x.cursor + 1 } : Session).core := by
    unfold Session.counted Session.core
    dsimp only
    rw [Option.isSome_map]
  cases hb : x.bufWith .filling with
  | none => rw [receive_unfilled h v hb, hcounted]
  | some b => rw [receive_filled h v hb, ← hcounted, ← samples_core (x.counted v) b (Tab.set 0 (x.cursor % 2048) v (x.buf b).samples)]; rfl

theorem receive_idle {x : Session} (h : x.state.recordLive = false) (v : Int) : x.receive v = x := by
  unfold Session.receive
  rw [h]
  rfl

theorem receive_holds (v : Int) (x : Session) : x.Holds (x.receive v) := by
  cases h : x.state.recordLive with
  | false =>
    rw [receive_idle h]
    exact .of_state rfl rfl rfl
  | true =>
    have hcore := receive_core h v
    exact .of_state (congrArg Session.Core.inSlot hcore) (congrArg Session.Core.outSlot hcore) (state_of_core (y := { x with cursor := x.cursor + 1 }) hcore)

/-- A take with no window due receives a sample in order. -/
theorem order_receive {x : Session} {ws : List Nat} (h : x.Order ws) (hdue : x.windowDue = false) (v : Int) : (x.receive v).Order ws := by
  cases hl : x.state.recordLive with
  | false =>
    rw [receive_idle hl]
    exact h
  | true =>
    unfold Session.windowDue at hdue
    rw [hl, Bool.true_and, decide_eq_false_iff_not] at hdue
    have hshut : ¬ x.windows < x.cursor / 64 := hdue
    have hcore := congrArg (fun c : Session.Core => { c with inSlot := none, outSlot := none }) (receive_core hl v)
    refine order_of_core (x := { x with cursor := x.cursor + 1 }) hcore.symm ?_
    obtain ⟨hm, hs, hc, hsoon, hp, ha, hone, hf⟩ := h.taking hl
    refine ⟨h.rises, h.behind, fun _ => ⟨hm, hs, ?_, ?_, hp, ha, hone, hf⟩, h.unfilled, h.unasked, h.kept⟩
    · dsimp only; omega
    · dsimp only; omega

theorem names_receive {x : Session} {c : Claims} (h : x.names c) (v : Int) : (x.receive v).names c := by
  cases hl : x.state.recordLive with
  | false =>
    rw [receive_idle hl]
    exact h
  | true =>
    have hcore := receive_core hl v
    have hstate : (x.receive v).state = x.state := state_of_core (y := { x with cursor := x.cursor + 1 }) hcore
    exact names_of_spares h (fun _ => hstate.symm ▸ id) fun b => .inl (role_of_core (y := { x with cursor := x.cursor + 1 }) hcore b)

/-! ## The frame's samples -/

/-- The inbound samples of a frame, each received by the session that its timeslot is bound to. -/
def Engine.receives (value : Nat → Int) (l : List (Nat × Nat)) (e : Engine) : Engine :=
  l.foldl (fun e tk => e.modSession tk.2 (Session.receive (value tk.1))) e

theorem receives_cons (value : Nat → Int) (tk : Nat × Nat) (l : List (Nat × Nat)) (e : Engine) :
    e.receives value (tk :: l) = (e.modSession tk.2 (Session.receive (value tk.1))).receives value l := rfl

theorem receives_claims (value : Nat → Int) (k : Nat) : ∀ (l : List (Nat × Nat)) (e : Engine), (e.receives value l).claims k = e.claims k
  | [], _ => rfl
  | _ :: l, _ => receives_claims value k l _

theorem receives_service (value : Nat → Int) : ∀ (l : List (Nat × Nat)) (e : Engine), (e.receives value l).ssc = e.ssc
  | [], _ => rfl
  | _ :: l, _ => receives_service value l _

theorem received_beside (v : Int) (k : Nat) (e : Engine) : Engine.Beside k e (e.modSession k (Session.receive v)) := .modSession (receive_holds v _)

theorem receives_fit (value : Nat → Int) : ∀ (l : List (Nat × Nat)) {e : Engine}, e.SlotsFit → (e.receives value l).SlotsFit
  | [], _, h => h
  | tk :: l, e, h => receives_fit value l ((received_beside (value tk.1) tk.2 e).fit h)

/-- A session that no timeslot of the list is bound to receives nothing. -/
theorem receives_unbound (value : Nat → Int) : ∀ (l : List (Nat × Nat)) (e : Engine), k ∉ l.map (·.2) → (e.receives value l).session k = e.session k
  | [], _, _ => rfl
  | tk :: l, e, h => by
    rw [List.map_cons, List.mem_cons, not_or] at h
    rw [receives_cons, receives_unbound value l _ h.2, session_modSession_ne _ h.1]

/-- Where each session is bound to one timeslot at most, it receives one sample at most. -/
theorem receives_once (value : Nat → Int) (k : Nat) : ∀ (l : List (Nat × Nat)) (e : Engine), (l.map (·.2)).Nodup →
    (e.receives value l).session k = e.session k ∨ ∃ v, (e.receives value l).session k = (e.session k).receive v
  | [], _, _ => .inl rfl
  | tk :: l, e, h => by
    rw [List.map_cons, List.nodup_cons] at h
    obtain ⟨hout, hrest⟩ := h
    rw [receives_cons]
    by_cases hk : k = tk.2
    · rw [receives_unbound value l _ (hk ▸ hout), hk, session_modSession_self]
      exact .inr ⟨_, rfl⟩
    · have hrec := receives_once value k l (e.modSession tk.2 (Session.receive (value tk.1))) hrest
      rwa [session_modSession_ne _ hk] at hrec

/-- Each session is bound to one inbound timeslot at most (R8). -/
theorem slotsIn_once (h : e.SlotsFit) : (e.slotsIn.map (·.2)).Nodup := by
  have hbound : ∀ x ∈ e.slotsIn, (e.session x.2).inSlot = some x.1 := fun x hx => h.boundIn x.1 x.2 (Tab.find?_of_mem h.risesIn x hx)
  refine List.Nodup.map_on (fun x hx y hy hxy => ?_) (List.Nodup.of_map _ (Tab.keys_nodup h.risesIn))
  have hkey : some x.1 = some y.1 := (hbound x hx).symm.trans (hxy ▸ hbound y hy)
  exact Prod.ext (Option.some.inj hkey) hxy

theorem receives_inOrder (value : Nat → Int) (h : e.InOrder) (hshut : e.windowsShut) : (e.receives value e.slotsIn).InOrder := by
  refine ⟨receives_fit value _ h.fit, fun j => ?_⟩
  unfold Engine.OrderAt
  rw [receives_claims]
  obtain hsame | ⟨v, hv⟩ := receives_once value j e.slotsIn e (slotsIn_once h.fit)
  · rw [hsame]
    exact h.order j
  · rw [hv]
    exact order_receive (h.order j) (hshut j) v

/-! ## The voice of a frame -/

theorem voiceFrame_eq (now : Now) (hrx : List Byte) (e : Engine) : e.voiceFrame now hrx =
    (e.slotsOut.foldl (fun e tk => e.outTaken now tk.2) e).receives (fun n => expand (hrx.getD n 0)) (e.slotsOut.foldl (fun e tk => e.outTaken now tk.2) e).slotsIn := rfl

theorem voiceFrame_frozen (now : Now) (hrx : List Byte) (h : e.ssc.service = .frozen) : (e.voiceFrame now hrx).ssc.service = .frozen := by
  rw [voiceFrame_eq, receives_service]
  exact foldl_kept (P := fun g : Engine => g.ssc.service = .frozen) (fun g (tk : Nat × Nat) hg => (outTaken_beside now tk.2 g).service hg) e.slotsOut h

/-- The voice of a frame whose due windows have closed. -/
theorem voiceFrame_inOrder (now : Now) (hrx : List Byte) (h : e.InOrder) (hshut : e.windowsShut) : (e.voiceFrame now hrx).InOrder := by
  obtain ⟨horder, hstill⟩ := foldl_kept (P := fun g : Engine => g.InOrder ∧ g.windowsShut) (fun g (tk : Nat × Nat) hg => outTaken_kept now tk.2 hg)
    e.slotsOut ⟨h, hshut⟩
  rw [voiceFrame_eq]
  exact receives_inOrder _ horder hstill

theorem receives_names (value : Nat → Int) : ∀ (l : List (Nat × Nat)) {e : Engine}, e.namesBuffers → (e.receives value l).namesBuffers
  | [], _, h => h
  | tk :: l, e, h => by
    refine receives_names value l ((received_beside (value tk.1) tk.2 e).namesBuffers (fun hk => ?_) h)
    unfold Engine.NamesAt
    rw [session_modSession_self]
    exact names_receive hk _

theorem voiceFrame_names (now : Now) (hrx : List Byte) (h : e.namesBuffers) : (e.voiceFrame now hrx).namesBuffers := by
  rw [voiceFrame_eq]
  exact receives_names _ _ (foldl_kept (fun g (tk : Nat × Nat) hg => (outTaken_beside now tk.2 g).namesBuffers (namesAt_outTaken now) hg) _ h)

end Receives

end Sys2Proof.Machine

namespace Sys2Proof.Machine

/-! Proofs about the machine: the takes and the requests in order, through every step (R8, R18, R23, R24, R27, R28, R63, R76). -/

/-! ## Every operation -/

theorem inTakeOrder_iff_inOrder (e : Engine) : e.inTakeOrder ↔ (e.ssc.service ≠ .frozen → e.InOrder) :=
  (inTakeOrder_iff_at e).trans (imp_congr_right fun _ => ⟨fun h => ⟨h.1, h.2⟩, fun h => ⟨h.fit, h.order⟩⟩)

theorem voice_inTakeOrder (now : Now) (hrx : List Byte) {e g : Engine} (hg : e.closeWindows.Aside g) (h : e.inTakeOrder) : (g.voiceFrame now hrx).inTakeOrder := by
  rw [inTakeOrder_iff_inOrder] at h ⊢
  intro hservice
  have hclosing : e.ssc.service = .frozen → e.closeWindows.ssc.service = .frozen := fun hf =>
    foldl_kept (P := fun g : Engine => g.ssc.service = .frozen) (fun g k hg => (closeWindow_beside k g).service hg) _ hf
  obtain ⟨horder, hshut⟩ := closeWindows_shut (h fun hf => hservice (voiceFrame_frozen now hrx (hg.service (hclosing hf))))
  exact voiceFrame_inOrder now hrx (hg.inOrder horder) fun k => (windowDue_of_core (hg.core k)).trans (hshut k)

theorem voice_namesBuffers (now : Now) (hrx : List Byte) {e g : Engine} (hg : e.closeWindows.Aside g) (h : e.namesBuffers) : (g.voiceFrame now hrx).namesBuffers := by
  have hclosed : e.closeWindows.namesBuffers :=
    foldl_kept (P := Engine.namesBuffers) (g := fun g k => g.closeWindow k) (fun g k hg => (closeWindow_beside k g).namesBuffers namesAt_closeWindow hg)
      (e.sessions.map (fun kx : Nat × Session => kx.1)) h
  exact voiceFrame_names now hrx ((hg.beside 0).namesBuffers hg.namesAt hclosed)

theorem cancelled_not_playing {st : SessState} (h : st.recordLive = true ∨ st = .draining) : st.playLive = false := by
  obtain hl | rfl := h
  · exact live_not_playing hl
  · rfl

/-- Each operation keeps the takes in order. -/
theorem inTakeOrder_ordered : Engine.Ordered Engine.inTakeOrder where
  aside h := (h.beside 0).inTakeOrder h.orderAt
  frozen hf := fun hn => absurd hf hn
  endTake c cap hl := (endTake_beside _ c cap _).inTakeOrder (orderAt_endTake c cap hl)
  cancelTake _ := (cancelTake_beside _ _).inTakeOrder orderAt_cancelTake
  endPlay now c hp := (endPlay_beside now _ c _).inTakeOrder (orderAt_endPlay now c hp)
  free hs := (Engine.Beside.freeSession _ _).inTakeOrder (orderAt_freeSession hs)
  closeWindow k _ := (closeWindow_beside k _).inTakeOrder orderAt_closeWindow
  voice now hrx := voice_inTakeOrder now hrx
  pausing hp := (playsOn_beside rfl rfl (pausing_playsOn _)).inTakeOrder (orderAt_playsOn hp (pausing_playsOn _))
  resuming hp := (playsOn_beside rfl rfl (resuming_playsOn _)).inTakeOrder (orderAt_playsOn hp (resuming_playsOn _))
  seek now c hp := (seekSession_beside now c hp).inTakeOrder (orderAt_seekSession now c hp)
  openRecord now hfree := ((opened_beside _ now _ hfree).trans (startBuffer_beside _ _)).inTakeOrder (orderAt_openRecord hfree)
  openPlay hfree hx := (openPlay_beside hfree hx).inTakeOrder (orderAt_openPlay hfree hx)
  readEnds c hl := (readEnds_beside c hl).inTakeOrder (orderAt_readEnds c hl)
  programDone hl := (programDone_beside hl).inTakeOrder (orderAt_programDone hl)
  programFailed c hl := (programFailed_beside c hl).inTakeOrder (orderAt_programFailed c hl)
  startRead {e} hl h := by
    obtain hsame | ⟨r, q, hq, hstart⟩ := startRead_cases e
    · rw [hsame]
      exact h
    · rw [hstart]
      exact (readStarted_beside hl hq).inTakeOrder (orderAt_readStarted hl hq) h
  startProgram i hl hq h :=
    have hstarted := (programStarted_beside i hl hq).inTakeOrder (orderAt_programStarted i hl hq) h
    ((startProgram_aside _ i _).beside 0).inTakeOrder (startProgram_aside _ i _).orderAt hstarted
  storeFull hl hq := ((unheaded_beside hq).trans (storeFull_beside _ _)).inTakeOrder (orderAt_storeFull hl hq)

/-- Each operation keeps each request at a buffer of its own. -/
theorem namesBuffers_ordered : Engine.Ordered Engine.namesBuffers where
  aside h := (h.beside 0).namesBuffers h.namesAt
  frozen hf := fun hn => absurd hf hn
  endTake c cap hl := (endTake_beside _ c cap _).namesBuffers (namesAt_endTake c cap hl)
  cancelTake hl := (cancelTake_beside _ _).namesBuffers (namesAt_cancelTake (cancelled_not_playing hl))
  endPlay now c _ := (endPlay_beside now _ c _).namesBuffers (namesAt_endPlay now c)
  free hs := (Engine.Beside.freeSession _ _).namesBuffers (namesAt_freeSession hs)
  closeWindow k _ := (closeWindow_beside k _).namesBuffers namesAt_closeWindow
  voice now hrx := voice_namesBuffers now hrx
  pausing _ := (playsOn_beside rfl rfl (pausing_playsOn _)).namesBuffers (namesAt_playsOn (pausing_playsOn _))
  resuming _ := (playsOn_beside rfl rfl (resuming_playsOn _)).namesBuffers (namesAt_playsOn (resuming_playsOn _))
  seek now c hp := (seekSession_beside now c hp).namesBuffers (namesAt_seekSession now c hp)
  openRecord now hfree := ((opened_beside _ now _ hfree).trans (startBuffer_beside _ _)).namesBuffers (namesAt_openRecord hfree)
  openPlay hfree hx := (openPlay_beside hfree hx).namesBuffers (namesAt_openPlay hx)
  readEnds c hl := (readEnds_beside c hl).namesBuffers (namesAt_readEnds c hl)
  programDone hl := (programDone_beside hl).namesBuffers (namesAt_programDone hl)
  programFailed c hl := (programFailed_beside c hl).namesBuffers (namesAt_programFailed c hl)
  startRead {e} hl h := by
    obtain hsame | ⟨r, q, hq, hstart⟩ := startRead_cases e
    · rw [hsame]
      exact h
    · rw [hstart]
      exact (readStarted_beside hl hq).namesBuffers (namesAt_readStarted hl hq) h
  startProgram i hl hq h :=
    have hstarted := (programStarted_beside i hl hq).namesBuffers (namesAt_programStarted i hl hq) h
    ((startProgram_aside _ i _).beside 0).namesBuffers (startProgram_aside _ i _).namesAt hstarted
  storeFull _ hq := ((unheaded_beside hq).trans (storeFull_beside _ _)).namesBuffers (namesAt_storeFull hq)

/-! ## Resets -/

/-- No session is open, and no request is made (R17). -/
structure Engine.Blank (e : Engine) : Prop where
  sessions : e.sessions = []
  slotsIn : e.slotsIn = []
  slotsOut : e.slotsOut = []
  reads : e.ssc.readQueue = []
  programs : e.ssc.progQueue = []
  link : e.ssc.link = .idle

namespace Engine.Blank
variable {e g : Engine}

theorem session (he : e.Blank) (k : Nat) : e.session k = Session.reset := by
  unfold Engine.session
  rw [he.sessions]
  rfl

theorem claims (he : e.Blank) (k : Nat) : e.claims k = { flight := none, reading := none, programs := [], reads := [] } := by
  unfold Engine.claims Ssc.claims
  rw [he.link, he.reads, he.programs]
  rfl

theorem inTakeOrder (he : e.Blank) : e.inTakeOrder := by
  refine (inTakeOrder_iff_inOrder e).2 fun _ => ⟨⟨?_, ?_, ?_, fun n k hn => ?_, fun n k hn => ?_, fun k _ => ?_⟩, fun k => ?_⟩
  · rw [he.slotsIn]; rfl
  · rw [he.slotsOut]; rfl
  · rw [he.sessions]; rfl
  · rw [he.slotsIn] at hn
    cases hn
  · rw [he.slotsOut] at hn
    cases hn
  · rw [he.session]
    exact ⟨rfl, rfl⟩
  · refine orderAt_of_idle ⟨fun b hb => ?_, by rw [he.claims]; rfl⟩ (by rw [he.session]; rfl)
    rw [he.session] at hb
    unfold Session.buf at hb
    split at hb
    · cases hb
    · cases hb

theorem namesBuffers (he : e.Blank) : e.namesBuffers := by
  refine (namesBuffers_iff e).2 fun _ k => ?_
  rw [he.claims]
  exact ⟨.nil, nofun, nofun⟩

end Engine.Blank

theorem reset_blank (c : Catalogue) (f : Tab Samples) : (Engine.reset c f).Blank := ⟨rfl, rfl, rfl, rfl, rfl, rfl⟩

theorem storeCheck_blank (cause : StartCause) (x : Selects) (c : Catalogue) (f : Tab Samples) : ((Engine.reset c f).storeCheck cause x).Blank := by
  obtain ⟨-, hsessions, hin, hout, -, -, -, -, -, hread, hprog, hlink, -⟩ := storeCheck_spec cause x (Engine.reset c f) _ rfl rfl rfl
  exact ⟨hsessions, hin, hout, hread, hprog, hlink⟩

/-- A command that resets the part leaves it as it was or blank. -/
theorem resets_blank {c : Instr} {s t : State} (hc : resets c = true) (hex : exec c s = .next t) : t.eng = s.eng ∨ t.eng.Blank := by
  cases c <;> cases hc
  case powerOn x low =>
    cases hex
    cases low
    · exact .inr (storeCheck_blank _ x _ _)
    · exact .inr ⟨rfl, rfl, rfl, rfl, rfl, rfl⟩
  case restartReset x =>
    cases hex
    obtain hsame | hreset := restartReset_eng x s
    · exact .inl hsame
    · refine .inr ?_
      rw [hreset]
      exact storeCheck_blank _ x _ _

/-- What each operation and a reset keep, each step keeps. -/
theorem step_ordered {P : Engine → Prop} (hP : Engine.Ordered P) (hblank : ∀ {e : Engine}, e.Blank → P e) {s t : State} (h : P s.eng)
    (hst : Machine.step s = .next t) : P t.eng := by
  refine hP.step h (fun c rest _ hc hex => ?_) hst
  obtain hsame | hb := resets_blank hc hex
  · rw [hsame]
    exact h
  · exact hblank hb

/-- Settles O36. -/
theorem everyStepKeepsTheTakesInOrder : Obligations.EveryStepKeepsTheTakesInOrder :=
  have hreset : State.reset.eng.Blank := reset_blank _ _
  ⟨⟨hreset.inTakeOrder, hreset.namesBuffers⟩, fun _ _ => step_ordered inTakeOrder_ordered Engine.Blank.inTakeOrder,
    fun _ _ => step_ordered namesBuffers_ordered Engine.Blank.namesBuffers⟩

end Sys2Proof.Machine
